-- ==== Sys2Proof/Word.lean ====
section
/-!
DEFINITION. The word types of the VQ7680 model: bytes, 32-bit register words and byte strings (R9, R14).
-/
namespace Sys2Proof

/-- One byte of a wire format or of a memory. -/
abbrev Byte := BitVec 8

/-- One 32-bit register word (R14). -/
abbrev Word := BitVec 32

/-- A byte string: a payload, a frame body, an item value. -/
abbrev Bytes := List Byte

end Sys2Proof
end

