-- ==== Sys2Proof/Syntax.lean ====
section
/-!
DEFINITION. The commands of the VQ7680 as a block: what its surroundings and its own clocked events can do to it.
-/
namespace Sys2Proof

/-- What a PLC segment's AFE and carrier stage delivered of a received frame, before its frame control and payload
(R122-R142). -/
structure PlcSig where
  /-- TAI nanoseconds of the first preamble sample. -/
  t : Nat
  /-- Samples of AFE_RX since the last frame that precede this one's preamble, and in `samples` they and the frame's own,
  before the Breakwater (R139). -/
  lead : Nat
  samples : List Int
  /-- Per-group channel magnitude of the preamble, in dB (R142). -/
  chan : List (Nat × Int)
  /-- SNR observations: payload symbol, 0 for the preamble, group, and 1/8 dB (R136). -/
  snr : List (Nat × Nat × Int)
  deriving DecidableEq, Repr

/-- A frame received on a PLC segment (R122-R142). -/
structure PlcRx extends PlcSig where
  /-- The 72 bits of frame control (Table 5-3). -/
  fc : Nat
  /-- Soft values of the payload's coded bits in stream order, positive for 0 (R127, R128). -/
  llr : List Int
  deriving DecidableEq, Repr

/-- The AFE link of a PLC segment at the end of a millisecond: sync-header lock and CRC-12 errors in it (R158). -/
structure PlcLink where
  seg : Nat
  locked : Bool
  crcErrors : Nat
  deriving DecidableEq, Repr

/-- A frame received on a radio channel, in sensor or wide mode (R166, R175, R262). -/
structure RadioRx where
  /-- TAI nanoseconds of the first preamble bit. -/
  t : Nat
  /-- Measured channel power over the preamble, in dBFS; none when unknown. -/
  rssi : Option Int
  /-- The demodulated bits after the preamble, in order: sync word, then the whitened header, body and CRC. -/
  air : List Bool
  deriving DecidableEq, Repr

/-- A satellite that the baseband receives (R297): its system (0 GPS, 1 Galileo, 2 BeiDou), its elevation in 0.001°, and whether it is
seen on the L5 band too. -/
structure GnssSat where
  sys : Nat
  elev : Int
  both : Bool
  deriving DecidableEq, Repr

/-- What the GNSS baseband observed in one second (R289, R297). -/
structure GnssSol where
  /-- A valid time solution. -/
  valid : Bool
  /-- rms residual in 0.1 ns. -/
  rms : Nat
  /-- The system whose time the solution gives: 0 GPS, 1 Galileo, 2 BeiDou (R286). -/
  sys : Nat
  /-- Its time in ns, and the timebase in ns at the same instant. -/
  t : Nat
  at' : Nat
  used : Nat
  dual : Bool
  /-- Satellites whose signals the baseband holds. -/
  sats : List GnssSat
  cn0 : Nat
  /-- Signals acquired in this second. -/
  acquired : Nat
  /-- Navigated ECEF position in 0.1 mm. -/
  pos : List Int
  /-- TAI − UTC that navigation data gives, if any, and a leap second that it announces: the TAI second from which the new TAI − UTC
  holds, and that offset (R286). -/
  utc : Option Nat
  leap : Option (Nat × Nat)
  deriving DecidableEq, Repr

/-- A PTP message received on a port (R301, R303). -/
structure PtpRx where
  mtype : Nat
  domain : Nat
  seq : Nat
  /-- sourcePortIdentity, and requestingPortIdentity where the message has one. -/
  sender : Nat
  requester : Nat
  twoStep : Bool
  /-- correctionField, in 2⁻¹⁶ ns. -/
  correction : Int
  /-- originTimestamp, receiveTimestamp or preciseOriginTimestamp in ns. -/
  time : Nat
  /-- Timestamp of its message timestamp point, in timebase ns and 2⁻¹⁶ ns. -/
  at' : Nat
  frac : Nat
  priority1 : Nat
  cls : Nat
  accuracy : Nat
  variance : Nat
  priority2 : Nat
  gm : Nat
  steps : Nat
  utc : Nat
  /-- timeSource and ptpTimescale of an Announce. -/
  source : Nat
  timescale : Bool
  deriving DecidableEq, Repr

/-- One metrology second as the converters and the sensor beside them give it (R202): a 24-bit code per sample. -/
structure MetroSec where
  /-- METRO_V_1..3 and METRO_I_1..3; 8,000 samples unless a step cut the second. -/
  v : List (List Int)
  i : List (List Int)
  neutral : List Int
  /-- Frequency in mHz, from the crossings. -/
  freq : Nat
  /-- Die temperature in 0.01 °C. -/
  temp : Int
  deriving DecidableEq, Repr


/-- Where scrub or patrol found an uncorrectable error (Table 1-10). -/
inductive ScrubAt where
  /-- The local store of a tug. -/
  | tugStore (tug : Nat)
  /-- The working area of a dock's memory (R78). -/
  | dockWork (dock : Nat)
  /-- A stage page of a dock's memory, and the tally slot that owns it (R78). -/
  | stagePage (dock slot : Nat)
  /-- A harbour SRAM line that holds an endpoint record. -/
  | harbour (epx : Nat)
  /-- A harbour SRAM line that holds the n-th entry of the derived-key cache (R318). -/
  | harbourKey (n : Nat)
  /-- Customs SRAM: the state of an EPX; 0xFFFFFF the site record. -/
  | customs (epx : Nat)
  /-- A signal buffer: segment and position of the tone map. -/
  | signal (seg pos : Nat)
  /-- A signal buffer: the frame of a radio channel that awaits its response. -/
  | radioFrame (port chan : Nat)
  /-- A signal buffer: the k-th packet of a signal FIFO. -/
  | packet (fifo k : Nat)
  /-- A record of the Logbook buffer, by number. -/
  | logbook (seq : Nat)
  /-- A copy of a key slot in the Bonded Store SRAM. -/
  | bonded (slot copy : Nat)
  /-- An endpoint record in DDR-5. -/
  | epRecord (epx : Nat)
  /-- A billing record in DDR-5. -/
  | billing (epx : Nat)
  deriving DecidableEq, Repr

/-- An uncorrectable error: where it is and its word address (R30). -/
structure ScrubErr where
  at' : ScrubAt
  addr : Nat
  deriving DecidableEq, Repr

/-- What a boot finds outside the device, and how its images fare (R450). -/
structure BootIn where
  /-- DDR-5 found at training, in MiB. -/
  ddrMiB : Nat
  /-- DDR-5 that a reset did not retain came up as zeros. -/
  ddrZero : Bool
  /-- The NAND array as its ONFI parameter pages give it (R329). -/
  luns : Nat
  ppb : Nat
  bpl : Nat
  good : Bool
  /-- Blocks that the factory marked bad, each as LUN × 65,536 + block (R344). -/
  factory : List Nat
  /-- Codewords of programmed pages that no longer decode: block, page of the block and codeword (R330, R345). -/
  nandBad : List (Nat × Nat × Nat)
  /-- Ten packages that something outside the device programmed into the boot NOR: per code its A and B slots; empty
  when nothing did. -/
  nor : List Bytes
  /-- Slot copies that fail their tag (R312, R326). -/
  tagBad : List (Nat × Nat)
  /-- Boot stage 1 verified and ran: from the slot tried first, and from the former one where a trial reverts (R395). -/
  stage1 : Bool
  former1 : Bool
  /-- Tugs that fail the boot self-test: on the tug image tried first, and on the former one where a trial reverts. -/
  tugFail : List Nat
  formerFail : List Nat
  /-- The section whose write fails in APPLY of the first and of the second copy of the plan, by tag (Table 2-10). -/
  fault0 : Option Nat
  fault1 : Option Nat
  /-- The time from the reset's release to in_service, in ms. -/
  ms : Nat
  /-- Regions of keepalive SRAM whose CRC fails at this start, numbered as Table 18-7 lists them: 0 the header, 1 Time, 2 Duty, 3 Survey,
  4 Claim, 5 Panel, 6 Calibration, 7 Hibernate, 8 Wharf (R461). -/
  kaBad : List Nat
  deriving DecidableEq, Repr

/-- What a fold read (R335): the logical block, the codewords of its pages that did not decode, each as logical page × 8 + codeword, and
that every copied page reads back through the ECC. -/
structure FoldRead where
  lblk : Nat
  bad : List Nat
  verified : Bool
  deriving DecidableEq, Repr

/-- The commands of the block: one constructor per row of spec/opcode_table.json, in the table's order. A row's
operands are what its event carries from outside: the word written, the frame received, the instant or the outcome. -/
inductive Instr where
  /-- REGISTER_WRITE (R11): A host write to a register that has no row of its own sets the value, clears or sets bits, or is ignored, as its access code defines. -/
  | registerWrite (addr : Nat) (data : Bytes)
  /-- INT_REGISTER_WRITE (R409): A write to an INT register clears bits, and the block's MSI-X vector is sent again if any enabled bit still reads 1. -/
  | intRegisterWrite (addr : Nat) (val : Word)
  /-- PORST_N (R446): PORST_N held low for at least 10 µs resets the device with full scope, Customs included. -/
  | porstN (core : Bool) (sram : Bool) (off : Option Nat)
  /-- SYSRST_N (R446): SYSRST_N held low for at least 1 µs resets the device with the SYSRST_N scope; the reset waits for any commit in progress. -/
  | sysrstN
  /-- WATCHDOG_RESET (R448): The device watchdog expires after timeout_ms without a kick, and the watchdog reset is taken. -/
  | watchdogReset
  /-- WATCHDOG_HALF (R448): Half of the watchdog timeout passes without a kick, and PWR.INT.wdt_warn is set. -/
  | watchdogHalf
  /-- WATCHDOG_KICK (R448): A write of 0xC35A to PWR.WDT_KICK restarts the watchdog; any other value is ignored. -/
  | watchdogKick (val : Word)
  /-- PWR_CMD_RESET (R446): PWR.CMD RESET takes a plan-requested reset; it is held during a last-gasp sequence and discarded at POWER_DOWN. -/
  | pwrCmdReset
  /-- REFCLK_LOSS (R449): The root PLL is out of lock for 10 µs, and the device is held in a reset with PORST_N scope until the PLL has been locked for 1 ms. -/
  | refclkLoss
  /-- BROWNOUT_RESTART (R459): After POWER_DOWN, PWRFAIL_N deasserted and HOLDUP_OK high together for 100 ms start a reset with PORST_N scope. -/
  | brownoutRestart
  /-- BOOT (R450): When a reset releases, the device runs the boot steps in order: PLL lock, key load, wipes, DDR-5 training, zero-fill, NAND identification, stage 1, loader, images, self-test and function start. -/
  | boot (b : BootIn)
  /-- PCIE_RESET (R408): A hot reset, a link-down or PCIE_PERST_N resets only the PCIe endpoint and its configuration space. -/
  | pcieReset
  /-- APPLY_DELTA (R50): PLAN.CMD APPLY_DELTA fetches a delta from host memory and checks it in DELTA_CHECK, or refuses it and sets delta_fail. -/
  | applyDelta (data : Bytes)
  /-- DELTA_SECTION_APPLY (R51): When the affected function reaches its quiescent point, the loader applies one delta section and reopens the function. -/
  | deltaSectionApply
  /-- COMMIT_EPOCH (R42): PLAN.CMD COMMIT_EPOCH raises the plan-epoch floor to the running epoch when the loader is SEALED and the epoch exceeds the floor. -/
  | commitEpoch
  /-- DMA_FIFO_PACKET (R421): A hardware DMA channel takes a whole packet from its signal FIFO, copies it to a payload buffer and pulses the Harbourmaster. -/
  | dmaFifoPacket (fifo : Nat)
  /-- ADMISSION_UPDATE (R117): Every 100 µs the admission level A moves up or down by one from the queue load. -/
  | admissionUpdate
  /-- BACKPRESSURE_HOLD_END (R118): bp_hold ms pass since the last shed or refusal on a source, and its back-pressure ends. -/
  | backpressureHoldEnd (cls : Nat) (idx : Nat)
  /-- TUG_DISPATCH (R65): An idle tug takes the next eligible manifest from a home berth or by stealing, and the manifest is given a tally slot. -/
  | tugDispatch (tug : Nat)
  /-- TUG_WATCHDOG_EXPIRE (R57): A manifest runs for four times its kind's budget, and the tug fails. -/
  | tugWatchdogExpire (tug : Nat)
  /-- TUG_FAILURE (R76): A tug that hits an uncorrectable ECC error is fenced, and its manifest returns to its berth with retry + 1. -/
  | tugFailure (tug : Nat) (cause : Nat)
  /-- TALLY_RELEASE (R73): When a manifest is complete, in flow order and with room at every destination, the tally gate releases it and commits or discards its stage buffer. -/
  | tallyRelease (slot : Nat)
  /-- DL_POP (R63): HM.DL_POP removes the head entry of the dead-letter berth. -/
  | dlPop
  /-- TUG_SELFTEST_CMD (R79): TUG.SELFTEST_CMD starts a self-test of a fenced tug, or of every fenced tug in turn. -/
  | tugSelftestCmd (val : Word)
  /-- TUG_SELFTEST_DONE (R79): A commanded self-test ends, the tug returns to service or stays fenced, and SELFTEST_RESULT is written. -/
  | tugSelftestDone (pass : Bool)
  /-- FUNCTION_ENABLE (R81): A write of 1 to a function enable, or to its alias, while the function is OFF starts the function. -/
  | functionEnable (fn : Nat)
  /-- FUNCTION_DISABLE (R82): A write of 0 to a function enable closes intake and starts a drain under the function's DRAIN or ABANDON policy. -/
  | functionDisable (fn : Nat)
  /-- ABANDON_NOW (R83): A write of 1 to abandon_now during BUSY_DRAIN converts the drain to ABANDON at once. -/
  | abandonNow (fn : Nat)
  /-- DRAIN_TIMEOUT (R82): A drain still has manifests after timeout ms, converts to ABANDON, sets drain_timeout and is logged. -/
  | drainTimeout (fn : Nat)
  /-- FUNCTION_OFF (R82): The last manifest of a draining function is released, the state becomes OFF and the enable reads 0. -/
  | functionOff (fn : Nat)
  /-- DOORBELL_RING (R410): A DB_COUNT write starts the fetch of 1 to 64 host manifests for a berth. -/
  | doorbellRing (berth : Nat) (count : Nat)
  /-- DOORBELL_ENTRY (R411): Fetched host manifests and their buffers are copied in, checked and offered to the berth in order, stopping at the first one not accepted. -/
  | doorbellEntry (berth : Nat) (ok : Bool) (man : Bytes) (buf : Bytes)
  /-- FRAME_IN (R104): A FRAME_IN checks state, record_lost, length and epoch, then stages OPEN, or stages UP_ENV in worker role. -/
  | frameIn (slot : Nat)
  /-- OPEN (R104): OPEN fetches the key and decrypts and verifies the CCM envelope, then stages REPLAY with the plaintext buffer. -/
  | openEnv (slot : Nat)
  /-- REPLAY (R100): REPLAY checks the counter against the window, handles a link move and stages the record write-back and its follow-ons. -/
  | replay (slot : Nat)
  /-- VEE (R108): VEE parses the reading records, applies the rules, estimation and editing, and stages the write-back and its follow-ons. -/
  | vee (slot : Nat)
  /-- TARIFF (R212): TARIFF builds the Customs hand-off and stages it. -/
  | tariff (slot : Nat)
  /-- PROFILE (R111): PROFILE builds the profile append and stages it to the store. -/
  | profile (slot : Nat)
  /-- REJOIN (R101): REJOIN judges a JOIN against the record state and epoch, and on acceptance stages the record, JOIN_ACCEPT and a JOIN host message. -/
  | rejoin (slot : Nat)
  /-- ALARM (R492): An ALARM manifest stages its payload unchanged as a host message. -/
  | alarm (slot : Nat)
  /-- HOST_MSG (R491): A HOST_MSG manifest stages its notice or INSTALL message to a completion ring. -/
  | hostMsg (slot : Nat)
  /-- TELEMETRY (R28): A TELEMETRY manifest stages the device telemetry to the host. -/
  | telemetry (slot : Nat)
  /-- SCRUB_REPORT (R30): A SCRUB_REPORT manifest reports a scrub error or a completed scrub pass. -/
  | scrubReport (slot : Nat)
  /-- LOG_SNAP (R381): A LOG_SNAP manifest stages a Logbook record with the snapshot list named in its kind_arg. -/
  | logSnap (slot : Nat)
  /-- PANEL_UPDATE (R435): A PANEL_UPDATE stages the panel target row, or stages it unchanged for a readout refresh. -/
  | panelUpdate (slot : Nat)
  /-- CMD_CONNECT (R112): A COMMAND of op CONNECT is stored as a pending entry, subject to the conflict rule. -/
  | cmdConnect (slot : Nat)
  /-- CMD_DISCONNECT (R112): A COMMAND of op DISCONNECT is stored as a pending entry, subject to the conflict rule. -/
  | cmdDisconnect (slot : Nat)
  /-- CMD_TARIFF_PUSH (R112): A COMMAND of op TARIFF_PUSH stores a display-tariff argument as a pending entry. -/
  | cmdTariffPush (slot : Nat)
  /-- CMD_READ (R112): A COMMAND of op READ stores a pending register read for the endpoint. -/
  | cmdRead (slot : Nat)
  /-- CMD_DLMS (R112): A COMMAND of op DLMS stores a downlink APDU as a pending entry, outside the conflict rule. -/
  | cmdDlms (slot : Nat)
  /-- CMD_CANCEL (R116): A COMMAND of op CANCEL ends the named unissued entry with CANCELLED and reports DONE. -/
  | cmdCancel (slot : Nat)
  /-- CMD_PROVISION (R112): A COMMAND of op PROVISION creates or rebuilds a record as PROVISIONED with its link fields. -/
  | cmdProvision (slot : Nat)
  /-- CMD_DEPROVISION (R112): A COMMAND of op DEPROVISION retires the record, clears its link and cancels its pending entries. -/
  | cmdDeprovision (slot : Nat)
  /-- CMD_ISSUE (R116): An ISSUE manifest expires old entries and stages one COMMAND downlink with the entries of closed windows, or a CONFIRM. -/
  | cmdIssue (slot : Nat)
  /-- LINK_EVENT_SEARCH (R182): LINK_EVENT 1 sets link_state SEARCH in a record that still holds the entry and stages a host message. -/
  | linkEventSearch (slot : Nat)
  /-- LINK_EVENT_RELEASED (R182): LINK_EVENT 2 sets position 0xFFFF in a record that still holds the entry and stages a host message. -/
  | linkEventReleased (slot : Nat)
  /-- LINK_EVENT_RESUMED (R182): LINK_EVENT 3 sets link_state UP in a record that still holds the entry and stages a host message. -/
  | linkEventResumed (slot : Nat)
  /-- LINK_EVENT_PLACED (R182): LINK_EVENT 4 writes the radio link fields and removes the endpoint's entry on its former link. -/
  | linkEventPlaced (slot : Nat)
  /-- LINK_EVENT_SCHED (R182): LINK_EVENT 5 stages a DOWN carrying LINK_PARAM. -/
  | linkEventSched (slot : Nat)
  /-- LINK_EVENT_WORKER_LOST (R354): LINK_EVENT 6 sets link_state WORKER_LOST in the records of the lost worker. -/
  | linkEventWorkerLost (slot : Nat)
  /-- LINK_EVENT_WORKER_BACK (R354): LINK_EVENT 7 sets link_state UP in the records of the worker that has returned. -/
  | linkEventWorkerBack (slot : Nat)
  /-- ENDPOINT_RECORD_READ (R121): EP.RD_CMD go returns one committed snapshot of a record into RD_DATA. -/
  | endpointRecordRead (val : Word)
  /-- PLC_CYCLE_START (R144): At the nominal start of a segment cycle, the mode and routes are evaluated and the BEACON is sent. -/
  | plcCycleStart (seg : Nat)
  /-- PLC_POLL_EXCHANGE (R144): After the idle gap the segment sends the next POLL, DATA_DOWN or refresh SOUND in poll order. -/
  | plcPollExchange (seg : Nat)
  /-- PLC_REPLY_RECEIVED (R140): A DATA_UP or SOUND reply is decoded and acknowledged, or fails and is attributed to a window. -/
  | plcReplyReceived (seg : Nat) (rx : PlcRx)
  /-- PLC_NULL_UP_RECEIVED (R146): A NULL_UP reply ends the exchange without acknowledgement. -/
  | plcNullUpReceived (seg : Nat) (rx : PlcRx)
  /-- PLC_REPLY_MISSING (R146): The reply deadline passes without a reply, and the poll counts as a failed attempt. -/
  | plcReplyMissing (seg : Nat)
  /-- PLC_CONTEND_RECEIVED (R151): A CONTEND in the contention window is acknowledged, and its REQ or INSTALL envelope is taken. -/
  | plcContendReceived (seg : Nat) (sig : PlcSig) (fc : Nat) (llr : List Int)
  /-- PLC_CONTENTION_WINDOW (R151): The last cw_ms of the cycle begin, and polls pause until the window ends. -/
  | plcContentionWindow (seg : Nat) (opens : Bool)
  /-- ZERO_CROSSING (R205): The metrology front end detects a voltage zero crossing and delivers it to the PLC segments. -/
  | zeroCrossing (phase : Nat) (t : Nat)
  /-- PLC_ZC_LOST (R132): No crossing is accepted for 3 × T_half, so the segment generates its own crossings and sets zc_free. -/
  | plcZcLost (seg : Nat)
  /-- PLC_LINK_DOWN (R158): AFE_RX loses lock or shows CRC errors, and the segment stops transmitting and logs the loss. -/
  | plcLinkDown (link : PlcLink)
  /-- PLC_LINK_RETRY (R158): Every 10 ms a segment whose link is down retries bring-up. -/
  | plcLinkRetry (seg : Nat) (up : Bool)
  /-- PLC_ENTRY_READ (R161): PLC.ENTRY_CMD go with set 0 reads a poll-table position into ENTRY_STATUS. -/
  | plcEntryRead (seg : Nat) (val : Word)
  /-- PLC_ENTRY_SET (R161): PLC.ENTRY_CMD go with set 1 writes a position's poll class. -/
  | plcEntrySet (seg : Nat) (val : Word)
  /-- PLC_SOUND_NOW (R137): A write to SEG_CTL.sound_now makes every link of the segment due for refresh. -/
  | plcSoundNow (seg : Nat)
  /-- RADIO_SUPERFRAME_START (R168): A sensor superframe boundary is reached; the port starts when its conditions hold, or continues. -/
  | radioSuperframeStart (port : Nat)
  /-- RADIO_BEACON_SLOT (R172): In a beacon slot the port sends the beacon or mini-beacon on every enabled channel, or skips it. -/
  | radioBeaconSlot (port : Nat) (group : Nat)
  /-- RADIO_FRAME_RECEIVED (R175): A received sensor frame is matched to an entry occurrence or an access slot, or dropped as unslotted. -/
  | radioFrameReceived (port : Nat) (chan : Nat) (rx : RadioRx)
  /-- RADIO_RESPONSE (R177): 1,000 µs after a matched uplink the port sends a DOWN, an ACK or nothing. -/
  | radioResponse (port : Nat) (chan : Nat)
  /-- RADIO_OCCURRENCE_MISSED (R181): An occurrence ends with no matched frame, and the entry moves toward SEARCH or release. -/
  | radioOccurrenceMissed (port : Nat) (chan : Nat) (slot : Nat) (phase : Nat)
  /-- RADIO_ENTRY_READ (R184): RADIO.ENTRY_CMD READ returns the entry at a slot, channel and phase. -/
  | radioEntryRead (port : Nat) (val : Word)
  /-- RADIO_ENTRY_PLACE (R184): RADIO.ENTRY_CMD PLACE creates an entry, queues an ASSIGN and raises LINK_EVENT PLACED. -/
  | radioEntryPlace (port : Nat) (val : Word)
  /-- RADIO_ENTRY_SCHED (R184): RADIO.ENTRY_CMD SCHED sets a new width, period and phase for an entry. -/
  | radioEntrySched (port : Nat) (val : Word)
  /-- METRO_SECOND (R203): At each TIME second the front end accumulates energy and publishes RMS, power and frequency values. -/
  | metroSecond (m : MetroSec)
  /-- GRID_BOUNDARY (R224): At each grid boundary Customs closes intervals, closes the period if due, activates a pending calendar and opens the next interval. -/
  | gridBoundary
  /-- DEMAND_SUBINTERVAL_END (R221): With SLIDING demand, each 180 s sub-interval end registers demand over the last 5 sub-intervals. -/
  | demandSubintervalEnd
  /-- CUSTOMS_APPLY_READINGS (R213): Customs applies a READINGS hand-off: duplicate guard, rating, demand, registers, tamper, profile and reseal. -/
  | customsApplyReadings
  /-- CUSTOMS_APPLY_OPEN (R214): Customs applies an OPEN hand-off, writing a fresh billing record. -/
  | customsApplyOpen
  /-- CUSTOMS_APPLY_CLOSE (R214): Customs applies a CLOSE hand-off, writing a final PERIOD record and emptying the record. -/
  | customsApplyClose
  /-- CUSTOMS_SLEW_DONE (R208): The Customs residual r reaches 0, and C runs at TB's rate again. -/
  | customsSlewDone
  /-- LOCKSTEP_MISMATCH (R199): The Customs cores disagree, so the domain restarts from ROM, or enters HALTED at the third mismatch in 24 h. -/
  | lockstepMismatch
  /-- CUSTOMS_ROM_RESTART (R199): The Customs domain finishes its restart from ROM and reapplies the hand-off at the head of the mailbox. -/
  | customsRomRestart
  /-- SITE_TAMPER_EVENT (R231): A debounced site tamper edge or condition updates the tamper record and raises a TAMPER alarm. -/
  | siteTamperEvent (kind : Nat)
  /-- BILLING_SWEEP (R234): Every sweep_min minutes Customs writes COPY records of changed billing records and snapshots untouched ones after a close. -/
  | billingSweep
  /-- CUSTOMS_RESTORE (R235): After PORST_N or power loss, Customs restores the site record and the billing region and processes the missed boundaries. -/
  | customsRestore
  /-- CUSTOMS_RESTORE_DONE (R235): RESTORING ends, waiting hand-offs are applied and restore_done is set. -/
  | customsRestoreDone
  /-- METRO_OFFSET_CALIBRATION (R206): Every 3,600 s at a quarter-hour boundary, the metrology offsets are calibrated using one sample period. -/
  | metroOffsetCalibration
  /-- MBX_READ_BILLING (R239): The READ_BILLING mailbox command returns a verified billing record. -/
  | mbxReadBilling
  /-- MBX_READ_PERIOD (R239): The READ_PERIOD mailbox command returns a PERIOD record from the partition. -/
  | mbxReadPeriod
  /-- MBX_READ_PROFILE (R239): The READ_PROFILE mailbox command returns the profile entries of one channel. -/
  | mbxReadProfile
  /-- MBX_CAL_USER (R239): The CAL_USER mailbox command applies signed user calibration, or its restore form, and journals it. -/
  | mbxCalUser (blob : Bytes)
  /-- REF_MINUTE_DUE (R249): At each TAI minute the balance function creates a REF manifest. -/
  | refMinuteDue
  /-- HOUR_DUE (R250): settle_min after a TAI hour ends, the HOUR manifests of each group are created. -/
  | hourDue
  /-- TOPO_DUE (R252): settle_min after a TAI day ends, the TOPO manifests of each group are created. -/
  | topoDue
  /-- BALANCE_SERIES (R248): SERIES adds a meter's interval energy and voltage sums to its member row, or to the group reference. -/
  | balanceSeries (slot : Nat)
  /-- BALANCE_REF (R249): REF stages the site metrology minute summary into the site block. -/
  | balanceRef (slot : Nat)
  /-- BALANCE_HOUR (R250): An HOUR part sums its members, and the last part evaluates the group's hourly balance and state. -/
  | balanceHour (slot : Nat)
  /-- BALANCE_TOPO (R252): TOPO correlates each bound row with its candidates and stages a report when the result changes. -/
  | balanceTopo (slot : Nat)
  /-- BALANCE_SET (R260): A SET manifest carries out SET_FLAGS, SET_BASE or UNBIND on the group flow. -/
  | balanceSet (slot : Nat)
  /-- BAL_QUERY_GROUP (R260): BAL.QUERY_CMD GROUP returns a snapshot of a group's state. -/
  | balQueryGroup (val : Word)
  /-- BAL_QUERY_MEMBER (R260): BAL.QUERY_CMD MEMBER returns a snapshot of an endpoint's member row. -/
  | balQueryMember (val : Word)
  /-- BAL_SET_FLAGS (R260): BAL.QUERY_CMD SET_FLAGS creates a SET manifest that writes the prosumer flag. -/
  | balSetFlags (val : Word)
  /-- BAL_SET_BASE (R260): BAL.QUERY_CMD SET_BASE creates a SET manifest that restores a group baseline. -/
  | balSetBase (val : Word)
  /-- BAL_UNBIND (R260): BAL.QUERY_CMD UNBIND creates a SET manifest that unbinds a member row. -/
  | balUnbind (val : Word)
  /-- CRAFT_SUPERFRAME_START (R261): A craft superframe starts: the beacon is latched and sent, and ALLOT is created every tenth superframe. -/
  | craftSuperframeStart
  /-- CRAFT_DOWNLINK (R261): At 2 ms the port sends C_STOP, C_CORR fragments and queued C_ORDER and C_ACK frames back to back. -/
  | craftDownlink
  /-- C_STATUS_RECEIVED (R262): A C_STATUS accepted in its uplink slot creates a LANE_CHECK STATUS manifest. -/
  | cStatusReceived (k : Nat) (rx : RadioRx)
  /-- C_ALARM_RECEIVED (R262): A C_ALARM accepted in the guard is acknowledged and creates an ALARM manifest. -/
  | cAlarmReceived (rx : RadioRx)
  /-- LANE_STATUS (R272): STATUS updates the craft row, decides lane requests and handles task completion or loss. -/
  | laneStatus (slot : Nat)
  /-- LANE_ORDER (R273): ORDER stores a host GO, HOLD or RELEASE as a pending order, subject to the conflict rule. -/
  | laneOrder (slot : Nat)
  /-- LANE_TASK (R273): TASK adds a task to the queue or cancels one. -/
  | laneTask (slot : Nat)
  /-- LANE_ISSUE (R273): ISSUE decides the pending orders of the closed window and stages C_ORDER items. -/
  | laneIssue (slot : Nat)
  /-- LANE_ALLOT (R273): ALLOT gives queued tasks to eligible craft unless all-stop or stale corrections forbid it. -/
  | laneAllot (slot : Nat)
  /-- CRAFT_LOST (R272): A craft with no accepted C_STATUS for lost_sf superframes becomes LOST. -/
  | craftLost (craft : Nat)
  /-- GNSS_EPOCH_OBSERVATIONS (R266): The GNSS baseband delivers a second's observations, and the craft function creates an RTK_EPOCH manifest. -/
  | gnssEpochObservations (obs : Bytes)
  /-- RTK_EPOCH (R266): RTK_EPOCH stages the RTCM epoch into the correction queue. -/
  | rtkEpoch (slot : Nat)
  /-- BASE_SURVEY_DONE (R264): The base survey meets survey_s and survey_mm, and the base position becomes READY. -/
  | baseSurveyDone
  /-- STOP_IN_CHANGE (R276): STOP_IN_N has been low or high for 20 µs, and the STOP_IN source becomes active or inactive. -/
  | stopInChange (low : Bool)
  /-- STOP_CMD_STOP (R276): A STOP_CMD.stop write activates the HOST source. -/
  | stopCmdStop
  /-- STOP_CMD_RELEASE (R276): A STOP_CMD.release write deactivates the HOST source. -/
  | stopCmdRelease
  /-- STOP_CMD_CLEAR (R279): A STOP_CMD.clear write with no source active ends all-stop and increments stop_epoch. -/
  | stopCmdClear
  /-- CRAFT_QUERY (R283): CRAFT.Q_CMD go returns a snapshot of a craft row. -/
  | craftQuery (val : Word)
  /-- TIME_SECOND (R288): At every TIME second the device publishes TIME_UNC and FREQ_UNC, updates quality and copies the keepalive count. -/
  | timeSecond
  /-- GNSS_SOLUTION (R289): A one-second GNSS solution, or its absence, advances GNSS toward LOCKED or LOST. -/
  | gnssSolution (g : GnssSol)
  /-- GNSS_ANT_FAULT (R289): GNSS_ANT_FAULT reports an antenna fault, and GNSS becomes LOST. -/
  | gnssAntFault (fault : Bool)
  /-- PTP_MESSAGE_RECEIVED (R301): A PTP message is diverted to the PTP engine, timestamped and processed. -/
  | ptpMessageReceived (port : Nat) (rx : PtpRx)
  /-- PTP_MESSAGE_SEND (R301): At its configured interval the engine sends Sync, Announce, Delay_Req or Pdelay_Req. -/
  | ptpMessageSend (port : Nat) (mtype : Nat)
  /-- PTP_ANNOUNCE_TIMEOUT (R289): announceReceiptTimeout expires, and PTP becomes LOST. -/
  | ptpAnnounceTimeout (port : Nat)
  /-- PPS_IN_EDGE (R289): An edge on PPS_IN drives the EXT source, and it is captured when input 8 captures. -/
  | ppsInEdge (ns : Nat) (frac : Nat) (edge : Nat)
  /-- HOLD_OFF_EXPIRE (R290): A higher-priority source has been LOCKED for hold_off_s, and the discipline moves to LOCKING on it. -/
  | holdOffExpire
  /-- TIME_STEP (R292): At the whole second S the timebase steps by e, and every consumer receives the step on that tick. -/
  | timeStep
  /-- SLEW_COMPLETE (R292): The slew residual reaches 0, and slewing clears. -/
  | slewComplete
  /-- SET_TIME (R295): TIME.CMD SET_TIME loads the SET registers as a correction when no source is LOCKED. -/
  | setTime
  /-- PPS_OUT_EDGE (R300): At TAI second + delay, PPS_OUT is driven high for its width. -/
  | ppsOutEdge
  /-- TRIGGER_INSTANT (R304): At a schedule's instant the output pulse is driven and the manifest of its kind is created. -/
  | triggerInstant (sched : Nat)
  /-- CAPTURE_EDGE (R305): A capture input edge is stamped into its queue, or dropped when the queue is full. -/
  | captureEdge (input : Nat) (ns : Nat) (frac : Nat) (edge : Nat)
  /-- CAPT_POP (R307): A TIME.CAPT_POP write removes the head entry of each input it names. -/
  | captPop (val : Word)
  /-- OSC_AGEING_UPDATE (R291): Every 3,600 s while disciplined, the ageing slope is refitted over the last 24 h. -/
  | oscAgeingUpdate
  /-- GNSS_AIDING_SAVE (R298): Every 600 s almanac, ephemeris and the last position are saved in the store. -/
  | gnssAidingSave
  /-- GNSS_GROUP_DELAY_CAL (R297): Every 600 s one tracking channel is lent to group-delay calibration. -/
  | gnssGroupDelayCal
  /-- BOND_CHALLENGE (R314): CHALLENGE draws a 16-byte nonce and sets nonce_valid. -/
  | bondChallenge
  /-- NONCE_EXPIRE (R314): 300 s after it was drawn, the challenge nonce ends. -/
  | nonceExpire
  /-- OWNER_ENTER_SERVICE (R324): The owner-signed ENTER_SERVICE moves DEPLOYED to SERVICE. -/
  | ownerEnterService (blob : Bytes)
  /-- OWNER_RETIRE (R324): The owner-signed RETIRE moves DEPLOYED or SERVICE to RETIRED. -/
  | ownerRetire (blob : Bytes)
  /-- OWNER_LOCK_SET (R323): The owner-signed OWNER_LOCK_SET sets the owner lock. -/
  | ownerLockSet (blob : Bytes)
  /-- OWNER_LOCK_CLEAR (R323): The owner-signed OWNER_LOCK_CLEAR clears the owner lock. -/
  | ownerLockClear (blob : Bytes)
  /-- OWNER_LOAD_WRAPPED (R315): The owner-signed LOAD_WRAPPED unwraps a key into a slot in SERVICE. -/
  | ownerLoadWrapped (blob : Bytes)
  /-- OWNER_ERASE_SLOT (R316): The owner-signed ERASE_SLOT zeroises a slot that is not in use. -/
  | ownerEraseSlot (blob : Bytes)
  /-- OWNER_LOG_CLEAR (R383): The owner-signed LOG_CLEAR clears the circulating Logbook up to clear_to. -/
  | ownerLogClear (blob : Bytes)
  /-- BOND_LOAD_PLAIN (R315): LOAD_PLAIN writes a slot from a host buffer in FACTORY. -/
  | bondLoadPlain (slot : Nat) (buf : Bytes)
  /-- BOND_GENERATE (R315): GENERATE creates a key in a slot from the TRNG. -/
  | bondGenerate (slot : Nat)
  /-- BOND_ERASE_PLAIN (R316): ERASE_PLAIN empties a slot in FACTORY. -/
  | bondErasePlain (slot : Nat)
  /-- BOND_ATTEST (R321): ATTEST writes a COSE_Sign1 attestation statement for a slot to the host buffer. -/
  | bondAttest (slot : Nat) (flags : Nat)
  /-- BOND_SIGN (R322): SIGN signs a SHA-384 digest with a SIGNING slot. -/
  | bondSign (slot : Nat)
  /-- BOND_DEPLOY (R324): DEPLOY moves FACTORY to DEPLOYED. -/
  | bondDeploy (flags : Nat)
  /-- BOND_EXIT_SERVICE (R324): EXIT_SERVICE moves SERVICE to DEPLOYED. -/
  | bondExitService (flags : Nat)
  /-- BOND_RETIRE_FACTORY (R324): RETIRE_FACTORY moves FACTORY to RETIRED. -/
  | bondRetireFactory (flags : Nat)
  /-- STORE_START (R345): At start the store rebuilds its map from checkpoint, journal and page headers, and locates the Customs rings. -/
  | storeStart
  /-- WRITE_CACHE_PAGE_TIMEOUT (R337): A write-cache page that no append has entered for 1 s is padded and programmed. -/
  | writeCachePageTimeout (part : Nat) (page : Nat)
  /-- PAGE_PROGRAM_DONE (R337): A NAND program reports its result, and the page is durable, or retired and programmed again elsewhere. -/
  | pageProgramDone (part : Nat) (ok : Bool)
  /-- FOLD_COMMIT (R335): The fold's copies are verified, the FOLD entry is journaled and the former blocks may be erased. -/
  | foldCommit (part : Nat) (lblk : FoldRead)
  /-- STATIC_WEAR_LEVEL (R342): At most every 10 s per LUN, the coldest data block is relocated when erase counts differ by more than wl_delta. -/
  | staticWearLevel (lun : Nat)
  /-- NAND_PATROL (R342): Patrol reads written pages and relocates blocks whose corrected bits exceed refresh_bits. -/
  | nandPatrol (lun : Nat) (blk : Nat) (worst : Nat) (corrected : Nat) (bad : List Nat)
  /-- STORE_READ (R339): STORE.CMD READ copies one decrypted logical page of PROFILE or LOG to the host buffer. -/
  | storeRead (part : Nat) (worst : Nat) (corrected : Nat) (bad : List Nat)
  /-- STORE_DISCARD (R340): STORE.CMD DISCARD drops the mapping of a PROFILE page range. -/
  | storeDiscard (part : Nat) (count : Nat)
  /-- STORE_HEALTH (R348): STORE.CMD HEALTH writes the health page to the host buffer. -/
  | storeHealth
  /-- WHARF_HELLO (R354): A valid HELLO from a worker is answered with HELLO_ACK, and the worker becomes UP. -/
  | wharfHello
  /-- WHARF_HELLO_ACK (R358): In worker role, a valid HELLO_ACK starts heartbeats to the manager. -/
  | wharfHelloAck
  /-- WHARF_HEARTBEAT (R354): A valid HEARTBEAT keeps a worker UP or returns it from LOST, or updates the manager claim in worker role. -/
  | wharfHeartbeat
  /-- WHARF_CREDIT (R355): In worker role a CREDIT updates the manager's grant. -/
  | wharfCredit
  /-- WHARF_UP_ENV (R355): Each envelope of an UP_ENV within range and credit becomes a manifest. -/
  | wharfUpEnv
  /-- WHARF_DOWN_ENV (R359): In worker role each DOWN_ENV item creates a WHARF_FWD manifest on its endpoint flow. -/
  | wharfDownEnv
  /-- WHARF_KEY_REQ (R356): A KEY_REQ creates a WHARF_FWD manifest on the worker control flow. -/
  | wharfKeyReq
  /-- WHARF_FWD_KEY_REQ (R356): The WHARF_FWD manifest applies the export rule and stages a KEY or the refusal. -/
  | wharfFwdKeyReq (slot : Nat)
  /-- WHARF_FWD_DOWN_ENV (R359): The WHARF_FWD manifest stages the envelope into its record's link transmit queue. -/
  | wharfFwdDownEnv (slot : Nat)
  /-- WHARF_CKPT (R368): The standby writes a CKPT datagram into its image slot. -/
  | wharfCkpt
  /-- WHARF_JOURNAL (R368): The standby takes journal items, applying HANDOFF items to its Customs domain. -/
  | wharfJournal
  /-- WHARF_JACK (R368): A JACK acknowledges journal items and releases downlinks that were held for them. -/
  | wharfJack
  /-- WHARF_HEARTBEAT_SEND (R354): Every 100 ms the device sends a HEARTBEAT with the current grant. -/
  | wharfHeartbeatSend
  /-- WORKER_LOST (R354): 300 ms without a valid datagram makes a worker LOST, and the device creates WORKER_LOST link events. -/
  | workerLost (worker : Nat)
  /-- WORKER_ROLE_HELLO_SEND (R358): In worker role the chip sends HELLO to each manager once per second until acknowledged. -/
  | workerRoleHelloSend
  /-- MANAGER_LOST (R358): In worker role a manager silent for 300 ms counts as lost, and losing all of them returns the chip to HELLO. -/
  | managerLost (mgr : Nat)
  /-- WHARF_DGRAM_FLUSH (R359): 1 ms after its first item, a partly filled UP_ENV datagram is sent. -/
  | wharfDgramFlush
  /-- CLAIM_FRAME_SEND (R362): Every 1 ms the chip sends a claim frame on the Pilot link. -/
  | claimFrameSend
  /-- CLAIM_FRAME_RECEIVED (R363): A partner claim frame is checked, and the chip takes STANDBY or stands down on a higher claim. -/
  | claimFrameReceived (body : Bytes)
  /-- CLAIM_STARTUP_DECISION (R363): After 20, 21 or 100 periods without an ACTIVE partner frame, the chip takes ACTIVE. -/
  | claimStartupDecision
  /-- CHECKPOINT_PASS_START (R368): Every 60 s the active chip starts streaming a checkpoint pass to the standby. -/
  | checkpointPassStart
  /-- JOURNAL_RESEND (R368): A journal datagram unacknowledged for 5 ms is resent, and 64 MiB unacknowledged declares DESYNC. -/
  | journalResend
  /-- JACK_SEND (R368): Every 1 ms the standby sends a JACK. -/
  | jackSend
  /-- TAKEOVER (R369): A standby in sync misses lost_frames partner frames, claims ACTIVE and starts copying the image. -/
  | takeover
  /-- TAKEOVER_RESUME (R369): When the image copy and journal replay finish, functions are enabled and HEARTBEATs go to every worker. -/
  | takeoverResume
  /-- PILOT_DRILL (R370): PILOT.CMD drill drains the active chip, journals HANDOVER and hands over to the partner. -/
  | pilotDrill (force : Bool)
  /-- DRILL_TIMEOUT (R370): The partner has not claimed ACTIVE within 12 s, and DRILL_RESULT reports FAILED. -/
  | drillTimeout
  /-- LOG_RECORD_WRITE (R380): The event queue drains one record, which is written with the next sequence number or merged. -/
  | logRecordWrite
  /-- OP_SEC_SAVE (R379): Every 3,600 s op_sec is saved in the Logbook array. -/
  | opSecSave
  /-- LOG_READ (R388): LOG.RD_CMD go reads a record by sequence number into RD_DATA. -/
  | logRead
  /-- UPD_STAGE (R393): STAGE checks a package and starts writing it into the idle slot. -/
  | updStage (pkg : Bytes)
  /-- UPD_STAGE_DONE (R393): Programming and read-back end, and the slot becomes VALID or EMPTY. -/
  | updStageDone (ok : Bool)
  /-- UPD_ACTIVATE (R394): ACTIVATE makes a VALID slot the trial and starts it as its code requires. -/
  | updActivate (val : Word)
  /-- TRIAL_EVALUATION (R395): A trial's success condition is met, or fails and the device reverts. -/
  | trialEvaluation (ok : Bool)
  /-- UPD_COMMIT (R396): COMMIT commits migrations, makes the trial ACTIVE and raises the gate floor. -/
  | updCommit
  /-- UPD_REVERT (R397): REVERT returns to the former image at once. -/
  | updRevert
  /-- TRIAL_TIMEOUT (R397): A trial not committed within trial_s reverts. -/
  | trialTimeout
  /-- MIGRATION_DONE (R399): Conversion of the endpoint records ends, and migrating reads 0. -/
  | migrationDone
  /-- JOB_CREATE (R400): UPD.JOB_CMD CREATE starts copying a firmware image into argument cells. -/
  | jobCreate (val : Word) (image : Bytes)
  /-- JOB_READY (R400): The image copy and its digest finish, and the job reads READY. -/
  | jobReady
  /-- JOB_CANCEL (R406): UPD.JOB_CMD CANCEL ends the job's targets through SET manifests and frees its cells. -/
  | jobCancel (val : Word)
  /-- FW_PUSH_TARGET (R403): TARGET admits an endpoint to a job and stages FW_START, or reports why not. -/
  | fwPushTarget (slot : Nat)
  /-- FW_PUSH_STATUS (R404): STATUS updates a target from FW_STATUS and activates or ends it. -/
  | fwPushStatus (slot : Nat)
  /-- FW_PUSH_ROUND (R405): ROUND stages missing FW_BLOCK items into a PLC segment's next BEACON. -/
  | fwPushRound (slot : Nat)
  /-- FW_PUSH_SEND (R405): SEND stages a unicast COMMAND downlink of missing blocks to a radio or worker endpoint. -/
  | fwPushSend (slot : Nat)
  /-- FW_PUSH_SET (R406): A SET manifest ends a cancelled job's target and frees its cell. -/
  | fwPushSet (slot : Nat)
  /-- FW_PUSH_STALL (R404): A target whose base has not advanced for stall_s ends with STALLED. -/
  | fwPushStall (epx : Nat)
  /-- ETH_FRAME_RECEIVED (R415): A received Ethernet frame is checked and sent to pause handling, PTP, the neighbour responder or the Wharf engine, or dropped. -/
  | ethFrameReceived (port : Nat) (frame : Bytes) (fcsOk : Bool)
  /-- PAUSE_WATCHDOG (R417): A pause hold lasting pause_wd ms is overridden, and pause frames are ignored for 1,000 ms. -/
  | pauseWatchdog (port : Nat)
  /-- ETH_FRAME_TRANSMIT (R416): When the line is free, the highest non-empty transmit queue sends its next whole frame. -/
  | ethFrameTransmit (port : Nat)
  /-- ETH_LINK_CHANGE (R416): A port link goes up or down, and on going down its transmit queues are flushed. -/
  | ethLinkChange (port : Nat) (up : Bool) (full : Bool) (speed : Nat)
  /-- DMA_CHANNEL_GO (R422): A GO write starts a LINEAR or GATHER copy on channels 12 to 15. -/
  | dmaChannelGo (chan : Nat) (val : Word)
  /-- DMA_CHANNEL_DONE (R423): A channel operation completes, and its event pulse goes to HM, TIME or the panel, or it stops on a fault. -/
  | dmaChannelDone (chan : Nat) (abort : Bool) (src : Bytes)
  /-- CR_HEAD_WRITE (R413): A CR_HEAD write frees completion-ring entries when it moves the head forward validly. -/
  | crHeadWrite (ring : Nat) (val : Word)
  /-- CR_CFG_WRITE (R413): A write to CR_BASE or CR_CFG takes effect only on an empty ring and resets tail, head and phase. -/
  | crCfgWrite (ring : Nat) (reg : Nat) (val : Word)
  /-- CR_COALESCE_TIMEOUT (R413): coal_us pass since the oldest unsignalled message, and the ring vector is sent. -/
  | crCoalesceTimeout (ring : Nat)
  /-- PANEL_FRAME_BOUNDARY (R430): At each 20 ms frame boundary the panel reads the band, advances the run or compensation, or starts a pending run. -/
  | panelFrameBoundary
  /-- PANEL_HV_SETTLED (R438): hv_settle passes, and the panel compensates, clears, redraws and turns on the frontlight. -/
  | panelHvSettled
  /-- PANEL_HV_DISCHARGED (R438): hv_discharge passes, and PANEL_EN_HV is deasserted. -/
  | panelHvDischarged
  /-- PANEL_TEMP_STALE (R433): TEMP_HOST has not been written for 60 s, so temp_stale is set and logged. -/
  | panelTempStale
  /-- PANEL_BLINK_EDGE (R437): A blink group's on or off time begins, and a new pending target is made. -/
  | panelBlinkEdge (group : Nat)
  /-- READOUT_PAGE_ADVANCE (R436): Every readout_s the readout page advances, and a new pending target is made. -/
  | readoutPageAdvance
  /-- PANEL_REDRAW (R430): A write to PANEL.CTL.redraw makes the next run drive every segment. -/
  | panelRedraw
  /-- PWRFAIL_ACCEPT (R458): PWRFAIL_N asserted for 1 µs starts the last-gasp sequence: all-stop, intake stop, then Customs and store flush. -/
  | pwrfailAccept
  /-- LAST_GASP_FRAMES (R458): When the flush's Logbook step is durable, the last-gasp PLC, radio and craft frames go out. -/
  | lastGaspFrames
  /-- DEVICE_IDLE (R454): On becoming idle with backup set, the device enters the deepest eligible state and schedules its wake. -/
  | deviceIdle (tel : Nat)
  /-- SCHEDULED_WAKE (R454): The scheduled wake time arrives, and the device returns to RUN before its next event. -/
  | scheduledWake
  /-- UNSCHEDULED_WAKE (R455): Unscheduled work, an access or an input change wakes the device at once. -/
  | unscheduledWake (source : Nat)
  /-- HOLDUP_OK_CHANGE (R480): HOLDUP_OK changes level; a fall activates the HOLDUP source and tamper kind 2, and wakes to RUN. -/
  | holdupOkChange (high : Bool)
  /-- BACKUP_CHANGE (R453): backup changes with ON_BACKUP or backup_force, and a fall to 0 wakes the device. -/
  | backupChange (on : Bool)
  /-- PWR_HOLD_RUN (R453): PWR.CMD HOLD_RUN keeps the device in RUN. -/
  | pwrHoldRun
  /-- PWR_RELEASE_RUN (R453): PWR.CMD RELEASE_RUN lets the device leave RUN again. -/
  | pwrReleaseRun
  /-- PWR_RESTORE_FACTORY (R464): PWR.CMD RESTORE_FACTORY returns the GNSS group delay and the ageing slope to their factory values. -/
  | pwrRestoreFactory (arg : Nat)
  /-- PWR_BG_NOW (R462): PWR.CMD BG_NOW starts one extra pass of the SRAM scrub, the DDR-5 patrol or the NAND patrol. -/
  | pwrBgNow (arg : Nat)
  /-- SRAM_SCRUB_PASS (R28): The SRAM scrub passes through every array, correcting single-bit errors and handling uncorrectable ones. -/
  | sramScrubPass (corrected : Nat) (errs : List ScrubErr)
  /-- DDR_PATROL (R28): The DDR-5 patrol reads 64 GiB per 24 h within its bandwidth share. -/
  | ddrPatrol (corrected : Nat) (errs : List ScrubErr) (done : Bool)
  /-- TELEMETRY_INSTANT (R28): Every 60 s a TELEMETRY manifest is created. -/
  | telemetryInstant (idx : Nat)
  /-- TEMP_SAMPLE (R487): Every 1 ms tj is read, and hot is set or cleared against hot_c. -/
  | tempSample (tj : Int)
  /-- GPIO_EDGE (R489): A configured edge on a GPIO ball sets its GPIO_INT bit. -/
  | gpioEdge (ball : Nat) (rising : Bool)
  /-- REGISTER_READ (R11): A host read of an RC register returns and clears it, and a read of a low word or of TIME.NOW_FRAC latches its companion registers. -/
  | registerRead (addr : Nat) (len : Nat)
  /-- EXT_LOST (R289): No PPS_IN edge arrives within 1.1 s of the previous edge, and the EXT source becomes LOST. -/
  | extLost
  /-- BLOCK_ERASE_DONE (R343): A NAND block erase reports its result, and the block is journaled ERASED and becomes available, or is retired on failure. -/
  | blockEraseDone (lun : Nat) (blk : Nat) (ok : Bool)
  /-- PCIE_LINK_UP (R408): The PCIe link finishes training and comes up, and completion-ring writes, doorbell fetches and host DMA that waited resume. -/
  | pcieLinkUp (busMaster : Bool) (msixMasked : Bool)
  /-- PANEL_SLOT_START (R428): Every 1.25 ms a panel slot begins, and the device shifts 72 level codes and pulses PANEL_LAT. -/
  | panelSlotStart
  deriving DecidableEq, Repr

end Sys2Proof
end

