-- ==== Sys2Proof/Machine/Bits.lean ====
section
/-!
DEFINITION. Bit fields, sign extension, byte order and saturation, shared by every block (R7-R9, R11).
-/
namespace Sys2Proof.Machine

/-- Bits [hi:lo] of a number (R7). -/
def bits (w hi lo : Nat) : Nat := (w >>> lo) % 2 ^ (hi + 1 - lo)

/-- One bit as a Bool. -/
def bit (w n : Nat) : Bool := w.testBit n

/-- `w` with bits [hi:lo] replaced by `v`. -/
def putBits (w hi lo v : Nat) : Nat :=
  w - (bits w hi lo <<< lo) + ((v % 2 ^ (hi + 1 - lo)) <<< lo)

/-- A Bool as a number. -/
def b2n (b : Bool) : Nat := if b then 1 else 0

/-- The two's complement reading of the low `n` bits. -/
def toSigned (n w : Nat) : Int :=
  let v := w % 2 ^ n
  if 2 ^ (n - 1) ≤ v then (v : Int) - (2 ^ n : Nat) else v

/-- The two's complement encoding of an integer in `n` bits. -/
def ofSigned (n : Nat) (i : Int) : Nat := (i % ((2 ^ n : Nat) : Int)).toNat

/-- Addition that stops at `cap` (the saturating counters of the register tables). -/
def satAdd (cap a b : Nat) : Nat := min cap (a + b)

/-- Clamp an integer to a signed `n`-bit range. -/
def satSigned (n : Nat) (i : Int) : Int :=
  max (-((2 ^ (n - 1) : Nat) : Int)) (min i (((2 ^ (n - 1) : Nat) : Int) - 1))

/-- Little-endian number of a byte string (R9). -/
def ofLE : Bytes → Nat
  | [] => 0
  | b :: bs => b.toNat + 256 * ofLE bs

/-- `n` little-endian bytes of a number (R9). -/
def toLE : Nat → Nat → Bytes
  | 0, _ => []
  | n + 1, v => BitVec.ofNat 8 v :: toLE n (v / 256)

/-- `n` big-endian bytes of a number, for layouts an outside standard fixes (R9). -/
def toBE (n v : Nat) : Bytes := (toLE n v).reverse

/-- Big-endian number of a byte string. -/
def ofBE (b : Bytes) : Nat := ofLE b.reverse

/-- `n` bytes at offset `o`. -/
def slice (b : Bytes) (o n : Nat) : Bytes := (b.drop o).take n

/-- The `n`-byte little-endian number at offset `o`; bytes past the end count as 0. -/
def leAt (b : Bytes) (o n : Nat) : Nat := ofLE (slice b o n)

/-- The signed `n`-byte little-endian number at offset `o`. -/
def leSigned (b : Bytes) (o n : Nat) : Int := toSigned (8 * n) (leAt b o n)

/-- `n` zero bytes. -/
def zeros (n : Nat) : Bytes := List.replicate n 0

/-- `b` cut or zero-padded to exactly `n` bytes. -/
def fit (n : Nat) (b : Bytes) : Bytes := b.take n ++ zeros (n - b.length)

/-- `b` with `v` written over it from offset `o`. -/
def overlay (b : Bytes) (o : Nat) (v : Bytes) : Bytes := b.take o ++ v ++ b.drop (o + v.length)

/-- Rounding up division. -/
def ceilDiv (a b : Nat) : Nat := (a + b - 1) / b

/-- Integer division rounding half away from zero. -/
def roundDiv (a : Int) (b : Nat) : Int :=
  if a < 0 then -(((-a).toNat + b / 2) / b : Nat) else ((a.toNat + b / 2) / b : Nat)

/-- Integer square root, rounding down, by binary search over `n` bits. -/
def isqrtAux : Nat → Nat → Nat → Nat
  | 0, r, _ => r
  | k + 1, r, x =>
    let c := r + 2 ^ k
    if c * c ≤ x then isqrtAux k c x else isqrtAux k r x

/-- The largest `r` with `r * r ≤ x` for `x < 2 ^ 128`. -/
def isqrt (x : Nat) : Nat := isqrtAux 64 0 x

/-- The number of one bits among the low `n`. -/
def popcount : Nat → Nat → Nat
  | 0, _ => 0
  | n + 1, w => w % 2 + popcount n (w / 2)

/-- One bit-serial CRC step over a byte, most significant bit first. -/
def crcByte (width poly : Nat) : Nat → Nat → Nat
  | 0, c => c
  | k + 1, c =>
    let c' := if c.testBit (width - 1) then ((c <<< 1) % 2 ^ width) ^^^ poly else (c <<< 1) % 2 ^ width
    crcByte width poly k c'

/-- CRC-16 with polynomial 0x1021 and initial value 0xFFFF, most significant bit first. -/
def crc16 (b : Bytes) : Nat :=
  b.foldl (fun c x => crcByte 16 0x1021 8 (c ^^^ (x.toNat <<< 8))) 0xFFFF

/-- One reflected CRC-32 byte. -/
def crc32Byte : Nat → Nat → Nat
  | 0, c => c
  | k + 1, c => crc32Byte k (if c % 2 = 1 then (c / 2) ^^^ 0xEDB88320 else c / 2)

/-- CRC-32 of IEEE 802.3. -/
def crc32 (b : Bytes) : Nat :=
  (b.foldl (fun c x => crc32Byte 8 (c ^^^ x.toNat)) 0xFFFFFFFF) ^^^ 0xFFFFFFFF

/-- The list with its element at `i` changed by `f`; unchanged when `i` is out of range. -/
def updAt {α : Type} (l : List α) (i : Nat) (f : α → α) : List α := l.modify i f

/-- The index of the first element that satisfies `p`. -/
def findIdx? {α : Type} (p : α → Bool) : List α → Option Nat
  | [] => none
  | a :: as => if p a then some 0 else (findIdx? p as).map (· + 1)

end Sys2Proof.Machine
end

