-- ==== Sys2Proof/Machine/Maps.lean ====
section
/-!
DEFINITION. Sparse maps by a Nat key in one canonical form: keys strictly rising. Every indexed memory of the model
(registers, endpoint records, billing records, host memory) is one.
-/
namespace Sys2Proof.Machine

/-- A sparse map: pairs of key and value, keys strictly rising (`Map.wf`). -/
abbrev Map (α : Type) := List (Nat × α)

namespace Map

variable {α : Type}

/-- The value stored under a key. -/
def get? : Map α → Nat → Option α
  | [], _ => none
  | (k, v) :: m, n => if k = n then some v else get? m n

/-- The value stored under a key, or what an unlisted key reads as. -/
def getD (m : Map α) (n : Nat) (d : α) : α := (get? m n).getD d

/-- Store a value under a key, keeping the keys in order. -/
def put : Map α → Nat → α → Map α
  | [], n, w => [(n, w)]
  | (k, v) :: m, n, w =>
    if n < k then (n, w) :: (k, v) :: m
    else if n = k then (n, w) :: m
    else (k, v) :: put m n w

/-- Remove a key. -/
def del (m : Map α) (n : Nat) : Map α := List.filter (fun e => decide (e.1 ≠ n)) m

/-- Store a value, removing the entry when it equals what an unlisted key reads as. -/
def putD [DecidableEq α] (m : Map α) (n : Nat) (w d : α) : Map α :=
  if w = d then del m n else put m n w

/-- Change the value under a key, if there is one. -/
def upd (m : Map α) (n : Nat) (f : α → α) : Map α := m.map (fun p => if p.1 = n then (p.1, f p.2) else p)

/-- Change every value. -/
def mapV (m : Map α) (f : α → α) : Map α := List.map (fun e => (e.1, f e.2)) m

/-- Whether a key is stored. -/
def has (m : Map α) (n : Nat) : Bool := (get? m n).isSome

/-- The values in key order. -/
def vals (m : Map α) : List α := m.map (·.2)

/-- The keys. -/
def keys (m : Map α) : List Nat := m.map (·.1)

/-- Keep the entries that satisfy a test. -/
def keep (m : Map α) (p : Nat → α → Bool) : Map α := List.filter (fun e => p e.1 e.2) m

/-- Every key of the map is above `n`, and the keys rise. -/
def wfFrom (n : Nat) : Map α → Bool
  | [] => true
  | (k, _) :: m => decide (n ≤ k) && wfFrom (k + 1) m

/-- The canonical form: keys strictly rising. -/
def wf (m : Map α) : Bool := wfFrom 0 m

/-- The canonical form with a default value: keys strictly rising and no entry equal to the default of its key. -/
def wfD [DecidableEq α] (d : Nat → α) (m : Map α) : Bool := wf m && m.all (fun e => !decide (e.2 = d e.1))

end Map

end Sys2Proof.Machine
end

