-- ==== Sys2Proof/Machine/BalState.lean ====
section
/-!
DEFINITION. State of the energy balance: member rows, group blocks and the site block (R243), whose layout the spec leaves
to the device.
-/
namespace Sys2Proof.Machine

/-- An hourly bucket (R243, R248): its TAI hour, A+ and A− in Wh, the quarter-hours present, and the sum and number of the
hour's valid voltage codes. -/
structure HourB where
  hour : Nat
  aPlus : Nat
  aMinus : Nat
  mask : Nat
  vsum : Int
  vn : Nat
  deriving DecidableEq, Repr

/-- A day bucket (R248): its TAI day, n, Sx and Sxx, and Sy, Syy and Sxy of each candidate. -/
structure DayB where
  day : Nat
  n : Nat
  sx : Int
  sxx : Nat
  cand : List (Int × Nat × Int)
  deriving DecidableEq, Repr

/-- The result of a row's last inference (R252): class, best and second point, r in permille, n and day. -/
structure TopoRes where
  cls : Nat
  bestG : Nat
  bestP : Nat
  rBest : Int
  secondG : Nat
  secondP : Nat
  rSecond : Int
  mismatch : Bool
  n : Nat
  day : Nat
  deriving DecidableEq, Repr

/-- A bound member row (R243): rings by hour mod 48 and day mod 8, the indicators with their runs, the run of false
hours of each indicator, and whether a payload since the last complete hour met the NEUTRAL condition. -/
structure MRow where
  epx : Nat
  hours : Map HourB
  days : Map DayB
  ind : Nat
  nbRun : Nat
  nbHit : Bool
  revRun : Nat
  zeroRun : Nat
  clear : List Nat
  tamper : Nat
  prosumer : Bool
  last : TopoRes
  deriving DecidableEq, Repr

/-- A row as it is when it becomes bound. -/
def MRow.bind (epx : Nat) : MRow :=
  ⟨epx, [], [], 0, 0, false, 0, 0, [0, 0, 0, 0], 0, false, ⟨0, 0, 0, 0, 0, 0, 0, false, 0, 0⟩⟩

/-- A group block (R243): state, counters, baseline and marks, the sums of the parts of an hour (hour, bound, complete,
s) and how many of its parts are in them, and the reference rings of an ENDPOINT reference: hours by phase, and voltage codes by phase as minute and code. -/
structure GBlock where
  state : Nat
  excess : Nat
  normal : Nat
  learned : Nat
  base : Int
  lastRho : Int
  lastHour : Nat
  bound : Nat
  complete : Nat
  lossStart : Nat
  partial' : Nat × Nat × Nat × Int
  parts : Nat
  energy : List (Map HourB)
  volts : List (Map (Nat × Int))
  deriving DecidableEq, Repr

/-- A zeroed group block: LEARNING (R256). -/
def GBlock.zero : GBlock := ⟨0, 0, 0, 0, 0, 0, 0, 0, 0, 0, (0, 0, 0, 0), 0, [[], [], []], [[], [], []]⟩

/-- An hour of the site metrology: its TAI hour, the minutes present, and A+ and A− in Ws. -/
structure SiteHour where
  hour : Nat
  minutes : Nat
  aPlus : Nat
  aMinus : Nat
  deriving DecidableEq, Repr

/-- The site block: hours, and the mean voltage of each minute in mV by phase, from which each group's nominal gives the
code. -/
structure SiteBlock where
  hours : Map SiteHour
  volts : List (Map (Nat × Nat))
  deriving DecidableEq, Repr

/-- The front end's summary of a TAI minute (R249): seconds, sums of the RMS voltages in mV, and A+ and A− in mW × samples. -/
structure MinSum where
  n : Nat
  v : List Nat
  aPlus : Nat
  aMinus : Nat
  deriving DecidableEq, Repr

/-- The balance function. -/
structure BalState where
  members : Map MRow
  groups : Map GBlock
  site : SiteBlock
  /-- Minute summaries of the front end, the minute in progress and the one before. -/
  mins : Map MinSum
  /-- Latest TAI minute, hour and day whose manifests were created. -/
  refMark : Nat
  hourMark : Nat
  dayMark : Nat
  /-- TAI second from which R256's reach counts: the last time that the function started or the time quality returned. -/
  dueFrom : Nat
  /-- Latest hour and day that were due when the function first started after the reset. -/
  first : Option (Nat × Nat)
  /-- A day whose TOPO manifests are unreleased. -/
  topoDay : Option Nat
  deriving DecidableEq, Repr

/-- The balance function after a reset (R256). -/
def BalState.reset : BalState := ⟨[], [], ⟨[], [[], [], []]⟩, [], 0, 0, 0, 0, none, none⟩

end Sys2Proof.Machine
end

