-- ==== Sys2Proof/Config.lean ====
section
/-!
DEFINITION. What one chip or its surroundings fix and the spec leaves open: device values, and the functions of
units whose arithmetic the spec names by an outside standard. All are constants with no body, so nothing proved
rests on a value of one.
-/
namespace Sys2Proof.Config

/-- A fresh unconstrained 32-bit value for every index: the model's FREE VALUE wherever the spec states no result
(assumption 2). -/
opaque freeWord : Nat → BitVec 32

/-- A fresh unconstrained 64-bit value for every index (assumption 2). -/
opaque freeWide : Nat → BitVec 64

/-- GLOBAL.ID.vendor_id, Tervami's PCI-SIG vendor ID (Table 20-2: device value). -/
opaque vendorId : BitVec 16

/-- The device serial read in BOND.SERIAL_LO and _HI (Table 11-17: device value). -/
opaque serial : BitVec 64

/-- CUSTOMS.ROM_ID.version (Table 7-12: ROM value). -/
opaque romVersion : BitVec 16

/-- CUSTOMS.ROM_CRC (Table 7-12: ROM value). -/
opaque romCrc : BitVec 32

/-- The result code of a firmware-push outcome that R116 does not number: 0 BUSY, 1 BATTERY, 2 NO_CELL, 3 STARTED,
4 ACTIVATED, 5 FAILED, 6 STALLED, 7 LINK (R403-R405; assumption 2). -/
opaque fwResult : Nat → BitVec 8

/-- What a carrier of a PLC symbol sends (R125, R129): code 0 the unit value exp(jπi/4), code 1 to 5 the constellation point
with in-phase level i and quadrature level q of a loading code. -/
structure Tone where
  carrier : Nat
  code : Nat
  i : Int
  q : Int
  deriving DecidableEq, Repr

/-- The amplitude, in LSB of AFE_TX, of a carrier of unit value at tx_atten 0 (R157), which the spec does not give (assumption
59). -/
opaque plcScale : Nat

/-- Whether a PLC sample of a magnitude in 2⁻⁴⁰ LSB is rounded up (R122), which the spec does not say (assumption 59). -/
opaque plcRoundsUp : Int → Bool

/-- The normalisation of a minimum in the PLC decoder (R127), whose factor the spec does not give (assumption 59). -/
opaque minSumNorm : Int → Int

/-- The phase and the width in ns of the PLC_SYSREF pulses (R157; assumption 59). -/
opaque sysref : Nat × Nat

/-- The calibration of a metrology channel (R206), in units that the spec leaves open (assumption 63): gain in 2⁻²⁴, offset in
converter codes, phase in 1/64 sample. -/
structure ChanCal where
  gain : Int
  offset : Int
  phase : Int
  deriving DecidableEq, Repr, Inhabited

/-- The factory calibration of a channel, 0-2 METRO_V, 3-5 METRO_I, 6 METRO_N (R206: device value). -/
opaque factoryCal : Nat → ChanCal

/-- The calibration that the content of a CAL_USER blob gives a channel, whose layout the spec does not give (R206; assumption
63). -/
opaque userCal : List (BitVec 8) → Nat → ChanCal

/-- Samples delayed by a phase in 1/64 sample (R206), whose interpolation the spec does not give (assumption 63). -/
opaque delayed : Int → List Int → List Int

/-- The site's nominal phase voltage in mV and rated phase current in mA, which Table 7-6 names and no item states (assumption
63). -/
opaque nominalMv : Nat

/-- The rated phase current in mA. -/
opaque ratedMa : Nat

/-- The 90° Hilbert filter of R203, whose coefficients the spec does not give (assumption 63). -/
opaque hilbert : List Int → List Int

/-- What a field of n bits shows of a value outside its range, where the spec states no result (assumption 2). -/
opaque narrow : Nat → Int → BitVec 32

/-- The packet of a PTP message by transport, from its UDP checksum and its fields, as IEEE 1588-2019 lays it out, which the spec names and
does not repeat (R301; assumption 23). -/
opaque ptpPacket : Nat → Nat → List Int → Bytes

/-- The UDP checksum of such a message over IPv6 (R301). -/
opaque ptpSum : List Int → Nat

/-- The satellites of a constellation (0 GPS, 1 Galileo, 2 BeiDou) that an epoch's observations hold, each with its elevation in
0.001° (R265): the observations' format is the baseband's (assumption 65). -/
opaque obsSats : Bytes → Nat → List (Nat × Int)

/-- Message 1005 of a station ID and a base position (R265), as the outside standard RTCM 10403.3 lays it out. -/
opaque rtcm1005 : Nat → List Int → Bytes

/-- An MSM7 message of RTCM 10403.3 (R265): its number, the station ID, the multiple-message bit, the satellites it includes, and the
observations. -/
opaque rtcmMsm : Nat → Nat → Bool → List Nat → Bytes → Bytes

/-- The RTCM 3 transport frame of a message, as the outside standard RTCM 10403.3 frames it. -/
opaque rtcmFrame : Bytes → Bytes

/-- The host message of a craft notice, whose content the spec does not give (assumption 2): 0 CRAFT_LOST, 1 CRAFT_BACK,
2 TASK_DONE, 3 TASK_ABANDONED, 4 ALLOTTED; the craft, the task and the superframe. -/
opaque craftNotice : Nat → Nat → Nat → Nat → Bytes

/-- The temperature of the hottest LUN in °C, read at the part's own feature address (R348): a sensor's value. -/
opaque lunTemp : Nat → Int

/-- The content of a TELEMETRY or SCRUB_REPORT host message, for every index: the spec gives none (assumption 2). -/
opaque reportBody : Nat → List (BitVec 8)

/-- The segments of the readout field that page `p` of `d` digits sets for a value: the spec gives the order of the
segments and not the glyphs (R436; assumption 2). -/
opaque readout : Nat → Nat → Nat → Nat

/-- The device's hardware-unique key (R311). -/
opaque hardwareKey : List (BitVec 8)

/-- The key material of a reserved slot as manufacture leaves it (R310: device value). -/
opaque deviceKey : Nat → List (BitVec 8)

/-- The OTP MAC address of Ethernet port n (R414). -/
opaque mac : Nat → BitVec 48

/-- AES-CCM opening of an envelope: key, nonce, additional data, ciphertext with tag; none when the tag fails. -/
opaque ccmOpen : Bytes → Bytes → Bytes → Bytes → Option Bytes

/-- AES-CCM sealing: key, nonce, additional data, plaintext; answers ciphertext with tag. -/
opaque ccmSeal : Bytes → Bytes → Bytes → Bytes → Bytes

/-- XTS-AES-256 of one data unit: 512-bit key, 16-byte tweak, plaintext (IEEE Std 1619; R332). -/
opaque xtsEnc : Bytes → Bytes → Bytes → Bytes

/-- XTS-AES-256 decryption of one data unit. -/
opaque xtsDec : Bytes → Bytes → Bytes → Bytes

/-- AES-GCM opening of a Wharf datagram or package body: key, nonce, additional data, ciphertext with tag. -/
opaque gcmOpen : Bytes → Bytes → Bytes → Bytes → Option Bytes

/-- AES-GCM sealing. -/
opaque gcmSeal : Bytes → Bytes → Bytes → Bytes → Bytes

/-- KMAC256: key, customisation string, message, output length in bytes. -/
opaque kmac256 : Bytes → Bytes → Bytes → Nat → Bytes

/-- SHA-384 of a byte string. -/
opaque sha384 : Bytes → Bytes

/-- ECDSA P-384 verification: public key, digest, signature r‖s. -/
opaque p384Verify : Bytes → Bytes → Bytes → Bool

/-- ECDSA P-384 signature of a digest with a private key. -/
opaque p384Sign : Bytes → Bytes → Bytes

/-- The uncompressed P-384 public point, 97 bytes, of a private scalar. -/
opaque p384Public : Bytes → Bytes

/-- The uncompressed form, 97 bytes, of a compressed P-384 point. -/
opaque p384Expand : Bytes → Bytes

/-- ECDH P-384 shared secret of a private and a public key. -/
opaque p384Ecdh : Bytes → Bytes → Bytes

/-- AES key unwrap of an Ml-wrapped blob, none when it fails. -/
opaque keyUnwrap : Bytes → Bytes → Option Bytes

/-- The Customs seal key that CUSTOMS_ROOT gives: the spec says that it is derived and not how (R200; assumption 2). -/
opaque customsSeal : Bytes → Bytes

/-- The TRNG: output number n, as k bytes. -/
opaque trng : Nat → Nat → Bytes

end Sys2Proof.Config
end

