-- ==== Sys2Proof/Machine/Types.lean ====
section
/-!
DEFINITION. The data that travels between blocks: manifests (R58), endpoint records (R90), stage-buffer effects
(R17, Table 1-2) and tally-gate slots (R69).
-/
namespace Sys2Proof.Machine

/-- Where and when an endpoint frame arrived: source class and index, the link's address argument, the capture stamp
and the link quality its link gives it. The chain carries it beside the payload (assumption 14). -/
structure Arrival where
  cls : Nat
  idx : Nat
  arg : Nat
  ns : Nat
  sec : Nat
  qual : Nat
  linkQ : Nat
  deriving DecidableEq, Repr

/-- No arrival: a frame that no link delivered. -/
def Arrival.none : Arrival := ⟨0, 0, 0, 0, 0, 0, 0⟩

/-- A manifest (Table 3-3), field by field; `buf` is the payload that word 5 points at. -/
structure Manifest where
  kind : Nat
  prio : Nat
  retry : Nat
  status : Nat
  epxValid : Bool
  lastDockValid : Bool
  lastDock : Nat
  kindArg : Nat
  flow : Nat
  srcClass : Nat
  seq : Nat
  epx : Nat
  srcIndex : Nat
  stage : Nat
  length : Nat
  payload : Nat
  tsNs : Nat
  stageValid : Bool
  tsSec : Nat
  tsQual : Nat
  buf : Bytes
  arr : Arrival
  /-- 64-byte units of the payload pool the buffer takes; 0 for a buffer elsewhere (R421). -/
  pool : Nat
  deriving DecidableEq, Repr

/-- A manifest with every field 0. -/
def Manifest.zero : Manifest :=
  ⟨0, 0, 0, 0, false, false, 0, 0, 0, 0, 0, 0, 0, 0, 0, 0, 0, false, 0, 0, [], Arrival.none, 0⟩

/-- A pending command entry (Table 4-9). -/
structure Pend where
  cmdId : Nat
  window : Nat
  session : Nat
  object : Nat
  op : Nat
  prio : Nat
  arg : Bytes
  argCell : Nat
  deriving DecidableEq, Repr

/-- Last interval value and low register word of one channel (Table 4-1, vee_chan). -/
structure VeeChan where
  last : Nat
  reg : Nat
  deriving DecidableEq, Repr

/-- A value of a run that no frame has closed yet (R110). -/
structure HeldVal where
  chan : Nat
  start : Nat
  v : Nat
  flags : Nat
  /-- Reported, not a missing interval. -/
  real : Bool
  /-- Method and shape of the ESTIMATE rule that decided it. -/
  rule : Option (Nat × Nat)
  deriving DecidableEq, Repr

/-- An endpoint record (Table 4-1). -/
structure EpRec where
  serial : Nat
  cls : Nat
  aes256 : Bool
  battery : Bool
  dlmsOk : Bool
  billed : Bool
  state : Nat
  recordLost : Bool
  rekeyDue : Bool
  lowBattery : Bool
  timeCorrDue : Bool
  fwPush : Bool
  l1 : Nat
  l2 : Nat
  keyEpoch : Nat
  timeCorr : Int
  rxHigh : Nat
  rxMap : Nat
  txCounter : Nat
  linkType : Nat
  linkIndex : Nat
  position : Nat
  channel : Nat
  linkState : Nat
  linkQuality : Nat
  lastRx : Nat
  veeLastEnd : Nat
  chans : List VeeChan
  veeFail : Nat
  veeEst : Nat
  balGroup : Nat
  balMember : Nat
  tamperSeen : Nat
  tamperLast : Nat
  tamperTotal : Nat
  batteryLevel : Nat
  pend : List (Option Pend)
  classArea : Bytes
  /-- Runs that await the frame that closes them (R110), kept with the record beside its 256 bytes (assumption 56). -/
  held : List HeldVal
  deriving DecidableEq, Repr

/-- The all-zero record: a valid EMPTY record (R92). -/
def EpRec.empty : EpRec where
  serial := 0
  cls := 0
  aes256 := false
  battery := false
  dlmsOk := false
  billed := false
  state := 0
  recordLost := false
  rekeyDue := false
  lowBattery := false
  timeCorrDue := false
  fwPush := false
  l1 := 0
  l2 := 0
  keyEpoch := 0
  timeCorr := 0
  rxHigh := 0
  rxMap := 0
  txCounter := 0
  linkType := 0
  linkIndex := 0
  position := 0
  channel := 0
  linkState := 0
  linkQuality := 0
  lastRx := 0
  veeLastEnd := 0
  chans := [⟨0, 0⟩, ⟨0, 0⟩, ⟨0, 0⟩, ⟨0, 0⟩]
  veeFail := 0
  veeEst := 0
  balGroup := 0
  balMember := 0
  tamperSeen := 0
  tamperLast := 0
  tamperTotal := 0
  batteryLevel := 0
  pend := [none, none, none, none]
  classArea := []
  held := []

/-- An item of a PLC or RF transmit queue (R145, R147, R179, R405). -/
inductive LinkItem where
  /-- The entry of a provisioned or moved endpoint. -/
  | create (epx serial : Nat)
  /-- Removal of the endpoint's entry. -/
  | remove (epx : Nat)
  /-- A CONFIRM envelope. -/
  | confirm (epx : Nat) (env : Bytes)
  /-- Any other downlink envelope. -/
  | command (epx : Nat) (env : Bytes)
  /-- The downlink that carries a LINK_PARAM, and its value (R183). -/
  | sched (epx : Nat) (env : Bytes) (param : Nat)
  /-- The issue marker of a stored command, with its window (R179). -/
  | marker (epx window : Nat)
  /-- A FW_BLOCK item for the next BEACON (R405). -/
  | fwBlock (data : Bytes)
  /-- A C_ORDER frame for a craft: its body, and the host orders it carries as id and lane (R273). -/
  | craftOrder (craft : Nat) (body : Bytes) (orders : List (Nat × Nat))
  deriving DecidableEq, Repr

/-- A committed or staged Customs hand-off (R212, Table 7-3) with the serial of the record its TARIFF loaded. -/
structure Handoff where
  serial : Nat
  body : Bytes
  deriving DecidableEq, Repr

/-- A follow-on manifest as its parent stages it (R73): the fields its source gives it. -/
structure Follow where
  kind : Nat
  kindArg : Nat
  flow : Nat
  epx : Option Nat
  srcClass : Nat
  srcIndex : Nat
  buf : Bytes
  arr : Arrival
  deriving DecidableEq, Repr

/-- A record of the tally gate: what a load registers and a write-back commits (R72, R74, R244, R435). -/
inductive RowKey where
  /-- The endpoint record of an EPX. -/
  | ep (epx : Nat)
  /-- A balance member row (R244). -/
  | member (row : Nat)
  /-- A balance group block (R244). -/
  | group (g : Nat)
  /-- The site block (R244). -/
  | site
  /-- A craft row (R271). -/
  | craft (c : Nat)
  /-- A lane's reservation row (R271). -/
  | lane (l : Nat)
  /-- A task row (R271). -/
  | task (id : Nat)
  /-- The panel target row (R435). -/
  | panel
  /-- A firmware-push target, by EPX (R403). -/
  | target (epx : Nat)
  deriving DecidableEq, Repr

/-! ### Work kinds (Table 3-2) -/

/-- FRAME_IN. -/
abbrev kFrameIn : Nat := 0x01
/-- OPEN. -/
abbrev kOpen : Nat := 0x02
/-- REPLAY. -/
abbrev kReplay : Nat := 0x03
/-- VEE. -/
abbrev kVee : Nat := 0x04
/-- TARIFF. -/
abbrev kTariff : Nat := 0x05
/-- PROFILE. -/
abbrev kProfile : Nat := 0x06
/-- BALANCE. -/
abbrev kBalance : Nat := 0x07
/-- COMMAND. -/
abbrev kCommand : Nat := 0x08
/-- FW_PUSH. -/
abbrev kFwPush : Nat := 0x09
/-- ALARM. -/
abbrev kAlarm : Nat := 0x0A
/-- REJOIN. -/
abbrev kRejoin : Nat := 0x0B
/-- RTK_EPOCH. -/
abbrev kRtkEpoch : Nat := 0x0C
/-- LANE_CHECK. -/
abbrev kLaneCheck : Nat := 0x0D
/-- TELEMETRY. -/
abbrev kTelemetry : Nat := 0x0E
/-- WHARF_FWD. -/
abbrev kWharfFwd : Nat := 0x0F
/-- HOST_MSG. -/
abbrev kHostMsg : Nat := 0x10
/-- PANEL_UPDATE. -/
abbrev kPanelUpdate : Nat := 0x11
/-- LOG_SNAP. -/
abbrev kLogSnap : Nat := 0x12
/-- SCRUB_REPORT. -/
abbrev kScrubReport : Nat := 0x13

end Sys2Proof.Machine
end

