-- ==== Sys2Proof/Machine/BondState.lean ====
section
/-!
DEFINITION. State of the Bonded Store (chapter 11).
-/
namespace Sys2Proof.Machine

/-- ASCII bytes of a label. -/
def ascii (t : String) : Bytes := t.toList.map (fun c => BitVec.ofNat 8 c.toNat)

/-- A slot record (Table 11-1): key material, attribute word, writes and integrity tag. -/
structure SlotRec where
  key : Bytes
  attr : Nat
  writes : Nat
  tag : Bytes
  deriving DecidableEq, Repr

/-- A zeroised record. -/
def SlotRec.zero : SlotRec := ⟨[], 0, 0, []⟩

/-- The tag that copy `c` of slot `n` has with a content: 64 bits of KMAC256 under the hardware-unique key (R311). -/
def slotTag (n c : Nat) (key : Bytes) (attr writes : Nat) : Bytes :=
  (Config.kmac256 Config.hardwareKey (ascii "VQ-SLOT") (toLE 1 n ++ toLE 1 c ++ fit 64 key ++ toLE 4 attr ++ toLE 4 writes) 32).take 8

/-- A record agrees with its tag (R311). -/
def SlotRec.tagOk (r : SlotRec) (n c : Nat) : Bool := decide (r.tag = slotTag n c r.key r.attr r.writes)

/-- A key slot (R309, R310): its copies in the key array and, as the last start loaded them, in Bonded Store SRAM; and the copies fused
BAD (R312). -/
structure KeySlot where
  array : List SlotRec
  image : List SlotRec
  /-- Bit c: copy c is BAD; an unreserved slot has copy 0 alone. -/
  copyBad : Nat
  bad : Bool
  deriving DecidableEq, Repr

/-- A slot that nothing was written to. -/
def KeySlot.empty : KeySlot := ⟨[], [], 0, false⟩

/-- The four reserved slots (R310). -/
def reservedSlot (n : Nat) : Bool := n = 0 || n = 1 || n = 2 || n = 255

/-- Copies of a slot in the key array (R310, R312). -/
def copiesOf (n : Nat) : Nat := if reservedSlot n then 2 else 1

/-- The copy that the slot serves from: the other one once copy 0 is BAD (R312). -/
def KeySlot.copy (k : KeySlot) : Nat := b2n (k.copyBad.testBit 0)

/-- The record that the slot serves. -/
def KeySlot.served (k : KeySlot) : SlotRec := k.image.getD k.copy SlotRec.zero

/-- Its key material, zero-padded. -/
def KeySlot.key (k : KeySlot) : Bytes := k.served.key

/-- Its attribute word (Table 11-2). -/
def KeySlot.attr (k : KeySlot) : Nat := k.served.attr

/-- Its count of writes. -/
def KeySlot.writes (k : KeySlot) : Nat := k.served.writes

/-- Slot `n` written: each copy that is not BAD, with its tag, in the array and in the SRAM (R309, R311). -/
def KeySlot.put (k : KeySlot) (n : Nat) (key : Bytes) (attr writes : Nat) : KeySlot :=
  let rs := (List.range (copiesOf n)).map (fun c =>
    if k.copyBad.testBit c then SlotRec.zero else ⟨key, attr, writes, slotTag n c key attr writes⟩)
  { k with array := rs, image := rs }

/-- The path of a derived key (Table 11-7). -/
structure KeyPath where
  level : Nat
  l1 : Nat
  l2 : Nat
  epx : Nat
  serial : Nat
  purpose : Nat
  epoch : Nat
  aes256 : Bool
  deriving DecidableEq, Repr

/-- An entry of the derived-key cache (R319). -/
structure KeyEntry where
  path : KeyPath
  key : Bytes
  pinned : Bool
  deriving DecidableEq, Repr

/-- The Bonded Store beyond its registers. -/
structure BondState where
  slots : Map KeySlot
  lifecycle : Nat
  ownerLock : Bool
  lockWrites : Nat
  floor : Nat
  floorWrites : Nat
  gates : List Nat
  gateWrites : Nat
  fillPending : Bool
  /-- A transition passed its commit point and its restart steps are due (R325 step 6). -/
  restartDue : Bool
  nonce : Option Bytes
  /-- When it was drawn, in ns (R314). -/
  nonceAt : Nat
  /-- Derived keys, most recently used first (R319). -/
  cache : List KeyEntry
  /-- TRNG outputs drawn. -/
  drawn : Nat
  deriving DecidableEq, Repr

/-- The attribute word of a reserved slot: fixed and generated (R310). -/
def deviceAttr (usage alg : Nat) : Nat := usage + alg * 2 ^ 4 + 2 ^ 7 + 2 ^ 8

/-- A slot created at manufacture, with a device value as its key (R310). -/
def KeySlot.device (n usage alg : Nat) : KeySlot := KeySlot.empty.put n (Config.deviceKey n) (deviceAttr usage alg) 0

/-- The key array of a part as it leaves manufacture: FACTORY, the four reserved slots filled (R310, Table 11-10). -/
def BondState.start : BondState where
  slots := [(0, KeySlot.device 0 8 4), (1, KeySlot.device 1 9 2), (2, KeySlot.device 2 10 2), (255, KeySlot.device 255 11 4)]
  lifecycle := 1
  ownerLock := false
  lockWrites := 0
  floor := 0
  floorWrites := 0
  gates := List.replicate 8 0
  gateWrites := 0
  fillPending := false
  restartDue := false
  nonce := none
  nonceAt := 0
  cache := []
  drawn := 0

end Sys2Proof.Machine
end

