-- ==== Sys2Proof/Machine/CraftState.lean ====
section
/-!
DEFINITION. State of craft control: craft rows, reservations, tasks, the correction queue, the base and all-stop
(chapter 9).
-/
namespace Sys2Proof.Machine

/-- A reservation (R269), with the host order it came from. -/
structure Resv where
  craft : Nat
  lane : Nat
  a : Nat
  b : Nat
  speed : Nat
  epoch : Nat
  order : Option Nat
  deriving DecidableEq, Repr

/-- A pending host order (R273): op 1 GO, 2 HOLD, 3 RELEASE. -/
structure POrder where
  id : Nat
  prio : Nat
  op : Nat
  lane : Nat
  speed : Nat
  a : Nat
  b : Nat
  window : Nat
  deriving DecidableEq, Repr

/-- A craft row (R272): what its last C_STATUS said, the task allotted to it, and its pending orders. -/
structure CraftRow where
  known : Bool
  lost : Bool
  lastHeard : Nat
  fix : Nat
  flags : Nat
  east : Nat
  north : Nat
  up : Nat
  heading : Nat
  speed : Nat
  lane : Nat
  junction : Nat
  task : Nat
  battery : Nat
  allot : Nat
  orders : List POrder
  deriving DecidableEq, Repr

/-- A craft that nothing was heard of. -/
def CraftRow.unknown : CraftRow := ⟨false, false, 0, 0, 0, 0, 0, 0, 0, 0, 0xFFFF, 0xFFFF, 0, 0xFF, 0, []⟩

/-- A task (R273): its place in the queue of its priority, and the craft it is allotted to. -/
structure Task where
  prio : Nat
  kind : Nat
  cap : Nat
  from' : Nat
  dest : Nat
  rank : Int
  craft : Option Nat
  deriving DecidableEq, Repr

/-- A queued C_ORDER or C_ACK frame (R261, R274): its seq once sent, its sends, and the host orders it carries as id and
lane. -/
structure CraftTx where
  craft : Nat
  ack : Bool
  seq : Option Nat
  sends : Nat
  body : Bytes
  orders : List (Nat × Nat)
  deriving DecidableEq, Repr

/-- The epoch in the correction queue (R266): what is sent of it and the next fragment. -/
structure Corr where
  epoch : Nat
  ne : Nat
  data : Bytes
  sent : Nat
  frag : Nat
  deriving DecidableEq, Repr

/-- What a frame of a downlink carries, as its sender stood before it: a C_STOP, a fragment of the epoch in the correction queue with
lastNe and R267's two effects, or a queued C_ORDER or C_ACK. -/
inductive DlWhat where
  /-- A C_STOP. -/
  | stop
  /-- A correction fragment. -/
  | corr (epoch : Corr) (lastNe : Option Nat) (slow suspended : Bool)
  /-- A queued frame. -/
  | cell (x : CraftTx)
  deriving DecidableEq, Repr

/-- A frame of the present downlink (R277): its first sample in ns, its airtime in µs, the second that its airtime is charged to, and
the port's seq before it. -/
structure DlFrame where
  start : Nat
  air : Nat
  sec : Nat
  seq : Nat
  what : DlWhat
  deriving DecidableEq, Repr

/-- The base survey (R264): seconds averaged, sums and sums of squares per axis, in 0.1 mm. -/
structure Survey where
  n : Nat
  sum : List Int
  sq : List Nat
  deriving DecidableEq, Repr

/-- Craft control. -/
structure CraftState where
  rows : Map CraftRow
  /-- Reservations by lane. -/
  lanes : Map (List Resv)
  /-- Tasks by id. -/
  tasks : Map Task
  queue : List CraftTx
  corr : Option Corr
  /-- N_e of the newest epoch whose every fragment was sent. -/
  lastNe : Option Nat
  /-- Superframe of the last accepted C_STATUS by craft, and the crafts accepted by superframe, as sf and craft. -/
  heard : Map Nat
  acks : List (Nat × Nat)
  /-- First superframe since the craft superframes started. -/
  firstSf : Option Nat
  /-- The superframe whose downlink was sent last. -/
  dlSf : Option Nat
  /-- The frames of that downlink, in order. -/
  dl : List DlFrame
  /-- R267's two effects. -/
  slow : Bool
  suspended : Bool
  survey : Survey
  /-- The base position in 0.1 mm, once READY. -/
  base : Option (List Int)
  /-- The surveyed position kept in keepalive SRAM with its BASE item. -/
  kept : Option (Bytes × List Int)
  /-- Sources STOP_IN, HOST and RESET (Table 9-8). -/
  stopIn : Bool
  host : Bool
  reset : Bool
  allStop : Bool
  epoch : Nat
  latched : Nat
  deriving DecidableEq, Repr

/-- Craft control after a reset: all-stop with the RESET source (R276). -/
def CraftState.start : CraftState where
  rows := []
  lanes := []
  tasks := []
  queue := []
  corr := none
  lastNe := none
  heard := []
  acks := []
  firstSf := none
  dlSf := none
  dl := []
  slow := false
  suspended := false
  survey := ⟨0, [0, 0, 0], [0, 0, 0]⟩
  base := none
  kept := none
  stopIn := false
  host := false
  reset := true
  allStop := true
  epoch := 0
  latched := 0x50

end Sys2Proof.Machine
end

