-- ==== Sys2Proof/Machine/HarbourState.lean ====
section
/-!
DEFINITION. State of the Harbourmaster, tugs, Logbook, plan loader and host interface (chapters 2, 3, 14 and 16).
Effects are parametric: `ε` is the effect type that State.lean closes over every block.
-/
namespace Sys2Proof.Machine

/-- One tally-gate slot and its stage buffer (R69, R70). -/
structure Slot (ε : Type) where
  m : Manifest
  berth : Nat
  /-- The tug executing the manifest; none once it has completed. -/
  tug : Option Nat
  /-- Marked CANCELLED by an ABANDON (R82). -/
  cancelled : Bool
  /-- A record it loaded was written back by another commit since (R74). -/
  stale : Bool
  loads : List RowKey
  stage : List ε
  /-- Waits of its commit already counted: bit 0 STORE.STALL_CNT, bit 1 CR_WAIT_CNT. -/
  waited : Nat
  /-- The dock whose tug executes or executed it. -/
  dock : Fin 16
  /-- Pages of its stage buffer in the stage area of that dock (R70). -/
  dockPages : Nat
  /-- Pages of its stage buffer in the DDR-5 stage region (R70). -/
  ddrPages : Nat
  deriving DecidableEq, Repr

/-- The ring of a berth: SRAM part and spill extent, each first in, first out (R61). -/
structure Berth where
  sram : List Manifest
  spill : List Manifest
  deriving DecidableEq, Repr

/-- Harbourmaster and tug state that no register holds (chapter 3). -/
structure HmState (ε : Type) where
  berths : Map Berth
  dead : List Manifest
  dlOverflow : Nat
  slots : Map (Slot ε)
  /-- Round-robin pointers of step 1, by dock × 8 + level (R65). -/
  rrHome : Map Nat
  /-- Round-robin pointers of step 2. -/
  rrSteal : Map Nat
  /-- Next flow sequence per flow (R71). -/
  seqNext : Map Nat
  /-- Next-release value per flow (R71, R72). -/
  relNext : Map Nat
  /-- Kinds whose KIND_STARVED record stands (R68). -/
  starved : List Nat
  /-- Fenced docks' reload flags: docks that reload their working area before dispatching (R78). -/
  reloading : List Nat
  /-- Fenced tugs waiting for a commanded self-test, in order (R79). -/
  testQueue : List Nat
  /-- Functions held by the loader during a delta (R51). -/
  held : List Nat
  /-- The instant of each function's last disable, in ns (R82). -/
  drainAt : Map Nat
  /-- Functions that start again when their drain ends: those that a takeover, or an entry to HIBERNATE that was given up, found
  draining (R83, R369, R457). -/
  restart : List Nat
  /-- Cancelled manifests that a tug still executed when they were cancelled, as berth, flow and flow_seq: each is released in
  its flow's order, and its slot is freed when the tug completes (R82). -/
  skips : List (Nat × Nat × Nat)
  deriving DecidableEq, Repr

/-- One Logbook record (Table 14-1). -/
structure LogRec where
  code : Nat
  damaged : Bool
  staged : Bool
  seq : Nat
  rep : Nat
  opSec : Nat
  quality : Nat
  powerCycles : Nat
  taiS : Nat
  taiNs : Nat
  lastDelta : Nat
  key : Nat
  detail : Nat
  /-- Snapshot: register value and BAR0 offset ÷ 4 (R381). -/
  snap : List (Nat × Nat)
  deriving DecidableEq, Repr

/-- An event waiting in the 64-entry queue (R380), stamped at its tick. -/
structure LogEvent where
  code : Nat
  staged : Bool
  key : Nat
  detail : Nat
  sec : Nat
  ns : Nat
  quality : Nat
  /-- The list of a LOG_SNAP record; none takes the list of the code (R381). -/
  list : Option Nat
  snap : List (Nat × Nat)
  deriving DecidableEq, Repr

/-- Logbook state (chapter 14). -/
structure LogState where
  queue : List LogEvent
  /-- Events dropped since the last LOG_LOST record (R380). -/
  dropped : Nat
  /-- The on-die array of permanent records (R375). -/
  permanent : List LogRec
  /-- The buffer's copy of that array (R376). -/
  copy : List LogRec
  /-- When the last permanent record was created, in ns; and power failed while the array was being programmed with it (R384). -/
  permAt : Option Nat
  permCut : Bool
  /-- The circulating pages of the buffer, oldest first: up to 8, the last one open while it is not full (R376). -/
  pages : List (List LogRec)
  /-- How many pages from the oldest await no programming: durable, or kept in the buffer alone in NO_KEY. -/
  done : Nat
  nextSeq : Nat
  /-- Number of the newest record; 0 before the first (Table 14-5). -/
  newestSeq : Nat
  opSec : Nat
  opSecSaved : Nat
  powerCycles : Nat
  clearMark : Nat
  deriving DecidableEq, Repr

/-- An item of a plan section (R34). -/
structure Item where
  type : Nat
  value : Bytes
  deriving DecidableEq, Repr

/-- A section of a plan (R33): its tag and items. -/
structure Section where
  tag : Nat
  items : List Item
  deriving DecidableEq, Repr

/-- Plan loader state that no register holds (chapter 2). -/
structure PlanState where
  /-- The PLAN_VERIFY slot that signed the running plan (R316). -/
  signer : Option Nat
  /-- The running plan's sections; empty while no plan is in service. -/
  running : List Section
  /-- Sections of a delta that passed DELTA_CHECK and are still to be applied, in tag order (R51). -/
  todo : List Section
  /-- The SERIAL of the delta being applied. -/
  deltaSerial : Nat
  /-- Sections the delta carried, for its PLAN_DELTA record. -/
  deltaCount : Nat
  /-- Functions that ran when the loader closed their intake, to be reopened after the section (R51). -/
  reopen : List Nat
  /-- The instant at which the loader closed the intake of the section in progress, in ns (R51). -/
  heldAt : Nat
  deriving DecidableEq, Repr

/-- One completion ring beyond its registers (R413). -/
structure RingState where
  phase : Bool
  /-- Entries written and not freed. -/
  used : Nat
  /-- Messages written and not signalled. -/
  unsignalled : Nat
  /-- When the oldest of them was written, in ns. -/
  since : Nat
  deriving DecidableEq, Repr

/-- The host side of the PCIe endpoint (R408-R413). -/
structure HostState where
  linkUp : Bool
  busMaster : Bool
  /-- Function mask of MSI-X (R409). -/
  msixMasked : Bool
  /-- Vectors sent, newest first, up to 64: what the link has issued. -/
  sent : List Nat
  rings : List RingState
  /-- Bytes of host memory that the device has written. -/
  mem : Map Byte
  /-- The value the last host read returned. -/
  readData : List Word
  /-- The high word latched by a low-word read, by the high word's address (R14). -/
  latch : Map Word
  /-- Doorbell rings in progress: berth and manifests still to come (R410). -/
  rings410 : Map Nat
  deriving DecidableEq, Repr

/-- A packet in a signal FIFO: its header word (Table 16-6) and payload. -/
structure Packet where
  kind : Nat
  kindArg : Nat
  flow : Nat
  epx : Option Nat
  arr : Arrival
  data : Bytes
  deriving DecidableEq, Repr

/-- A signal FIFO (R418-R420): whole packets, oldest first, with the write pointer in half-words and the read pointer in
words. -/
structure Fifo where
  packets : List Packet
  wptr : Nat
  rptr : Nat
  deriving DecidableEq, Repr

/-- An operation of a DMA channel: CTL, the addresses, LEN and ELEM (R422, Table 16-11). -/
structure DmaOp where
  ctl : Nat
  src : Nat
  dst : Nat
  idx : Nat
  len : Nat
  elem : Nat
  deriving DecidableEq, Repr

/-- DMA state that no register holds (R421). -/
structure DmaState where
  fifos : Map Fifo
  /-- The FIFO each of channels 0-11 served last. -/
  served : Map Nat
  /-- What each busy channel does: its registers as the GO write found them (R422, assumption 60). -/
  ops : Map DmaOp
  deriving DecidableEq, Repr

/-- Endpoint pipeline state that no register holds (chapter 4). -/
structure EpState where
  recs : Map EpRec
  /-- Records whose DDR-5 bytes are uncorrectable (R92, Table 1-10). -/
  damaged : List Nat
  /-- The record cache: EPX by load order, newest first (R90). -/
  cache : List Nat
  level : Nat
  /-- Sources under back-pressure, as source class × 1024 + index, with the instant of the last shed or refusal in ns (R118). -/
  bp : Map Nat
  /-- DDR-5 lost its content: a record that was not written since has no good bytes (Table 18-2, R92). -/
  lost : Bool
  deriving DecidableEq, Repr

/-! ### Before the first boot, and after a reset's wipe (R326, Table 18-2) -/

/-- The Harbourmaster with nothing queued. -/
def HmState.start {ε : Type} : HmState ε where
  berths := []
  dead := []
  dlOverflow := 0
  slots := []
  rrHome := []
  rrSteal := []
  seqNext := []
  relNext := []
  starved := []
  reloading := []
  testQueue := []
  held := []
  drainAt := []
  restart := []
  skips := []

/-- A Logbook that holds no record. -/
def LogState.start : LogState where
  queue := []
  dropped := 0
  permanent := []
  copy := []
  permAt := none
  permCut := false
  pages := []
  done := 0
  nextSeq := 0
  newestSeq := 0
  opSec := 0
  opSecSaved := 0
  powerCycles := 0
  clearMark := 0

/-- The loader with no plan. -/
def PlanState.start : PlanState := ⟨none, [], [], 0, 0, [], 0⟩

/-- A ring as an enable starts it (R413). -/
def RingState.start : RingState := ⟨true, 0, 0, 0⟩

/-- The host interface before the link is up. -/
def HostState.start : HostState where
  linkUp := false
  busMaster := false
  msixMasked := true
  sent := []
  rings := List.replicate 8 RingState.start
  mem := []
  readData := []
  latch := []
  rings410 := []

/-- Signal FIFOs with nothing in them. -/
def DmaState.start : DmaState := ⟨[], [], []⟩

/-- The endpoint pipeline before DDR-5 holds anything. -/
def EpState.start : EpState := ⟨[], [], [], 0, [], true⟩

end Sys2Proof.Machine
end

