-- ==== Sys2Proof/Machine/CustomsState.lean ====
section
/-!
DEFINITION. State of the Customs domain (chapter 7).
-/
namespace Sys2Proof.Machine

/-- A billing record (Table 7-2) without its tag: energy 16q + t, reported q, demand t as value and start, tamper kind k
as count, first and last. -/
structure BillRec where
  serial : Nat
  lastEnd : Nat
  seq : Nat
  period : Nat
  energy : List Nat
  reported : List Nat
  demand : List (Nat × Nat)
  tamper : List (Nat × Nat × Nat)
  deriving DecidableEq, Repr

/-- An empty record. -/
def BillRec.empty : BillRec :=
  ⟨0, 0, 0, 0, List.replicate 64 0, [0, 0, 0, 0], List.replicate 16 (0, 0), List.replicate 32 (0, 0, 0)⟩

/-- The open site interval (R220): start in ns of C, Wh per quantity, status bits, powered time in ns before `since`,
and the C since which it has been powered (R222, R226). -/
structure OpenIv where
  start : Nat
  energy : List Nat
  status : Nat
  powered : Nat
  since : Nat
  deriving DecidableEq, Repr

/-- A calendar slot (R216, R218): Table 7-16 state, version, activation time, and the times from and until which it was
in force; its CAL, SEASON, DAY and SPECIAL items. -/
structure Cal where
  state : Nat
  version : Nat
  activation : Nat
  from' : Nat
  until' : Nat
  items : List Item
  deriving DecidableEq, Repr

/-- A slot that is EMPTY. -/
def Cal.empty : Cal := ⟨0, 0, 0, 0, 0, []⟩

/-- A record of the Customs partition (Table 7-7): type, EPX, C in s when it was written, and its bytes, tag included; the
first and the last page of the partition that hold it, whether one of them no longer reads (R343), and whether the endpoint was an
electricity meter when it was written (assumption 63). -/
structure CusRec where
  type : Nat
  epx : Nat
  at' : Nat
  bytes : Bytes
  first : Nat
  page : Nat
  lost : Bool
  elec : Bool
  deriving DecidableEq, Repr

/-- What the domain journals when power goes (R226, R236): t_pd in ns, accumulators, open interval. -/
structure CusDown where
  at' : Nat
  acc : List Nat
  openIv : Option OpenIv
  deriving DecidableEq, Repr

/-- The sums of one metrology second (R203, Table 7-15): samples, power per phase in mW and mvar, RMS in mV and mA, and the RMS of the phase currents' sum. -/
structure MetroSums where
  n : Nat
  p : List Int
  q : List Int
  vrms : List Nat
  irms : List Nat
  inrms : Nat
  isum : Nat
  freq : Nat
  temp : Int
  deriving DecidableEq, Repr

/-- The Customs domain. -/
structure CustomsState where
  /-- 0 STARTING, 1 RESTORING, 2 RUN, 3 HALTED, 4 POWER_DOWN. -/
  state : Nat
  /-- r, in 2⁻⁵⁶ ns (R207). -/
  resid : Int
  hwm : Nat
  period : Nat
  /-- The boundary that closed the last period, and its label. -/
  periodStart : Nat
  closeLabel : Nat
  openIv : Option OpenIv
  /-- Accumulators A+, A−, R+, R− below 1 Wh, in mW × samples (R203). -/
  acc : List Nat
  /-- A+ of the sub-interval in progress and of the last ones since the window restarted, newest first (R221). -/
  subNow : Nat
  subs : List Nat
  /-- The latest sub-interval end processed, and whether the sub-interval in progress began before the window's restart. -/
  subEnd : Nat
  subCut : Bool
  mailbox : List Handoff
  /-- Hand-offs of a MAILBOX record that are still to be applied (R215, R235). -/
  mbxRec : List Handoff
  /-- last_end before the first hand-off of the latest frame, by EPX (R213). -/
  frameEnds : Map Nat
  recs : Map BillRec
  /-- Records whose tag does not verify (R201). -/
  bad : List Nat
  site : BillRec
  cals : List Cal
  /-- Slots whose activation was 0 or past at acceptance: they become ACTIVE at the next grid boundary, in this order (R218). -/
  due : List Nat
  zone : Option Bytes
  metro : Option Bytes
  sweepItem : Option Bytes
  /-- The journal buffer and the partition, oldest first (R233). -/
  buffer : List CusRec
  /-- Bytes of the buffer's front record that stand in programmed pages: records may span pages (R341). -/
  cusOff : Nat
  part : List CusRec
  /-- Profile entries not written for want of room: EPX, channel, start and number of intervals (R230). -/
  dropped : List (Nat × Nat × Nat × Nat)
  /-- seq at the last COPY, by EPX (R234). -/
  copied : Map Nat
  /-- Times of lockstep mismatches in the last 24 h, in ns. -/
  mismatches : List Nat
  restarting : Bool
  /-- Per-second sums waiting while the cores restart, up to 64 (R199). -/
  queue : List MetroSums
  /-- Site tamper events that wait while the cores restart (R231). -/
  tampers : List Nat
  /-- Seconds in a row in which each phase's power was reversed, and in which the neutral current was too high (kinds 4 and 5), and
  whether a phase voltage is missing (kind 3; Table 7-6). -/
  revSecs : List Nat
  neutralSecs : Nat
  voltMissing : Bool
  running : Bool
  userCal : Option Bytes
  /-- The offsets of the last hourly calibration, by channel, and the sample that a calibration of this second took (R206). -/
  offsets : List Int
  calAt : Option Nat
  /-- Intervals that begin before this C, in ns, carry OVERLAP (R227). -/
  overlapTo : Nat
  /-- The power-down journaled last (R226). -/
  down : Option CusDown
  /-- The seal key derived at start (R200). -/
  sealKey : Option Bytes
  deriving DecidableEq, Repr

/-- The domain before its first start. -/
def CustomsState.reset : CustomsState where
  state := 0
  resid := 0
  hwm := 0
  period := 0
  periodStart := 0
  closeLabel := 0
  openIv := none
  acc := [0, 0, 0, 0]
  subNow := 0
  subs := []
  subEnd := 0
  subCut := false
  mailbox := []
  mbxRec := []
  frameEnds := []
  recs := []
  bad := []
  site := { BillRec.empty with serial := 0xFFFFFFFFFFFFFFFF }
  cals := List.replicate 8 Cal.empty
  due := []
  zone := none
  metro := none
  sweepItem := none
  buffer := []
  cusOff := 0
  part := []
  dropped := []
  copied := []
  mismatches := []
  restarting := false
  queue := []
  tampers := []
  revSecs := [0, 0, 0]
  neutralSecs := 0
  voltMissing := false
  running := false
  userCal := none
  offsets := List.replicate 7 0
  calAt := none
  overlapTo := 0
  down := none
  sealKey := none

end Sys2Proof.Machine
end

