-- ==== Sys2Proof/Machine/PanelState.lean ====
section
/-!
DEFINITION. State of the bistable panel (chapter 17).
-/
namespace Sys2Proof.Machine

/-- What the panel does at the present time. -/
inductive PanelPhase where
  /-- OFF: PANEL_EN_HV low. -/
  | off
  /-- PANEL_EN_HV asserted, hv_settle not yet over (R438). -/
  | settle
  /-- No run and no compensation. -/
  | idle
  /-- A run (R430). -/
  | run
  /-- Compensation, with the frames it has run (R432). -/
  | comp (frames : Nat)
  /-- Idle codes latched, hv_discharge not yet over. -/
  | discharge
  deriving DecidableEq, Repr

/-- What follows the compensation in progress. -/
inductive PanelNext where
  | idle
  /-- The aborted run restarts (R434). -/
  | restart
  /-- Step 4 of a power-up (R438). -/
  | clear
  /-- Step 5. -/
  | redraw
  /-- Step 6. -/
  | light
  /-- Idle codes and the discharge of a power-down. -/
  | down
  deriving DecidableEq, Repr

/-- A run: driven segments, their old bits and target bits as image masks, the band latched, the frame. -/
structure PanelRun where
  driven : Nat
  old : Nat
  target : Nat
  band : Nat
  frame : Nat
  deriving DecidableEq, Repr

/-- The panel controller. Images are numbers whose bit n is image bit n (R426). -/
structure PanelState where
  phase : PanelPhase
  /-- When hv_settle or hv_discharge began, in ns (R438). -/
  phaseAt : Nat
  next : PanelNext
  /-- What follows the restarted run. -/
  after : PanelNext
  /-- A power-up sequence is in progress (R438). -/
  powering : Bool
  run : PanelRun
  band : Nat
  /-- A frame boundary has read the temperature since power-up. -/
  bandKnown : Bool
  /-- Kept in keepalive SRAM (R439): displayed image, target, in_run and accounts; whether that content is valid. -/
  displayed : Nat
  target : Nat
  inRun : Bool
  accounts : Map Int
  kept : Bool
  /-- A loss of power or a reset cut the panel off since its last power-up. -/
  cut : Bool
  /-- The target row in DDR-5 (R435), without blinking and readout. -/
  row : Nat
  pending : Option Nat
  /-- Blink groups in their on time (R437). -/
  blink : List Nat
  /-- The latest edge of each blink group, in ns; none before its first on time (R437). -/
  blinkAt : Map Nat
  page : Nat
  /-- The latest advance of the page, in ns (R436). -/
  pageAt : Nat
  /-- Slots started in the frame in progress. -/
  slots : Nat
  /-- Level codes the drivers hold, in the order shifted (R428). -/
  codes : List Nat
  hv : Bool
  /-- PANEL_EN_FL may be asserted. -/
  lit : Bool
  unbalanced : Bool
  /-- When TEMP_HOST was written last, in ns; its staleness is reported. -/
  tempAt : Nat
  stale : Bool
  deriving DecidableEq, Repr

/-- The panel at a first power-up: nothing is kept. -/
def PanelState.reset : PanelState where
  phase := .off
  phaseAt := 0
  next := .idle
  after := .idle
  powering := false
  run := ⟨0, 0, 0, 0, 0⟩
  band := 0
  bandKnown := false
  displayed := 0
  target := 0
  inRun := false
  accounts := []
  kept := false
  cut := false
  row := 0
  pending := none
  blink := []
  blinkAt := []
  page := 0
  pageAt := 0
  slots := 0
  codes := []
  hv := false
  lit := false
  unbalanced := false
  tempAt := 0
  stale := false

end Sys2Proof.Machine
end

