-- ==== Sys2Proof/Machine/PlcState.lean ====
section
/-!
DEFINITION. State of the power-line segments (chapter 5).
-/
namespace Sys2Proof.Machine

/-- A map set (Table 5-7): generation, rate and the six sub-maps as 100 codes each. -/
structure MapSet where
  gen : Nat
  rate : Nat
  codes : List (List Nat)
  deriving DecidableEq, Repr

/-- Frame control fields (Table 5-3). -/
structure FrameCtl where
  ftype : Nat
  dst : Nat
  src : Nat
  symbols : Nat
  rate : Nat
  mapped : Bool
  gen : Nat
  w0 : Nat
  n0 : Nat
  more : Bool
  reest : Bool
  deriving DecidableEq, Repr

/-- A DATA_DOWN that is not yet delivered (R146). -/
structure DownFrame where
  seq : Nat
  sends : Nat
  envs : List (Nat × Bytes)
  deriving DecidableEq, Repr

/-- A poll-table position: its entry, neighbour entry and transmit cells (R138, R145, R147). -/
structure PlcNode where
  epx : Nat
  serial : Nat
  pollLog2 : Nat
  /-- BEACONs still to carry its ASSIGN item (R145). -/
  assignLeft : Nat
  fwd : Option MapSet
  /-- The forward set's previous generation (R138). -/
  fwdPrev : Option MapSet
  ret : Option MapSet
  /-- The return set's previous generation, while it still decodes (R135). -/
  retPrev : Option MapSet
  /-- map_gen of the last return set, also of one that a new notch mask made invalid (R135, R137). -/
  retGen : Option Nat
  /-- Rate step the next return set is computed at (R136). -/
  rate : Nat
  /-- The return set is to go out in a MAPSET item (R137, R141). -/
  mapDue : Bool
  /-- SNR estimates in 2^-20 of 1/8 dB by window × 100 + group (R136, assumption 59). -/
  snr : Map Int
  /-- Stored per-group channel magnitude in dB (R142). -/
  chan : Map Int
  reest : Bool
  /-- The last 32 direct attempts, newest first: reply frame control seen, frame decoded (R153). -/
  attempts : List (Bool × Bool)
  /-- The last 32 uplink attempts, newest first: true for a failed one (R137). -/
  fails : List Bool
  /-- Uplink failures since the last timed refresh (R136). -/
  failsSince : Nat
  neigh : List (Nat × Nat)
  /-- Route list of the MESH mode path; empty for a direct path (R155, R156). -/
  route : List Nat
  cost : Nat
  unreachable : Bool
  /-- Times in ns of up to two earlier failures per window, oldest first (R141). -/
  failTimes : Map (List Nat)
  lastRefresh : Nat
  /-- Since when the link is due for refresh by failures or a new notch mask, and by sound_now (R137). -/
  dueAt : Option Nat
  soundDue : Option Nat
  /-- The refresh in progress is a timed one (R136). -/
  timed : Bool
  confirmCell : Option (Nat × Bytes)
  cells : List (Nat × Bytes)
  down : Option DownFrame
  downSeq : Nat
  /-- seq of the last frame received correctly from the node. -/
  ackSeq : Nat
  /-- DATA_UP frames acknowledged since its last DATA_DOWN that carried an envelope (R148). -/
  upCount : Nat
  deriving DecidableEq, Repr

/-- A fresh entry (R145). -/
def PlcNode.new (epx serial now : Nat) : PlcNode where
  epx := epx
  serial := serial
  pollLog2 := 0
  assignLeft := 3
  fwd := none
  fwdPrev := none
  ret := none
  retPrev := none
  retGen := none
  rate := 1
  mapDue := false
  snr := []
  chan := []
  reest := false
  attempts := []
  fails := []
  failsSince := 0
  neigh := []
  route := []
  cost := 255
  unreachable := false
  failTimes := []
  lastRefresh := now
  dueAt := none
  soundDue := none
  timed := false
  confirmCell := none
  cells := []
  down := none
  downSeq := 1
  ackSeq := 0
  upCount := 0

/-- The exchange in progress: position polled, position of the first hop, frame type sent (Table 5-4), whether the path is
relayed, and the instant in ns at which the reply is missing (Table 5-8, R156). -/
structure Exchange where
  pos : Nat
  hop : Nat
  kind : Nat
  relayed : Bool
  deadline : Nat
  /-- Its signal buffer had an uncorrectable error: the reply is not acknowledged (Table 1-10). -/
  hit : Bool
  deriving DecidableEq, Repr

/-- A frame of the latest transmission: the TAI nanoseconds of its first preamble sample and of the end of its last sample, its
frame control, the six sub-maps it is loaded by and its body. -/
structure PlcTx where
  start : Nat
  stop : Nat
  fc : FrameCtl
  maps : List (List Nat)
  body : Bytes
  deriving DecidableEq, Repr

/-- One segment beyond its registers (chapter 5). -/
structure PlcSeg where
  running : Bool
  /-- The anchor A in ns (R143). -/
  anchor : Int
  nodes : Map PlcNode
  /-- Positions on the re-poll list of this cycle and of the next (R140). -/
  repoll : List Nat
  repollNext : List Nat
  /-- Positions whose REQ was acknowledged in the previous cycle and in this one (R144). -/
  req : List Nat
  reqNext : List Nat
  /-- Positions due by poll class, as evaluated at the cycle start (R144). -/
  due : List Nat
  /-- Positions polled in this cycle. -/
  done : List Nat
  exch : Option Exchange
  inWindow : Bool
  /-- A nominal start passed while polls remained (R144). -/
  late : Bool
  /-- Refreshes started in this cycle (R137). -/
  refreshes : Nat
  /-- Time in ns of the latest crossing and the accepted intervals in µs, newest first, up to 8 (R132). -/
  tzc : Nat
  /-- Time in ns of the latest edge, accepted or not. -/
  lastEdge : Nat
  intervals : List Nat
  /-- seq of the next BEACON. -/
  seq : Nat
  /-- FW_BLOCK items for the next BEACON (R405). -/
  fwBlocks : List Bytes
  /-- Positions whose neighbour entries the signal buffers cache, the last loaded first (R138). -/
  cache : List Nat
  /-- Powers of the last received samples that the Breakwater did not zero, newest first (R139). -/
  floor : List Nat
  /-- Frames of the latest transmission. -/
  txNow : List PlcTx
  /-- End of the last sample sent or received on the segment, in ns (Table 5-8). -/
  airEnd : Nat
  deriving DecidableEq, Repr

/-- A segment at reset. -/
def PlcSeg.reset : PlcSeg where
  running := false
  anchor := 0
  nodes := []
  repoll := []
  repollNext := []
  req := []
  reqNext := []
  due := []
  done := []
  exch := none
  inWindow := false
  late := false
  refreshes := 0
  tzc := 0
  lastEdge := 0
  intervals := []
  seq := 1
  fwBlocks := []
  cache := []
  floor := []
  txNow := []
  airEnd := 0

end Sys2Proof.Machine
end

