-- ==== Sys2Proof/Machine/PowerState.lean ====
section
/-!
DEFINITION. State of power, reset and the background activities (chapter 18), and the memory that host-programmed DMA
writes (chapter 16).
-/
namespace Sys2Proof.Machine

/-- Power and reset state that no register holds. -/
structure PowerState where
  /-- DDR-5 found at training, in MiB; 0 before the first (R450 step 4). -/
  ddrMiB : Nat
  /-- A reset is held and BOOT has not run since. -/
  inReset : Bool
  /-- The last reset's release in ns, on the timebase as it runs now. -/
  released : Int
  /-- Records to be written at the start: code, key and detail (R449, R459, R467). -/
  startLog : List (Nat × Nat × Nat)
  /-- Last-gasp sequence: 0 none, 1 the flush is durable and the frames are due (R458). -/
  gasp : Nat
  /-- A PWR.CMD RESET held while a store flush runs (R447). -/
  heldReset : Bool
  /-- ON_BACKUP asserted (R453). -/
  onBackup : Bool
  /-- The last kick of the watchdog in ns (R448). -/
  kicked : Nat
  /-- The instant the loader last left SEALED for a delta, in ns: the watchdog does not count the time in DELTA_CHECK and
  DELTA_APPLY (R448). -/
  unsealed : Nat
  warned : Bool
  /-- The known event a wake is scheduled for, and the instant of entry, in ns (R454). -/
  nextEvent : Nat
  entered : Nat
  /-- An entry to HIBERNATE in progress: when it began and the known event it is for, in ns (R456, R457). -/
  hibEntry : Option (Nat × Nat)
  /-- Background passes that BG_NOW started and that run (R462). -/
  passes : List Nat
  /-- Levels of the GPIO inputs (R475). -/
  gpio : Nat
  /-- Bytes that DMA channels 12-15 wrote in the device address space (R422). -/
  devMem : Map Byte
  /-- When the periodic background activities last ran, in ns: 0 telemetry, 1 GNSS group delay, 2 oscillator ageing, 3 metrology
  offset, 4 the saving of GNSS aiding (R28, R298, Table 1-9). -/
  bgAt : Map Nat
  /-- Bytes of the local stores, by tug × 65,536 + offset: 0 where none is listed, as the wipe of every reset leaves them
  (R55, Table 1-5). -/
  tugMem : Map Byte
  deriving DecidableEq, Repr

/-- Before the first boot. -/
def PowerState.reset : PowerState := ⟨0, true, 0, [(0x1801, 0, 0)], 0, false, false, 0, 0, false, 0, 0, none, [], 0, [], [], []⟩

end Sys2Proof.Machine
end

