-- ==== Sys2Proof/Machine/RadioState.lean ====
section
/-!
DEFINITION. State of the radio ports and of duty-cycle accounting (chapter 6).
-/
namespace Sys2Proof.Machine

/-- A schedule of an entry: width code, period_log2 and phase (R170). -/
structure Sched where
  width : Nat
  p : Nat
  phase : Nat
  deriving DecidableEq, Repr

/-- A queued downlink envelope, and the schedule that its LINK_PARAM announces (R183). -/
structure TxCell where
  env : Bytes
  sched : Option Sched
  deriving DecidableEq, Repr

/-- A DOWN sent and not yet delivered: its seq, sends, and whether it carries the CONFIRM cell (R179). -/
structure DownSent where
  seq : Nat
  sends : Nat
  confirm : Bool
  deriving DecidableEq, Repr

/-- A slot-table entry (R170) with its transmit cells (R179). -/
structure RadioEntry where
  epx : Nat
  serial : Nat
  chan : Nat
  slot : Nat
  sch : Sched
  /-- SCHED changes under way, oldest first, and the one whose DOWN was delivered (R183). -/
  newSch : List Sched
  schReady : Option Sched
  /-- 1 UP, 2 SEARCH, 3 PENDING (Table 6-12). -/
  state : Nat
  count : Nat
  /-- Superframe of the last matched occurrence, plus 1; 0 none. -/
  matched : Nat
  /-- A matched DATA frame of this occurrence was counted as acknowledged. -/
  counted : Bool
  confirmCell : Option Bytes
  cells : List TxCell
  down : Option DownSent
  /-- DATA frames acknowledged since the last delivered envelope (R180). -/
  acked : Nat
  /-- Windows of issue markers (R180). -/
  markers : List Nat
  deriving DecidableEq, Repr

/-- A matched uplink that awaits its response (R177). -/
structure RespDue where
  epx : Nat
  slot : Nat
  /-- End of the last uplink bit and of the entry, in ns. -/
  tEnd : Nat
  limit : Nat
  seq : Nat
  rescued : Bool
  ackReq : Bool
  /-- Envelope type; 16 for a POLL. -/
  etype : Nat
  /-- δ in µs. -/
  offset : Int
  deriving DecidableEq, Repr

/-- A frame of the latest transmission on a channel; its first and last sample leave at `start` and `stop`, in ns. -/
structure RadioTx where
  start : Nat
  stop : Nat
  chan : Nat
  ftype : Nat
  seq : Nat
  ackSeq : Nat
  ackValid : Bool
  body : Bytes
  deriving DecidableEq, Repr

/-- An ASSIGN waiting for its beacon slots (R173). -/
structure Assign where
  epx : Nat
  serial : Nat
  slot : Nat
  sch : Sched
  chan : Nat
  left : Nat
  deriving DecidableEq, Repr

/-- One RF port beyond its registers. -/
structure RadioPort where
  running : Bool
  /-- The port's first superframe since it started (R189). -/
  firstSf : Nat
  anchor : Int
  entries : List RadioEntry
  assigns : List Assign
  /-- Per channel, the place after the last CALL, as slot × 128 + phase (R173). -/
  callPtr : Map Nat
  /-- First slots acknowledged in a group bitmap, as channel × 4096 + slot (R178). -/
  acks : List Nat
  /-- Consecutive skipped beacon transmissions (R189). -/
  skips : Nat
  seq : Nat
  resp : Map RespDue
  txNow : List RadioTx
  /-- First and last sample of recent transmissions, in ns, newest first (R164). -/
  bursts : List (Nat × Nat)
  deriving DecidableEq, Repr

/-- A port at reset. -/
def RadioPort.reset : RadioPort where
  running := false
  firstSf := 0
  anchor := 0
  entries := []
  assigns := []
  callPtr := []
  acks := []
  skips := 0
  seq := 1
  resp := []
  txNow := []
  bursts := []

/-- Usage of one TIME-domain second by class, in µs (R185). -/
structure DutySec where
  sec : Nat
  b : Nat
  s : Nat
  g : Nat
  deriving DecidableEq, Repr

/-- The account of a sub-band, kept in keepalive SRAM (R188). -/
structure DutyBand where
  valid : Bool
  low : Nat
  high : Nat
  secs : List DutySec
  /-- A preload: the second it was made in and its class-G µs per second. -/
  pre : Option (Nat × Nat)
  deriving DecidableEq, Repr

/-- The radio ports. -/
structure RadioState where
  ports : List RadioPort
  /-- Elapsed TIME-domain seconds, the count of R185. -/
  dutySec : Nat
  duty : List DutyBand
  /-- local_ppm as it changed: since when, in ns, and its value, newest first (R174). -/
  ppm : List (Nat × Nat)
  deriving DecidableEq, Repr

/-- Ports at reset, and no valid duty account in keepalive SRAM. -/
def RadioState.start : RadioState :=
  ⟨List.replicate 4 RadioPort.reset, 0, List.replicate 16 ⟨false, 0, 0, [], none⟩, []⟩

end Sys2Proof.Machine
end

