-- ==== Sys2Proof/Machine/Regs.lean ====
section
/-!
DEFINITION. Every register of the device (Table 20-7, R490): its name, its BAR0 address and instances, its reset value
and, for each access code of Table 0-2, the mask of the bits that have it (R11). The tables of the block chapters
define the fields.
-/
namespace Sys2Proof.Machine

/-- The registers of Table 20-7 by the manual's names. Doorbell registers of BAR2 carry BAR2 in the name. -/
inductive Reg where
  | GLOBAL_ID
  | GLOBAL_REV
  | GLOBAL_STATUS
  | GLOBAL_INT
  | GLOBAL_INT_EN
  | GLOBAL_TEMP
  | GLOBAL_TEMP_MAX
  | GLOBAL_HOT_CFG
  | GLOBAL_SCRUB_CORR_CNT
  | GLOBAL_SCRUB_UNCORR_CNT
  | GLOBAL_SCRATCH
  | PLAN_STATUS
  | PLAN_BOOT_ERROR_0
  | PLAN_BOOT_ERROR_1
  | PLAN_DELTA_ERROR
  | PLAN_SERIAL_LO
  | PLAN_SERIAL_HI
  | PLAN_EPOCH
  | PLAN_EPOCH_FLOOR
  | PLAN_CMD
  | PLAN_INT
  | PLAN_DELTA_ADDR_LO
  | PLAN_DELTA_ADDR_HI
  | PLAN_DELTA_LEN
  | HM_STATUS
  | HM_INT
  | HM_INT_EN
  | HM_STALE_CNT
  | HM_POISON_CNT
  | HM_DL_STATUS
  | HM_DL_POP
  | HM_DL_ENTRY
  | HM_LEVEL_DEPTH
  | HM_FUNC_CTL
  | HM_BERTH_CFG
  | HM_BERTH_LIM
  | HM_BERTH_DEPTH
  | HM_BERTH_STAT
  | TUG_FLEET_STATUS
  | TUG_SELFTEST_CMD
  | TUG_SELFTEST_RESULT
  | TUG_FAIL_LAST
  | TUG_FENCED
  | TUG_DOCK_CFG
  | TUG_DOCK_KIND_LO
  | TUG_DOCK_KIND_HI
  | TUG_BUDGET
  | EP_STATUS
  | EP_INT
  | EP_INT_EN
  | EP_RX_FRAMES_CNT
  | EP_HDR_REJ_CNT
  | EP_AUTH_FAIL_CNT
  | EP_REPLAY_REJ_CNT
  | EP_SHED_CNT
  | EP_VEE_FAIL_CNT
  | EP_VEE_EST_CNT
  | EP_CONFLICT_CNT
  | EP_RECORD_LOST_CNT
  | EP_CACHE_HIT_CNT
  | EP_CACHE_MISS_CNT
  | EP_ADMIT_CFG
  | EP_ADMIT_CFG2
  | EP_CMD_CFG
  | EP_RD_CMD
  | EP_RD_STATUS
  | EP_RD_DATA
  | PLC_SEG_CTL
  | PLC_SEG_STATUS
  | PLC_INT
  | PLC_INT_EN
  | PLC_CYCLE
  | PLC_ZC
  | PLC_RX_OK_CNT
  | PLC_RX_FAIL_CNT
  | PLC_ERASED_SYM_CNT
  | PLC_BLANK_CNT
  | PLC_DOWNGRADE_CNT
  | PLC_POLL_FAIL_CNT
  | PLC_TX_DROP_CNT
  | PLC_CONTEND_CNT
  | PLC_SEG_CFG0
  | PLC_SEG_CFG1
  | PLC_SEG_CFG2
  | PLC_NOTCH
  | PLC_ENTRY_CMD
  | PLC_ENTRY_STATUS
  | RADIO_PORT_CTL
  | RADIO_PORT_STATUS
  | RADIO_INT
  | RADIO_INT_EN
  | RADIO_SUPERFRAME
  | RADIO_SLOT
  | RADIO_LOCAL_PPM
  | RADIO_RX_OK_CNT
  | RADIO_RX_CRC_FAIL_CNT
  | RADIO_RESCUED_CNT
  | RADIO_UNSLOTTED_CNT
  | RADIO_MISSED_CNT
  | RADIO_ACK_CNT
  | RADIO_DOWN_CNT
  | RADIO_TX_DROP_CNT
  | RADIO_DEFER_CNT
  | RADIO_BEACON_SKIP_CNT
  | RADIO_CFG0
  | RADIO_CFG1
  | RADIO_CFG2
  | RADIO_ENTRY_CMD
  | RADIO_ENTRY_EPX
  | RADIO_ENTRY_STATUS
  | RADIO_SB_LIMIT
  | RADIO_SB_LOW
  | RADIO_SB_HIGH
  | RADIO_SB_USED_B
  | RADIO_SB_USED_S
  | RADIO_SB_USED_G
  | CUSTOMS_STATUS
  | CUSTOMS_INT
  | CUSTOMS_INT_EN
  | CUSTOMS_ROM_ID
  | CUSTOMS_ROM_CRC
  | CUSTOMS_PERIOD
  | CUSTOMS_HWM_LO
  | CUSTOMS_HWM_HI
  | CUSTOMS_CTIME_LO
  | CUSTOMS_CTIME_HI
  | CUSTOMS_RESIDUAL
  | CUSTOMS_AUTH_REASON
  | CUSTOMS_MBX_CMD
  | CUSTOMS_MBX_ARG0
  | CUSTOMS_MBX_ARG1
  | CUSTOMS_MBX_ARG2
  | CUSTOMS_MBX_STATUS
  | CUSTOMS_MBX_ADDR_LO
  | CUSTOMS_MBX_ADDR_HI
  | CUSTOMS_MBX_LEN
  | CUSTOMS_V_RMS
  | CUSTOMS_I_RMS
  | CUSTOMS_P
  | CUSTOMS_Q
  | CUSTOMS_FREQ
  | CUSTOMS_TEMP
  | CUSTOMS_IN_RMS
  | CUSTOMS_HANDOFF_CNT
  | CUSTOMS_DUP_CNT
  | CUSTOMS_LATE_CNT
  | CUSTOMS_ORPHAN_CNT
  | CUSTOMS_MAC_FAIL_CNT
  | CUSTOMS_STEP_CNT
  | CUSTOMS_CAL_STATE
  | CUSTOMS_RD_DATA
  | BAL_STATUS
  | BAL_INT
  | BAL_INT_EN
  | BAL_LAST_HOUR
  | BAL_LAST_DAY
  | BAL_SERIES_CNT
  | BAL_LATE_CNT
  | BAL_UNBOUND_CNT
  | BAL_INCOMPLETE_CNT
  | BAL_CFG0
  | BAL_CFG1
  | BAL_CFG2
  | BAL_TOPO_CFG0
  | BAL_TOPO_CFG1
  | BAL_THEFT_CFG0
  | BAL_THEFT_CFG1
  | BAL_THEFT_CFG2
  | BAL_QUERY_CMD
  | BAL_QUERY_ARG
  | BAL_QUERY_STATUS
  | BAL_QUERY_DATA
  | CRAFT_STATUS
  | CRAFT_INT
  | CRAFT_INT_EN
  | CRAFT_STOP_SRC
  | CRAFT_STOP_CMD
  | CRAFT_CORR_AGE
  | CRAFT_BASE_X_LO
  | CRAFT_BASE_X_HI
  | CRAFT_BASE_Y_LO
  | CRAFT_BASE_Y_HI
  | CRAFT_BASE_Z_LO
  | CRAFT_BASE_Z_HI
  | CRAFT_BASE_SIGMA
  | CRAFT_CORR_SENT_CNT
  | CRAFT_CORR_DROP_CNT
  | CRAFT_STATUS_CNT
  | CRAFT_GRANT_CNT
  | CRAFT_REFUSE_CNT
  | CRAFT_ORDER_DROP_CNT
  | CRAFT_ALLOT_CNT
  | CRAFT_STOP_FRAME_CNT
  | CRAFT_ALARM_CNT
  | CRAFT_CFG0
  | CRAFT_CFG1
  | CRAFT_CFG2
  | CRAFT_CFG3
  | CRAFT_CFG4
  | CRAFT_Q_CMD
  | CRAFT_Q_STATUS
  | CRAFT_Q_DATA
  | TIME_STATUS
  | TIME_INT
  | TIME_INT_EN
  | TIME_NOW_FRAC
  | TIME_NOW_NS
  | TIME_NOW_SEC_LO
  | TIME_NOW_SEC_HI
  | TIME_TIME_UNC
  | TIME_FREQ_UNC
  | TIME_OFFSET
  | TIME_RESIDUAL
  | TIME_RATE
  | TIME_STEP_CNT
  | TIME_TRIG_SKIP_CNT
  | TIME_CMD
  | TIME_CMD_STATUS
  | TIME_SET_NS
  | TIME_SET_SEC_LO
  | TIME_SET_SEC_HI
  | TIME_PPS_CFG
  | TIME_CFG0
  | TIME_CFG1
  | TIME_TRIG_EN_LO
  | TIME_TRIG_EN_HI
  | TIME_CAPT_POP
  | TIME_PTP_PORT
  | TIME_PTP_MPD
  | TIME_CAPT_HEAD
  | TIME_CAPT_NS
  | TIME_CAPT_SEC_LO
  | TIME_CAPT_SEC_HI
  | GNSS_STATUS
  | GNSS_INT
  | GNSS_INT_EN
  | GNSS_SATS
  | GNSS_RESID
  | GNSS_CN0
  | GNSS_POS_X_LO
  | GNSS_POS_X_HI
  | GNSS_POS_Y_LO
  | GNSS_POS_Y_HI
  | GNSS_POS_Z_LO
  | GNSS_POS_Z_HI
  | GNSS_ACQ_CNT
  | GNSS_LOSS_CNT
  | GNSS_CFG0
  | BOND_STATUS
  | BOND_INT
  | BOND_INT_EN
  | BOND_CMD
  | BOND_CMD_STATUS
  | BOND_ADDR_LO
  | BOND_ADDR_HI
  | BOND_LEN
  | BOND_NONCE
  | BOND_SERIAL_LO
  | BOND_SERIAL_HI
  | BOND_SLOT_SEL
  | BOND_SLOT_ATTR
  | BOND_SLOT_INFO
  | BOND_BAD
  | BOND_EPOCH_FLOOR
  | BOND_GATE
  | BOND_DERIVE_CNT
  | BOND_KCACHE_HIT_CNT
  | BOND_KCACHE_MISS_CNT
  | BOND_TAG_FAIL_CNT
  | BOND_EXPORT_CNT
  | BOND_EXPORT_REFUSED_CNT
  | BOND_DATA
  | STORE_STATUS
  | STORE_INT
  | STORE_INT_EN
  | STORE_CMD
  | STORE_ARG
  | STORE_ADDR_LO
  | STORE_ADDR_HI
  | STORE_CMD_STATUS
  | STORE_RING_HEAD
  | STORE_RING_TAIL
  | STORE_HEALTH0
  | STORE_CORR_CNT
  | STORE_UNCORR_CNT
  | STORE_REFRESH_CNT
  | STORE_PROG_FAIL_CNT
  | STORE_DROP_CNT
  | STORE_STALL_CNT
  | STORE_FOLD_CNT
  | STORE_CFG0
  | STORE_CFG1
  | STORE_CFG2
  | WHARF_STATUS
  | WHARF_INT
  | WHARF_INT_EN
  | WHARF_CTL
  | WHARF_RX_DGRAM_CNT
  | WHARF_TX_DGRAM_CNT
  | WHARF_AUTH_FAIL_CNT
  | WHARF_REPLAY_CNT
  | WHARF_RANGE_DROP_CNT
  | WHARF_CREDIT_DROP_CNT
  | WHARF_LOST_CNT
  | WHARF_CFG0
  | WHARF_CFG1
  | WHARF_WORKER_STATE
  | PILOT_STATUS
  | PILOT_CLAIM
  | PILOT_PARTNER_CLAIM
  | PILOT_INT
  | PILOT_INT_EN
  | PILOT_OUT
  | PILOT_CMD
  | PILOT_DRILL_RESULT
  | PILOT_FRAME_ERR_CNT
  | PILOT_TAKEOVER_CNT
  | PILOT_CFG
  | PILOT_PAIR_ID
  | LOG_STATUS
  | LOG_INT
  | LOG_INT_EN
  | LOG_NEWEST_SEQ
  | LOG_OLDEST_SEQ
  | LOG_CLEAR_MARK
  | LOG_OP_SEC_LO
  | LOG_OP_SEC_HI
  | LOG_POWER_CYCLES
  | LOG_LOST_CNT
  | LOG_CFG
  | LOG_RD_SEQ
  | LOG_RD_CMD
  | LOG_RD_STATUS
  | LOG_RD_DATA
  | UPD_STATUS
  | UPD_INT
  | UPD_INT_EN
  | UPD_CMD
  | UPD_CMD_STATUS
  | UPD_PKG_ADDR_LO
  | UPD_PKG_ADDR_HI
  | UPD_PKG_LEN
  | UPD_TRIAL_CFG
  | UPD_SLOT
  | UPD_VER
  | UPD_JOB_CMD
  | UPD_JOB_ADDR_LO
  | UPD_JOB_ADDR_HI
  | UPD_JOB_CFG
  | UPD_JOB_ACT
  | UPD_JOB_STATUS
  | UPD_BLOCK_CNT
  | UPD_DONE_CNT
  | UPD_REFUSED_CNT
  | ETH_STATUS
  | ETH_INT
  | ETH_INT_EN
  | ETH_CFG
  | ETH_MAC_LO
  | ETH_MAC_HI
  | ETH_CNT
  | DMA_STATUS
  | DMA_INT
  | DMA_INT_EN
  | DMA_HOST_WIN_LO
  | DMA_HOST_WIN_HI
  | DMA_POOL_FREE
  | DMA_EV_REFUSED_CNT
  | DMA_CH_CTL
  | DMA_CH_SRC_LO
  | DMA_CH_SRC_HI
  | DMA_CH_DST_LO
  | DMA_CH_DST_HI
  | DMA_CH_IDX_LO
  | DMA_CH_IDX_HI
  | DMA_CH_LEN
  | DMA_CH_ELEM
  | DMA_CH_STATUS
  | DMA_CH_DONE_TS_LO
  | DMA_CH_DONE_TS_HI
  | DMA_FIFO_STAT
  | DMA_FIFO_OVF_CNT
  | DMA_CR_BASE_LO
  | DMA_CR_BASE_HI
  | DMA_CR_CFG
  | DMA_CR_HEAD
  | DMA_CR_TAIL
  | DMA_CR_WAIT_CNT
  | DMA_MSIX_ADDR_LO
  | DMA_MSIX_ADDR_HI
  | DMA_MSIX_DATA
  | DMA_MSIX_CTRL
  | DMA_PBA
  | PANEL_STATUS
  | PANEL_INT
  | PANEL_INT_EN
  | PANEL_CTL
  | PANEL_TEMP_HOST
  | PANEL_TEMP_USED
  | PANEL_ACCT_SEL
  | PANEL_ACCT
  | PANEL_RUN_CNT
  | PANEL_ABORT_CNT
  | PANEL_COMP_CNT
  | PANEL_CFG0
  | PANEL_CFG1
  | PANEL_CFG2
  | PANEL_BAND_T
  | PANEL_BLINK_CTL
  | PANEL_IMAGE
  | PANEL_BLINK_MASK
  | PWR_STATUS
  | PWR_INT
  | PWR_INT_EN
  | PWR_CMD
  | PWR_CMD_STATUS
  | PWR_WDT_CFG
  | PWR_WDT_KICK
  | PWR_CFG
  | PWR_BOOT_MS
  | PWR_DOZE_CNT
  | PWR_NAP_CNT
  | PWR_HIB_CNT
  | PWR_NAP_MS
  | PWR_WAKE_LATE_CNT
  | PWR_GATE
  | PWR_BG_PASS
  | PINS_GPIO_IN_LO
  | PINS_GPIO_IN_HI
  | PINS_GPIO_OUT_LO
  | PINS_GPIO_OUT_HI
  | PINS_GPIO_OE_LO
  | PINS_GPIO_OE_HI
  | PINS_GPIO_INT_LO
  | PINS_GPIO_INT_HI
  | PINS_GPIO_INT_EN_LO
  | PINS_GPIO_INT_EN_HI
  | PINS_GPIO_EDGE
  | PINS_ETH_EN
  | PINS_BALL
  | BAR2_DB_ADDR_LO
  | BAR2_DB_ADDR_HI
  | BAR2_DB_COUNT
  | BAR2_DB_STATUS
  deriving DecidableEq, Repr

/-- A register's place and access: address of instance (0, 0), count and stride of the two instance indices, reset
value, and the masks of its RW, W1C, W1S, WO, RC and RWL bits; a bit in none of them is RO or reserved. -/
structure RegDesc where
  base : Nat
  n1 : Nat
  s1 : Nat
  n2 : Nat
  s2 : Nat
  reset : Nat
  rw : Nat
  w1c : Nat
  w1s : Nat
  wo : Nat
  rc : Nat
  rwl : Nat
  deriving DecidableEq, Repr

/-- Table 20-7 with the access masks of the block chapters. BAR2 addresses are numbered from 0x40_0000 (assumption 5). -/
def Reg.desc : Reg → RegDesc
  -- GLOBAL: R486, 20_register_map.md
  | .GLOBAL_ID => ⟨0x0, 1, 0x0, 1, 0x0, (0x76800000 ||| Config.vendorId.toNat), 0x0, 0x0, 0x0, 0x0, 0x0, 0x0⟩
  | .GLOBAL_REV => ⟨0x4, 1, 0x0, 1, 0x0, 0xB0, 0x0, 0x0, 0x0, 0x0, 0x0, 0x0⟩
  | .GLOBAL_STATUS => ⟨0x8, 1, 0x0, 1, 0x0, 0, 0x0, 0x0, 0x0, 0x0, 0x0, 0x0⟩
  | .GLOBAL_INT => ⟨0xC, 1, 0x0, 1, 0x0, 0, 0x0, 0x7, 0x0, 0x0, 0x0, 0x0⟩
  | .GLOBAL_INT_EN => ⟨0x10, 1, 0x0, 1, 0x0, 0, 0x7, 0x0, 0x0, 0x0, 0x0, 0x0⟩
  | .GLOBAL_TEMP => ⟨0x14, 1, 0x0, 1, 0x0, 0, 0x0, 0x0, 0x0, 0x0, 0x0, 0x0⟩
  | .GLOBAL_TEMP_MAX => ⟨0x18, 1, 0x0, 1, 0x0, 0x8000, 0x0, 0x0, 0x0, 0x0, 0xFFFF, 0x0⟩
  | .GLOBAL_HOT_CFG => ⟨0x1C, 1, 0x0, 1, 0x0, 0x2904, 0xFFFF, 0x0, 0x0, 0x0, 0x0, 0x0⟩
  | .GLOBAL_SCRUB_CORR_CNT => ⟨0x20, 1, 0x0, 1, 0x0, 0, 0x0, 0x0, 0x0, 0x0, 0xFFFFFFFF, 0x0⟩
  | .GLOBAL_SCRUB_UNCORR_CNT => ⟨0x24, 1, 0x0, 1, 0x0, 0, 0x0, 0x0, 0x0, 0x0, 0xFFFFFFFF, 0x0⟩
  | .GLOBAL_SCRATCH => ⟨0x28, 1, 0x0, 1, 0x0, 0, 0xFFFFFFFF, 0x0, 0x0, 0x0, 0x0, 0x0⟩
  -- PLAN: R54, 02_quay_plan.md
  | .PLAN_STATUS => ⟨0x10000, 1, 0x0, 1, 0x0, 0, 0x0, 0x0, 0x0, 0x0, 0x0, 0x0⟩
  | .PLAN_BOOT_ERROR_0 => ⟨0x10004, 1, 0x0, 1, 0x0, 0, 0x0, 0x0, 0x0, 0x0, 0x0, 0x0⟩
  | .PLAN_BOOT_ERROR_1 => ⟨0x10008, 1, 0x0, 1, 0x0, 0, 0x0, 0x0, 0x0, 0x0, 0x0, 0x0⟩
  | .PLAN_DELTA_ERROR => ⟨0x1000C, 1, 0x0, 1, 0x0, 0, 0x0, 0x0, 0x0, 0x0, 0x0, 0x0⟩
  | .PLAN_SERIAL_LO => ⟨0x10010, 1, 0x0, 1, 0x0, 0, 0x0, 0x0, 0x0, 0x0, 0x0, 0x0⟩
  | .PLAN_SERIAL_HI => ⟨0x10014, 1, 0x0, 1, 0x0, 0, 0x0, 0x0, 0x0, 0x0, 0x0, 0x0⟩
  | .PLAN_EPOCH => ⟨0x10018, 1, 0x0, 1, 0x0, 0, 0x0, 0x0, 0x0, 0x0, 0x0, 0x0⟩
  | .PLAN_EPOCH_FLOOR => ⟨0x1001C, 1, 0x0, 1, 0x0, 0, 0x0, 0x0, 0x0, 0x0, 0x0, 0x0⟩
  | .PLAN_CMD => ⟨0x10020, 1, 0x0, 1, 0x0, 0, 0x0, 0x0, 0x0, 0xFFFFFFFF, 0x0, 0x0⟩
  | .PLAN_INT => ⟨0x10024, 1, 0x0, 1, 0x0, 0, 0x0, 0xF, 0x0, 0x0, 0x0, 0x0⟩
  | .PLAN_DELTA_ADDR_LO => ⟨0x10028, 1, 0x0, 1, 0x0, 0, 0xFFFFFFFF, 0x0, 0x0, 0x0, 0x0, 0x0⟩
  | .PLAN_DELTA_ADDR_HI => ⟨0x1002C, 1, 0x0, 1, 0x0, 0, 0xFFFFFFFF, 0x0, 0x0, 0x0, 0x0, 0x0⟩
  | .PLAN_DELTA_LEN => ⟨0x10030, 1, 0x0, 1, 0x0, 0, 0x1FFFFF, 0x0, 0x0, 0x0, 0x0, 0x0⟩
  -- HM: R88, 03_tug_fleet.md
  | .HM_STATUS => ⟨0x20000, 1, 0x0, 1, 0x0, 0, 0x0, 0x0, 0x0, 0x0, 0x0, 0x0⟩
  | .HM_INT => ⟨0x20004, 1, 0x0, 1, 0x0, 0, 0x0, 0x7F, 0x0, 0x0, 0x0, 0x0⟩
  | .HM_INT_EN => ⟨0x20008, 1, 0x0, 1, 0x0, 0, 0x7F, 0x0, 0x0, 0x0, 0x0, 0x0⟩
  | .HM_STALE_CNT => ⟨0x2000C, 1, 0x0, 1, 0x0, 0, 0x0, 0x0, 0x0, 0x0, 0xFFFFFFFF, 0x0⟩
  | .HM_POISON_CNT => ⟨0x20010, 1, 0x0, 1, 0x0, 0, 0x0, 0x0, 0x0, 0x0, 0x0, 0x0⟩
  | .HM_DL_STATUS => ⟨0x20014, 1, 0x0, 1, 0x0, 0, 0x0, 0x0, 0x0, 0x0, 0x0, 0x0⟩
  | .HM_DL_POP => ⟨0x20018, 1, 0x0, 1, 0x0, 0, 0x0, 0x0, 0x0, 0xFFFFFFFF, 0x0, 0x0⟩
  | .HM_DL_ENTRY => ⟨0x20020, 8, 0x4, 1, 0x0, 0, 0x0, 0x0, 0x0, 0x0, 0x0, 0x0⟩
  | .HM_LEVEL_DEPTH => ⟨0x20040, 8, 0x4, 1, 0x0, 0, 0x0, 0x0, 0x0, 0x0, 0x0, 0x0⟩
  | .HM_FUNC_CTL => ⟨0x20100, 64, 0x4, 1, 0x0, 0, 0x1, 0x0, 0x4, 0x0, 0x0, 0xFFFF0002⟩
  | .HM_BERTH_CFG => ⟨0x30000, 4096, 0x10, 1, 0x0, 0, 0x0, 0x0, 0x0, 0x0, 0x0, 0xFFFFFFFF⟩
  | .HM_BERTH_LIM => ⟨0x30004, 4096, 0x10, 1, 0x0, 0, 0x0, 0x0, 0x0, 0x0, 0x0, 0x3FFFFFFF⟩
  | .HM_BERTH_DEPTH => ⟨0x30008, 4096, 0x10, 1, 0x0, 0, 0x0, 0x0, 0x0, 0x0, 0x0, 0x0⟩
  | .HM_BERTH_STAT => ⟨0x3000C, 4096, 0x10, 1, 0x0, 0, 0x0, 0x0, 0x0, 0x0, 0xFFFF, 0x0⟩
  -- TUG: R89, 03_tug_fleet.md
  | .TUG_FLEET_STATUS => ⟨0x40000, 1, 0x0, 1, 0x0, 0, 0x0, 0x0, 0x0, 0x0, 0x0, 0x0⟩
  | .TUG_SELFTEST_CMD => ⟨0x40004, 1, 0x0, 1, 0x0, 0, 0x0, 0x0, 0x0, 0xFFFFFFFF, 0x0, 0x0⟩
  | .TUG_SELFTEST_RESULT => ⟨0x40008, 1, 0x0, 1, 0x0, 0, 0x0, 0x0, 0x0, 0x0, 0x0, 0x0⟩
  | .TUG_FAIL_LAST => ⟨0x4000C, 1, 0x0, 1, 0x0, 0, 0x0, 0x0, 0x0, 0x0, 0x0, 0x0⟩
  | .TUG_FENCED => ⟨0x40010, 8, 0x4, 1, 0x0, 0, 0x0, 0x0, 0x0, 0x0, 0x0, 0x0⟩
  | .TUG_DOCK_CFG => ⟨0x40100, 16, 0x10, 1, 0x0, 0, 0x0, 0x0, 0x0, 0x0, 0x0, 0x701F⟩
  | .TUG_DOCK_KIND_LO => ⟨0x40104, 16, 0x10, 1, 0x0, 0, 0x0, 0x0, 0x0, 0x0, 0x0, 0xFFFFFFFF⟩
  | .TUG_DOCK_KIND_HI => ⟨0x40108, 16, 0x10, 1, 0x0, 0, 0x0, 0x0, 0x0, 0x0, 0x0, 0xFFFFFFFF⟩
  | .TUG_BUDGET => ⟨0x40200, 64, 0x4, 1, 0x0, 0, 0x0, 0x0, 0x0, 0x0, 0x0, 0x0⟩
  -- EP: R122, 04_endpoint_pipeline.md
  | .EP_STATUS => ⟨0x50000, 1, 0x0, 1, 0x0, 0, 0x0, 0x0, 0x0, 0x0, 0x0, 0x0⟩
  | .EP_INT => ⟨0x50004, 1, 0x0, 1, 0x0, 0, 0x0, 0x1F, 0x0, 0x0, 0x0, 0x0⟩
  | .EP_INT_EN => ⟨0x50008, 1, 0x0, 1, 0x0, 0, 0x1F, 0x0, 0x0, 0x0, 0x0, 0x0⟩
  | .EP_RX_FRAMES_CNT => ⟨0x50010, 1, 0x0, 1, 0x0, 0, 0x0, 0x0, 0x0, 0x0, 0xFFFFFFFF, 0x0⟩
  | .EP_HDR_REJ_CNT => ⟨0x50014, 1, 0x0, 1, 0x0, 0, 0x0, 0x0, 0x0, 0x0, 0xFFFFFFFF, 0x0⟩
  | .EP_AUTH_FAIL_CNT => ⟨0x50018, 1, 0x0, 1, 0x0, 0, 0x0, 0x0, 0x0, 0x0, 0xFFFFFFFF, 0x0⟩
  | .EP_REPLAY_REJ_CNT => ⟨0x5001C, 1, 0x0, 1, 0x0, 0, 0x0, 0x0, 0x0, 0x0, 0xFFFFFFFF, 0x0⟩
  | .EP_SHED_CNT => ⟨0x50020, 1, 0x0, 1, 0x0, 0, 0x0, 0x0, 0x0, 0x0, 0xFFFFFFFF, 0x0⟩
  | .EP_VEE_FAIL_CNT => ⟨0x50024, 1, 0x0, 1, 0x0, 0, 0x0, 0x0, 0x0, 0x0, 0xFFFFFFFF, 0x0⟩
  | .EP_VEE_EST_CNT => ⟨0x50028, 1, 0x0, 1, 0x0, 0, 0x0, 0x0, 0x0, 0x0, 0xFFFFFFFF, 0x0⟩
  | .EP_CONFLICT_CNT => ⟨0x5002C, 1, 0x0, 1, 0x0, 0, 0x0, 0x0, 0x0, 0x0, 0xFFFFFFFF, 0x0⟩
  | .EP_RECORD_LOST_CNT => ⟨0x50030, 1, 0x0, 1, 0x0, 0, 0x0, 0x0, 0x0, 0x0, 0xFFFFFFFF, 0x0⟩
  | .EP_CACHE_HIT_CNT => ⟨0x50034, 1, 0x0, 1, 0x0, 0, 0x0, 0x0, 0x0, 0x0, 0xFFFFFFFF, 0x0⟩
  | .EP_CACHE_MISS_CNT => ⟨0x50038, 1, 0x0, 1, 0x0, 0, 0x0, 0x0, 0x0, 0x0, 0xFFFFFFFF, 0x0⟩
  | .EP_ADMIT_CFG => ⟨0x50040, 1, 0x0, 1, 0x0, 0x04000800, 0x0, 0x0, 0x0, 0x0, 0x0, 0xFFFFFFFF⟩
  | .EP_ADMIT_CFG2 => ⟨0x50044, 1, 0x0, 1, 0x0, 0x00000A06, 0x0, 0x0, 0x0, 0x0, 0x0, 0xFF07⟩
  | .EP_CMD_CFG => ⟨0x50048, 1, 0x0, 1, 0x0, 0x03E8012C, 0x0, 0x0, 0x0, 0x0, 0x0, 0xFFFFFFFF⟩
  | .EP_RD_CMD => ⟨0x50050, 1, 0x0, 1, 0x0, 0, 0x0, 0x0, 0x0, 0xFFFFFFFF, 0x0, 0x0⟩
  | .EP_RD_STATUS => ⟨0x50054, 1, 0x0, 1, 0x0, 0, 0x0, 0x0, 0x0, 0x0, 0x0, 0x0⟩
  | .EP_RD_DATA => ⟨0x50100, 64, 0x4, 1, 0x0, 0, 0x0, 0x0, 0x0, 0x0, 0x0, 0x0⟩
  -- PLC: R162, 05_plc.md
  | .PLC_SEG_CTL => ⟨0x60000, 8, 0x2000, 1, 0x0, 0, 0x1, 0x0, 0x2, 0x0, 0x0, 0x0⟩
  | .PLC_SEG_STATUS => ⟨0x60004, 8, 0x2000, 1, 0x0, 0, 0x0, 0x0, 0x0, 0x0, 0x0, 0x0⟩
  | .PLC_INT => ⟨0x60008, 8, 0x2000, 1, 0x0, 0, 0x0, 0x3F, 0x0, 0x0, 0x0, 0x0⟩
  | .PLC_INT_EN => ⟨0x6000C, 8, 0x2000, 1, 0x0, 0, 0x3F, 0x0, 0x0, 0x0, 0x0, 0x0⟩
  | .PLC_CYCLE => ⟨0x60010, 8, 0x2000, 1, 0x0, 0, 0x0, 0x0, 0x0, 0x0, 0x0, 0x0⟩
  | .PLC_ZC => ⟨0x60014, 8, 0x2000, 1, 0x0, 0, 0x0, 0x0, 0x0, 0x0, 0x0, 0x0⟩
  | .PLC_RX_OK_CNT => ⟨0x60020, 8, 0x2000, 1, 0x0, 0, 0x0, 0x0, 0x0, 0x0, 0xFFFFFFFF, 0x0⟩
  | .PLC_RX_FAIL_CNT => ⟨0x60024, 8, 0x2000, 1, 0x0, 0, 0x0, 0x0, 0x0, 0x0, 0xFFFFFFFF, 0x0⟩
  | .PLC_ERASED_SYM_CNT => ⟨0x60028, 8, 0x2000, 1, 0x0, 0, 0x0, 0x0, 0x0, 0x0, 0xFFFFFFFF, 0x0⟩
  | .PLC_BLANK_CNT => ⟨0x6002C, 8, 0x2000, 1, 0x0, 0, 0x0, 0x0, 0x0, 0x0, 0xFFFFFFFF, 0x0⟩
  | .PLC_DOWNGRADE_CNT => ⟨0x60030, 8, 0x2000, 1, 0x0, 0, 0x0, 0x0, 0x0, 0x0, 0xFFFFFFFF, 0x0⟩
  | .PLC_POLL_FAIL_CNT => ⟨0x60034, 8, 0x2000, 1, 0x0, 0, 0x0, 0x0, 0x0, 0x0, 0xFFFFFFFF, 0x0⟩
  | .PLC_TX_DROP_CNT => ⟨0x60038, 8, 0x2000, 1, 0x0, 0, 0x0, 0x0, 0x0, 0x0, 0xFFFFFFFF, 0x0⟩
  | .PLC_CONTEND_CNT => ⟨0x6003C, 8, 0x2000, 1, 0x0, 0, 0x0, 0x0, 0x0, 0x0, 0xFFFFFFFF, 0x0⟩
  | .PLC_SEG_CFG0 => ⟨0x60040, 8, 0x2000, 1, 0x0, 0x08C82710, 0x0, 0x0, 0x0, 0x0, 0x0, 0x3FFFFFFF⟩
  | .PLC_SEG_CFG1 => ⟨0x60044, 8, 0x2000, 1, 0x0, 0x2030C40F, 0x0, 0x0, 0x0, 0x0, 0x0, 0xFFFFFFFF⟩
  | .PLC_SEG_CFG2 => ⟨0x60048, 8, 0x2000, 1, 0x0, 0x21004003, 0x0, 0x0, 0x0, 0x0, 0x0, 0x3FFFFFFF⟩
  | .PLC_NOTCH => ⟨0x60050, 8, 0x2000, 4, 0x4, 0, 0x0, 0x0, 0x0, 0x0, 0x0, 0xFFFFFFFF⟩
  | .PLC_ENTRY_CMD => ⟨0x60060, 8, 0x2000, 1, 0x0, 0, 0x0, 0x0, 0x0, 0xFFFFFFFF, 0x0, 0x0⟩
  | .PLC_ENTRY_STATUS => ⟨0x60064, 8, 0x2000, 1, 0x0, 0, 0x0, 0x0, 0x0, 0x0, 0x0, 0x0⟩
  -- RADIO: R193, 06_radio.md
  | .RADIO_PORT_CTL => ⟨0x80000, 4, 0x4000, 1, 0x0, 0, 0x1, 0x0, 0x0, 0x0, 0x0, 0x0⟩
  | .RADIO_PORT_STATUS => ⟨0x80004, 4, 0x4000, 1, 0x0, 0, 0x0, 0x0, 0x0, 0x0, 0x0, 0x0⟩
  | .RADIO_INT => ⟨0x80008, 4, 0x4000, 1, 0x0, 0, 0x0, 0x7F, 0x0, 0x0, 0x0, 0x0⟩
  | .RADIO_INT_EN => ⟨0x8000C, 4, 0x4000, 1, 0x0, 0, 0x7F, 0x0, 0x0, 0x0, 0x0, 0x0⟩
  | .RADIO_SUPERFRAME => ⟨0x80010, 4, 0x4000, 1, 0x0, 0, 0x0, 0x0, 0x0, 0x0, 0x0, 0x0⟩
  | .RADIO_SLOT => ⟨0x80014, 4, 0x4000, 1, 0x0, 0, 0x0, 0x0, 0x0, 0x0, 0x0, 0x0⟩
  | .RADIO_LOCAL_PPM => ⟨0x80018, 4, 0x4000, 1, 0x0, 0, 0x0, 0x0, 0x0, 0x0, 0x0, 0x0⟩
  | .RADIO_RX_OK_CNT => ⟨0x80020, 4, 0x4000, 1, 0x0, 0, 0x0, 0x0, 0x0, 0x0, 0xFFFFFFFF, 0x0⟩
  | .RADIO_RX_CRC_FAIL_CNT => ⟨0x80024, 4, 0x4000, 1, 0x0, 0, 0x0, 0x0, 0x0, 0x0, 0xFFFFFFFF, 0x0⟩
  | .RADIO_RESCUED_CNT => ⟨0x80028, 4, 0x4000, 1, 0x0, 0, 0x0, 0x0, 0x0, 0x0, 0xFFFFFFFF, 0x0⟩
  | .RADIO_UNSLOTTED_CNT => ⟨0x8002C, 4, 0x4000, 1, 0x0, 0, 0x0, 0x0, 0x0, 0x0, 0xFFFFFFFF, 0x0⟩
  | .RADIO_MISSED_CNT => ⟨0x80030, 4, 0x4000, 1, 0x0, 0, 0x0, 0x0, 0x0, 0x0, 0xFFFFFFFF, 0x0⟩
  | .RADIO_ACK_CNT => ⟨0x80034, 4, 0x4000, 1, 0x0, 0, 0x0, 0x0, 0x0, 0x0, 0xFFFFFFFF, 0x0⟩
  | .RADIO_DOWN_CNT => ⟨0x80038, 4, 0x4000, 1, 0x0, 0, 0x0, 0x0, 0x0, 0x0, 0xFFFFFFFF, 0x0⟩
  | .RADIO_TX_DROP_CNT => ⟨0x8003C, 4, 0x4000, 1, 0x0, 0, 0x0, 0x0, 0x0, 0x0, 0xFFFFFFFF, 0x0⟩
  | .RADIO_DEFER_CNT => ⟨0x80040, 4, 0x4000, 1, 0x0, 0, 0x0, 0x0, 0x0, 0x0, 0xFFFFFFFF, 0x0⟩
  | .RADIO_BEACON_SKIP_CNT => ⟨0x80044, 4, 0x4000, 1, 0x0, 0, 0x0, 0x0, 0x0, 0x0, 0xFFFFFFFF, 0x0⟩
  | .RADIO_CFG0 => ⟨0x80050, 4, 0x4000, 1, 0x0, 0, 0x0, 0x0, 0x0, 0x0, 0x0, 0xFFFFFFFF⟩
  | .RADIO_CFG1 => ⟨0x80054, 4, 0x4000, 1, 0x0, 0x250, 0x0, 0x0, 0x0, 0x0, 0x0, 0xFFFFFFFF⟩
  | .RADIO_CFG2 => ⟨0x80058, 4, 0x4000, 1, 0x0, 0xFFFF, 0x0, 0x0, 0x0, 0x0, 0x0, 0xFFFF⟩
  | .RADIO_ENTRY_CMD => ⟨0x80060, 4, 0x4000, 1, 0x0, 0, 0x0, 0x0, 0x0, 0xFFFFFFFF, 0x0, 0x0⟩
  | .RADIO_ENTRY_EPX => ⟨0x80064, 4, 0x4000, 1, 0x0, 0, 0x3FFFFF, 0x0, 0x0, 0x0, 0x0, 0x0⟩
  | .RADIO_ENTRY_STATUS => ⟨0x80068, 4, 0x4000, 1, 0x0, 0, 0x0, 0x0, 0x0, 0x0, 0x0, 0x0⟩
  | .RADIO_SB_LIMIT => ⟨0x80100, 16, 0x20, 1, 0x0, 0, 0x0, 0x0, 0x0, 0x0, 0x0, 0x7FFF⟩
  | .RADIO_SB_LOW => ⟨0x80104, 16, 0x20, 1, 0x0, 0, 0x0, 0x0, 0x0, 0x0, 0x0, 0xFFFFFFFF⟩
  | .RADIO_SB_HIGH => ⟨0x80108, 16, 0x20, 1, 0x0, 0, 0x0, 0x0, 0x0, 0x0, 0x0, 0xFFFFFFFF⟩
  | .RADIO_SB_USED_B => ⟨0x8010C, 16, 0x20, 1, 0x0, 0, 0x0, 0x0, 0x0, 0x0, 0x0, 0x0⟩
  | .RADIO_SB_USED_S => ⟨0x80110, 16, 0x20, 1, 0x0, 0, 0x0, 0x0, 0x0, 0x0, 0x0, 0x0⟩
  | .RADIO_SB_USED_G => ⟨0x80114, 16, 0x20, 1, 0x0, 0, 0x0, 0x0, 0x0, 0x0, 0x0, 0x0⟩
  -- CUSTOMS: R238, 07_customs_billing.md
  | .CUSTOMS_STATUS => ⟨0xA0000, 1, 0x0, 1, 0x0, 0, 0x0, 0x0, 0x0, 0x0, 0x0, 0x0⟩
  | .CUSTOMS_INT => ⟨0xA0004, 1, 0x0, 1, 0x0, 0, 0x0, 0x3FF, 0x0, 0x0, 0x0, 0x0⟩
  | .CUSTOMS_INT_EN => ⟨0xA0008, 1, 0x0, 1, 0x0, 0, 0x3FF, 0x0, 0x0, 0x0, 0x0, 0x0⟩
  | .CUSTOMS_ROM_ID => ⟨0xA000C, 1, 0x0, 1, 0x0, Config.romVersion.toNat, 0x0, 0x0, 0x0, 0x0, 0x0, 0x0⟩
  | .CUSTOMS_ROM_CRC => ⟨0xA0010, 1, 0x0, 1, 0x0, Config.romCrc.toNat, 0x0, 0x0, 0x0, 0x0, 0x0, 0x0⟩
  | .CUSTOMS_PERIOD => ⟨0xA0014, 1, 0x0, 1, 0x0, 0, 0x0, 0x0, 0x0, 0x0, 0x0, 0x0⟩
  | .CUSTOMS_HWM_LO => ⟨0xA0018, 1, 0x0, 1, 0x0, 0, 0x0, 0x0, 0x0, 0x0, 0x0, 0x0⟩
  | .CUSTOMS_HWM_HI => ⟨0xA001C, 1, 0x0, 1, 0x0, 0, 0x0, 0x0, 0x0, 0x0, 0x0, 0x0⟩
  | .CUSTOMS_CTIME_LO => ⟨0xA0020, 1, 0x0, 1, 0x0, 0, 0x0, 0x0, 0x0, 0x0, 0x0, 0x0⟩
  | .CUSTOMS_CTIME_HI => ⟨0xA0024, 1, 0x0, 1, 0x0, 0, 0x0, 0x0, 0x0, 0x0, 0x0, 0x0⟩
  | .CUSTOMS_RESIDUAL => ⟨0xA0028, 1, 0x0, 1, 0x0, 0, 0x0, 0x0, 0x0, 0x0, 0x0, 0x0⟩
  | .CUSTOMS_AUTH_REASON => ⟨0xA002C, 1, 0x0, 1, 0x0, 0, 0x0, 0x0, 0x0, 0x0, 0x0, 0x0⟩
  | .CUSTOMS_MBX_CMD => ⟨0xA0030, 1, 0x0, 1, 0x0, 0, 0x0, 0x0, 0x0, 0xFFFFFFFF, 0x0, 0x0⟩
  | .CUSTOMS_MBX_ARG0 => ⟨0xA0034, 1, 0x0, 1, 0x0, 0, 0x3FFFFFF, 0x0, 0x0, 0x0, 0x0, 0x0⟩
  | .CUSTOMS_MBX_ARG1 => ⟨0xA0038, 1, 0x0, 1, 0x0, 0, 0xFFFFFFFF, 0x0, 0x0, 0x0, 0x0, 0x0⟩
  | .CUSTOMS_MBX_ARG2 => ⟨0xA003C, 1, 0x0, 1, 0x0, 0, 0x7F, 0x0, 0x0, 0x0, 0x0, 0x0⟩
  | .CUSTOMS_MBX_STATUS => ⟨0xA0040, 1, 0x0, 1, 0x0, 0, 0x0, 0x0, 0x0, 0x0, 0x0, 0x0⟩
  | .CUSTOMS_MBX_ADDR_LO => ⟨0xA0044, 1, 0x0, 1, 0x0, 0, 0xFFFFFFFF, 0x0, 0x0, 0x0, 0x0, 0x0⟩
  | .CUSTOMS_MBX_ADDR_HI => ⟨0xA0048, 1, 0x0, 1, 0x0, 0, 0xFFFFFFFF, 0x0, 0x0, 0x0, 0x0, 0x0⟩
  | .CUSTOMS_MBX_LEN => ⟨0xA004C, 1, 0x0, 1, 0x0, 0, 0x1FFF, 0x0, 0x0, 0x0, 0x0, 0x0⟩
  | .CUSTOMS_V_RMS => ⟨0xA0080, 3, 0x4, 1, 0x0, 0, 0x0, 0x0, 0x0, 0x0, 0x0, 0x0⟩
  | .CUSTOMS_I_RMS => ⟨0xA008C, 3, 0x4, 1, 0x0, 0, 0x0, 0x0, 0x0, 0x0, 0x0, 0x0⟩
  | .CUSTOMS_P => ⟨0xA0098, 3, 0x4, 1, 0x0, 0, 0x0, 0x0, 0x0, 0x0, 0x0, 0x0⟩
  | .CUSTOMS_Q => ⟨0xA00A4, 3, 0x4, 1, 0x0, 0, 0x0, 0x0, 0x0, 0x0, 0x0, 0x0⟩
  | .CUSTOMS_FREQ => ⟨0xA00B0, 1, 0x0, 1, 0x0, 0, 0x0, 0x0, 0x0, 0x0, 0x0, 0x0⟩
  | .CUSTOMS_TEMP => ⟨0xA00B4, 1, 0x0, 1, 0x0, 0, 0x0, 0x0, 0x0, 0x0, 0x0, 0x0⟩
  | .CUSTOMS_IN_RMS => ⟨0xA00B8, 1, 0x0, 1, 0x0, 0, 0x0, 0x0, 0x0, 0x0, 0x0, 0x0⟩
  | .CUSTOMS_HANDOFF_CNT => ⟨0xA00C0, 1, 0x0, 1, 0x0, 0, 0x0, 0x0, 0x0, 0x0, 0xFFFFFFFF, 0x0⟩
  | .CUSTOMS_DUP_CNT => ⟨0xA00C4, 1, 0x0, 1, 0x0, 0, 0x0, 0x0, 0x0, 0x0, 0xFFFFFFFF, 0x0⟩
  | .CUSTOMS_LATE_CNT => ⟨0xA00C8, 1, 0x0, 1, 0x0, 0, 0x0, 0x0, 0x0, 0x0, 0xFFFFFFFF, 0x0⟩
  | .CUSTOMS_ORPHAN_CNT => ⟨0xA00CC, 1, 0x0, 1, 0x0, 0, 0x0, 0x0, 0x0, 0x0, 0xFFFFFFFF, 0x0⟩
  | .CUSTOMS_MAC_FAIL_CNT => ⟨0xA00D0, 1, 0x0, 1, 0x0, 0, 0x0, 0x0, 0x0, 0x0, 0xFFFFFFFF, 0x0⟩
  | .CUSTOMS_STEP_CNT => ⟨0xA00D4, 1, 0x0, 1, 0x0, 0, 0x0, 0x0, 0x0, 0x0, 0xFFFFFFFF, 0x0⟩
  | .CUSTOMS_CAL_STATE => ⟨0xA0104, 8, 0x4, 1, 0x0, 0, 0x0, 0x0, 0x0, 0x0, 0x0, 0x0⟩
  | .CUSTOMS_RD_DATA => ⟨0xA1000, 256, 0x4, 1, 0x0, 0, 0x0, 0x0, 0x0, 0x0, 0x0, 0x0⟩
  -- BAL: R259, 08_loss_detection.md
  | .BAL_STATUS => ⟨0xB0000, 1, 0x0, 1, 0x0, 0, 0x0, 0x0, 0x0, 0x0, 0x0, 0x0⟩
  | .BAL_INT => ⟨0xB0004, 1, 0x0, 1, 0x0, 0, 0x0, 0x1F, 0x0, 0x0, 0x0, 0x0⟩
  | .BAL_INT_EN => ⟨0xB0008, 1, 0x0, 1, 0x0, 0, 0x1F, 0x0, 0x0, 0x0, 0x0, 0x0⟩
  | .BAL_LAST_HOUR => ⟨0xB000C, 1, 0x0, 1, 0x0, 0, 0x0, 0x0, 0x0, 0x0, 0x0, 0x0⟩
  | .BAL_LAST_DAY => ⟨0xB0010, 1, 0x0, 1, 0x0, 0, 0x0, 0x0, 0x0, 0x0, 0x0, 0x0⟩
  | .BAL_SERIES_CNT => ⟨0xB0020, 1, 0x0, 1, 0x0, 0, 0x0, 0x0, 0x0, 0x0, 0xFFFFFFFF, 0x0⟩
  | .BAL_LATE_CNT => ⟨0xB0024, 1, 0x0, 1, 0x0, 0, 0x0, 0x0, 0x0, 0x0, 0xFFFFFFFF, 0x0⟩
  | .BAL_UNBOUND_CNT => ⟨0xB0028, 1, 0x0, 1, 0x0, 0, 0x0, 0x0, 0x0, 0x0, 0xFFFFFFFF, 0x0⟩
  | .BAL_INCOMPLETE_CNT => ⟨0xB002C, 1, 0x0, 1, 0x0, 0, 0x0, 0x0, 0x0, 0x0, 0xFFFFFFFF, 0x0⟩
  | .BAL_CFG0 => ⟨0xB0040, 1, 0x0, 1, 0x0, 0x061AF878, 0x0, 0x0, 0x0, 0x0, 0x0, 0x3FFFFFFF⟩
  | .BAL_CFG1 => ⟨0xB0044, 1, 0x0, 1, 0x0, 0x0A87012C, 0x0, 0x0, 0x0, 0x0, 0x0, 0xFFFFFFFF⟩
  | .BAL_CFG2 => ⟨0xB0048, 1, 0x0, 1, 0x0, 0x000003E8, 0x0, 0x0, 0x0, 0x0, 0x0, 0xFFFFFFFF⟩
  | .BAL_TOPO_CFG0 => ⟨0xB004C, 1, 0x0, 1, 0x0, 0x038410E0, 0x0, 0x0, 0x0, 0x0, 0x0, 0x3FFFFFF⟩
  | .BAL_TOPO_CFG1 => ⟨0xB0050, 1, 0x0, 1, 0x0, 0x014AF032, 0x0, 0x0, 0x0, 0x0, 0x0, 0x3FFFFFFF⟩
  | .BAL_THEFT_CFG0 => ⟨0xB0054, 1, 0x0, 1, 0x0, 0x1403000A, 0x0, 0x0, 0x0, 0x0, 0x0, 0xFFFFFFFF⟩
  | .BAL_THEFT_CFG1 => ⟨0xB0058, 1, 0x0, 1, 0x0, 0x180301F4, 0x0, 0x0, 0x0, 0x0, 0x0, 0xFFFFFFFF⟩
  | .BAL_THEFT_CFG2 => ⟨0xB005C, 1, 0x0, 1, 0x0, 0x00480001, 0x0, 0x0, 0x0, 0x0, 0x0, 0xFFFFFFFF⟩
  | .BAL_QUERY_CMD => ⟨0xB0060, 1, 0x0, 1, 0x0, 0, 0x0, 0x0, 0x0, 0xFFFFFFFF, 0x0, 0x0⟩
  | .BAL_QUERY_ARG => ⟨0xB0064, 1, 0x0, 1, 0x0, 0, 0xFFFF0001, 0x0, 0x0, 0x0, 0x0, 0x0⟩
  | .BAL_QUERY_STATUS => ⟨0xB0068, 1, 0x0, 1, 0x0, 0, 0x0, 0x0, 0x0, 0x0, 0x0, 0x0⟩
  | .BAL_QUERY_DATA => ⟨0xB0070, 4, 0x4, 1, 0x0, 0, 0x0, 0x0, 0x0, 0x0, 0x0, 0x0⟩
  -- CRAFT: R283, 09_craft_control.md
  | .CRAFT_STATUS => ⟨0xC0000, 1, 0x0, 1, 0x0, 0, 0x0, 0x0, 0x0, 0x0, 0x0, 0x0⟩
  | .CRAFT_INT => ⟨0xC0004, 1, 0x0, 1, 0x0, 0, 0x0, 0xFF, 0x0, 0x0, 0x0, 0x0⟩
  | .CRAFT_INT_EN => ⟨0xC0008, 1, 0x0, 1, 0x0, 0, 0xFF, 0x0, 0x0, 0x0, 0x0, 0x0⟩
  | .CRAFT_STOP_SRC => ⟨0xC000C, 1, 0x0, 1, 0x0, 0, 0x0, 0x0, 0x0, 0x0, 0x0, 0x0⟩
  | .CRAFT_STOP_CMD => ⟨0xC0010, 1, 0x0, 1, 0x0, 0, 0x0, 0x0, 0x0, 0xFFFFFFFF, 0x0, 0x0⟩
  | .CRAFT_CORR_AGE => ⟨0xC0014, 1, 0x0, 1, 0x0, 0xFFFF, 0x0, 0x0, 0x0, 0x0, 0x0, 0x0⟩
  | .CRAFT_BASE_X_LO => ⟨0xC0020, 1, 0x0, 1, 0x0, 0, 0x0, 0x0, 0x0, 0x0, 0x0, 0x0⟩
  | .CRAFT_BASE_X_HI => ⟨0xC0024, 1, 0x0, 1, 0x0, 0, 0x0, 0x0, 0x0, 0x0, 0x0, 0x0⟩
  | .CRAFT_BASE_Y_LO => ⟨0xC0028, 1, 0x0, 1, 0x0, 0, 0x0, 0x0, 0x0, 0x0, 0x0, 0x0⟩
  | .CRAFT_BASE_Y_HI => ⟨0xC002C, 1, 0x0, 1, 0x0, 0, 0x0, 0x0, 0x0, 0x0, 0x0, 0x0⟩
  | .CRAFT_BASE_Z_LO => ⟨0xC0030, 1, 0x0, 1, 0x0, 0, 0x0, 0x0, 0x0, 0x0, 0x0, 0x0⟩
  | .CRAFT_BASE_Z_HI => ⟨0xC0034, 1, 0x0, 1, 0x0, 0, 0x0, 0x0, 0x0, 0x0, 0x0, 0x0⟩
  | .CRAFT_BASE_SIGMA => ⟨0xC0038, 1, 0x0, 1, 0x0, 0, 0x0, 0x0, 0x0, 0x0, 0x0, 0x0⟩
  | .CRAFT_CORR_SENT_CNT => ⟨0xC0040, 1, 0x0, 1, 0x0, 0, 0x0, 0x0, 0x0, 0x0, 0xFFFFFFFF, 0x0⟩
  | .CRAFT_CORR_DROP_CNT => ⟨0xC0044, 1, 0x0, 1, 0x0, 0, 0x0, 0x0, 0x0, 0x0, 0xFFFFFFFF, 0x0⟩
  | .CRAFT_STATUS_CNT => ⟨0xC0048, 1, 0x0, 1, 0x0, 0, 0x0, 0x0, 0x0, 0x0, 0xFFFFFFFF, 0x0⟩
  | .CRAFT_GRANT_CNT => ⟨0xC004C, 1, 0x0, 1, 0x0, 0, 0x0, 0x0, 0x0, 0x0, 0xFFFFFFFF, 0x0⟩
  | .CRAFT_REFUSE_CNT => ⟨0xC0050, 1, 0x0, 1, 0x0, 0, 0x0, 0x0, 0x0, 0x0, 0xFFFFFFFF, 0x0⟩
  | .CRAFT_ORDER_DROP_CNT => ⟨0xC0054, 1, 0x0, 1, 0x0, 0, 0x0, 0x0, 0x0, 0x0, 0xFFFFFFFF, 0x0⟩
  | .CRAFT_ALLOT_CNT => ⟨0xC0058, 1, 0x0, 1, 0x0, 0, 0x0, 0x0, 0x0, 0x0, 0xFFFFFFFF, 0x0⟩
  | .CRAFT_STOP_FRAME_CNT => ⟨0xC005C, 1, 0x0, 1, 0x0, 0, 0x0, 0x0, 0x0, 0x0, 0xFFFFFFFF, 0x0⟩
  | .CRAFT_ALARM_CNT => ⟨0xC0060, 1, 0x0, 1, 0x0, 0, 0x0, 0x0, 0x0, 0x0, 0xFFFFFFFF, 0x0⟩
  | .CRAFT_CFG0 => ⟨0xC0070, 1, 0x0, 1, 0x0, 0x0103C2E0, 0x0, 0x0, 0x0, 0x0, 0x0, 0x1FFFFFF⟩
  | .CRAFT_CFG1 => ⟨0xC0074, 1, 0x0, 1, 0x0, 0x00032190, 0x0, 0x0, 0x0, 0x0, 0x0, 0x3FFFFF⟩
  | .CRAFT_CFG2 => ⟨0xC0078, 1, 0x0, 1, 0x0, 0x00001E0A, 0x0, 0x0, 0x0, 0x0, 0x0, 0xFFFFFFF⟩
  | .CRAFT_CFG3 => ⟨0xC007C, 1, 0x0, 1, 0x0, 0x000A0BB8, 0x0, 0x0, 0x0, 0x0, 0x0, 0x1FFFFF⟩
  | .CRAFT_CFG4 => ⟨0xC0080, 1, 0x0, 1, 0x0, 0x00440000, 0x0, 0x0, 0x0, 0x0, 0x0, 0xFFFFFF⟩
  | .CRAFT_Q_CMD => ⟨0xC0090, 1, 0x0, 1, 0x0, 0, 0x0, 0x0, 0x0, 0xFFFFFFFF, 0x0, 0x0⟩
  | .CRAFT_Q_STATUS => ⟨0xC0094, 1, 0x0, 1, 0x0, 0, 0x0, 0x0, 0x0, 0x0, 0x0, 0x0⟩
  | .CRAFT_Q_DATA => ⟨0xC00A0, 8, 0x4, 1, 0x0, 0, 0x0, 0x0, 0x0, 0x0, 0x0, 0x0⟩
  -- TIME: R308, 10_time_gnss.md
  | .TIME_STATUS => ⟨0xD0000, 1, 0x0, 1, 0x0, 0x8, 0x0, 0x0, 0x0, 0x0, 0x0, 0x0⟩
  | .TIME_INT => ⟨0xD0004, 1, 0x0, 1, 0x0, 0, 0x0, 0xFF, 0x0, 0x0, 0x0, 0x0⟩
  | .TIME_INT_EN => ⟨0xD0008, 1, 0x0, 1, 0x0, 0, 0xFF, 0x0, 0x0, 0x0, 0x0, 0x0⟩
  | .TIME_NOW_FRAC => ⟨0xD0010, 1, 0x0, 1, 0x0, 0, 0x0, 0x0, 0x0, 0x0, 0x0, 0x0⟩
  | .TIME_NOW_NS => ⟨0xD0014, 1, 0x0, 1, 0x0, 0, 0x0, 0x0, 0x0, 0x0, 0x0, 0x0⟩
  | .TIME_NOW_SEC_LO => ⟨0xD0018, 1, 0x0, 1, 0x0, 0, 0x0, 0x0, 0x0, 0x0, 0x0, 0x0⟩
  | .TIME_NOW_SEC_HI => ⟨0xD001C, 1, 0x0, 1, 0x0, 0, 0x0, 0x0, 0x0, 0x0, 0x0, 0x0⟩
  | .TIME_TIME_UNC => ⟨0xD0020, 1, 0x0, 1, 0x0, 0, 0x0, 0x0, 0x0, 0x0, 0x0, 0x0⟩
  | .TIME_FREQ_UNC => ⟨0xD0024, 1, 0x0, 1, 0x0, 0, 0x0, 0x0, 0x0, 0x0, 0x0, 0x0⟩
  | .TIME_OFFSET => ⟨0xD0028, 1, 0x0, 1, 0x0, 0, 0x0, 0x0, 0x0, 0x0, 0x0, 0x0⟩
  | .TIME_RESIDUAL => ⟨0xD002C, 1, 0x0, 1, 0x0, 0, 0x0, 0x0, 0x0, 0x0, 0x0, 0x0⟩
  | .TIME_RATE => ⟨0xD0030, 1, 0x0, 1, 0x0, 0, 0x0, 0x0, 0x0, 0x0, 0x0, 0x0⟩
  | .TIME_STEP_CNT => ⟨0xD0034, 1, 0x0, 1, 0x0, 0, 0x0, 0x0, 0x0, 0x0, 0xFFFFFFFF, 0x0⟩
  | .TIME_TRIG_SKIP_CNT => ⟨0xD0038, 1, 0x0, 1, 0x0, 0, 0x0, 0x0, 0x0, 0x0, 0xFFFFFFFF, 0x0⟩
  | .TIME_CMD => ⟨0xD0040, 1, 0x0, 1, 0x0, 0, 0x0, 0x0, 0x0, 0xFFFFFFFF, 0x0, 0x0⟩
  | .TIME_CMD_STATUS => ⟨0xD0044, 1, 0x0, 1, 0x0, 0, 0x0, 0x0, 0x0, 0x0, 0x0, 0x0⟩
  | .TIME_SET_NS => ⟨0xD0048, 1, 0x0, 1, 0x0, 0, 0xFFFFFFFF, 0x0, 0x0, 0x0, 0x0, 0x0⟩
  | .TIME_SET_SEC_LO => ⟨0xD004C, 1, 0x0, 1, 0x0, 0, 0xFFFFFFFF, 0x0, 0x0, 0x0, 0x0, 0x0⟩
  | .TIME_SET_SEC_HI => ⟨0xD0050, 1, 0x0, 1, 0x0, 0, 0xFFFF, 0x0, 0x0, 0x0, 0x0, 0x0⟩
  | .TIME_PPS_CFG => ⟨0xD0054, 1, 0x0, 1, 0x0, 0x32000000, 0xFFFFFF, 0x0, 0x0, 0x0, 0x0, 0xFF000000⟩
  | .TIME_CFG0 => ⟨0xD0058, 1, 0x0, 1, 0x0, 0x1E64, 0x0, 0x0, 0x0, 0x0, 0x0, 0xFFFF⟩
  | .TIME_CFG1 => ⟨0xD005C, 1, 0x0, 1, 0x0, 0x2710, 0x0, 0x0, 0x0, 0x0, 0x0, 0xFFFFFFFF⟩
  | .TIME_TRIG_EN_LO => ⟨0xD0060, 1, 0x0, 1, 0x0, 0, 0xFFFFFFFF, 0x0, 0x0, 0x0, 0x0, 0x0⟩
  | .TIME_TRIG_EN_HI => ⟨0xD0064, 1, 0x0, 1, 0x0, 0, 0xFFFF, 0x0, 0x0, 0x0, 0x0, 0x0⟩
  | .TIME_CAPT_POP => ⟨0xD0068, 1, 0x0, 1, 0x0, 0, 0x0, 0x0, 0x0, 0xFFFFFFFF, 0x0, 0x0⟩
  | .TIME_PTP_PORT => ⟨0xD0080, 4, 0x4, 1, 0x0, 0, 0x0, 0x0, 0x0, 0x0, 0x0, 0x0⟩
  | .TIME_PTP_MPD => ⟨0xD0090, 4, 0x4, 1, 0x0, 0, 0x0, 0x0, 0x0, 0x0, 0x0, 0x0⟩
  | .TIME_CAPT_HEAD => ⟨0xD0100, 9, 0x10, 1, 0x0, 0, 0x0, 0x0, 0x0, 0x0, 0x0, 0x0⟩
  | .TIME_CAPT_NS => ⟨0xD0104, 9, 0x10, 1, 0x0, 0, 0x0, 0x0, 0x0, 0x0, 0x0, 0x0⟩
  | .TIME_CAPT_SEC_LO => ⟨0xD0108, 9, 0x10, 1, 0x0, 0, 0x0, 0x0, 0x0, 0x0, 0x0, 0x0⟩
  | .TIME_CAPT_SEC_HI => ⟨0xD010C, 9, 0x10, 1, 0x0, 0, 0x0, 0x0, 0x0, 0x0, 0x0, 0x0⟩
  -- GNSS: R308, 10_time_gnss.md
  | .GNSS_STATUS => ⟨0xE0000, 1, 0x0, 1, 0x0, 0, 0x0, 0x0, 0x0, 0x0, 0x0, 0x0⟩
  | .GNSS_INT => ⟨0xE0004, 1, 0x0, 1, 0x0, 0, 0x0, 0xF, 0x0, 0x0, 0x0, 0x0⟩
  | .GNSS_INT_EN => ⟨0xE0008, 1, 0x0, 1, 0x0, 0, 0xF, 0x0, 0x0, 0x0, 0x0, 0x0⟩
  | .GNSS_SATS => ⟨0xE000C, 1, 0x0, 1, 0x0, 0, 0x0, 0x0, 0x0, 0x0, 0x0, 0x0⟩
  | .GNSS_RESID => ⟨0xE0010, 1, 0x0, 1, 0x0, 0, 0x0, 0x0, 0x0, 0x0, 0x0, 0x0⟩
  | .GNSS_CN0 => ⟨0xE0014, 1, 0x0, 1, 0x0, 0, 0x0, 0x0, 0x0, 0x0, 0x0, 0x0⟩
  | .GNSS_POS_X_LO => ⟨0xE0020, 1, 0x0, 1, 0x0, 0, 0x0, 0x0, 0x0, 0x0, 0x0, 0x0⟩
  | .GNSS_POS_X_HI => ⟨0xE0024, 1, 0x0, 1, 0x0, 0, 0x0, 0x0, 0x0, 0x0, 0x0, 0x0⟩
  | .GNSS_POS_Y_LO => ⟨0xE0028, 1, 0x0, 1, 0x0, 0, 0x0, 0x0, 0x0, 0x0, 0x0, 0x0⟩
  | .GNSS_POS_Y_HI => ⟨0xE002C, 1, 0x0, 1, 0x0, 0, 0x0, 0x0, 0x0, 0x0, 0x0, 0x0⟩
  | .GNSS_POS_Z_LO => ⟨0xE0030, 1, 0x0, 1, 0x0, 0, 0x0, 0x0, 0x0, 0x0, 0x0, 0x0⟩
  | .GNSS_POS_Z_HI => ⟨0xE0034, 1, 0x0, 1, 0x0, 0, 0x0, 0x0, 0x0, 0x0, 0x0, 0x0⟩
  | .GNSS_ACQ_CNT => ⟨0xE0040, 1, 0x0, 1, 0x0, 0, 0x0, 0x0, 0x0, 0x0, 0xFFFFFFFF, 0x0⟩
  | .GNSS_LOSS_CNT => ⟨0xE0044, 1, 0x0, 1, 0x0, 0, 0x0, 0x0, 0x0, 0x0, 0xFFFFFFFF, 0x0⟩
  | .GNSS_CFG0 => ⟨0xE0050, 1, 0x0, 1, 0x0, 0x078A0000, 0x0, 0x0, 0x0, 0x0, 0x0, 0x7FFFFFF⟩
  -- BOND: R328, 11_bonded_store.md
  | .BOND_STATUS => ⟨0xF0000, 1, 0x0, 1, 0x0, 0, 0x0, 0x0, 0x0, 0x0, 0x0, 0x0⟩
  | .BOND_INT => ⟨0xF0004, 1, 0x0, 1, 0x0, 0, 0x0, 0x1F, 0x0, 0x0, 0x0, 0x0⟩
  | .BOND_INT_EN => ⟨0xF0008, 1, 0x0, 1, 0x0, 0, 0x1F, 0x0, 0x0, 0x0, 0x0, 0x0⟩
  | .BOND_CMD => ⟨0xF000C, 1, 0x0, 1, 0x0, 0, 0x0, 0x0, 0x0, 0xFFFFFFFF, 0x0, 0x0⟩
  | .BOND_CMD_STATUS => ⟨0xF0010, 1, 0x0, 1, 0x0, 0, 0x0, 0x0, 0x0, 0x0, 0x0, 0x0⟩
  | .BOND_ADDR_LO => ⟨0xF0014, 1, 0x0, 1, 0x0, 0, 0xFFFFFFFF, 0x0, 0x0, 0x0, 0x0, 0x0⟩
  | .BOND_ADDR_HI => ⟨0xF0018, 1, 0x0, 1, 0x0, 0, 0xFFFFFFFF, 0x0, 0x0, 0x0, 0x0, 0x0⟩
  | .BOND_LEN => ⟨0xF001C, 1, 0x0, 1, 0x0, 0, 0x1FFF, 0x0, 0x0, 0x0, 0x0, 0x0⟩
  | .BOND_NONCE => ⟨0xF0020, 4, 0x4, 1, 0x0, 0, 0x0, 0x0, 0x0, 0x0, 0x0, 0x0⟩
  | .BOND_SERIAL_LO => ⟨0xF0030, 1, 0x0, 1, 0x0, (Config.serial.toNat % 2 ^ 32), 0x0, 0x0, 0x0, 0x0, 0x0, 0x0⟩
  | .BOND_SERIAL_HI => ⟨0xF0034, 1, 0x0, 1, 0x0, (Config.serial.toNat / 2 ^ 32), 0x0, 0x0, 0x0, 0x0, 0x0, 0x0⟩
  | .BOND_SLOT_SEL => ⟨0xF0040, 1, 0x0, 1, 0x0, 0, 0xFF, 0x0, 0x0, 0x0, 0x0, 0x0⟩
  | .BOND_SLOT_ATTR => ⟨0xF0044, 1, 0x0, 1, 0x0, 0, 0x0, 0x0, 0x0, 0x0, 0x0, 0x0⟩
  | .BOND_SLOT_INFO => ⟨0xF0048, 1, 0x0, 1, 0x0, 0, 0x0, 0x0, 0x0, 0x0, 0x0, 0x0⟩
  | .BOND_BAD => ⟨0xF0050, 8, 0x4, 1, 0x0, 0, 0x0, 0x0, 0x0, 0x0, 0x0, 0x0⟩
  | .BOND_EPOCH_FLOOR => ⟨0xF0070, 1, 0x0, 1, 0x0, 0, 0x0, 0x0, 0x0, 0x0, 0x0, 0x0⟩
  | .BOND_GATE => ⟨0xF0080, 8, 0x4, 1, 0x0, 0, 0x0, 0x0, 0x0, 0x0, 0x0, 0x0⟩
  | .BOND_DERIVE_CNT => ⟨0xF00A0, 1, 0x0, 1, 0x0, 0, 0x0, 0x0, 0x0, 0x0, 0xFFFFFFFF, 0x0⟩
  | .BOND_KCACHE_HIT_CNT => ⟨0xF00A4, 1, 0x0, 1, 0x0, 0, 0x0, 0x0, 0x0, 0x0, 0xFFFFFFFF, 0x0⟩
  | .BOND_KCACHE_MISS_CNT => ⟨0xF00A8, 1, 0x0, 1, 0x0, 0, 0x0, 0x0, 0x0, 0x0, 0xFFFFFFFF, 0x0⟩
  | .BOND_TAG_FAIL_CNT => ⟨0xF00AC, 1, 0x0, 1, 0x0, 0, 0x0, 0x0, 0x0, 0x0, 0xFFFFFFFF, 0x0⟩
  | .BOND_EXPORT_CNT => ⟨0xF00B0, 1, 0x0, 1, 0x0, 0, 0x0, 0x0, 0x0, 0x0, 0xFFFFFFFF, 0x0⟩
  | .BOND_EXPORT_REFUSED_CNT => ⟨0xF00B4, 1, 0x0, 1, 0x0, 0, 0x0, 0x0, 0x0, 0x0, 0xFFFFFFFF, 0x0⟩
  | .BOND_DATA => ⟨0xF0100, 64, 0x4, 1, 0x0, 0, 0xFFFFFFFF, 0x0, 0x0, 0x0, 0x0, 0x0⟩
  -- STORE: R351, 12_store.md
  | .STORE_STATUS => ⟨0x100000, 1, 0x0, 1, 0x0, 0, 0x0, 0x0, 0x0, 0x0, 0x0, 0x0⟩
  | .STORE_INT => ⟨0x100004, 1, 0x0, 1, 0x0, 0, 0x0, 0x7F, 0x0, 0x0, 0x0, 0x0⟩
  | .STORE_INT_EN => ⟨0x100008, 1, 0x0, 1, 0x0, 0, 0x7F, 0x0, 0x0, 0x0, 0x0, 0x0⟩
  | .STORE_CMD => ⟨0x10000C, 1, 0x0, 1, 0x0, 0, 0x0, 0x0, 0x0, 0xFFFFFFFF, 0x0, 0x0⟩
  | .STORE_ARG => ⟨0x100010, 1, 0x0, 1, 0x0, 0, 0xFFFFFFFF, 0x0, 0x0, 0x0, 0x0, 0x0⟩
  | .STORE_ADDR_LO => ⟨0x100014, 1, 0x0, 1, 0x0, 0, 0xFFFFFFFF, 0x0, 0x0, 0x0, 0x0, 0x0⟩
  | .STORE_ADDR_HI => ⟨0x100018, 1, 0x0, 1, 0x0, 0, 0xFFFFFFFF, 0x0, 0x0, 0x0, 0x0, 0x0⟩
  | .STORE_CMD_STATUS => ⟨0x10001C, 1, 0x0, 1, 0x0, 0, 0x0, 0x0, 0x0, 0x0, 0x0, 0x0⟩
  | .STORE_RING_HEAD => ⟨0x100040, 5, 0x8, 1, 0x0, 0, 0x0, 0x0, 0x0, 0x0, 0x0, 0x0⟩
  | .STORE_RING_TAIL => ⟨0x100044, 5, 0x8, 1, 0x0, 0, 0x0, 0x0, 0x0, 0x0, 0x0, 0x0⟩
  | .STORE_HEALTH0 => ⟨0x100070, 1, 0x0, 1, 0x0, 0, 0x0, 0x0, 0x0, 0x0, 0x0, 0x0⟩
  | .STORE_CORR_CNT => ⟨0x100080, 1, 0x0, 1, 0x0, 0, 0x0, 0x0, 0x0, 0x0, 0xFFFFFFFF, 0x0⟩
  | .STORE_UNCORR_CNT => ⟨0x100084, 1, 0x0, 1, 0x0, 0, 0x0, 0x0, 0x0, 0x0, 0xFFFFFFFF, 0x0⟩
  | .STORE_REFRESH_CNT => ⟨0x100088, 1, 0x0, 1, 0x0, 0, 0x0, 0x0, 0x0, 0x0, 0xFFFFFFFF, 0x0⟩
  | .STORE_PROG_FAIL_CNT => ⟨0x10008C, 1, 0x0, 1, 0x0, 0, 0x0, 0x0, 0x0, 0x0, 0xFFFFFFFF, 0x0⟩
  | .STORE_DROP_CNT => ⟨0x100090, 1, 0x0, 1, 0x0, 0, 0x0, 0x0, 0x0, 0x0, 0xFFFFFFFF, 0x0⟩
  | .STORE_STALL_CNT => ⟨0x100094, 1, 0x0, 1, 0x0, 0, 0x0, 0x0, 0x0, 0x0, 0xFFFFFFFF, 0x0⟩
  | .STORE_FOLD_CNT => ⟨0x100098, 1, 0x0, 1, 0x0, 0, 0x0, 0x0, 0x0, 0x0, 0xFFFFFFFF, 0x0⟩
  | .STORE_CFG0 => ⟨0x1000C0, 1, 0x0, 1, 0x0, 0x03204A07, 0x0, 0x0, 0x0, 0x0, 0x0, 0xFFFFFFFF⟩
  | .STORE_CFG1 => ⟨0x1000C4, 1, 0x0, 1, 0x0, 0x75300BB8, 0x0, 0x0, 0x0, 0x0, 0x0, 0xFFFFFFFF⟩
  | .STORE_CFG2 => ⟨0x1000C8, 1, 0x0, 1, 0x0, 0x04001215, 0x0, 0x0, 0x0, 0x0, 0x0, 0xFFFFFFFF⟩
  -- WHARF: R372, 13_wharf_pilot.md
  | .WHARF_STATUS => ⟨0x110000, 1, 0x0, 1, 0x0, 0, 0x0, 0x0, 0x0, 0x0, 0x0, 0x0⟩
  | .WHARF_INT => ⟨0x110004, 1, 0x0, 1, 0x0, 0, 0x0, 0x1F, 0x0, 0x0, 0x0, 0x0⟩
  | .WHARF_INT_EN => ⟨0x110008, 1, 0x0, 1, 0x0, 0, 0x1F, 0x0, 0x0, 0x0, 0x0, 0x0⟩
  | .WHARF_CTL => ⟨0x11000C, 1, 0x0, 1, 0x0, 0, 0x1, 0x0, 0x0, 0x0, 0x0, 0x0⟩
  | .WHARF_RX_DGRAM_CNT => ⟨0x110010, 1, 0x0, 1, 0x0, 0, 0x0, 0x0, 0x0, 0x0, 0xFFFFFFFF, 0x0⟩
  | .WHARF_TX_DGRAM_CNT => ⟨0x110014, 1, 0x0, 1, 0x0, 0, 0x0, 0x0, 0x0, 0x0, 0xFFFFFFFF, 0x0⟩
  | .WHARF_AUTH_FAIL_CNT => ⟨0x110018, 1, 0x0, 1, 0x0, 0, 0x0, 0x0, 0x0, 0x0, 0xFFFFFFFF, 0x0⟩
  | .WHARF_REPLAY_CNT => ⟨0x11001C, 1, 0x0, 1, 0x0, 0, 0x0, 0x0, 0x0, 0x0, 0xFFFFFFFF, 0x0⟩
  | .WHARF_RANGE_DROP_CNT => ⟨0x110020, 1, 0x0, 1, 0x0, 0, 0x0, 0x0, 0x0, 0x0, 0xFFFFFFFF, 0x0⟩
  | .WHARF_CREDIT_DROP_CNT => ⟨0x110024, 1, 0x0, 1, 0x0, 0, 0x0, 0x0, 0x0, 0x0, 0xFFFFFFFF, 0x0⟩
  | .WHARF_LOST_CNT => ⟨0x110028, 1, 0x0, 1, 0x0, 0, 0x0, 0x0, 0x0, 0x0, 0xFFFFFFFF, 0x0⟩
  | .WHARF_CFG0 => ⟨0x110040, 1, 0x0, 1, 0x0, 0xBA41BA40, 0x0, 0x0, 0x0, 0x0, 0x0, 0xFFFFFFFF⟩
  | .WHARF_CFG1 => ⟨0x110044, 1, 0x0, 1, 0x0, 0x2000, 0x0, 0x0, 0x0, 0x0, 0x0, 0x3FFFF⟩
  | .WHARF_WORKER_STATE => ⟨0x110100, 256, 0x4, 1, 0x0, 0, 0x0, 0x0, 0x0, 0x0, 0x0, 0x0⟩
  -- PILOT: R372, 13_wharf_pilot.md
  | .PILOT_STATUS => ⟨0x120000, 1, 0x0, 1, 0x0, 0, 0x0, 0x0, 0x0, 0x0, 0x0, 0x0⟩
  | .PILOT_CLAIM => ⟨0x120004, 1, 0x0, 1, 0x0, 0, 0x0, 0x0, 0x0, 0x0, 0x0, 0x0⟩
  | .PILOT_PARTNER_CLAIM => ⟨0x120008, 1, 0x0, 1, 0x0, 0, 0x0, 0x0, 0x0, 0x0, 0x0, 0x0⟩
  | .PILOT_INT => ⟨0x12000C, 1, 0x0, 1, 0x0, 0, 0x0, 0x3F, 0x0, 0x0, 0x0, 0x0⟩
  | .PILOT_INT_EN => ⟨0x120010, 1, 0x0, 1, 0x0, 0, 0x3F, 0x0, 0x0, 0x0, 0x0, 0x0⟩
  | .PILOT_OUT => ⟨0x120014, 1, 0x0, 1, 0x0, 0, 0x3FFFFFFF, 0x0, 0x0, 0x0, 0x0, 0x0⟩
  | .PILOT_CMD => ⟨0x120018, 1, 0x0, 1, 0x0, 0, 0x0, 0x0, 0x0, 0xFFFFFFFF, 0x0, 0x0⟩
  | .PILOT_DRILL_RESULT => ⟨0x12001C, 1, 0x0, 1, 0x0, 0, 0x0, 0x0, 0x0, 0x0, 0x0, 0x0⟩
  | .PILOT_FRAME_ERR_CNT => ⟨0x120020, 1, 0x0, 1, 0x0, 0, 0x0, 0x0, 0x0, 0x0, 0xFFFFFFFF, 0x0⟩
  | .PILOT_TAKEOVER_CNT => ⟨0x120024, 1, 0x0, 1, 0x0, 0, 0x0, 0x0, 0x0, 0x0, 0x0, 0x0⟩
  | .PILOT_CFG => ⟨0x120028, 1, 0x0, 1, 0x0, 0x40, 0x0, 0x0, 0x0, 0x0, 0x0, 0x3FF⟩
  | .PILOT_PAIR_ID => ⟨0x12002C, 1, 0x0, 1, 0x0, 0, 0x0, 0x0, 0x0, 0x0, 0x0, 0xFFFFFFFF⟩
  -- LOG: R389, 14_logbook.md
  | .LOG_STATUS => ⟨0x130000, 1, 0x0, 1, 0x0, 0, 0x0, 0x0, 0x0, 0x0, 0x0, 0x0⟩
  | .LOG_INT => ⟨0x130004, 1, 0x0, 1, 0x0, 0, 0x0, 0x1F, 0x0, 0x0, 0x0, 0x0⟩
  | .LOG_INT_EN => ⟨0x130008, 1, 0x0, 1, 0x0, 0, 0x1F, 0x0, 0x0, 0x0, 0x0, 0x0⟩
  | .LOG_NEWEST_SEQ => ⟨0x13000C, 1, 0x0, 1, 0x0, 0, 0x0, 0x0, 0x0, 0x0, 0x0, 0x0⟩
  | .LOG_OLDEST_SEQ => ⟨0x130010, 1, 0x0, 1, 0x0, 0, 0x0, 0x0, 0x0, 0x0, 0x0, 0x0⟩
  | .LOG_CLEAR_MARK => ⟨0x130014, 1, 0x0, 1, 0x0, 0, 0x0, 0x0, 0x0, 0x0, 0x0, 0x0⟩
  | .LOG_OP_SEC_LO => ⟨0x130018, 1, 0x0, 1, 0x0, 0, 0x0, 0x0, 0x0, 0x0, 0x0, 0x0⟩
  | .LOG_OP_SEC_HI => ⟨0x13001C, 1, 0x0, 1, 0x0, 0, 0x0, 0x0, 0x0, 0x0, 0x0, 0x0⟩
  | .LOG_POWER_CYCLES => ⟨0x130020, 1, 0x0, 1, 0x0, 0, 0x0, 0x0, 0x0, 0x0, 0x0, 0x0⟩
  | .LOG_LOST_CNT => ⟨0x130024, 1, 0x0, 1, 0x0, 0, 0x0, 0x0, 0x0, 0x0, 0xFFFFFFFF, 0x0⟩
  | .LOG_CFG => ⟨0x130028, 1, 0x0, 1, 0x0, 0xA, 0x0, 0x0, 0x0, 0x0, 0x0, 0xFFF⟩
  | .LOG_RD_SEQ => ⟨0x130030, 1, 0x0, 1, 0x0, 0, 0xFFFFFFFF, 0x0, 0x0, 0x0, 0x0, 0x0⟩
  | .LOG_RD_CMD => ⟨0x130034, 1, 0x0, 1, 0x0, 0, 0x0, 0x0, 0x0, 0xFFFFFFFF, 0x0, 0x0⟩
  | .LOG_RD_STATUS => ⟨0x130038, 1, 0x0, 1, 0x0, 0, 0x0, 0x0, 0x0, 0x0, 0x0, 0x0⟩
  | .LOG_RD_DATA => ⟨0x130100, 32, 0x4, 1, 0x0, 0, 0x0, 0x0, 0x0, 0x0, 0x0, 0x0⟩
  -- UPD: R407, 15_updates.md
  | .UPD_STATUS => ⟨0x140000, 1, 0x0, 1, 0x0, 0, 0x0, 0x0, 0x0, 0x0, 0x0, 0x0⟩
  | .UPD_INT => ⟨0x140004, 1, 0x0, 1, 0x0, 0, 0x0, 0x3F, 0x0, 0x0, 0x0, 0x0⟩
  | .UPD_INT_EN => ⟨0x140008, 1, 0x0, 1, 0x0, 0, 0x3F, 0x0, 0x0, 0x0, 0x0, 0x0⟩
  | .UPD_CMD => ⟨0x14000C, 1, 0x0, 1, 0x0, 0, 0x0, 0x0, 0x0, 0xFFFFFFFF, 0x0, 0x0⟩
  | .UPD_CMD_STATUS => ⟨0x140010, 1, 0x0, 1, 0x0, 0, 0x0, 0x0, 0x0, 0x0, 0x0, 0x0⟩
  | .UPD_PKG_ADDR_LO => ⟨0x140014, 1, 0x0, 1, 0x0, 0, 0xFFFFFFFF, 0x0, 0x0, 0x0, 0x0, 0x0⟩
  | .UPD_PKG_ADDR_HI => ⟨0x140018, 1, 0x0, 1, 0x0, 0, 0xFFFFFFFF, 0x0, 0x0, 0x0, 0x0, 0x0⟩
  | .UPD_PKG_LEN => ⟨0x14001C, 1, 0x0, 1, 0x0, 0, 0xFFFFFF, 0x0, 0x0, 0x0, 0x0, 0x0⟩
  | .UPD_TRIAL_CFG => ⟨0x140020, 1, 0x0, 1, 0x0, 0x384, 0xFFFF, 0x0, 0x0, 0x0, 0x0, 0x0⟩
  | .UPD_SLOT => ⟨0x140040, 5, 0x8, 1, 0x0, 0, 0x0, 0x0, 0x0, 0x0, 0x0, 0x0⟩
  | .UPD_VER => ⟨0x140044, 5, 0x8, 1, 0x0, 0, 0x0, 0x0, 0x0, 0x0, 0x0, 0x0⟩
  | .UPD_JOB_CMD => ⟨0x140080, 1, 0x0, 1, 0x0, 0, 0x0, 0x0, 0x0, 0xFFFFFFFF, 0x0, 0x0⟩
  | .UPD_JOB_ADDR_LO => ⟨0x140084, 1, 0x0, 1, 0x0, 0, 0xFFFFFFFF, 0x0, 0x0, 0x0, 0x0, 0x0⟩
  | .UPD_JOB_ADDR_HI => ⟨0x140088, 1, 0x0, 1, 0x0, 0, 0xFFFFFFFF, 0x0, 0x0, 0x0, 0x0, 0x0⟩
  | .UPD_JOB_CFG => ⟨0x14008C, 1, 0x0, 1, 0x0, 0, 0xFFFFFFFF, 0x0, 0x0, 0x0, 0x0, 0x0⟩
  | .UPD_JOB_ACT => ⟨0x140090, 1, 0x0, 1, 0x0, 0, 0xFFFFFFFF, 0x0, 0x0, 0x0, 0x0, 0x0⟩
  | .UPD_JOB_STATUS => ⟨0x1400A0, 8, 0x4, 1, 0x0, 0, 0x0, 0x0, 0x0, 0x0, 0x0, 0x0⟩
  | .UPD_BLOCK_CNT => ⟨0x1400C0, 1, 0x0, 1, 0x0, 0, 0x0, 0x0, 0x0, 0x0, 0xFFFFFFFF, 0x0⟩
  | .UPD_DONE_CNT => ⟨0x1400C4, 1, 0x0, 1, 0x0, 0, 0x0, 0x0, 0x0, 0x0, 0xFFFFFFFF, 0x0⟩
  | .UPD_REFUSED_CNT => ⟨0x1400C8, 1, 0x0, 1, 0x0, 0, 0x0, 0x0, 0x0, 0x0, 0xFFFFFFFF, 0x0⟩
  -- ETH: R424, 16_ethernet_pcie_dma.md
  | .ETH_STATUS => ⟨0x150000, 4, 0x4000, 1, 0x0, 0, 0x0, 0x0, 0x0, 0x0, 0x0, 0x0⟩
  | .ETH_INT => ⟨0x150004, 4, 0x4000, 1, 0x0, 0, 0x0, 0x7, 0x0, 0x0, 0x0, 0x0⟩
  | .ETH_INT_EN => ⟨0x150008, 4, 0x4000, 1, 0x0, 0, 0x7, 0x0, 0x0, 0x0, 0x0, 0x0⟩
  | .ETH_CFG => ⟨0x15000C, 4, 0x4000, 1, 0x0, 0x001405F2, 0xFF3FFF, 0x0, 0x0, 0x0, 0x0, 0x3000000⟩
  | .ETH_MAC_LO => ⟨0x150010, 4, 0x4000, 1, 0x0, 0, 0x0, 0x0, 0x0, 0x0, 0x0, 0x0⟩
  | .ETH_MAC_HI => ⟨0x150014, 4, 0x4000, 1, 0x0, 0, 0x0, 0x0, 0x0, 0x0, 0x0, 0x0⟩
  | .ETH_CNT => ⟨0x150020, 4, 0x4000, 10, 0x4, 0, 0x0, 0x0, 0x0, 0x0, 0xFFFFFFFF, 0x0⟩
  -- DMA: R425, 16_ethernet_pcie_dma.md
  | .DMA_STATUS => ⟨0x160000, 1, 0x0, 1, 0x0, 0, 0x0, 0x0, 0x0, 0x0, 0x0, 0x0⟩
  | .DMA_INT => ⟨0x160004, 1, 0x0, 1, 0x0, 0, 0x0, 0x1, 0x0, 0x0, 0x0, 0x0⟩
  | .DMA_INT_EN => ⟨0x160008, 1, 0x0, 1, 0x0, 0, 0x1, 0x0, 0x0, 0x0, 0x0, 0x0⟩
  | .DMA_HOST_WIN_LO => ⟨0x160010, 1, 0x0, 1, 0x0, 0, 0xFFFFFFFF, 0x0, 0x0, 0x0, 0x0, 0x0⟩
  | .DMA_HOST_WIN_HI => ⟨0x160014, 1, 0x0, 1, 0x0, 0, 0xFFFFFFFF, 0x0, 0x0, 0x0, 0x0, 0x0⟩
  | .DMA_POOL_FREE => ⟨0x160018, 1, 0x0, 1, 0x0, 0x2000, 0x0, 0x0, 0x0, 0x0, 0x0, 0x0⟩
  | .DMA_EV_REFUSED_CNT => ⟨0x16001C, 1, 0x0, 1, 0x0, 0, 0x0, 0x0, 0x0, 0x0, 0xFFFFFFFF, 0x0⟩
  | .DMA_CH_CTL => ⟨0x160100, 16, 0x40, 1, 0x0, 0, 0x7FFFFFE, 0x0, 0x0, 0x0, 0x0, 0x0⟩
  | .DMA_CH_SRC_LO => ⟨0x160104, 16, 0x40, 1, 0x0, 0, 0xFFFFFFFF, 0x0, 0x0, 0x0, 0x0, 0x0⟩
  | .DMA_CH_SRC_HI => ⟨0x160108, 16, 0x40, 1, 0x0, 0, 0xFFFFFFFF, 0x0, 0x0, 0x0, 0x0, 0x0⟩
  | .DMA_CH_DST_LO => ⟨0x16010C, 16, 0x40, 1, 0x0, 0, 0xFFFFFFFF, 0x0, 0x0, 0x0, 0x0, 0x0⟩
  | .DMA_CH_DST_HI => ⟨0x160110, 16, 0x40, 1, 0x0, 0, 0xFFFFFFFF, 0x0, 0x0, 0x0, 0x0, 0x0⟩
  | .DMA_CH_IDX_LO => ⟨0x160114, 16, 0x40, 1, 0x0, 0, 0xFFFFFFFF, 0x0, 0x0, 0x0, 0x0, 0x0⟩
  | .DMA_CH_IDX_HI => ⟨0x160118, 16, 0x40, 1, 0x0, 0, 0xFFFFFFFF, 0x0, 0x0, 0x0, 0x0, 0x0⟩
  | .DMA_CH_LEN => ⟨0x16011C, 16, 0x40, 1, 0x0, 0, 0x1FFFFFF, 0x0, 0x0, 0x0, 0x0, 0x0⟩
  | .DMA_CH_ELEM => ⟨0x160120, 16, 0x40, 1, 0x0, 0, 0xFFF01FF, 0x0, 0x0, 0x0, 0x0, 0x0⟩
  | .DMA_CH_STATUS => ⟨0x160124, 16, 0x40, 1, 0x0, 0, 0x0, 0x0, 0x0, 0x0, 0x0, 0x0⟩
  | .DMA_CH_DONE_TS_LO => ⟨0x160128, 16, 0x40, 1, 0x0, 0, 0x0, 0x0, 0x0, 0x0, 0x0, 0x0⟩
  | .DMA_CH_DONE_TS_HI => ⟨0x16012C, 16, 0x40, 1, 0x0, 0, 0x0, 0x0, 0x0, 0x0, 0x0, 0x0⟩
  | .DMA_FIFO_STAT => ⟨0x160800, 24, 0x4, 1, 0x0, 0, 0x0, 0x0, 0x0, 0x0, 0x0, 0x0⟩
  | .DMA_FIFO_OVF_CNT => ⟨0x160880, 24, 0x4, 1, 0x0, 0, 0x0, 0x0, 0x0, 0x0, 0xFFFFFFFF, 0x0⟩
  | .DMA_CR_BASE_LO => ⟨0x168000, 8, 0x20, 1, 0x0, 0, 0xFFFFFFFF, 0x0, 0x0, 0x0, 0x0, 0x0⟩
  | .DMA_CR_BASE_HI => ⟨0x168004, 8, 0x20, 1, 0x0, 0, 0xFFFFFFFF, 0x0, 0x0, 0x0, 0x0, 0x0⟩
  | .DMA_CR_CFG => ⟨0x168008, 8, 0x20, 1, 0x0, 0x100, 0xFFFFFFE1, 0x0, 0x0, 0x0, 0x0, 0x0⟩
  | .DMA_CR_HEAD => ⟨0x16800C, 8, 0x20, 1, 0x0, 0, 0xFFFF, 0x0, 0x0, 0x0, 0x0, 0x0⟩
  | .DMA_CR_TAIL => ⟨0x168010, 8, 0x20, 1, 0x0, 0, 0x0, 0x0, 0x0, 0x0, 0x0, 0x0⟩
  | .DMA_CR_WAIT_CNT => ⟨0x168014, 8, 0x20, 1, 0x0, 0, 0x0, 0x0, 0x0, 0x0, 0xFFFFFFFF, 0x0⟩
  | .DMA_MSIX_ADDR_LO => ⟨0x16C000, 512, 0x10, 1, 0x0, 0, 0xFFFFFFFC, 0x0, 0x0, 0x0, 0x0, 0x0⟩
  | .DMA_MSIX_ADDR_HI => ⟨0x16C004, 512, 0x10, 1, 0x0, 0, 0xFFFFFFFF, 0x0, 0x0, 0x0, 0x0, 0x0⟩
  | .DMA_MSIX_DATA => ⟨0x16C008, 512, 0x10, 1, 0x0, 0, 0xFFFFFFFF, 0x0, 0x0, 0x0, 0x0, 0x0⟩
  | .DMA_MSIX_CTRL => ⟨0x16C00C, 512, 0x10, 1, 0x0, 1, 0x1, 0x0, 0x0, 0x0, 0x0, 0x0⟩
  | .DMA_PBA => ⟨0x16E000, 16, 0x4, 1, 0x0, 0, 0x0, 0x0, 0x0, 0x0, 0x0, 0x0⟩
  -- PANEL: R440, 17_panel.md
  | .PANEL_STATUS => ⟨0x170000, 1, 0x0, 1, 0x0, 0, 0x0, 0x0, 0x0, 0x0, 0x0, 0x0⟩
  | .PANEL_INT => ⟨0x170004, 1, 0x0, 1, 0x0, 0, 0x0, 0x1F, 0x0, 0x0, 0x0, 0x0⟩
  | .PANEL_INT_EN => ⟨0x170008, 1, 0x0, 1, 0x0, 0, 0x1F, 0x0, 0x0, 0x0, 0x0, 0x0⟩
  | .PANEL_CTL => ⟨0x17000C, 1, 0x0, 1, 0x0, 0, 0x3, 0x0, 0x4, 0x0, 0x0, 0x0⟩
  | .PANEL_TEMP_HOST => ⟨0x170010, 1, 0x0, 1, 0x0, 0, 0xFFFF, 0x0, 0x0, 0x0, 0x0, 0x0⟩
  | .PANEL_TEMP_USED => ⟨0x170014, 1, 0x0, 1, 0x0, 0, 0x0, 0x0, 0x0, 0x0, 0x0, 0x0⟩
  | .PANEL_ACCT_SEL => ⟨0x170018, 1, 0x0, 1, 0x0, 0, 0x1FF, 0x0, 0x0, 0x0, 0x0, 0x0⟩
  | .PANEL_ACCT => ⟨0x17001C, 1, 0x0, 1, 0x0, 0, 0x0, 0x0, 0x0, 0x0, 0x0, 0x0⟩
  | .PANEL_RUN_CNT => ⟨0x170020, 1, 0x0, 1, 0x0, 0, 0x0, 0x0, 0x0, 0x0, 0xFFFFFFFF, 0x0⟩
  | .PANEL_ABORT_CNT => ⟨0x170024, 1, 0x0, 1, 0x0, 0, 0x0, 0x0, 0x0, 0x0, 0xFFFFFFFF, 0x0⟩
  | .PANEL_COMP_CNT => ⟨0x170028, 1, 0x0, 1, 0x0, 0, 0x0, 0x0, 0x0, 0x0, 0xFFFFFFFF, 0x0⟩
  | .PANEL_CFG0 => ⟨0x170040, 1, 0x0, 1, 0x0, 0x0190A408, 0x0, 0x0, 0x0, 0x0, 0x0, 0x7FFFFFF⟩
  | .PANEL_CFG1 => ⟨0x170044, 1, 0x0, 1, 0x0, 0x00400010, 0x0, 0x0, 0x0, 0x0, 0x0, 0x1FFFFFF⟩
  | .PANEL_CFG2 => ⟨0x170048, 1, 0x0, 1, 0x0, 0, 0x0, 0x0, 0x0, 0x0, 0x0, 0xFFFFFFF⟩
  | .PANEL_BAND_T => ⟨0x170050, 7, 0x4, 1, 0x0, 0, 0x0, 0x0, 0x0, 0x0, 0x0, 0xFFFF⟩
  | .PANEL_BLINK_CTL => ⟨0x170080, 8, 0x4, 1, 0x0, 0, 0x1FFFF, 0x0, 0x0, 0x0, 0x0, 0x0⟩
  | .PANEL_IMAGE => ⟨0x170100, 16, 0x4, 1, 0x0, 0, 0x0, 0x0, 0x0, 0x0, 0x0, 0x0⟩
  | .PANEL_BLINK_MASK => ⟨0x170200, 8, 0x40, 16, 0x4, 0, 0xFFFFFFFF, 0x0, 0x0, 0x0, 0x0, 0x0⟩
  -- PWR: R466, 18_power_clocks_reset.md
  | .PWR_STATUS => ⟨0x180000, 1, 0x0, 1, 0x0, 0, 0x0, 0x0, 0x0, 0x0, 0x0, 0x0⟩
  | .PWR_INT => ⟨0x180004, 1, 0x0, 1, 0x0, 0, 0x0, 0x7F, 0x0, 0x0, 0x0, 0x0⟩
  | .PWR_INT_EN => ⟨0x180008, 1, 0x0, 1, 0x0, 0, 0x7F, 0x0, 0x0, 0x0, 0x0, 0x0⟩
  | .PWR_CMD => ⟨0x18000C, 1, 0x0, 1, 0x0, 0, 0x0, 0x0, 0x0, 0xFFFFFFFF, 0x0, 0x0⟩
  | .PWR_CMD_STATUS => ⟨0x180010, 1, 0x0, 1, 0x0, 0, 0x0, 0x0, 0x0, 0x0, 0x0, 0x0⟩
  | .PWR_WDT_CFG => ⟨0x180014, 1, 0x0, 1, 0x0, 0, 0x0, 0x0, 0x0, 0x0, 0x0, 0xFFFF⟩
  | .PWR_WDT_KICK => ⟨0x180018, 1, 0x0, 1, 0x0, 0, 0x0, 0x0, 0x0, 0xFFFFFFFF, 0x0, 0x0⟩
  | .PWR_CFG => ⟨0x18001C, 1, 0x0, 1, 0x0, 0x00640000, 0x1, 0x0, 0x0, 0x0, 0x0, 0xFFFF000E⟩
  | .PWR_BOOT_MS => ⟨0x180020, 1, 0x0, 1, 0x0, 0, 0x0, 0x0, 0x0, 0x0, 0x0, 0x0⟩
  | .PWR_DOZE_CNT => ⟨0x180024, 1, 0x0, 1, 0x0, 0, 0x0, 0x0, 0x0, 0x0, 0xFFFFFFFF, 0x0⟩
  | .PWR_NAP_CNT => ⟨0x180028, 1, 0x0, 1, 0x0, 0, 0x0, 0x0, 0x0, 0x0, 0xFFFFFFFF, 0x0⟩
  | .PWR_HIB_CNT => ⟨0x18002C, 1, 0x0, 1, 0x0, 0, 0x0, 0x0, 0x0, 0x0, 0xFFFFFFFF, 0x0⟩
  | .PWR_NAP_MS => ⟨0x180030, 1, 0x0, 1, 0x0, 0, 0x0, 0x0, 0x0, 0x0, 0xFFFFFFFF, 0x0⟩
  | .PWR_WAKE_LATE_CNT => ⟨0x180034, 1, 0x0, 1, 0x0, 0, 0x0, 0x0, 0x0, 0x0, 0xFFFFFFFF, 0x0⟩
  | .PWR_GATE => ⟨0x180038, 1, 0x0, 1, 0x0, 0, 0x0, 0x0, 0x0, 0x0, 0x0, 0x0⟩
  | .PWR_BG_PASS => ⟨0x180040, 3, 0x4, 1, 0x0, 0, 0x0, 0x0, 0x0, 0x0, 0x0, 0x0⟩
  -- PINS: R488, 20_register_map.md
  | .PINS_GPIO_IN_LO => ⟨0x190000, 1, 0x0, 1, 0x0, 0, 0x0, 0x0, 0x0, 0x0, 0x0, 0x0⟩
  | .PINS_GPIO_IN_HI => ⟨0x190004, 1, 0x0, 1, 0x0, 0, 0x0, 0x0, 0x0, 0x0, 0x0, 0x0⟩
  | .PINS_GPIO_OUT_LO => ⟨0x190008, 1, 0x0, 1, 0x0, 0, 0xFFFFFFFF, 0x0, 0x0, 0x0, 0x0, 0x0⟩
  | .PINS_GPIO_OUT_HI => ⟨0x19000C, 1, 0x0, 1, 0x0, 0, 0xFFFF, 0x0, 0x0, 0x0, 0x0, 0x0⟩
  | .PINS_GPIO_OE_LO => ⟨0x190010, 1, 0x0, 1, 0x0, 0, 0xFFFFFFFF, 0x0, 0x0, 0x0, 0x0, 0x0⟩
  | .PINS_GPIO_OE_HI => ⟨0x190014, 1, 0x0, 1, 0x0, 0, 0xFFFF, 0x0, 0x0, 0x0, 0x0, 0x0⟩
  | .PINS_GPIO_INT_LO => ⟨0x190018, 1, 0x0, 1, 0x0, 0, 0x0, 0xFFFFFFFF, 0x0, 0x0, 0x0, 0x0⟩
  | .PINS_GPIO_INT_HI => ⟨0x19001C, 1, 0x0, 1, 0x0, 0, 0x0, 0xFFFF, 0x0, 0x0, 0x0, 0x0⟩
  | .PINS_GPIO_INT_EN_LO => ⟨0x190020, 1, 0x0, 1, 0x0, 0, 0xFFFFFFFF, 0x0, 0x0, 0x0, 0x0, 0x0⟩
  | .PINS_GPIO_INT_EN_HI => ⟨0x190024, 1, 0x0, 1, 0x0, 0, 0xFFFF, 0x0, 0x0, 0x0, 0x0, 0x0⟩
  | .PINS_GPIO_EDGE => ⟨0x190028, 3, 0x4, 1, 0x0, 0, 0xFFFFFFFF, 0x0, 0x0, 0x0, 0x0, 0x0⟩
  | .PINS_ETH_EN => ⟨0x190040, 1, 0x0, 1, 0x0, 0, 0x0, 0x0, 0x0, 0x0, 0x0, 0xF⟩
  | .PINS_BALL => ⟨0x190100, 48, 0x4, 1, 0x0, 0x40000, 0x0, 0x0, 0x0, 0x0, 0x0, 0xFFFFF⟩
  -- BAR2: R410, 16_ethernet_pcie_dma.md
  | .BAR2_DB_ADDR_LO => ⟨0x400000, 4096, 0x10, 1, 0x0, 0, 0xFFFFFFC0, 0x0, 0x0, 0x0, 0x0, 0x0⟩
  | .BAR2_DB_ADDR_HI => ⟨0x400004, 4096, 0x10, 1, 0x0, 0, 0xFFFFFFFF, 0x0, 0x0, 0x0, 0x0, 0x0⟩
  | .BAR2_DB_COUNT => ⟨0x400008, 4096, 0x10, 1, 0x0, 0, 0x0, 0x0, 0x0, 0xFFFFFFFF, 0x0, 0x0⟩
  | .BAR2_DB_STATUS => ⟨0x40000C, 4096, 0x10, 1, 0x0, 0, 0x0, 0x0, 0x0, 0x0, 0x0, 0x0⟩

/-- Part 0 of the register list. -/
def regList0 : List Reg :=
  [.GLOBAL_ID, .GLOBAL_REV, .GLOBAL_STATUS, .GLOBAL_INT, .GLOBAL_INT_EN, .GLOBAL_TEMP, .GLOBAL_TEMP_MAX, .GLOBAL_HOT_CFG, .GLOBAL_SCRUB_CORR_CNT, .GLOBAL_SCRUB_UNCORR_CNT, .GLOBAL_SCRATCH, .PLAN_STATUS, .PLAN_BOOT_ERROR_0, .PLAN_BOOT_ERROR_1, .PLAN_DELTA_ERROR, .PLAN_SERIAL_LO, .PLAN_SERIAL_HI, .PLAN_EPOCH, .PLAN_EPOCH_FLOOR, .PLAN_CMD, .PLAN_INT, .PLAN_DELTA_ADDR_LO, .PLAN_DELTA_ADDR_HI, .PLAN_DELTA_LEN, .HM_STATUS, .HM_INT, .HM_INT_EN, .HM_STALE_CNT, .HM_POISON_CNT, .HM_DL_STATUS, .HM_DL_POP, .HM_DL_ENTRY, .HM_LEVEL_DEPTH, .HM_FUNC_CTL, .HM_BERTH_CFG, .HM_BERTH_LIM, .HM_BERTH_DEPTH, .HM_BERTH_STAT, .TUG_FLEET_STATUS, .TUG_SELFTEST_CMD]

/-- Part 1 of the register list. -/
def regList1 : List Reg :=
  [.TUG_SELFTEST_RESULT, .TUG_FAIL_LAST, .TUG_FENCED, .TUG_DOCK_CFG, .TUG_DOCK_KIND_LO, .TUG_DOCK_KIND_HI, .TUG_BUDGET, .EP_STATUS, .EP_INT, .EP_INT_EN, .EP_RX_FRAMES_CNT, .EP_HDR_REJ_CNT, .EP_AUTH_FAIL_CNT, .EP_REPLAY_REJ_CNT, .EP_SHED_CNT, .EP_VEE_FAIL_CNT, .EP_VEE_EST_CNT, .EP_CONFLICT_CNT, .EP_RECORD_LOST_CNT, .EP_CACHE_HIT_CNT, .EP_CACHE_MISS_CNT, .EP_ADMIT_CFG, .EP_ADMIT_CFG2, .EP_CMD_CFG, .EP_RD_CMD, .EP_RD_STATUS, .EP_RD_DATA, .PLC_SEG_CTL, .PLC_SEG_STATUS, .PLC_INT, .PLC_INT_EN, .PLC_CYCLE, .PLC_ZC, .PLC_RX_OK_CNT, .PLC_RX_FAIL_CNT, .PLC_ERASED_SYM_CNT, .PLC_BLANK_CNT, .PLC_DOWNGRADE_CNT, .PLC_POLL_FAIL_CNT, .PLC_TX_DROP_CNT]

/-- Part 2 of the register list. -/
def regList2 : List Reg :=
  [.PLC_CONTEND_CNT, .PLC_SEG_CFG0, .PLC_SEG_CFG1, .PLC_SEG_CFG2, .PLC_NOTCH, .PLC_ENTRY_CMD, .PLC_ENTRY_STATUS, .RADIO_PORT_CTL, .RADIO_PORT_STATUS, .RADIO_INT, .RADIO_INT_EN, .RADIO_SUPERFRAME, .RADIO_SLOT, .RADIO_LOCAL_PPM, .RADIO_RX_OK_CNT, .RADIO_RX_CRC_FAIL_CNT, .RADIO_RESCUED_CNT, .RADIO_UNSLOTTED_CNT, .RADIO_MISSED_CNT, .RADIO_ACK_CNT, .RADIO_DOWN_CNT, .RADIO_TX_DROP_CNT, .RADIO_DEFER_CNT, .RADIO_BEACON_SKIP_CNT, .RADIO_CFG0, .RADIO_CFG1, .RADIO_CFG2, .RADIO_ENTRY_CMD, .RADIO_ENTRY_EPX, .RADIO_ENTRY_STATUS, .RADIO_SB_LIMIT, .RADIO_SB_LOW, .RADIO_SB_HIGH, .RADIO_SB_USED_B, .RADIO_SB_USED_S, .RADIO_SB_USED_G, .CUSTOMS_STATUS, .CUSTOMS_INT, .CUSTOMS_INT_EN, .CUSTOMS_ROM_ID]

/-- Part 3 of the register list. -/
def regList3 : List Reg :=
  [.CUSTOMS_ROM_CRC, .CUSTOMS_PERIOD, .CUSTOMS_HWM_LO, .CUSTOMS_HWM_HI, .CUSTOMS_CTIME_LO, .CUSTOMS_CTIME_HI, .CUSTOMS_RESIDUAL, .CUSTOMS_AUTH_REASON, .CUSTOMS_MBX_CMD, .CUSTOMS_MBX_ARG0, .CUSTOMS_MBX_ARG1, .CUSTOMS_MBX_ARG2, .CUSTOMS_MBX_STATUS, .CUSTOMS_MBX_ADDR_LO, .CUSTOMS_MBX_ADDR_HI, .CUSTOMS_MBX_LEN, .CUSTOMS_V_RMS, .CUSTOMS_I_RMS, .CUSTOMS_P, .CUSTOMS_Q, .CUSTOMS_FREQ, .CUSTOMS_TEMP, .CUSTOMS_IN_RMS, .CUSTOMS_HANDOFF_CNT, .CUSTOMS_DUP_CNT, .CUSTOMS_LATE_CNT, .CUSTOMS_ORPHAN_CNT, .CUSTOMS_MAC_FAIL_CNT, .CUSTOMS_STEP_CNT, .CUSTOMS_CAL_STATE, .CUSTOMS_RD_DATA, .BAL_STATUS, .BAL_INT, .BAL_INT_EN, .BAL_LAST_HOUR, .BAL_LAST_DAY, .BAL_SERIES_CNT, .BAL_LATE_CNT, .BAL_UNBOUND_CNT, .BAL_INCOMPLETE_CNT]

/-- Part 4 of the register list. -/
def regList4 : List Reg :=
  [.BAL_CFG0, .BAL_CFG1, .BAL_CFG2, .BAL_TOPO_CFG0, .BAL_TOPO_CFG1, .BAL_THEFT_CFG0, .BAL_THEFT_CFG1, .BAL_THEFT_CFG2, .BAL_QUERY_CMD, .BAL_QUERY_ARG, .BAL_QUERY_STATUS, .BAL_QUERY_DATA, .CRAFT_STATUS, .CRAFT_INT, .CRAFT_INT_EN, .CRAFT_STOP_SRC, .CRAFT_STOP_CMD, .CRAFT_CORR_AGE, .CRAFT_BASE_X_LO, .CRAFT_BASE_X_HI, .CRAFT_BASE_Y_LO, .CRAFT_BASE_Y_HI, .CRAFT_BASE_Z_LO, .CRAFT_BASE_Z_HI, .CRAFT_BASE_SIGMA, .CRAFT_CORR_SENT_CNT, .CRAFT_CORR_DROP_CNT, .CRAFT_STATUS_CNT, .CRAFT_GRANT_CNT, .CRAFT_REFUSE_CNT, .CRAFT_ORDER_DROP_CNT, .CRAFT_ALLOT_CNT, .CRAFT_STOP_FRAME_CNT, .CRAFT_ALARM_CNT, .CRAFT_CFG0, .CRAFT_CFG1, .CRAFT_CFG2, .CRAFT_CFG3, .CRAFT_CFG4, .CRAFT_Q_CMD]

/-- Part 5 of the register list. -/
def regList5 : List Reg :=
  [.CRAFT_Q_STATUS, .CRAFT_Q_DATA, .TIME_STATUS, .TIME_INT, .TIME_INT_EN, .TIME_NOW_FRAC, .TIME_NOW_NS, .TIME_NOW_SEC_LO, .TIME_NOW_SEC_HI, .TIME_TIME_UNC, .TIME_FREQ_UNC, .TIME_OFFSET, .TIME_RESIDUAL, .TIME_RATE, .TIME_STEP_CNT, .TIME_TRIG_SKIP_CNT, .TIME_CMD, .TIME_CMD_STATUS, .TIME_SET_NS, .TIME_SET_SEC_LO, .TIME_SET_SEC_HI, .TIME_PPS_CFG, .TIME_CFG0, .TIME_CFG1, .TIME_TRIG_EN_LO, .TIME_TRIG_EN_HI, .TIME_CAPT_POP, .TIME_PTP_PORT, .TIME_PTP_MPD, .TIME_CAPT_HEAD, .TIME_CAPT_NS, .TIME_CAPT_SEC_LO, .TIME_CAPT_SEC_HI, .GNSS_STATUS, .GNSS_INT, .GNSS_INT_EN, .GNSS_SATS, .GNSS_RESID, .GNSS_CN0, .GNSS_POS_X_LO]

/-- Part 6 of the register list. -/
def regList6 : List Reg :=
  [.GNSS_POS_X_HI, .GNSS_POS_Y_LO, .GNSS_POS_Y_HI, .GNSS_POS_Z_LO, .GNSS_POS_Z_HI, .GNSS_ACQ_CNT, .GNSS_LOSS_CNT, .GNSS_CFG0, .BOND_STATUS, .BOND_INT, .BOND_INT_EN, .BOND_CMD, .BOND_CMD_STATUS, .BOND_ADDR_LO, .BOND_ADDR_HI, .BOND_LEN, .BOND_NONCE, .BOND_SERIAL_LO, .BOND_SERIAL_HI, .BOND_SLOT_SEL, .BOND_SLOT_ATTR, .BOND_SLOT_INFO, .BOND_BAD, .BOND_EPOCH_FLOOR, .BOND_GATE, .BOND_DERIVE_CNT, .BOND_KCACHE_HIT_CNT, .BOND_KCACHE_MISS_CNT, .BOND_TAG_FAIL_CNT, .BOND_EXPORT_CNT, .BOND_EXPORT_REFUSED_CNT, .BOND_DATA, .STORE_STATUS, .STORE_INT, .STORE_INT_EN, .STORE_CMD, .STORE_ARG, .STORE_ADDR_LO, .STORE_ADDR_HI, .STORE_CMD_STATUS]

/-- Part 7 of the register list. -/
def regList7 : List Reg :=
  [.STORE_RING_HEAD, .STORE_RING_TAIL, .STORE_HEALTH0, .STORE_CORR_CNT, .STORE_UNCORR_CNT, .STORE_REFRESH_CNT, .STORE_PROG_FAIL_CNT, .STORE_DROP_CNT, .STORE_STALL_CNT, .STORE_FOLD_CNT, .STORE_CFG0, .STORE_CFG1, .STORE_CFG2, .WHARF_STATUS, .WHARF_INT, .WHARF_INT_EN, .WHARF_CTL, .WHARF_RX_DGRAM_CNT, .WHARF_TX_DGRAM_CNT, .WHARF_AUTH_FAIL_CNT, .WHARF_REPLAY_CNT, .WHARF_RANGE_DROP_CNT, .WHARF_CREDIT_DROP_CNT, .WHARF_LOST_CNT, .WHARF_CFG0, .WHARF_CFG1, .WHARF_WORKER_STATE, .PILOT_STATUS, .PILOT_CLAIM, .PILOT_PARTNER_CLAIM, .PILOT_INT, .PILOT_INT_EN, .PILOT_OUT, .PILOT_CMD, .PILOT_DRILL_RESULT, .PILOT_FRAME_ERR_CNT, .PILOT_TAKEOVER_CNT, .PILOT_CFG, .PILOT_PAIR_ID, .LOG_STATUS]

/-- Part 8 of the register list. -/
def regList8 : List Reg :=
  [.LOG_INT, .LOG_INT_EN, .LOG_NEWEST_SEQ, .LOG_OLDEST_SEQ, .LOG_CLEAR_MARK, .LOG_OP_SEC_LO, .LOG_OP_SEC_HI, .LOG_POWER_CYCLES, .LOG_LOST_CNT, .LOG_CFG, .LOG_RD_SEQ, .LOG_RD_CMD, .LOG_RD_STATUS, .LOG_RD_DATA, .UPD_STATUS, .UPD_INT, .UPD_INT_EN, .UPD_CMD, .UPD_CMD_STATUS, .UPD_PKG_ADDR_LO, .UPD_PKG_ADDR_HI, .UPD_PKG_LEN, .UPD_TRIAL_CFG, .UPD_SLOT, .UPD_VER, .UPD_JOB_CMD, .UPD_JOB_ADDR_LO, .UPD_JOB_ADDR_HI, .UPD_JOB_CFG, .UPD_JOB_ACT, .UPD_JOB_STATUS, .UPD_BLOCK_CNT, .UPD_DONE_CNT, .UPD_REFUSED_CNT, .ETH_STATUS, .ETH_INT, .ETH_INT_EN, .ETH_CFG, .ETH_MAC_LO, .ETH_MAC_HI]

/-- Part 9 of the register list. -/
def regList9 : List Reg :=
  [.ETH_CNT, .DMA_STATUS, .DMA_INT, .DMA_INT_EN, .DMA_HOST_WIN_LO, .DMA_HOST_WIN_HI, .DMA_POOL_FREE, .DMA_EV_REFUSED_CNT, .DMA_CH_CTL, .DMA_CH_SRC_LO, .DMA_CH_SRC_HI, .DMA_CH_DST_LO, .DMA_CH_DST_HI, .DMA_CH_IDX_LO, .DMA_CH_IDX_HI, .DMA_CH_LEN, .DMA_CH_ELEM, .DMA_CH_STATUS, .DMA_CH_DONE_TS_LO, .DMA_CH_DONE_TS_HI, .DMA_FIFO_STAT, .DMA_FIFO_OVF_CNT, .DMA_CR_BASE_LO, .DMA_CR_BASE_HI, .DMA_CR_CFG, .DMA_CR_HEAD, .DMA_CR_TAIL, .DMA_CR_WAIT_CNT, .DMA_MSIX_ADDR_LO, .DMA_MSIX_ADDR_HI, .DMA_MSIX_DATA, .DMA_MSIX_CTRL, .DMA_PBA, .PANEL_STATUS, .PANEL_INT, .PANEL_INT_EN, .PANEL_CTL, .PANEL_TEMP_HOST, .PANEL_TEMP_USED, .PANEL_ACCT_SEL]

/-- Part 10 of the register list. -/
def regList10 : List Reg :=
  [.PANEL_ACCT, .PANEL_RUN_CNT, .PANEL_ABORT_CNT, .PANEL_COMP_CNT, .PANEL_CFG0, .PANEL_CFG1, .PANEL_CFG2, .PANEL_BAND_T, .PANEL_BLINK_CTL, .PANEL_IMAGE, .PANEL_BLINK_MASK, .PWR_STATUS, .PWR_INT, .PWR_INT_EN, .PWR_CMD, .PWR_CMD_STATUS, .PWR_WDT_CFG, .PWR_WDT_KICK, .PWR_CFG, .PWR_BOOT_MS, .PWR_DOZE_CNT, .PWR_NAP_CNT, .PWR_HIB_CNT, .PWR_NAP_MS, .PWR_WAKE_LATE_CNT, .PWR_GATE, .PWR_BG_PASS, .PINS_GPIO_IN_LO, .PINS_GPIO_IN_HI, .PINS_GPIO_OUT_LO, .PINS_GPIO_OUT_HI, .PINS_GPIO_OE_LO, .PINS_GPIO_OE_HI, .PINS_GPIO_INT_LO, .PINS_GPIO_INT_HI, .PINS_GPIO_INT_EN_LO, .PINS_GPIO_INT_EN_HI, .PINS_GPIO_EDGE, .PINS_ETH_EN, .PINS_BALL]

/-- Part 11 of the register list. -/
def regList11 : List Reg :=
  [.BAR2_DB_ADDR_LO, .BAR2_DB_ADDR_HI, .BAR2_DB_COUNT, .BAR2_DB_STATUS]

/-- Every register of the device. -/
def allRegs : List Reg :=
  regList0 ++ regList1 ++ regList2 ++ regList3 ++ regList4 ++ regList5 ++ regList6 ++ regList7 ++ regList8 ++ regList9 ++ regList10 ++ regList11

/-- The address of instance (i, j) of a register. -/
def Reg.addr (r : Reg) (i j : Nat) : Nat := r.desc.base + i * r.desc.s1 + j * r.desc.s2

/-- The reset value of an instance: the two registers of berth 4095 (Table 3-15), ELEM of channels 0-11 (Table 16-11)
and the OTP MAC address (R414) differ by instance. -/
def Reg.resetVal (r : Reg) (i _j : Nat) : Nat :=
  match r with
  | .HM_BERTH_CFG => if i = 4095 then 0x80040000 else 0
  | .HM_BERTH_LIM => if i = 4095 then 0x00400000 else 0
  | .DMA_CH_ELEM => if i < 12 then 2 * i else 0
  | .ETH_MAC_LO => (Config.mac i).toNat % 2 ^ 32
  | .ETH_MAC_HI => (Config.mac i).toNat / 2 ^ 32
  | r => r.desc.reset

/-- The instance of a register that an address names. -/
def Reg.instAt (r : Reg) (a : Nat) : Option (Nat × Nat) :=
  let d := r.desc
  if a < d.base then none else
  let o := a - d.base
  if d.n1 = 1 ∧ d.n2 = 1 then (if o = 0 then some (0, 0) else none)
  else if d.n2 = 1 then
    (if o % d.s1 = 0 ∧ o / d.s1 < d.n1 then some (o / d.s1, 0) else none)
  else
    let i := o / d.s1
    let p := o % d.s1
    if i < d.n1 ∧ p % d.s2 = 0 ∧ p / d.s2 < d.n2 then some (i, p / d.s2) else none

/-- The register and instance at a word address; none for an unassigned offset (R13). -/
def findReg (a : Nat) : List Reg → Option (Reg × Nat × Nat)
  | [] => none
  | r :: rs =>
    match r.instAt a with
    | some (i, j) => some (r, i, j)
    | none => findReg a rs

/-- The register at a word address of the device (R13, R490). -/
def regAt (a : Nat) : Option (Reg × Nat × Nat) := findReg a allRegs

end Sys2Proof.Machine
end

