-- ==== Sys2Proof/Machine/StoreState.lean ====
section
/-!
DEFINITION. State of the store (chapter 12): programmed pages, the map and how a journal entry changes it.
-/
namespace Sys2Proof.Machine

/-- Bytes of a page (R329). -/
abbrev pageBytes : Nat := 16384

/-- A programmed page (R330, R332): its header's partition, mode, flush_end, logical page and sequence; its content before encryption, and
the number and the bytes of the store key it is encrypted with; and its codewords that no longer decode. -/
structure NandPage where
  part : Nat
  oneBit : Bool
  flushEnd : Bool
  page : Nat
  seq : Nat
  data : Bytes
  keyNo : Nat
  key : Bytes
  bad : List Nat
  deriving DecidableEq, Repr

/-- Its header decodes: it is protected with codeword 7 (R330). -/
def NandPage.headOk (x : NandPage) : Bool := !x.bad.contains 7

/-- The tweak of a codeword: partition, logical page and codeword index (R332). -/
def xtsTweak (part page c : Nat) : Bytes := toLE 1 part ++ toLE 4 page ++ toLE 1 c ++ zeros 10

/-- The codewords as the array holds them: encrypted, but for Customs pages (R332). -/
def NandPage.cells (x : NandPage) : List Bytes :=
  (List.range 8).map (fun c =>
    let d := slice x.data (2048 * c) 2048
    if x.part = 1 then d else Config.xtsEnc x.key (xtsTweak x.part x.page c) d)

/-- Its content read under a store key: the content under the key that encrypted it, and otherwise what decryption makes of the cells. -/
def NandPage.open (x : NandPage) (keyNo : Nat) (key : Bytes) : Bytes :=
  if x.part = 1 || x.keyNo = keyNo then x.data
  else (List.range 8).flatMap (fun c => Config.xtsDec key (xtsTweak x.part x.page c) (x.cells.getD c []))

/-- What the map holds of a block (R334-R336, R341). `role`: 0 erased, 1 native data, 2 log or landing block, 3 MAP, 4 awaiting erase,
5 retired, 6 flush reserve block that holds pages, 8 awaiting the format's erase. -/
structure BlkInfo where
  role : Nat
  oneBit : Bool
  erases : Nat
  part : Nat
  lblk : Nat
  /-- Order in which log blocks were opened; of a flush block the page sequence at its opening. -/
  opened : Nat
  /-- Pages of the block that the map knows. -/
  next : Nat
  deriving DecidableEq, Repr

/-- A ring (R338): head and tail as logical pages, pages in use, and wraps of the head. -/
structure Ring where
  head : Nat
  tail : Nat
  used : Nat
  wrap : Nat
  deriving DecidableEq, Repr

/-- A journal entry (Table 12-5). -/
structure MapEntry where
  type : Nat
  part : Nat
  lun : Nat
  oneBit : Bool
  a : Nat
  blk : Nat
  page : Nat
  arg : Nat
  deriving DecidableEq, Repr

/-- Its 16 bytes. -/
def MapEntry.bytes (e : MapEntry) : Bytes :=
  toLE 1 e.type ++ toLE 1 e.part ++ toLE 1 e.lun ++ toLE 1 (b2n e.oneBit) ++ toLE 4 e.a ++ toLE 2 e.blk ++ toLE 2 e.page ++ toLE 4 e.arg

/-- An entry read from its bytes. -/
def MapEntry.ofBytes (b : Bytes) : MapEntry :=
  ⟨leAt b 0 1, leAt b 1 1, leAt b 2 1, bit (leAt b 3 1) 0, leAt b 4 4, leAt b 8 2, leAt b 10 2, leAt b 12 4⟩

/-- The physical block of an entry: LUN × 65,536 + block. -/
def MapEntry.key (e : MapEntry) : Nat := 65536 * e.lun + e.blk

/-- A map: what an unlisted block is, the listed blocks, where each logical page stands (block × 4,096 + page, by partition × 2³² + page), the
log blocks opened, and two rings: PROFILE and LOG, or in the Customs region COPY and LEGAL. -/
structure StoreMap where
  unlisted : Nat
  blks : Map BlkInfo
  pages : Map Nat
  opens : Nat
  a : Ring
  b : Ring
  deriving DecidableEq, Repr

/-- The geometry of a map: pages of a block, and partition, first page and size of its two rings. -/
structure MapGeo where
  ppb : Nat
  aPart : Nat
  aBase : Nat
  aCap : Nat
  bPart : Nat
  bBase : Nat
  bCap : Nat
  deriving DecidableEq, Repr

/-- The key of a logical page. -/
def pageKey (part page : Nat) : Nat := part * 2 ^ 32 + page

/-- The page after a page of a ring. -/
def ringNext (base cap p : Nat) : Nat := if p + 1 < base + cap then p + 1 else base

/-- A page was written at a ring's tail; in a full ring it takes the place of the oldest. -/
def Ring.push (r : Ring) (base cap : Nat) : Ring :=
  if r.used < cap then { r with tail := ringNext base cap r.tail, used := r.used + 1 }
  else { r with tail := ringNext base cap r.tail, head := ringNext base cap r.head }

/-- Pages from a ring's page `p` to its page `q`. -/
def ringDist (base cap p q : Nat) : Nat := (q - base + cap - (p - base) % max 1 cap) % max 1 cap

/-- A block of the map. -/
def StoreMap.info (m : StoreMap) (k : Nat) : BlkInfo := Map.getD m.blks k ⟨m.unlisted, false, 0, 0, 0, 0, 0⟩

/-- Change a block of the map. -/
def StoreMap.modInfo (m : StoreMap) (k : Nat) (f : BlkInfo → BlkInfo) : StoreMap := { m with blks := Map.put m.blks k (f (m.info k)) }

/-- Blocks that hold no logical page any more await their erase. -/
def StoreMap.release (m : StoreMap) : StoreMap :=
  let held := m.pages.map (fun p => p.2 / 4096)
  { m with blks := m.blks.map (fun e =>
      if (e.2.role = 1 || e.2.role = 2 || e.2.role = 6) && decide (0 < e.2.next) && !held.contains e.1 then
        (e.1, { e.2 with role := 4 })
      else e) }

/-- Logical pages of a partition that satisfy a test are mapped no more. -/
def StoreMap.unmap (m : StoreMap) (part : Nat) (p : Nat → Bool) : StoreMap :=
  { m with pages := m.pages.filter (fun e => !(e.1 / 2 ^ 32 = part && p (e.1 % 2 ^ 32))) }

/-- A page at a ring's tail takes its place in the ring. -/
def StoreMap.ringPage (g : MapGeo) (m : StoreMap) (part page : Nat) : StoreMap :=
  if part = g.aPart && page = m.a.tail && decide (page < g.aBase + g.aCap) then
    { m with a := m.a.push g.aBase g.aCap }
  else if part = g.bPart && page = m.b.tail then
    { m with b := m.b.push g.bBase g.bCap }
  else m

/-- A ring's head advances: the pages it passes are mapped no more. -/
def StoreMap.ringHead (g : MapGeo) (m : StoreMap) (part head wrap : Nat) : StoreMap :=
  if part = g.aPart && decide (g.aBase ≤ head) && decide (head < g.aBase + g.aCap) then
    let n := ringDist g.aBase g.aCap m.a.head head
    let n := if n = 0 then m.a.used else n
    ({ m.unmap part (fun p => decide (p < g.aBase + g.aCap) && decide (ringDist g.aBase g.aCap m.a.head p < n)) with
      a := { m.a with head := head, used := m.a.used - n, wrap := wrap } } : StoreMap)
  else
    let n := ringDist g.bBase g.bCap m.b.head head
    let n := if n = 0 then m.b.used else n
    ({ m.unmap part (fun p => decide (g.bBase ≤ p) && decide (ringDist g.bBase g.bCap m.b.head p < n)) with
      b := { m.b with head := head, used := m.b.used - n, wrap := wrap } } : StoreMap)

/-- The map after a journal entry (Table 12-5). -/
def StoreMap.apply (g : MapGeo) (m : StoreMap) (e : MapEntry) : StoreMap :=
  let k := e.key
  match e.type with
  | 1 =>
    ({ m with pages := Map.put m.pages (pageKey e.part e.a) (4096 * k + e.page) }.modInfo k (fun b => { b with
      next := e.page + 1 })).ringPage g e.part e.a
  | 2 =>
    { m.modInfo k (fun b => { b with
        role := 2, oneBit := true, part := e.part, lblk := e.a, erases := e.arg, opened := m.opens, next := 0 }) with
      opens := m.opens + 1 }
  | 3 =>
    let inside (q : Nat) : Bool := q / 2 ^ 32 = e.part && q % 2 ^ 32 / max 1 g.ppb = e.a
    let keys := (m.pages.filter (fun p => inside p.1)).map (·.1)
    let moved := (keys.zip (List.range keys.length)).foldl (fun ps x => Map.put ps x.1 (4096 * k + x.2)) m.pages
    let m := { m with pages := moved }
    (if keys.isEmpty then m else m.modInfo k (fun b => { b with
      role := 1, oneBit := false, part := e.part, lblk := e.a, opened := 0, next := keys.length })).release
  | 4 => m.modInfo k (fun _ => ⟨0, e.oneBit, e.arg, 0, 0, 0, 0⟩)
  | 5 => m.modInfo k (fun b => { b with role := 5 })
  | 6 => (m.unmap e.part (fun p => decide (e.a ≤ p) && decide (p < e.a + e.arg))).release
  | 7 => (m.ringHead g e.part e.a e.arg).release
  | _ => m

/-- A map of erased blocks with empty rings from two first pages. -/
def StoreMap.empty (aBase bBase : Nat) : StoreMap := ⟨0, [], [], 0, ⟨aBase, aBase, 0, 0⟩, ⟨bBase, bBase, 0, 0⟩⟩

/-- The counts of the health page (R348): bytes committed and programmed, corrected bits, uncorrectable codewords, refreshes, flushes,
minutes per temperature bin, and uncorrectable codewords and retired blocks per channel. -/
structure Health where
  committed : Nat
  programmed : Nat
  corr : Nat
  uncorr : Nat
  refreshes : Nat
  flushes : Nat
  bins : List Nat
  chUncorr : List Nat
  chRetired : List Nat
  deriving DecidableEq, Repr

/-- Counts from the first format on. -/
def Health.zero : Health := ⟨0, 0, 0, 0, 0, 0, List.replicate 16 0, List.replicate 8 0, List.replicate 8 0⟩

/-- A checkpoint (R344, R348): the sequence of its MAP page, and the map and the counts that it saves. -/
structure MapCkpt where
  seq : Nat
  map : StoreMap
  health : Health
  deriving DecidableEq, Repr

/-- A page of the write cache (R337): closed pages wait for their program. -/
structure CachePage where
  part : Nat
  /-- The logical page of AID; PROFILE pages take theirs from the ring as they are programmed. -/
  page : Nat
  data : Bytes
  closed : Bool
  /-- Instant of the last append, in ns. -/
  last : Nat
  deriving DecidableEq, Repr

/-- The store beyond its registers. -/
structure StoreState where
  /-- The array as the boot ROM found it (R329): LUNs, P, blocks per LUN, whether the parts agree and meet Table 12-1 in what these three
  numbers do not say, and the blocks that the factory marked bad. -/
  luns : Nat
  ppb : Nat
  bpl : Nat
  good : Bool
  factory : List Nat
  /-- Programmed pages by block (LUN × 65,536 + block), in program order. -/
  nand : Map (List NandPage)
  /-- The map, in DDR-5 (R334). -/
  map : StoreMap
  /-- The Customs region as laid out at the first format (R341): blocks of each LUN, the LEGAL ring in MiB, and its blocks and rings as
  the page headers give them. -/
  cus : Nat
  cusMiB : Nat
  cusMap : StoreMap
  cache : List CachePage
  /-- AID pages that wait for room in the write cache (R298, R337, R353). -/
  aidWait : List (Nat × Bytes)
  /-- Pages programmed by the device (R330). -/
  seq : Nat
  /-- The map journal buffer, the sequence of the last MAP page, the MAP block in use, and the two checkpoints, newest first (R344). -/
  entries : List MapEntry
  mapSeq : Nat
  mapAt : Nat
  ckpts : List MapCkpt
  /-- Pages 0-7 of LOG whose mirror of the permanent array is still to be programmed (R375). -/
  mirror : List Nat
  /-- Buffer size of a LUN in SLIDING mode, as its last erase left it (R336). -/
  bufSz : Map Nat
  /-- TAI day of the last retention_short, plus 1 (R338). -/
  shortDay : Nat
  /-- Last levelling relocation by LUN, in ns; when the patrol's last pass began, and that one is in progress (R342). -/
  wlAt : Map Nat
  patrolAt : Option Nat
  patrolling : Bool
  /-- A power-down was recorded; steps of its flush done; the flush left its flush_end (R346). -/
  down : Bool
  flushStep : Nat
  flushEnd : Bool
  /-- The flush in progress: steps 3.2 to 3.4 have something to write, MAP pages it wrote, and the page sequence at its start. -/
  flushOn : Bool
  flushMaps : Nat
  flushFrom : Nat
  health : Health
  /-- The hottest LUN in °C, and when it was read last, in ns. -/
  hottest : Int
  tempAt : Nat
  deriving DecidableEq, Repr

/-- The store before the device identified its NAND. -/
def StoreState.reset : StoreState where
  luns := 0
  ppb := 0
  bpl := 0
  good := false
  factory := []
  nand := []
  map := StoreMap.empty 0 8
  cus := 0
  cusMiB := 0
  cusMap := StoreMap.empty 0 0
  cache := []
  aidWait := []
  seq := 0
  entries := []
  mapSeq := 0
  mapAt := 0
  ckpts := []
  mirror := []
  bufSz := []
  shortDay := 0
  wlAt := []
  patrolAt := none
  patrolling := false
  down := false
  flushStep := 0
  flushEnd := true
  flushOn := false
  flushMaps := 0
  flushFrom := 0
  health := Health.zero
  hottest := 0
  tempAt := 0

end Sys2Proof.Machine
end

