-- ==== Sys2Proof/Machine/TimeKeep.lean ====
section
/-!
DEFINITION. State of the timebase, its sources, PTP, captures and triggers (chapter 10).
-/
namespace Sys2Proof.Machine

/-- A time source (R289): 0 ACQUIRING, 1 LOCKED, 2 LOST; consecutive good and bad observations; its last measured
error in 2⁻¹⁶ ns; the instant it became LOCKED; and, of EXT, the last edge in ns and the error at the first edge of the run. -/
structure TimeSource where
  state : Nat
  good : Nat
  bad : Nat
  err : Int
  since : Nat
  edge : Nat
  first : Int
  deriving DecidableEq, Repr

/-- A source that has observed nothing. -/
def TimeSource.start : TimeSource := ⟨0, 0, 0, 0, 0, 0, 0⟩

/-- A captured edge (R305): stamp, edge (1 falling) and quality. -/
structure CaptEntry where
  ns : Nat
  frac : Nat
  edge : Nat
  quality : Nat
  deriving DecidableEq, Repr

/-- A master's data set as an Announce gives it, in the order of comparison of IEEE 1588-2019 clause 9.3. -/
structure PtpMaster where
  sender : Nat
  priority1 : Nat
  cls : Nat
  accuracy : Nat
  variance : Nat
  priority2 : Nat
  gm : Nat
  steps : Nat
  /-- Announces received in the qualification window. -/
  count : Nat
  deriving DecidableEq, Repr

/-- A PTP port (R302): its IEEE 1588 state code, foreign masters, and the stamps of exchanges in progress. -/
structure PtpPort where
  state : Nat
  masters : List PtpMaster
  /-- Identity of the selected master. -/
  parent : Option Nat
  /-- The Sync a Follow_Up is awaited for: seq and receive stamp less its correction. Times of an exchange are in 2⁻¹⁶ ns, stamped
  to 1/16 ns (R284). -/
  sync : Option (Nat × Int)
  /-- t2 − t1 of the last Sync, corrected. -/
  msd : Int
  /-- The Delay_Req or Pdelay_Req outstanding: seq and send stamp. -/
  req : Option (Nat × Nat)
  /-- The Pdelay_Resp a follow-up is awaited for: seq, t4 − t1 and t2 less correction. -/
  resp : Option (Nat × Int × Int)
  mpd : Int
  seq : Nat
  /-- When the port last heard an Announce, and last sent each message type, in ns. -/
  heardAt : Nat
  sentAt : Map Nat
  deriving DecidableEq, Repr

/-- A port that has heard nothing. -/
def PtpPort.start : PtpPort := ⟨0, [], none, none, 0, none, none, 0, 0, 0, []⟩

/-- A PTP message that a port sends (R301): its fields, its transport, whether the engine made it, and the ingress stamp from which the
time to its own timestamp point enters the correction. Correction and ingress are in 2⁻¹⁶ ns, the time in ns. -/
structure PtpTx where
  port : Nat
  mtype : Nat
  domain : Nat
  seq : Nat
  sender : Nat
  requester : Nat
  twoStep : Bool
  correction : Int
  time : Nat
  priority1 : Nat
  cls : Nat
  accuracy : Nat
  variance : Nat
  priority2 : Nat
  gm : Nat
  steps : Nat
  utcOffset : Nat
  source : Nat
  /-- ptpTimescale of an Announce. -/
  timescale : Bool
  transport : Nat
  own : Bool
  ingress : Option Int
  deriving DecidableEq, Repr

/-- The timebase beyond its registers. -/
structure TimeState where
  /-- TAI nanoseconds of the 80-bit counter, its 2⁻¹⁶ ns fraction, and the remainder below it in 2⁻⁵⁶ ns (R284). -/
  ns : Nat
  frac : Nat
  rem : Nat
  /-- What NOW_NS, NOW_SEC_LO and NOW_SEC_HI show: the ns of the tick of the last read of NOW_FRAC (R307). -/
  latch : Nat
  /-- The last TIME second published. -/
  lastSec : Nat
  /-- GNSS, PTP and EXT. -/
  sources : List TimeSource
  /-- Frequency adjustment of the discipline, in 2⁻⁴⁰ (R284). -/
  adj : Int
  /-- Its values at the TIME seconds of LOCKED, newest first, for 24 h (R291). -/
  history : List Int
  /-- The slope fitted over 24 h of LOCKED, 0.01 ppb per day; 0 before (R291). -/
  ageing : Nat
  /-- Slew remaining, in 2⁻⁵⁶ ns (R292). -/
  slew : Int
  /-- A scheduled step: second S and e in 2⁻¹⁶ ns (R292). -/
  step : Option (Nat × Int)
  /-- An error measured in the last millisecond before S (R293). -/
  lateErr : Option Int
  /-- e0 in ns, f0 in 0.001 ppb, and the instant they date from (R287, R291). -/
  e0 : Nat
  f0 : Nat
  refAt : Nat
  /-- Age of the keepalive count when a start loaded it, in s (Table 10-1). -/
  kaAge : Nat
  /-- The keepalive count and the second it was last disciplined at (R294). -/
  keep : Option Nat
  keepAt : Nat
  capt : Map (List CaptEntry)
  /-- Highest instant acted on per schedule, in ns (R293). -/
  acted : Map Nat
  /-- End of the pulse in progress on PPS_OUT, in 2⁻¹⁶ ns, and on each TRIG_OUT, in ns. -/
  ppsEnd : Nat
  trigEnd : Map Nat
  /-- The delay of PPS_OUT in force, in 0.25 ns, and the instant of a write that changes it (R293). -/
  ppsDelay : Int
  ppsSetAt : Option Nat
  /-- The second S of the last step: PPS_OUT resumes above it (R292). -/
  ppsHold : Nat
  ptp : List PtpPort
  ptpTx : List PtpTx
  /-- Position mode that the last GNSS measurement used (R299). -/
  posMode : Nat
  /-- Group-delay calibrations made (R297). -/
  calibrations : Nat
  /-- TAI second of the aiding that the baseband holds, and of that in the store (R298). -/
  aid : Option Nat
  aidSaved : Option Nat
  deriving DecidableEq, Repr

/-- The timebase as a part's first start loads it: TAI 0, no source heard (R294). -/
def TimeState.start : TimeState where
  ns := 0
  frac := 0
  rem := 0
  latch := 0
  lastSec := 0
  sources := List.replicate 3 TimeSource.start
  adj := 0
  history := []
  ageing := 0
  slew := 0
  step := none
  lateErr := none
  e0 := 0
  f0 := 0
  refAt := 0
  kaAge := 0
  keep := none
  keepAt := 0
  capt := []
  acted := []
  ppsEnd := 0
  trigEnd := []
  ppsDelay := 0
  ppsSetAt := none
  ppsHold := 0
  ptp := List.replicate 4 PtpPort.start
  ptpTx := []
  posMode := 0
  calibrations := 0
  aid := none
  aidSaved := none

end Sys2Proof.Machine
end

