-- ==== Sys2Proof/Machine/UpdState.lean ====
section
/-!
DEFINITION. State of the image update and the firmware push (chapter 15).
-/
namespace Sys2Proof.Machine

/-- A slot of the boot record (Table 15-2); `pkg` is what the QSPI NOR slot holds, package header and body. -/
structure BootSlot where
  state : Nat
  version : Nat
  length : Nat
  compat : Bytes
  pkg : Bytes
  deriving DecidableEq, Repr

/-- One copy of the boot record (Table 15-2): slots in the order code 1 A, code 1 B, code 2 A and so on. -/
structure BootRec where
  good : Bool
  seq : Nat
  active : Nat
  trial : Nat
  trialStarts : Nat
  lastCode : Nat
  campaign : Nat
  slots : List BootSlot
  deriving DecidableEq, Repr

/-- A firmware-push job (R400); `cell` is the first argument cell of its image. -/
structure FwJob where
  state : Nat
  image : Bytes
  digest : Bytes
  /-- The version FW_START names; no register gives it, so it is a free value (assumption 2). -/
  version : Nat
  cell : Nat
  blockSize : Nat
  minBattery : Nat
  perCycle : Nat
  stall : Nat
  activate : Nat
  deriving DecidableEq, Repr

/-- A job that is FREE. -/
def FwJob.free : FwJob := ⟨0, [], [], 0, 0, 0, 0, 0, 0, 0⟩

/-- The cell of a STARTED target (R403): its progress time in TAI seconds. -/
structure FwTarget where
  job : Nat
  base : Nat
  window : Nat
  progress : Nat
  cell : Nat
  deriving DecidableEq, Repr

/-- Update state that no register holds. -/
structure UpdState where
  copies : List BootRec
  /-- STAGE in progress: code, slot number within the code, and package (R393). -/
  staging : Option (Nat × Nat × Bytes)
  /-- The success condition of the trial has held (R396), and the trial's start in ns, once it was started. -/
  trialOk : Bool
  trialAt : Option Nat
  /-- The signal block restarts: its functions are enabled again once all are OFF (Table 15-6). -/
  restarting : Bool
  /-- Formats in use: endpoint records and MAP pages, and the one a trial migrates to (R398). -/
  recFormat : Nat
  mapFormat : Nat
  newRecFormat : Option Nat
  newMapFormat : Option Nat
  jobs : List FwJob
  targets : Map FwTarget
  deriving DecidableEq, Repr

/-- A slot with no usable content. -/
def BootSlot.empty : BootSlot := ⟨0, 0, 0, zeros 24, []⟩

/-- A record that names no image: what a NOR without a good copy gives. -/
def BootRec.blank : BootRec := ⟨false, 0, 0, 0, 0, 0, 0, List.replicate 10 BootSlot.empty⟩

/-- Before the QSPI NOR was programmed. -/
def UpdState.start : UpdState where
  copies := [BootRec.blank, BootRec.blank]
  staging := none
  trialOk := false
  trialAt := none
  restarting := false
  recFormat := 1
  mapFormat := 1
  newRecFormat := none
  newMapFormat := none
  jobs := List.replicate 8 FwJob.free
  targets := []

end Sys2Proof.Machine
end

