-- ==== Sys2Proof/Machine/WharfState.lean ====
section
/-!
DEFINITION. State of the Ethernet ports (chapter 16), the Wharf link and the Pilot link (chapter 13).
-/
namespace Sys2Proof.Machine

/-- A frame in a transmit queue (R416): the next hop whose MAC address it needs, or the MAC address itself, the EtherType
and the packet; a PTP message, whose packet is complete only at its timestamp point (R303). -/
structure TxFrame where
  hop : Option Nat
  mac : Nat
  etype : Nat
  packet : Bytes
  ptp : Option PtpTx
  deriving DecidableEq, Repr

/-- An Ethernet port: its 8 transmit queues, the PAUSE hold in ns (since when, until when), and until when it ignores
pause frames (R417). -/
structure EthPort where
  queues : List (List TxFrame)
  pauseSince : Nat
  pauseEnd : Nat
  ignoreEnd : Nat
  deriving DecidableEq, Repr

/-- A port with nothing to send. -/
def EthPort.start : EthPort := ⟨List.replicate 8 [], 0, 0, 0⟩

/-- The Ethernet MACs: ports, MAC addresses learned for next hops (R352), and the latest frames sent, newest first, as
port and frame. -/
structure EthState where
  ports : List EthPort
  neigh : Map Nat
  sent : List (Nat × Bytes)
  deriving DecidableEq, Repr

/-- A valid datagram that the Wharf link engine holds for its row (R353): association, header and body. -/
structure WDgram where
  assoc : Nat
  type : Nat
  chip : Nat
  claim : Nat
  seq : Nat
  body : Bytes
  deriving DecidableEq, Repr

/-- A worker's association (R354, R355): state of Table 13-9, last valid datagram in ns, missed periods, grant, envelopes
accepted, the grant of the last HEARTBEAT, and when the latest HEARTBEAT went or came, in ns. -/
structure WWorker where
  state : Nat
  last : Nat
  missed : Nat
  grant : Nat
  accepted : Nat
  beat : Nat
  beatAt : Nat
  deriving DecidableEq, Repr

/-- A worker that has said nothing. -/
def WWorker.hello : WWorker := ⟨1, 0, 0, 0, 0, 0, 0⟩

/-- A manager as a chip in worker role sees it (R358): whether it answered HELLO and is not lost, its last valid datagram,
the claim of its last HEARTBEAT, its grant. -/
structure WMgr where
  up : Bool
  last : Nat
  claim : Nat
  grant : Nat
  deriving DecidableEq, Repr

/-- A checkpoint image slot (R368): its pass, the lowest seq that carried a chunk of it, and the chunks received, as region, offset and
data. -/
structure Image where
  pass : Nat
  from' : Nat
  chunks : List (Nat × Nat × Bytes)
  deriving DecidableEq, Repr

/-- A datagram of the partner association that awaits its JACK (R368). -/
structure Unacked where
  seq : Nat
  type : Nat
  payload : Bytes
  sentAt : Nat
  deriving DecidableEq, Repr

/-- The Wharf link engine and the partner association. -/
structure WharfState where
  /-- Next send seq by link_epoch × 512 + association (0-255 a worker, 256 the partner), the link_epoch last in service, and one under
  which the sequence was lost; kept in keepalive SRAM (R353, Table 18-7). -/
  seqs : Map Nat
  epoch : Option Nat
  lostEpoch : Option Nat
  /-- Workers that had their heartbeat and follow the WHARF section of the delta that waits for the others (R371). -/
  switched : List Nat
  /-- Receive windows by association × 4 + dir × 2 + chip: highest seq and bitmap. -/
  wins : Map (Nat × Nat)
  rxq : List WDgram
  workers : Map WWorker
  /-- WORKER_LOST and WORKER_BACK events still to be created: worker, event, next EPX, last EPX (R354). -/
  notices : List (Nat × Nat × Nat × Nat)
  /-- DATA envelopes of a worker endpoint since its last downlink (R356). -/
  upCount : Map Nat
  /-- Worker role: managers A and B, the one addressed, envelopes sent since HELLO_ACK, the engine queue, and the items
  of the datagram being filled (R358, R359). -/
  mgrs : List WMgr
  addressed : Nat
  /-- 0 before the first HELLO_ACK, 1 while a HELLO_ACK is due after the loss of every manager, 2 since it came. -/
  joined : Nat
  sent : Nat
  queue : List Bytes
  filling : List Bytes
  /-- Active chip: pass number, region and offset of the pass in progress (region 6 none); datagrams without a JACK; the seq of the last
  JOURNAL datagram; the highest seq a JACK covers; the partner is DESYNC (R368). -/
  pass : Nat
  /-- Start of the latest pass, in ns. -/
  passAt : Nat
  region : Nat
  offset : Nat
  /-- The seq of the pass's last datagram, 0 while it is not sent. -/
  passEnd : Nat
  unacked : List Unacked
  lastJournal : Nat
  jacked : Nat
  desync : Bool
  /-- Standby: next seq expected with no gap (0 before the first), seqs received above a gap, the image in progress and the last complete one,
  and the journal items since the start of each of
  the two passes, with the seq that carried them, in seq order. -/
  rxNext : Nat
  rxAhead : List Nat
  imgCur : Option Image
  imgDone : Option Image
  itemsCur : List (Nat × Bytes)
  itemsDone : List (Nat × Bytes)
  deriving DecidableEq, Repr

/-- The Wharf link before anything was sent. -/
def WharfState.reset : WharfState where
  seqs := []
  epoch := none
  lostEpoch := none
  switched := []
  wins := []
  rxq := []
  workers := []
  notices := []
  upCount := []
  mgrs := [⟨false, 0, 0, 0⟩, ⟨false, 0, 0, 0⟩]
  addressed := 0
  joined := 0
  sent := 0
  queue := []
  filling := []
  pass := 0
  passAt := 0
  region := 6
  offset := 0
  passEnd := 0
  unacked := []
  lastJournal := 0
  jacked := 0
  desync := false
  rxNext := 0
  rxAhead := []
  imgCur := none
  imgDone := none
  itemsCur := []
  itemsDone := []

/-- The Pilot link and the claim (R361-R370). -/
structure PilotState where
  /-- Frame periods since the first claim frame, since the last valid partner frame, and since one with a higher claim. -/
  periods : Nat
  since : Nat
  higher : Nat
  /-- A partner frame, an ACTIVE partner frame, was ever received. -/
  seen : Bool
  seenActive : Bool
  fseq : Nat
  /-- Own epoch, kept in keepalive SRAM; the highest epoch received. -/
  epoch : Nat
  highest : Nat
  /-- Body of the last claim frame sent, and its levels on PILOT_TX by half bits of 50 ns; the line is low between frames (R362). -/
  tx : Bytes
  line : List Bool
  /-- The boot reached step 11, or a takeover its step 4 (R363). -/
  ready : Bool
  /-- Drill: 0 none, 1 draining, 2 HANDOVER journaled, 3 handed over; the HANDOVER's seq and instant in ns (R370). -/
  drill : Nat
  drillSeq : Nat
  drillAt : Nat
  /-- A takeover on a HANDOVER is due; a takeover is between steps 2 and 4 (R369). -/
  handover : Bool
  resuming : Bool
  deriving DecidableEq, Repr

/-- The Pilot link before its first frame. -/
def PilotState.reset : PilotState := ⟨0, 0, 8, false, false, 0, 0, 0, [], [], false, 0, 0, 0, false, false⟩

end Sys2Proof.Machine
end

