-- ==== Sys2Proof/Machine/State.lean ====
section
/-!
DEFINITION. The state of the device: every register (a sparse register file), every queue, table and memory the spec
gives it, and the queue of waiting commands.
-/
namespace Sys2Proof.Machine

/-- A row that a commit writes back (R72, R244, R435). -/
inductive RowWrite where
  /-- The endpoint record of an EPX (R90). -/
  | ep (epx : Nat) (r : EpRec)
  /-- The firmware-push target of an EPX, or its cell freed (R404). -/
  | target (epx : Nat) (t : Option FwTarget)
  /-- A balance member row, or its binding removed (R244). -/
  | member (row : Nat) (r : Option MRow)
  /-- A balance group block. -/
  | group (g : Nat) (b : GBlock)
  /-- The site block. -/
  | site (b : SiteBlock)
  /-- A craft row (R271). -/
  | craft (c : Nat) (r : CraftRow)
  /-- A lane's reservations. -/
  | lane (l : Nat) (rs : List Resv)
  /-- A task, or its row freed. -/
  | task (id : Nat) (t : Option Task)
  /-- The panel target row, or the row unchanged with its readout-refresh flag (R435). -/
  | panel (img : Option Nat)
  /-- The epoch that takes the correction queue: TAI second, N_e and stream (R266). -/
  | corr (epoch ne : Nat) (data : Bytes)
  deriving DecidableEq, Repr

/-- An effect held in a stage buffer (Table 1-2), with the statistics that take effect at the same release. -/
inductive Effect where
  /-- A record write-back. -/
  | row (w : RowWrite)
  /-- A Customs hand-off. -/
  | customs (h : Handoff)
  /-- A store append to a partition. -/
  | append (part : Nat) (key : Nat) (data : Bytes)
  /-- An item for a PLC transmit queue. -/
  | plc (seg pos : Nat) (it : LinkItem)
  /-- An item for an RF port transmit queue, by slot and channel of the entry. -/
  | radio (port slot chan : Nat) (it : LinkItem)
  /-- A Wharf-link datagram item: worker, datagram type of Table 13-2, body. -/
  | wharf (worker type : Nat) (body : Bytes)
  /-- A host message. -/
  | hostMsg (body : Bytes)
  /-- A Logbook record raised by a work kind; a LOG_SNAP names its list. -/
  | log (code key detail : Nat) (list : Option Nat)
  /-- A follow-on manifest. -/
  | follow (f : Follow)
  /-- A saturating counter that counts this manifest's outcome. -/
  | count (r : Reg) (i j n : Nat)
  /-- An INT bit that this manifest's outcome sets. -/
  | intr (r : Reg) (i b : Nat)
  deriving DecidableEq, Repr

/-- The whole machine. -/
structure State where
  /-- Commands waiting, first in, first out. -/
  pending : List Instr
  /-- Registers that differ from their reset values, by address (R490). -/
  regs : Map Word
  time : TimeState
  plan : PlanState
  hm : HmState Effect
  log : LogState
  host : HostState
  ep : EpState
  dma : DmaState
  plc : List PlcSeg
  radio : RadioState
  bond : BondState
  upd : UpdState
  customs : CustomsState
  bal : BalState
  craft : CraftState
  store : StoreState
  eth : EthState
  wharf : WharfState
  pilot : PilotState
  panel : PanelState
  pwr : PowerState
  /-- Committed downlinks that wait until a JACK covers a seq of the partner association (R367). -/
  heldDown : List (Nat × Effect)
  /-- The model's own counter of free values drawn (assumption 2). -/
  free : Nat
  deriving DecidableEq, Repr

/-- The device right after its first power-on reset, before BOOT: registers at their reset values, queues and tables empty,
and what manufacture left in the key array (R490, R310). -/
def State.reset : State where
  pending := []
  regs := []
  time := TimeState.start
  plan := PlanState.start
  hm := HmState.start
  log := LogState.start
  host := HostState.start
  ep := EpState.start
  dma := DmaState.start
  plc := List.replicate 8 PlcSeg.reset
  radio := RadioState.start
  bond := BondState.start
  upd := UpdState.start
  customs := CustomsState.reset
  bal := BalState.reset
  craft := CraftState.start
  store := StoreState.reset
  eth := ⟨List.replicate 4 EthPort.start, [], []⟩
  wharf := WharfState.reset
  pilot := PilotState.reset
  panel := PanelState.reset
  pwr := PowerState.reset
  heldDown := []
  free := 0

/-- Why the machine stops: no command of this block stops it, so nothing raises a fault. -/
inductive Fault where
  /-- Never raised: kept so that the type has a value. Safe. -/
  | none
  deriving DecidableEq, Repr

/-- Why a command is refused. -/
inductive Refusal where
  /-- Raised by Dispatch.lean for a command that has no meaning yet. Safe: nothing follows from a stop. -/
  | notModelled (mnemonic : String)
  deriving DecidableEq, Repr

end Sys2Proof.Machine
end

