-- ==== Sys2Proof/Machine/Live.lean ====
section
/-!
DEFINITION. Register values: the stored register file, and the registers that show a queue, counter or pin live.
-/
namespace Sys2Proof.Machine

/-- The stored value of a register instance; an unlisted instance holds its reset value (R11). -/
def State.get (s : State) (r : Reg) (i j : Nat) : Nat :=
  match Map.get? s.regs (r.addr i j) with
  | some w => w.toNat
  | none => r.resetVal i j % 2 ^ 32

/-- Store a register instance. -/
def State.set (s : State) (r : Reg) (i j v : Nat) : State :=
  { s with regs := Map.putD s.regs (r.addr i j) (BitVec.ofNat 32 v) (BitVec.ofNat 32 (r.resetVal i j)) }

/-- A stored field. -/
def State.fld (s : State) (r : Reg) (i j hi lo : Nat) : Nat := bits (s.get r i j) hi lo

/-- Store a field. -/
def State.setFld (s : State) (r : Reg) (i j hi lo v : Nat) : State :=
  s.set r i j (putBits (s.get r i j) hi lo v)

/-- A stored flag. -/
def State.flag (s : State) (r : Reg) (i j n : Nat) : Bool := s.fld r i j n n = 1

/-- Store a flag. -/
def State.setFlag (s : State) (r : Reg) (i j n : Nat) (b : Bool) : State := s.setFld r i j n n (b2n b)

/-- A saturating 32-bit counter counts `n` (the counter tables of every chapter). -/
def State.count (s : State) (r : Reg) (i j n : Nat) : State :=
  s.set r i j (satAdd 0xFFFFFFFF (s.get r i j) n)

/-- Change the Harbourmaster's state. -/
def State.modHm (s : State) (f : HmState Effect → HmState Effect) : State := { s with hm := f s.hm }

/-- Change the Logbook's state. -/
def State.modLog (s : State) (f : LogState → LogState) : State := { s with log := f s.log }

/-- Change the plan loader's state. -/
def State.modPlan (s : State) (f : PlanState → PlanState) : State := { s with plan := f s.plan }

/-- Change the host interface's state. -/
def State.modHost (s : State) (f : HostState → HostState) : State := { s with host := f s.host }

/-- Change the endpoint pipeline's state. -/
def State.modEp (s : State) (f : EpState → EpState) : State := { s with ep := f s.ep }

/-- Change the DMA state. -/
def State.modDma (s : State) (f : DmaState → DmaState) : State := { s with dma := f s.dma }

/-- Change a PLC segment. -/
def State.modPlc (s : State) (n : Nat) (f : PlcSeg → PlcSeg) : State := { s with plc := updAt s.plc n f }

/-- Change the Bonded Store's state. -/
def State.modBond (s : State) (f : BondState → BondState) : State := { s with bond := f s.bond }

/-- Change the timebase. -/
def State.modTime (s : State) (f : TimeState → TimeState) : State := { s with time := f s.time }

/-- Change the Customs domain. -/
def State.modCustoms (s : State) (f : CustomsState → CustomsState) : State := { s with customs := f s.customs }

/-- Change the balance state. -/
def State.modBal (s : State) (f : BalState → BalState) : State := { s with bal := f s.bal }

/-- Change craft control. -/
def State.modCraft (s : State) (f : CraftState → CraftState) : State := { s with craft := f s.craft }

/-- Change the store. -/
def State.modStore (s : State) (f : StoreState → StoreState) : State := { s with store := f s.store }

/-- Change the Ethernet ports. -/
def State.modEth (s : State) (f : EthState → EthState) : State := { s with eth := f s.eth }

/-- Change the Wharf link. -/
def State.modWharf (s : State) (f : WharfState → WharfState) : State := { s with wharf := f s.wharf }

/-- Change the Pilot link. -/
def State.modPilot (s : State) (f : PilotState → PilotState) : State := { s with pilot := f s.pilot }

/-- Change the panel controller. -/
def State.modPanel (s : State) (f : PanelState → PanelState) : State := { s with panel := f s.panel }

/-- Change power and reset state. -/
def State.modPwr (s : State) (f : PowerState → PowerState) : State := { s with pwr := f s.pwr }

/-- Change the update state. -/
def State.modUpd (s : State) (f : UpdState → UpdState) : State := { s with upd := f s.upd }

/-- TAI seconds of the timebase. -/
def State.sec (s : State) : Nat := s.time.ns / 1000000000

/-- Nanoseconds within the TAI second. -/
def State.nsec (s : State) : Nat := s.time.ns % 1000000000

/-- The time quality code (TIME.STATUS.quality). -/
def State.quality (s : State) : Nat := s.fld .TIME_STATUS 0 0 3 0

/-- The loader state (Table 2-5). -/
def State.loader (s : State) : Nat := s.fld .PLAN_STATUS 0 0 3 0

/-- The power state (Table 18-4). -/
def State.power (s : State) : Nat := s.fld .PWR_STATUS 0 0 2 0

/-- Whether the loader is in SEALED or applies a delta, so that the plan is in service. -/
def State.inService (s : State) : Bool := s.loader = 6 || s.loader = 8 || s.loader = 9

/-- The items of one type in a section of the running plan. -/
def State.items (s : State) (tag type : Nat) : List Bytes :=
  (s.plan.running.filter (·.tag = tag)).flatMap (fun x => (x.items.filter (·.type = type)).map (·.value))

/-- The first item of one type in a section of the running plan. -/
def State.item? (s : State) (tag type : Nat) : Option Bytes := (s.items tag type).head?

/-- Whether the running plan has a section. -/
def State.hasSection (s : State) (tag : Nat) : Bool := s.plan.running.any (·.tag = tag)

/-- Bytes `o..o+n-1` of an item as a number, or a default when the plan has no such item. -/
def State.itemLE (s : State) (tag type o n d : Nat) : Nat :=
  match s.item? tag type with
  | some v => leAt v o n
  | none => d

/-- PWRFAIL_N has been accepted (R458). -/
def State.pwrfail (s : State) : Bool := s.flag .PWR_STATUS 0 0 10

/-- A reset other than PORST_N holds the host off: writes are ignored and reads answer 0 until its wipe has ended (R485). -/
def State.hostHeld (s : State) : Bool :=
  s.pwr.inReset && s.fld .PWR_STATUS 0 0 5 3 != 0 && !s.flag .GLOBAL_STATUS 0 0 0

/-- Dispatch runs: the plan is in service and PWRFAIL_N is not accepted (Table 3-10). -/
def State.dispatchOn (s : State) : Bool := s.inService && !s.pwrfail

/-- The berth ring, empty when nothing was ever queued. -/
def State.berth (s : State) (n : Nat) : Berth := Map.getD s.hm.berths n ⟨[], []⟩

/-- Total depth of a berth (Table 3-16). -/
def Berth.depth (b : Berth) : Nat := b.sram.length + b.spill.length

/-- The eight words of a manifest (Table 3-3). -/
def Manifest.words (m : Manifest) : List Nat :=
  [ m.kind % 64 + (m.prio % 8) * 2 ^ 6 + (m.retry % 4) * 2 ^ 9 + (m.status % 8) * 2 ^ 11
      + b2n m.epxValid * 2 ^ 14 + b2n m.lastDockValid * 2 ^ 15 + (m.lastDock % 16) * 2 ^ 16
      + (m.kindArg % 4096) * 2 ^ 20,
    m.flow % 2 ^ 24 + (m.srcClass % 16) * 2 ^ 24,
    m.seq % 2 ^ 32,
    m.epx % 2 ^ 22 + (m.srcIndex % 1024) * 2 ^ 22,
    m.stage % 2 ^ 16 + (m.length % 2 ^ 16) * 2 ^ 16,
    m.payload % 2 ^ 32,
    m.tsNs % 2 ^ 30 + b2n m.stageValid * 2 ^ 30,
    m.tsSec % 2 ^ 28 + (m.tsQual % 16) * 2 ^ 28 ]

/-- A manifest read from eight words (Table 3-3); the payload buffer is given beside it. -/
def Manifest.ofWords (w : List Nat) (buf : Bytes) : Manifest :=
  let a := fun n => w.getD n 0
  { kind := bits (a 0) 5 0, prio := bits (a 0) 8 6, retry := bits (a 0) 10 9, status := bits (a 0) 13 11,
    epxValid := bit (a 0) 14, lastDockValid := bit (a 0) 15, lastDock := bits (a 0) 19 16,
    kindArg := bits (a 0) 31 20, flow := bits (a 1) 23 0, srcClass := bits (a 1) 27 24, seq := a 2,
    epx := bits (a 3) 21 0, srcIndex := bits (a 3) 31 22, stage := bits (a 4) 15 0, length := bits (a 4) 31 16,
    payload := a 5, tsNs := bits (a 6) 29 0, stageValid := bit (a 6) 30, tsSec := bits (a 7) 27 0,
    tsQual := bits (a 7) 31 28, buf := buf, arr := Arrival.none, pool := 0 }

/-- Registers of chapters 3 and 4 that show queues. -/
def State.liveHarbour (s : State) (r : Reg) (i : Nat) : Option Nat :=
  match r with
  | .HM_STATUS => some (s.hm.slots.length + b2n s.dispatchOn * 2 ^ 17)
  | .HM_DL_STATUS => some (s.hm.dead.length + s.hm.dlOverflow * 2 ^ 16)
  | .HM_DL_ENTRY =>
    match s.hm.dead with
    | [] => some 0
    | m :: _ => some (m.words.getD i 0)
  | .HM_LEVEL_DEPTH =>
    some (((s.hm.berths.map (fun e => if s.fld .HM_BERTH_CFG e.1 0 22 20 = i then e.2.depth else 0)).sum
      + (if s.fld .HM_BERTH_CFG 4095 0 22 20 = i then s.hm.dead.length else 0)) % 2 ^ 28)
  | .HM_BERTH_DEPTH => if i = 4095 then some s.hm.dead.length else some (s.berth i).depth
  | .HM_BERTH_STAT => some (s.fld r i 0 15 0 + b2n (!(s.berth i).spill.isEmpty) * 2 ^ 16)
  | .EP_STATUS =>
    some (s.ep.level
      + ((List.range 8).map (fun n => b2n (Map.has s.ep.bp (1024 + n)) * 2 ^ (4 + n))).sum
      + ((List.range 4).map (fun n => b2n ((List.range 16).any (fun c => Map.has s.ep.bp (2048 + 16 * n + c))) * 2 ^ (12 + n))).sum
      + b2n (s.ep.bp.any (fun k => k.1 / 1024 = 3)) * 2 ^ 16
      + (min 1024 (s.plan.running.map (fun x => if x.tag = 0x90 then (x.items.filter (·.type = 1)).length else 0)).sum) * 2 ^ 17)
  | _ => none

/-- Words a packet takes in a FIFO (R419). -/
def Packet.words (p : Packet) : Nat := 1 + ceilDiv p.data.length 16

/-- A packet's header word (Table 16-6). -/
def Packet.header (p : Packet) : Bytes :=
  toLE 2 p.data.length ++ toLE 1 (p.kind % 64) ++ toLE 1 (p.arr.cls % 16) ++ toLE 2 (p.arr.idx % 1024) ++ toLE 2 (p.kindArg % 4096)
    ++ toLE 4 p.arr.ns ++ toLE 4 (p.arr.sec % 2 ^ 28 + p.arr.qual % 16 * 2 ^ 28)

/-- The 128-bit words of a packet, each with its valid-byte count and end mark: the header word, then the payload padded with zeros
(R419). -/
def Packet.stream (p : Packet) : List (Bytes × Nat × Bool) :=
  (p.header, 16, p.data.isEmpty) :: (List.range (ceilDiv p.data.length 16)).map (fun k =>
    (fit 16 (p.data.drop (16 * k)), min 16 (p.data.length - 16 * k), decide (p.data.length ≤ 16 * k + 16)))

/-- Words held in a FIFO. -/
def Fifo.words (f : Fifo) : Nat := (f.packets.map Packet.words).sum

/-- A signal FIFO, empty until something is written. -/
def State.fifo (s : State) (n : Nat) : Fifo := Map.getD s.dma.fifos n ⟨[], 0, 0⟩

/-- Manifests in berths and in flight. A dead-letter entry is a copy of one released, whose buffer is free (R77, R421). -/
def State.allManifests (s : State) : List Manifest :=
  s.hm.berths.flatMap (fun e => e.2.sram ++ e.2.spill) ++ s.hm.slots.map (·.2.m)

/-- Payload-pool units in use: a buffer that a manifest shares with its follow-ons counts once (R421). -/
def State.poolUsed (s : State) : Nat := ((s.allManifests.map (fun m => (m.payload, m.pool))).eraseDups.map (·.2)).sum

/-- DMA registers that show FIFOs and the payload pool (Table 16-10). -/
def State.liveDma (s : State) (r : Reg) (i : Nat) : Option Nat :=
  match r with
  | .DMA_POOL_FREE => some (8192 - s.poolUsed)
  | .DMA_FIFO_STAT => some ((s.fifo i).words + (s.fifo i).packets.length * 2 ^ 11)
  | _ => none

/-- Mask of a list of flags, the first the lowest bit. -/
def maskOf (bs : List Bool) : Nat := bs.foldr (fun b n => b2n b + 2 * n) 0

/-- PPS_OUT emits (R300). -/
def State.ppsOn (s : State) : Bool :=
  s.inService && decide (s.quality < 7) && bit (s.itemLE 0xC0 5 0 1 1) 0 && decide (s.power < 3)

/-- Registers of chapter 10 that show the counter, the latched tick and the capture queues (R305, R307). -/
def State.liveTime (s : State) (r : Reg) (i : Nat) : Option Nat :=
  let q := Map.getD s.time.capt i []
  let head := q.head?
  match r with
  | .TIME_STATUS => some (putBits (s.get r 0 0) 12 12 (b2n s.ppsOn))
  | .TIME_NOW_FRAC => some (s.time.frac % 2 ^ 16 + s.quality * 2 ^ 16)
  | .TIME_NOW_NS => some (s.time.latch % 1000000000)
  | .TIME_NOW_SEC_LO => some (s.time.latch / 1000000000 % 2 ^ 32)
  | .TIME_NOW_SEC_HI => some (s.time.latch / 1000000000 / 2 ^ 32 % 2 ^ 16)
  | .TIME_CAPT_HEAD =>
    some ((match head with
      | some e => e.frac % 2 ^ 16 + 2 ^ 16 + e.edge * 2 ^ 17
      | none => 0) + q.length * 2 ^ 18)
  | .TIME_CAPT_NS => head.map (fun e => e.ns % 1000000000)
  | .TIME_CAPT_SEC_LO => head.map (fun e => e.ns / 1000000000 % 2 ^ 32)
  | .TIME_CAPT_SEC_HI => head.map (fun e => e.ns / 1000000000 / 2 ^ 32 % 2 ^ 16 + e.quality * 2 ^ 16)
  | .TIME_PTP_MPD => (s.time.ptp[i]?).map (fun p => ofSigned 32 (p.mpd / 2 ^ 16))
  | _ => none

/-- The mean of the accepted crossing intervals in µs, or the nominal half period until 8 are held (R132). -/
def State.tHalf (s : State) (n : Nat) : Nat :=
  match s.plc[n]? with
  | some g =>
    if g.intervals.length < 8 then (if s.flag .PLC_SEG_CFG0 n 0 26 then 8333 else 10000)
    else g.intervals.sum / 8
  | none => 10000

/-- Nanoseconds since the latest crossing at an instant; generated crossings follow each other while zc_free is set (R132). -/
def State.sinceZc (s : State) (n t : Nat) : Nat :=
  match s.plc[n]? with
  | some g => if s.flag .PLC_SEG_STATUS n 0 1 then (t - g.tzc) % (1000 * s.tHalf n) else t - g.tzc
  | none => 0

/-- The phase window at an instant (R132). -/
def State.zcWindowAt (s : State) (n t : Nat) : Nat := min 5 (6 * s.sinceZc n t / (1000 * s.tHalf n))

/-- The phase window at the present time (R132). -/
def State.zcWindow (s : State) (n : Nat) : Nat := s.zcWindowAt n s.time.ns

/-- PLC_TXEN_n is asserted: from 10 µs before the first preamble sample to 2 µs after the last sample of a transmitted frame
(R157). -/
def State.plcTxen (s : State) (n : Nat) : Bool :=
  match s.plc[n]? with
  | some g => g.txNow.any (fun f => decide (f.start ≤ s.time.ns + 10000) && decide (s.time.ns ≤ f.stop + 2000))
  | none => false

/-- PLC_SYSREF is asserted: a pulse every 7,168 samples (R157), whose phase and width the spec leaves open (assumption 59). -/
def State.plcSysref (s : State) : Bool := decide ((s.time.ns + Config.sysref.1) % 107520 < Config.sysref.2)

/-- PLC registers that show the segment (Tables 5-10 and 5-12); PLC.ZC shows windows once the plan is in service. -/
def State.livePlc (s : State) (r : Reg) (i : Nat) : Option Nat :=
  match s.plc[i]?, r with
  | some g, .PLC_SEG_STATUS =>
    some (s.fld .PLC_SEG_STATUS i 0 3 0 + g.nodes.length * 2 ^ 4
      + (g.nodes.filter (fun e => e.2.unreachable)).length * 2 ^ 16)
  | some _, .PLC_ZC => some (if s.inService then s.tHalf i + s.zcWindow i * 2 ^ 16 else 0)
  | some g, .PLC_SEG_CTL =>
    some (s.fld .HM_FUNC_CTL (1 + i) 0 0 0 + b2n (g.nodes.any (fun e => e.2.soundDue.isSome)) * 2)
  | _, _ => none

/-- Change the radio state. -/
def State.modRadio (s : State) (f : RadioState → RadioState) : State := { s with radio := f s.radio }

/-- A radio port, as at reset when there is no such number. -/
def State.rport (s : State) (n : Nat) : RadioPort := s.radio.ports.getD n RadioPort.reset

/-- Change a radio port. -/
def State.modPort (s : State) (n : Nat) (f : RadioPort → RadioPort) : State :=
  s.modRadio (fun r => { r with ports := updAt r.ports n f })

/-- The frequency uncertainty plus any slew in progress, in 0.1 ppm, rounded up (R174, R288). -/
def State.localPpm (s : State) : Nat :=
  ceilDiv (s.get .TIME_FREQ_UNC 0 0
    + (if s.flag .TIME_STATUS 0 0 11 then 1000000 * s.fld .TIME_CFG0 0 0 6 0 else 0)) 100000

/-- Note local_ppm when it has changed. -/
def State.notePpm (s : State) : State :=
  let v := s.localPpm
  let now := s.time.ns
  s.modRadio (fun r => if (r.ppm.head?.map (·.2)) = some v then r else { r with ppm := ((now, v) :: r.ppm).take 16 })

/-- local_ppm as it was at an instant (R174). -/
def State.ppmAt (s : State) (t : Nat) : Nat :=
  match s.radio.ppm.find? (fun x => decide (x.1 ≤ t)) with
  | some x => x.2
  | none => s.localPpm

/-- RFP_n_TX_EN is asserted during some of `[a, b]`: from 20 µs before the first sample of a burst to 2 µs after its last
(R164). -/
def State.radioTxen (s : State) (n a b : Nat) : Bool :=
  (s.rport n).bursts.any (fun x => decide (x.1 ≤ b + 20000) && decide (a ≤ x.2 + 2000))

/-- The first section of the running plan with a tag exists: the plan names a PILOT pair (R190). -/
def State.hasPilot (s : State) : Bool := s.plan.running.any (·.tag = 0x100)

/-- Transmit permission: none before the plan is in service, always without a PILOT section, else as the claim gives
it (R46, R190, R363). -/
def State.txAllowed (s : State) : Bool := s.inService && (!s.hasPilot || s.flag .PILOT_STATUS 0 0 5)

/-- The sensor superframe number and the µs within it at an instant (R168). -/
def State.superframeAt (s : State) (n t : Nat) : Nat × Nat :=
  let x := ((t : Int) - (s.rport n).anchor).toNat
  (x / 32768000000, x % 32768000000 / 1000)

/-- Usage of a sub-band's window by class, in µs (R185): class 0 B, 1 S, 2 G. -/
def State.dutyUsed (s : State) (b cls : Nat) : Nat :=
  match s.radio.duty[b]? with
  | none => 0
  | some d =>
    ((d.secs.filter (fun x => decide (s.radio.dutySec < x.sec + 3600))).map (fun x =>
      if cls = 0 then x.b else if cls = 1 then x.s else x.g)).sum
      + (match d.pre, cls with
         | some (t, v), 2 => (3600 - (s.radio.dutySec - t)) * v
         | _, _ => 0)

/-- Radio registers that show the port (Tables 6-8, 6-10 and 6-13). -/
def State.liveRadio (s : State) (r : Reg) (i : Nat) : Option Nat :=
  let p := s.rport i
  let now := (s.superframeAt i s.time.ns).2 / 8000
  match r with
  | .RADIO_PORT_CTL => some (s.fld .HM_FUNC_CTL (9 + i) 0 0 0)
  | .RADIO_PORT_STATUS =>
    some (b2n p.running + s.fld .RADIO_CFG1 i 0 0 0 * 2 + b2n s.txAllowed * 4 + s.fld r i 0 3 3 * 8
      + p.entries.length * 2 ^ 4 + min 2047 (p.entries.filter (·.state = 2)).length * 2 ^ 21)
  | .RADIO_SLOT => some (if p.running then now + now / 256 * 2 ^ 12 else 0)
  | .RADIO_LOCAL_PPM => some (if p.running then min 255 s.localPpm else 0)
  | .RADIO_SB_USED_B => some (s.dutyUsed i 0 / 1000)
  | .RADIO_SB_USED_S => some (s.dutyUsed i 1 / 1000)
  | .RADIO_SB_USED_G => some (s.dutyUsed i 2 / 1000)
  | _ => none

/-- The slot, EMPTY when nothing was ever written to it. -/
def State.keySlot (s : State) (n : Nat) : KeySlot := Map.getD s.bond.slots n KeySlot.empty

/-- A slot's usage (Table 11-2). -/
def KeySlot.usage (k : KeySlot) : Nat := bits k.attr 3 0

/-- A slot is VALID: not EMPTY and not BAD. -/
def KeySlot.valid (k : KeySlot) : Bool := !k.bad && k.usage != 0

/-- Bonded Store registers that show its state (Tables 11-15 to 11-18). -/
def State.liveBond (s : State) (r : Reg) (i : Nat) : Option Nat :=
  let b := s.bond
  match r with
  | .BOND_STATUS =>
    some (b.lifecycle + b2n b.ownerLock * 2 ^ 3 + bits (s.get r 0 0) 4 4 * 2 ^ 4 + b2n b.nonce.isSome * 2 ^ 5
      + b2n b.fillPending * 2 ^ 6 + (b.slots.filter (fun e => e.2.bad)).length * 2 ^ 7)
  | .BOND_NONCE =>
    match b.nonce with
    | some n => some (leAt n (4 * i) 4)
    | none => some 0
  | .BOND_EPOCH_FLOOR => some b.floor
  | .PLAN_EPOCH_FLOOR => some b.floor
  | .BOND_GATE => some (if i = 0 || 6 ≤ i then 0 else b.gates.getD i 0)
  | .BOND_SLOT_ATTR => some (s.keySlot (s.fld .BOND_SLOT_SEL 0 0 7 0)).attr
  | .BOND_SLOT_INFO =>
    let n := s.fld .BOND_SLOT_SEL 0 0 7 0
    let k := s.keySlot n
    some ((if k.bad then 2 else if k.usage = 0 then 0 else 1) + (if reservedSlot n then k.copyBad % 4 else 0) * 2 ^ 2
      + k.writes * 2 ^ 4)
  | .BOND_BAD => some (maskOf ((List.range 32).map (fun n => (s.keySlot (32 * i + n)).bad)))
  | _ => none

/-! ### Customs time (R207, R208) -/

/-- C in ns. -/
def State.cNs (s : State) : Nat := ((s.time.ns : Int) - s.customs.resid / (2 ^ 56 : Nat)).toNat

/-- C in TAI seconds. -/
def State.cSec (s : State) : Nat := s.cNs / 1000000000

/-- r in ms. -/
def State.residMs (s : State) : Int := Int.tdiv s.customs.resid (2 ^ 56 * 1000000 : Nat)

/-- The slot that is ACTIVE, 0 none. -/
def State.activeSlot (s : State) : Nat := ((findIdx? (fun (c : Cal) => c.state = 3) s.customs.cals).map (· + 1)).getD 0

/-- The slot that is PENDING, 0 none. -/
def State.pendingSlot (s : State) : Nat := ((findIdx? (fun (c : Cal) => c.state = 2) s.customs.cals).map (· + 1)).getD 0

/-- CUSTOMS registers that show the domain (Tables 7-10, 7-12, 7-16); while it is STARTING they read their resets. -/
def State.liveCustoms (s : State) (r : Reg) (i : Nat) : Option Nat :=
  let c := s.customs
  if c.state = 0 && (match r with
    | .CUSTOMS_STATUS | .CUSTOMS_PERIOD | .CUSTOMS_HWM_LO | .CUSTOMS_HWM_HI | .CUSTOMS_RESIDUAL | .CUSTOMS_CAL_STATE => true
    | _ => false) then some 0
  else
  match r with
  | .CUSTOMS_STATUS =>
    some (c.state + b2n (c.resid != 0) * 2 ^ 3 + b2n (decide (s.cNs ≤ 1000000000 * c.hwm) && c.hwm != 0) * 2 ^ 4
      + bits (s.get r 0 0) 5 5 * 2 ^ 5 + b2n c.running * 2 ^ 6 + s.activeSlot * 2 ^ 7 + s.pendingSlot * 2 ^ 11
      + s.quality * 2 ^ 15)
  | .CUSTOMS_PERIOD => some c.period
  | .CUSTOMS_HWM_LO => some (c.hwm % 2 ^ 32)
  | .CUSTOMS_HWM_HI => some (c.hwm / 2 ^ 32 % 2 ^ 16)
  | .CUSTOMS_CTIME_LO => some (if c.state = 0 then 0 else s.cSec % 2 ^ 32)
  | .CUSTOMS_CTIME_HI => some (if c.state = 0 then 0 else s.cSec / 2 ^ 32 % 2 ^ 16)
  | .CUSTOMS_RESIDUAL => some (ofSigned 32 s.residMs)
  | .CUSTOMS_CAL_STATE =>
    let k := c.cals.getD i Cal.empty
    some (k.state + k.version * 2 ^ 16)
  | _ => none

/-- BALANCE manifests of a sub-operation that have not released. -/
def State.balOpen (s : State) (op : Nat) : Bool :=
  s.allManifests.any (fun m => m.kind = kBalance && m.srcClass = 4 && m.kindArg % 16 = op)

/-- BAL.STATUS (Table 8-7). -/
def State.liveBal (s : State) (r : Reg) (_i : Nat) : Option Nat :=
  match r with
  | .BAL_STATUS =>
    some (min 0xFFFF (s.bal.groups.filter (fun e => e.2.state = 2)).length + b2n (s.balOpen 4) * 2 ^ 16)
  | _ => none

/-! ### Craft control (R261, R267, R269, R275, R276) -/

/-- The wide port, if a port has wide set (R193). -/
def State.widePort (s : State) : Option Nat := (List.range 4).find? (fun n => s.flag .RADIO_CFG1 n 0 0)

/-- The number of the craft superframe at an instant (R261). -/
def State.craftSfAt (s : State) (t : Nat) : Nat :=
  (((t : Int) - (s.rport (s.widePort.getD 0)).anchor).toNat) / 100000000

/-- The current craft superframe. -/
def State.craftSf (s : State) : Nat := s.craftSfAt s.time.ns

/-- Superframes since superframe `n`, a number modulo 2³² (R269). -/
def State.sfSince (s : State) (n : Nat) : Nat := (s.craftSf + 2 ^ 32 - n % 2 ^ 32) % 2 ^ 32

/-- corr_age in 0.1 s; 0xFFFF none (R267). -/
def State.corrAge (s : State) : Nat :=
  match s.craft.lastNe with
  | some n => min 0xFFFF (s.sfSince n)
  | none => 0xFFFF

/-- The sources of all-stop that are active (Table 9-8). -/
def State.stopSources (s : State) : Nat :=
  let lost := match s.widePort with
    | some n => s.flag .RADIO_PORT_STATUS n 0 3
    | none => false
  b2n s.craft.stopIn + b2n s.craft.host * 2 ^ 1 + b2n (s.hasPilot && !s.flag .PILOT_STATUS 0 0 5) * 2 ^ 2
    + b2n lost * 2 ^ 3 + b2n (!s.flag .PWR_STATUS 0 0 9) * 2 ^ 4 + b2n s.pwrfail * 2 ^ 5 + b2n s.craft.reset * 2 ^ 6

/-- `a` precedes `b` modulo 2³² (R269). -/
def sfBefore (a b : Nat) : Bool := (b + 2 ^ 32 - a % 2 ^ 32) % 2 ^ 32 != 0 && decide ((b + 2 ^ 32 - a % 2 ^ 32) % 2 ^ 32 < 2 ^ 31)

/-- A reservation counts (R269). -/
def State.counts (s : State) (r : Resv) : Bool :=
  r.epoch = s.craft.epoch && !sfBefore (r.b + s.fld .CRAFT_CFG0 0 0 12 7) s.craftSf

/-- A craft moves under allotment (R275). -/
def State.craftMoves (s : State) (r : CraftRow) : Bool :=
  r.allot != 0 && decide (5 ≤ r.speed) && !r.lost && decide (s.sfSince r.lastHeard ≤ s.fld .CRAFT_CFG0 0 0 20 13)

/-- STOP_OUT as the device drives it: asserted by all-stop, and in FAILED (R46, R277). -/
def State.stopOut (s : State) : Bool := s.craft.allStop || s.loader = 7

/-- The largest deviation of the survey mean over the axes, in mm, rounded up. -/
def Survey.sigma (v : Survey) : Nat :=
  let axis (i : Nat) : Nat :=
    let n := max 1 v.n
    let sum := v.sum.getD i 0
    let spread := n * v.sq.getD i 0 - sum.natAbs ^ 2
    let r := isqrt (spread / (n * n * n))
    ceilDiv (if r * r * (n * n * n) < spread then r + 1 else r) 10
  max (axis 0) (max (axis 1) (axis 2))

/-- Craft registers that show it (Tables 9-11, 9-13). -/
def State.liveCraft (s : State) (r : Reg) (_i : Nat) : Option Nat :=
  let c := s.craft
  let running := match s.widePort with
    | some n => (s.rport n).running
    | none => false
  match r with
  | .CRAFT_STATUS =>
    some (b2n running + b2n c.allStop * 2 ^ 1 + b2n s.stopOut * 2 ^ 2 + s.fld r 0 0 4 3 * 2 ^ 3 + b2n c.slow * 2 ^ 5
      + b2n c.suspended * 2 ^ 6 + c.epoch % 256 * 2 ^ 7
      + (c.rows.filter (fun e => e.2.known && !e.2.lost)).length % 128 * 2 ^ 15
      + (c.rows.filter (fun e => s.craftMoves e.2)).length % 128 * 2 ^ 22)
  | .CRAFT_STOP_SRC => some (s.stopSources + c.latched % 128 * 2 ^ 8)
  | .CRAFT_CORR_AGE => some s.corrAge
  | .CRAFT_BASE_SIGMA => some (c.survey.sigma % 2 ^ 16)
  | _ => none

end Sys2Proof.Machine
end

