-- ==== Sys2Proof/Machine/StoreLive.lean ====
section
/-!
DEFINITION. Sizes and shares of the store's array, and the STORE and LOG registers that show it (chapters 12 and 14).
-/
namespace Sys2Proof.Machine

/-- A field of the MAINT or BUFFER item as CFG0-CFG2 hold it. -/
def State.spareMin (s : State) : Nat := s.fld .STORE_CFG0 0 0 17 13

/-- The items of the running plan of one type in a section, before the shared operations are in scope. -/
def State.sectionItems (s : State) (tag type : Nat) : List Bytes :=
  (s.plan.running.filter (·.tag = tag)).flatMap (fun x => (x.items.filter (·.type = type)).map (·.value))

/-- Size of a partition in MiB: its PART item, 64 for LOG by default and for AID (Table 12-2, R334). -/
def State.partMiB (s : State) (p : Nat) : Nat :=
  if p = 4 then 64
  else match (s.sectionItems 0xE0 2).find? (fun v => leAt v 0 1 = p) with
    | some v => leAt v 2 4
    | none => if p = 3 then 64 else 0

/-- S_p: whole logical blocks of a partition (R334). -/
def State.partBlocks (s : State) (p : Nat) : Nat := ceilDiv (s.partMiB p * 64) (max 1 s.store.ppb)

/-- Logical pages of a partition. -/
def State.partPages (s : State) (p : Nat) : Nat := s.partBlocks p * s.store.ppb

/-- Blocks of each LUN that a Customs region of a size takes (R341): its part of both rings, 4 landing blocks, and
spare of its own. -/
def State.cusShare (s : State) (mib : Nat) : Nat :=
  let x := ceilDiv ((12288 + mib) * 64) (max 1 (s.store.ppb * s.store.luns))
  x + 4 + ceilDiv (x * s.spareMin) 100

/-- The LUN of a logical block (R334). -/
def State.lunOf (s : State) (lblk : Nat) : Nat := lblk % max 1 s.store.luns

/-- The map that a partition's blocks are in. -/
def State.mapOf (s : State) (part : Nat) : StoreMap := if part = 1 then s.store.cusMap else s.store.map

/-- The first block of each LUN that a partition's map gives out: 4 MAP blocks follow the Customs region (assumption 28). -/
def State.firstBlk (s : State) (part : Nat) : Nat := if part = 1 then 0 else s.store.cus + 4

/-- The blocks of each LUN after those. -/
def State.endBlk (s : State) (part : Nat) : Nat := if part = 1 then s.store.cus else s.store.bpl

/-- The listed blocks of a LUN in a partition's map. -/
def State.lunBlocks (s : State) (part lun : Nat) : Map BlkInfo :=
  (s.mapOf part).blks.filter (fun e => e.1 / 65536 = lun && decide (s.firstBlk part ≤ e.1 % 65536) && decide (e.1 % 65536 < s.endBlk part))

/-- Retired blocks of a LUN outside the Customs region. -/
def State.retiredOf (s : State) (lun : Nat) : Nat := ((s.lunBlocks 2 lun).filter (·.2.role = 5)).length

/-- Erased blocks of a LUN in a partition's map. -/
def State.freeOf (s : State) (part lun : Nat) : Nat :=
  let bs := s.lunBlocks part lun
  (bs.filter (·.2.role = 0)).length
    + (if (s.mapOf part).unlisted = 0 then s.endBlk part - s.firstBlk part - bs.length else 0)

/-- FIXED mode. -/
def State.fixedBuf (s : State) : Bool := !s.flag .STORE_CFG2 0 0 0

/-- Buffer size of a LUN by its free blocks (R336). -/
def State.bufNow (s : State) (lun : Nat) : Nat :=
  max (s.fld .STORE_CFG2 0 0 19 8) (s.freeOf 2 lun * s.fld .STORE_CFG2 0 0 7 1 / 100)

/-- Buffer size of a LUN: in SLIDING mode as its last erase left it (R336). -/
def State.bufSize (s : State) (lun : Nat) : Nat :=
  if s.fixedBuf then s.fld .STORE_CFG2 0 0 31 20
  else Map.getD s.store.bufSz lun (s.fld .STORE_CFG2 0 0 19 8)

/-- Buffer the section claims on each LUN (R350). -/
def State.bufClaim (s : State) : Nat := if s.fixedBuf then s.fld .STORE_CFG2 0 0 31 20 else s.fld .STORE_CFG2 0 0 19 8

/-- Spare blocks of a LUN: those that no claim of R350 takes and that are not retired. -/
def State.spareOf (s : State) (lun : Nat) : Nat :=
  let native := ([2, 3, 4].map (fun p =>
    ((s.partBlocks p + s.store.luns - 1 - lun) / max 1 s.store.luns))).sum
  s.store.bpl - (s.store.cus + native + s.bufClaim + 4) - s.retiredOf lun

/-- Spare blocks that R342's share of a LUN calls for. -/
def State.spareNeed (s : State) : Nat := ceilDiv (s.store.bpl * s.spareMin) 100

/-- spare_pct: the lowest share over the LUNs, as a percentage of spare_min (Table 12-8). -/
def State.sparePct (s : State) : Nat :=
  (((List.range s.store.luns).map (fun l => min 255 (100 * s.spareOf l / max 1 s.spareNeed))).min?).getD 0

/-- Native blocks that were erased, and their erase counts; an unlisted block counts none. -/
def State.nativeErases (s : State) : List Nat :=
  ((s.store.map.blks ++ s.store.cusMap.blks).filter (fun e => !(s.fixedBuf && e.2.oneBit))).map (·.2.erases)

/-- Native blocks of the array. -/
def State.nativeCount (s : State) : Nat :=
  s.store.luns * s.store.bpl - (if s.fixedBuf then s.store.luns * s.fld .STORE_CFG2 0 0 31 20 else 0)

/-- wear_pct (Table 12-8). -/
def State.wearPct (s : State) : Nat :=
  min 255 (100 * s.nativeErases.sum / max 1 (s.nativeCount * s.fld .STORE_CFG1 0 0 15 0))

/-- wear_slc_pct (Table 12-8). -/
def State.wearSlcPct (s : State) : Nat :=
  if s.fixedBuf then
    let es := (s.store.map.blks.filter (fun e => e.2.oneBit && e.2.role != 3)).map (·.2.erases)
    min 255 (100 * es.sum /
      max 1 (s.store.luns * s.fld .STORE_CFG2 0 0 31 20 * s.fld .STORE_CFG1 0 0 31 16))
  else 0

/-- STORE registers that show the store (Tables 12-10 and 12-12). -/
def State.liveStore (s : State) (r : Reg) (i : Nat) : Option Nat :=
  let t := s.store
  match r with
  | .STORE_STATUS =>
    some (s.fld r 0 0 3 0 + t.luns % 256 * 2 ^ 4 + s.fld r 0 0 3 3 * 2 ^ 3 + s.fld r 0 0 12 12 * 2 ^ 12
      + b2n (decide (64 ≤ t.cache.length)) * 2 ^ 13)
  | .STORE_RING_HEAD => some (if i = 2 then t.map.a.head else if i = 3 && !t.ckpts.isEmpty then t.map.b.head else 0)
  | .STORE_RING_TAIL => some (if i = 2 then t.map.a.tail else if i = 3 && !t.ckpts.isEmpty then t.map.b.tail else 0)
  | .STORE_HEALTH0 =>
    some (if t.luns = 0 then 0
      else s.sparePct % 256 + s.wearPct * 2 ^ 8 + ofSigned 8 t.hottest * 2 ^ 16)
  | _ => none

/-! ### The Logbook's pages in the LOG partition (R376) -/

/-- The programmed pages of a block. -/
def State.blkPages (s : State) (k : Nat) : List NandPage := Map.getD s.store.nand k []

/-- The page that the map names as the latest copy of a logical page. One whose header does not decode counts as unwritten (R330), and so
does one whose header names another partition or page (R340). -/
def State.nandPage (s : State) (part page : Nat) : Option NandPage :=
  match Map.get? (s.mapOf part).pages (pageKey part page) with
  | none => none
  | some v => (s.blkPages (v / 4096))[v % 4096]?.bind (fun x =>
      if x.headOk && x.part = part && x.page = page then some x else none)

/-- The number of the store key now in slot 2: the writes of the slot (R310, R325). -/
def State.keyNo (s : State) : Nat := (s.keySlot 2).writes

/-- The content of a page with the codewords zeroed that do not decode: those it holds, and `bad` (R332, R339). -/
def State.pageData (s : State) (x : NandPage) (bad : List Nat) : Bytes :=
  (x.bad ++ bad).foldl (fun d c => overlay d (2048 * (c % 8)) (zeros 2048)) (x.open s.keyNo (s.keySlot 2).key)

/-- The 128-byte records of a Logbook page; a circulating record's number is 1,024 or above. -/
def pageRecords (data : Bytes) : List Bytes :=
  ((List.range 128).map (fun k => slice data (128 * k) 128)).filter (fun r => decide (1024 ≤ leAt r 4 4))

/-- The logical pages of the LOG ring that hold data, oldest first. -/
def State.logRing (s : State) : List Nat :=
  let cap := s.partPages 3 - 8
  (List.range s.store.map.b.used).map (fun k => 8 + (s.store.map.b.head - 8 + k) % max 1 cap)

/-- Records the store holds, oldest first. -/
def State.storedRecords (s : State) : List Bytes :=
  s.logRing.flatMap (fun p => match s.nandPage 3 p with
    | some x => pageRecords (s.pageData x [])
    | none => [])

/-- Records that a read can reach in the store: none in NO_KEY (R376). -/
def State.reachableRecords (s : State) : List Bytes :=
  if s.fld .STORE_STATUS 0 0 2 0 = 4 then [] else s.storedRecords

/-- LOG registers that show the Logbook (Tables 14-4 and 14-5). -/
def State.liveLog (s : State) (r : Reg) (_i : Nat) : Option Nat :=
  let l := s.log
  match r with
  | .LOG_STATUS =>
    some (l.permanent.length + b2n (s.fld .STORE_STATUS 0 0 2 0 = 4) * 2 ^ 11)
  | .LOG_NEWEST_SEQ => some l.newestSeq
  | .LOG_OLDEST_SEQ =>
    let b := ((l.pages.flatten.map (·.seq)) ++ s.reachableRecords.map (fun r => leAt r 4 4)).filter
      (fun n => decide (l.clearMark < n || l.clearMark = 0))
    some ((b.min?).getD 0)
  | .LOG_CLEAR_MARK => some l.clearMark
  | .LOG_OP_SEC_LO => some (l.opSec % 2 ^ 32)
  | .LOG_OP_SEC_HI => some (l.opSec / 2 ^ 32 % 256)
  | .LOG_POWER_CYCLES => some l.powerCycles
  | _ => none

/-! ### Workers (Table 13-9) and Ethernet ports -/

/-- WHARF and ETH registers that show their blocks. -/
def State.liveWharf (s : State) (r : Reg) (i : Nat) : Option Nat :=
  let w := s.wharf
  let role := s.plan.running.any (fun x => x.tag = 0xF0 && x.items.any (·.type = 5))
  let own : WMgr := w.mgrs.getD w.addressed ⟨false, 0, 0, 0⟩
  match r with
  | .WHARF_STATUS =>
    some ((w.workers.filter (fun e => e.2.state = 2)).length % 2 ^ 9 + s.fld r 0 0 9 9 * 2 ^ 9
      + b2n (decide (w.region < 6)) * 2 ^ 10 + s.fld r 0 0 11 11 * 2 ^ 11 + b2n role * 2 ^ 12
      + b2n (role && own.up) * 2 ^ 13 + b2n (role && w.addressed = 1) * 2 ^ 14)
  | .WHARF_WORKER_STATE =>
    if role then
      some (if i = 0 then (if own.up then 2 else if w.joined != 0 then 3 else 1) else 0)
    else
      match Map.get? w.workers i with
      | none => some 0
      | some x => some (x.state + b2n (Map.has s.ep.bp (3072 + i)) * 2 ^ 2
          + (x.grant + 2 ^ 32 - x.accepted) % 2 ^ 32 % 2 ^ 16 * 2 ^ 3 + min 255 x.missed * 2 ^ 19)
  | .WHARF_CTL => some (s.fld .HM_FUNC_CTL 13 0 0 0)
  | .ETH_STATUS =>
    some (s.fld r i 0 3 0 + b2n (match s.eth.ports[i]? with
      | some p => decide (s.time.ns < p.ignoreEnd)
      | none => false) * 2 ^ 4)
  | _ => none

end Sys2Proof.Machine
end

