-- ==== Sys2Proof/Machine/TailLive.lean ====
section
/-!
DEFINITION. The PANEL, UPD and PWR registers that show their blocks (Tables 17-5 to 17-7, 15-13, 15-15 and 18-12).
-/
namespace Sys2Proof.Machine

/-- PANEL.STATUS.state (Table 17-5). -/
def PanelState.code (p : PanelState) : Nat :=
  match p.phase with
  | .off => 0
  | .settle => 1
  | .discharge => 5
  | .idle => 2
  | .run => if p.powering then 1 else if p.next = .down then 5 else 3
  | .comp _ => if p.powering then 1 else if p.next = .down then 5 else 4

/-- PANEL_EN_FL: asserted while the panel is lit and fl_req is 1 (R438). -/
def State.frontlight (s : State) : Bool := s.panel.lit && s.flag .PANEL_CTL 0 0 1

/-- PANEL registers that show it. -/
def State.livePanel (s : State) (r : Reg) (i : Nat) : Option Nat :=
  let p := s.panel
  match r with
  | .PANEL_STATUS =>
    some (p.code + p.band * 2 ^ 3 + b2n p.hv * 2 ^ 6 + b2n s.frontlight * 2 ^ 7 + b2n p.pending.isSome * 2 ^ 8
      + (if p.phase = .run then p.run.frame % 64 else 0) * 2 ^ 9 + b2n p.unbalanced * 2 ^ 15)
  | .PANEL_CTL => some (s.fld .HM_FUNC_CTL 0x14 0 0 0 + s.fld r 0 0 2 1 * 2)
  | .PANEL_ACCT => some (ofSigned 16 (Map.getD p.accounts (s.fld .PANEL_ACCT_SEL 0 0 8 0) 0))
  | .PANEL_IMAGE => some (bits p.displayed (32 * i + 31) (32 * i))
  | _ => none

/-- UPD registers that show the trial and the jobs (Tables 15-13, 15-15). -/
def State.liveUpd (s : State) (r : Reg) (i : Nat) : Option Nat :=
  match r with
  | .UPD_STATUS =>
    let left := match s.upd.trialAt with
      | some t => t / 1000000000 + s.get .UPD_TRIAL_CFG 0 0 - s.sec
      | none => 0
    some (s.fld r 0 0 5 0 + min left 0xFFFF * 2 ^ 6)
  | .UPD_JOB_STATUS =>
    some (((s.upd.jobs[i]?).map (·.state)).getD 0 + (s.upd.targets.filter (fun e => e.2.job = i)).length * 2 ^ 2)
  | _ => none

/-- PWR.GATE: domains stopped by the power state, SIGNAL while no block in it has its plan section (R460), and TUG at rank STANDBY
(R367). -/
def State.gates (s : State) : Nat :=
  match s.power with
  | 1 => 0x002
  | 2 => 0x016
  | 3 => 0x0DF
  | 4 => 0x056
  | _ =>
    (if s.inService && !s.plan.running.any (fun x => x.tag = 0x60 || x.tag = 0x70 || x.tag = 0xC0) then 0x040 else 0)
      + (if s.fld .PILOT_STATUS 0 0 3 0 = 4 then 0x002 else 0)

/-- A ball carries a function of Table 19-5. -/
def State.ballFn (s : State) (g : Nat) : Bool := s.fld .PINS_BALL g 0 7 0 != 0

/-- GPIO_OUT and GPIO_OE of a ball: 0 while it carries a function (R489). -/
def State.gpioBit (s : State) (lo hi : Reg) (g : Nat) : Bool :=
  !s.ballFn g && (if g < 32 then s.flag lo 0 0 g else s.flag hi 0 0 (g - 32))

/-- TRIG_OUT_k: high for a pulse, or low with the inverted polarity of the schedule that drives it (R304). -/
def State.trigLevel (s : State) (k : Nat) : Bool :=
  decide (s.time.ns < Map.getD s.time.trigEnd k 0)
    != (s.items 0xC0 9).any (fun v => bit (leAt v 1 1) 1 && bit (leAt v 1 1) 3 && leAt v 2 1 = k)

/-- The level at a ball (R472, R489, Tables 19-4 and 19-5): until SEALED and in FAILED every ball is an input; a host output drives GPIO_OUT, TRIG_OUT, PLC_SYSREF and PLC_TXEN their
signals, TRIG_OUT and PLC_TXEN low in POWER_DOWN, and any other ball has the level found there. -/
def State.gpioLevel (s : State) (g : Nat) : Bool :=
  if !s.inService then bit s.pwr.gpio g
  else if s.gpioBit .PINS_GPIO_OE_LO .PINS_GPIO_OE_HI g then s.gpioBit .PINS_GPIO_OUT_LO .PINS_GPIO_OUT_HI g
  else if s.power = 4 && (s.fld .PINS_BALL g 0 7 0 = 1 || s.fld .PINS_BALL g 0 7 0 = 4) then false
  else if s.fld .PINS_BALL g 0 7 0 = 1 then
    s.trigLevel (s.fld .PINS_BALL g 0 15 8) != s.flag .PINS_BALL g 0 16
  else if s.fld .PINS_BALL g 0 7 0 = 3 then s.plcSysref != s.flag .PINS_BALL g 0 16
  else if s.fld .PINS_BALL g 0 7 0 = 4 then s.plcTxen (s.fld .PINS_BALL g 0 15 8) != s.flag .PINS_BALL g 0 16
  else bit s.pwr.gpio g

/-- PWR.GATE (Table 18-12) and the GPIO words (Table 20-5). -/
def State.livePower (s : State) (r : Reg) : Option Nat :=
  let word (f : Nat → Bool) (lo n : Nat) : Option Nat := some (maskOf ((List.range n).map (fun b => f (lo + b))))
  match r with
  | .PWR_GATE => some s.gates
  | .PINS_GPIO_IN_LO => word s.gpioLevel 0 32
  | .PINS_GPIO_IN_HI => word s.gpioLevel 32 16
  | .PINS_GPIO_OUT_LO => word (s.gpioBit .PINS_GPIO_OUT_LO .PINS_GPIO_OUT_HI) 0 32
  | .PINS_GPIO_OUT_HI => word (s.gpioBit .PINS_GPIO_OUT_LO .PINS_GPIO_OUT_HI) 32 16
  | .PINS_GPIO_OE_LO => word (s.gpioBit .PINS_GPIO_OE_LO .PINS_GPIO_OE_HI) 0 32
  | .PINS_GPIO_OE_HI => word (s.gpioBit .PINS_GPIO_OE_LO .PINS_GPIO_OE_HI) 32 16
  | _ => none

end Sys2Proof.Machine
end

