-- ==== Sys2Proof/Machine/Ops.lean ====
section
/-!
DEFINITION. The named operations every block shares: reading registers, interrupts and MSI-X, Logbook events, the
running plan, free values and completion rings.
-/
namespace Sys2Proof.Machine

/-- A register instance as a read sees it, without side effect (R11). -/
def State.read (s : State) (r : Reg) (i j : Nat) : Nat :=
  ([s.liveHarbour r i, s.liveTime r i, s.livePlc r i, s.liveBond r i, s.liveDma r i, s.liveRadio r i, s.liveCustoms r i,
    s.liveBal r i, s.liveCraft r i, s.liveStore r i, s.liveLog r i, s.liveWharf r i, s.livePanel r i, s.liveUpd r i,
    s.livePower r].findSome? id).getD (s.get r i j)

/-- Draw a free value (assumption 2): answers it and advances the counter. -/
def State.fresh (s : State) : Nat × State :=
  ((Config.freeWord s.free).toNat, { s with free := s.free + 1 })

/-! ### Interrupts (R409) -/

/-- The INT_EN register of an INT register; PLAN.INT has none (Table 2-13). -/
def Reg.enableOf : Reg → Option Reg
  | .GLOBAL_INT => some .GLOBAL_INT_EN
  | .HM_INT => some .HM_INT_EN
  | .EP_INT => some .EP_INT_EN
  | .PLC_INT => some .PLC_INT_EN
  | .RADIO_INT => some .RADIO_INT_EN
  | .CUSTOMS_INT => some .CUSTOMS_INT_EN
  | .BAL_INT => some .BAL_INT_EN
  | .CRAFT_INT => some .CRAFT_INT_EN
  | .TIME_INT => some .TIME_INT_EN
  | .GNSS_INT => some .GNSS_INT_EN
  | .BOND_INT => some .BOND_INT_EN
  | .STORE_INT => some .STORE_INT_EN
  | .WHARF_INT => some .WHARF_INT_EN
  | .PILOT_INT => some .PILOT_INT_EN
  | .LOG_INT => some .LOG_INT_EN
  | .UPD_INT => some .UPD_INT_EN
  | .ETH_INT => some .ETH_INT_EN
  | .DMA_INT => some .DMA_INT_EN
  | .PANEL_INT => some .PANEL_INT_EN
  | .PWR_INT => some .PWR_INT_EN
  | .PINS_GPIO_INT_LO => some .PINS_GPIO_INT_EN_LO
  | .PINS_GPIO_INT_HI => some .PINS_GPIO_INT_EN_HI
  | _ => none

/-- The INT register an INT_EN register belongs to. -/
def Reg.intOf : Reg → Option Reg
  | .GLOBAL_INT_EN => some .GLOBAL_INT
  | .HM_INT_EN => some .HM_INT
  | .EP_INT_EN => some .EP_INT
  | .PLC_INT_EN => some .PLC_INT
  | .RADIO_INT_EN => some .RADIO_INT
  | .CUSTOMS_INT_EN => some .CUSTOMS_INT
  | .BAL_INT_EN => some .BAL_INT
  | .CRAFT_INT_EN => some .CRAFT_INT
  | .TIME_INT_EN => some .TIME_INT
  | .GNSS_INT_EN => some .GNSS_INT
  | .BOND_INT_EN => some .BOND_INT
  | .STORE_INT_EN => some .STORE_INT
  | .WHARF_INT_EN => some .WHARF_INT
  | .PILOT_INT_EN => some .PILOT_INT
  | .LOG_INT_EN => some .LOG_INT
  | .UPD_INT_EN => some .UPD_INT
  | .ETH_INT_EN => some .ETH_INT
  | .DMA_INT_EN => some .DMA_INT
  | .PANEL_INT_EN => some .PANEL_INT
  | .PWR_INT_EN => some .PWR_INT
  | .PINS_GPIO_INT_EN_LO => some .PINS_GPIO_INT_LO
  | .PINS_GPIO_INT_EN_HI => some .PINS_GPIO_INT_HI
  | _ => none

/-- The MSI-X vector of an INT register (Table 16-2); none for any other register. -/
def Reg.vector (i : Nat) : Reg → Option Nat
  | .GLOBAL_INT => some 0
  | .PLAN_INT => some 1
  | .HM_INT => some 2
  | .EP_INT => some 3
  | .PLC_INT => some (4 + i)
  | .RADIO_INT => some (12 + i)
  | .CUSTOMS_INT => some 16
  | .BAL_INT => some 17
  | .CRAFT_INT => some 18
  | .TIME_INT => some 19
  | .GNSS_INT => some 20
  | .BOND_INT => some 21
  | .STORE_INT => some 22
  | .WHARF_INT => some 23
  | .PILOT_INT => some 24
  | .LOG_INT => some 25
  | .UPD_INT => some 26
  | .ETH_INT => some (27 + i)
  | .DMA_INT => some 31
  | .PANEL_INT => some 32
  | .PWR_INT => some 33
  | .PINS_GPIO_INT_LO => some 34
  | .PINS_GPIO_INT_HI => some 34
  | _ => none

/-- Send an MSI-X vector, or record it in the PBA while a mask holds it (R409). -/
def State.sendVector (s : State) (v : Nat) : State :=
  if s.host.msixMasked || s.flag .DMA_MSIX_CTRL v 0 0 || !s.host.linkUp then
    s.setFlag .DMA_PBA (v / 32) 0 (v % 32) true
  else s.modHost (fun h => { h with sent := (v :: h.sent).take 64 })

/-- The bits of an INT register that its INT_EN enables (R409). -/
def State.enabledInts (s : State) (r : Reg) (i : Nat) : Nat :=
  match r.enableOf with
  | some e => s.get r i 0 &&& s.get e i 0
  | none => s.get r i 0

/-- Hardware sets bit `b` of an INT register: the vector is sent when the bit is enabled and was 0 (R409). -/
def State.raise (s : State) (r : Reg) (i b : Nat) : State :=
  let s' := s.setFlag r i 0 b true
  match r.vector i with
  | some v =>
    if s'.enabledInts r i &&& (2 ^ 32 - 1 - s.enabledInts r i) = 0 then s' else s'.sendVector v
  | none => s'

/-- A write to an INT register clears the bits written as 1, and the vector is sent again when an enabled bit still
reads 1 (R409). -/
def State.clearInts (s : State) (r : Reg) (i v : Nat) : State :=
  let s' := s.set r i 0 (s.get r i 0 &&& (2 ^ 32 - 1 - (v &&& r.desc.w1c)))
  match r.vector i with
  | some n => if s'.enabledInts r i = 0 then s' else s'.sendVector n
  | none => s'

/-! ### Background activities (R28) -/

/-- A periodic activity of Table 1-9 is due: its period has passed since it last ran, or it has not run since the start. -/
def State.bgDue (s : State) (k period : Nat) : Bool :=
  match Map.get? s.pwr.bgAt k with
  | some t => decide (t + 1000000000 * period ≤ s.time.ns)
  | none => true

/-- The activity runs now. -/
def State.bgRan (s : State) (k : Nat) : State :=
  let now := s.time.ns
  s.modPwr (fun p => { p with bgAt := Map.put p.bgAt k now })

/-! ### The Logbook queue (R380, R381) -/

/-- Snapshot of a list: register values and offsets, read without side effect; empty before SEALED (R381). -/
def State.snapshot (s : State) (list : Nat) : List (Nat × Nat) :=
  if s.inService then
    match (s.items 0x110 2).find? (fun v => leAt v 0 1 = list) with
    | some v =>
      (List.range (min 12 (leAt v 1 1))).map (fun k =>
        let a := leAt v (4 + 4 * k) 4
        (match regAt a with
         | some (r, i, j) => s.read r i j
         | none => 0, a / 4))
    | none => []
  else []

/-- The snapshot list the LOG section assigns to a code; list 0 is empty (R386). -/
def State.snapList (s : State) (code : Nat) : Nat :=
  match (s.items 0x110 3).find? (fun v => leAt v 0 2 = code) with
  | some v => leAt v 2 1
  | none => 0

/-- An event enters the 64-entry queue, or is dropped and counted when the queue is full (R380). -/
def State.logPut (s : State) (staged : Bool) (code key detail : Nat) (list : Option Nat) : State :=
  if s.log.queue.length < 64 then
    let snap := s.snapshot (list.getD (s.snapList code))
    let add : LogState → LogState := fun l =>
      { l with queue := l.queue ++
        [⟨code, staged, key % 2 ^ 32, detail % 2 ^ 32, s.sec, s.nsec, s.quality, list, snap⟩] }
    s.modLog add
  else
    ((s.modLog (fun l => { l with dropped := l.dropped + 1 })).count .LOG_LOST_CNT 0 0 1).raise .LOG_INT 0 0

/-- A hardware Logbook event (R18, R380). -/
def State.event (s : State) (code key detail : Nat) : State := s.logPut false code key detail none

/-! ### Completion rings (R412, R413) -/

/-- Entries of a completion ring. -/
def State.ringSize (s : State) (p : Nat) : Nat := 2 ^ (7 + s.fld .DMA_CR_CFG p 0 8 5)

/-- Entries a message of `n` bytes takes (R412). -/
def entriesFor (n : Nat) : Nat := 1 + ceilDiv (n - 48) 60

/-- Ring `p` can take a message of `n` bytes now: enabled, link usable and entries free (R408, R413). -/
def State.ringRoom (s : State) (p n : Nat) : Bool :=
  match s.host.rings[p]? with
  | some r =>
    s.flag .DMA_CR_CFG p 0 0 && s.host.linkUp && s.host.busMaster
      && decide (r.used + entriesFor n ≤ s.ringSize p)
  | none => false

/-- Write bytes to host memory. -/
def memWrite (m : Map Byte) (a : Nat) : Bytes → Map Byte
  | [] => m
  | b :: bs => memWrite (Map.put m a b) (a + 1) bs

/-- The 64-byte completion entries of a message (Table 16-4), the first with phase `ph` at index `t` of `size`. -/
def ringEntries (kind flow len ns secq size : Nat) : Nat → Nat → Bool → Bool → Bytes → List (Nat × Bytes)
  | 0, _, _, _, _ => []
  | fuel + 1, t, ph, first, body =>
    let n := if first then 48 else 60
    let here := body.take n
    let rest := body.drop n
    let last := rest.isEmpty
    let head :=
      if first then
        toLE 4 (b2n ph + 2 + b2n last * 4 + kind * 2 ^ 8 + len * 2 ^ 16) ++ toLE 4 flow ++ toLE 4 ns ++ toLE 4 secq
      else toLE 4 (b2n ph + b2n last * 4 + here.length * 2 ^ 16)
    let t' := (t + 1) % size
    (t, head ++ fit n here) ::
      (if last then [] else ringEntries kind flow len ns secq size fuel t' (if t' = 0 then !ph else ph) false rest)

/-- Commit a message to ring `p` (R412, R413): entries written at the tail, the tail advanced, and the vector sent
once `coal_n` messages are unsignalled or at once when `coal_us` is 0. -/
def State.ringPut (s : State) (p kind flow : Nat) (body : Bytes) : State :=
  match s.host.rings[p]? with
  | none => s
  | some r =>
    let size := s.ringSize p
    let tail := s.get .DMA_CR_TAIL p 0
    let es := ringEntries kind flow body.length s.nsec (s.sec % 2 ^ 28 + s.quality * 2 ^ 28) size
      (entriesFor body.length) tail r.phase true body
    let base := s.get .DMA_CR_BASE_LO p 0 + s.get .DMA_CR_BASE_HI p 0 * 2 ^ 32
    let tail' := (tail + es.length) % size
    let wrapped := decide (size ≤ tail + es.length)
    let n := r.unsignalled + 1
    let signal := decide (max 1 (s.fld .DMA_CR_CFG p 0 15 9) ≤ n) || s.fld .DMA_CR_CFG p 0 31 16 = 0
    let r' : RingState :=
      { phase := if wrapped then !r.phase else r.phase, used := r.used + es.length,
        unsignalled := if signal then 0 else n, since := if r.unsignalled = 0 then s.time.ns else r.since }
    let s := s.modHost (fun h => { h with
      mem := es.foldl (fun m e => memWrite m (base + 64 * e.1) e.2) h.mem
      rings := updAt h.rings p (fun _ => r') })
    let s := s.set .DMA_CR_TAIL p 0 tail'
    if signal then s.sendVector (64 + p) else s

end Sys2Proof.Machine
end

