-- ==== Sys2Proof/Machine/AllStop.lean ====
section
/-!
DEFINITION. All-stop: activation, clear, and the release and clear of STOP_CMD (R276-R280).
-/
namespace Sys2Proof.Machine

/-- What an accepted clear does (R279): stop_epoch advances, STOP_OUT is deasserted, INT and the Logbook. -/
def State.stopClear (s : State) : State :=
  let e := (s.craft.epoch + 1) % 256
  let l := s.craft.latched
  ((s.modCraft (fun c => { c with allStop := false, epoch := e, latched := 0 })).raise .CRAFT_INT 0 1).event 0x0C02 e l

/-- Judge the sources after an event (R276, R277): active sources are latched, a source activates all-stop, and without a
CRAFT section all-stop ends by itself when none is active. -/
def State.stopEval (s : State) : State :=
  let src := s.stopSources
  let s := s.modCraft (fun c => { c with latched := c.latched ||| src })
  if src != 0 then
    if s.craft.allStop then s
    else ((s.modCraft (fun c => { c with allStop := true })).raise .CRAFT_INT 0 0).event 0x0C01 src 0
  else if s.craft.allStop && s.inService && !s.hasSection 0xB0 then s.stopClear
  else s

/-- STOP_CMD.release. -/
def execStopCmdRelease (s : State) : Host.Outcome State Fault Refusal :=
  if s.hostHeld then .next s else
  .next (s.modCraft (fun c => { c with host := false })).stopEval

/-- STOP_CMD.clear: ignored while any source is active (R276). -/
def execStopCmdClear (s : State) : Host.Outcome State Fault Refusal :=
  if s.hostHeld then .next s else
  if s.stopSources = 0 && s.craft.allStop then .next s.stopClear else .next s

end Sys2Proof.Machine
end

