-- ==== Sys2Proof/Machine/Harbour.lean ====
section
/-!
DEFINITION. Berths, routes, manifest creation, dispatch, tug failure and draining (chapter 3).
-/
namespace Sys2Proof.Machine

/-- No flow (Table 3-5). -/
abbrev noFlow : Nat := 0xFFFFFF

/-- The cycle budget of a kind, 0 for a reserved kind (Table 3-2). -/
def budgetOf (k : Nat) : Nat :=
  [0, 4000, 8000, 2000, 12000, 4000, 6000, 400000, 8000, 16000, 4000, 20000, 800000, 8000, 200000, 3000, 4000, 40000,
    8000, 4000].getD k 0

/-! ### Functions (R81-R83) -/

/-- The state of a function: 0 OFF, 1 RUNNING, 2 BUSY_DRAIN, 3 ABANDONING (Table 3-14). -/
def State.fnState (s : State) (f : Nat) : Nat := s.fld .HM_FUNC_CTL f 0 4 3

/-- The function is RUNNING. -/
def State.fnRunning (s : State) (f : Nat) : Bool := s.fnState f = 1

/-- The function of a berth. -/
def State.berthFn (s : State) (n : Nat) : Nat := s.fld .HM_BERTH_LIM n 0 29 24

/-- A berth takes new manifests: it is enabled, its function has its intake open, and PWRFAIL_N is not accepted (R62, R75,
R82, R87). -/
def State.berthOpen (s : State) (n : Nat) : Bool :=
  decide (n < 4095) && s.flag .HM_BERTH_CFG n 0 31 && s.fnRunning (s.berthFn n) && !s.pwrfail

/-- Total depth limit of a berth (R61). -/
def State.berthCap (s : State) (n : Nat) : Nat := 2 ^ (6 + s.fld .HM_BERTH_LIM n 0 23 20)

/-- The depth from which arrivals spill (R61). -/
def State.spillAt (s : State) (n : Nat) : Nat :=
  let t := s.fld .HM_BERTH_LIM n 0 9 0
  if t = 0 then 2 ^ (6 + s.fld .HM_BERTH_CFG n 0 19 16) else 64 * t

/-- Manifests move from the spill extent to the SRAM part while it is below its threshold (R61). -/
def refill : Nat → Berth → Berth
  | 0, b => b
  | n + 1, b =>
    match b.spill with
    | [] => b
    | m :: ms => refill n ⟨b.sram ++ [m], ms⟩

/-- Store a berth ring after refilling its SRAM part. -/
def State.setBerth (s : State) (n : Nat) (b : Berth) : State :=
  let b' := refill (s.spillAt n - b.sram.length) b
  s.modHm (fun h => { h with berths := Map.putD h.berths n b' ⟨[], []⟩ })

/-- The kind mask of a dock. -/
def State.dockServes (s : State) (d k : Nat) : Bool :=
  if k < 32 then bit (s.get .TUG_DOCK_KIND_LO d 0) k else bit (s.get .TUG_DOCK_KIND_HI d 0) (k - 32)

/-- A dock that may dispatch: enabled and not fenced (R56). -/
def State.dockUp (s : State) (d : Nat) : Bool := s.flag .TUG_DOCK_CFG d 0 0 && !s.flag .TUG_DOCK_CFG d 0 5

/-- A tug is fenced. -/
def State.tugFenced (s : State) (t : Nat) : Bool := s.flag .TUG_FENCED (t / 32) 0 (t % 32)

/-- Some unfenced tug in a dock that is up serves the kind (R68). -/
def State.kindServed (s : State) (k : Nat) : Bool :=
  (List.range 16).any (fun d => s.dockUp d && s.dockServes d k
    && (List.range 16).any (fun i => !s.tugFenced (16 * d + i)))

/-- Some berth holds a manifest of the kind that waits for a tug (R68). -/
def State.kindQueued (s : State) (k : Nat) : Bool :=
  s.hm.berths.any (fun e => (e.2.sram ++ e.2.spill).any (fun m => m.kind = k && m.status = 0))

/-- Set kind_starved and write its record, once per starvation, when berths hold manifests of a kind that no unfenced tug in
an enabled dock serves (R68). -/
def State.noteStarved (s : State) (k : Nat) : State :=
  if s.kindServed k || s.hm.starved.contains k || !s.kindQueued k then s
  else ((s.modHm (fun h => { h with starved := k :: h.starved })).raise .HM_INT 0 3).event 0x0205 k 0

/-- Judge every kind of Table 3-2, after tugs or docks have changed (R68). -/
def State.starveCheck (s : State) : State := (List.range 0x14).foldl (fun s k => s.noteStarved k) s

/-- A manifest that comes with its stamp: a FRAME_IN, and any manifest of a worker's UP_ENV item (R58, R355). -/
def Manifest.stamped (m : Manifest) : Bool := m.kind = kFrameIn || (m.srcClass = 3 && m.arr.cls = 3)

/-- The Harbourmaster enters a manifest into a berth and writes its own fields (R59, R61, R71); EP.RX_FRAMES_CNT counts
FRAME_IN and REJOIN (R120). -/
def State.enterBerth (s : State) (n : Nat) (m : Manifest) : State :=
  let ordered := s.flag .HM_BERTH_CFG n 0 29
  let seq := if ordered then Map.getD s.hm.seqNext m.flow 0 else 0
  let m' := { m with
    prio := s.fld .HM_BERTH_CFG n 0 22 20, retry := 0, status := 0, lastDockValid := false, stage := 0,
    stageValid := false, seq := seq,
    tsNs := if m.stamped then m.tsNs else s.nsec,
    tsSec := if m.stamped then m.tsSec else s.sec % 2 ^ 28,
    tsQual := if m.stamped then m.tsQual else s.quality }
  let b := s.berth n
  let spills := decide (s.spillAt n ≤ b.sram.length) || !b.spill.isEmpty
  let b' : Berth := if spills then ⟨b.sram, b.spill ++ [m']⟩ else ⟨b.sram ++ [m'], b.spill⟩
  let s := s.modHm (fun h => { h with
    berths := Map.put h.berths n b'
    seqNext := if ordered then Map.put h.seqNext m.flow ((seq + 1) % 2 ^ 32) else h.seqNext })
  let s := if m.kind = kFrameIn || m.kind = kRejoin then s.count .EP_RX_FRAMES_CNT 0 0 1 else s
  s.noteStarved m.kind

/-- A ROUTE item matches a source and kind (R87). -/
def routeMatches (cls kind idx : Nat) (v : Bytes) : Bool :=
  leAt v 0 1 = cls && leAt v 1 1 = kind && decide (leAt v 2 2 ≤ idx) && decide (idx ≤ leAt v 4 2)

/-- The berth FLOWS gives a manifest of a source (R87). -/
def State.route (s : State) (cls kind idx flow : Nat) : Option Nat :=
  ((s.items 0x50 1).find? (routeMatches cls kind idx)).map (fun v =>
    let c := leAt v 8 2
    leAt v 6 2 + (if bit (leAt v 10 1) 0 then flow % max 1 c else 0))

/-- Count a refusal at a berth of the 4,096 (R62, R87). -/
def State.countRefused (s : State) (n : Nat) : State :=
  let s := if n < 4096 then
      s.setFld .HM_BERTH_STAT n 0 15 0 (satAdd 0xFFFF (s.fld .HM_BERTH_STAT n 0 15 0) 1)
    else s
  s.raise .HM_INT 0 6

/-- Start or renew back-pressure on a source of class 1, 2 or 3 (R118). -/
def State.backPressure (s : State) (cls idx : Nat) : State :=
  if cls = 1 || cls = 2 || cls = 3 then
    let now := s.time.ns
    s.modEp (fun e => { e with bp := Map.put e.bp (1024 * cls + idx) now })
  else s

/-- Back-pressure is active on a source (Table 4-10). A radio source is under it when any channel of its port is. -/
def State.bpActive (s : State) (cls idx : Nat) : Bool :=
  if cls = 2 then (List.range 16).any (fun c => Map.has s.ep.bp (2048 + 16 * idx + c))
  else Map.has s.ep.bp (1024 * cls + idx)

/-- Create a manifest from a hardware source: routed, shed, refused or entered (R62, R87, R117). The Bool says that it
was created. -/
def State.create (s : State) (m : Manifest) : State × Bool :=
  match s.route m.srcClass m.kind m.srcIndex m.flow with
  | none => (s.raise .HM_INT 0 6, false)
  | some n =>
    if (m.srcClass = 1 || m.srcClass = 2 || m.srcClass = 3) && decide (s.fld .HM_BERTH_CFG n 0 22 20 < s.ep.level) then
      ((s.count .EP_SHED_CNT 0 0 1).backPressure m.srcClass m.srcIndex, false)
    else if !s.berthOpen n || decide (s.berthCap n ≤ (s.berth n).depth) then
      ((s.countRefused n).backPressure m.srcClass m.srcIndex, false)
    else
      (s.enterBerth n m, true)

/-- Create a manifest of the device's own functions, ignoring whether it was refused. Where it has a payload, the spec does
not say at which address (assumption 11). -/
def State.make (s : State) (kind kindArg flow cls idx : Nat) (epx : Option Nat) (buf : Bytes) : State :=
  let p := if buf.isEmpty then (0, s) else s.fresh
  (p.2.create { Manifest.zero with
    kind := kind, kindArg := kindArg, flow := flow, srcClass := cls, srcIndex := idx, epxValid := epx.isSome,
    epx := epx.getD 0, length := buf.length, payload := p.1, buf := buf }).1

/-! ### Tally slots -/

/-- The tally slot with a number. -/
def State.slot? (s : State) (n : Nat) : Option (Slot Effect) := Map.get? s.hm.slots n

/-- Change a tally slot. -/
def State.modSlot (s : State) (n : Nat) (f : Slot Effect → Slot Effect) : State :=
  s.modHm (fun h => { h with slots := Map.upd h.slots n f })

/-- Free a tally slot (R69). -/
def State.freeSlot (s : State) (n : Nat) : State := s.modHm (fun h => { h with slots := Map.del h.slots n })

/-- The slot a tug is executing. -/
def State.slotOfTug (s : State) (t : Nat) : Option Nat :=
  (s.hm.slots.find? (fun e => e.2.tug = some t)).map (·.1)

/-- The lowest free slot number in a sorted slot map. -/
def firstFree {α : Type} : Nat → Map α → Nat
  | n, [] => n
  | n, (k, _) :: m => if k = n then firstFree (n + 1) m else n

/-! ### Stage buffers (R70, R411) -/

/-- Bytes that a queue item takes in a stage buffer: its envelope or body, and 16 for an item that has none (assumption
49). -/
def LinkItem.stageBytes : LinkItem → Nat
  | .create _ _ => 16
  | .remove _ => 16
  | .confirm _ env => env.length
  | .command _ env => env.length
  | .sched _ env _ => env.length
  | .marker _ _ => 16
  | .fwBlock data => data.length
  | .craftOrder _ body _ => body.length

/-- Bytes that an effect takes in a stage buffer (assumption 49). -/
def Effect.stageBytes : Effect → Nat
  | .row (.member _ _) => 8
  | .row (.corr _ _ data) => data.length
  | .row _ => 256
  | .customs h => h.body.length
  | .append _ _ data => data.length
  | .plc _ _ it => it.stageBytes
  | .radio _ _ _ it => it.stageBytes
  | .wharf _ _ body => body.length
  | .hostMsg body => body.length
  | .log _ _ _ _ => 64
  | .follow _ => 32
  | .count _ _ _ _ => 0
  | .intr _ _ _ => 0

/-- Pages of 256 bytes that staged effects take (R70). -/
def stagePages (fx : List Effect) : Nat := ceilDiv (fx.map Effect.stageBytes).sum 256

/-- Pages of a dock's stage area that no stage buffer holds (R70, Table 3-20). -/
def State.dockPagesFree (s : State) (d : Nat) : Nat :=
  256 * s.fld .TUG_DOCK_CFG d 0 14 12
    - (s.hm.slots.map (fun e => if e.2.dock = d then e.2.dockPages else 0)).sum

/-- Bytes of the DDR-5 stage region that buffers of manifests take (R411). -/
def State.stageUsed (s : State) : Nat := (s.allManifests.map (fun m => if m.pool = 0 then m.length else 0)).sum

/-- Bytes of the DDR-5 stage region (Table 3-9a). -/
def State.stageRoom (s : State) : Nat := 1048576 * s.itemLE 0x20 5 0 4 1024

/-- Pages of the DDR-5 stage region that nothing holds (R70). -/
def State.ddrPagesFree (s : State) : Nat :=
  (s.stageRoom - s.stageUsed) / 256 - (s.hm.slots.map (·.2.ddrPages)).sum

/-- The effects are at most 16 KiB, and the stage area of the executing dock and the DDR-5 stage region have the pages that they
take (R70, Table 3-6). -/
def State.stageFits (s : State) (d : Nat) (fx : List Effect) : Bool :=
  decide (stagePages fx ≤ 64) && decide (stagePages fx ≤ s.dockPagesFree d + s.ddrPagesFree)

/-- A tug reports completion: status, loads and staged effects, whose pages come from the dock's stage area first (R56, R70).
While no page is free the tug waits for one (Table 3-6). A cancelled manifest's result is ignored and its slot is freed
(R82). -/
def State.complete (s : State) (n st : Nat) (loads : List RowKey) (fx : List Effect) : State :=
  match s.slot? n with
  | none => s
  | some e =>
    if e.cancelled then s.freeSlot n
    else if !s.stageFits e.dock fx then s
    else
      let own := min (stagePages fx) (s.dockPagesFree e.dock)
      s.modSlot n (fun e => { e with
        tug := none, m := { e.m with status := st }, loads := e.loads ++ loads, stage := fx, dockPages := own,
        ddrPages := stagePages fx - own })

/-- The slot's manifest, when it is of the kind, running and not yet complete: the precondition of a work kind's row. -/
def State.running (s : State) (n k : Nat) : Option Manifest :=
  match s.slot? n with
  | some e => if e.m.kind = k && e.m.status = 0 && e.tug.isSome then some e.m else none
  | none => none

/-! ### Dispatch (R65-R69) -/

/-- The head manifest of a berth that holds one. -/
def State.head? (s : State) (n : Nat) : Option Manifest := (s.berth n).sram.head?

/-- A berth that dispatch may take from: enabled, and its function neither OFF nor ABANDONING (R65, R80, R82;
assumption 12). -/
def State.berthLive (s : State) (n : Nat) : Bool :=
  s.flag .HM_BERTH_CFG n 0 31 && (s.fnState (s.berthFn n) = 1 || s.fnState (s.berthFn n) = 2)

/-- Whether dock `d` may take the head of berth `n` in a step: 0 a head with retry 2, 1 home, 2 stealing. -/
def State.eligible (s : State) (d step n : Nat) : Bool :=
  match s.head? n with
  | none => false
  | some m =>
    s.berthLive n && s.dockServes d m.kind &&
      (if m.retry = 2 then step = 0 && m.lastDock != d
       else if step = 1 then s.fld .HM_BERTH_CFG n 0 26 23 = d
       else if step = 2 then
         let home := s.fld .HM_BERTH_CFG n 0 26 23
         let steal := s.fld .HM_BERTH_CFG n 0 28 27
         home != d && decide (64 * s.fld .HM_BERTH_LIM n 0 19 10 < (s.berth n).depth) &&
           (steal = 2 || (steal = 1 && s.fld .TUG_DOCK_CFG home 0 4 1 = s.fld .TUG_DOCK_CFG d 0 4 1))
       else false)

/-- The highest priority of a list of berths. -/
def State.topPrio (s : State) (ns : List Nat) : Nat := (ns.map (fun n => s.fld .HM_BERTH_CFG n 0 22 20)).foldl max 0

/-- Round robin by number from a pointer. -/
def roundRobin (p : Nat) (ns : List Nat) : Option Nat :=
  match ns.find? (fun n => decide (p ≤ n)) with
  | some n => some n
  | none => ns.head?

/-- The berth a dock takes from next, and the step that found it (R65). -/
def State.pick (s : State) (d : Nat) : Option (Nat × Nat) :=
  let go (step : Nat) : Option (Nat × Nat) :=
    let ns := (Map.keys s.hm.berths).filter (s.eligible d step)
    let p := s.topPrio ns
    let ns := ns.filter (fun n => s.fld .HM_BERTH_CFG n 0 22 20 = p)
    let ptr := if step = 2 then Map.getD s.hm.rrSteal (8 * d + p) 0 else Map.getD s.hm.rrHome (8 * d + p) 0
    (roundRobin ptr ns).map (fun n => (step, n))
  match go 0 with
  | some x => some x
  | none =>
    match go 1 with
    | some x => some x
    | none => go 2

/-- A dock waits to reload its working area: a tug of it has not finished its manifest (R78). -/
def State.dockWaits (s : State) (d : Nat) : Bool :=
  s.hm.reloading.contains d && (List.range 16).any (fun i => (s.slotOfTug (16 * d + i)).isSome)

/-- A tug may take work: the domain runs, the tug is not fenced, its dock is up and has reloaded, and the tug is idle (R56,
R78, Table 18-4). -/
def State.tugReady (s : State) (t : Nat) : Bool :=
  decide (t < 256) && s.dispatchOn && s.power = 0 && !s.tugFenced t && s.dockUp (t / 16) && !s.dockWaits (t / 16)
    && (s.slotOfTug t).isNone && decide (s.hm.slots.length < 65536)

/-- An idle tug takes the next eligible manifest and the manifest gets a tally slot (R65, R69). -/
def State.dispatch (s : State) (t : Nat) : State :=
  if s.tugReady t then
    match s.pick (t / 16) with
    | none => s
    | some (step, n) =>
      match (s.berth n).sram with
      | [] => s
      | m :: rest =>
        let sl := firstFree 0 s.hm.slots
        let p := s.fld .HM_BERTH_CFG n 0 22 20
        let m' := { m with stage := sl, stageValid := true }
        let s := s.setBerth n ⟨rest, (s.berth n).spill⟩
        s.modHm (fun h => { h with
          slots := Map.put h.slots sl ⟨m', n, some t, false, false, [], [], 0, Fin.ofNat 16 (t / 16), 0, 0⟩
          starved := h.starved.filter (· ≠ m.kind)
          reloading := h.reloading.filter (· ≠ t / 16)
          rrHome := if step = 2 then h.rrHome else Map.put h.rrHome (8 * (t / 16) + p) (n + 1)
          rrSteal := if step = 2 then Map.put h.rrSteal (8 * (t / 16) + p) (n + 1) else h.rrSteal })
  else s

/-! ### Failure (R76-R79) -/

/-- Fence one tug and update the fleet counts (R76 steps 1, 4-6). -/
def State.fenceTug (s : State) (t cause kind : Nat) : State :=
  if s.tugFenced t then s
  else
    let s := s.setFlag .TUG_FENCED (t / 32) 0 (t % 32) true
    let s := s.set .TUG_FAIL_LAST 0 0 (t % 256 + cause * 2 ^ 8 + kind * 2 ^ 11)
    let s := s.setFld .TUG_FLEET_STATUS 0 0 8 0 (s.fld .TUG_FLEET_STATUS 0 0 8 0 - 1)
    let s := s.setFld .TUG_FLEET_STATUS 0 0 17 9 (s.fld .TUG_FLEET_STATUS 0 0 17 9 + 1)
    (s.raise .HM_INT 0 0).event 0x0201 t (cause + kind * 2 ^ 8)

/-- Poison a manifest on its third failure: last_dock is the dock of that failure, and dead-letter copy, count, interrupt and
record follow; the slot stays for the tally gate (R63, R77, Table 3-3). -/
def State.poison (s : State) (n d : Nat) : State :=
  match s.slot? n with
  | none => s
  | some e =>
    let m := { e.m with
      retry := 3, status := 5, lastDock := d, lastDockValid := true, stage := 0, stageValid := false }
    let full := decide (1024 ≤ s.hm.dead.length)
    let s := ((s.count .HM_POISON_CNT 0 0 1).raise .HM_INT 0 1).event 0x0203 m.kind m.flow
    let s :=
      if full then ((s.modHm (fun h => { h with dlOverflow := satAdd 0xFFFF h.dlOverflow 1 })).raise .HM_INT 0 2).event
        0x0204 0 m.flow
      else s.modHm (fun h => { h with dead := h.dead ++ [m] })
    s.modSlot n (fun e => { e with
      tug := none, m := { e.m with retry := 3, status := 5, lastDock := d, lastDockValid := true }, stage := [], loads := [],
      stale := false, dockPages := 0, ddrPages := 0 })

/-- Some enabled dock other than `d` serves the kind (R67). -/
def State.otherDock (s : State) (d k : Nat) : Bool :=
  (List.range 16).any (fun x => x != d && s.dockUp x && s.dockServes x k)

/-- Return a failed manifest to the head of its berth with retry + 1, or poison it at the third failure (R76 steps 2-3,
R67, R77); an ABANDONING function's manifest is released CANCELLED instead (Table 3-6). -/
def State.failManifest (s : State) (n d : Nat) : State :=
  match s.slot? n with
  | none => s
  | some e =>
    if e.cancelled then s.freeSlot n
    else if 2 ≤ e.m.retry || (e.m.retry = 1 && !s.otherDock d e.m.kind) then s.poison n d
    else
      let m := { e.m with
        retry := e.m.retry + 1, lastDock := d, lastDockValid := true, stage := 0, stageValid := false, status := 0 }
      let s := s.freeSlot n
      let b := s.berth e.berth
      s.modHm (fun h => { h with berths := Map.put h.berths e.berth ⟨m :: b.sram, b.spill⟩ })

/-- The head of a berth that has failed twice and that no enabled dock but its last one serves is handled as a third failure
at once: it takes a tally slot and is poisoned there (R67, R77). -/
def State.poisonHead (s : State) (n : Nat) : State :=
  match (s.berth n).sram with
  | [] => s
  | m :: rest =>
    if m.retry = 2 && m.status = 0 && !s.otherDock m.lastDock m.kind && decide (s.hm.slots.length < 65536) then
      let sl := firstFree 0 s.hm.slots
      let m' := { m with stage := sl, stageValid := true }
      let s := s.setBerth n ⟨rest, (s.berth n).spill⟩
      (s.modHm (fun h => { h with
        slots := Map.put h.slots sl ⟨m', n, none, false, false, [], [], 0, Fin.ofNat 16 m.lastDock, 0, 0⟩ })).poison sl m.lastDock
    else s

/-- Judge the heads of every berth again, after docks have changed (R67). -/
def State.poisonHeads (s : State) : State :=
  (Map.keys s.hm.berths).foldl (fun s n => (List.range (s.berth n).depth).foldl (fun s _ => s.poisonHead n) s) s

/-- What a change of docks and tugs means for the manifests that wait (R67, R68). -/
def State.fleetChanged (s : State) : State := s.poisonHeads.starveCheck

/-- A tug fails (R76): the manifest it executes fails with it. -/
def State.tugFails (s : State) (t cause : Nat) : State :=
  if s.tugFenced t || !decide (t < 256) then s
  else
    match s.slotOfTug t with
    | none => (s.fenceTug t cause 0).starveCheck
    | some n =>
      let k := match s.slot? n with
        | some e => e.m.kind
        | none => 0
      let s := s.failManifest n (t / 16)
      (s.fenceTug t cause k).starveCheck

/-- A dock-memory line is retired; the 33rd fences the dock and every tug of it (R78). A dock that is fenced has no spare left to
retire a line to (assumption 21). -/
def State.retireLine (s : State) (d : Nat) : State :=
  let n := s.fld .TUG_DOCK_CFG d 0 11 6
  if s.flag .TUG_DOCK_CFG d 0 5 then s
  else
  if n < 32 then s.setFld .TUG_DOCK_CFG d 0 11 6 (n + 1)
  else
    let s := (List.range 16).foldl (fun s i => s.tugFails (16 * d + i) 2) s
    (((s.setFlag .TUG_DOCK_CFG d 0 5 true).raise .HM_INT 0 5).event 0x0202 d n).fleetChanged

/-! ### Scrub and patrol (R28, R30) -/

/-- A SCRUB_REPORT manifest of an array, in the row order of Table 1-10 from 0. -/
def State.scrubReport (s : State) (array : Nat) : State := s.make kScrubReport 0 noFlow 7 array none []

/-- A SCRUB_REPORT of what Table 1-10 has no row for: its source index is a free value (assumption 2). -/
def State.scrubReportFree (s : State) : State :=
  let f := s.fresh
  f.2.scrubReport (f.1 % 1024)

/-- An uncorrectable error that scrub or patrol found is counted and raised (R30, Tables 20-3 and 20-4). -/
def State.scrubCount (s : State) : State := (s.count .GLOBAL_SCRUB_UNCORR_CNT 0 0 1).raise .GLOBAL_INT 0 1

/-! ### Draining (R82, R83) -/

/-- Manifests of a function in its berths and in flight, with those that a tug has finished and the flow has not released. -/
def State.fnLoad (s : State) (f : Nat) : Nat :=
  (s.hm.berths.map (fun e => if s.berthFn e.1 = f then e.2.depth else 0)).sum
    + (s.hm.slots.filter (fun e => s.berthFn e.2.berth = f)).length
    + (s.hm.skips.filter (fun e => s.berthFn e.1 = f && s.hm.slots.all (fun x =>
        !(x.2.berth = e.1 && x.2.m.flow = e.2.1 && x.2.m.seq = e.2.2)))).length

/-- Release, in one pass over a ring, the cancelled manifests whose turn it is (R72, R82). -/
def releaseRing (ordered : Bool) : Map Nat → List Manifest → Map Nat × List Manifest
  | rel, [] => (rel, [])
  | rel, m :: ms =>
    if m.status = 4 && (!ordered || Map.getD rel m.flow 0 = m.seq) then
      releaseRing ordered (if ordered then Map.put rel m.flow ((m.seq + 1) % 2 ^ 32) else rel) ms
    else
      let r := releaseRing ordered rel ms
      (r.1, m :: r.2)

/-- Release the cancelled manifests that a tug still executed, where their turn has come (R82). -/
def releaseSkips : Map Nat → List (Nat × Nat × Nat) → Map Nat × List (Nat × Nat × Nat)
  | rel, [] => (rel, [])
  | rel, e :: es =>
    if Map.getD rel e.2.1 0 = e.2.2 then releaseSkips (Map.put rel e.2.1 ((e.2.2 + 1) % 2 ^ 32)) es
    else
      let r := releaseSkips rel es
      (r.1, e :: r.2)

/-- One pass that releases cancelled manifests that wait in berths or that tugs executed (R82). -/
def State.sweepOnce (s : State) : State :=
  let s := s.modHm (fun h =>
    let r := releaseSkips h.relNext h.skips
    { h with relNext := r.1, skips := r.2 })
  (Map.keys s.hm.berths).foldl (fun s n =>
    let b := s.berth n
    let o := s.flag .HM_BERTH_CFG n 0 29
    let r1 := releaseRing o s.hm.relNext b.sram
    let r2 := releaseRing o r1.1 b.spill
    (s.modHm (fun h => { h with relNext := r2.1 })).setBerth n ⟨r1.2, r2.2⟩) s

/-- Release cancelled manifests until none is in turn: a pass that leaves one in turn has released another. -/
def State.sweep (s : State) : State :=
  if !s.hm.skips.isEmpty || s.hm.berths.any (fun e => e.2.sram.any (·.status = 4) || e.2.spill.any (·.status = 4)) then
    let n := (s.hm.berths.map (fun e => (e.2.sram ++ e.2.spill).countP (·.status = 4))).sum
    (List.range (n + s.hm.skips.length + 1)).foldl (fun s _ => s.sweepOnce) s
  else s

/-- Of the manifests that a function's abandonment cancels, HOURs and TOPOs are created again once the function runs again (R257),
and a SET is REFUSED (R260). -/
def State.balCut (s : State) (ms : List Manifest) : State :=
  let of (op : Nat) : List Nat :=
    (ms.filter (fun m => m.kind = kBalance && m.srcClass = 4 && m.kindArg % 16 = op)).map (fun m => leAt m.buf 0 4)
  let s := s.modBal (fun b => { b with
    hourMark := (of 3).foldl (fun a h => min a (h - 1)) b.hourMark
    dayMark := (of 4).foldl (fun a d => min a (d - 1)) b.dayMark
    topoDay := if (of 4).isEmpty then b.topoDay else none })
  if (of 5).isEmpty then s else s.set .BAL_QUERY_STATUS 0 0 10

/-- Convert a function to ABANDONING: every manifest of it is marked CANCELLED, and one that a tug executes is released in its
flow's order while the tug goes on (R82). -/
def State.abandon (s : State) (f : Nat) : State :=
  let mark : Manifest → Manifest := fun m => { m with status := 4 }
  let s := s.setFld .HM_FUNC_CTL f 0 4 3 3
  let fns := s.berthFn
  let s := s.balCut (s.hm.berths.flatMap (fun e => if fns e.1 = f then e.2.sram ++ e.2.spill else [])
    ++ (s.hm.slots.filter (fun e => fns e.2.berth = f && !e.2.cancelled)).map (·.2.m))
  let ordered (n : Nat) : Bool := s.flag .HM_BERTH_CFG n 0 29
  let run := s.hm.slots.filter (fun e => fns e.2.berth = f && e.2.tug.isSome && !e.2.cancelled && ordered e.2.berth)
  let s := s.modHm (fun h => { h with
    skips := h.skips ++ run.map (fun e => (e.2.berth, e.2.m.flow, e.2.m.seq))
    berths := h.berths.map (fun e => if fns e.1 = f then (e.1, ⟨e.2.sram.map mark, e.2.spill.map mark⟩) else e)
    slots := h.slots.map (fun e =>
      if fns e.2.berth = f then
        (e.1, { e.2 with cancelled := true,
                         m := if e.2.tug.isSome then e.2.m else { e.2.m with status := 4 },
                         stage := if e.2.tug.isSome then e.2.stage else []
                         dockPages := if e.2.tug.isSome then e.2.dockPages else 0
                         ddrPages := if e.2.tug.isSome then e.2.ddrPages else 0 })
      else e) })
  s.sweep

/-- A disable: intake closes and the drain policy applies (R82). -/
def State.disable (s : State) (f : Nat) : State :=
  if s.fnState f = 1 then
    let now := s.time.ns
    let s := s.modHm (fun h => { h with drainAt := Map.put h.drainAt f now })
    if s.flag .HM_FUNC_CTL f 0 1 || s.fld .HM_FUNC_CTL f 0 31 16 = 0 then s.abandon f
    else s.setFld .HM_FUNC_CTL f 0 4 3 2
  else s

/-- The chip's rank is STANDBY (R367). -/
def State.standby (s : State) : Bool := s.fld .PILOT_STATUS 0 0 3 0 = 4

/-- The plan gives the function what it needs: the section, segment or port it belongs to (R38, R160, R195). -/
def State.fnPresent (s : State) (f : Nat) : Bool :=
  if 1 ≤ f && f ≤ 8 then (s.items 0x60 1).any (fun v => leAt v 0 1 = f - 1)
  else if 9 ≤ f && f ≤ 0xC then (s.items 0x70 1).any (fun v => leAt v 0 1 = f - 9)
  else if f = 0xD then s.hasSection 0xF0
  else if f = 0x10 then s.hasSection 0x90
  else if f = 0x11 then s.hasSection 0xA0
  else if f = 0x12 then s.hasSection 0xB0
  else if f = 0x14 then s.hasSection 0x120
  else decide (f ≤ 0x16)

end Sys2Proof.Machine
end

