-- ==== Sys2Proof/Machine/Keys.lean ====
section
/-!
DEFINITION. The tags of key slots, key derivation and the derived-key cache (R311, R312, R317-R319).
-/
namespace Sys2Proof.Machine

/-- Bytes of key material by algorithm (Table 11-1). -/
def algBytes (alg : Nat) : Nat :=
  match alg with
  | 1 => 32
  | 2 => 64
  | 3 => 49
  | 4 => 48
  | _ => 0

/-- The key of a slot without its padding (Table 11-1). -/
def KeySlot.material (k : KeySlot) : Bytes := k.key.take (algBytes (bits k.attr 6 4))

/-- Store a slot. -/
def State.setSlot (s : State) (n : Nat) (k : KeySlot) : State :=
  s.modBond (fun b => { b with slots := Map.put b.slots n k })

/-- A copy of a slot fails its tag (R312): fused BAD, zeroised and counted; the slot serves from its other copy or becomes BAD. -/
def State.tagFail (s : State) (n copy : Nat) : State :=
  let k := s.keySlot n
  if k.bad || k.copyBad.testBit copy || decide (copiesOf n ≤ copy) then s
  else
    let s := s.count .BOND_TAG_FAIL_CNT 0 0 1
    let mask := k.copyBad ||| 2 ^ copy
    let k' := { k with array := k.array.set copy SlotRec.zero, image := k.image.set copy SlotRec.zero, copyBad := mask }
    if reservedSlot n && mask % 4 != 3 then (s.setSlot n k').raise .BOND_INT 0 2
    else ((s.setSlot n { k' with bad := true }).raise .BOND_INT 0 1).event 0x0F01 n copy

/-- A slot is used: the tag of the copy that serves is checked, and that of the other one where it takes over (R311, R312). -/
def State.useSlot (s : State) (n : Nat) : State :=
  (List.range 2).foldl (fun s c =>
    let k := s.keySlot n
    if k.valid && k.copy = c && !k.served.tagOk n c then s.tagFail n c else s) s

/-- The Bonded Store SRAM is loaded from the key array, every tag checked; `hurt` names copies that read otherwise than they were
written (R309, R311, R326). -/
def State.loadSlots (s : State) (hurt : List (Nat × Nat)) : State :=
  let s := s.modBond (fun b => { b with slots := b.slots.map (fun e => (e.1, { e.2 with image := e.2.array })) })
  let wrong := s.bond.slots.flatMap (fun e => ((List.range e.2.image.length).filter (fun c =>
    !(e.2.image.getD c SlotRec.zero).tagOk e.1 c)).map (fun c => (e.1, c)))
  (wrong ++ hurt.filter (fun e => decide (e.1 < 256))).foldl (fun s e => s.tagFail e.1 e.2) s

/-- Entries the derived-key cache holds: 16,384 per MiB of HS_KEYS (R319). -/
def State.keyRoom (s : State) : Nat := 16384 * s.itemLE 0x20 3 0 4 2

/-- Pinned L1 and L2 entries allowed (Table 11-14). -/
def State.pinMax (s : State) : Nat := s.itemLE 0xD0 3 0 2 4096

/-- Drop the last unpinned entry of a list, the least recently used (R319). -/
def evictLast : List KeyEntry → List KeyEntry
  | [] => []
  | e :: es => if es.any (fun x => !x.pinned) then e :: evictLast es else if e.pinned then e :: es else es

/-- Cache a derived key, pinning L1 and L2 up to pin_max and evicting the least recently used (R319); a cache full of pinned entries
takes no more (assumption 39). -/
def State.cacheKey (s : State) (p : KeyPath) (k : Bytes) : State :=
  let pinned := decide (p.level ≤ 2) && decide ((s.bond.cache.filter (·.pinned)).length < s.pinMax)
  let c := if s.keyRoom ≤ s.bond.cache.length then evictLast s.bond.cache else s.bond.cache
  if s.keyRoom ≤ c.length then s else s.modBond (fun b => { b with cache := ⟨p, k, pinned⟩ :: c })

/-- A cached key becomes the most recently used. -/
def State.touchKey (s : State) (e : KeyEntry) : State :=
  s.modBond (fun b => { b with cache := e :: b.cache.filter (fun x => !decide (x.path = e.path)) })

/-- The path with everything below a level cleared (Table 11-7). -/
def KeyPath.upTo (p : KeyPath) (level : Nat) : KeyPath :=
  { level := level, l1 := p.l1, l2 := if level < 2 then 0 else p.l2,
    epx := if level < 3 then 0 else p.epx, serial := if level < 3 then 0 else p.serial,
    purpose := if level < 5 then 0 else p.purpose, epoch := if level < 5 then 0 else p.epoch,
    aes256 := if level < 5 then true else p.aes256 }

/-- The level numbers of the derivation steps. -/
def stepLevel : Nat → Nat
  | 0 => 0
  | 1 => 1
  | 2 => 2
  | 3 => 3
  | _ => 5

/-- One derivation step: label S, context X and length (Table 11-7). -/
def deriveStep (n : Nat) (p : KeyPath) (k : Bytes) : Bytes :=
  match n with
  | 1 => Config.kmac256 k (ascii "VQKDF-L1") (toLE 2 p.l1) 32
  | 2 => Config.kmac256 k (ascii "VQKDF-L2") (toLE 2 p.l2) 32
  | 3 => Config.kmac256 k (ascii "VQKDF-L3") (toLE 4 p.epx ++ toLE 8 p.serial) 32
  | _ => Config.kmac256 k (ascii "VQKDF-L5") (toLE 1 p.purpose ++ toLE 2 p.epoch) (if p.aes256 then 32 else 16)

/-- The key at step `n` of a path: from the cache, or derived from the deepest cached ancestor or the ROOT slot and
cached; none when the ROOT slot must be read and is BAD or EMPTY (R318). -/
def State.keyAt (s : State) (p : KeyPath) : Nat → State × Option Bytes
  | 0 =>
    match s.item? 0xD0 1 with
    | none => (s, none)
    | some v =>
      let s := s.useSlot (leAt v 0 1)
      let k := s.keySlot (leAt v 0 1)
      (s, if k.valid then some k.material else none)
  | n + 1 =>
    let q := p.upTo (stepLevel (n + 1))
    match s.bond.cache.find? (fun e => decide (e.path = q)) with
    | some e => (s.touchKey e, some e.key)
    | none =>
      match s.keyAt p n with
      | (s, none) => (s, none)
      | (s, some parent) =>
        let k := deriveStep (n + 1) p parent
        ((s.count .BOND_DERIVE_CNT 0 0 1).cacheKey q k, some k)

/-- A key request (R318): counted as a cache hit or miss. -/
def State.requestKey (s : State) (p : KeyPath) (n : Nat) : State × Option Bytes :=
  let hit := s.bond.cache.any (fun e => decide (e.path = p.upTo (stepLevel n)))
  (s.count (if hit then .BOND_KCACHE_HIT_CNT else .BOND_KCACHE_MISS_CNT) 0 0 1).keyAt p n

/-- The leaf key path of an endpoint record for a purpose and epoch (R317). -/
def EpRec.path (r : EpRec) (epx purpose epoch : Nat) : KeyPath :=
  ⟨5, r.l1, r.l2, epx, r.serial, purpose, epoch, r.aes256⟩

/-- The endpoint's key for a purpose at an epoch. -/
def State.epKey (s : State) (epx : Nat) (r : EpRec) (purpose epoch : Nat) : State × Option Bytes :=
  s.requestKey (r.path epx purpose epoch) 4

end Sys2Proof.Machine
end

