-- ==== Sys2Proof/Machine/EpCodec.lean ====
section
/-!
DEFINITION. The endpoint record's 256 bytes (Table 4-1), envelopes (R94-R97), reading records (R98) and the loading of
records by work kinds (R74, R90, R92).
-/
namespace Sys2Proof.Machine

/-- A pending entry's 20 bytes (Table 4-9); an empty entry is zero. -/
def pendBytes : Option Pend → Bytes
  | none => zeros 20
  | some p =>
    toLE 4 p.cmdId ++ toLE 4 p.window ++ toLE 2 p.session ++ toLE 2 p.object ++ toLE 1 p.op ++ toLE 1 (p.prio % 8 + 8)
      ++ toLE 2 p.arg.length ++ toLE 4 p.argCell

/-- The record's bytes 0-251 (Table 4-1). -/
def EpRec.body (r : EpRec) (fmt : Nat) : Bytes :=
  toLE 8 r.serial
    ++ toLE 1 (r.cls % 16 + b2n r.aes256 * 16 + b2n r.battery * 32 + b2n r.dlmsOk * 64 + b2n r.billed * 128)
    ++ toLE 1 r.state
    ++ toLE 2 (b2n r.recordLost + b2n r.rekeyDue * 2 + b2n r.lowBattery * 4 + b2n r.timeCorrDue * 8 + b2n r.fwPush * 16)
    ++ toLE 2 r.l1 ++ toLE 2 r.l2 ++ toLE 2 r.keyEpoch ++ toLE 2 (ofSigned 16 r.timeCorr) ++ toLE 4 r.rxHigh
    ++ toLE 8 r.rxMap ++ toLE 4 r.txCounter ++ toLE 1 r.linkType ++ toLE 1 r.linkIndex ++ toLE 2 r.position
    ++ toLE 1 r.channel ++ toLE 1 r.linkState ++ toLE 2 r.linkQuality ++ toLE 4 r.lastRx ++ toLE 4 r.veeLastEnd
    ++ r.chans.flatMap (fun c => toLE 4 c.last ++ toLE 4 c.reg)
    ++ toLE 2 r.veeFail ++ toLE 2 r.veeEst ++ toLE 2 r.balGroup ++ toLE 2 r.balMember ++ toLE 4 r.tamperSeen
    ++ toLE 4 r.tamperLast ++ toLE 2 r.tamperTotal ++ toLE 1 r.batteryLevel ++ [0]
    ++ r.pend.flatMap pendBytes ++ fit 64 r.classArea ++ toLE 2 fmt ++ zeros 2

/-- The record with only record_lost set (R92). -/
def EpRec.lost : EpRec := { EpRec.empty with recordLost := true }

/-- The 256 bytes of a record; the record that was never written is all zero, and a lost one holds record_lost and its crc
alone (R92). -/
def EpRec.bytes (r : EpRec) (fmt : Nat) : Bytes :=
  if r = EpRec.empty then zeros 256
  else
    let b := r.body (if r = EpRec.lost then 0 else fmt)
    b ++ toLE 4 (crc32 b)

/-- The committed record of an EPX. -/
def State.record (s : State) (epx : Nat) : EpRec := Map.getD s.ep.recs epx EpRec.empty

/-- A record's DDR-5 bytes fail their crc or are uncorrectable: damaged, or lost and not written since (R92). -/
def State.recGone (s : State) (epx : Nat) : Bool :=
  s.ep.damaged.contains epx || (s.ep.lost && !Map.has s.ep.recs epx)

/-- Lines the record cache holds: HS_RECORDS MiB of 256-byte copies (R90). -/
def State.cacheLines (s : State) : Nat := 4096 * s.itemLE 0x20 1 0 4 12

/-- A record load: counted as a cache hit or miss, the line becoming the most recently loaded (R90). -/
def State.loadRec (s : State) (epx : Nat) : State :=
  let s := s.count (if s.ep.cache.contains epx then .EP_CACHE_HIT_CNT else .EP_CACHE_MISS_CNT) 0 0 1
  s.modEp (fun e => { e with cache := (epx :: e.cache.filter (· ≠ epx)).take s.cacheLines })

/-- A write-back of a record makes every slot that loaded it stale (R74). -/
def State.staleKey (s : State) (k : RowKey) : State :=
  s.modHm (fun h => { h with slots := h.slots.map (fun e =>
    if e.2.loads.contains k then (e.1, { e.2 with stale := true }) else e) })

/-- Write an endpoint record back (R74, R90, R92): a write makes its DDR-5 bytes good again. -/
def State.writeRec (s : State) (epx : Nat) (r : EpRec) : State :=
  (s.modEp (fun e => { e with
    recs := if e.lost then Map.put e.recs epx r else Map.putD e.recs epx r EpRec.empty
    damaged := e.damaged.filter (· ≠ epx) })).staleKey (.ep epx)

/-- The 4-byte head of a reading-chain host message (R491). -/
def noticeHead (n : Nat) : Bytes := [BitVec.ofNat 8 n, 0, 0, 0]

/-- What a work kind stages when it finds its record lost (R92). -/
def lostEffects (epx : Nat) : List Effect :=
  [.row (.ep epx EpRec.lost), .hostMsg (noticeHead 3 ++ toLE 4 epx ++ zeros 16), .count .EP_RECORD_LOST_CNT 0 0 1,
   .intr .EP_INT 0 1]

/-- Run a work kind over the endpoint record its manifest names and further loads: load it, and answer a lost record as
R92 says. -/
def State.withRecs (s : State) (n epx : Nat) (more : List RowKey) (f : State → EpRec → State × Nat × List Effect) :
    State :=
  let s := s.loadRec epx
  if s.recGone epx then s.complete n 2 (.ep epx :: more) (lostEffects epx)
  else
    let r := f s (s.record epx)
    r.1.complete n r.2.1 (.ep epx :: more) r.2.2

/-- Run a work kind over the endpoint record its manifest names. -/
def State.withRec (s : State) (n epx : Nat) (f : State → EpRec → State × Nat × List Effect) : State :=
  s.withRecs n epx [] f

/-! ### Stamps -/

/-- The full TAI seconds of a stamp's low 28 bits, the candidate nearest the timebase (R58). -/
def State.fullSec (s : State) (w low : Nat) : Nat :=
  let c := s.sec - s.sec % 2 ^ w + low % 2 ^ w
  if s.sec + 2 ^ (w - 1) < c then c - 2 ^ w
  else if c + 2 ^ (w - 1) < s.sec then c + 2 ^ w else c

/-- TAI nanoseconds of a manifest's stamp. -/
def State.stampNs (s : State) (m : Manifest) : Nat := 1000000000 * s.fullSec 28 m.tsSec + m.tsNs

/-- TAI nanoseconds of an arrival's stamp. -/
def State.arrivalNs (s : State) (a : Arrival) : Nat := 1000000000 * s.fullSec 28 a.sec + a.ns

/-! ### Envelopes (R94-R97) -/

/-- Envelope type of header byte 0. -/
def envType (e : Bytes) : Nat := bits (leAt e 0 1) 7 4
/-- link_tag of header bytes 2-4. -/
def envTag (e : Bytes) : Nat := leAt e 2 3
/-- Header byte 5. -/
def envEpoch (e : Bytes) : Nat := leAt e 5 1
/-- The frame counter. -/
def envCounter (e : Bytes) : Nat := leAt e 6 4
/-- The payload length. -/
def envLen (e : Bytes) : Nat := leAt e 10 2

/-- The CCM nonce: serial, counter, header byte 0 (R96). -/
def ccmNonce (serial counter b0 : Nat) : Bytes := toLE 8 serial ++ toLE 4 counter ++ toLE 1 b0

/-- The manifest kind an arriving envelope asks for; none when R95 drops it (Table 4-3). -/
def envKind (e : Bytes) : Option Nat :=
  let t := envType e
  let tag := envTag e
  if bits (leAt e 0 1) 3 0 = 1 && (t = 0 || t = 1 || t = 2 || t = 3) && decide (5 ≤ e.length)
      && (if t = 2 then tag = 0xFFFFFF else decide (tag < 0x400000)) then
    some (if t = 1 then kRejoin else if t = 2 then kHostMsg else kFrameIn)
  else none

/-- A writer puts a packet into its signal FIFO, or drops it whole when it does not fit, as refused under R62 (R420).
The Bool says that it was written. -/
def State.fifoPut (s : State) (n : Nat) (p : Packet) : State × Bool :=
  let f := s.fifo n
  let f' : Fifo := { f with packets := f.packets ++ [p], wptr := (f.wptr + 8 * p.words) % 2 ^ 14 }
  if f.words + p.words ≤ 1024 then (s.modDma (fun d => { d with fifos := Map.put d.fifos n f' }), true)
  else
    let s := s.count .DMA_FIFO_OVF_CNT n 0 1
    let s := match s.route p.arr.cls p.kind p.arr.idx p.flow with
      | some b => s.countRefused b
      | none => s
    (s.backPressure p.arr.cls p.arr.idx, false)

/-- An envelope arrives: R95 looks at header bytes 0-4 and drops it, or its packet goes to a signal FIFO. The Bool says
that the packet was written. -/
def State.arrive (s : State) (fifo : Nat) (env : Bytes) (a : Arrival) : State × Bool :=
  match envKind env with
  | none => (s.count .EP_HDR_REJ_CNT 0 0 1, false)
  | some k =>
    let install := k = kHostMsg
    s.fifoPut fifo ⟨k, if install then (if a.cls = 2 then 0xFFF else if a.cls = 3 then 0 else 1) else a.arg, if install then noFlow else envTag env,
      if install then none else some (envTag env), a, env⟩

/-- A matched radio UP has created its manifest: its bit is set in the group bitmap, and a DATA frame counts as
acknowledged, unless back-pressure withholds a DATA frame's acknowledgement (R178, R180, Table 4-10). -/
def State.noteGroupAck (s : State) (a : Arrival) (env : Bytes) : State :=
  let n := a.idx / 16
  let c := a.idx % 16
  let isData := envType env = 0
  let t := 1000000000 * a.sec + a.ns
  let start := ((s.rport n).anchor + ((32768000000 * (s.superframeAt n t).1 : Nat) : Int)).toNat
  if a.cls != 2 || a.arg = 0xFFF || (isData && s.bpActive 2 n) || start + 2048000000 * (a.arg / 256 + 1) ≤ s.time.ns then s
  else s.modPort n (fun p => { p with
    acks := if p.acks.contains (c * 4096 + a.arg) then p.acks else (c * 4096 + a.arg) :: p.acks
    entries := p.entries.map (fun e =>
      if isData && e.chan = c && e.slot = a.arg && e.epx = envTag env && !e.counted then
        { e with acked := e.acked + 1, counted := true } else e) })

/-- The event pulse of a hardware channel makes the packet's manifest (R421, R59). -/
def State.pulse (s : State) (p : Packet) : State :=
  let f := s.fresh
  let r := f.2.create { Manifest.zero with
    kind := p.kind, kindArg := p.kindArg, flow := p.flow, epxValid := p.epx.isSome, epx := p.epx.getD 0,
    srcClass := p.arr.cls, srcIndex := p.arr.idx, length := p.data.length, payload := f.1, tsNs := p.arr.ns,
    tsSec := p.arr.sec % 2 ^ 28, tsQual := p.arr.qual, buf := p.data, arr := p.arr, pool := ceilDiv p.data.length 64 }
  if !r.2 then r.1
  else if p.kind = kFrameIn || p.kind = kRejoin then r.1.noteGroupAck p.arr p.data
  else r.1

/-- A hardware channel takes the oldest packet of one of its two FIFOs, alternating while both hold packets; it waits
while the pool has no room (R421). -/
def State.takePacket (s : State) (n : Nat) : State :=
  let f := s.fifo n
  let other := if n % 2 = 0 then n + 1 else n - 1
  match f.packets with
  | [] => s
  | p :: rest =>
    if 24 ≤ n then s
    else if Map.get? s.dma.served (n / 2) = some n && !(s.fifo other).packets.isEmpty then s
    else if (s.liveDma .DMA_POOL_FREE 0).getD 0 < ceilDiv p.data.length 64 then s
    else
      (s.modDma (fun d => { d with
        fifos := Map.put d.fifos n { f with packets := rest, rptr := (f.rptr + p.words) % 2 ^ 11 }
        served := Map.put d.served (n / 2) n })).pulse p

/-- A reading record as it stands on the wire: type and value (R98). -/
structure RRec where
  type : Nat
  value : Bytes
  deriving DecidableEq, Repr

/-- Split a payload into records; none when a record overruns it (R98). -/
def splitRecs : Nat → Bytes → Option (List RRec)
  | 0, b => if b.isEmpty then some [] else none
  | fuel + 1, b =>
    if b.isEmpty then some []
    else if b.length < 3 then none
    else
      let n := leAt b 1 2
      if b.length < 3 + n then none
      else (splitRecs fuel (b.drop (3 + n))).map (fun rs => ⟨leAt b 0 1, slice b 3 n⟩ :: rs)

/-- A record obeys Table 4-4 in an uplink of an endpoint of a class, whose register codes 1 to 3 belong to electricity
meters; types with bit 7 set are skipped, so they obey it (R98). -/
def RRec.ok (cls : Nat) (r : RRec) : Bool :=
  let v := r.value
  let n := v.length
  match r.type with
  | 0x01 => n = 10 && decide (leAt v 0 1 < 4) && decide (leAt v 1 1 < (if cls = 0 then 4 else 1))
  | 0x02 => decide (8 ≤ n) && decide (leAt v 0 1 < 4) && leAt v 1 1 = 0 && leAt v 2 4 % 900 = 0
      && decide (1 ≤ leAt v 6 1) && decide (leAt v 6 1 ≤ 96) && n = 8 + 4 * leAt v 6 1
  | 0x03 => n = 10 && decide (leAt v 0 1 < 4) && decide (leAt v 1 1 < 4)
  | 0x04 => n = 11 && decide (leAt v 0 1 < 32)
  | 0x05 => n = 2
  | 0x06 => n = 6
  | 0x07 => n = 5
  | 0x08 => decide (5 ≤ n) && leAt v 0 4 % 60 = 0 && decide (1 ≤ leAt v 4 1) && decide (leAt v 4 1 ≤ 60)
      && n = 5 + 2 * leAt v 4 1
  | 0x7E => decide (1 ≤ n) && decide (n ≤ 2045)
  | 0x7F => true
  | t => decide (128 ≤ t)

/-- The records of an uplink payload of an endpoint of a class, or none when R98 rejects the frame. -/
def readRecs (cls : Nat) (payload : Bytes) : Option (List RRec) :=
  match splitRecs payload.length payload with
  | none => none
  | some rs => if rs.all (RRec.ok cls) then some rs else none

/-- A record on the wire. -/
def RRec.wire (r : RRec) : Bytes := toLE 1 r.type ++ toLE 2 r.value.length ++ r.value

/-! ### Downlinks (R97, R103, R109) -/

/-- rekey_due follows the counters (R103). -/
def EpRec.noteRekey (r : EpRec) : EpRec :=
  if 0xFFFF0000 ≤ r.rxHigh || 0xFFFF0000 ≤ r.txCounter then { r with rekeyDue := true } else r

/-- The INT effect of a record whose rekey_due an effect has set (R103). -/
def rekeyIntr (old new : EpRec) : List Effect := if new.rekeyDue && !old.rekeyDue then [.intr .EP_INT 0 4] else []

/-- No downlink but a JOIN_ACCEPT can be built: the counter is exhausted (R103). -/
def EpRec.txSpent (r : EpRec) : Bool := r.txCounter = 0xFFFFFFFF

/-- Build a downlink envelope of a type for a record: the record afterwards and the envelope; none when the key cannot
be derived or the counter is exhausted (R96, R97, R103, R109). The confirmation is that of the record the tug loaded
(R97). -/
def State.downlink (s : State) (epx type : Nat) (loaded r : EpRec) (recs : List RRec) :
    State × Option (EpRec × Bytes) :=
  if r.txSpent && type != 9 then (s, none)
  else
    let c := r.txCounter + 1
    let r1 := { r with txCounter := c }.noteRekey
    let recs :=
      (if r1.rekeyDue then [RRec.mk 0x12 []] else [])
        ++ (if r1.timeCorrDue then [RRec.mk 0x11 (toLE 4 (ofSigned 32 r1.timeCorr))] else []) ++ recs
    let body := recs.flatMap RRec.wire
    let b0 := 1 + type * 16
    let head := toLE 1 b0 ++ [0] ++ toLE 3 epx ++ toLE 1 r.keyEpoch ++ toLE 4 c ++ toLE 2 body.length
    let ext := toLE 4 loaded.rxHigh ++ toLE 8 loaded.rxMap
    match s.epKey epx r (if type = 8 then 2 else 1) r.keyEpoch with
    | (s, none) => (s, none)
    | (s, some k) =>
      (s, some ({ r1 with timeCorrDue := false },
        head ++ ext ++ Config.ccmSeal k (ccmNonce r.serial c b0) (head ++ ext) body))

/-- The transmit effect that carries an envelope to the record's link (R147, R179, R356). -/
def linkEffect (epx : Nat) (r : EpRec) (confirm : Bool) (env : Bytes) : List Effect :=
  let it : LinkItem := if confirm then .confirm epx env else .command epx env
  match r.linkType with
  | 1 => [.plc r.linkIndex r.position it]
  | 2 => [.radio r.linkIndex r.position r.channel it]
  | 3 => [.wharf r.linkIndex 0x11 (toLE 4 epx ++ toLE 2 env.length ++ zeros 2 ++ env)]
  | _ => []

/-- The effect that removes the entry a record holds on its link (R105, R145, R184). -/
def unlinkEffect (epx : Nat) (r : EpRec) : List Effect :=
  match r.linkType with
  | 1 => [.plc r.linkIndex r.position (.remove epx)]
  | 2 => [.radio r.linkIndex r.position r.channel (.remove epx)]
  | _ => []

end Sys2Proof.Machine
end

