-- ==== Sys2Proof/Machine/Endpoint.lean ====
section
/-!
DEFINITION. The meanings of FRAME_IN, OPEN, REPLAY, REJOIN, ALARM and HOST_MSG (chapter 4), and of the two-step
staging kinds TELEMETRY, SCRUB_REPORT and LOG_SNAP.
-/
namespace Sys2Proof.Machine

/-- Completion with status OK and only its effects. -/
abbrev stOk : Nat := 1
/-- Completion REJECTED. -/
abbrev stRejected : Nat := 2
/-- Completion CONFLICT. -/
abbrev stConflict : Nat := 3

/-- How a manifest whose downlink cannot be built completes: REJECTED when its key request failed (R318); with the counter exhausted
nothing is refused, and it completes OK (assumption 39). -/
def EpRec.noDownlink (r : EpRec) : Nat := if r.txSpent then stOk else stRejected

/-- The chip has worker role: its WHARF section holds a MANAGER item (R358). -/
def State.workerRole (s : State) : Bool := !(s.items 0xF0 5).isEmpty

/-- A follow-on of a manifest of kind `parent` on an endpoint flow (R73, R104). -/
def followEp (parent kind arg epx : Nat) (buf : Bytes) (a : Arrival) : Effect :=
  .follow { kind := kind, kindArg := arg, flow := epx, epx := some epx, srcClass := 5, srcIndex := parent, buf := buf,
            arr := a }

/-- An uplink counter statistic staged with the manifest. -/
def countFx (r : Reg) : Effect := .count r 0 0 1

/-- The arrival of a chain manifest; a host-rung frame has only its own stamp (R58). -/
def Manifest.arrival (m : Manifest) : Arrival :=
  if m.arr.cls = 0 then { m.arr with ns := m.tsNs, sec := m.tsSec, qual := m.tsQual } else m.arr

/-- The stamp word of hand-offs and appends: TAI seconds of receipt and time quality (Tables 7-3 and 12-3). -/
def stampWord (a : Arrival) : Nat := a.sec % 2 ^ 28 + a.qual % 16 * 2 ^ 28

/-- The UP_ENV item of an envelope that a chip in worker role forwards, with the manifest's stamp, words 6 and 7 (R359, Table 13-2). -/
def upItem (m : Manifest) : Effect :=
  let a := m.arrival
  .wharf 0 0x10 (toLE 1 a.cls ++ [0] ++ toLE 2 a.linkQ ++ toLE 4 (m.tsNs % 2 ^ 30) ++ toLE 4 (m.tsSec % 2 ^ 28 + m.tsQual % 16 * 2 ^ 28)
    ++ toLE 2 m.buf.length ++ zeros 2 ++ m.buf)

/-- A result body (R116). -/
def resultBody (id epx res code : Nat) : Bytes := toLE 4 id ++ toLE 4 epx ++ toLE 1 res ++ toLE 1 code ++ zeros 2

/-- Result REFUSED of a kind that worker role does not run: under the command id that payload bytes 0-3 hold, as a refused command has it
(R112, R359; assumption 67). -/
def roleRefusal (m : Manifest) : List Effect := [.hostMsg (resultBody (leAt m.buf 0 4) m.epx 5 0)]

/-- What a kind that worker role does not run, or that the host may not ring, completes REJECTED with (R104, R359). -/
def State.roleEffects (s : State) (m : Manifest) : List Effect := if s.workerRole && m.srcClass != 0 then roleRefusal m else []

/-- Run `f` on a running manifest of a kind; a row that names anything else changes nothing. -/
def State.onKind (s : State) (n k : Nat) (f : Manifest → State) : Host.Outcome State Fault Refusal :=
  match s.running n k with
  | some m => .next (f m)
  | none => .next s

/-! ### FRAME_IN and OPEN -/

/-- The checks of FRAME_IN (Table 4-5): the envelope is an uplink of the manifest's own EPX, the endpoint is JOINED and
its record is not lost, the length matches the packet and header byte 5 equals key_epoch[7:0]. -/
def frameOk (m : Manifest) (r : EpRec) : Bool :=
  let e := m.buf
  bits (leAt e 0 1) 3 0 = 1 && (envType e = 0 || envType e = 3) && m.epxValid && envTag e = m.epx
    && r.state = 2 && !r.recordLost && e.length = 20 + envLen e && decide (envLen e ≤ 2048)
    && envEpoch e = r.keyEpoch % 256

/-- FRAME_IN (Table 4-5, R359). -/
def execFrameIn (slot : Nat) (s : State) : Host.Outcome State Fault Refusal :=
  s.onKind slot kFrameIn (fun m =>
    if s.workerRole && m.srcClass != 0 then s.complete slot stOk [] [upItem m]
    else s.withRec slot m.epx (fun s r =>
      if frameOk m r then (s, stOk, [followEp kFrameIn kOpen 0 m.epx m.buf m.arrival])
      else (s, stRejected, [countFx .EP_HDR_REJ_CNT])))

/-- OPEN: key fetch, CCM decrypt and verify (R96, R318); the host may not ring it (R104). -/
def execOpenEnv (slot : Nat) (s : State) : Host.Outcome State Fault Refusal :=
  s.onKind slot kOpen (fun m =>
    if m.srcClass = 0 || s.workerRole then s.complete slot stRejected [] (s.roleEffects m)
    else s.withRec slot m.epx (fun s r =>
      let e := m.buf
      let head := e.take 12
      let epoch := r.keyEpoch - r.keyEpoch % 256 + envEpoch e
      match s.epKey m.epx r 1 epoch with
      | (s, none) => (s, stRejected, [countFx .EP_AUTH_FAIL_CNT])
      | (s, some k) =>
        match Config.ccmOpen k (ccmNonce r.serial (envCounter e) (leAt e 0 1)) head (e.drop 12) with
        | none => (s, stRejected, [countFx .EP_AUTH_FAIL_CNT])
        | some p => (s, stOk, [followEp kOpen kReplay 0 m.epx (head ++ p) m.arr])))

/-! ### REPLAY (R100, R105, R106) -/

/-- The counter check of R100: the record with its window updated, or none when the counter is rejected. -/
def checkCounter (r : EpRec) (c : Nat) : Option EpRec :=
  if r.rxHigh < c then
    let d := c - r.rxHigh
    some { r with rxMap := (if 64 ≤ d then 0 else (r.rxMap <<< d) % 2 ^ 64) ||| 1, rxHigh := c }
  else
    let d := r.rxHigh - c
    if 64 ≤ d then none
    else if r.rxMap.testBit d then none
    else some { r with rxMap := r.rxMap ||| 2 ^ d }

/-- The link fields an arrival gives a record: type, index, position, channel (R149, R194, R355). -/
def Arrival.link (a : Arrival) : Nat × Nat × Nat × Nat :=
  match a.cls with
  | 1 => (1, a.idx, a.arg - 1, 0xFF)
  | 2 => (2, a.idx / 16, a.arg, a.idx % 16)
  | _ => (3, a.idx, 0xFFFF, 0xFF)

/-- The record holds the arrival's link. -/
def EpRec.onLink (r : EpRec) (a : Arrival) : Bool :=
  a.cls = 0 || decide ((r.linkType, r.linkIndex, r.position, r.channel) = a.link)

/-- The record with the arrival's link fields. -/
def EpRec.moveTo (r : EpRec) (a : Arrival) : EpRec :=
  if a.cls = 0 then r
  else { r with linkType := a.link.1, linkIndex := a.link.2.1, position := a.link.2.2.1, channel := a.link.2.2.2 }

/-- The body of a JOIN or MOVE host message (Table 4-17). -/
def joinNotice (n epx : Nat) (r : EpRec) : Bytes :=
  noticeHead n ++ toLE 4 epx ++ toLE 2 r.keyEpoch ++ toLE 1 r.linkType ++ toLE 1 r.linkIndex ++ toLE 2 r.position
    ++ toLE 1 r.channel ++ [0] ++ toLE 8 r.serial

/-- The entries a move leaves and makes: the old link's entry is removed, and a PLC entry is created at the new
position (R105, R145). -/
def moveEffects (epx : Nat) (old new : EpRec) : List Effect :=
  unlinkEffect epx old
    ++ (if new.linkType = 1 then [.plc new.linkIndex new.position (.create epx new.serial)] else [])

/-! ### Readings: hand-offs and appends (R212, Tables 7-3 and 12-3) -/

/-- An interval value on its way through VEE (R108-R110). -/
structure IVal where
  /-- Index of the INTERVAL record it came with, or that it precedes. -/
  ri : Nat
  start : Nat
  v : Nat
  /-- Reported, not a missing interval that GAP named. -/
  real : Bool
  dup : Bool
  flags : Nat
  deriving DecidableEq, Repr

/-- Consecutive values in pieces of at most 96. -/
def chunks : List IVal → List (List IVal)
  | [] => []
  | x :: xs =>
    match chunks xs with
    | (y :: ys) :: rest =>
      if x.start + 900 = y.start && x.ri = y.ri && decide (ys.length + 1 < 96) then (x :: y :: ys) :: rest
      else [x] :: (y :: ys) :: rest
    | rest => [x] :: rest

/-- The pieces of every channel in record order: channel and piece. -/
def pieces (n : Nat) (chans : List (Nat × List IVal)) : List (Nat × List IVal) :=
  (List.range n).flatMap (fun ri =>
    chans.flatMap (fun c => (chunks (c.2.filter (·.ri = ri))).map (fun k => (c.1, k))))

/-- First start of a piece. -/
def pieceStart (p : List IVal) : Nat := (p.head?.map (·.start)).getD 0

/-- Group pieces of the same start and count, one per channel (R212). -/
def groupPieces : List (Nat × List IVal) → List (List (Nat × List IVal))
  | ps => ps.foldl (fun gs p =>
      let fits : List (Nat × List IVal) → Bool := fun g =>
        g.all (fun q => q.1 != p.1) && g.all (fun q => pieceStart q.2 = pieceStart p.2 && q.2.length = p.2.length)
      match findIdx? fits gs with
      | some i => updAt gs i (fun g => g ++ [p])
      | none => gs ++ [[p]]) []

/-- One READINGS hand-off (Table 7-3). -/
def handoffBytes (epx cont stamp : Nat) (g : List (Nat × List IVal)) (regs tampers : List Bytes) : Bytes :=
  let g := (List.range 4).flatMap (fun c => g.filter (·.1 = c))
  let flags := g.flatMap (fun p => p.2.map (fun x => BitVec.ofNat 8 x.flags))
  let n := match g with
    | [] => 0
    | p :: _ => p.2.length
  let start := match g with
    | [] => 0
    | p :: _ => pieceStart p.2
  toLE 4 (epx + cont * 2 ^ 24) ++ toLE 4 start ++ toLE 1 n ++ toLE 1 (g.map (fun p => 2 ^ p.1)).sum
    ++ toLE 1 regs.length ++ toLE 1 tampers.length ++ toLE 4 stamp
    ++ g.flatMap (fun p => p.2.flatMap (fun x => toLE 4 x.v))
    ++ flags ++ zeros (ceilDiv flags.length 4 * 4 - flags.length)
    ++ regs.flatMap (fun v => slice v 1 1 ++ slice v 0 1 ++ zeros 2 ++ slice v 2 8)
    ++ tampers.flatMap (fun v => slice v 0 1 ++ [0] ++ slice v 1 2 ++ slice v 3 4 ++ slice v 7 4)

/-- The hand-offs of a frame in staging order (R212). -/
def handoffs (epx stamp : Nat) (gs : List (List (Nat × List IVal))) (regs tampers : List Bytes) : List Bytes :=
  let n := max (max 1 gs.length) (max (ceilDiv regs.length 4) (ceilDiv tampers.length 32))
  (List.range n).map (fun i =>
    handoffBytes epx (if i = 0 then 0 else 1) stamp (gs.getD i []) ((regs.drop (4 * i)).take 4)
      ((tampers.drop (32 * i)).take 32))

/-- One PROFILE append (Table 12-3). -/
def appendBytes (epx stamp : Nat) (p : Nat × List IVal) : Bytes :=
  toLE 4 epx ++ toLE 4 (pieceStart p.2) ++ toLE 1 p.1 ++ toLE 1 p.2.length ++ toLE 2 (16 + 8 * p.2.length)
    ++ toLE 4 stamp ++ p.2.flatMap (fun x => toLE 4 x.v ++ toLE 1 x.flags ++ zeros 3)

/-- Records of one type in a frame. -/
def ofType (t : Nat) (rs : List RRec) : List Bytes := (rs.filter (·.type = t)).map (·.value)

/-- The TARIFF and PROFILE follow-ons of a frame's readings (Table 4-5): TARIFF for a billed endpoint with REGISTER,
INTERVAL or TAMPER records, PROFILE for INTERVAL records. -/
def readingFollows (parent epx : Nat) (r : EpRec) (a : Arrival) (rs : List RRec) (chans : List (Nat × List IVal)) :
    List Effect :=
  let n := rs.length
  let regs := ofType 1 rs
  let tampers := ofType 4 rs
  let ivs := ofType 2 rs
  let gs := groupPieces (pieces n (chans.map (fun c => (c.1, c.2.filter (fun x => !x.dup)))))
  (if r.billed && (!regs.isEmpty || !ivs.isEmpty || !tampers.isEmpty) then
    (handoffs epx (stampWord a) gs regs tampers).map (fun h => followEp parent kTariff 0 epx h a)
   else [])
  ++ (pieces n chans).map (fun p => followEp parent kProfile 0 epx (appendBytes epx (stampWord a) p) a)

/-- The reported values of a channel, with the record each came in (Table 4-4). -/
def chanVals (full : Nat → Nat) (c fl : Nat) (rs : List RRec) : List IVal :=
  ((List.range rs.length).zip rs).flatMap (fun p =>
    let v := p.2.value
    if p.2.type = 2 && leAt v 0 1 = c then
      (List.range (leAt v 6 1)).map (fun i =>
        ⟨p.1, full (leAt v 2 4) + 900 * i, leAt v (8 + 4 * i) 4, true, false, fl⟩)
    else [])

/-- The channels a frame has INTERVAL records of. -/
def chansOf (rs : List RRec) : List Nat :=
  (List.range 4).filter (fun c => rs.any (fun x => x.type = 2 && leAt x.value 0 1 = c))

/-- What REPLAY hands on itself while VEE is not RUNNING: every value UNVALIDATED (R106). -/
def State.bypassVee (s : State) (epx : Nat) (r : EpRec) (a : Arrival) (payload : Bytes) : List Effect :=
  match readRecs r.cls payload with
  | none => []
  | some rs =>
    readingFollows kReplay epx r a rs ((chansOf rs).map (fun c => (c, chanVals (s.fullSec 32) c 0x80 rs)))

/-- The record as REPLAY leaves it after an accepted counter: link move, last_rx, link_quality and low_battery. -/
def EpRec.afterReplay (r : EpRec) (a : Arrival) (head : Bytes) : EpRec :=
  { (r.moveTo a) with
    lastRx := a.sec % 2 ^ 32, lowBattery := bit (leAt head 1 1) 2,
    linkQuality := if a.cls = 0 then r.linkQuality else a.linkQ }

/-- REPLAY (R100, R103, R105, R106). -/
def execReplay (slot : Nat) (s : State) : Host.Outcome State Fault Refusal :=
  s.onKind slot kReplay (fun m =>
    if m.srcClass = 0 || s.workerRole then s.complete slot stRejected [] (s.roleEffects m)
    else s.withRec slot m.epx (fun s r =>
      let a := { m.arr with sec := s.fullSec 28 m.arr.sec }
      match (if r.rxHigh = 0xFFFFFFFF then none else checkCounter r (envCounter m.buf)) with
      | none => (s, stRejected, [countFx .EP_REPLAY_REJ_CNT])
      | some r1 =>
        let r2 := (r1.afterReplay a m.buf).noteRekey
        (s, stOk,
          [Effect.row (.ep m.epx r2)]
            ++ (if r.onLink a then [] else
                .hostMsg (joinNotice 2 m.epx r2) :: moveEffects m.epx r r2)
            ++ rekeyIntr r r2
            ++ (if s.fnRunning 0x10 then [followEp kReplay kVee 0 m.epx m.buf m.arr]
                else s.bypassVee m.epx r2 m.arr (m.buf.drop 12)))))

/-! ### REJOIN (R101) -/

/-- How R101 judges a JOIN: the epoch it names, and whether it opens that epoch; none when the state and header byte
do not allow it. -/
def joinEpoch (r : EpRec) (b : Nat) : Option (Nat × Bool) :=
  if r.state = 1 then
    let e := r.keyEpoch + 1 + (b + 256 - (r.keyEpoch + 1) % 256) % 256
    if e ≤ 0xFFFF then some (e, true) else none
  else if r.state = 2 then
    if b = r.keyEpoch % 256 then some (r.keyEpoch, false)
    else if b = (r.keyEpoch + 1) % 256 && decide (r.keyEpoch + 1 ≤ 0xFFFF) then some (r.keyEpoch + 1, true)
    else none
  else none

/-- The record after an accepted JOIN; none when R100 or R103 rejects it. -/
def acceptJoin (r : EpRec) (e : Nat) (opens : Bool) (c : Nat) : Option EpRec :=
  if opens then
    some { r with keyEpoch := e, rxHigh := c, rxMap := 1, txCounter := 0, state := 2, rekeyDue := false }
  else if r.txCounter = 0xFFFFFFFF then none
  else (checkCounter r c).map (fun x => { x with rekeyDue := false })

/-- REJOIN (R101, R103, R359). -/
def execRejoin (slot : Nat) (s : State) : Host.Outcome State Fault Refusal :=
  s.onKind slot kRejoin (fun m =>
    if s.workerRole && m.srcClass != 0 then s.complete slot stOk [] [upItem m]
    else s.withRec slot m.epx (fun s r =>
      let e := m.buf
      let a0 := m.arrival
      let a := { a0 with sec := s.fullSec 28 a0.sec }
      if envType e != 1 || envTag e != m.epx || e.length != 28 + envLen e || leAt e 12 8 != r.serial then
        (s, stRejected, [countFx .EP_AUTH_FAIL_CNT])
      else
        match joinEpoch r (envEpoch e) with
        | none => (s, stRejected, [countFx .EP_REPLAY_REJ_CNT])
        | some (ep, opens) =>
          match s.epKey m.epx r 1 ep with
          | (s, none) => (s, stRejected, [countFx .EP_AUTH_FAIL_CNT])
          | (s, some k) =>
            match Config.ccmOpen k (ccmNonce r.serial (envCounter e) (leAt e 0 1)) (e.take 20) (e.drop 20) with
            | none => (s, stRejected, [countFx .EP_AUTH_FAIL_CNT])
            | some _ =>
              match acceptJoin r ep opens (envCounter e) with
              | none => (s, stRejected, [countFx .EP_REPLAY_REJ_CNT])
              | some r1 =>
                let r2 := ({ (r1.moveTo a) with lastRx := a.sec % 2 ^ 32 } : EpRec).noteRekey
                let moved := if r.onLink a then [] else moveEffects m.epx r r2
                match s.downlink m.epx 9 r r2 [] with
                | (s, none) =>
                  (s, stOk, [Effect.row (.ep m.epx r2)] ++ moved ++ [.hostMsg (joinNotice 1 m.epx r2)]
                    ++ rekeyIntr r r2)
                | (s, some (r3, env)) =>
                  (s, stOk, [Effect.row (.ep m.epx r3)] ++ moved ++ linkEffect m.epx r3 false env
                    ++ [.hostMsg (joinNotice 1 m.epx r3)] ++ rekeyIntr r r3)))

/-! ### TARIFF, PROFILE, ALARM and HOST_MSG -/

/-- TARIFF stages its hand-off for Customs with the serial that the endpoint's record holds while it executes (R212, R213);
Table 4-5 gives it no record load, so none is registered for R74 (assumption 58). The host may not ring it (R104). -/
def execTariff (slot : Nat) (s : State) : Host.Outcome State Fault Refusal :=
  s.onKind slot kTariff (fun m =>
    if m.srcClass = 0 || s.workerRole then s.complete slot stRejected [] (s.roleEffects m)
    else s.complete slot stOk [] [.customs ⟨(s.record m.epx).serial, m.buf⟩])

/-- PROFILE stages its append (R111, Table 12-3); the host may not ring it (R104). -/
def execProfile (slot : Nat) (s : State) : Host.Outcome State Fault Refusal :=
  s.onKind slot kProfile (fun m =>
    if m.srcClass = 0 || s.workerRole then s.complete slot stRejected [] (s.roleEffects m)
    else s.complete slot stOk [] [.append 2 m.epx m.buf])

/-- ALARM stages a host message whose body is its payload (R492). -/
def execAlarm (slot : Nat) (s : State) : Host.Outcome State Fault Refusal :=
  s.onKind slot kAlarm (fun m =>
    if m.srcClass = 0 then s.complete slot stRejected [] []
    else s.complete slot stOk [] [.hostMsg m.buf])

/-- A HOST_MSG manifest that carries an INSTALL from a link (Tables 4-3 and 6-10). -/
def isInstall (m : Manifest) : Bool :=
  ((m.srcClass = 1 || m.srcClass = 2) && (m.kindArg = 1 || m.kindArg = 0xFFF)) || (m.srcClass = 3 && m.arr.cls = 3)

/-- HOST_MSG passes its payload to the host, with EP.INT.install for an INSTALL (R17, R120, Table 4-3); a chip in worker
role forwards an INSTALL (R359). -/
def execHostMsg (slot : Nat) (s : State) : Host.Outcome State Fault Refusal :=
  s.onKind slot kHostMsg (fun m =>
    if m.srcClass = 0 then s.complete slot stRejected [] []
    else if s.workerRole && (m.srcClass = 1 || m.srcClass = 2) then s.complete slot stOk [] [upItem m]
    else s.complete slot stOk [] (.hostMsg m.buf :: (if isInstall m then [.intr .EP_INT 0 3] else [])))

end Sys2Proof.Machine
end

