-- ==== Sys2Proof/Machine/Balance.lean ====
section
/-!
DEFINITION. The energy balance: SERIES, REF, HOUR, TOPO and SET manifests, the instants that create them, and the query
registers (chapter 8).
-/
namespace Sys2Proof.Machine

/-! ### The plan's groups (R240-R242, Table 8-6) -/

/-- A GROUP item. -/
structure Grp where
  g : Nat
  enabled : Bool
  site : Bool
  report : Bool
  phases : List Nat
  first : Nat
  rows : Nat
  nominal : Nat
  refs : List Nat
  deriving DecidableEq, Repr

/-- Read a GROUP item. -/
def Grp.ofItem (v : Bytes) : Grp :=
  { g := leAt v 0 2, enabled := bit (leAt v 2 1) 0, site := bit (leAt v 2 1) 1, report := bit (leAt v 2 1) 2
    phases := [1, 2, 3].filter (fun p => bit (leAt v 3 1) (p - 1)), first := leAt v 4 4, rows := leAt v 8 2
    nominal := leAt v 10 2, refs := [leAt v 12 4, leAt v 16 4, leAt v 20 4] }

/-- The groups of the running plan, in number order as their items stand. -/
def State.grps (s : State) : List Grp := (s.items 0xA0 2).map Grp.ofItem

/-- A group by number. -/
def State.grp? (s : State) (g : Nat) : Option Grp := s.grps.find? (·.g = g)

/-- An enabled group by number. -/
def State.liveGrp? (s : State) (g : Nat) : Option Grp := s.grps.find? (fun x => x.g = g && x.enabled)

/-- The EPX designated for a phase. -/
def Grp.ref (x : Grp) (p : Nat) : Nat := x.refs.getD (p - 1) 0xFFFFFFFF

/-- The defined phases for which an EPX is designated (R242). -/
def Grp.refPhases (x : Grp) (epx : Nat) : List Nat := if x.site then [] else x.phases.filter (fun p => x.ref p = epx)

/-- The enabled group that an endpoint joins; 0xFFFF names none (R241, Table 4-1). -/
def State.joined (s : State) (r : EpRec) : Option Grp := if r.balGroup = 0xFFFF then none else s.liveGrp? r.balGroup

/-- The row of an endpoint's own member number, inside its group's rows (R240, R241). -/
def State.ownRow (s : State) (r : EpRec) : Option Nat :=
  (s.joined r).bind (fun x => if r.balMember < x.rows then some (x.first + r.balMember) else none)

/-- The block of a group. -/
def State.block (s : State) (g : Nat) : GBlock := Map.getD s.bal.groups g GBlock.zero

/-- The row bound to an EPX: its record's own row, or the lowest that is bound to it. -/
def State.boundRow (s : State) (epx : Nat) : Option Nat :=
  match (s.ownRow (s.record epx)).bind (fun n => (Map.get? s.bal.members n).bind (fun m => if m.epx = epx then some n else none)) with
  | some n => some n
  | none => (s.bal.members.find? (fun e => e.2.epx = epx)).map (·.1)

/-- The flow of a group (R245). -/
def groupFlow (g : Nat) : Nat := 0x430000 + g

/-- A voltage code from mV (R248); none for a minute below half of nominal. -/
def Grp.code (x : Grp) (mv : Nat) : Option Int :=
  if 2 * mv < 10 * x.nominal then none
  else some (max (-127) (min 127 (roundDiv ((mv : Int) - 10 * x.nominal) 250)))

/-! ### Rings -/

/-- The bucket of an hour, fresh when the ring holds another hour. -/
def hourAt (m : Map HourB) (h : Nat) : HourB :=
  match Map.get? m (h % 48) with
  | some b => if b.hour = h then b else ⟨h, 0, 0, 0, 0, 0⟩
  | none => ⟨h, 0, 0, 0, 0, 0⟩

/-- The site's hour. -/
def siteHourAt (m : Map SiteHour) (h : Nat) : SiteHour :=
  match Map.get? m (h % 48) with
  | some b => if b.hour = h then b else ⟨h, 0, 0, 0⟩
  | none => ⟨h, 0, 0, 0⟩

/-- An hour lies in the 48-hour ring now. -/
def State.hourIn (s : State) (h : Nat) : Bool := decide (h ≤ s.sec / 3600) && decide (s.sec / 3600 < h + 48)

/-- The latest entry of a minute ring at or before a minute. -/
def latest {α : Type} (m : Map (Nat × α)) (t : Nat) : Option α :=
  match Map.get? m (t % 2880) with
  | some (u, a) => if u = t then some a else scan
  | none => scan
where
  scan : Option α :=
    (m.foldl (fun (best : Option (Nat × α)) e =>
      if t < e.2.1 then best
      else match best with
        | some b => if b.1 < e.2.1 then some e.2 else best
        | none => some e.2) none).map (·.2)

/-- A candidate's code at a minute: that of its ring, else the latest earlier one, else 0 (R248, R252). -/
def State.candCode (s : State) (c : Nat × Nat) (t : Nat) : Int :=
  match s.grp? c.1 with
  | none => 0
  | some x =>
    if x.site then
      (latest ((s.bal.site.volts.getD (c.2 - 1) []).filterMap (fun e =>
        (x.code e.2.2).map (fun y => (e.1, (e.2.1, y))))) t).getD 0
    else (latest ((s.block c.1).volts.getD (c.2 - 1) []) t).getD 0

/-- The candidates of a group (R252). -/
def State.candidates (s : State) (x : Grp) : List (Nat × Nat) :=
  match (s.items 0xA0 3).find? (fun v => leAt v 0 2 = x.g) with
  | some v => (List.range (leAt v 2 1)).map (fun i => (leAt v (4 + 4 * i) 2, leAt v (6 + 4 * i) 1))
  | none => x.phases.map (fun p => (x.g, p))

/-- The blocks that hold the codes of a group's candidates (R244, R252). -/
def State.candKeys (s : State) (x : Grp) : List RowKey :=
  ((s.candidates x).filterMap (fun c =>
    (s.grp? c.1).map (fun y => if y.site then RowKey.site else .group y.g))).eraseDups

/-- What a SERIES of an endpoint loads beside its record (R244). -/
def State.seriesLoads (s : State) (epx : Nat) (r : EpRec) : List RowKey :=
  match s.joined r with
  | none => []
  | some x =>
    .group x.g :: (if (x.refPhases epx).isEmpty then
      (s.ownRow r).toList.map RowKey.member ++ s.candKeys x else [])

/-! ### Reports (R255) -/

/-- A signed field: in two's complement when the value fits, else what the spec leaves open (assumption 2). -/
def field (n : Nat) (x : Int) : Nat :=
  if satSigned n x = x then ofSigned n x else (Config.narrow n x).toNat % 2 ^ n

/-- A balance report. -/
def State.balReport (s : State) (code g epx num : Nat) (body : Bytes) : Bytes :=
  toLE 1 code ++ toLE 1 s.quality ++ toLE 2 g ++ toLE 4 epx ++ toLE 4 num ++ fit 20 body

/-- A report staged as an ALARM manifest. -/
def alarmFx (g : Nat) (epx : Option Nat) (body : Bytes) : Effect :=
  .follow { kind := kAlarm, kindArg := 0, flow := epx.getD (groupFlow g), epx := epx, srcClass := 5,
            srcIndex := kBalance, buf := body, arr := Arrival.none }

/-- The THEFT alarm of a row whose set of active indicators gained a bit (R254). -/
def State.theftFx (s : State) (g num state : Nat) (old new : MRow) : List Effect :=
  let newly := new.ind - (new.ind &&& old.ind)
  if newly = 0 then []
  else [alarmFx g (some new.epx) (s.balReport 0x24 g new.epx num (toLE 1 new.ind ++ toLE 1 newly ++ toLE 1 state)),
        .intr .BAL_INT 0 2]

/-! ### SERIES (R241, R246, R248, R254) -/

/-- One interval of a SERIES payload: start, A+, A− and whether it is skipped for its flags. -/
structure SIval where
  start : Nat
  aPlus : Nat
  aMinus : Nat
  skip : Bool
  deriving DecidableEq, Repr

/-- The intervals of a SERIES payload (Table 8-3). -/
def seriesIvals (b : Bytes) : List SIval :=
  let o := 32 + ceilDiv (2 * leAt b 8 1) 4 * 4
  (List.range (leAt b 9 1)).map (fun i =>
    let p := o + 12 * i
    let f := leAt b (p + 8) 1 ||| leAt b (p + 9) 1
    ⟨leAt b 12 4 + 900 * i, leAt b p 4, leAt b (p + 4) 4, bit f 3 || bit f 5⟩)

/-- The minutes of a SERIES payload with their voltages in mV; 0xFFFF is left out. -/
def seriesVolts (b : Bytes) : List (Nat × Nat) :=
  ((List.range (leAt b 8 1)).map (fun j => (leAt b 4 4 / 60 + j, leAt b (32 + 2 * j) 2))).filterMap (fun e =>
    if e.2 = 0xFFFF then none else some (e.1, 10 * e.2))

/-- Energy enters its hourly buckets once per quarter-hour; the count is of values of hours already computed. -/
def State.addEnergy (s : State) (done : Nat) (hs : Map HourB) (ivs : List SIval) : Map HourB × Nat :=
  ivs.foldl (fun (acc : Map HourB × Nat) x =>
    let h := x.start / 3600
    let q := x.start % 3600 / 900
    let b := hourAt acc.1 h
    if x.skip || !s.hourIn h || b.mask.testBit q then acc
    else
      let b' : HourB :=
        { b with aPlus := b.aPlus + x.aPlus, aMinus := b.aMinus + x.aMinus, mask := b.mask ||| 2 ^ q }
      (Map.put acc.1 (h % 48) b', acc.2 + (if h ≤ done then 1 else 0))) (hs, 0)

/-- One valid minute enters the hour's mean, its day bucket and the pair sums; false when it is late. -/
def State.addMinute (s : State) (x : Grp) (r : MRow) (t : Nat) (c : Int) : MRow × Bool :=
  let day := t / 1440
  let today := s.sec / 86400
  if day + 7 < today || today < day || t + 2880 < s.sec / 60 then (r, false)
  else
    let h := t / 60
    let hb := hourAt r.hours h
    let hours := if s.hourIn h then Map.put r.hours (h % 48) { hb with vsum := hb.vsum + c, vn := hb.vn + 1 } else r.hours
    let cs := s.candidates x
    let fresh : DayB := ⟨day, 0, 0, 0, cs.map (fun _ => (0, 0, 0))⟩
    let d := match Map.get? r.days (day % 8) with
      | some d => if d.day = day then d else fresh
      | none => fresh
    let cand := cs.zipIdx.map (fun k =>
      let y := s.candCode k.1 t
      let p := d.cand.getD k.2 (0, 0, 0)
      (p.1 + y, p.2.1 + y.natAbs ^ 2, p.2.2 + c * y))
    let d' : DayB := { d with n := d.n + 1, sx := d.sx + c, sxx := d.sxx + c.natAbs ^ 2, cand := cand }
    ({ r with hours := hours, days := Map.put r.days (day % 8) d' }, true)

/-- The NEUTRAL state of a payload that carries both currents (Table 8-4). -/
def State.noteNeutral (s : State) (r : MRow) (b : Bytes) : MRow :=
  if leAt b 10 1 % 4 != 3 then r
  else
    let il := leSigned b 16 4
    let iw := leSigned b 20 4
    let bound := max (s.fld .BAL_THEFT_CFG1 0 0 15 0)
      (s.fld .BAL_THEFT_CFG0 0 0 31 24 * max il.natAbs iw.natAbs / 100)
    if bound < (il - iw).natAbs then
      let r' := { r with nbRun := r.nbRun + 1, nbHit := true }
      if s.fld .BAL_THEFT_CFG1 0 0 23 16 ≤ r'.nbRun then { r' with ind := r'.ind ||| 2 } else r'
    else { r with nbRun := 0 }

/-- A SERIES of a member. -/
def State.memberSeries (s : State) (x : Grp) (epx row : Nat) (b : Bytes) : List Effect :=
  let old := match Map.get? s.bal.members row with
    | some r => if r.epx = epx then r else MRow.bind epx
    | none => MRow.bind epx
  let g := s.block x.g
  let e := s.addEnergy g.lastHour old.hours (seriesIvals b)
  let r1 := { old with hours := e.1 }
  let vs := (seriesVolts b).filterMap (fun p => (x.code p.2).map (fun c => (p.1, c)))
  let v := vs.foldl (fun (acc : MRow × Nat) p =>
    let o := s.addMinute x acc.1 p.1 p.2
    (o.1, acc.2 + (if o.2 then 0 else 1))) (r1, e.2)
  let r2 := s.noteNeutral { v.1 with tamper := if leAt b 24 4 = 0 then v.1.tamper else leAt b 24 4 } b
  [.row (.member row (some r2)), countFx .BAL_SERIES_CNT]
    ++ (if v.2 = 0 then [] else [.count .BAL_LATE_CNT 0 0 v.2])
    ++ s.theftFx x.g (s.sec / 3600) g.state old r2

/-- A SERIES of a designated EPX feeds the reference rings of its group. -/
def State.refSeries (s : State) (x : Grp) (ps : List Nat) (b : Bytes) : List Effect :=
  let g := s.block x.g
  let p0 := ps.headD 1
  let e := s.addEnergy g.lastHour (g.energy.getD (p0 - 1) []) (seriesIvals b)
  let vs := (seriesVolts b).filterMap (fun p => (x.code p.2).map (fun c => (p.1, c)))
  let late := (vs.filter (fun p => decide (p.1 + 2880 < s.sec / 60) || decide (s.sec / 60 < p.1))).length + e.2
  let put (m : Map (Nat × Int)) : Map (Nat × Int) := vs.foldl (fun m p =>
    if decide (p.1 + 2880 < s.sec / 60) || decide (s.sec / 60 < p.1) then m
    else Map.put m (p.1 % 2880) (p.1, p.2)) m
  let g' := { g with
    energy := updAt g.energy (p0 - 1) (fun _ => e.1)
    volts := ps.foldl (fun l p => updAt l (p - 1) put) g.volts }
  [.row (.group x.g g'), countFx .BAL_SERIES_CNT] ++ (if late = 0 then [] else [.count .BAL_LATE_CNT 0 0 late])

/-- Run `f` on a running BALANCE manifest of a sub-operation: the host's, and a sub-operation that no row names, are
REJECTED (R244). -/
def State.onBal (s : State) (n op : Nat) (f : Manifest → State) : Host.Outcome State Fault Refusal :=
  s.onKind n kBalance (fun m =>
    if m.srcClass = 0 || m.kindArg % 16 = 0 || 6 ≤ m.kindArg % 16 then s.complete n stRejected [] []
    else if m.kindArg % 16 != op then s
    else f m)

/-- BALANCE SERIES. -/
def execBalanceSeries (slot : Nat) (s : State) : Host.Outcome State Fault Refusal :=
  s.onBal slot 1 (fun m =>
    s.withRecs slot m.epx (s.seriesLoads m.epx (s.record m.epx)) (fun s r =>
      match s.joined r with
      | none => (s, stOk, [countFx .BAL_UNBOUND_CNT])
      | some x =>
        match x.refPhases m.epx with
        | [] =>
          match s.ownRow r with
          | none => (s, stOk, [countFx .BAL_UNBOUND_CNT])
          | some n => (s, stOk, s.memberSeries x m.epx n m.buf)
        | ps => (s, stOk, s.refSeries x ps m.buf)))

/-! ### REF (R249) -/

/-- The front end's summary as its packet carries it: the TAI minute, the mean RMS voltages in mV, and A+ and A− in Ws. -/
def MinSum.wire (x : MinSum) (minute : Nat) : Bytes :=
  toLE 4 minute ++ x.v.flatMap (fun v => toLE 4 ((v + x.n / 2) / max 1 x.n)) ++ toLE 8 (x.aPlus / 8000000)
    ++ toLE 8 (x.aMinus / 8000000)

/-- BALANCE REF: the summary its payload carries; an empty one stages nothing. -/
def execBalanceRef (slot : Nat) (s : State) : Host.Outcome State Fault Refusal :=
  s.onBal slot 2 (fun m =>
    if m.buf.length < 32 then s.complete slot stOk [.site] []
    else
      let t := leAt m.buf 0 4
      let b := s.bal.site
      let h := siteHourAt b.hours (t / 60)
      let h' : SiteHour :=
        if h.minutes.testBit (t % 60) then h
        else { h with minutes := h.minutes ||| 2 ^ (t % 60), aPlus := h.aPlus + leAt m.buf 16 8,
                      aMinus := h.aMinus + leAt m.buf 24 8 }
      let volts := b.volts.zipIdx.map (fun e => Map.put e.1 (t % 2880) (t, leAt m.buf (4 + 4 * e.2) 4))
      s.complete slot stOk [.site] [.row (.site ⟨Map.put b.hours (t / 60 % 48) h', volts⟩)])

/-! ### HOUR (R250, R251, R254) -/

/-- Reference energy of an hour in Wh, when the reference has all 4 quarter-hours on every defined phase. -/
def State.refEnergy (s : State) (x : Grp) (b : GBlock) (h : Nat) : Int × Bool :=
  if x.site then
    let y := siteHourAt s.bal.site.hours h
    (((y.aPlus : Int) - y.aMinus).tdiv 3600, decide (y.minutes = 2 ^ 60 - 1))
  else
    let leads := (x.phases.map (fun p => (x.refPhases (x.ref p)).headD p)).eraseDups
    let bs := leads.map (fun p => hourAt (b.energy.getD (p - 1) []) h)
    ((bs.map (fun y => (y.aPlus : Int) - y.aMinus)).sum, bs.all (fun y => y.mask = 15) && !bs.isEmpty)

/-- The condition of an indicator held for an hour: its bit is set or its run of false hours grows (R254). -/
def clearStep (complete cond : Bool) (r : MRow) (k : Nat) : MRow :=
  if !complete then r
  else if cond then { r with clear := r.clear.set k 0 }
  else
    let n := r.clear.getD k 0 + 1
    if 24 ≤ n then { r with clear := r.clear.set k 0, ind := if r.ind.testBit k then r.ind - 2 ^ k else r.ind }
    else { r with clear := r.clear.set k n }

/-- The indicators of a bound row for an hour, over the group's state and loss_start (Table 8-4). -/
def State.rowHour (s : State) (x : Grp) (state lossStart h : Nat) (r : MRow) : MRow :=
  let b := hourAt r.hours h
  let full := decide (b.mask = 15)
  let rev := full && decide (s.fld .BAL_THEFT_CFG0 0 0 15 0 ≤ b.aMinus) && !r.prosumer
  let zero := full && decide (b.aPlus < s.fld .BAL_THEFT_CFG2 0 0 15 0) && decide (30 ≤ b.vn)
    && decide (-(x.nominal : Int) * 20 * b.vn ≤ b.vsum * 2500)
  let tamper := decide (state = 2) && r.tamper != 0
    && decide (((r.tamper : Int) - 3600 * lossStart).natAbs ≤ 3600 * s.fld .BAL_THEFT_CFG1 0 0 31 24)
  let r1 := if full then { r with
    revRun := if rev then r.revRun + 1 else 0, zeroRun := if zero then r.zeroRun + 1 else 0 } else r
  let on := (if full && decide (s.fld .BAL_THEFT_CFG0 0 0 23 16 ≤ r1.revRun) then 1 else 0)
    ||| (if full && decide (s.fld .BAL_THEFT_CFG2 0 0 31 16 ≤ r1.zeroRun) then 4 else 0)
    ||| (if tamper then 8 else 0)
  let r2 := { r1 with ind := r1.ind ||| on }
  let r3 := clearStep full tamper (clearStep full zero (clearStep full r2.nbHit (clearStep full rev r2 0) 1) 2) 3
  if full then { r3 with nbHit := false } else r3

/-- The evaluation of a group's hour (R250): the block, the free draws used, and the effects. -/
def State.evalHour (s : State) (x : Grp) (g : GBlock) (h bound complete : Nat) (sum : Int) :
    State × GBlock × List Effect :=
  let e := s.refEnergy x g h
  let eRef := e.1
  let g := { g with lastHour := h, bound := bound, complete := complete, partial' := (0, 0, 0, 0), parts := 0 }
  let report (s : State) (g : GBlock) (sEst rho : Nat) (res : Nat) : List Effect :=
    if x.report then
      [.hostMsg (s.balReport 0x21 x.g 0xFFFFFFFF h (toLE 4 (field 32 eRef) ++ toLE 4 sEst ++ toLE 2 rho
        ++ toLE 2 (field 16 g.base) ++ toLE 2 complete ++ toLE 2 bound ++ toLE 1 res))]
    else []
  if bound = 0 || !e.2 || eRef < (s.get .BAL_CFG2 0 0 : Int)
      || complete * 100 < s.fld .BAL_CFG0 0 0 17 11 * bound then
    let a := s.fresh
    let b := a.2.fresh
    (b.2, g, countFx .BAL_INCOMPLETE_CNT :: report b.2 g a.1 b.1 3)
  else
    let sEst := Int.tdiv (sum * bound) (max 1 complete)
    let d := s.fresh
    let rho := if eRef = 0 then toSigned 16 d.1 else Int.tdiv ((eRef - sEst) * 10000) eRef
    let s := if eRef = 0 then d.2 else s
    let learnH := s.fld .BAL_CFG1 0 0 31 20
    let g := { g with lastRho := rho }
    let r : GBlock × Nat :=
      if g.learned < learnH then
        ({ g with base := g.base + Int.tdiv (rho - g.base) (g.learned + 1), learned := g.learned + 1 }, 2)
      else if (s.fld .BAL_CFG1 0 0 15 0 : Int) < rho - g.base then
        ({ g with excess := min 63 (g.excess + 1), normal := 0 }, 1)
      else
        ({ g with base := g.base + Int.tdiv (rho - g.base) (2 ^ s.fld .BAL_CFG1 0 0 19 16),
                  normal := min 63 (g.normal + 1), excess := 0 }, 0)
    let g := r.1
    let g := if g.state = 0 && learnH ≤ g.learned then { g with state := 1 } else g
    let loss := g.state = 1 && decide (s.fld .BAL_CFG0 0 0 23 18 ≤ g.excess)
    let g := if loss then { g with state := 2, lossStart := h } else g
    let clear := g.state = 2 && !loss && decide (s.fld .BAL_CFG0 0 0 29 24 ≤ g.normal)
    let g := if clear then { g with state := 1 } else g
    (s, g, report s g (field 32 sEst) (field 16 rho) r.2
      ++ (if loss then
        [alarmFx x.g none (s.balReport 0x22 x.g 0xFFFFFFFF h (toLE 2 (field 16 rho) ++ toLE 2 (field 16 g.base)
          ++ toLE 1 g.excess)), .intr .BAL_INT 0 0] else [])
      ++ (if clear then
        [.hostMsg (s.balReport 0x23 x.g 0xFFFFFFFF h (toLE 2 (field 16 g.base) ++ toLE 1 g.normal)),
          .intr .BAL_INT 0 1] else []))

/-- The rows of a group from member `a`, up to `n`, bound or not (R244). -/
def rowKeys (x : Grp) (a n : Nat) : List RowKey :=
  (List.range (min x.rows (a + n) - a)).map (fun i => RowKey.member (x.first + a + i))

/-- The bound rows of a group from member `a`, up to `n`. -/
def State.boundRows (s : State) (x : Grp) (a n : Nat) : List (Nat × MRow) :=
  s.bal.members.filter (fun e => decide (x.first + a ≤ e.1) && decide (e.1 < x.first + min x.rows (a + n)))

/-- BALANCE HOUR: one part; the last part evaluates the hour. A part of an hour created again whose sums the block holds already
adds nothing (R251, R257). -/
def execBalanceHour (slot : Nat) (s : State) : Host.Outcome State Fault Refusal :=
  s.onBal slot 3 (fun m =>
    let p := m.kindArg / 16
    let h := leAt m.buf 0 4
    match s.liveGrp? (m.flow - groupFlow 0) with
    | none => s.complete slot stOk [] []
    | some x =>
      let g := s.block x.g
      let rows := s.boundRows x (1024 * p) 1024
      let loads := .group x.g :: (if x.site then [RowKey.site] else []) ++ rowKeys x (1024 * p) 1024
      if h ≤ g.lastHour || (g.partial'.1 = h && decide (p < g.parts)) then s.complete slot stOk loads []
      else
        let full := (rows.map (fun e => hourAt e.2.hours h)).filter (fun b => b.mask = 15)
        let old := if g.partial'.1 = h then g.partial' else (h, 0, 0, 0)
        let bound := old.2.1 + rows.length
        let complete := old.2.2.1 + full.length
        let sum := old.2.2.2 + (full.map (fun b => (b.aPlus : Int) - b.aMinus)).sum
        let last := decide (x.rows ≤ 1024 * (p + 1))
        let ev := if last then s.evalHour x g h bound complete sum
          else (s, { g with partial' := (h, bound, complete, sum), parts := p + 1 }, [])
        let g' := ev.2.1
        let marks := rows.map (fun e => (e.1, e.2, s.rowHour x g'.state g'.lossStart h e.2))
        ev.1.complete slot stOk loads (.row (.group x.g g') :: ev.2.2
          ++ marks.flatMap (fun e =>
            (if e.2.1 = e.2.2 then [] else [Effect.row (.member e.1 (some e.2.2))])
              ++ s.theftFx x.g h g'.state e.2.1 e.2.2)))

/-! ### TOPO (R252, R253) -/

/-- r of a candidate (R252), as the square of r with the sign of r: a fraction with a denominator above 0. -/
def corr (n sx : Int) (sxx : Nat) (sy : Int) (syy : Nat) (sxy : Int) : Int × Nat :=
  let den := ((n * sxx - sx * sx) * (n * syy - sy * sy)).toNat
  let num := n * sxy - sx * sy
  if den = 0 then (0, 1) else (Int.sign num * num ^ 2, den)

/-- r in permille, truncated toward zero. -/
def permille (r : Int × Nat) : Int :=
  let q : Int := isqrt (1000000 * r.1.natAbs / r.2)
  if r.1 < 0 then -q else q

/-- One r is less than another. -/
def corrLt (a b : Int × Nat) : Bool := decide (a.1 * b.2 < b.1 * a.2)

/-- r is at least `f` permille. -/
def corrGe (f : Nat) (r : Int × Nat) : Bool := decide (((f * f * r.2 : Nat) : Int) ≤ 1000000 * r.1)

/-- The larger `a` exceeds `b` by at least `m` permille, decided on the squares: √A - √B, √A + √B or √B - √A against √M, as their
signs are. -/
def marginGe (m : Nat) (a b : Int × Nat) : Bool :=
  let x : Int := 1000000 * a.1.natAbs * b.2
  let y : Int := 1000000 * b.1.natAbs * a.2
  let z : Int := (m * m * a.2 * b.2 : Nat)
  let apart (x y : Int) : Bool := decide (0 ≤ x - y - z) && decide (4 * y * z ≤ (x - y - z) ^ 2)
  if 0 ≤ b.1 then apart x y
  else if 0 ≤ a.1 then decide (z ≤ x + y) || decide ((z - x - y) ^ 2 ≤ 4 * x * y)
  else apart y x

/-- The largest of a list of r by index, the lower index on a tie. -/
def bestIdx : List (Nat × (Int × Nat)) → Option (Nat × (Int × Nat))
  | [] => none
  | e :: es =>
    match bestIdx es with
    | none => some e
    | some b => if corrLt e.2 b.2 then some b else some e

/-- A row without a best candidate: class NONE, and no result stated for the rest (assumption 2). -/
def State.inferNone (s : State) (n d : Nat) : State × TopoRes :=
  let a := s.fresh
  let b := a.2.fresh
  let c := b.2.fresh
  (c.2, ⟨0, a.1 % 2 ^ 16, a.1 / 2 ^ 16 % 4, toSigned 16 b.1, c.1 % 2 ^ 16, c.1 / 2 ^ 16 % 4,
    toSigned 16 (b.1 / 2 ^ 16), bit c.1 31, n, d⟩)

/-- A row with the best candidate `k` at `rb`; with no second, its place is not stated (assumption 2). -/
def State.inferBest (s : State) (x : Grp) (cs : List (Nat × Nat)) (rs : List (Nat × (Int × Nat))) (k : Nat) (rb : Int × Nat) (n d : Nat) :
    State × TopoRes :=
  let best := cs.getD k (0, 0)
  let mis := !(best.1 = x.g && x.phases.contains best.2)
  let second := bestIdx (rs.filter (·.1 ≠ k))
  let r2 := (second.map (·.2)).getD (0, 1)
  let ge (f m : Nat) : Bool := corrGe f rb && marginGe m rb r2
  let cls := if ge (s.fld .BAL_TOPO_CFG0 0 0 25 16) (s.fld .BAL_TOPO_CFG1 0 0 9 0) then 3
    else if ge (s.fld .BAL_TOPO_CFG1 0 0 19 10) (s.fld .BAL_TOPO_CFG1 0 0 29 20) then 2 else 1
  match second with
  | some e => (s, ⟨cls, best.1, best.2, permille rb, (cs.getD e.1 (0, 0)).1, (cs.getD e.1 (0, 0)).2, permille r2, mis, n, d⟩)
  | none =>
    let f := s.fresh
    (f.2, ⟨cls, best.1, best.2, permille rb, f.1 % 2 ^ 16, f.1 / 2 ^ 16 % 4, permille r2, mis, n, d⟩)

/-- Evaluate a bound row for a day (R252): the result and the free draws it used. -/
def State.inferRow (s : State) (x : Grp) (d : Nat) (r : MRow) : State × TopoRes :=
  let cs := s.candidates x
  let ds := (Map.vals r.days).filter (fun b => decide (d ≤ b.day + 6) && decide (b.day ≤ d))
  let n : Nat := (ds.map (·.n)).sum
  let sx := (ds.map (·.sx)).sum
  let sxx := (ds.map (·.sxx)).sum
  let rs : List (Nat × (Int × Nat)) := (List.range cs.length).map (fun k =>
    let ps := ds.map (fun b => b.cand.getD k (0, 0, 0))
    (k, corr (n : Int) sx sxx (ps.map (·.1)).sum (ps.map (·.2.1)).sum (ps.map (·.2.2)).sum))
  match if n < s.fld .BAL_TOPO_CFG0 0 0 15 0 then none else bestIdx rs with
  | none => s.inferNone n d
  | some (k, rb) => s.inferBest x cs rs k rb n d

/-- Best, class or mismatch differs from the last result. -/
def TopoRes.differs (a b : TopoRes) : Bool :=
  a.cls != b.cls || (a.cls != 0 && (a.bestG != b.bestG || a.bestP != b.bestP || a.mismatch != b.mismatch))

/-- The TOPO report of a row. -/
def State.topoReport (s : State) (g epx : Nat) (r : TopoRes) : Bytes :=
  s.balReport 0x25 g epx r.day (toLE 2 r.bestG ++ toLE 1 r.bestP ++ toLE 1 r.cls ++ toLE 2 (ofSigned 16 r.rBest)
    ++ toLE 2 (ofSigned 16 r.rSecond) ++ toLE 2 r.secondG ++ toLE 1 r.secondP ++ toLE 1 (b2n r.mismatch) ++ toLE 4 r.n)

/-- BALANCE TOPO: the 16 rows of a block. -/
def execBalanceTopo (slot : Nat) (s : State) : Host.Outcome State Fault Refusal :=
  s.onBal slot 4 (fun m =>
    let k := m.kindArg / 16
    let d := leAt m.buf 0 4
    match s.liveGrp? (m.flow - groupFlow 0) with
    | none => s.complete slot stOk [] []
    | some x =>
      let rows := s.boundRows x (16 * k) 16
      let out := rows.foldl (fun (acc : State × List Effect) e =>
        let i := acc.1.inferRow x d e.2
        (i.1, acc.2 ++ .row (.member e.1 (some { e.2 with last := i.2 })) ::
          (if i.2.differs e.2.last then [.hostMsg (s.topoReport x.g e.2.epx i.2)] else []))) (s, [])
      out.1.complete slot stOk (rowKeys x (16 * k) 16) out.2)

/-! ### SET and the query registers (R260) -/

/-- BALANCE SET: the command that the manifest carries (assumption 27). -/
def execBalanceSet (slot : Nat) (s : State) : Host.Outcome State Fault Refusal :=
  s.onBal slot 5 (fun m =>
    let op := leAt m.buf 0 1
    let target := leAt m.buf 4 4
    if op = 3 then
      let g := s.block target
      let lh := s.fld .BAL_CFG1 0 0 31 20
      s.complete slot stOk [.group target] [.row (.group target { g with
        base := leSigned m.buf 2 2, learned := lh, state := if g.state = 0 then 1 else g.state })]
    else
      let own := (s.ownRow (s.record target)).toList.map RowKey.member
      match s.boundRow target with
      | none => s.complete slot stOk own []
      | some n =>
        match Map.get? s.bal.members n with
        | none => s.complete slot stOk own []
        | some r =>
          s.complete slot stOk (.member n :: own) [.row (.member n
            (if op = 4 then none else some { r with prosumer := bit (leAt m.buf 1 1) 0 }))])

/-- A query ends: valid, busy clear, and the result. -/
def State.endQuery (s : State) (result : Nat) : State := s.set .BAL_QUERY_STATUS 0 0 (2 + result * 4)

/-- A BAL.QUERY_CMD of one op that is started: go set, and not busy. -/
def State.onQuery (s : State) (val : Word) (op : Nat) (f : Nat → State) : Host.Outcome State Fault Refusal :=
  let v := val.toNat
  if bit v 31 && bits v 24 22 = op && !s.flag .BAL_QUERY_STATUS 0 0 0 then .next (f (bits v 21 0)) else .next s

/-- The four words of QUERY_DATA. -/
def State.queryData (s : State) (ws : List Nat) : State :=
  ((List.range 4).foldl (fun s i => s.set .BAL_QUERY_DATA i 0 (ws.getD i 0)) s).endQuery 0

/-- GROUP. -/
def execBalQueryGroup (val : Word) (s : State) : Host.Outcome State Fault Refusal :=
  if s.hostHeld then .next s else
  s.onQuery val 0 (fun t =>
    match s.liveGrp? t with
    | none => s.endQuery 1
    | some _ =>
      let g := s.block t
      s.queryData [g.state + g.excess % 64 * 2 ^ 2 + g.normal % 64 * 2 ^ 8 + g.learned % 4096 * 2 ^ 14,
        field 16 g.base + field 16 g.lastRho * 2 ^ 16, g.lastHour, g.bound + g.complete * 2 ^ 16])

/-- MEMBER. -/
def execBalQueryMember (val : Word) (s : State) : Host.Outcome State Fault Refusal :=
  if s.hostHeld then .next s else
  s.onQuery val 1 (fun t =>
    match (s.boundRow t).bind (Map.get? s.bal.members) with
    | none => s.endQuery 1
    | some r =>
      let l := r.last
      s.queryData [l.bestG + l.bestP % 4 * 2 ^ 16 + l.cls * 2 ^ 18 + r.ind * 2 ^ 20 + b2n r.prosumer * 2 ^ 24 + 2 ^ 25
          + b2n l.mismatch * 2 ^ 26,
        ofSigned 16 l.rBest + ofSigned 16 l.rSecond * 2 ^ 16, l.n, l.day])

/-- Create the SET manifest of a query command on a group's flow; REFUSED when the function is not RUNNING or the
manifest is not created. -/
def State.makeBalSet (s : State) (op g target : Nat) : State :=
  if !s.fnRunning 0x11 then s.endQuery 2
  else
    let body := toLE 1 op ++ toLE 1 (s.fld .BAL_QUERY_ARG 0 0 0 0) ++ toLE 2 (s.fld .BAL_QUERY_ARG 0 0 31 16) ++ toLE 4 target
    let c := s.create { Manifest.zero with
      kind := kBalance, kindArg := 5, flow := groupFlow g, srcClass := 4, srcIndex := 60, length := 8, buf := body }
    if c.2 then c.1.set .BAL_QUERY_STATUS 0 0 1 else c.1.endQuery 2

/-- The group whose rows hold a row. -/
def State.groupOfRow (s : State) (n : Nat) : Nat :=
  ((s.grps.find? (fun x => decide (x.first ≤ n) && decide (n < x.first + x.rows))).map (·.g)).getD 0

/-- A SET command on the row bound to an EPX. -/
def State.rowSet (s : State) (op epx : Nat) : State :=
  match s.boundRow epx with
  | none => s.endQuery 1
  | some n => s.makeBalSet op (s.groupOfRow n) epx

/-- SET_FLAGS. -/
def execBalSetFlags (val : Word) (s : State) : Host.Outcome State Fault Refusal :=
  if s.hostHeld then .next s else s.onQuery val 2 (s.rowSet 2)

/-- SET_BASE. -/
def execBalSetBase (val : Word) (s : State) : Host.Outcome State Fault Refusal :=
  if s.hostHeld then .next s else
  s.onQuery val 3 (fun t =>
    match s.liveGrp? t with
    | none => s.endQuery 1
    | some _ => s.makeBalSet 3 t t)

/-- UNBIND. -/
def execBalUnbind (val : Word) (s : State) : Host.Outcome State Fault Refusal :=
  if s.hostHeld then .next s else s.onQuery val 4 (s.rowSet 4)

/-! ### Instants (R245, R250-R252, R256) -/

/-- The balance function creates its manifests now. -/
def State.balOn (s : State) : Bool := s.fnRunning 0x11 && decide (s.quality ≤ 6)

/-- A TAI minute is reached: the metrology front end writes the minute's summary into its signal FIFO as the REF packet (R249,
Table 16-5). -/
def execRefMinuteDue (s : State) : Host.Outcome State Fault Refusal :=
  let t := s.sec / 60 - 1
  if s.balOn && decide (s.bal.refMark < t) then
    let body := match Map.get? s.bal.mins t with
      | some x => x.wire t
      | none => toLE 4 t
    .next ((s.modBal (fun b => { b with refMark := t })).fifoPut 21
      ⟨kBalance, 2, 0xFFFFFF, none, ⟨4, 61, 0, s.nsec, s.sec, s.quality, 0⟩, body⟩).1
  else .next s

/-- The HOUR manifests of an hour, by group and part. -/
def State.makeHour (s : State) (h : Nat) : State :=
  let s := if s.balOpen 3 then s.raise .BAL_INT 0 4 else s
  let s := (s.grps.filter (·.enabled)).foldl (fun s x =>
    (List.range (ceilDiv x.rows 1024)).foldl (fun s p =>
      s.make kBalance (3 + 16 * p) (groupFlow x.g) 4 62 none (toLE 4 h)) s) s
  (s.modBal (fun b => { b with hourMark := h })).set .BAL_LAST_HOUR 0 0 h

/-- Numbers from `a` to `b`. -/
def fromTo (a b : Nat) : List Nat := (List.range (b + 1 - a)).map (a + ·)

/-- Hours fall due (R250, R251): each is created in order, of those that the device missed as far back as the 48-hour ring
reached when it could create again (R256, assumption 64). -/
def execHourDue (s : State) : Host.Outcome State Fault Refusal :=
  let settle := 60 * s.fld .BAL_CFG0 0 0 10 0
  let ended := (s.sec - settle) / 3600
  if s.balOn && decide (1 ≤ ended) then
    .next ((fromTo (max (s.bal.hourMark + 1) (s.bal.dueFrom / 3600 - 47)) (ended - 1)).foldl State.makeHour s)
  else .next s

/-- The TOPO manifests of a day, by group and block. -/
def State.makeTopo (s : State) (d : Nat) : State :=
  let s := (s.grps.filter (·.enabled)).foldl (fun s x =>
    (List.range (ceilDiv x.rows 16)).foldl (fun s k =>
      s.make kBalance (4 + 16 * k) (groupFlow x.g) 4 63 none (toLE 4 d)) s) s
  let open' := s.balOpen 4
  (s.modBal (fun b => { b with dayMark := d, topoDay := if open' then some d else b.topoDay })).set .BAL_LAST_DAY 0 0 d

/-- Days fall due (R252), as far back as the 8 day buckets reached after a time of none (R256, assumption 64). -/
def execTopoDue (s : State) : Host.Outcome State Fault Refusal :=
  let settle := 60 * s.fld .BAL_CFG0 0 0 10 0
  let ended := (s.sec - settle) / 86400
  if s.balOn && decide (1 ≤ ended) then
    .next ((fromTo (max (s.bal.dayMark + 1) (s.bal.dueFrom / 86400 - 7)) (ended - 1)).foldl State.makeTopo s)
  else .next s

/-! ### Release, stop and deltas -/

/-- What the release of a BALANCE manifest does beyond its effects: the query's result, and the end of a day's TOPO
(R252, R260). A cancelled one has ended with its function. -/
def State.balReleased (s : State) (m : Manifest) (ok : Bool) : State :=
  if m.srcClass != 4 || m.status = 4 then s
  else if m.kindArg % 16 = 5 then s.endQuery (if ok then 0 else 2)
  else if m.kindArg % 16 = 4 && s.bal.topoDay.isSome && !s.balOpen 4 then
    (s.modBal (fun b => { b with topoDay := none })).raise .BAL_INT 0 3
  else s

/-- Latest number of the periods of `n` s that are due at a time. -/
def State.dueMark (s : State) (n : Nat) : Nat := (s.sec - 60 * s.fld .BAL_CFG0 0 0 10 0) / n - 1

/-- Function 0x11 reaches RUNNING (R256, R257): what was due before its first start after a reset is not created
(assumption 64). -/
def State.balStart (s : State) : State :=
  match s.bal.first with
  | some _ => s.modBal (fun b => { b with dueFrom := s.sec })
  | none =>
    let h := s.dueMark 3600
    let d := s.dueMark 86400
    s.modBal (fun b => { b with dueFrom := s.sec, first := some (h, d), hourMark := h, dayMark := d })

/-- Function 0x11 has stopped: a SET in progress is REFUSED (R260). What its end cancelled falls due again (R257). -/
def State.balOff (s : State) : State := if s.flag .BAL_QUERY_STATUS 0 0 0 then s.endQuery 2 else s

/-- The settings of the BALANCE section, shown in BAL.CFG (Tables 8-6 and 8-9). -/
def State.balConfig (s : State) : State :=
  let i (type o n d : Nat) : Nat := s.itemLE 0xA0 type o n d
  let s := s.set .BAL_CFG0 0 0 (i 1 0 2 120 % 2 ^ 11 + i 1 2 1 95 % 2 ^ 7 * 2 ^ 11 + i 1 3 1 6 % 2 ^ 6 * 2 ^ 18
    + i 1 4 1 6 % 2 ^ 6 * 2 ^ 24)
  let s := s.set .BAL_CFG1 0 0 (i 1 6 2 300 + i 1 5 1 7 % 2 ^ 4 * 2 ^ 16 + i 1 8 2 168 % 2 ^ 12 * 2 ^ 20)
  let s := s.set .BAL_CFG2 0 0 (i 1 10 4 1000)
  let s := s.set .BAL_TOPO_CFG0 0 0 (i 4 0 2 4320 + i 4 2 2 900 % 2 ^ 10 * 2 ^ 16)
  let s := s.set .BAL_TOPO_CFG1 0 0 (i 4 4 2 50 % 2 ^ 10 + i 4 6 2 700 % 2 ^ 10 * 2 ^ 10 + i 4 8 2 20 % 2 ^ 10 * 2 ^ 20)
  let s := s.set .BAL_THEFT_CFG0 0 0 (i 5 0 2 10 + i 5 2 1 3 * 2 ^ 16 + i 5 3 1 20 * 2 ^ 24)
  let s := s.set .BAL_THEFT_CFG1 0 0 (i 5 4 2 500 + i 5 6 1 3 * 2 ^ 16 + i 5 7 1 24 * 2 ^ 24)
  s.set .BAL_THEFT_CFG2 0 0 (i 5 8 2 1 + i 5 10 2 72 * 2 ^ 16)

/-- A delta has changed the BALANCE section (R253, R257): a group whose rows or reference changed is reset, and a group
whose candidates changed loses its pair sums. -/
def State.balDelta (old : State) (s : State) : State :=
  s.grps.foldl (fun s x =>
    match old.grp? x.g with
    | none => s
    | some y =>
      if x.first != y.first || x.rows != y.rows || x.site != y.site || x.phases != y.phases || x.refs != y.refs then
        s.modBal (fun b => { b with
          groups := Map.del b.groups x.g
          members := Map.keep b.members (fun n _ => !(decide (y.first ≤ n) && decide (n < y.first + y.rows)
            || decide (x.first ≤ n) && decide (n < x.first + x.rows))) })
      else if old.candidates y != s.candidates x then
        let wipe (r : MRow) : MRow :=
          { r with days := r.days.map (fun e => (e.1, { e.2 with cand := e.2.cand.map (fun _ => (0, 0, 0)) })) }
        s.modBal (fun b => { b with members := b.members.map (fun e =>
          if decide (x.first ≤ e.1) && decide (e.1 < x.first + x.rows) then (e.1, wipe e.2) else e) })
      else s) s

end Sys2Proof.Machine
end

