-- ==== Sys2Proof/Machine/Time.lean ====
section
/-!
DEFINITION. The timebase: ticks, quality, sources and discipline, corrections, captures and triggers (R284-R305).
-/
namespace Sys2Proof.Machine

/-! ### The counter (R284, R285) -/

/-- The timebase in 2⁻¹⁶ ns. -/
def State.now16 (s : State) : Nat := 2 ^ 16 * s.time.ns + s.time.frac % 2 ^ 16

/-- Slew rate in 2⁻⁴⁰ (R292). -/
def State.slewRate (s : State) : Nat := s.fld .TIME_CFG0 0 0 6 0 * 2 ^ 40 / 1000000

/-- The slew part of k: toward the error left. -/
def State.slewK (s : State) : Int :=
  if s.time.slew = 0 then 0 else if s.time.slew < 0 then -(s.slewRate : Int) else s.slewRate

/-- What a slew still to run shows: RESIDUAL and slewing; RATE is the adjustment with the slew (Tables 10-7, 10-8). -/
def State.showRate (s : State) : State :=
  let s := s.set .TIME_RATE 0 0 (ofSigned 32 (s.time.adj + s.slewK))
  let s := s.set .TIME_RESIDUAL 0 0 (ofSigned 32 (satSigned 32 (s.time.slew / (2 ^ 56 : Nat))))
  (s.setFlag .TIME_STATUS 0 0 11 (s.time.slew != 0)).notePpm

/-- The Customs residual shrinks by 500 ppm of the time that passes, in 2⁻⁵⁶ ns (R208). -/
def State.absorb (s : State) (inc : Nat) : State :=
  let d : Int := inc * 500 / 1000000
  s.modCustoms (fun c => { c with
    resid := if 0 < c.resid then max 0 (c.resid - d) else min 0 (c.resid + d) })

/-! ### Civil offset (R286) -/

/-- TAI − UTC at a TAI second, from the leap-second table; 0 before its first entry. -/
def State.leapAt (s : State) (sec : Nat) : Nat :=
  ((s.items 0xC0 8).filter (fun v => decide (leAt v 0 6 ≤ sec))).foldl (fun _ v => leAt v 6 1) 0

/-- What a source announces differs from the table: flagged, and recorded once (R286). -/
def State.leapDiffers (s : State) (src utc : Nat) : State :=
  if s.flag .TIME_STATUS 0 0 13 then s
  else ((s.setFlag .TIME_STATUS 0 0 13 true).raise .TIME_INT 0 5).event 0x0D03 src utc

/-- A source announces a TAI − UTC for the current time (R286). -/
def State.noteUtc (s : State) (src utc : Nat) : State := if utc = s.leapAt s.sec then s else s.leapDiffers src utc

/-- A source announces a leap second, which the table may not hold (R286). -/
def State.noteLeap (s : State) (src : Nat) (leap : Nat × Nat) : State :=
  if (s.items 0xC0 8).any (fun v => leAt v 0 6 = leap.1 && leAt v 6 1 = leap.2) then s else s.leapDiffers src leap.2

/-! ### Quality and uncertainty (R287, R288, R291) -/

/-- osc_tol and temp_ppb in ppb (Table 10-6). -/
def State.oscTol (s : State) : Nat := s.itemLE 0xC0 2 0 2 100

/-- temp_ppb. -/
def State.tempPpb (s : State) : Nat := s.itemLE 0xC0 2 2 2 50

/-- ka_ppm of the OSC item. -/
def State.kaPpm (s : State) : Nat := s.itemLE 0xC0 2 6 1 100

/-- e0 of a timebase loaded from the keepalive count: the drift over its age, and 1 ms (R294, Table 10-1). -/
def State.keepaliveError (s : State) : Nat := s.kaPpm * 1000 * s.time.kaAge + 1000000

/-- Discipline state: 0 FREERUN, 1 LOCKING, 2 LOCKED, 3 HOLDOVER. -/
def State.discipline (s : State) : Nat := s.fld .TIME_STATUS 0 0 5 4

/-- The selected source. -/
def State.selected (s : State) : Nat := s.fld .TIME_STATUS 0 0 8 6

/-- The time is again better than free-run from the keepalive clock: R256's reach counts from `t` (assumption 64). -/
def State.noteReturn (s : State) (q t : Nat) : State :=
  if 6 < s.quality && decide (q ≤ 6) then s.modBal (fun b => { b with dueFrom := t }) else s

/-- Change the quality (R290). -/
def State.setQuality (s : State) (q : Nat) : State :=
  if s.quality = q then s else ((s.noteReturn q s.sec).setFld .TIME_STATUS 0 0 3 0 q).raise .TIME_INT 0 4

/-- Change discipline state and source (R290). -/
def State.setDiscipline (s : State) (st src : Nat) : State :=
  if s.discipline = st && s.selected = src then s
  else ((s.setFld .TIME_STATUS 0 0 5 4 st).setFld .TIME_STATUS 0 0 8 6 src).raise .TIME_INT 0 3

/-- TIME_UNC in ns and FREQ_UNC in 0.001 ppb now, rounded up (R287, R291). -/
def State.uncertainty (s : State) : Nat × Nat :=
  let t := s.time.ns - s.time.refAt
  let e0 := s.time.e0
  let f0 := s.time.f0
  let a := max (s.itemLE 0xC0 2 4 2 100) s.time.ageing
  let model : Nat × Nat :=
    (e0 + ceilDiv ((f0 + s.tempPpb * 1000) * t * 17280000000000000 + a * t * t * 1000)
        (17280000000000000 * 1000000000000),
      f0 + s.tempPpb * 1000 + ceilDiv (a * t) (8640 * 1000000000))
  if s.quality = 8 then (0xFFFFFFFF, s.oscTol * 1000)
  else if s.quality = 6 || s.quality = 7 then (e0 + ceilDiv (s.oscTol * t) 1000000000, s.oscTol * 1000)
  else if s.quality = 4 || s.quality = 5 then model
  else (e0, f0)

/-- Publish TIME_UNC and FREQ_UNC, and move between codes 4 and 5 in HOLDOVER (R288, Table 10-1). -/
def State.publish (s : State) : State :=
  let s := if s.discipline = 3 then
      s.setQuality (if s.get .TIME_CFG1 0 0 < s.uncertainty.1 then 5 else 4) else s
  let u := s.uncertainty
  ((s.set .TIME_TIME_UNC 0 0 (min 0xFFFFFFFF u.1)).set .TIME_FREQ_UNC 0 0 (min 0xFFFFFFFF u.2)).notePpm

/-- The position mode: 1 FIXED, 2 BASE, 0 NAV (R299). -/
def State.posMode (s : State) : Nat :=
  if !(s.items 0xC0 3).isEmpty then 1 else if s.fld .CRAFT_STATUS 0 0 4 3 = 2 then 2 else 0

/-- Quality, e0 and f0 of a source LOCKED (Table 10-1). -/
def State.lockQuality (s : State) (src : Nat) : Nat × Nat × Nat :=
  match src with
  | 1 => if s.posMode = 0 then (1, 30, 100) else (0, 10, 100)
  | 2 =>
    let c := s.fld .TIME_PTP_PORT (s.fld .TIME_STATUS 0 0 10 9) 0 15 8
    (if c = 7 || c = 14 then 4 else 2, 100, 1000)
  | _ => (3, 50, 500)

/-! ### The discipline (R289-R292) -/

/-- A source, by its code 1-3. -/
def State.source (s : State) (c : Nat) : TimeSource := s.time.sources.getD (c - 1) TimeSource.start

/-- Change a source. -/
def State.setSource (s : State) (c : Nat) (x : TimeSource) : State :=
  s.modTime (fun t => { t with sources := updAt t.sources (c - 1) (fun _ => x) })

/-- The listed sources, highest priority first (R289). -/
def State.listed (s : State) : List Nat :=
  ((List.range 4).map (fun i => s.itemLE 0xC0 1 i 1 0)).filter (fun c => decide (1 ≤ c) && decide (c ≤ 3))

/-- The highest listed source that is LOCKED. -/
def State.bestSource (s : State) : Option Nat := s.listed.find? (fun c => (s.source c).state = 1)

/-- LOCKED on the selected source (R290). -/
def State.enterLocked (s : State) : State :=
  let src := s.selected
  let q := s.lockQuality src
  let s := (s.setDiscipline 2 src).setQuality q.1
  let mark : TimeState → TimeState := fun t => { t with e0 := q.2.1, f0 := q.2.2, refAt := t.ns }
  (s.modTime mark).raise .TIME_INT 0 2

/-- LOCKING ends when no step is scheduled and the slew residual is at most 1 µs (R290). -/
def State.settle (s : State) : State :=
  if s.discipline = 1 && s.time.step.isNone && decide (s.time.slew.natAbs ≤ 1000 * 2 ^ 56) then s.enterLocked else s

/-! ### Time passes (R284, R290) -/

/-- One TIME tick: 2.5 ns × (1 + k), in 2⁻⁵⁶ ns, with the remainder carried (R284); the slew takes its part, and LOCKING ends when its
residual has fallen to 1 µs (R290). -/
def State.tick (s : State) : State :=
  let part : Int := 163840 * s.slewK
  let part := if s.time.slew.natAbs < part.natAbs then s.time.slew else part
  let inc : Nat := ((163840 * 2 ^ 40 : Nat) + 163840 * s.time.adj + part).toNat
  let sum := s.time.rem + inc
  let frac := s.time.frac + sum / 2 ^ 40
  ((s.modTime (fun t => { t with
    rem := sum % 2 ^ 40, frac := frac % 2 ^ 16, ns := t.ns + frac / 2 ^ 16, slew := t.slew - part })).absorb inc).showRate.settle

/-- Advance to an instant in 2⁻¹⁶ ns that has not passed: a slew takes its part of the time, as in each tick of it. -/
def State.advance16 (s : State) (at16 : Nat) : State :=
  if s.now16 < at16 then
    let inc : Nat := (at16 - s.now16) * 2 ^ 40
    let at' : TimeState → TimeState := fun t => { t with ns := at16 / 2 ^ 16, frac := at16 % 2 ^ 16, rem := 0 }
    if s.time.slew = 0 then (s.modTime at').absorb inc
    else
      let part : Int := (inc : Int) * s.slewK / (2 ^ 40 + s.time.adj + s.slewK)
      let part := if s.time.slew.natAbs < part.natAbs then s.time.slew else part
      ((s.modTime (fun t => { at' t with slew := t.slew - part })).absorb inc).showRate.settle
  else s

/-- Advance to an instant in ns. -/
def State.advanceTo (s : State) (ns : Nat) : State := s.advance16 (2 ^ 16 * ns)

/-! ### Corrections (R292, R293) -/

/-- Apply a measured error, in 2⁻¹⁶ ns, as a slew or a scheduled step (R292, R293). -/
def State.correct (s : State) (e : Int) : State :=
  let s := s.set .TIME_OFFSET 0 0 (ofSigned 32 (satSigned 32 (Int.tdiv e (2 ^ 16 : Nat))))
  let late := match s.time.step with
    | some (sec, _) => decide (1000000000 * sec < s.time.ns + 1000000)
    | none => false
  if late then s.modTime (fun t => { t with lateErr := some e })
  else
    let mark : TimeState → TimeState := fun t =>
      if e.natAbs < 1000000 * 2 ^ 16 then { t with slew := e * (2 ^ 40 : Nat), step := none, lateErr := none }
      else { t with slew := 0, step := some ((t.step.map (·.1)).getD (t.ns / 1000000000 + 1), e), lateErr := none }
    (s.modTime mark).showRate.settle

/-- The discipline takes a source that is LOCKED and corrects by its error (R290, R292). -/
def State.lockOn (s : State) (c : Nat) : State := (s.setDiscipline 1 c).correct (s.source c).err

/-- Mean of a list of adjustments, toward zero. -/
def meanInt (l : List Int) : Int := if l.isEmpty then 0 else Int.tdiv l.sum l.length

/-- HOLDOVER: the rate is frozen at its mean over the last 60 s of LOCKED (R291). -/
def State.enterHoldover (s : State) : State :=
  let src := s.selected
  let mark : TimeState → TimeState := fun t =>
    { t with adj := if t.history.isEmpty then t.adj else meanInt (t.history.take 60), refAt := t.ns }
  let s := ((s.modTime mark).setDiscipline 3 src).setQuality 4
  ((s.showRate.raise .TIME_INT 0 1).event 0x0D02 src 0).publish

/-- A listed source has become LOCKED (R290). -/
def State.sourceLocked (s : State) (c : Nat) : State :=
  if s.listed.contains c && (s.discipline = 0 || s.discipline = 3) then s.lockOn c else s

/-- A source has become LOST (R290). A source lost in LOCKING leaves the state it would leave from LOCKED, and FREERUN
when the timebase was never LOCKED (assumption 22). A step that is scheduled stays so (R293). -/
def State.sourceLost (s : State) (c : Nat) : State :=
  if (s.discipline = 2 || s.discipline = 1) && s.selected = c then
    match s.bestSource with
    | some d => s.lockOn d
    | none =>
      if s.discipline = 1 && 6 ≤ s.quality then s.setDiscipline 0 c else s.enterHoldover
  else s

/-- Take one observation of a source: `n` consecutive good ones lock it, `m` consecutive bad ones lose it (Table 10-2).
A new error of the selected source while LOCKED is measured again (R292). -/
def State.observeSource (s : State) (c n m : Nat) (ok : Bool) (err : Int) (measure : Bool) : State :=
  let x := s.source c
  if ok then
    let x' := { x with good := x.good + 1, bad := 0, err := err }
    if x.state != 1 && n ≤ x'.good then
      (s.setSource c { x' with state := 1, since := s.time.ns }).sourceLocked c
    else
      let s := s.setSource c x'
      if measure && x.state = 1 && s.selected = c && (s.discipline = 1 || s.discipline = 2) then s.correct err else s
  else
    let x' := { x with good := 0, bad := x.bad + 1 }
    if x.state = 1 && m ≤ x'.bad then (s.setSource c { x' with state := 2 }).sourceLost c
    else s.setSource c (if x.state = 1 then x' else { x' with state := if m ≤ x'.bad then 2 else x.state })

/-- A source is LOST at once. -/
def State.loseSource (s : State) (c : Nat) : State :=
  let x := s.source c
  let s' := s.setSource c { x with state := 2, good := 0 }
  if x.state = 1 then s'.sourceLost c else s'

/-! ### GNSS (R289, R297, R299) -/

/-- Note a GNSS source change in GNSS.INT and LOSS_CNT (Tables 10-12, 10-13). -/
def State.noteGnss (old : State) (s : State) : State :=
  let a := (old.source 1).state
  let b := (s.source 1).state
  let s := if b = 1 && a != 1 then s.raise .GNSS_INT 0 0 else s
  if b = 2 && a != 2 then (s.count .GNSS_LOSS_CNT 0 0 1).raise .GNSS_INT 0 1 else s

/-- The error that a solution gives, in 2⁻¹⁶ ns: its system's time converted to TAI and less the antenna delay of 0.25 ns units, against
the timebase (R286, R297). -/
def State.gnssErr (s : State) (g : GnssSol) : Int :=
  2 ^ 16 * (((g.t + 1000000000 * (if g.sys = 2 then 33 else 19) : Nat) : Int) - g.at')
    - 2 ^ 14 * toSigned 16 (s.fld .GNSS_CFG0 0 0 15 0)

/-- A constellation is set in the GNSS item (R297). -/
def State.tracks (s : State) (sys : Nat) : Bool := decide (sys < 3) && bit (s.fld .GNSS_CFG0 0 0 25 23) sys

/-- The satellites tracked: of constellations set in the GNSS item, at or above its elev_mask (R297). -/
def State.tracked (s : State) (g : GnssSol) : List GnssSat :=
  g.sats.filter (fun x => s.tracks x.sys && decide (((1000 * s.fld .GNSS_CFG0 0 0 22 16 : Nat) : Int) ≤ x.elev))

/-- Satellites in the solution: of those tracked. -/
def State.gnssUsed (s : State) (g : GnssSol) : Nat := min g.used (s.tracked g).length

/-- Tracking channels in use, of 96: a satellite seen on both bands takes two while L5 is in use (R297). -/
def State.gnssBusy (s : State) (g : GnssSol) : Nat :=
  min 96 (((s.tracked g).map (fun x => if x.both && s.flag .GNSS_CFG0 0 0 26 then 2 else 1)).sum)

/-- The kind of a start of the baseband: 2 HOT, 1 WARM, 0 COLD (R298, assumption 66). -/
def State.startKind (s : State) : Nat :=
  let unc := s.uncertainty.1
  match s.time.aid with
  | none => 0
  | some t =>
    if s.quality ≤ 7 && decide (unc < 1000000000) && decide (s.sec < t + 14400) then 2
    else if unc < 10000000000 then 1 else 0

/-- Publish what the baseband observed (Tables 10-12, 10-13). -/
def State.gnssWords (s : State) (g : GnssSol) : State :=
  let pos : Nat → Nat := fun i => ofSigned 64 (g.pos.getD i 0)
  let sats : Nat → Nat := fun i => ((s.tracked g).filter (fun x => x.sys = i)).length % 256
  let s := s.set .GNSS_SATS 0 0 (sats 0 + sats 1 * 2 ^ 8 + sats 2 * 2 ^ 16)
  let s := s.count .GNSS_ACQ_CNT 0 0 g.acquired
  if g.valid then
    let s := (s.set .GNSS_RESID 0 0 g.rms).set .GNSS_CN0 0 0 (g.cn0 % 2 ^ 16)
    let s := (s.set .GNSS_POS_X_LO 0 0 (pos 0 % 2 ^ 32)).set .GNSS_POS_X_HI 0 0 (pos 0 / 2 ^ 32)
    let s := (s.set .GNSS_POS_Y_LO 0 0 (pos 1 % 2 ^ 32)).set .GNSS_POS_Y_HI 0 0 (pos 1 / 2 ^ 32)
    (s.set .GNSS_POS_Z_LO 0 0 (pos 2 % 2 ^ 32)).set .GNSS_POS_Z_HI 0 0 (pos 2 / 2 ^ 32)
  else s

/-- The fields of GNSS.STATUS (Table 10-12); the start kind is that of the moment at which signals return (R298). -/
def State.gnssStatus (s : State) (g : GnssSol) (kind : Nat) : State :=
  let st := if (s.source 1).state = 1 then 3 else if 0 < s.gnssUsed g then 2 else 1
  let start := if s.fld .GNSS_STATUS 0 0 1 0 < 2 && 2 ≤ st then kind else s.fld .GNSS_STATUS 0 0 5 4
  s.set .GNSS_STATUS 0 0 (st + s.posMode * 4 + start * 2 ^ 4 + s.fld .GNSS_STATUS 0 0 6 6 * 2 ^ 6
    + b2n (g.dual && s.flag .GNSS_CFG0 0 0 26) * 2 ^ 7 + s.gnssUsed g % 128 * 2 ^ 8 + s.gnssBusy g * 2 ^ 15)

/-- A position solution enters the base survey (R264). -/
def State.surveyTake (s : State) (g : GnssSol) : State :=
  if s.fld .CRAFT_STATUS 0 0 4 3 = 1 && g.valid then
    s.modCraft (fun c => { c with survey :=
      ⟨c.survey.n + 1, (List.range 3).map (fun i => c.survey.sum.getD i 0 + g.pos.getD i 0),
        (List.range 3).map (fun i => c.survey.sq.getD i 0 + (g.pos.getD i 0).natAbs ^ 2)⟩ })
  else s

/-- One second of GNSS (R286, R289, R297-R299). -/
def execGnssSolution (g : GnssSol) (s : State) : Host.Outcome State Fault Refusal :=
  let mode := s.posMode
  let kind := s.startKind
  let g := { g with valid := g.valid && s.tracks g.sys }
  let ok := g.valid && decide (g.rms < 500) && decide ((if mode = 0 then 4 else 1) ≤ s.gnssUsed g)
    && !s.flag .GNSS_STATUS 0 0 6
  let changed := mode != s.time.posMode
  let s1 := ((s.surveyTake g).gnssWords g).modTime (fun t => { t with posMode := if ok then mode else t.posMode })
  let s2 := State.noteGnss s (if g.valid && !ok then s1.setSource 1 { s1.source 1 with good := 0, bad := 0 }
    else s1.observeSource 1 10 3 ok (s.gnssErr g) changed)
  let s3 := if ok && changed && s2.discipline = 2 && s2.selected = 1 then s2.enterLocked else s2
  let s4 := match g.utc with
    | some u => if g.valid then s3.noteUtc 1 u else s3
    | none => s3
  let s5 := match g.leap with
    | some l => (s4.raise .GNSS_INT 0 3).noteLeap 1 l
    | none => s4
  let s6 := if g.valid then s5.modTime (fun t => { t with aid := some s.sec }) else s5
  .next (s6.gnssStatus g kind)

/-- GNSS_ANT_FAULT changes: raised, GNSS is LOST (Table 10-2). -/
def execGnssAntFault (fault : Bool) (s : State) : Host.Outcome State Fault Refusal :=
  let s1 := s.setFlag .GNSS_STATUS 0 0 6 fault
  if fault then
    let s1 := if s.flag .GNSS_STATUS 0 0 6 then s1 else s1.raise .GNSS_INT 0 2
    let s2 := State.noteGnss s (s1.loseSource 1)
    .next (s2.setFld .GNSS_STATUS 0 0 1 0 1)
  else .next s1

/-- One tracking channel is lent to group-delay calibration, in use until the next second's solution (R297, Table 1-9;
assumption 66). -/
def execGnssGroupDelayCal (s : State) : Host.Outcome State Fault Refusal :=
  if s.bgDue 1 600 then
    .next (((s.bgRan 1).modTime (fun t => { t with calibrations := t.calibrations + 1 })).setFld .GNSS_STATUS 0 0 21 15
      (min 96 (s.fld .GNSS_STATUS 0 0 21 15 + 1)))
  else .next s

/-! ### PPS_IN and captures (R289, R305) -/

/-- A fraction of a ns in 2⁻¹⁶, to the 1/16 ns that a capture point interpolates (R284). -/
def sixteenths (frac : Nat) : Nat := frac % 2 ^ 16 / 4096 * 4096

/-- Capture an edge on an input that has a CAPT item for it (R305). -/
def State.capture (s : State) (n ns frac edge : Nat) : State :=
  match (s.items 0xC0 10).find? (fun v => leAt v 0 1 = n && (leAt v 1 1 = 2 || leAt v 1 1 = edge)) with
  | none => s
  | some _ =>
    let q := Map.getD s.time.capt n []
    if 16 ≤ q.length then s.raise .TIME_INT 0 6
    else s.modTime (fun t => { t with capt := Map.put t.capt n (q ++ [⟨ns, frac, edge, s.quality⟩]) })

/-- An edge on a capture input 0-7 (R305). -/
def execCaptureEdge (input ns frac edge : Nat) (s : State) : Host.Outcome State Fault Refusal :=
  if decide (input < 8) && decide (edge < 2) then .next (s.capture input ns (sixteenths frac) edge) else .next s

/-- TIME.CAPT_POP (Table 10-9). -/
def execCaptPop (val : Word) (s : State) : Host.Outcome State Fault Refusal :=
  if s.hostHeld then .next s else
  .next ((List.range 9).foldl (fun s n =>
    if bit val.toNat n then
      s.modTime (fun t => { t with capt := Map.putD t.capt n ((Map.getD t.capt n []).drop 1) [] })
    else s) s)

/-- The phase of an edge against the nearest whole second: source less timebase, in 2⁻¹⁶ ns. -/
def edgePhase (ns frac : Nat) : Int :=
  let r : Int := (ns % 1000000000 * 2 ^ 16 : Nat) + sixteenths frac
  if r ≤ 500000000 * 2 ^ 16 then -r else 1000000000 * 2 ^ 16 - r

/-- An edge on PPS_IN: a rising edge drives EXT, each edge goes to input 8 (R289, R305). `good` counts edges whose phase
stays within 1 µs of the first of the run, each 1 s ± 50 µs after the one before (assumption 22); e is the phase of the edge at which EXT
becomes LOCKED (R292). -/
def execPpsInEdge (ns frac edge : Nat) (s : State) : Host.Outcome State Fault Refusal :=
  let s1 := s.capture 8 ns (sixteenths frac) edge
  if edge != 0 then .next s1
  else
    let x := s.source 3
    let e := edgePhase ns frac
    let spaced := decide (999950000 + x.edge ≤ ns) && decide (ns ≤ 1000050000 + x.edge)
    let ok := x.good = 0 || (spaced && decide ((e - x.first).natAbs ≤ 1000 * 2 ^ 16))
    let x' := if ok then { x with good := x.good + 1, err := e, edge := ns, first := if x.good = 0 then e else x.first }
      else { x with good := 1, err := e, edge := ns, first := e }
    if x.state != 1 && 10 ≤ x'.good then .next ((s1.setSource 3 { x' with state := 1, since := ns }).sourceLocked 3)
    else .next (s1.setSource 3 x')

/-- No PPS_IN edge within 1.1 s of the one before (Table 10-2). -/
def execExtLost (s : State) : Host.Outcome State Fault Refusal :=
  if s.source 3 = TimeSource.start then .next s
  else if (s.source 3).edge + 1100000000 ≤ s.time.ns then .next (s.loseSource 3) else .next s

/-! ### Selection, SET_TIME, slew and ageing (R290-R295) -/

/-- A source of higher priority than the selected one has been LOCKED for hold_off_s (R290). -/
def execHoldOffExpire (s : State) : Host.Outcome State Fault Refusal :=
  let ls := s.listed
  let ahead := ls.takeWhile (fun c => c != s.selected)
  match ahead.find? (fun c => (s.source c).state = 1
      && decide ((s.source c).since + 1000000000 * s.fld .TIME_CFG0 0 0 15 7 ≤ s.time.ns)) with
  | some c => if s.discipline = 2 then .next (s.lockOn c) else .next s
  | none => .next s

/-- TIME.CMD SET_TIME (R295). -/
def execSetTime (s : State) : Host.Outcome State Fault Refusal :=
  if s.hostHeld then .next s else
  if s.bestSource.isSome then .next (s.setFld .TIME_CMD_STATUS 0 0 1 0 2)
  else
    let set : Nat := 1000000000 * (s.get .TIME_SET_SEC_LO 0 0 + s.get .TIME_SET_SEC_HI 0 0 * 2 ^ 32) + s.get .TIME_SET_NS 0 0
    let bad := decide (6 < s.quality)
    let s := (s.setFld .TIME_CMD_STATUS 0 0 1 0 1).setDiscipline 0 4
    let s := s.setQuality 6
    let s := if bad then s.modBal (fun b => { b with dueFrom := set / 1000000000 }) else s
    let s := s.modTime (fun t => { t with e0 := 1000000, f0 := 0, refAt := t.ns })
    .next (s.correct (2 ^ 16 * (set : Int) - s.now16))

/-- The slew residual reaches 0 (R292): at once when nothing is left, else after the rest of the slew, which must end within
the present second. -/
def execSlewComplete (s : State) : Host.Outcome State Fault Refusal :=
  if s.time.slew = 0 then .next s.showRate.settle
  else
    let k := s.slewK.natAbs
    let left := s.time.slew.natAbs * (2 ^ 40 + s.time.adj + s.slewK).natAbs / k / 2 ^ 56 + 1
    if k = 0 || (s.time.ns + left) / 1000000000 != s.sec then .next s
    else .next ((s.advanceTo (s.time.ns + left)).modTime (fun t => { t with slew := 0 })).showRate.settle

/-- Least-squares slope of a list of samples one second apart, newest first, times 2³² per sample. -/
def slope (l : List Int) : Int :=
  let n : Int := l.length
  let xs := l.reverse
  let r := xs.foldl (fun (a : Int × Int × Int) y => (a.1 + 1, a.2.1 + y, a.2.2 + a.1 * y)) (0, 0, 0)
  let sx := n * (n - 1) / 2
  let sxx := n * (n - 1) * (2 * n - 1) / 6
  let d := n * sxx - sx * sx
  if d = 0 then 0 else (n * r.2.2 - sx * r.2.1) * (2 ^ 32 : Nat) / d

/-- The ageing slope is refitted over the last 24 h of LOCKED (R291). -/
def execOscAgeingUpdate (s : State) : Host.Outcome State Fault Refusal :=
  if s.discipline = 2 && decide (86400 ≤ s.time.history.length) && s.bgDue 2 3600 then
    let s := s.bgRan 2
    let fit := (slope s.time.history).natAbs * 86400 * 100 * 1000000000 / 2 ^ 72
    .next (s.modTime (fun t => { t with ageing := fit }))
  else .next s

/-! ### PPS_OUT and triggers (R293, R300, R304) -/

/-- The first TAI second whose edge, `d` quarters of a ns after it, has not passed. -/
def State.edgeSec (s : State) (d : Int) : Int := ((s.now16 : Int) - 2 ^ 14 * d + (2 ^ 16 * 1000000000 - 1)) / (2 ^ 16 * 1000000000)

/-- The instant of that edge, in 2⁻¹⁶ ns. -/
def State.edgeOf (s : State) (d : Int) : Nat := (2 ^ 16 * 1000000000 * s.edgeSec d + 2 ^ 14 * d).toNat

/-- The delay of the next pulse: a written one from the first pulse at least 10 ms after the write (R293). -/
def State.ppsNext (s : State) : Int :=
  let d := toSigned 24 (s.fld .TIME_PPS_CFG 0 0 23 0)
  match s.time.ppsSetAt with
  | none => d
  | some w => if 2 ^ 16 * (w + 10000000) ≤ s.edgeOf d then d else s.time.ppsDelay

/-- An instant in 2⁻¹⁶ ns that the timebase reaches next: in the present second, or the second's end. -/
def State.within16 (s : State) (t : Nat) : Bool :=
  decide (s.now16 ≤ t) && decide (t ≤ 2 ^ 16 * (1000000000 * (s.sec + 1)))

/-- An instant in ns that the timebase reaches next. -/
def State.within (s : State) (t : Nat) : Bool :=
  decide (s.time.ns ≤ t) && decide (t ≤ 1000000000 * (s.sec + 1))

/-- No pulse is emitted for a second: that of a step taken or scheduled, or one before it (R292). -/
def State.ppsHeld (s : State) (sec : Nat) : Bool := decide (sec ≤ s.time.ppsHold) || s.time.step.any (fun x => x.1 = sec)

/-- TAI second + delay: PPS_OUT goes high for its width, unless the second is that of a step (R292, R300). -/
def execPpsOutEdge (s : State) : Host.Outcome State Fault Refusal :=
  let d := s.ppsNext
  let sec := s.edgeSec d
  if !s.ppsOn || !s.within16 (s.edgeOf d) then .next s
  else
    let width := 2 ^ 16 * (2000000 * s.fld .TIME_PPS_CFG 0 0 31 24)
    let new := d = toSigned 24 (s.fld .TIME_PPS_CFG 0 0 23 0)
    .next ((s.advance16 (s.edgeOf d)).modTime (fun t => { t with
      ppsEnd := if s.ppsHeld sec.toNat then t.ppsEnd else s.edgeOf d + width
      ppsDelay := d
      ppsSetAt := if new then none else t.ppsSetAt }))

/-- A trigger schedule's item (Table 10-6). -/
def State.trig? (s : State) (i : Nat) : Option Bytes := (s.items 0xC0 9).find? (fun v => leAt v 0 1 = i)

/-- A schedule is gated on (R304). -/
def State.trigOn (s : State) (i : Nat) : Bool :=
  if i < 32 then bit (s.get .TIME_TRIG_EN_LO 0 0) i else bit (s.get .TIME_TRIG_EN_HI 0 0) (i - 32)

/-- First instant and period of a schedule, in ns. -/
def trigTimes (v : Bytes) : Nat × Nat := (leAt v 12 4 + 1000000000 * leAt v 4 8, max 1 (leAt v 16 8))

/-- The latest instant of a schedule at or before `t`. -/
def lastInstant (v : Bytes) (t : Nat) : Option Nat :=
  let p := trigTimes v
  if t < p.1 then none else some (p.1 + (t - p.1) / p.2 * p.2)

/-- The manifest of a schedule's instant (R304). -/
def State.trigManifest (s : State) (i : Nat) (v : Bytes) : State :=
  s.make (leAt v 3 1) 0 noFlow 4 i none []

/-- What a schedule does at its instant `t` (R304): a pulse on its TRIG_OUT, and a manifest. -/
def State.trigActs (s : State) (sched : Nat) (v : Bytes) (t : Nat) : State :=
  let flags := leAt v 1 1
  let mark : TimeState → TimeState := fun x => { x with
    acted := Map.put x.acted sched t
    trigEnd := if bit flags 1 then Map.put x.trigEnd (leAt v 2 1) (t + leAt v 24 4) else x.trigEnd }
  let s := s.modTime mark
  if bit flags 2 then s.trigManifest sched v else s

/-- The first instant of a schedule after `from'`. -/
def firstAfter (v : Bytes) (from' : Nat) : Nat :=
  match lastInstant v from' with
  | some x => x + (trigTimes v).2
  | none => (trigTimes v).1

/-- A schedule has acted on an instant (R293). -/
def State.actedOn (s : State) (sched t : Nat) : Bool :=
  match Map.get? s.time.acted sched with
  | some x => decide (t ≤ x)
  | none => false

/-- A schedule's next instant is reached (R304): act on it once (R293). -/
def execTriggerInstant (sched : Nat) (s : State) : Host.Outcome State Fault Refusal :=
  match s.trig? sched with
  | none => .next s
  | some v =>
    let t := firstAfter v (s.time.ns - 1)
    if !s.inService || !s.trigOn sched || s.actedOn sched t || !s.within t then .next s
    else .next ((s.advanceTo t).trigActs sched v t)

/-- `n` instants of a schedule are passed over, the last at `last`: up to 16 manifests are made, everything else counts, and trig_skip
is set (R293). -/
def State.skipRun (s : State) (i : Nat) (v : Bytes) (last n : Nat) : State :=
  let flags := leAt v 1 1
  let s := s.modTime (fun x => { x with acted := Map.put x.acted i last })
  let made := if bit flags 2 then min 16 n else 0
  let s := (List.range made).foldl (fun s _ => s.trigManifest i v) s
  let skipped := (if bit flags 1 then n else 0) + (if bit flags 2 then n - made else 0)
  let s := if skipped = 0 then s else s.count .TIME_TRIG_SKIP_CNT 0 0 skipped
  if bit flags 1 || bit flags 2 then s.raise .TIME_INT 0 7 else s

/-- A forward step passes over instants of a schedule, that of the step tick among them (R293). -/
def State.skipInstants (s : State) (i : Nat) (v : Bytes) (from' upTo : Nat) : State :=
  match lastInstant v upTo with
  | none => s
  | some last =>
    let first := firstAfter v (max (from' - 1) (Map.getD s.time.acted i 0))
    if !s.trigOn i || last < first then s else s.skipRun i v last ((last - first) / (trigTimes v).2 + 1)

end Sys2Proof.Machine
end

