-- ==== Sys2Proof/Machine/Civil.lean ====
section
/-!
DEFINITION. Civil time, calendars and rating (R216-R218), and Customs time (R207).
-/
namespace Sys2Proof.Machine

/-! ### Dates -/

/-- Year, month and day of a day number counted from 1970-01-01. -/
def dateOf (days : Nat) : Nat × Nat × Nat :=
  let z := days + 719468
  let era := z / 146097
  let doe := z % 146097
  let yoe := (doe - doe / 1460 + doe / 36524 - doe / 146096) / 365
  let doy := doe - (365 * yoe + yoe / 4 - yoe / 100)
  let mp := (5 * doy + 2) / 153
  let m := if mp < 10 then mp + 3 else mp - 9
  (yoe + era * 400 + (if m ≤ 2 then 1 else 0), m, doy - (153 * mp + 2) / 5 + 1)

/-- The day number of a date. -/
def dayOf (y m d : Nat) : Nat :=
  let y' := if m ≤ 2 then y - 1 else y
  let era := y' / 400
  let yoe := y' % 400
  let mp := if 2 < m then m - 3 else m + 9
  let doy := (153 * mp + 2) / 5 + d - 1
  era * 146097 + yoe * 365 + yoe / 4 - yoe / 100 + doy - 719468

/-- Weekday of a day number, Monday 0. -/
def weekdayOf (days : Nat) : Nat := (days + 3) % 7

/-- The day a rule names in a year: month, week (5 the last), weekday (Table 7-9). -/
def ruleDay (y month week weekday : Nat) : Nat :=
  let first := dayOf y month 1
  let d := first + (weekday + 7 - weekdayOf first) % 7 + 7 * (min week 5 - 1)
  let next := if month = 12 then dayOf (y + 1) 1 1 else dayOf y (month + 1) 1
  if next ≤ d then d - 7 else d

/-! ### Civil time (R217) -/

/-- The ZONE item Customs holds; UTC while it holds none. -/
def State.zone (s : State) : Bytes := s.customs.zone.getD (zeros 16)

/-- Standard local time of a TAI second, in seconds. -/
def State.standard (s : State) (t : Nat) : Nat :=
  ((t : Int) - s.leapAt t + leSigned s.zone 2 2 * 60).toNat

/-- Daylight saving is in force at a standard local time. -/
def dstAt (z : Bytes) (std : Nat) : Bool :=
  let delta := leAt z 4 1 * 60
  let y := (dateOf (std / 86400)).1
  let a := ruleDay y (leAt z 6 1) (leAt z 7 1) (leAt z 8 1) * 86400 + leAt z 9 2 * 60
  let b := ruleDay y (leAt z 11 1) (leAt z 12 1) (leAt z 13 1) * 86400 + leAt z 14 2 * 60 - delta
  if delta = 0 then false
  else if a ≤ b then decide (a ≤ std) && decide (std < b)
  else decide (a ≤ std) || decide (std < b)

/-- Civil time of a TAI second. -/
def State.civil (s : State) (t : Nat) : Nat :=
  let std := s.standard t
  std + (if dstAt s.zone std then leAt s.zone 4 1 * 60 else 0)

/-- The label of a grid boundary: civil time to the nearest quarter-hour, later at a tie; a quarter-hour that the change
to daylight saving leaves out is never a label (R217). -/
def State.label (s : State) (b : Nat) : Nat :=
  let c := s.civil b
  let r := (c + 450) / 900 * 900
  let gap := !dstAt s.zone (s.standard b) && dstAt s.zone (s.standard b + (r - c))
  if gap then r + leAt s.zone 4 1 * 60 else r

/-! ### Rating (R216-R218) -/

/-- Items of one type of a calendar. -/
def Cal.ofType (c : Cal) (t : Nat) : List Bytes := (c.items.filter (·.type = t)).map (·.value)

/-- The day profile a calendar gives a date. -/
def Cal.dayProfile (c : Cal) (days : Nat) : Option Nat :=
  let d := dateOf days
  match (c.ofType 5).find? (fun v => (leAt v 2 2 = 0 || leAt v 2 2 = d.1) && leAt v 4 1 = d.2.1 && leAt v 5 1 = d.2.2) with
  | some v => some (leAt v 6 1)
  | none =>
    let key : Bytes → Nat := fun v => leAt v 2 1 * 32 + leAt v 3 1
    let ss := c.ofType 3
    let past := ss.filter (fun v => decide (key v ≤ d.2.1 * 32 + d.2.2))
    let latest : List Bytes → Option Bytes := fun l => l.foldl (fun (b : Option Bytes) v =>
      match b with
      | some x => if key x < key v then some v else some x
      | none => some v) none
    (if past.isEmpty then latest ss else latest past).map (fun v => leAt v (4 + weekdayOf days) 1)

/-- The rate of a calendar at a label; 0 where the plan leaves the day empty (assumption 24). -/
def Cal.rateAt (c : Cal) (label : Nat) : Nat :=
  let q := label % 86400 / 900
  match c.dayProfile (label / 86400) with
  | none => 0
  | some dp =>
    match (c.ofType 4).find? (fun v => leAt v 1 1 = dp) with
    | none => 0
    | some v =>
      ((List.range (leAt v 2 1)).filter (fun i => decide (leAt v (4 + 2 * i) 1 ≤ q))).foldl
        (fun _ i => leAt v (5 + 2 * i) 1) 0

/-- The calendar of a slot 1-8. -/
def State.cal (s : State) (n : Nat) : Cal := s.customs.cals.getD (n - 1) Cal.empty

/-- The rate of a site interval that starts in the grid interval from `b`, and whether it is FLAGGED (R216, R218). -/
def State.siteRate (s : State) (b : Nat) : Nat × Bool :=
  if s.activeSlot = 0 then (0, true) else ((s.cal s.activeSlot).rateAt (s.label b), false)

/-- The rate of an endpoint interval from `b`: the calendar in force then, or the oldest retained, FLAGGED (R218). -/
def State.epRate (s : State) (b : Nat) : Nat × Bool :=
  let held := s.customs.cals.filter (fun c => c.state = 3 || c.state = 4)
  match held.find? (fun c => decide (c.from' ≤ b) && (c.state = 3 || decide (b < c.until'))) with
  | some c => (c.rateAt (s.label b), false)
  | none =>
    match held with
    | [] => (0, true)
    | c :: cs => ((cs.foldl (fun a x => if x.from' < a.from' then x else a) c).rateAt (s.label b), true)

/-- A byte of the METRO item, or its default. -/
def State.metroCfg (s : State) (o n d : Nat) : Nat :=
  match s.customs.metro with
  | some v => leAt v o n
  | none => d

end Sys2Proof.Machine
end

