-- ==== Sys2Proof/Machine/StoreBlocks.lean ====
section
/-!
DEFINITION. The store's array (chapter 12): the map journal, allocation, programs, failures and folds.
-/
namespace Sys2Proof.Machine

/-- STORE.STATUS.state. -/
def State.storeState (s : State) : Nat := s.fld .STORE_STATUS 0 0 2 0

/-- Set STORE.STATUS.state. -/
def State.setStore (s : State) (v : Nat) : State := s.setFld .STORE_STATUS 0 0 2 0 v

/-- The store has a map and a key: its section is applied and it is READY, FORMATTING or READ_ONLY (Table 12-10). -/
def State.storeOn (s : State) : Bool := s.storeState = 2 || s.storeState = 3 || s.storeState = 5

/-- The NAND array was identified, and the Customs region is laid out (R341). -/
def State.hasRegion (s : State) : Bool := s.store.luns != 0 && s.store.cus != 0

/-! ### The map and its journal (R334, R344) -/

/-- Geometry of the main map: PROFILE and LOG rings, the LOG ring after the 8 pages of its permanent area (R331). -/
def State.geo (s : State) : MapGeo := ⟨s.store.ppb, 2, 0, s.partPages 2, 3, 8, s.partPages 3 - 8⟩

/-- Pages of the COPY ring: 12,288 MiB in whole logical blocks (R334, R341). -/
def State.copyPages (s : State) : Nat := ceilDiv (12288 * 64) (max 1 s.store.ppb) * s.store.ppb

/-- Geometry of the Customs region; logical pages of the LEGAL ring follow those of the COPY ring (assumption 28). -/
def State.cusGeo (s : State) : MapGeo :=
  ⟨s.store.ppb, 1, 0, s.copyPages, 1, s.copyPages, ceilDiv (s.store.cusMiB * 64) (max 1 s.store.ppb) * s.store.ppb⟩

/-- Change the map that a partition's blocks are in. -/
def State.modMap (s : State) (part : Nat) (f : StoreMap → StoreMap) : State :=
  s.modStore (fun t => if part = 1 then { t with cusMap := f t.cusMap } else { t with map := f t.map })

/-- A change of the map, journaled (R344). The Customs region is located by its page headers and not from the map (R341): of it only
retired blocks are journaled. -/
def State.mapNote (s : State) (e : MapEntry) : State :=
  let g := if e.part = 1 then s.cusGeo else s.geo
  let s := s.modMap e.part (fun m => m.apply g e)
  if e.part != 1 || (e.type = 5 && s.storeOn) then s.modStore (fun t => { t with entries := t.entries ++ [e] }) else s

/-- The fingerprint of a store key (R333). -/
def fingerprint (key : Bytes) : Bytes := fit 16 (Config.kmac256 key (ascii "VQ-FP") [] 16)

/-- A page of MAP (Table 12-4): `kind` 1 JOURNAL with its entries, 2 CHECKPOINT, whose content's layout the spec leaves out. -/
def mapPageOf (fmt kind seq ckpt : Nat) (fp : Bytes) (n : Nat) (body : Bytes) : Bytes :=
  let b := toLE 2 fmt ++ toLE 2 kind ++ toLE 8 seq ++ toLE 8 ckpt ++ toLE 2 n ++ zeros 2 ++ fit 16 fp ++ zeros 24
    ++ fit 16304 body ++ zeros 12
  b ++ toLE 4 (crc32 b)

/-- Pages between checkpoints: the MAINT item's ckpt_pages (Table 12-9), or half of MAP where that is less, so that the pages since a
checkpoint stay in MAP (assumption 28). -/
def State.ckptPages (s : State) : Nat :=
  let n := s.itemLE 0xE0 4 10 2 1024
  min n (max 1 (2 * s.store.luns * (s.store.ppb / 3)))

/-- A MAP block, of 4 on each LUN after the Customs region (R331; assumption 28). -/
def State.mapBlk (s : State) (m : Nat) : Nat :=
  let l := max 1 s.store.luns
  65536 * (m % l) + s.store.cus + m / l % 4

/-- The next MAP block that is not retired comes into use: it is erased. -/
def State.mapAdvance (s : State) : State :=
  let n := 4 * s.store.luns
  let at' := s.store.mapAt
  let m := ((List.range n).map (fun k => (at' + 1 + k) % max 1 n)).find? (fun m => (s.store.map.info (s.mapBlk m)).role != 5)
  let m := m.getD at'
  let k := s.mapBlk m
  s.modStore (fun t => { t with
    mapAt := m
    nand := Map.del t.nand k
    map := t.map.modInfo k (fun b => { b with role := 3, oneBit := true, erases := b.erases + 1 }) })

/-- The header of a page that the store programs now. -/
def State.pageOf (s : State) (part page : Nat) (oneBit : Bool) (data : Bytes) (fe : Bool) : NandPage :=
  { part := part, oneBit := oneBit, flushEnd := fe, page := page, seq := s.store.seq, data := fit pageBytes data
    keyNo := if part = 1 then 0 else s.keyNo, key := if part = 1 then [] else (s.keySlot 2).key, bad := [] }

/-- A page stands in a block (R330, R337). -/
def State.putPage (s : State) (k : Nat) (x : NandPage) : State :=
  s.modStore (fun t => { t with
    nand := Map.put t.nand k (Map.getD t.nand k [] ++ [x])
    seq := t.seq + 1
    health := { t.health with programmed := t.health.programmed + pageBytes } })

/-- A page of MAP is programmed, in the next MAP block when this one is full. -/
def State.mapWrite (s : State) (kind n : Nat) (body : Bytes) : State :=
  if s.store.luns = 0 then s
  else
    let s := if s.store.ppb / 3 ≤ (s.blkPages (s.mapBlk s.store.mapAt)).length then s.mapAdvance else s
    let q := s.store.mapSeq + 1
    let last := (s.store.ckpts.head?.map (·.seq)).getD 0
    let d := mapPageOf s.upd.mapFormat kind q (if kind = 2 then q else last) (fingerprint (s.keySlot 2).material) n body
    (s.putPage (s.mapBlk s.store.mapAt) (s.pageOf 0 q true d false)).modStore (fun t => { t with mapSeq := q })

/-- A checkpoint of the map, in the format that is in force, and of the health counts; two alternate (R344, R348, Table 15-7). -/
def State.mapCheckpoint (s : State) : State :=
  let s := s.mapWrite 2 0 (Config.reportBody s.store.seq)
  s.modStore (fun t => { t with entries := [], ckpts := (⟨t.mapSeq, t.map, t.health⟩ :: t.ckpts).take 2 })

/-- A JOURNAL page is programmed with the oldest entries of the buffer; a checkpoint follows every ckpt_pages pages. -/
def State.mapProgram (s : State) : State :=
  let es := s.store.entries.take 1019
  let s := s.mapWrite 1 es.length (es.flatMap MapEntry.bytes)
  let s := s.modStore (fun t => { t with entries := t.entries.drop 1019 })
  if (s.store.ckpts.head?.map (·.seq)).getD 0 + s.ckptPages ≤ s.store.mapSeq then s.mapCheckpoint else s

/-- The journal buffer is programmed as far as it goes: a commit point. -/
def State.mapSync (s : State) : State :=
  (List.range (s.store.entries.length / 1019 + 1)).foldl (fun s _ => if s.store.entries.isEmpty then s else s.mapProgram) s

/-! ### Blocks (R336, R341-R343) -/

/-- The lowest number from `n` on that a rising list of numbers does not hold. -/
def lowGap : Nat → List Nat → Nat
  | n, [] => n
  | n, k :: ks => if k < n then lowGap n ks else if k = n then lowGap (n + 1) ks else n

/-- The channel of a LUN: LUNs are dealt over the 8 channels in order (assumption 28). -/
def chanOf (lun : Nat) : Nat := lun % 8

/-- The erased block with the lowest erase count that a LUN gives to a partition (R342), when more than `keep` are erased. In FIXED mode
the buffer's blocks and the native blocks are apart once the buffer is whole (R336). -/
def State.allocNand (s : State) (part lun : Nat) (oneBit : Bool) (keep : Nat) : Option Nat :=
  let bs := s.lunBlocks part lun
  let fixed := s.fixedBuf && part != 1
  let gap := lowGap (s.firstBlk part) (bs.map (fun e => e.1 % 65536))
  let whole := decide (s.bufSize lun ≤ (bs.filter (fun e => e.2.oneBit && e.2.role != 5)).length)
  let fits (b : BlkInfo) : Bool :=
    b.role = 0 && (!fixed || (if oneBit && whole then b.oneBit else oneBit || !b.oneBit))
  let fromGap : Option (Nat × Nat) :=
    if (s.mapOf part).unlisted = 0 && decide (gap < s.endBlk part) && !(fixed && oneBit && whole) then some (0, 65536 * lun + gap)
    else none
  let best := bs.foldl (fun (b : Option (Nat × Nat)) e =>
    if fits e.2 then
      match b with
      | none => some (e.2.erases, e.1)
      | some (n, k) => if e.2.erases < n || (e.2.erases = n && decide (e.1 < k)) then some (e.2.erases, e.1) else b
    else b) fromGap
  if s.freeOf part lun ≤ keep then none else best.map (·.2)

/-- One-bit blocks of a LUN in use as log or flush blocks. -/
def State.bufUsed (s : State) (lun : Nat) : Nat := ((s.lunBlocks 2 lun).filter (fun e => e.2.role = 2 || e.2.role = 6)).length

/-- A LUN has a buffer block to give: two erased blocks stay as its flush reserve (R336). -/
def State.bufRoom (s : State) (lun : Nat) : Bool := decide (s.bufUsed lun + 2 < s.bufSize lun) && (s.allocNand 2 lun true 2).isSome

/-- Open log blocks of a LUN, or its landing blocks in use (R334, R341). -/
def State.openLogs (s : State) (part lun : Nat) : Map BlkInfo := (s.lunBlocks part lun).filter (·.2.role = 2)

/-- Spare, after a change of a LUN: low below spare_min, READ_ONLY with none (R343). -/
def State.spareCheck (s old : State) (lun : Nat) : State :=
  let s :=
    if s.spareOf lun < s.spareNeed && decide (s.spareNeed ≤ old.spareOf lun) then
      (s.raise .STORE_INT 0 1).event 0x1003 lun (s.spareOf lun)
    else s
  if s.spareOf lun = 0 && (s.storeState = 2 || s.storeState = 3) then (s.setStore 5).raise .STORE_INT 0 3 else s

/-- A block is retired with a RETIRED entry (R343): cause 1 program, 2 erase, 3 uncorrectable, 4 factory. -/
def State.retireNand (s : State) (part k cause : Nat) : State :=
  let lun := k / 65536
  let old := s
  let b := (s.mapOf part).info k
  let s := if cause ≤ 2 then s.count .STORE_PROG_FAIL_CNT 0 0 1 else s
  let s := s.modStore (fun t => { t with health := { t.health with
    chRetired := updAt t.health.chRetired (chanOf lun) (· + 1) } })
  (s.mapNote ⟨5, part, lun, b.oneBit, b.lblk, k % 65536, 0, cause⟩).spareCheck old lun

/-- The block that takes the next page of a flush of the main map: of its reserve, on the LUNs in turn; no block that an earlier flush
wrote to is filled further (R346). -/
def State.flushTarget (s : State) : Option (Nat × State) :=
  let luns := (List.range s.store.luns).map (fun l => (s.store.seq + l) % max 1 s.store.luns)
  luns.findSome? (fun lun =>
    match (s.lunBlocks 2 lun).find? (fun e =>
        e.2.role = 6 && decide (s.store.flushFrom ≤ e.2.opened) && decide (e.2.next < s.store.ppb / 3)) with
    | some e => some (e.1, s)
    | none => (s.allocNand 2 lun true 0).map (fun k => (k, s.modMap 2 (fun m => m.modInfo k (fun b => { b with
        role := 6, oneBit := true, part := 0, lblk := 0, opened := s.store.seq, next := 0 })))))

/-- The one-bit block that takes the next page of a logical block (R334, R341, R346): an open log or landing block with room, or one
newly opened: at most 16 log blocks and 4 landing blocks of a LUN are open. -/
def State.programTarget (s : State) (part page : Nat) (flush : Bool) : Option (Nat × State) :=
  if flush && part != 1 then s.flushTarget
  else
    let lblk := page / max 1 s.store.ppb
    let lun := s.lunOf lblk
    match (s.openLogs part lun).find? (fun e => decide (e.2.next < s.store.ppb / 3) && e.2.part = part && e.2.lblk = lblk) with
    | some e => some (e.1, s)
    | none =>
      let n := (s.openLogs part lun).length
      if if part = 1 then flush || decide (n < 4) else s.bufRoom lun && decide (n < 16) then
        (s.allocNand part lun true (if part = 1 then 0 else 2)).map (fun k =>
          (k, s.mapNote ⟨2, part, lun, true, lblk, k % 65536, 0, ((s.mapOf part).info k).erases⟩))
      else none

/-- A page's program reports success: it stands in its one-bit block and is journaled PAGE (R337, R344). -/
def State.programmed (s : State) (k part page : Nat) (data : Bytes) (fe : Bool) : State :=
  let i := (s.blkPages k).length
  (s.putPage k (s.pageOf part page true data fe)).mapNote ⟨1, part, k / 65536, true, page, k % 65536, i, 0⟩

/-! ### Folds (R335) -/

/-- The log blocks of a logical block, or its landing blocks. -/
def State.logsOf (s : State) (part lblk : Nat) : Map BlkInfo :=
  (s.mapOf part).blks.filter (fun e => e.2.role = 2 && e.2.part = part && e.2.lblk = lblk)

/-- The logical pages of a logical block that are mapped, with where they stand. -/
def State.heldPages (s : State) (part lblk : Nat) : Map Nat :=
  (s.mapOf part).pages.filter (fun p => p.1 / 2 ^ 32 = part && p.1 % 2 ^ 32 / max 1 s.store.ppb = lblk)

/-- Pages that the store is to program next: the tails of the rings whose pages wait, and AID pages. -/
def State.duePages (s : State) : List (Nat × Nat) :=
  let t := s.store
  (if t.cache.any (fun c => c.part = 2 && c.closed) then [(2, t.map.a.tail)] else [])
    ++ (t.cache.filter (fun c => c.part = 4 && c.closed)).map (fun c => (4, c.page))
    ++ t.mirror.map (fun p => (3, p))
    ++ (if (s.log.pages.drop s.log.done).any (fun p => decide (128 ≤ p.length)) then [(3, t.map.b.tail)] else [])
    ++ (if s.customs.buffer.isEmpty then []
      else [(1, if s.customs.buffer.head?.any (·.type = 8) then t.cusMap.a.tail else t.cusMap.b.tail)])

/-- A LUN needs a log block that it cannot open: a page due on it finds neither an open log block with room nor a new one (R335, R336). -/
def State.needsFold (s : State) (part lun : Nat) : Bool :=
  s.duePages.any (fun d => (d.1 = 1) = (part = 1) && s.lunOf (d.2 / max 1 s.store.ppb) = lun && (s.programTarget d.1 d.2 false).isNone)

/-- A fold of a logical block is due (R335, R336): its log blocks hold all P pages; or its LUN needs a log block more than it can open,
and this logical block's log block was opened first; or a flush left pages of it in the reserve (assumption 28). -/
def State.foldDue (s : State) (part lblk : Nat) : Bool :=
  let logs := s.logsOf part lblk
  let held := s.heldPages part lblk
  let inLogs := held.filter (fun p => logs.any (fun e => e.1 = p.2 / 4096))
  let lun := s.lunOf lblk
  let opens := s.openLogs part lun
  let first := (opens.map (·.2.opened)).min?
  (!logs.isEmpty && (inLogs.length = s.store.ppb || (s.needsFold part lun && logs.any (fun e => some e.2.opened = first))))
    || held.any (fun p => ((s.mapOf part).info (p.2 / 4096)).role = 6)

/-- The copies of a logical block's valid pages, `bad` codewords (as page × 8 + codeword) zeroed, with their new sequences. -/
def State.copies (s : State) (part lblk : Nat) (bad : List Nat) : List NandPage :=
  let held := s.heldPages part lblk
  (held.zip (List.range held.length)).map (fun p =>
    let page := p.1.1 % 2 ^ 32
    let d := match s.nandPage part page with
      | some x => s.pageData x ((bad.filter (fun c => c / 8 = page)).map (· % 8))
      | none => []
    { s.pageOf part page false d false with seq := s.store.seq + p.2 })

/-- Copy the latest copy of every valid page of a logical block into a fresh native block; `verify` that every copy reads back. The FOLD
entry is the commit point, and releases the former blocks; a block whose copies do not read back is retired (R335, R343). -/
def State.foldInto (s : State) (part lblk : Nat) (bad : List Nat) (verify : Bool) : Option State :=
  let lun := s.lunOf lblk
  match s.allocNand part lun false (if part = 1 then 0 else 2) with
  | none => none
  | some k =>
    if !verify then some (s.retireNand part k 3)
    else
      let pages := s.copies part lblk bad
      let n := pages.length
      let s := if n = 0 then s else s.modStore (fun t => { t with
        nand := Map.put t.nand k pages
        seq := t.seq + n
        health := { t.health with programmed := t.health.programmed + pageBytes * n } })
      let s := s.mapNote ⟨3, part, lun, false, lblk, k % 65536, 0, n⟩
      some (if part = 1 then s else s.mapSync)

/-! ### Reads that meet errors (R342, R343) -/

/-- Corrected bits of a read. -/
def State.noteCorrected (s : State) (n : Nat) : State :=
  (s.count .STORE_CORR_CNT 0 0 n).modStore (fun t => { t with health := { t.health with corr := t.health.corr + n } })

/-- One uncorrectable codeword of a page (R343). -/
def State.noteUncorrectable (s : State) (lun part page : Nat) : State :=
  (((s.count .STORE_UNCORR_CNT 0 0 1).modStore (fun t => { t with health := { t.health with
    uncorr := t.health.uncorr + 1, chUncorr := updAt t.health.chUncorr (chanOf lun) (· + 1) } })).raise .STORE_INT 0 0).event
    0x1002 part page

/-- Pages of the Customs partition that no longer read: the records on them are LOST to Customs (R343). -/
def State.cusLoses (s : State) (pages : List Nat) : State :=
  s.modCustoms (fun c => { c with part := c.part.map (fun r : CusRec =>
    if pages.any (fun p => if r.first ≤ r.page then decide (r.first ≤ p) && decide (p ≤ r.page) else decide (r.first ≤ p) || decide (p ≤ r.page))
    then { r with lost := true } else r) })

/-- The logical blocks with pages in a block. -/
def State.blocksIn (s : State) (part k : Nat) : List (Nat × Nat) :=
  (((s.mapOf part).pages.filter (fun p => p.2 / 4096 = k)).map (fun p => (p.1 / 2 ^ 32, p.1 % 2 ^ 32 / max 1 s.store.ppb))).eraseDups

/-- A block whose corrected bits exceed refresh_bits is relocated: every logical block with pages in it moves to a fresh block (R342). -/
def State.refresh (s : State) (part k worst : Nat) (bad : List Nat) : State :=
  let bs := s.blocksIn part k
  if s.fld .STORE_CFG0 0 0 12 5 < worst && !bs.isEmpty then
    let s := bs.foldl (fun s b => (s.foldInto b.1 b.2 (if b.1 = part then bad else []) true).getD s) s
    (s.count .STORE_REFRESH_CNT 0 0 1).modStore (fun t => { t with health := { t.health with refreshes := t.health.refreshes + 1 } })
  else s

end Sys2Proof.Machine
end

