-- ==== Sys2Proof/Machine/Store.lean ====
section
/-!
DEFINITION. The store (chapter 12): its rings and write cache, wear, patrol, the host's READ, DISCARD and HEALTH, start and format.
-/
namespace Sys2Proof.Machine

/-! ### Rings (R338) -/

/-- The least age in seconds, modulo 2²⁸, of the appends of a page (Table 12-3) at a second; a length of 0 ends the page. -/
def newestAge (now : Nat) : Nat → Bytes → Option Nat
  | 0, _ => none
  | n + 1, b =>
    let len := leAt b 10 2
    if len = 0 || b.length < 16 then none
    else
      let age := (now + 2 ^ 28 - leAt b 12 4 % 2 ^ 28) % 2 ^ 28
      some (match newestAge now n (b.drop len) with
        | some u => min age u
        | none => age)

/-- keep_days of PROFILE (Table 12-9). -/
def State.keepDays (s : State) : Nat :=
  match (s.items 0xE0 2).find? (fun v => leAt v 0 1 = 2) with
  | some v => if leAt v 6 2 = 0 then 397 else leAt v 6 2
  | none => 397

/-- The RING entry of a head that advances by `n` pages, with the wrap count that results (R338, Table 12-5). -/
def ringEntry (part base cap n : Nat) (r : Ring) : MapEntry :=
  let to' := r.head - base + n
  ⟨7, part, 0, false, base + to' % max 1 cap, 0, 0, r.wrap + to' / max 1 cap⟩

/-- Pages of a ring from its head to the end of that logical block. -/
def State.headBlock (s : State) (r : Ring) : Nat := min r.used (s.store.ppb - r.head % max 1 s.store.ppb)

/-- The oldest logical block of PROFILE is discarded (R338). -/
def State.profDiscard (s : State) : State :=
  let r := s.store.map.a
  let n := s.headBlock r
  let ages := (List.range n).filterMap (fun k => (s.nandPage 2 (r.head + k)).bind (fun x =>
    newestAge (s.sec % 2 ^ 28) 1024 (s.pageData x [])))
  let age := (ages.min?).getD (2 ^ 28)
  let day := s.sec / 86400 + 1
  let s := s.mapNote (ringEntry 2 0 (s.partPages 2) n r)
  if age < s.keepDays * 86400 && s.store.shortDay != day then
    ((s.modStore (fun t => { t with shortDay := day })).raise .STORE_INT 0 4).event 0x1004 0 (age / 86400)
  else s

/-- A whole logical block of the LOG ring is discarded when it is full; the permanent area never (R338). -/
def State.logDiscard (s : State) : State :=
  let r := s.store.map.b
  s.mapNote (ringEntry 3 8 (s.partPages 3 - 8) (s.headBlock r) r)

/-- A page of the Logbook is programmed at the tail of the LOG ring, or cannot be yet. -/
def State.logProgram (s : State) (data : Bytes) (fe flush : Bool) : Option State :=
  let s := if s.partPages 3 - 8 ≤ s.store.map.b.used then s.logDiscard else s
  let p := s.store.map.b.tail
  (s.programTarget 3 p flush).map (fun x => x.2.programmed x.1 3 p data fe)

/-! ### The write cache (R337) -/

/-- Whether the store takes appends, drops them, or lets the commit wait (R333, R343, R345, Table 12-7). -/
def State.storeTakes (s : State) : Bool := s.storeState = 2 || s.storeState = 3

/-- Appends are dropped into DROP_CNT: NO_KEY and READ_ONLY. -/
def State.storeDrops (s : State) : Bool := s.storeState = 4 || s.storeState = 5

/-- The open cache page of a stream that an append joins. -/
def State.openPage (s : State) (part key len : Nat) : Option Nat :=
  findIdx? (fun (c : CachePage) => c.part = part && !c.closed
    && (if part = 2 then decide (c.data.length + len ≤ pageBytes) else c.page = key)) s.store.cache

/-- Room in the write cache for an append. -/
def State.cacheRoom (s : State) (part key len : Nat) : Bool :=
  decide (s.store.cache.length < 64) || (s.openPage part key len).isSome

/-- Close a cache page: the rest of it is zeros (R337). -/
def CachePage.close (c : CachePage) : CachePage := { c with data := fit pageBytes c.data, closed := true }

/-- An append is committed into the write cache (R337): PROFILE appends share a page in order, an AID page is rewritten
in place. A page that is full is closed. -/
def State.storeAppend (s : State) (part key : Nat) (data : Bytes) : State :=
  if s.storeDrops then s.count .STORE_DROP_CNT 0 0 1
  else
    let full (c : CachePage) : CachePage := if pageBytes ≤ c.data.length then c.close else c
    let s := s.modStore (fun t => { t with health := { t.health with committed := t.health.committed + data.length } })
    match s.openPage part key data.length with
    | some i =>
      s.modStore (fun t => { t with cache := updAt t.cache i (fun c =>
        full { c with data := if part = 2 then c.data ++ data else data, last := s.time.ns }) })
    | none =>
      s.modStore (fun t => { t with
        cache := t.cache.map (fun o => if part = 2 && o.part = 2 && !o.closed then o.close else o)
          ++ [full ⟨part, key, data, false, s.time.ns⟩] })

/-- An AID page of the device's own (R298, R353) is committed, or waits: for room in the write cache, which STALL_CNT counts, or for the
store's start (R337, R345). -/
def State.aidSave (s : State) (page : Nat) (data : Bytes) : State :=
  let data := fit pageBytes data
  if s.storeDrops || (s.storeTakes && s.cacheRoom 4 page pageBytes) then s.storeAppend 4 page data
  else
    let s := if s.storeTakes then s.count .STORE_STALL_CNT 0 0 1 else s
    s.modStore (fun t => { t with aidWait := t.aidWait.filter (fun w => w.1 ≠ page) ++ [(page, data)] })

/-- AID pages that wait are committed while there is room. -/
def State.aidDrain (s : State) : State :=
  s.store.aidWait.foldl (fun s w =>
    if s.storeDrops || (s.storeTakes && s.cacheRoom 4 w.1 pageBytes) then
      (s.storeAppend 4 w.1 w.2).modStore (fun t => { t with aidWait := t.aidWait.tail })
    else s) s

/-- A write-cache page that no append has entered for 1 s is padded (R337). -/
def execWriteCachePageTimeout (part page : Nat) (s : State) : Host.Outcome State Fault Refusal :=
  .next (s.modStore (fun t => { t with
    cache := t.cache.map (fun c =>
      if c.part = part && (part = 2 || c.page = page) && !c.closed && decide (c.last + 1000000000 ≤ s.time.ns) then c.close
      else c) }))

/-- The first closed page of a stream. -/
def State.cacheNext (s : State) (part : Nat) : Option (Nat × CachePage) :=
  (findIdx? (fun (c : CachePage) => c.part = part && c.closed) s.store.cache).bind (fun i =>
    (s.store.cache[i]?).map (fun c => (i, c)))

/-- Where the next closed page of a stream goes: PROFILE pages at the ring's tail, after a discard when it is full. -/
def State.cachePlace (s : State) (part : Nat) (c : CachePage) : State × Nat :=
  if part = 2 then
    let s := if s.partPages 2 ≤ s.store.map.a.used then s.profDiscard else s
    (s, s.store.map.a.tail)
  else (s, c.page)

/-- The program of a write-cache page ends; a page that failed stays in the cache and is programmed elsewhere (R337, R343). -/
def State.cacheProgram (s : State) (part : Nat) (ok flush : Bool) : State :=
  match s.cacheNext part with
  | none => s
  | some (i, c) =>
    let (s1, page) := s.cachePlace part c
    match s1.programTarget part page flush with
    | none => s
    | some (k, s) =>
      if ok then
        ((s.programmed k part page c.data false).modStore (fun t => { t with cache := t.cache.eraseIdx i })).aidDrain
      else s.retireNand part k 1

/-- The open pages of the write cache are closed (R346). -/
def State.closeCache (s : State) : State :=
  s.modStore (fun t => { t with cache := t.cache.map (fun c => if c.closed then c else c.close) })

/-- Program every page of the write cache, as step 3.3 of the flush does, before a reset (Table 12-7). -/
def State.flushCache (s : State) : State :=
  let s := s.closeCache.modStore (fun t => { t with flushFrom := t.seq })
  (List.range s.store.cache.length).foldl (fun s _ =>
    match s.store.cache.head? with
    | some c => s.cacheProgram c.part true true
    | none => s) s

/-! ### Folds, levelling, erases and patrol (R335, R336, R342, R343) -/

/-- The store can change the blocks of a partition's map: the main map needs a key, the Customs region none (R333). -/
def State.mapReady (s : State) (part : Nat) : Bool := !s.pwrfail && (if part = 1 then s.hasRegion else s.storeOn)

/-- FOLD_COMMIT (R335): the copies of a due fold are read back, and the FOLD entry journaled. -/
def execFoldCommit (part : Nat) (f : FoldRead) (s : State) : Host.Outcome State Fault Refusal :=
  if s.mapReady part && s.foldDue part f.lblk then
    let lun := s.lunOf f.lblk
    let s := f.bad.foldl (fun s c => s.noteUncorrectable lun part (c / 8)) s
    let s := if part = 1 then s.cusLoses (f.bad.map (· / 8)) else s
    match s.foldInto part f.lblk f.bad f.verified with
    | some s => .next (if f.verified then s.count .STORE_FOLD_CNT 0 0 1 else s)
    | none => .next s
  else .next s

/-- The lowest and the highest erase count of a LUN, unlisted blocks counting 0. -/
def State.eraseSpan (s : State) (lun : Nat) : Nat × Nat :=
  let es := (s.lunBlocks 1 lun ++ s.lunBlocks 2 lun).map (·.2.erases)
  let all := if es.length + 4 < s.store.bpl then 0 :: es else es
  ((all.min?).getD 0, (all.max?).getD 0)

/-- Static levelling of a LUN (R342). -/
def execStaticWearLevel (lun : Nat) (s : State) : Host.Outcome State Fault Refusal :=
  let (lo, hi) := s.eraseSpan lun
  let data := (s.lunBlocks 1 lun ++ s.lunBlocks 2 lun).filter (·.2.role = 1)
  let cold := data.find? (fun e => some e.2.erases = (data.map (·.2.erases)).min?)
  let due := decide (Map.getD s.store.wlAt lun 0 + 10000000000 ≤ s.time.ns) || !Map.has s.store.wlAt lun
  match cold with
  | some e =>
    if due && decide (s.fld .STORE_CFG0 0 0 31 18 < hi - lo) && s.mapReady 2 && s.storeState != 5 then
      match s.foldInto e.2.part e.2.lblk [] true with
      | some s => .next (s.modStore (fun t => { t with wlAt := Map.put t.wlAt lun s.time.ns }))
      | none => .next s
    else .next s
  | none => .next s

/-- A format is in progress: blocks outside the Customs region and MAP await its erase (R333). -/
def State.formatting (s : State) : Bool :=
  s.store.map.unlisted = 8 || s.store.map.blks.any (fun e => e.2.role = 8)

/-- The last block of a format was erased: from then on an unlisted block is an erased one. -/
def State.formatEnds (s : State) : State :=
  let t := s.store
  let rest := t.map.blks.filter (fun e => decide (t.cus + 4 ≤ e.1 % 65536) && e.2.role != 8)
  if t.map.unlisted = 8 && decide (t.luns * (t.bpl - t.cus - 4) ≤ rest.length) then
    s.modMap 2 (fun m => { m with unlisted := 0 })
  else s

/-- The state that the store's array calls for: FORMATTING, READ_ONLY when a LUN has no spare block left, or READY (R333, R343). -/
def State.storeReady (s : State) : State :=
  if s.formatting then s.setStore 3
  else if (List.range s.store.luns).any (fun l => s.spareOf l = 0) then
    if s.storeState = 5 then s else (s.setStore 5).raise .STORE_INT 0 3
  else s.setStore 2

/-- An erase reports its result: the block is journaled ERASED and available, and its LUN's buffer is sized again, or it is retired
(R336, R343, R344). -/
def execBlockEraseDone (lun blk : Nat) (ok : Bool) (s : State) : Host.Outcome State Fault Refusal :=
  let k := 65536 * lun + blk
  let part := if blk < s.store.cus then 1 else 2
  let b := (s.mapOf part).info k
  let inMap := part = 1 || decide (s.store.cus + 4 ≤ blk)
  if s.mapReady part && decide (lun < s.store.luns) && decide (blk < s.store.bpl) && inMap && (b.role = 4 || b.role = 8) then
    let oneBit := s.fixedBuf && b.oneBit
    let s :=
      if ok then
        (s.modStore (fun t => { t with nand := Map.del t.nand k })).mapNote
          ⟨4, part, lun, oneBit, 0, blk, 0, b.erases + 1⟩
      else s.retireNand part k 2
    let s := s.modStore (fun t => { t with bufSz := Map.put t.bufSz lun (s.bufNow lun) })
    .next (if b.role = 8 then s.formatEnds.storeReady else s)
  else .next s

/-- The patrol period in ns (R342): patrol_days, halved while wear_pct is 50 or more, and halved again at 70 °C or more. -/
def State.patrolPeriod (s : State) : Nat :=
  let d := 86400000000000 * s.fld .STORE_CFG0 0 0 4 0
  let d := if 50 ≤ s.wearPct then d / 2 else d
  if 70 ≤ s.store.hottest then d / 2 else d

/-- The patrol's next pass is due by its period. -/
def State.patrolTime (s : State) : Bool :=
  match s.store.patrolAt with
  | some t => decide (t + s.patrolPeriod ≤ s.time.ns)
  | none => true

/-- A pass of the NAND patrol begins: by its period, or at BG_NOW (R342, R462). -/
def State.patrolStart (s : State) : State :=
  if s.store.patrolling then s
  else if s.patrolTime then s.modStore (fun t => { t with patrolling := true, patrolAt := some s.time.ns })
  else if s.pwr.passes.contains 2 then s.modStore (fun t => { t with patrolling := true })
  else s

/-- The NAND patrol has read the last block: a pass is complete, and is reported (R28, R462). -/
def State.patrolled (s : State) (lun blk : Nat) : State :=
  if lun + 1 = s.store.luns && blk + 1 = s.store.bpl then
    (((s.modStore (fun t => { t with patrolling := false })).count .PWR_BG_PASS 2 0 1).modPwr (fun p => { p with
      passes := p.passes.filter (· ≠ 2) })).scrubReportFree
  else s

/-- The partition of a page that a block holds. -/
def State.partIn (s : State) (k page : Nat) : Nat :=
  (((s.blkPages k).find? (fun x => x.page = page)).map (·.part)).getD 0

/-- Patrol reads every written page of a block: `corrected` bits in all, at most `worst` in one codeword, and codewords
`bad`, each as logical page × 8 + codeword, that did not decode (R342). A pass begins with the first block of the first LUN. -/
def execNandPatrol (lun blk worst corrected : Nat) (bad : List Nat) (s : State) : Host.Outcome State Fault Refusal :=
  let s := if lun = 0 && blk = 0 && !s.pwrfail && decide (s.power < 2) then s.patrolStart else s
  if s.pwrfail || decide (2 ≤ s.power) || !s.store.patrolling then .next s
  else
    let k := 65536 * lun + blk
    let part := if blk < s.store.cus then 1 else 2
    let s := s.noteCorrected corrected
    let s := bad.foldl (fun s c => (s.noteUncorrectable lun (s.partIn k (c / 8)) (c / 8)).scrubCount.scrubReportFree) s
    let s := if part = 1 then s.cusLoses (bad.map (· / 8)) else s
    .next ((s.refresh part k worst bad).patrolled lun blk)

/-! ### The host's commands (R339, R340, R348, R351) -/

/-- A command of the store ends with a result. -/
def State.storeDone (s : State) (result : Nat) : State :=
  (s.set .STORE_CMD_STATUS 0 0 (2 + result * 4)).raise .STORE_INT 0 6

/-- The host buffer of a command; bits [5:0] must be 0 and are taken as 0. -/
def State.storeAddr (s : State) : Nat :=
  (s.get .STORE_ADDR_LO 0 0 / 64 * 64) + s.get .STORE_ADDR_HI 0 0 * 2 ^ 32

/-- The store cannot serve a page: BUSY after PWRFAIL_N, NO_KEY, or BUSY while it starts, flushes or is off. -/
def State.storeBusy (s : State) : Option Nat :=
  if s.pwrfail then some 4
  else if s.storeState = 4 then some 5
  else if s.storeOn then none
  else some 4

/-- A Logbook record (Table 14-1). -/
def LogRec.bytes (r : LogRec) : Bytes :=
  let b := toLE 2 r.code ++ toLE 2 (b2n r.damaged + b2n r.staged * 2) ++ toLE 4 r.seq ++ toLE 2 r.rep ++ toLE 5 r.opSec
    ++ toLE 1 (r.quality % 16 + r.snap.length * 16) ++ toLE 4 r.powerCycles ++ toLE 6 r.taiS ++ toLE 4 r.taiNs
    ++ toLE 2 r.lastDelta ++ toLE 4 r.key ++ toLE 4 r.detail ++ fit 48 (r.snap.flatMap (fun x => toLE 4 x.1))
    ++ fit 36 (r.snap.flatMap (fun x => toLE 3 x.2))
  b ++ toLE 4 (crc32 b)

/-- A page of records, padded. -/
def logPage (rs : List LogRec) : Bytes := fit pageBytes (rs.flatMap LogRec.bytes)

/-- A page of the permanent array (R375). -/
def State.permPage (s : State) (page : Nat) : Bytes := logPage ((s.log.permanent.drop (128 * page)).take 128)

/-- The cached copy of a page: the latest (R337), and the array's of a mirror page that is still
to be programmed (R375). -/
def State.cachedPage (s : State) (part page : Nat) : Option Bytes :=
  if part = 2 then
    let cs := s.store.cache.filter (·.part = 2)
    let n := max 1 (s.partPages 2)
    (cs[(page + n - s.store.map.a.tail) % n]?).map (fun c => fit pageBytes c.data)
  else if part = 3 && s.store.mirror.contains page then some (s.permPage page)
  else none

/-- What a read of a page from the array gives: its content with the codewords zeroed that did not decode. A page whose header did not
decode with codeword 7 counts as unwritten, and reads as zeros (R330, R339). -/
def State.readData (s : State) (x : NandPage) (bad : List Nat) : Bytes :=
  if bad.any (fun c => c % 8 = 7) then [] else s.pageData x bad

/-- READ of a page of PROFILE or LOG (R339); `bad` are its codewords that did not decode, and `corrected` and `worst` the
corrected bits of the read. -/
def execStoreRead (part worst corrected : Nat) (bad : List Nat) (s : State) : Host.Outcome State Fault Refusal :=
  if s.hostHeld then .next s else
  let page := s.get .STORE_ARG 0 0
  let answer (s : State) (d : Bytes) (r : Nat) : State :=
    (s.modHost (fun h => { h with mem := memWrite h.mem s.storeAddr (fit pageBytes d) })).storeDone r
  if part != 2 && part != 3 then .next (s.storeDone 1)
  else
    match s.storeBusy with
    | some r => .next (s.storeDone r)
    | none =>
      if s.partPages part ≤ page then .next (s.storeDone 2)
      else
        match s.cachedPage part page with
        | some d => .next (answer s d 0)
        | none =>
          match s.nandPage part page with
          | none => .next (answer s [] 0)
          | some x =>
            let d := s.readData x bad
            let k := Map.getD (s.mapOf part).pages (pageKey part page) 0 / 4096
            let s := s.noteCorrected corrected
            let s := bad.foldl (fun s _ => s.noteUncorrectable (k / 65536) part page) s
            let s := s.refresh part k worst (bad.map (fun c => page * 8 + c % 8))
            .next (answer s d (if x.bad.isEmpty && bad.isEmpty then 0 else 3))

/-- DISCARD of a page range of PROFILE: the mapping, and a cached copy, are dropped (R340, Table 12-7). -/
def execStoreDiscard (part count : Nat) (s : State) : Host.Outcome State Fault Refusal :=
  if s.hostHeld then .next s else
  let page := s.get .STORE_ARG 0 0
  if part != 2 then .next (s.storeDone 1)
  else
    match s.storeBusy with
    | some r => .next (s.storeDone r)
    | none =>
      if s.partPages 2 < page + count || count = 0 then .next (s.storeDone 2)
      else
        let n := max 1 (s.partPages 2)
        let inRange (p : Nat) : Bool := decide (page ≤ p) && decide (p < page + count)
        let cs := s.store.cache.filter (·.part = 2)
        let others := s.store.cache.filter (·.part != 2)
        let kept := (cs.zip (List.range cs.length)).map (fun x =>
          if inRange ((s.store.map.a.tail + x.2) % n) then { x.1 with data := if x.1.closed then zeros pageBytes else [] }
          else x.1)
        let s := s.modStore (fun t => { t with cache := kept ++ others })
        .next ((s.mapNote ⟨6, 2, 0, false, page, 0, 0, count⟩).storeDone 0)

/-- The health page (Table 12-8). -/
def State.healthPage (s : State) : Bytes :=
  let t := s.store
  let h := t.health
  let es := s.nativeErases
  let n := s.nativeCount
  let all := if es.length < n then 0 :: es else es
  let sat (k : Nat) (v : Nat) : Bytes := toLE k (min v (2 ^ (8 * k) - 1))
  let b := toLE 2 1 ++ toLE 1 s.sparePct ++ toLE 1 s.wearPct ++ toLE 1 s.wearSlcPct ++ zeros 3
    ++ sat 4 ((t.map.blks ++ t.cusMap.blks).filter (·.2.role = 5)).length ++ sat 4 ((List.range t.luns).map s.spareOf).sum
    ++ sat 8 (h.committed / 1048576) ++ sat 8 (h.programmed / 1048576) ++ sat 8 h.corr ++ sat 4 h.uncorr
    ++ sat 4 h.refreshes ++ sat 4 ((all.max?).getD 0) ++ sat 4 (100 * es.sum / max 1 n) ++ sat 4 ((all.min?).getD 0)
    ++ sat 4 h.flushes ++ (h.bins.take 16).flatMap (fun m => sat 4 (m / 60))
    ++ (h.chUncorr.take 8).flatMap (sat 4) ++ (h.chRetired.take 8).flatMap (sat 4) ++ zeros 60
  let b := fit 252 b
  b ++ toLE 4 (crc32 b)

/-- HEALTH writes the health page to the host buffer; BUSY after PWRFAIL_N (R347, R348). -/
def execStoreHealth (s : State) : Host.Outcome State Fault Refusal :=
  if s.hostHeld then .next s else
  if s.pwrfail || s.storeState = 6 || s.storeState = 7 then .next (s.storeDone 4)
  else .next ((s.modHost (fun h => { h with mem := memWrite h.mem s.storeAddr s.healthPage })).storeDone 0)

/-- Every 60 s the hottest LUN is read, at GEOMETRY's feature address, or the device junction when that is 0; the hour counts
of its bins follow (Table 12-8). `tj` is the junction in 0.01 °C. -/
def State.storeTemp (s : State) (tj : Int) : State :=
  if s.store.luns = 0 || !decide (s.store.tempAt + 60000000000 ≤ s.time.ns) then s
  else
    let own := s.itemLE 0xE0 1 2 1 0 = 0
    let c : Int := if own then tj / 100 else Config.lunTemp s.free
    let s := if own then s else { s with free := s.free + 1 }
    s.modStore (fun t => { t with
      hottest := max (-128) (min 127 c)
      health := { t.health with bins := updAt t.health.bins (min 15 ((c + 40) / 10).toNat) (· + 1) }
      tempAt := t.tempAt + 60000000000 * ((s.time.ns - t.tempAt) / 60000000000) })

/-! ### The section (R329, R349, R350) -/

/-- A value of an item, or its default when the plan has no such item. -/
def State.storeItem (s : State) (type o n d : Nat) : Nat := s.itemLE 0xE0 type o n d

/-- The registers that hold the STORE section (Table 12-13). -/
def State.storeRegs (s : State) : State :=
  let i := s.storeItem
  let s := s.set .STORE_CFG0 0 0 (i 4 0 1 7 + i 4 1 1 80 * 2 ^ 5 + i 4 4 1 2 % 32 * 2 ^ 13 + i 4 2 2 200 * 2 ^ 18)
  let s := s.set .STORE_CFG1 0 0 (i 4 6 2 3000 + i 4 8 2 30000 * 2 ^ 16)
  let s := s.set .STORE_CFG2 0 0 (i 3 0 1 1 + i 3 1 1 10 * 2 + i 3 4 2 18 * 2 ^ 8 + i 3 2 2 64 * 2 ^ 20)
  s.setFlag .STORE_STATUS 0 0 3 (i 3 0 1 1 = 1)

/-- The STORE section is applied: the store is STARTING until it is READY (R345). -/
def State.storeConfig (s : State) : State := s.storeRegs.setStore 1

/-- What the section claims exceeds the array, or the array breaks Table 12-1 (R329, R350). -/
def State.storeShort (s : State) : Bool :=
  let t := s.store
  let cus := if t.cus = 0 then s.cusShare (s.partMiB 1) else t.cus
  let claim := t.luns * (cus + s.bufClaim + 4) + s.partBlocks 2 + s.partBlocks 3 + s.partBlocks 4
    + ceilDiv (t.luns * t.bpl * s.spareMin) 100
  let fits := decide (1 ≤ t.luns) && decide (t.luns ≤ 128) && t.ppb % 3 = 0 && decide (384 ≤ t.ppb) && decide (t.ppb ≤ 4095)
    && decide (t.bpl ≤ 65535)
  !t.good || !fits || decide (t.luns * t.bpl < claim)

/-! ### Start and format (R333, R345, R346) -/

/-- A format (R333): every block outside the Customs region awaits its erase, partitions 2-4 become empty, and a checkpoint carries the
new fingerprint. MAP is erased at once, and the mirror of the permanent array is written again (R375). The first format lays the
Customs region out, and blocks that the factory marked bad are retired (R341, R348). -/
def State.storeFormat (s : State) : State :=
  let first : Bool := s.store.cus = 0
  let cus := if first then s.cusShare (s.partMiB 1) else s.store.cus
  let inMap (k : Nat) : Bool := decide (cus ≤ k % 65536) && decide (k % 65536 < cus + 4)
  let s := s.modStore (fun t => { t with
    cus := cus
    cusMiB := if first then s.partMiB 1 else t.cusMiB
    cusMap := if first then StoreMap.empty 0 s.copyPages else t.cusMap
    map := { StoreMap.empty 0 8 with
      unlisted := 8
      blks := (t.map.blks.filter (fun e => decide (cus ≤ e.1 % 65536))).map (fun e =>
        (e.1, if e.2.role = 5 then e.2 else ⟨if inMap e.1 then 3 else 8, e.2.oneBit, e.2.erases, 0, 0, 0, 0⟩)) }
    nand := t.nand.filter (fun e => !inMap e.1)
    health := if first then Health.zero else t.health
    cache := [], entries := [], mapSeq := 0, mapAt := 4 * t.luns - 1, ckpts := []
    mirror := List.range (ceilDiv s.log.permanent.length 128) })
  let s := if first then s.store.factory.foldl (fun s k => s.retireNand (if k % 65536 < cus then 1 else 0) k 4) s else s
  (s.mapAdvance.mapCheckpoint.raise .STORE_INT 0 2).event 0x1001 0 0

/-- The pages of MAP that read, by their sequence, as the key in slot 2 decrypts them; a page's CRC is good when its codewords decode. -/
def State.mapPages (s : State) : Map Bytes :=
  ((List.range (4 * s.store.luns)).flatMap (fun m => s.blkPages (s.mapBlk m))).foldl (fun ps x =>
    if x.bad.isEmpty then Map.put ps x.page (x.open s.keyNo (s.keySlot 2).key) else ps) []

/-- A page of MAP carries the fingerprint of the key in slot 2 (R333). -/
def State.fpOf (s : State) (d : Bytes) : Bool := slice d 24 16 = fingerprint (s.keySlot 2).material

/-- The newest page of MAP that reads carries the fingerprint of the key in slot 2. -/
def State.sameKey (s : State) : Bool := (s.mapPages.getLast?).any (fun p => s.fpOf p.2)

/-- The entries of a journal page. -/
def entriesOf (d : Bytes) : List MapEntry := (List.range (leAt d 20 2)).map (fun k => MapEntry.ofBytes (slice d (64 + 16 * k) 16))

/-- Entries that concern the main map: the Customs region has its page headers (R341). -/
def mainEntries (es : List MapEntry) : List MapEntry := es.filter (fun e => e.part ≠ 1)

/-- The journal pages that follow a checkpoint, replayed up to the first gap or failed CRC (R345). -/
def replayMap (g : MapGeo) (pages : Map Bytes) : Nat → Nat → StoreMap → StoreMap
  | 0, _, m => m
  | n + 1, q, m =>
    match Map.get? pages q with
    | some d => if leAt d 2 2 = 1 then replayMap g pages n (q + 1) ((mainEntries (entriesOf d)).foldl (StoreMap.apply g) m) else m
    | none => m

/-- Blocks outside the Customs region and MAP that hold pages. -/
def State.written (s : State) : Map (List NandPage) :=
  s.store.nand.filter (fun e => decide (s.store.cus + 4 ≤ e.1 % 65536) && !e.2.isEmpty)

/-- The page headers of every open log or flush block from the first unjournaled page up to the first unwritten one, and of one-bit
blocks that the map holds to be erased; copies of a fold without a FOLD entry await their erase (R335, R345). -/
def State.headerScan (s : State) : State :=
  let s := s.written.foldl (fun s e =>
    let b := s.store.map.info e.1
    if b.role != 0 then s
    else
      let oneBit := (e.2.head?.map (·.oneBit)).getD false
      s.modMap 2 (fun m => m.modInfo e.1 (fun _ =>
        ⟨if oneBit then 6 else 4, oneBit, b.erases, 0, 0, (e.2.head?.map (·.seq)).getD 0, 0⟩))) s
  let late : Map (Nat × Nat × NandPage) := s.written.foldl (fun l e =>
    let b := s.store.map.info e.1
    if b.role = 2 || b.role = 6 then
      let xs := (e.2.drop b.next).takeWhile (·.headOk)
      (xs.zip (List.range xs.length)).foldl (fun l x => Map.put l x.1.seq (e.1, b.next + x.2, x.1)) l
    else l) []
  late.foldl (fun s x =>
    s.mapNote ⟨1, x.2.2.2.part, x.2.1 / 65536, true, x.2.2.2.page, x.2.1 % 65536, x.2.2.1, 0⟩) s

/-- A ring as its mapped pages give it: from the first page without a page before it. -/
def ringOf (base cap : Nat) (held : List Nat) : Ring :=
  let head := (held.find? (fun p => !held.contains (if p = base then base + cap - 1 else p - 1))).getD base
  ⟨head, base + (head - base + held.length) % max 1 cap, held.length, 0⟩

/-- The map as the headers of every written page give it, when both checkpoints fail (R345). -/
def State.headerMap (s : State) : StoreMap :=
  let w := s.written
  let all : Map (Nat × Nat) := w.foldl (fun l e =>
    (e.2.zip (List.range e.2.length)).foldl (fun l x =>
      if x.1.headOk then Map.put l x.1.seq (pageKey x.1.part x.1.page, 4096 * e.1 + x.2) else l) l) []
  let pages := all.foldl (fun ps x => Map.put ps x.2.1 x.2.2) []
  let blks : Map BlkInfo := w.foldl (fun bs e =>
    let x : Option NandPage := e.2.head?
    let oneBit : Bool := (x.map (·.oneBit)).getD false
    Map.put bs e.1 ⟨if oneBit then 6 else 1, oneBit, 0, (x.map (·.part)).getD 0,
      (x.map (·.page)).getD 0 / max 1 s.store.ppb, (x.map (·.seq)).getD 0, e.2.length⟩) []
  let blks := s.store.factory.foldl (fun bs k => Map.put bs k ⟨5, false, 0, 0, 0, 0, 0⟩) blks
  let heldIn (p : Nat) : List Nat := (pages.filter (fun e => e.1 / 2 ^ 32 = p)).map (fun e => e.1 % 2 ^ 32)
  let g := s.geo
  ({ StoreMap.empty 0 8 with
    blks := blks
    pages := pages
    a := ringOf 0 g.aCap (heldIn 2)
    b := ringOf 8 g.bCap ((heldIn 3).filter (fun p => decide (8 ≤ p))) } : StoreMap).release

/-- The store rebuilds its map (R345): the newest checkpoint that reads with the current fingerprint, the journal after it, entries that
were still in the buffer, and page headers; or from the headers alone. -/
def State.mapLoad (s : State) : State :=
  let ps := s.mapPages.filter (fun p => s.fpOf p.2)
  match s.store.ckpts.find? (fun c => (Map.get? ps c.seq).any (fun d => leAt d 2 2 = 2)) with
  | some c =>
    let m := replayMap s.geo ps (s.store.mapSeq - c.seq) (c.seq + 1) c.map
    let m := (mainEntries s.store.entries).foldl (StoreMap.apply s.geo) m
    (s.modStore (fun t => { t with map := m })).headerScan
  | none =>
    (s.modStore (fun t => { t with map := s.headerMap, entries := [], health := Health.zero })).mapCheckpoint

/-- The flush that the last power-down began left no flush_end (R346). -/
def State.flushReport (s : State) : State :=
  let s := if s.store.down && !s.store.flushEnd then (s.raise .STORE_INT 0 5).event 0x1005 s.store.flushStep 0 else s
  s.modStore (fun t => { t with down := false, flushEnd := false, flushStep := 0 })

/-- The store starts (R333, R345, R346): a missing flush_end is reported, the Customs rings are located, and the fingerprint decides
between the map that was and a format. -/
def execStoreStart (s : State) : Host.Outcome State Fault Refusal :=
  if s.inService && (s.storeState = 0 || s.storeState = 1) then
    let s := (s.setFlag .STORE_STATUS 0 0 12 s.hasRegion).flushReport.useSlot 2
    if !(s.keySlot 2).valid then .next (s.setStore 4).aidDrain
    else
      let s := if s.sameKey then s.mapLoad else s.storeFormat
      .next ((s.setFlag .STORE_STATUS 0 0 12 true).storeReady).aidDrain
  else .next s

/-- Every 600 s GNSS aiding data is saved in the store (R298): the last position, and almanac and ephemeris whose layout
the spec does not give (assumption 2). -/
def execGnssAidingSave (s : State) : Host.Outcome State Fault Refusal :=
  if !s.bgDue 4 600 then .next s
  else
    let s := s.bgRan 4
    if s.hasSection 0xC0 && decide (s.storeState ≤ 5) && s.storeState != 0 then
      let pos := [Reg.GNSS_POS_X_LO, .GNSS_POS_X_HI, .GNSS_POS_Y_LO, .GNSS_POS_Y_HI, .GNSS_POS_Z_LO, .GNSS_POS_Z_HI]
      let d := pos.flatMap (fun r => toLE 4 (s.read r 0 0)) ++ Config.reportBody s.free
      let s := if s.storeDrops then s else s.modTime (fun t => { t with aidSaved := t.aid })
      .next (({ s with free := s.free + 1 }).aidSave 0 d)
    else .next s

end Sys2Proof.Machine
end

