-- ==== Sys2Proof/Machine/Customs.lean ====
section
/-!
DEFINITION. The Customs domain: records and journal, boundaries, hand-offs, tamper and metrology (R197-R235).
-/
namespace Sys2Proof.Machine

/-- The site's identity in every Customs format (R211). -/
abbrev siteId : Nat := 0xFFFFFF

/-! ### Records, tags and the journal (R200, R210, R229, R233) -/

/-- The 16-byte tag of a record (R200), under the key derived at the Customs start. -/
def State.cusTag (s : State) (type epx : Nat) (content : Bytes) : Bytes :=
  Config.kmac256 (s.customs.sealKey.getD (Config.customsSeal (s.keySlot 1).material)) (ascii "VQ-CUS") (toLE 1 type ++ toLE 4 epx ++ content) 16

/-- Bytes 0-1,007 of a billing record (Table 7-2). -/
def BillRec.body (r : BillRec) : Bytes :=
  toLE 8 r.serial ++ toLE 4 r.lastEnd ++ toLE 2 r.seq ++ toLE 2 r.period ++ r.energy.flatMap (toLE 8)
    ++ r.reported.flatMap (toLE 8) ++ r.demand.flatMap (fun d => toLE 4 d.1 ++ toLE 4 d.2)
    ++ r.tamper.flatMap (fun t => toLE 2 t.1 ++ toLE 4 t.2.1 ++ toLE 4 t.2.2)

/-- A billing record read from its bytes. -/
def BillRec.ofBytes (b : Bytes) : BillRec where
  serial := leAt b 0 8
  lastEnd := leAt b 8 4
  seq := leAt b 12 2
  period := leAt b 14 2
  energy := (List.range 64).map (fun i => leAt b (16 + 8 * i) 8)
  reported := (List.range 4).map (fun i => leAt b (528 + 8 * i) 8)
  demand := (List.range 16).map (fun i => (leAt b (560 + 8 * i) 4, leAt b (564 + 8 * i) 4))
  tamper := (List.range 32).map (fun i => (leAt b (688 + 10 * i) 2, leAt b (690 + 10 * i) 4, leAt b (694 + 10 * i) 4))

/-- The 1,024 bytes of a record; the type byte under which a record in place is sealed is COPY's (assumption 24). -/
def State.billBytes (s : State) (epx : Nat) (r : BillRec) : Bytes := r.body ++ s.cusTag 8 epx r.body

/-- A billing record; the site's for its identity. -/
def State.bill (s : State) (epx : Nat) : BillRec :=
  if epx = siteId then s.customs.site else Map.getD s.customs.recs epx BillRec.empty

/-- Store a billing record. -/
def State.setBill (s : State) (epx : Nat) (r : BillRec) : State :=
  s.modCustoms (fun c =>
    if epx = siteId then { c with site := r } else { c with recs := Map.putD c.recs epx r BillRec.empty })

/-- Store a changed record: seq rises by one (R210). -/
def State.changeBill (s : State) (epx : Nat) (r : BillRec) : State :=
  s.setBill epx { r with seq := (r.seq + 1) % 2 ^ 16 }

/-- Records that a page takes from byte `off` of the first: those that it ends, and the bytes it takes of the one after them, counted
from that record's start. -/
def cusFill : Nat → Nat → List CusRec → Nat × Nat
  | _, _, [] => (0, 0)
  | room, off, r :: rs =>
    let n := r.bytes.length - off
    if n ≤ room then
      let x := cusFill (room - n) 0 rs
      (x.1 + 1, x.2)
    else (0, off + room)

/-- The records at the front of the buffer that go to one ring: COPY records to the COPY ring, all others to LEGAL (R341). -/
def cusRun (b : List CusRec) : List CusRec :=
  let copy : Bool := b.head?.any (·.type = 8)
  b.takeWhile (fun r => (r.type = 8) = copy)

/-- A COPY is needed no more: its endpoint's record is empty, or a later COPY stands in the partition (R235, R341). -/
def State.covered (s : State) (r : CusRec) : Bool :=
  (r.epx != siteId && (s.bill r.epx).serial = 0) || s.customs.part.reverse.find? (fun x => x.type = 8 && x.epx = r.epx) != some r

/-- A record of the LEGAL ring that Customs may release: older than 397 days, and none that a restoration still replays (R230, R235,
R341). -/
def State.expired (s : State) (r : CusRec) : Bool :=
  r.type != 8 && decide (r.at' + 397 * 86400 < s.cSec)
    && (if r.type = 1 || r.type = 2 || r.type = 7 then r.epx = siteId || (s.bill r.epx).serial = 0
          || s.customs.part.any (fun x => x.type = 8 && x.epx = r.epx && decide (r.at' ≤ x.at'))
        else r.type != 9 || s.customs.mbxRec.isEmpty)

/-- Customs may release a record of a ring. -/
def State.releasableRec (s : State) (r : CusRec) : Bool := if r.type = 8 then s.covered r else s.expired r

/-- The logical block at a ring's head is released when Customs needs no record in it (R341); the head then advances past it, and its
blocks await their erase. -/
def State.cusRelease (s : State) (copy : Bool) : State :=
  let m := s.store.cusMap
  let r := if copy then m.a else m.b
  let g := s.cusGeo
  let n := s.headBlock r
  let inHead (x : CusRec) : Bool := (x.type = 8) = copy && decide (r.head ≤ x.first) && decide (x.first < r.head + n)
  if n = 0 || !s.hasRegion || (s.customs.part.filter inHead).any (fun x => !s.releasableRec x) then s
  else
    let s := s.modCustoms (fun c => { c with part := c.part.filter (fun x => !inHead x) })
    s.mapNote (if copy then ringEntry 1 g.aBase g.aCap n r else ringEntry 1 g.bBase g.bCap n r)

/-- Pages of a ring of the Customs region that are free. -/
def State.cusFree (s : State) (copy : Bool) : Nat :=
  let g := s.cusGeo
  if copy then g.aCap - s.store.cusMap.a.used else g.bCap - s.store.cusMap.b.used

/-- The next page of the Customs journal and its program's result (R233, R337, R341, R343): bytes of the buffer's front records, which
may span pages, at the tail of their ring, in a landing block. Records that it ends are in the partition; the buffer keeps what a failed
program held. A full ring is given its oldest logical block when Customs needs no record in it, and otherwise the page waits (R230). -/
def State.cusProgram (s : State) (ok flush : Bool) : State :=
  let run := cusRun s.customs.buffer
  let copy : Bool := run.head?.any (·.type = 8)
  let s := if s.cusFree copy = 0 then s.cusRelease copy else s
  if run.isEmpty || !s.hasRegion || s.cusFree copy = 0 then s
  else
    let p := if copy then s.store.cusMap.a.tail else s.store.cusMap.b.tail
    match s.programTarget 1 p flush with
    | none => s
    | some (k, s) =>
      if !ok then s.retireNand 1 k 1
      else
        let off := s.customs.cusOff
        let f := cusFill pageBytes off run
        let data := slice (run.flatMap (·.bytes)) off pageBytes
        let ended := ((run.take f.1).zip (List.range f.1)).map (fun x =>
          { x.1 with first := if x.2 = 0 && off != 0 then x.1.first else p, page := p })
        let rest := s.customs.buffer.drop f.1
        let rest := if f.2 = 0 || (f.1 = 0 && off != 0) then rest else updAt rest 0 (fun r => { r with first := p })
        (s.programmed k 1 p data false).modCustoms (fun c => { c with
          buffer := rest, cusOff := f.2, part := c.part ++ ended })

/-- Unprogrammed bytes of the journal buffer. -/
def State.bufferBytes (s : State) : Nat := (s.customs.buffer.map (fun r => r.bytes.length)).sum - s.customs.cusOff

/-- The buffer holds at most 64 KiB: a record that does not fit waits for programs of the oldest pages, which one command takes
in (R233; assumption 63). With no place for a page the buffer keeps its records. -/
def State.cusSpill : Nat → State → State
  | 0, s => s
  | n + 1, s => if s.bufferBytes ≤ 65536 then s else State.cusSpill n (s.cusProgram true false)

/-- Every page of the buffer that has a place is programmed. -/
def State.cusFlush (s : State) : State :=
  (List.range (s.bufferBytes / pageBytes + s.customs.buffer.length + 1)).foldl (fun s _ => s.cusProgram true true) s

/-- Append a record to the journal buffer: tag word, content, tag (R233). After PWRFAIL_N the flush alone programs it (R236). -/
def State.journal (s : State) (type epx : Nat) (content : Bytes) : State :=
  let n := 20 + content.length
  let b := toLE 4 (type + n % 2 ^ 16 * 2 ^ 16) ++ content ++ s.cusTag type epx content
  let s := s.modCustoms (fun c => { c with buffer := c.buffer ++ [⟨type, epx, s.cSec, b, 0, 0, false, (s.record epx).cls = 0⟩] })
  if s.pwrfail then s else State.cusSpill (s.customs.buffer.length + 8) s

/-- Bytes of the LEGAL ring's records that are still in the buffer. -/
def State.legalPending (s : State) : Nat := (s.customs.buffer.map (fun r => if r.type = 8 then 0 else r.bytes.length)).sum

/-- A record of `n` bytes has room in the LEGAL ring, one page of which may stay partly empty (R230, R341). Before the first format
there is no ring, and records wait in the buffer. -/
def State.legalRoom (s : State) (n : Nat) : Bool :=
  !s.hasRegion || decide (s.legalPending + n + pageBytes ≤ s.cusFree false * pageBytes)

/-- Append a PROFILE record, releasing records older than 397 days for room; with no room it is not written, its entries are
lost and profile_full is set (R230). -/
def State.profile (s : State) (epx chan start quality seq : Nat) (es : List (Nat × Nat × Nat)) : State :=
  let body := toLE 3 epx ++ toLE 1 chan ++ toLE 4 start ++ toLE 1 es.length ++ toLE 1 quality ++ toLE 2 seq
    ++ es.flatMap (fun e => toLE 4 e.1 ++ toLE 1 e.2.1 ++ toLE 1 e.2.2)
  let body := body ++ zeros (ceilDiv body.length 4 * 4 - body.length)
  let s := if s.legalRoom (body.length + 20) then s else s.cusRelease false
  if s.legalRoom (body.length + 20) then
    (s.journal 1 epx body).setFlag .CUSTOMS_STATUS 0 0 5 false
  else
    let s := s.modCustoms (fun c => { c with
      dropped := (epx, chan, start, if epx = siteId then 1 else es.length) :: c.dropped })
    if s.flag .CUSTOMS_STATUS 0 0 5 then s
    else ((s.setFlag .CUSTOMS_STATUS 0 0 5 true).raise .CUSTOMS_INT 0 7).event 0x0A03 0 0

/-- Append a PERIOD record of a record as it stands (Table 7-7). -/
def State.periodRec (s : State) (epx period close : Nat) (r : BillRec) : State :=
  s.journal 2 epx (toLE 4 epx ++ toLE 4 period ++ toLE 8 close ++ r.body)

/-- A Customs return: notice or alarm of Table 7-11 (R232). -/
def State.notice (s : State) (code : Nat) (alarm : Bool) (arg : Nat) : State :=
  s.make (if alarm then kAlarm else kHostMsg) 0 noFlow 6 0 none
    (toLE 1 code ++ toLE 1 s.quality ++ zeros 2 ++ toLE 8 s.cSec ++ toLE 4 arg)

/-- The domain processes boundaries and metering: RESTORING or RUN, and its cores run. -/
def State.cusLive (s : State) : Bool := (s.customs.state = 1 || s.customs.state = 2) && !s.customs.restarting

/-! ### Restoration of a record (R201, R235) -/

/-- A record as replay has it so far: `top` is the latest seq seen, `cur` and `start` the billing period and the boundary at which
it began, as the BOUNDARY records give them. -/
structure Replay where
  r : BillRec
  top : Nat
  cur : Option Nat
  start : Nat

/-- Register a demand under a rate when it is greater (R213, R221). -/
def BillRec.takeDemand (r : BillRec) (t d start : Nat) : BillRec :=
  if (r.demand.getD t (0, 0)).1 < d then { r with demand := r.demand.set t (d, start % 2 ^ 32) } else r

/-- A tamper event at a second. -/
def BillRec.addTamper (r : BillRec) (kind now : Nat) : BillRec :=
  let old := r.tamper.getD kind (0, 0, 0)
  { r with tamper := r.tamper.set kind (satAdd 0xFFFF old.1 1, if old.1 = 0 then now else old.2.1, now) }

/-- Add Wh to a list at an index. -/
def addAt (l : List Nat) (i n : Nat) : List Nat := updAt l i (· + n)

/-- A PROFILE record of the site, replayed: its four entries, and BLOCK demand where its interval was wholly powered. -/
def replaySite (block : Bool) (r : BillRec) (x : CusRec) : BillRec :=
  let b := x.bytes
  let v (q : Nat) : Nat := leAt b (16 + 6 * q) 4
  let t := leAt b 21 1
  let start := leAt b 8 4
  let len := x.at' - start
  let r : BillRec := { r with
    energy := (List.range 4).foldl (fun e q => addAt e (16 * q + t) (v q)) r.energy
    reported := (List.range 4).map (fun q => r.reported.getD q 0 + v q)
    lastEnd := x.at' % 2 ^ 32 }
  if block && decide (60 ≤ len) && !bit (leAt b 20 1) 4 then r.takeDemand t (v 0 * 3600 / len) start else r

/-- A PROFILE record of an endpoint, replayed: rated energy, and demand of intervals that are not late (R213). -/
def replayEp (late : Nat) (r : BillRec) (x : CusRec) : BillRec :=
  let b := x.bytes
  let q := leAt b 7 1
  let start := leAt b 8 4
  let n := leAt b 12 1
  let r := (List.range n).foldl (fun (r : BillRec) i =>
    let v := leAt b (16 + 6 * i) 4
    let t := leAt b (21 + 6 * i) 1
    let r : BillRec := if q < 4 && (x.elec || q = 0) then { r with energy := addAt r.energy (16 * q + t) v } else r
    if q = 0 && late ≤ start + 900 * i then r.takeDemand t (4 * v) (start + 900 * i) else r) r
  if n = 0 then r else { r with lastEnd := max r.lastEnd (start + 900 * n) }

/-- One record of the partition, replayed (R235): a COPY is the record as it stood; a PROFILE record with a later seq adds to it; a
PERIOD record clears demand, or, written in the record's own period, is the final one and empties it (R214, R223). -/
def replayRec (block : Bool) (epx : Nat) (p : Replay) (x : CusRec) : Replay :=
  let b := x.bytes
  if x.lost then p
  else if x.type = 3 then
    { p with cur := some (leAt b 16 4), start := if bit (leAt b 13 1) 1 then leAt b 4 8 else p.start }
  else if x.epx != epx then p
  else
    match x.type with
    | 8 => { p with r := BillRec.ofBytes (b.drop 8), top := leAt b 20 2 }
    | 2 =>
      if epx != siteId && p.cur = some (leAt b 8 4) then { p with r := BillRec.empty }
      else { p with r := { p.r with demand := BillRec.empty.demand, period := (leAt b 8 4 + 1) % 2 ^ 16 } }
    | 7 => { p with r := p.r.addTamper (leAt b 4 1) (leAt b 8 8 % 2 ^ 32) }
    | 1 =>
      let seq := leAt b 14 2
      let ahead := (seq + 2 ^ 16 - p.r.seq) % 2 ^ 16
      if p.r.serial = 0 then { p with top := seq }
      else if ahead = 0 || 2 ^ 15 ≤ ahead then p
      else { p with r := if epx = siteId then replaySite block p.r x else replayEp p.start p.r x, top := seq }
    | _ => p

/-- The record as the partition rebuilds it: its latest COPY and what follows it (R235). -/
def State.rebuilt (s : State) (epx : Nat) : BillRec :=
  let first : BillRec := if epx = siteId then { BillRec.empty with serial := 0xFFFFFFFFFFFFFFFF } else BillRec.empty
  let p := (s.customs.part ++ s.customs.buffer).foldl
    (replayRec (s.metroCfg 3 1 0 = 0) epx) ⟨first, 0, none, 0⟩
  { p.r with seq := p.top }

/-- Restore a record that fails its tag before it is used (R201, R235). -/
def State.verifyBill (s : State) (epx : Nat) : State :=
  if s.customs.bad.contains epx then
    let r := s.rebuilt epx
    let s := (s.setBill epx r).modCustoms (fun c => { c with bad := c.bad.filter (· ≠ epx) })
    ((s.count .CUSTOMS_MAC_FAIL_CNT 0 0 1).raise .CUSTOMS_INT 0 4).notice 6 false epx
  else s

/-! ### The metrology front end (R202, R203, R206) -/

/-- The calibration of a channel in force: the user's, else the factory's (R206). -/
def State.chanCal (s : State) (ch : Nat) : Config.ChanCal :=
  match s.customs.userCal with
  | some b => Config.userCal b ch
  | none => Config.factoryCal ch

/-- The sample that the offset calibration took is replaced by the mean of its neighbours (R206). -/
def patchSample (k : Option Nat) (xs : List Int) : List Int :=
  match k with
  | none => xs
  | some i =>
    let a := xs.getD (i - 1) (xs.getD (i + 1) 0)
    let b := xs.getD (i + 1) (xs.getD (i - 1) 0)
    xs.set i (Int.tdiv (a + b) 2)

/-- The hourly offset of a channel: what its converter read in the sample that a calibration of this second took, else that of
the last calibration (R206). -/
def State.chanOffset (s : State) (ch : Nat) (xs : List Int) : Int :=
  let old := s.customs.offsets.getD ch 0
  match s.customs.calAt with
  | none => old
  | some i => xs.getD i old

/-- The hourly offsets after a second of metrology, by channel. -/
def State.takenOffsets (s : State) (m : MetroSec) : List Int :=
  (List.range 7).map (fun ch => s.chanOffset ch ((m.v ++ m.i ++ [m.neutral]).getD ch []))

/-- The calibrated samples of a channel: gain, offset and phase (R206). -/
def State.calibrated (s : State) (ch : Nat) (xs : List Int) : List Int :=
  let k := s.chanCal ch
  let off := k.offset + s.chanOffset ch xs
  let ys := (patchSample s.customs.calAt xs).map (fun x => Int.tdiv (k.gain * (x - off)) 16777216)
  if k.phase = 0 then ys else Config.delayed k.phase ys

/-- A ratio of the METRO item in 1/1,000; 1,000 while Customs holds none (assumption 63). -/
def State.ratio (s : State) (o : Nat) : Nat := s.metroCfg o 4 1000

/-- Sum of products of two lists. -/
def dotSum (a b : List Int) : Int := (a.zipWith (· * ·) b).sum

/-- A full-scale code is 500 mV on METRO_V and 250 mV on METRO_I and METRO_N (Table 19-3), and the ratios scale it to primary
values: the power of summed code products over `n` samples, in mW or mvar (R203). -/
def State.primaryPower (s : State) (n : Nat) (x : Int) : Int :=
  Int.tdiv (x * (500 * s.ratio 8 * (250 * s.ratio 12) : Nat)) ((2 ^ 46 * 1000000000 * max 1 n : Nat) : Int)

/-- The primary RMS value of codes with a full scale in mV and a ratio, in mV or mA. -/
def rmsOf (fs ratio : Nat) (xs : List Int) : Nat :=
  Nat.sqrt ((dotSum xs xs).natAbs * (fs * ratio) ^ 2 / (2 ^ 46 * 1000000 * max 1 xs.length))

/-- Phases of the wiring (R203). -/
def State.phases (s : State) : Nat := if s.metroCfg 2 1 0 = 1 then 1 else 3

/-- The sum of the phase currents, sample by sample. -/
def phaseSum (i : List (List Int)) : List Int :=
  i.foldl (fun a xs => (List.range (max a.length xs.length)).map (fun k => a.getD k 0 + xs.getD k 0)) []

/-- The sums of one second (R203, Table 7-15). -/
def State.metroSums (s : State) (m : MetroSec) : MetroSums :=
  let v := (List.range 3).map (fun k => s.calibrated k (m.v.getD k []))
  let i := (List.range 3).map (fun k => s.calibrated (3 + k) (m.i.getD k []))
  let n := m.neutral.length
  { n := n
    p := (v.zip i).map (fun x => s.primaryPower n (dotSum x.1 x.2))
    q := (v.zip i).map (fun x => s.primaryPower n (dotSum (Config.hilbert x.1) x.2))
    vrms := v.map (rmsOf 500 (s.ratio 8))
    irms := i.map (rmsOf 250 (s.ratio 12))
    inrms := rmsOf 250 (s.ratio 12) (s.calibrated 6 m.neutral)
    isum := rmsOf 250 (s.ratio 12) (phaseSum (i.take s.phases))
    freq := m.freq
    temp := m.temp }

/-! ### The site interval (R203, R220-R222) -/

/-- Take one quantity's share of a second: acc in mW × samples, whole Wh passed on. -/
def accumulate (acc energy : List Nat) (i n : Nat) : List Nat × List Nat × Nat :=
  let x := acc.getD i 0 + n
  let wh := x / 28800000000
  (acc.set i (x % 28800000000), addAt energy i wh, wh)

/-- The site demand method is SLIDING. -/
def State.sliding (s : State) : Bool := s.metroCfg 3 1 0 = 1

/-- A second's sums are accumulated (R203). -/
def State.metroTake (s : State) (m : MetroSums) : State :=
  let k := if s.metroCfg 2 1 0 = 1 then 1 else 3
  let p := (m.p.take k).sum
  let q := (m.q.take k).sum
  let c := s.customs
  let e := (c.openIv.map (·.energy)).getD [0, 0, 0, 0]
  let a := accumulate c.acc e (if 0 ≤ p then 0 else 1) (p.natAbs * m.n)
  let b := accumulate a.1 a.2.1 (if 0 ≤ q then 2 else 3) (q.natAbs * m.n)
  s.modCustoms (fun c => { c with
    acc := b.1, openIv := c.openIv.map (fun o => { o with energy := b.2.1 })
    subNow := if decide (0 ≤ p) then c.subNow + a.2.2 else c.subNow })

/-- The one-minute summary of the front end (R249), which the second's values add to. -/
def State.minuteTake (s : State) (m : MetroSums) : State :=
  let k := if s.metroCfg 2 1 0 = 1 then 1 else 3
  let p := (m.p.take k).sum
  let minute := (s.sec - 1) / 60
  let x := Map.getD s.bal.mins minute ⟨0, [0, 0, 0], 0, 0⟩
  let x' : MinSum :=
    { n := x.n + 1, v := (List.range 3).map (fun i => x.v.getD i 0 + m.vrms.getD i 0)
      aPlus := x.aPlus + (if 0 ≤ p then p.natAbs * m.n else 0)
      aMinus := x.aMinus + (if 0 ≤ p then 0 else p.natAbs * m.n) }
  s.modBal (fun b => { b with mins := Map.keep (Map.put b.mins minute x') (fun t _ => decide (minute < t + 2)) })

/-- Publish a second's values (Table 7-15). -/
def State.metroPublish (s : State) (m : MetroSums) : State :=
  let s := (List.range 3).foldl (fun s k =>
    let s := (s.set .CUSTOMS_V_RMS k 0 (m.vrms.getD k 0)).set .CUSTOMS_I_RMS k 0 (m.irms.getD k 0)
    (s.set .CUSTOMS_P k 0 (ofSigned 32 (Int.tdiv (m.p.getD k 0) 1000))).set .CUSTOMS_Q k 0
      (ofSigned 32 (Int.tdiv (m.q.getD k 0) 1000))) s
  let s := s.minuteTake m
  ((s.set .CUSTOMS_FREQ 0 0 m.freq).set .CUSTOMS_TEMP 0 0 (ofSigned 32 m.temp)).set .CUSTOMS_IN_RMS 0 0 m.inrms

/-- A site tamper event of a kind (R231, Table 7-6). -/
def State.siteTamper (s : State) (kind : Nat) : State :=
  let s := s.verifyBill siteId
  let s := s.changeBill siteId (s.customs.site.addTamper kind (s.cSec % 2 ^ 32))
  let s := s.modCustoms (fun c => { c with openIv := c.openIv.map (fun o => { o with status := o.status ||| 0x80 }) })
  ((s.journal 7 siteId (toLE 1 kind ++ zeros 3 ++ toLE 8 s.cSec)).raise .CUSTOMS_INT 0 5).notice 5 true kind

/-- A site tamper event reaches the domain: it waits while the cores restart. -/
def State.noteTamper (s : State) (kind : Nat) : State :=
  if s.cusLive then s.siteTamper kind
  else if s.customs.restarting then s.modCustoms (fun c => { c with tampers := c.tampers ++ [kind] })
  else s

/-- A phase voltage is below 20 % of nominal while its current exceeds 1 % of rated (kind 3 of Table 7-6; assumption 63). -/
def State.phaseMissing (s : State) (m : MetroSums) : Bool :=
  (List.range (s.phases)).any (fun k =>
    decide (5 * m.vrms.getD k 0 < Config.nominalMv) && decide (Config.ratedMa < 100 * m.irms.getD k 0))

/-- The power of phase `k` is reversed while that of the others is not (kind 4 of Table 7-6). -/
def State.phaseReversed (s : State) (m : MetroSums) (k : Nat) : Bool :=
  s.phases = 3 && decide (m.p.getD k 0 < 0) && (List.range 3).all (fun j => j = k || decide (0 < m.p.getD j 0))

/-- The neutral current exceeds the vector sum of the phase currents by 10 % of rated (kind 5 of Table 7-6; assumption 63). -/
def neutralHigh (m : MetroSums) : Bool := decide (10 * m.isum + Config.ratedMa < 10 * m.inrms)

/-- The metered tamper kinds of a second: kind 3 at once, kinds 4 and 5 when they have lasted 10 s, once per edge (R231). -/
def State.metroTampers (s : State) (m : MetroSums) : State :=
  let c := s.customs
  let volt := s.phaseMissing m
  let rev := (List.range 3).map (fun k => if s.phaseReversed m k then min 11 (c.revSecs.getD k 0 + 1) else 0)
  let neu := if neutralHigh m then min 11 (c.neutralSecs + 1) else 0
  let s := s.modCustoms (fun c => { c with revSecs := rev, neutralSecs := neu, voltMissing := volt })
  let s := if volt && !c.voltMissing then s.noteTamper 3 else s
  let s := if rev.contains 10 then s.noteTamper 4 else s
  if neu = 10 then s.noteTamper 5 else s

/-- A TIME second of metrology (R199, R202, R203): its sums are published and accumulated, or wait in the queue while the cores
restart; and the metered tamper kinds are judged (R231). -/
def execMetroSecond (m : MetroSec) (s : State) : Host.Outcome State Fault Refusal :=
  let c := s.customs
  if c.state = 0 || 3 ≤ c.state then .next s
  else
    let x := s.metroSums m
    let offs := s.takenOffsets m
    let s := (s.modCustoms (fun c => { c with running := true, offsets := offs, calAt := none })).metroPublish x
    if c.restarting then
      .next ((s.modCustoms (fun c => { c with
        queue := if c.queue.length < 64 then c.queue ++ [x] else c.queue })).metroTampers x)
    else .next ((s.metroTake x).metroTampers x)

/-- The grid boundary at or before a C in ns. -/
def gridOf (ns : Nat) : Nat := ns / 1000000000 / 900 * 900

/-- Whether intervals carry CLOCK and OVERLAP now (R208, R227). -/
def State.ivFlags (s : State) (start : Nat) : Nat :=
  (if s.customs.resid = 0 then 0 else 0x20) + (if start < s.customs.overlapTo then 0x40 else 0)

/-- Open a site interval at a C in ns with status bits. -/
def State.openInterval (s : State) (start status : Nat) : State :=
  s.modCustoms (fun c => { c with openIv := some ⟨start, [0, 0, 0, 0], status ||| s.ivFlags start, 0, start⟩ })

/-- Close the open site interval at a C in ns: energy rated, BLOCK demand, PROFILE record (R220-R222). -/
def State.closeInterval (s : State) (ending more : Nat) : State :=
  let s := s.verifyBill siteId
  match s.customs.openIv with
  | none => s
  | some o =>
    let rate := s.siteRate (gridOf o.start)
    let st := o.status ||| more ||| s.ivFlags o.start ||| (if rate.2 then 8 else 0)
    let len := (if o.status.testBit 4 then o.powered + (ending - o.since) else ending - o.start) / 1000000000
    let startS := o.start / 1000000000
    let d := o.energy.getD 0 0 * 3600 / max 1 len
    let r := s.customs.site
    let r := { r with
      energy := (List.range 4).foldl (fun e q => addAt e (16 * q + rate.1) (o.energy.getD q 0)) r.energy
      reported := (List.range 4).map (fun q => r.reported.getD q 0 + o.energy.getD q 0)
      lastEnd := ending / 1000000000 % 2 ^ 32 }
    let r := if !s.sliding && 60 ≤ len then r.takeDemand rate.1 d startS else r
    let s := s.changeBill siteId r
    let s := s.profile siteId 0 (startS % 2 ^ 32) s.quality s.customs.site.seq (o.energy.map (fun e => (e, st % 256, rate.1)))
    s.modCustoms (fun c => { c with openIv := none })

/-- A sub-interval ends at TAI second `b` (R221), once: they are kept whatever METRO selects, and demand is registered under SLIDING.
One that was in progress when the window restarted does not count among the five (assumption 63). -/
def State.subInterval (s : State) (b : Nat) : State :=
  let s := s.verifyBill siteId
  let c := s.customs
  if b ≤ c.subEnd then s
  else
    let l := if c.subCut then [] else (c.subNow :: c.subs).take 5
    let s := s.modCustoms (fun c => { c with subs := l, subNow := 0, subEnd := b, subCut := false })
    if l.length < 5 || !s.sliding then s
    else s.changeBill siteId (s.customs.site.takeDemand (s.siteRate ((b - 1) / 900 * 900)).1 (4 * l.sum) (b - 900))

/-- A 180 s sub-interval ends (R221). -/
def execDemandSubintervalEnd (s : State) : Host.Outcome State Fault Refusal :=
  if s.cusLive then .next (s.subInterval (s.cSec / 180 * 180)) else .next s

/-- The SLIDING window restarts at a C in ns (R221). -/
def State.restartWindow (s : State) (at' : Nat) : State :=
  s.modCustoms (fun c => { c with
    subs := [], subNow := 0, subEnd := at' / 180000000000 * 180, subCut := at' % 180000000000 != 0 })

/-! ### Boundaries (R223, R224, R227) -/

/-- The billing close of the ACTIVE calendar that is due at a boundary, as the label it names: that label, or the first one after
it where it does not occur, once per label (R217, R223). -/
def State.closeTarget (s : State) (b : Nat) : Option Nat :=
  match (s.cal s.activeSlot).ofType 2 with
  | v :: _ =>
    let l := s.label b
    let p := s.label (b - 900)
    let at' (x : Nat) : Nat :=
      let d := dateOf (x / 86400)
      dayOf d.1 d.2.1 (leAt v 12 1) * 86400 + leAt v 13 1 * 900
    [at' p, at' l].find? (fun t => decide (p < t) && decide (t ≤ l) && t != s.customs.closeLabel && s.activeSlot != 0)
  | [] => none

/-- Close the billing period at a boundary (R223 and Table 7-11). -/
def State.closePeriod (s : State) (b target : Nat) : State :=
  let old := s.customs.period
  let s := s.periodRec siteId old b s.customs.site
  let s := s.modCustoms (fun c => { c with period := (old + 1) % 2 ^ 32, periodStart := b, closeLabel := target })
  let s := s.changeBill siteId { s.customs.site with
    demand := BillRec.empty.demand, period := (old + 1) % 2 ^ 16 }
  (s.restartWindow (1000000000 * b)).raise .CUSTOMS_INT 0 3

/-- The slots that become ACTIVE at a boundary, in order: those whose activation had passed at acceptance, then the pending
calendar when its activation is reached (R218). -/
def State.activations (s : State) (b : Nat) : List Nat :=
  s.customs.due ++ (if s.pendingSlot != 0 && decide ((s.cal s.pendingSlot).activation ≤ b) then [s.pendingSlot] else [])

/-- A slot becomes ACTIVE, and the one it replaces RETIRED (R218). -/
def State.activate (s : State) (b slot : Nat) : State :=
  (s.modCustoms (fun c =>
    let old := c.cals.map (fun k : Cal => if k.state = 3 then { k with state := 4, until' := b } else k)
    { c with
      cals := updAt old (slot - 1) (fun k : Cal => { k with state := 3, from' := b })
      due := c.due.filter (· ≠ slot) })).raise .CUSTOMS_INT 0 2

/-- The site record is copied at every boundary (R234). -/
def State.copySite (s : State) : State := s.journal 8 siteId (toLE 4 siteId ++ s.billBytes siteId s.customs.site)

/-- Process a grid boundary above the high-water mark: the four steps, one BOUNDARY record, then the notices (R224). -/
def State.processBoundary (s : State) (b more : Nat) (reopen : Nat) : State :=
  let s := s.closeInterval (1000000000 * b) more
  let close := s.closeTarget b
  let s := match close with
    | some t => s.closePeriod b t
    | none => s
  let act := s.activations b
  let s := act.foldl (fun s n => s.activate b n) s
  let s := s.openInterval (1000000000 * b) reopen
  let s := s.modCustoms (fun c => { c with hwm := b })
  let slot := s.activeSlot
  let s := s.journal 3 siteId (toLE 8 b ++ toLE 1 s.quality
    ++ toLE 1 (9 + b2n close.isSome * 2 + b2n (!act.isEmpty) * 4) ++ zeros 2 ++ toLE 4 s.customs.period ++ toLE 1 slot ++ [0]
    ++ toLE 2 (s.cal slot).version ++ toLE 8 b)
  let s := s.copySite
  let s := if close.isSome then s.notice 1 false s.customs.period else s
  act.foldl (fun s n => s.notice 2 false (n + (s.cal n).version * 2 ^ 8)) s

/-- A boundary at `b`: one at or below HWM only closes and opens the interval (R224, R227). -/
def State.boundaryWith (s : State) (b more reopen : Nat) : State :=
  if b ≤ s.customs.hwm && s.customs.hwm != 0 then
    ((s.closeInterval (1000000000 * b) more).openInterval (1000000000 * b) reopen).copySite
  else s.processBoundary b more reopen

/-- C reaches a grid boundary: it ends a sub-interval too (R221, R224). -/
def State.boundary (s : State) (b : Nat) : State := (s.subInterval b).boundaryWith b 0 0

/-- C has reached the next grid boundary after the open interval's start (R224); before a first interval is open, the
latest boundary reached opens it. -/
def execGridBoundary (s : State) : Host.Outcome State Fault Refusal :=
  if !s.cusLive then .next s
  else
    match s.customs.openIv with
    | none => .next (s.boundary (gridOf s.cNs))
    | some o =>
      let b := gridOf o.start + 900
      if 1000000000 * b ≤ s.cNs then .next (s.boundary b) else .next s

/-! ### Steps of the timebase (R208, R209, R227) -/

/-- The boundaries of a forward jump and those of an outage: the first closes the open interval with `first`, each
interval that lies wholly between carries `mid`, and the last opens with `last`. -/
def State.passBoundaries (s : State) (first mid last : Nat) : List Nat → State
  | [] => s
  | [b] => s.boundaryWith b first last
  | b :: bs => (s.boundaryWith b first mid).passBoundaries mid mid last bs

/-- Grid boundaries above `a` and at or below `b`, in seconds. -/
def boundariesIn (a b : Nat) : List Nat := (List.range (b / 900 - a / 900)).map (fun i => (a / 900 + 1 + i) * 900)

/-- C has jumped from `old`, where the open interval was closed, to the timebase (R209, R227): OVERLAP is carried up to the old C
only where the new one is below HWM. -/
def State.customsJump (s : State) (jump : Int) (old : Nat) : State :=
  let ms := Int.tdiv jump (2 ^ 56 * 1000000 : Nat)
  let s := ((s.count .CUSTOMS_STEP_CNT 0 0 1).raise .CUSTOMS_INT 0 1).event 0x0A02 (ofSigned 32 ms) 0
  let s := s.journal 5 siteId (toLE 8 s.sec ++ toLE 4 (ofSigned 32 ms) ++ toLE 4 0)
  let new := s.cNs
  let s := s.restartWindow new
  let s :=
    if old ≤ new then
      let s := s.passBoundaries 0 0x24 0x24 (boundariesIn (old / 1000000000) (new / 1000000000))
      (s.modCustoms (fun c => { c with openIv := none })).openInterval new 0x20
    else if decide (new < 1000000000 * s.customs.hwm) then
      let s := (s.modCustoms (fun c => { c with overlapTo := max c.overlapTo old })).openInterval new 0x20
      (s.raise .CUSTOMS_INT 0 0).notice 4 true (ofSigned 32 ms)
    else s.openInterval new 0x20
  (s.restartWindow new).notice 3 false (ofSigned 32 ms)

/-- The timebase has stepped by `e` 2⁻¹⁶ ns: r takes the step, and beyond slew_limit C jumps (R208); the open interval closes at the
old C (R209). -/
def State.customsStep (s : State) (e : Int) : State :=
  if s.customs.state = 0 || 3 ≤ s.customs.state then s
  else
    let s := s.modCustoms (fun c => { c with resid := c.resid + e * (2 ^ 40 : Nat) })
    let s := s.modCustoms (fun c => { c with openIv := c.openIv.map (fun o => { o with status := o.status ||| s.ivFlags o.start }) })
    let r := s.customs.resid
    if s.metroCfg 4 1 5 * 1000000000 * 2 ^ 56 < r.natAbs then
      let old := s.cNs
      ((s.closeInterval old 0x20).modCustoms (fun c => { c with resid := 0 })).customsJump r old
    else s

/-- The residual reaches 0 (R208): at once when nothing is left, else after the time that 500 ppm take for the rest, which
must end within the present second. -/
def execCustomsSlewDone (s : State) : Host.Outcome State Fault Refusal :=
  let left := s.customs.resid.natAbs * 2000 / 2 ^ 56
  if (s.time.ns + left) / 1000000000 != s.sec then .next s
  else .next ((s.advanceTo (s.time.ns + left)).modCustoms (fun c => { c with resid := 0 }))

/-! ### Hand-offs (R212-R215) -/

/-- vee_flags in a profile status (Table 7-5). -/
def statusOf (f : Nat) : Nat :=
  b2n (bit f 7) + b2n (bit f 1 || bit f 2) * 2 + b2n (bit f 3) * 4 + b2n (bit f 4 || bit f 6) * 8

/-- Snapshot a record whose period is over (R223). -/
def State.snapshotBill (s : State) (epx : Nat) : State :=
  let r := s.bill epx
  let cur := s.customs.period
  if r.serial = 0 || r.period = cur % 2 ^ 16 then s
  else
    let old := cur - (cur + 2 ^ 16 - r.period) % 2 ^ 16
    (s.periodRec epx old s.customs.periodStart r).changeBill epx
      { r with demand := BillRec.empty.demand, period := cur % 2 ^ 16 }

/-- One endpoint interval applied: rating, demand and its profile entry (R213 steps 3-5, R228), with the times of tamper events. -/
def State.applyInterval (s : State) (q : Nat) (electric : Bool) (events : List Nat) (x : BillRec × List (Nat × Nat × Nat)) (start v f : Nat) :
    State × BillRec × List (Nat × Nat × Nat) :=
  let rate := s.epRate start
  let late := decide (start < s.customs.periodStart)
  let st := statusOf f ||| (if rate.2 then 8 else 0) ||| (if s.cSec + 900 < start + 900 then 0x20 else 0)
    ||| (if events.any (fun t => decide (start ≤ t) && decide (t < start + 900)) then 0x80 else 0)
  let has := decide (q < 4) && (electric || q = 0)
  let r := if has then { x.1 with energy := addAt x.1.energy (16 * q + rate.1) v } else x.1
  let r := if q = 0 && !late then r.takeDemand rate.1 (4 * v) start else r
  (if q = 0 && late then s.count .CUSTOMS_LATE_CNT 0 0 1 else s, r, x.2 ++ [(v, st, rate.1)])

/-- The intervals of one channel of a hand-off, those at or before `e` ignored and counted (R213 step 2). -/
def State.applyChannel (s : State) (q e start : Nat) (electric : Bool) (events : List Nat) (r : BillRec) :
    Nat → List (Nat × Nat) → State × BillRec × List (Nat × Nat × Nat) × Nat
  | _, [] => (s, r, [], 0)
  | i, (v, f) :: rest =>
    let b := start + 900 * i
    if b + 900 ≤ e then (s.count .CUSTOMS_DUP_CNT 0 0 1).applyChannel q e start electric events r (i + 1) rest
    else
      let x := s.applyInterval q electric events (r, []) b v f
      let y := x.1.applyChannel q e start electric events x.2.1 (i + 1) rest
      (y.1, y.2.1, x.2.2 ++ y.2.2.1, if y.2.2.1.isEmpty then b else min b y.2.2.2)

/-- A tamper entry (R213 step 7). -/
def BillRec.takeTamper (r : BillRec) (v : Bytes) : BillRec :=
  let k := leAt v 0 1
  let old := r.tamper.getD k (0, 0, 0)
  let first := leAt v 4 4
  let f := if old.2.1 = 0 then first else if first = 0 then old.2.1 else min old.2.1 first
  { r with tamper := r.tamper.set k (max old.1 (leAt v 2 2), f, max old.2.2 (leAt v 8 4)) }

/-- Take the hand-off at the head of the mailbox off it. -/
def State.popMailbox (s : State) : State := s.modCustoms (fun c => { c with mailbox := c.mailbox.drop 1 })

/-- A READINGS hand-off applied to its record (R213). -/
def State.applyReadings (s : State) (h : Handoff) : State :=
  let b := h.body
  let epx := leAt b 0 4 % 2 ^ 22
  let cont := bit (leAt b 0 4) 24
  let s := (s.verifyBill epx).popMailbox
  if (s.bill epx).serial = 0 || (s.bill epx).serial != h.serial then
    (s.count .CUSTOMS_ORPHAN_CNT 0 0 1).notice 7 false epx
  else
    let s := s.snapshotBill epx
    let r := s.bill epx
    let last := s.fullSec 32 r.lastEnd
    let own := if r.lastEnd = 0 then 0 else last
    let e := if cont then Map.getD s.customs.frameEnds epx own else own
    let start := s.fullSec 32 (leAt b 4 4)
    let n := leAt b 8 1
    let chans := (List.range 8).filter (fun c => bit (leAt b 9 1) c)
    let nr := leAt b 10 1
    let nt := leAt b 11 1
    let stamp := leAt b 12 4
    let vals := 16
    let flags := vals + 4 * n * chans.length
    let regs := flags + ceilDiv (n * chans.length) 4 * 4
    let tam := regs + 12 * nr
    let electric := (s.record epx).cls = 0
    let tampered := (List.range nt).foldl (fun (r : BillRec) i => r.takeTamper (slice b (tam + 12 * i) 12)) r
    let events := (tampered.tamper.flatMap (fun k => [k.2.1, k.2.2])).filter (· ≠ 0)
    let x := ((List.range chans.length).zip chans).foldl
      (fun (a : State × BillRec × List (Nat × List (Nat × Nat × Nat) × Nat)) c =>
        let vs := (List.range n).map (fun i =>
          (leAt b (vals + 4 * (n * c.1 + i)) 4, leAt b (flags + n * c.1 + i) 1))
        let y := a.1.applyChannel c.2 e start electric events a.2.1 0 vs
        (y.1, y.2.1, a.2.2 ++ [(c.2, y.2.2.1, y.2.2.2)])) (s, r, [])
    let r := (List.range nr).foldl (fun (r : BillRec) i =>
      { r with reported := r.reported.set (leAt b (regs + 12 * i) 1) (leAt b (regs + 12 * i + 4) 8) }) x.2.1
    let r := (List.range nt).foldl (fun (r : BillRec) i => r.takeTamper (slice b (tam + 12 * i) 12)) r
    let ending := start + 900 * n
    let r := if n = 0 || ending ≤ last && r.lastEnd != 0 then r else { r with lastEnd := ending % 2 ^ 32 }
    let s := (x.1.changeBill epx r).count .CUSTOMS_HANDOFF_CNT 0 0 1
    let seq := (s.bill epx).seq
    let s := x.2.2.foldl (fun s c =>
      if c.2.1.isEmpty then s else s.profile epx c.1 (c.2.2 % 2 ^ 32) (stamp / 2 ^ 28) seq c.2.1) s
    let s := if x.2.2.all (fun c => c.2.1.isEmpty) then s.profile epx 0 (start % 2 ^ 32) (stamp / 2 ^ 28) seq [] else s
    s.modCustoms (fun c => { c with frameEnds := Map.put c.frameEnds epx e })

/-- Run a hand-off of a type while Customs applies them: in RUN, cores running, no power failure, and its records find room in
the journal buffer or can push older ones to the store (R215, R233, R235). -/
def State.onHandoff (s : State) (ok : Nat → Bool) (f : Handoff → State) : Host.Outcome State Fault Refusal :=
  match s.customs.mailbox with
  | [] => .next s
  | h :: _ =>
    if s.customs.state = 2 && !s.customs.restarting && !s.pwrfail && decide (s.bufferBytes ≤ (if s.hasRegion then 65536 else 49152)) && ok (bits (leAt h.body 0 4) 23 22) then .next (f h)
    else .next s

/-- READINGS at the head of the mailbox. -/
def execCustomsApplyReadings (s : State) : Host.Outcome State Fault Refusal :=
  s.onHandoff (fun t => t = 0 || t = 3) s.applyReadings

/-- The end of an OPEN or CLOSE: the record stands with the next seq, and its PROFILE record has no intervals (R213, R214). -/
def State.closeHandoff (s : State) (epx stamp : Nat) (r : BillRec) : State :=
  let s := (s.changeBill epx r).count .CUSTOMS_HANDOFF_CNT 0 0 1
  let s := s.modCustoms (fun c => { c with frameEnds := Map.del c.frameEnds epx })
  s.profile epx 0 (s.cSec % 2 ^ 32) (stamp / 2 ^ 28) (s.bill epx).seq []

/-- The record as a hand-off finds it: restored if its tag fails, snapshotted if its period is over (R213). -/
def State.readyBill (s : State) (epx : Nat) : State := ((s.verifyBill epx).popMailbox).snapshotBill epx

/-- OPEN (R214): a non-empty record is first written as a final PERIOD record. -/
def State.applyOpen (s : State) (h : Handoff) : State :=
  let epx := leAt h.body 0 4 % 2 ^ 22
  let s := s.readyBill epx
  let old := s.bill epx
  let s := if old.serial = 0 then s else s.periodRec epx s.customs.period s.cSec old
  s.closeHandoff epx (leAt h.body 12 4)
    { BillRec.empty with serial := leAt h.body 4 8, period := s.customs.period % 2 ^ 16, seq := old.seq }

/-- OPEN at the head of the mailbox. -/
def execCustomsApplyOpen (s : State) : Host.Outcome State Fault Refusal := s.onHandoff (· = 1) s.applyOpen

/-- CLOSE (R214). -/
def State.applyClose (s : State) (h : Handoff) : State :=
  let epx := leAt h.body 0 4 % 2 ^ 22
  let s := s.readyBill epx
  let old := s.bill epx
  let s := if old.serial = 0 then s else s.periodRec epx s.customs.period s.cSec old
  s.closeHandoff epx (leAt h.body 12 4) { BillRec.empty with seq := old.seq }

/-- CLOSE at the head of the mailbox. -/
def execCustomsApplyClose (s : State) : Host.Outcome State Fault Refusal := s.onHandoff (· = 2) s.applyClose

/-- Bytes of hand-offs in the mailbox (R215). -/
def State.mailboxBytes (s : State) : Nat := (s.customs.mailbox.map (fun h => h.body.length)).sum

/-! ### Lockstep, tamper, sweep and calibration (R199, R206, R231, R234) -/

/-- The power-down time, the accumulators and the open interval are journaled (R226). -/
def State.journalDown (s : State) : State :=
  let c := s.customs
  let s := s.journal 4 siteId (toLE 8 s.cSec ++ toLE 1 s.quality ++ zeros 3 ++ c.acc.flatMap (toLE 8)
    ++ ((c.openIv.map (·.energy)).getD [0, 0, 0, 0]).flatMap (toLE 4))
  let down : CusDown := ⟨s.cNs, c.acc, c.openIv⟩
  s.modCustoms (fun c => { c with down := some down })

/-- The seconds that waited while the cores restarted are accumulated (R199). -/
def State.drainQueue (s : State) : State :=
  s.customs.queue.foldl (fun s m => s.metroTake m) (s.modCustoms (fun c => { c with queue := [] }))

/-- The Customs cores disagree (R199). -/
def execLockstepMismatch (s : State) : Host.Outcome State Fault Refusal :=
  if s.customs.state = 0 || 3 ≤ s.customs.state then .next s
  else
    let ts := s.time.ns :: s.customs.mismatches.filter (fun t => decide (s.time.ns < t + 86400000000000))
    let s := (s.modCustoms (fun c => { c with mismatches := ts, restarting := true })).raise .CUSTOMS_INT 0 6
    let s := s.event 0x0A01 ts.length 0
    if ts.length < 3 then .next s
    else
      .next ((s.drainQueue.journalDown.modCustoms (fun c => { c with
        state := 3, restarting := false, running := false })).notice 8 true 0)

/-- The restart from ROM ends: the cores drain the queue and take the tamper events (R199). -/
def execCustomsRomRestart (s : State) : Host.Outcome State Fault Refusal :=
  if s.customs.restarting then
    let s := (s.modCustoms (fun c => { c with restarting := false })).drainQueue
    .next (s.customs.tampers.foldl (fun s k => s.siteTamper k) (s.modCustoms (fun c => { c with tampers := [] })))
  else .next s

/-- The front end holds a metered kind asserted: an event of it is no new edge (R231). -/
def State.tamperHeld (s : State) (kind : Nat) : Bool :=
  (kind = 3 && s.customs.voltMissing) || (kind = 4 && s.customs.revSecs.any (fun n => decide (10 ≤ n)))
    || (kind = 5 && decide (10 ≤ s.customs.neutralSecs))

/-- A debounced site tamper edge or condition: kinds 0-5, once per assertion edge; HOLDUP counts while PWRFAIL_N is deasserted
(Table 7-6). -/
def execSiteTamperEvent (kind : Nat) (s : State) : Host.Outcome State Fault Refusal :=
  if decide (kind < 6) && !(kind = 2 && s.pwrfail) && !s.tamperHeld kind then .next (s.noteTamper kind) else .next s

/-- The hourly offset calibration (R206, Table 1-9) takes the present sample period: with the second's METRO_SECOND the
converters' readings in it become the offsets, and that sample is replaced. -/
def execMetroOffsetCalibration (s : State) : Host.Outcome State Fault Refusal :=
  if s.customs.running && s.cSec % 900 = 0 && s.bgDue 3 3600 then
    .next ((s.bgRan 3).modCustoms (fun c => { c with calAt := some (s.time.ns % 1000000000 / 125000) }))
  else .next s

/-- One record of the sweep: snapshot after a close, COPY when its seq changed (R223, R234). -/
def State.sweepBill (s : State) (epx : Nat) : State :=
  let s := (s.verifyBill epx).snapshotBill epx
  let r := s.bill epx
  if r.serial = 0 || Map.get? s.customs.copied epx = some r.seq then s
  else
    (s.journal 8 epx (toLE 4 epx ++ s.billBytes epx r)).modCustoms (fun c => { c with
      copied := Map.put c.copied epx r.seq })

/-- sweep_min of the STORE item, in minutes (Table 7-9). -/
def State.sweepMin (s : State) : Nat :=
  match s.customs.sweepItem with
  | some v => leAt v 2 1
  | none => 60

/-- Endpoints whose latest COPY lies in the oldest logical block of a COPY ring with less than two such blocks free (R341). -/
def State.oldCopies (s : State) : List Nat :=
  let r := s.store.cusMap.a
  if !s.hasRegion || 2 * s.store.ppb ≤ s.cusFree true then []
  else
    let n := s.headBlock r
    let inHead (x : CusRec) : Bool := x.type = 8 && decide (r.head ≤ x.first) && decide (x.first < r.head + n)
    ((s.customs.part.filter (fun x => inHead x && !s.covered x)).map (·.epx)).eraseDups

/-- Fresh COPY records of endpoints, whether or not they changed; the COPY ring's oldest logical block is then released (R341). -/
def State.recopy (s : State) (epxs : List Nat) : State :=
  let s := s.modCustoms (fun c => { c with copied := Map.keep c.copied (fun e _ => !epxs.contains e) })
  if epxs.isEmpty then s else (epxs.foldl State.sweepBill s).cusRelease true

/-- The sweep of the billing region, in EPX order, once every sweep_min minutes (R234); what lies in the COPY ring's oldest logical
block is copied afresh when the ring needs it (R341). -/
def execBillingSweep (s : State) : Host.Outcome State Fault Refusal :=
  if s.cusLive && s.customs.state = 2 && s.bgDue 5 (60 * s.sweepMin) then
    let s := s.recopy s.oldCopies
    .next ((Map.keys s.customs.recs).foldl State.sweepBill (s.bgRan 5))
  else .next s

end Sys2Proof.Machine
end

