-- ==== Sys2Proof/Machine/Logbook.lean ====
section
/-!
DEFINITION. The Logbook (chapter 14): writing and merging records, its pages and the store, reading, clearing and starting.
-/
namespace Sys2Proof.Machine

/-- A zeroed buffer record (R383). -/
def LogRec.zero : LogRec := ⟨0, false, false, 0, 0, 0, 0, 0, 0, 0, 0, 0, 0, []⟩

/-- The bytes of a circulating page; a zeroed record is 128 zero bytes. -/
def circPage (rs : List LogRec) : Bytes := fit pageBytes (rs.flatMap (fun r => if r.seq < 1024 then zeros 128 else r.bytes))

/-- Full pages that are not durable (R376). -/
def LogState.waiting (l : LogState) : Nat := ((l.pages.drop l.done).filter (fun p => decide (128 ≤ p.length))).length

/-- The last page can take a record, or a new page can be opened: at most 3 full pages await programming (R376). -/
def LogState.pageRoom (l : LogState) : Bool :=
  match l.pages.getLast? with
  | none => true
  | some p => decide (p.length < 128) || decide (l.waiting ≤ 3)

/-- The newest record, while it is circulating and its page was not handed to the store (R382). -/
def State.mergeable (s : State) : Option LogRec :=
  match s.log.pages.getLast? with
  | none => none
  | some p =>
    match p.getLast? with
    | none => none
    | some r =>
      let handed := decide (128 ≤ p.length) && decide (s.log.waiting ≤ 3) && s.storeState != 4
      if r.seq = s.log.newestSeq && decide (1024 ≤ r.seq) && !handed then some r else none

/-- An event merges into the newest record (R382). -/
def State.merges (s : State) (e : LogEvent) : Option LogRec :=
  let rep := s.fld .LOG_CFG 0 0 11 0
  match s.mergeable with
  | none => none
  | some r =>
    if rep != 0 && r.code = e.code && r.key = e.key &&
        decide (1000000000 * e.sec + e.ns ≤ 1000000000 * (r.taiS + r.lastDelta + rep) + r.taiNs) then
      some r
    else none

/-- Change the newest circulating record of the buffer. -/
def LogState.updNewest (l : LogState) (f : LogRec → LogRec) : LogState :=
  { l with pages := updAt l.pages (l.pages.length - 1) (fun p => updAt p (p.length - 1) f) }

/-- Keep the newest 8 pages: older ones leave the buffer once they await no program (R376). -/
def LogState.trim (l : LogState) : LogState :=
  if 8 < l.pages.length && decide (0 < l.done) then { l with pages := l.pages.tail, done := l.done - 1 } else l

/-- A circulating record takes its place in the open page, or opens one. -/
def LogState.addCirc (l : LogState) (r : LogRec) : LogState :=
  match l.pages.getLast? with
  | some p =>
    if p.length < 128 then { l with pages := updAt l.pages (l.pages.length - 1) (· ++ [r]) }
    else ({ l with pages := l.pages ++ [[r]] } : LogState).trim
  | none => { l with pages := [[r]] }

/-- An event becomes a record of its own, with the next sequence number, or merges (R378, R382). A permanent record is written into the
array and its copy in the buffer, and its page of the mirror is due (R375, R376). -/
def State.logWrite (s : State) (e : LogEvent) : State :=
  match s.merges e with
  | some r =>
    s.modLog (fun l => l.updNewest (fun x => { x with
      rep := satAdd 0xFFFF x.rep 1
      lastDelta := min 0xFFFF ((1000000000 * e.sec + e.ns - (1000000000 * r.taiS + r.taiNs)) / 1000000000)
      detail := e.detail }))
  | none =>
    let l := s.log
    let rec' : LogRec :=
      { code := e.code, damaged := false, staged := e.staged, seq := l.nextSeq, rep := 0, opSec := l.opSec,
        quality := e.quality, powerCycles := l.powerCycles, taiS := e.sec, taiNs := e.ns, lastDelta := 0, key := e.key,
        detail := e.detail, snap := e.snap.take 12 }
    let seq := l.nextSeq
    let s := s.modLog (fun l => { l with nextSeq := (seq + 1) % 2 ^ 32, newestSeq := seq })
    if seq < 1024 then
      let page := l.permanent.length / 128
      let s := s.modLog (fun l => { l with
        permanent := l.permanent ++ [rec'], copy := l.copy ++ [rec'], permAt := some s.time.ns })
      let s := s.modStore (fun t => { t with mirror := if t.mirror.contains page then t.mirror else t.mirror ++ [page] })
      if seq = 1023 then s.raise .LOG_INT 0 3 else s
    else
      let s := s.modLog (fun l => l.addCirc rec')
      if s.storeState = 4 then
        s.modLog (fun l => { l with done := (l.pages.filter (fun p => decide (128 ≤ p.length))).length })
      else s

/-- The event queue drains one record; a record that needs a page no page can take waits (R376, R380), and so does every record
once the flush is done, whose number the next start gives out again (R377; assumption 28). Once the queue has room after a loss, one
LOG_LOST record enters it. -/
def State.drainOne (s : State) : State :=
  match s.log.queue with
  | [] => s
  | e :: rest =>
    if s.storeState = 7 || ((s.merges e).isNone && decide (1024 ≤ s.log.nextSeq) && !s.log.pageRoom) then s
    else
      let s := (s.modLog (fun l => { l with queue := rest })).logWrite e
      let n := s.log.dropped
      if n = 0 then s
      else (s.modLog (fun l => { l with dropped := 0 })).event 0x1303 n 0

/-- The queue drains one record. -/
def execLogRecordWrite (s : State) : Host.Outcome State Fault Refusal := .next s.drainOne

/-- The queue drains as far as it can, before the Logbook hands over its pages. -/
def State.drainLog (s : State) : State := (List.range (s.log.queue.length + 1)).foldl (fun s _ => s.drainOne) s

/-- Every 3,600 s op_sec is saved in the array (R379). -/
def execOpSecSave (s : State) : Host.Outcome State Fault Refusal :=
  .next (if s.log.opSecSaved + 3600 ≤ s.log.opSec then s.modLog (fun l => { l with opSecSaved := l.opSec }) else s)

/-- A record by sequence number: its bytes, from the buffer or else its latest copy in the store (R388). -/
def State.findRecord (s : State) (seq : Nat) : Option Bytes :=
  if s.log.newestSeq < seq || (decide (1024 ≤ seq) && decide (seq ≤ s.log.clearMark)) then none
  else if seq < 1024 then (s.log.copy.find? (fun r => r.seq = seq)).map LogRec.bytes
  else
    match s.log.pages.flatten.find? (fun r => r.seq = seq) with
    | some r => some r.bytes
    | none => s.reachableRecords.reverse.find? (fun b => leAt b 4 4 = seq)

/-- Write the 32 words of RD_DATA. -/
def State.setRdData (s : State) (b : Bytes) : State :=
  (List.range 32).foldl (fun s n => s.set .LOG_RD_DATA n 0 (leAt b (4 * n) 4)) s

/-- LOG.RD_CMD.go reads the record RD_SEQ names (R388). -/
def execLogRead (s : State) : Host.Outcome State Fault Refusal :=
  if s.hostHeld then .next s else
  let done (s : State) (valid result : Nat) : State :=
    (s.set .LOG_RD_STATUS 0 0 (valid * 2 + result * 4)).raise .LOG_INT 0 4
  if s.pwrfail then .next (done s 0 3)
  else
    match s.findRecord (s.get .LOG_RD_SEQ 0 0) with
    | none => .next (done s 0 1)
    | some b => .next (done (s.setRdData b) 1 (if bit (leAt b 2 2) 0 then 2 else 0))

/-! ### Clearing (R383) -/

/-- Lists of at most 128 records. -/
def pagesOf : Nat → List Bytes → List Bytes
  | 0, _ => []
  | n + 1, rs => if rs.isEmpty then [] else fit pageBytes (rs.take 128).flatten :: pagesOf n (rs.drop 128)

/-- Pages rewritten at the ring's tail, while there is a place for each. -/
def State.logRewrite (s : State) : List Bytes → Option State
  | [] => some s
  | p :: ps => (s.logProgram p false false).bind (fun s => s.logRewrite ps)

/-- An accepted LOG_CLEAR, step by step (R383): records above clear_to are rewritten at the ring's tail and the head moves
to them, with the RING entry as commit point; buffer records are zeroed, and LOG_CLEARED is the first record written after the clear.
Where the store cannot rewrite, its pages stay, and CLEAR_MARK alone hides what is cleared. -/
def State.logClear (s : State) (clearTo slot : Nat) : State :=
  let kept := pagesOf (s.storedRecords.length / 128 + 1) (s.reachableRecords.filter (fun b => decide (clearTo < leAt b 4 4)))
  let s := match if s.storeOn then s.logRewrite kept else none with
    | some s =>
      let r := s.store.map.b
      (s.mapNote (ringEntry 3 8 (s.partPages 3 - 8) (r.used - kept.length) r)).mapSync
    | none => s
  let s := s.modLog (fun l => { l with
    pages := l.pages.map (fun p => p.map (fun r => if r.seq ≤ clearTo then LogRec.zero else r)), clearMark := clearTo })
  let s := s.raise .LOG_INT 0 2
  s.logWrite ⟨0x1301, false, clearTo, slot, s.sec, s.nsec, s.quality, none, s.snapshot (s.snapList 0x1301)⟩

/-! ### Power-fail and start (R346, R376, R377, R379) -/

/-- PWRFAIL_N within 1 ms of a permanent record, while the array is programmed with it (R375, R384). -/
def State.permFails (s : State) : State :=
  s.modLog (fun l => { l with
    permCut := l.permCut || (!l.permanent.isEmpty && l.permAt.any (fun t => decide (s.time.ns < t + 1000000))) })

/-- At the next start that record's position is marked damaged and kept (R384). -/
def State.permMark (s : State) : State :=
  let hurt (rs : List LogRec) : List LogRec := updAt rs (rs.length - 1) (fun r => { r with damaged := true })
  let s := if s.log.permCut then
      (s.modLog (fun l => { l with permanent := hurt l.permanent, copy := hurt l.copy })).raise .LOG_INT 0 1
    else s
  s.modLog (fun l => { l with permCut := false, permAt := none })

/-- The circulating records of every LOG page in the array that the key in slot 2 decrypts, whatever the ring's extent. -/
def State.durableRecords (s : State) : List Bytes :=
  s.store.nand.flatMap (fun e => e.2.flatMap (fun x =>
    if x.part = 3 && decide (8 ≤ x.page) && x.headOk && x.keyNo = s.keyNo then pageRecords (s.pageData x []) else []))

/-- The number, op_sec and TAI stamp in ns of the newest durable record. -/
def State.newestDurable (s : State) : Option (Nat × Nat × Nat) :=
  let best := s.durableRecords.foldl (fun (b : Option Bytes) r => match b with
    | none => some r
    | some x => if leAt x 4 4 < leAt r 4 4 then some r else b) none
  match best with
  | some b => some (leAt b 4 4, leAt b 10 5, 1000000000 * leAt b 20 6 + leAt b 26 4)
  | none => (s.log.permanent.getLast?).map (fun r => (r.seq, r.opSec, 1000000000 * r.taiS + r.taiNs))

/-- The op_sec of a start: the larger of the saved count and that of the newest durable record (R379). -/
def State.startOpSec (s : State) : Nat := max s.log.opSecSaved ((s.newestDurable.map (·.2.1)).getD 0)

/-- A start after VDD_SRAM was lost (R377): buffer and queue are gone, and numbers go on from the newest durable record. -/
def State.logStart (s : State) : State :=
  let d := s.newestDurable
  let newest := d.map (·.1)
  let gap := if s.store.flushEnd then 1 else 513
  s.modLog (fun l => { l with
    queue := [], dropped := 0, pages := [], done := 0, copy := l.permanent
    nextSeq := (match newest with
      | some n => n + gap
      | none => if s.store.flushEnd then 0 else 512) % 2 ^ 32
    newestSeq := newest.getD 0 })

/-- The LOG section is applied (R386). -/
def State.logConfig (s : State) : State := s.set .LOG_CFG 0 0 (s.itemLE 0x110 1 0 2 10)

end Sys2Proof.Machine
end

