-- ==== Sys2Proof/Machine/Bond.lean ====
section
/-!
DEFINITION. The Bonded Store's commands (R311-R316, R320-R323): slots, owner authority, attestation, signing, floor and
gate. Life-cycle transitions are in LifeCycle.lean.
-/
namespace Sys2Proof.Machine

/-- Results of BOND.CMD_STATUS (Table 11-16). -/
abbrev bOk : Nat := 0
/-- STATE. -/
abbrev bState : Nat := 1
/-- AUTH. -/
abbrev bAuth : Nat := 2
/-- NONCE. -/
abbrev bNonce : Nat := 3
/-- SLOT. -/
abbrev bSlot : Nat := 4
/-- IN_USE. -/
abbrev bInUse : Nat := 5
/-- WORN. -/
abbrev bWorn : Nat := 6
/-- BUSY. -/
abbrev bBusy : Nat := 7
/-- MOVING. -/
abbrev bMoving : Nat := 8
/-- FORMAT. -/
abbrev bFormat : Nat := 9
/-- LOCKED. -/
abbrev bLocked : Nat := 10

/-- A command of the Bonded Store ends (Table 11-16). -/
def State.bondDone (s : State) (result outLen : Nat) : State :=
  (s.set .BOND_CMD_STATUS 0 0 (1 + result * 2 + outLen * 2 ^ 16)).raise .BOND_INT 0 0

/-- BOND.DATA is cleared but for the result words a command returns (Table 11-19). -/
def State.bondData (s : State) (res : Bytes) : State :=
  (List.range 64).foldl (fun s n => s.set .BOND_DATA n 0 (leAt res (4 * n) 4)) s

/-- The first `n` words of BOND.DATA as bytes. -/
def State.bondDataBytes (s : State) (n : Nat) : Bytes := (List.range n).flatMap (fun i => toLE 4 (s.get .BOND_DATA i 0))

/-- What the device takes of the host buffer at BOND.ADDR: BOND.LEN bytes (R313, Table 11-17). -/
def State.bondBuf (s : State) (b : Bytes) : Bytes := fit (s.fld .BOND_LEN 0 0 12 0) b

/-- The host buffer address; bits [5:0] must be 0 and are taken as 0. -/
def State.bondAddr (s : State) : Nat := s.get .BOND_ADDR_LO 0 0 / 64 * 64 + s.get .BOND_ADDR_HI 0 0 * 2 ^ 32

/-! ### Slots (R309-R316) -/

/-- The usage fixes the algorithm (Table 11-2). -/
def algFits (usage alg : Nat) : Bool :=
  match usage with
  | 1 => alg = 1 || alg = 2
  | 2 => alg = 3
  | 3 => alg = 3
  | 4 => alg = 3
  | 5 => alg = 3
  | 6 => alg = 1
  | 7 => alg = 1
  | 12 => alg = 4
  | 13 => alg = 1
  | _ => false

/-- Write a slot: one more write counts (R315). -/
def State.writeSlot (s : State) (n attr : Nat) (key : Bytes) : State :=
  let k := s.keySlot n
  s.setSlot n (k.put n (if attr % 16 = 0 then [] else fit 64 key) attr (k.writes + 1))

/-- Why a slot cannot be loaded or generated into with an attribute word; `gen` for GENERATE (R309, R315). -/
def State.slotRefusal (s : State) (n attr : Nat) (gen : Bool) : Option Nat :=
  let u := bits attr 3 0
  if reservedSlot n || (s.keySlot n).bad || decide (255 < n) then some bSlot
  else if (8 ≤ u && u ≤ 11) || (u = 12 && !gen) then some bSlot
  else if !algFits u (bits attr 6 4) then some bFormat
  else if 10000 ≤ (s.keySlot n).writes then some bWorn
  else none

/-- The attribute word a write leaves: origin as the write gives it, fixed and reserved bits 0 (R315). -/
def attrWord (attr : Nat) (gen : Bool) : Nat := bits attr 6 0 + b2n gen * 2 ^ 7 + bits attr 31 16 * 2 ^ 16

/-- Slots an erase may not touch (R316): the running plan's ROOT, its wrap slots, its signer, and the last OWNER. A delta leaves the
signer that of the full plan (assumption 39). -/
def State.slotInUse (s : State) (n : Nat) : Bool :=
  (s.items 0xD0 1).any (fun v => leAt v 0 1 = n) || (s.items 0xD0 2).any (fun v => leAt v 1 1 = n)
    || s.plan.signer = some n
    || ((s.keySlot n).valid && (s.keySlot n).usage = 3
        && (s.bond.slots.filter (fun e => e.2.valid && e.2.usage = 3)).length = 1)

/-- Erase a slot (R316). -/
def State.eraseSlot (s : State) (n : Nat) : State :=
  if reservedSlot n || (s.keySlot n).bad || decide (255 < n) then s.bondDone bSlot 0
  else if s.slotInUse n then s.bondDone bInUse 0
  else if 10000 ≤ (s.keySlot n).writes then s.bondDone bWorn 0
  else (s.writeSlot n 0 []).bondDone bOk 0

/-- LOAD_PLAIN writes a slot from a 68-byte host buffer in FACTORY (R315). -/
def execBondLoadPlain (slot : Nat) (buf : Bytes) (s : State) : Host.Outcome State Fault Refusal :=
  if s.hostHeld then .next s else
  let buf := s.bondBuf buf
  if s.bond.lifecycle != 1 then .next (s.bondDone bState 0)
  else if buf.length != 68 then .next (s.bondDone bFormat 0)
  else
    match s.slotRefusal slot (leAt buf 0 4) false with
    | some r => .next (s.bondDone r 0)
    | none => .next ((s.writeSlot slot (attrWord (leAt buf 0 4) false) (buf.drop 4)).bondDone bOk 0)

/-- GENERATE creates a key from the TRNG, its attribute word in DATA_0 (R315). -/
def execBondGenerate (slot : Nat) (s : State) : Host.Outcome State Fault Refusal :=
  if s.hostHeld then .next s else
  let attr := s.get .BOND_DATA 0 0
  let done (s : State) (r : Nat) : State := (s.bondData []).bondDone r 0
  if s.bond.lifecycle != 1 && s.bond.lifecycle != 3 then .next (done s bState)
  else if s.bond.lifecycle = 3 && s.bond.ownerLock then .next (done s bLocked)
  else
    match s.slotRefusal slot attr true with
    | some r => .next (done s r)
    | none =>
      let key := Config.trng s.bond.drawn (algBytes (bits attr 6 4))
      let s := s.modBond (fun b => { b with drawn := b.drawn + 1 })
      .next (done (s.writeSlot slot (attrWord attr true) key) bOk)

/-- ERASE_PLAIN empties a slot in FACTORY (R316). -/
def execBondErasePlain (slot : Nat) (s : State) : Host.Outcome State Fault Refusal :=
  if s.hostHeld then .next s else
  if s.bond.lifecycle != 1 then .next (s.bondDone bState 0) else .next (s.eraseSlot slot)

/-! ### Challenge and owner authority (R313, R314) -/

/-- CHALLENGE draws a nonce (R314). -/
def execBondChallenge (s : State) : Host.Outcome State Fault Refusal :=
  if s.hostHeld then .next s else
  .next ((s.modBond (fun b => { b with
    nonce := some (Config.trng b.drawn 16), nonceAt := s.time.ns, drawn := b.drawn + 1 })).bondDone bOk 0)

/-- 300 s after it was drawn the nonce ends (R314). -/
def execNonceExpire (s : State) : Host.Outcome State Fault Refusal :=
  if s.bond.nonceAt + 300000000000 ≤ s.time.ns then .next (s.modBond (fun b => { b with nonce := none })) else .next s

/-- Why an owner-signed blob is refused: its form, the signer, the target, the challenge, the signature (R313). -/
def State.ownerRefusal (s : State) (blob : Bytes) : Option Nat :=
  let n := leAt blob 2 2
  let k := s.keySlot (leAt blob 1 1)
  if blob.length != 128 + n || decide (4096 < blob.length) then some bFormat
  else if !(k.valid && k.usage = 3) then some bAuth
  else if leAt blob 4 4 != 0x00B07680 || slice blob 8 8 != toLE 8 Config.serial.toNat then some bAuth
  else if s.bond.nonce != some (slice blob 16 16) then some bNonce
  else if !Config.p384Verify k.material (Config.sha384 (blob.take (32 + n))) (slice blob (32 + n) 96) then some bAuth
  else none

/-- The argument of an owner-signed blob. -/
def ownerArg (blob : Bytes) : Bytes := slice blob 32 (leAt blob 2 2)

/-- SIGNED with a blob of the row's code, BOND.LEN bytes long: the challenge is consumed either way; an accepted blob's command then runs in the
states Table 11-5 allows. A reserved code reports FORMAT. -/
def State.signed (s : State) (code : Nat) (blob : Bytes) (states : List Nat) (argLen : Nat)
    (act : State → Bytes → State) : State :=
  let blob := s.bondBuf blob
  let c := leAt blob 0 1
  if c != code && 1 ≤ c && c ≤ 7 then s
  else
    let s := s.useSlot (leAt blob 1 1)
    let s' := s.modBond (fun b => { b with nonce := none })
    match s.ownerRefusal blob with
    | some r => s'.bondDone r 0
    | none =>
      if c != code then s'.bondDone bFormat 0
      else if !states.contains s.bond.lifecycle then s'.bondDone bState 0
      else if (ownerArg blob).length != argLen then s'.bondDone bFormat 0
      else act s' blob

/-- The owner lock is written; it takes 10,000 writes (R323). -/
def State.writeLock (s : State) (v : Bool) : State :=
  if 10000 ≤ s.bond.lockWrites then ((s.raise .BOND_INT 0 3).event 0x0F03 2 0).bondDone bWorn 0
  else (s.modBond (fun b => { b with ownerLock := v, lockWrites := b.lockWrites + 1 })).bondDone bOk 0

/-- OWNER_LOCK_SET (R323). -/
def execOwnerLockSet (blob : Bytes) (s : State) : Host.Outcome State Fault Refusal :=
  if s.hostHeld then .next s else
  .next (s.signed 3 blob [2, 3] 0 (fun s _ => s.writeLock true))

/-- OWNER_LOCK_CLEAR (R323). -/
def execOwnerLockClear (blob : Bytes) (s : State) : Host.Outcome State Fault Refusal :=
  if s.hostHeld then .next s else
  .next (s.signed 4 blob [2, 3] 0 (fun s _ => s.writeLock false))

/-- LOAD_WRAPPED: the key is unwrapped with the ECDH secret of slot 255 (Table 11-6). -/
def State.loadWrapped (s : State) (nonce : Bytes) (a : Bytes) : State :=
  let slot := leAt a 0 1
  let s := s.useSlot 255
  let kex := s.keySlot 255
  if s.bond.ownerLock then s.bondDone bLocked 0
  else if !kex.valid then s.bondDone bSlot 0
  else
    let x := Config.p384Ecdh kex.material (slice a 4 49)
    let wrap := Config.kmac256 x (ascii "VQ-LOAD") (toLE 8 Config.serial.toNat ++ toLE 1 slot ++ nonce) 32
    match Config.gcmOpen wrap (slice a 56 12) (a.take 56) (slice a 68 84) with
    | none => s.bondDone bAuth 0
    | some p =>
      match s.slotRefusal slot (leAt p 0 4) false with
      | some r => s.bondDone r 0
      | none => (s.writeSlot slot (attrWord (leAt p 0 4) false) (p.drop 4)).bondDone bOk 0

/-- The owner-signed LOAD_WRAPPED (R315). -/
def execOwnerLoadWrapped (blob : Bytes) (s : State) : Host.Outcome State Fault Refusal :=
  if s.hostHeld then .next s else
  .next (s.signed 5 blob [3] 152 (fun s b => s.loadWrapped (slice b 16 16) (ownerArg b)))

/-- The owner-signed ERASE_SLOT (R316). -/
def execOwnerEraseSlot (blob : Bytes) (s : State) : Host.Outcome State Fault Refusal :=
  if s.hostHeld then .next s else
  .next (s.signed 6 blob [3] 4 (fun s b =>
    if s.bond.ownerLock then s.bondDone bLocked 0 else s.eraseSlot (leAt (ownerArg b) 0 1)))

/-- The owner-signed LOG_CLEAR (R383). -/
def execOwnerLogClear (blob : Bytes) (s : State) : Host.Outcome State Fault Refusal :=
  if s.hostHeld then .next s else
  .next (s.signed 7 blob [2, 3] 8 (fun s b =>
    let upTo := leAt (ownerArg b) 0 4
    if upTo < 1024 || decide (s.log.newestSeq < upTo) then s.bondDone bFormat 0
    else if s.pwrfail then s.bondDone bBusy 0
    else (s.logClear upTo (leAt b 1 1)).bondDone bOk 0))

/-! ### Attestation and signing (R321, R322) -/

/-- A CBOR head: major type and argument (RFC 8949). -/
def cborHead (major n : Nat) : Bytes :=
  let m := major * 32
  if n < 24 then toLE 1 (m + n)
  else if n < 256 then toLE 1 (m + 24) ++ toBE 1 n
  else if n < 65536 then toLE 1 (m + 25) ++ toBE 2 n
  else if n < 2 ^ 32 then toLE 1 (m + 26) ++ toBE 4 n
  else toLE 1 (m + 27) ++ toBE 8 n

/-- A CBOR unsigned integer. -/
def cborUint (n : Nat) : Bytes := cborHead 0 n

/-- A CBOR byte string. -/
def cborBytes (b : Bytes) : Bytes := cborHead 2 b.length ++ b

/-- A CBOR Boolean. -/
def cborBool (b : Bool) : Bytes := toLE 1 (if b then 0xF5 else 0xF4)

/-- A CBOR map of items by key. -/
def cborMap (es : List (Nat × Bytes)) : Bytes := cborHead 5 es.length ++ es.flatMap (fun e => cborUint e.1 ++ e.2)

/-- The attestation statement of a slot (Table 11-9). -/
def State.statement (s : State) (n : Nat) (nonce : Bytes) : Bytes :=
  let k := s.keySlot n
  let alg := bits k.attr 6 4
  let pub := if alg = 3 then [(10, cborBytes (Config.p384Expand k.material))]
    else if alg = 4 then [(10, cborBytes (Config.p384Public k.material))] else []
  let fp := if alg = 1 || alg = 2 then [(11, cborBytes (fingerprint k.material))] else []
  let bad := toLE 32 (maskOf ((List.range 256).map (fun i => (s.keySlot i).bad)))
  cborMap ([(1, cborUint 0x7680), (2, cborUint 0xB0), (3, cborBytes (toLE 8 Config.serial.toNat)),
      (4, cborUint s.bond.lifecycle), (5, cborUint n), (6, cborUint k.usage), (7, cborUint alg),
      (8, cborBool (bit k.attr 7)), (9, cborBool false)] ++ pub ++ fp ++
    [(12, cborBytes nonce), (13, cborUint s.sec), (14, cborUint s.quality), (15, cborUint Config.romVersion.toNat),
      (16, cborUint Config.romCrc.toNat),
      (17, cborUint (s.get .PLAN_SERIAL_LO 0 0 + s.get .PLAN_SERIAL_HI 0 0 * 2 ^ 32)),
      (18, cborBool s.bond.ownerLock), (19, cborBytes bad), (20, cborUint (bits k.attr 31 16))])

/-- The COSE_Sign1 structure over a payload, signed with slot 0 (RFC 9052). -/
def State.coseSign1 (s : State) (payload : Bytes) : Bytes :=
  let prot := cborHead 5 1 ++ cborUint 1 ++ cborHead 1 34
  let sigStruct := cborHead 4 4 ++ cborHead 3 10 ++ ascii "Signature1" ++ cborBytes prot ++ cborBytes [] ++ cborBytes payload
  let sig := Config.p384Sign (s.keySlot 0).material (Config.sha384 sigStruct)
  cborHead 6 18 ++ cborHead 4 4 ++ cborBytes prot ++ cborMap [] ++ cborBytes payload ++ cborBytes sig

/-- ATTEST writes a statement for a slot to the host buffer (R321); `flags` holds the nonce length. No command uses slot 1 (R310), which
reports SLOT. -/
def execBondAttest (slot flags : Nat) (s : State) : Host.Outcome State Fault Refusal :=
  if s.hostHeld then .next s else
  let n := flags % 64
  let done (s : State) (r len : Nat) : State := (s.bondData []).bondDone r len
  if 32 < n then .next (done s bFormat 0)
  else if slot = 1 then .next (done s bSlot 0)
  else
    let s := (s.useSlot 0).useSlot slot
    let out := s.coseSign1 (s.statement slot ((s.bondDataBytes 8).take n))
    .next (if !(s.keySlot 0).valid || !(s.keySlot slot).valid then done s bSlot 0
      else done (s.modHost (fun h => { h with mem := memWrite h.mem s.bondAddr out })) bOk out.length)

/-- SIGN signs a digest with a SIGNING slot (R322). -/
def execBondSign (slot : Nat) (s : State) : Host.Outcome State Fault Refusal :=
  if s.hostHeld then .next s else
  if s.bond.lifecycle = 4 then .next ((s.bondData []).bondDone bState 0)
  else if !((s.keySlot slot).valid && (s.keySlot slot).usage = 12) then .next ((s.bondData []).bondDone bSlot 0)
  else
    let s := s.useSlot slot
    let k := s.keySlot slot
    .next (if k.valid then (s.bondData (fit 96 (Config.p384Sign k.material (s.bondDataBytes 12)))).bondDone bOk 0
      else (s.bondData []).bondDone bSlot 0)

/-! ### Floor and gate (R42, R323) -/

/-- Raise the plan-epoch floor; after 10,000 writes a raise is ignored and recorded (R323). -/
def State.raiseFloor (s : State) (e : Nat) : State :=
  if 10000 ≤ s.bond.floorWrites then (s.raise .BOND_INT 0 3).event 0x0F03 0 0
  else s.modBond (fun b => { b with floor := e, floorWrites := b.floorWrites + 1 })

/-- Raise the update gate of an image code to a version; a floor never falls, and the gate, one set, takes 10,000 writes (R323). -/
def State.raiseGate (s : State) (code version : Nat) : State :=
  if version ≤ s.bond.gates.getD code 0 then s
  else if 10000 ≤ s.bond.gateWrites then (s.raise .BOND_INT 0 3).event 0x0F03 1 0
  else s.modBond (fun b => { b with
    gates := b.gates.set code version, gateWrites := b.gateWrites + 1 })

/-- PLAN.CMD COMMIT_EPOCH (R42): ignored unless SEALED with the running epoch above the floor. -/
def execCommitEpoch (s : State) : Host.Outcome State Fault Refusal :=
  if s.hostHeld then .next s else
  let e := s.get .PLAN_EPOCH 0 0
  if s.loader = 6 && decide (s.bond.floor < e) then .next (s.raiseFloor e) else .next s

end Sys2Proof.Machine
end

