-- ==== Sys2Proof/Machine/StoreFlush.lean ====
section
/-!
DEFINITION. The row of a NAND program's result, which serves every client of the store, and the power-fail flush (R337, R343, R346).
-/
namespace Sys2Proof.Machine

/-- A page of the permanent array's mirror is programmed (R375). -/
def State.mirrorProgram (s : State) (ok : Bool) : State :=
  match s.store.mirror with
  | [] => s
  | p :: rest =>
    match s.programTarget 3 p false with
    | none => s
    | some (k, s) =>
      if ok then (s.programmed k 3 p (s.permPage p) false).modStore (fun t => { t with mirror := rest })
      else s.retireNand 3 k 1

/-- The oldest full page of the Logbook that is not durable is programmed (R376). -/
def State.logPageProgram (s : State) (ok : Bool) : State :=
  if s.log.waiting = 0 then s
  else if ok then
    match s.logProgram (circPage (s.log.pages.getD s.log.done [])) false false with
    | some s => s.modLog (fun l => { l with done := l.done + 1 })
    | none => s
  else
    match s.programTarget 3 s.store.map.b.tail false with
    | some (k, s) => s.retireNand 3 k 1
    | none => s

/-- A page of MAP reports its program; a MAP block that fails is retired and the next takes its place (R343, R344). -/
def State.mapPageDone (s : State) (ok : Bool) : State :=
  if s.store.entries.isEmpty then s
  else if ok then s.mapProgram
  else (s.retireNand 0 (s.mapBlk s.store.mapAt) 1).mapAdvance

/-! ### The flush (R346) -/

/-- The partition of the flush's next page, in the order of its steps; none when the step in progress has nothing to program. -/
def State.flushWant (s : State) : Option Nat :=
  let t := s.store
  match t.flushStep with
  | 0 => if s.hasRegion && !s.customs.buffer.isEmpty then some 1 else none
  | 1 => if t.flushOn && !t.entries.isEmpty && decide (t.flushMaps < 4) then some 0 else none
  | 2 => if t.flushOn then t.cache.head?.map (·.part) else none
  | 3 => if t.flushOn && !t.flushEnd then some 3 else none
  | _ => none

/-- Steps with nothing left to program are done; after the last one the store is FLUSHED. -/
def State.flushSettle (s : State) : State :=
  let s := (List.range 4).foldl (fun s _ =>
    if s.store.flushStep < 4 && s.flushWant.isNone then s.modStore (fun t => { t with flushStep := t.flushStep + 1 }) else s) s
  if s.storeState = 6 && s.store.flushStep = 4 then
    (s.setStore 7).modStore (fun t => { t with health := { t.health with
      flushes := t.health.flushes + b2n t.flushOn } })
  else s

/-- The next page of the Logbook's step: a page that is not durable, or one closing page with no record; the last carries flush_end. An
open page stays open in the buffer (R346, R376). -/
def State.flushLogPage (s : State) (ok : Bool) : State :=
  if !ok then
    match s.programTarget 3 s.store.map.b.tail true with
    | some (k, s) => s.retireNand 3 k 1
    | none => s
  else
    let page := s.log.pages[s.log.done]?
    let last := decide (s.log.pages.length ≤ s.log.done + 1)
    match s.logProgram ((page.map circPage).getD (zeros pageBytes)) last true with
    | none => s
    | some s =>
      let s := if page.any (fun p => decide (128 ≤ p.length)) then s.modLog (fun l => { l with done := l.done + 1 }) else s
      if last then s.modStore (fun t => { t with flushEnd := true }) else s

/-- A page of the flush reports its program (R346); one that failed is programmed again elsewhere. -/
def State.flushPage (s : State) (part : Nat) (ok : Bool) : State :=
  if s.flushWant != some part then s
  else
    (match s.store.flushStep with
    | 0 => s.cusProgram ok true
    | 1 => if ok then s.mapProgram.modStore (fun t => { t with flushMaps := t.flushMaps + 1 }) else s.mapPageDone false
    | 2 => s.cacheProgram part ok true
    | _ => s.flushLogPage ok).flushSettle

/-- The flush begins (R346, Table 12-7): the queue of the Logbook drains and the write cache closes. Without a map and a key steps 3.2 to
3.4 have nothing to write; with them, `down` marks a power-down record, after which a start looks for flush_end. -/
def State.startFlush (s : State) (down : Bool) : State :=
  let on := s.storeOn
  ((s.drainLog.closeCache.modStore (fun t => { t with
    down := on && down, flushStep := 0, flushEnd := !on && t.flushEnd, flushOn := on, flushMaps := 0, flushFrom := t.seq })).setStore
    6).flushSettle

/-- Every page of the flush, as long as each finds a place. -/
def State.flushAll (s : State) : State :=
  let n := s.bufferBytes / pageBytes + s.customs.buffer.length + s.store.cache.length + s.log.pages.length + 8
  (List.range n).foldl (fun s _ => match s.flushWant with
    | some p => s.flushPage p true
    | none => s) s

/-- A NAND program of the store reports its result (R337, R343): 0 a MAP page, 1 the Customs journal, 2 and 4 a write-cache
page, 3 a Logbook page, of the mirror first; while the store flushes, the page that its step calls for. -/
def execPageProgramDone (part : Nat) (ok : Bool) (s : State) : Host.Outcome State Fault Refusal :=
  if s.storeState = 6 then .next (s.flushPage part ok)
  else if s.pwrfail then .next s
  else if part = 1 then .next (if s.customs.buffer.isEmpty then s else s.cusProgram ok false)
  else if !(s.storeTakes || (s.storeState = 5 && part != 2 && part != 4)) then .next s
  else .next (match part with
    | 0 => s.mapPageDone ok
    | 3 => if s.store.mirror.isEmpty then s.logPageProgram ok else s.mirrorProgram ok
    | p => s.cacheProgram p ok false)

end Sys2Proof.Machine
end

