-- ==== Sys2Proof/Machine/CustomsCmd.lean ====
section
/-!
DEFINITION. Customs start and restoration, power-down, the CUSTOMS section, and the mailbox commands (R219, R226, R235,
R236, R239).
-/
namespace Sys2Proof.Machine

/-! ### Start, restoration and power-down (R226, R235, R236) -/

/-- The EPX values of which the partition holds records. -/
def State.partEpxs (s : State) : List Nat :=
  (((s.customs.part.filter (fun r => r.type = 8 && r.epx != siteId)).map (·.epx)).eraseDups)

/-- The boundaries that an outage leaves to be processed, in ascending order: those after the open interval's start that lie at
t_pd, when C had just reached it (R225), or after it, and at or before t_up (R226). -/
def outageBoundaries (d : CusDown) (up : Nat) : List Nat :=
  let from' := match d.openIv with
    | some o => o.start / 1000000000
    | none => 0
  (boundariesIn ((d.at' - 1) / 1000000000) (up / 1000000000)).filter (fun b => decide (from' < b))

/-- The intervals an outage spans: what was open closes with POWER_DOWN over its powered time, intervals wholly within
carry POWER_DOWN|MISSING, and the interval of t_up opens with POWER_DOWN (R226). -/
def State.resume (s : State) (d : CusDown) : State :=
  let up := s.cNs
  let stopped := d.openIv.map (fun o => { o with
    status := o.status ||| 0x10, powered := o.powered + (d.at' - o.since), since := up })
  let s := s.modCustoms (fun c => { c with acc := d.acc, openIv := stopped })
  match outageBoundaries d up with
  | [] => if stopped.isSome then s else s.openInterval up 0x10
  | bs =>
    (s.passBoundaries 0 0x14 0x10 bs).modCustoms (fun c => { c with
      openIv := c.openIv.map (fun o => { o with since := up }) })

/-- The seq that the latest COPY of a record holds (R234). -/
def State.copiedSeq (s : State) (epx : Nat) : Option Nat :=
  ((s.customs.part.reverse.find? (fun r => r.type = 8 && r.epx = epx && !r.lost))).map (fun r => leAt r.bytes 20 2)

/-- Restoration after PORST_N or power loss: seal key, site record, billing region, missed boundaries, and the hand-offs of the
MAILBOX record before those committed since; the SLIDING window starts anew. With CUSTOMS_ROOT unusable the domain halts (R221,
R226, R235, Table 11-3). -/
def execCustomsRestore (s : State) : Host.Outcome State Fault Refusal :=
  if s.customs.state != 0 then .next s
  else
    let s := s.useSlot 1
    let k := s.keySlot 1
    if !k.valid then .next ((s.modCustoms (fun c => { c with state := 3 })).notice 8 true 0)
    else
      let s := s.modCustoms (fun c => { c with sealKey := some (Config.customsSeal k.material), state := 1, resid := 0 })
      let site := s.rebuilt siteId
      let epxs := s.partEpxs
      let recs : Map BillRec := epxs.foldl (fun m e => Map.putD m e (s.rebuilt e) BillRec.empty) []
      let copied : Map Nat := epxs.foldl (fun m e => match s.copiedSeq e with
        | some q => Map.put m e q
        | none => m) []
      let down := s.customs.down
      let s := (s.modCustoms (fun c => { c with
        site := site, recs := recs, bad := [], down := none, copied := copied
        mailbox := c.mbxRec ++ c.mailbox, mbxRec := [], offsets := List.replicate 7 0
        revSecs := [0, 0, 0], neutralSecs := 0, voltMissing := false }))
      let s := match down with
        | some d => s.resume d
        | none => s.openInterval s.cNs 0
      .next (s.restartWindow s.cNs)

/-- RESTORING ends (R235). -/
def execCustomsRestoreDone (s : State) : Host.Outcome State Fault Refusal :=
  if s.customs.state = 1 then .next ((s.modCustoms (fun c => { c with state := 2 })).raise .CUSTOMS_INT 0 8) else .next s

/-- Boundaries that C has passed are processed before power goes (R225). -/
def State.catchUp (s : State) : State :=
  match s.customs.openIv with
  | none => s
  | some o => (boundariesIn (o.start / 1000000000) ((s.cNs - 1) / 1000000000)).foldl (fun s b => s.boundary b) s

/-- The power-down journal: boundaries that C has passed, POWER_DOWN and MAILBOX (R225, R226, R236); the store's flush then makes the
buffer durable. In HALTED and STARTING only the hand-offs committed since are journaled: the halt was journaled as a power-down itself
(R199). -/
def State.customsPowerDown (s : State) : State :=
  if s.customs.state = 4 then s
  else
    let s := if s.customs.state = 1 || s.customs.state = 2 then s.drainQueue.catchUp.journalDown else s
    let s := if s.customs.mailbox.isEmpty then s
      else s.journal 9 siteId (s.customs.mailbox.flatMap (·.body))
    s.modCustoms (fun c => { c with
      state := 4, running := false, restarting := false, mbxRec := c.mbxRec ++ c.mailbox, mailbox := [] })

/-! ### The CUSTOMS section (R218, R219) -/

/-- An item as its bytes stand in a section: header, value and padding (R34). -/
def Item.wire (i : Item) : Bytes :=
  toLE 2 i.type ++ toLE 2 i.value.length ++ i.value ++ zeros (ceilDiv i.value.length 4 * 4 - i.value.length)

/-- The scope of an item type: 0 OWNER, 1 METRO. -/
def scopeOf (t : Nat) : Nat := if t = 6 then 1 else 0

/-- A key slot may sign a scope: METRO_AUTH for either, OWNER for scope OWNER (R219, Table 11-2). -/
def State.maySign (s : State) (scope slot : Nat) : Bool :=
  let k := s.keySlot slot
  k.valid && (k.usage = 4 || (scope = 0 && k.usage = 3))

/-- Check the AUTH of one scope over items: 0 accepted, else the reason of Table 7-12. -/
def State.checkAuth (s : State) (target : Bytes) (scope : Nat) (items auths : List Item) : Nat :=
  let covered := items.filter (fun i => i.type != 8 && scopeOf i.type = scope)
  if covered.isEmpty then 0
  else
    match auths.find? (fun a => leAt a.value 0 1 = scope) with
    | none => 1
    | some a =>
      let slot := leAt a.value 4 4
      if !s.maySign scope slot then 2
      else if Config.p384Verify (s.keySlot slot).material
          (Config.sha384 (target ++ toLE 1 scope ++ covered.flatMap Item.wire)) (slice a.value 8 96) then 0
      else 3

/-- The rule of versions (R219): 0 accept, 1 no change or ignored, else the reason. -/
def versionRule (delta : Bool) (new held : Nat) (same has : Bool) : Nat :=
  if !has || held < new then 0
  else if new = held then (if same then 1 else 5)
  else if delta then 4 else 1

/-- Accept a single item of ZONE, METRO or STORE: the state, the reason, and whether it was taken. -/
def State.acceptPlain (s : State) (delta : Bool) (i : Item) : State × Nat × Bool :=
  let held := match i.type with
    | 1 => s.customs.zone
    | 6 => s.customs.metro
    | _ => s.customs.sweepItem
  let r := versionRule delta (leAt i.value 0 2) (leAt (held.getD []) 0 2) (held = some i.value) held.isSome
  if r = 0 then
    (s.modCustoms (fun c =>
      match i.type with
      | 1 => { c with zone := some i.value }
      | 6 => { c with metro := some i.value }
      | _ => { c with sweepItem := some i.value }), 0, true)
  else (s, if r = 1 then 0 else r, false)

/-- The items of a section that make up the calendar of a slot. -/
def calItems (items : List Item) (slot : Nat) : List Item :=
  items.filter (fun i => decide (2 ≤ i.type) && decide (i.type ≤ 5) && leAt i.value 0 1 = slot)

/-- Accept the calendar of a slot (R218, R219): one with a later activation takes the PENDING place; one with an activation of 0, or
past, becomes ACTIVE at the next grid boundary and leaves the pending calendar where it is. -/
def State.acceptCal (s : State) (delta : Bool) (items : List Item) (i : Item) : State × Nat × Bool :=
  let slot := leAt i.value 0 1
  let its := calItems items slot
  let held := s.cal slot
  let r := versionRule delta (leAt i.value 2 2) held.version (decide (held.items = its)) (held.state != 0)
  if r = 1 then (s, 0, false)
  else if r != 0 then (s, r, false)
  else if held.state = 3 then (s, 6, false)
  else
    let at' := leAt i.value 4 8
    let soon := decide (at' ≤ s.cSec)
    (s.modCustoms (fun c =>
      let cals := if soon then c.cals else c.cals.map (fun k : Cal => if k.state = 2 then { k with state := 1 } else k)
      let due := c.due.filter (· ≠ slot)
      { c with
        cals := cals.set (slot - 1) ⟨if soon then 1 else 2, leAt i.value 2 2, at', 0, 0, its⟩
        due := if soon then due ++ [slot] else due }), 0, true)

/-- Take the items of a section one by one; stop at the first that is refused, with its reason and type. The list holds what was
accepted, a calendar with all of its items. -/
def State.acceptItems (s : State) (delta : Bool) (all : List Item) : List Item → State × Nat × Nat × List Item
  | [] => (s, 0, 0, [])
  | i :: is =>
    let r := if i.type = 1 || i.type = 6 || i.type = 7 then s.acceptPlain delta i
      else if i.type = 2 then s.acceptCal delta all i else (s, 0, false)
    if r.2.1 = 0 then
      let x := r.1.acceptItems delta all is
      let took := if !r.2.2 then [] else if i.type = 2 then calItems all (leAt i.value 0 1) else [i]
      (x.1, x.2.1, x.2.2.1, took ++ x.2.2.2)
    else (s, r.2.1, i.type, [])

/-- A SET record of the accepted items of a scope with their AUTH (R219, Table 7-7). -/
def State.journalSet (s : State) (scope : Nat) (took auths : List Item) : State :=
  let xs := took.filter (fun i => scopeOf i.type = scope)
  if xs.isEmpty then s
  else s.journal 6 siteId ((xs ++ auths.filter (fun a => leAt a.value 0 1 = scope)).flatMap Item.wire)

/-- Customs decides a CUSTOMS section (R219): accepted and journaled, or refused with the reason left in AUTH_REASON. Nothing of a
refused section is taken. -/
def State.customsSection (s : State) (delta : Bool) (target : Bytes) (items : List Item) : State × Bool :=
  let auths := items.filter (·.type = 8)
  let body := items.filter (·.type != 8)
  let a := s.checkAuth target 0 body auths
  let b := s.checkAuth target 1 body auths
  if a != 0 then (s.set .CUSTOMS_AUTH_REASON 0 0 (a + 8 * 2 ^ 8), false)
  else if b != 0 then (s.set .CUSTOMS_AUTH_REASON 0 0 (b + 8 * 2 ^ 8), false)
  else
    let r := s.acceptItems delta body body
    if r.2.1 = 0 then
      let took := r.2.2.2
      let x := (r.1.journalSet 0 took auths).journalSet 1 took auths
      (x.set .CUSTOMS_AUTH_REASON 0 0 0, true)
    else (s.set .CUSTOMS_AUTH_REASON 0 0 (r.2.1 + r.2.2.1 * 2 ^ 8), false)

/-! ### Mailbox commands (R239) -/

/-- Answer a mailbox command: window, status and interrupt. -/
def State.mbxAnswer (s : State) (result : Nat) (data : Bytes) : State :=
  let s := if data.isEmpty then s else
    (List.range (ceilDiv data.length 4)).foldl (fun s n => s.set .CUSTOMS_RD_DATA n 0 (leAt data (4 * n) 4)) s
  (s.set .CUSTOMS_MBX_STATUS 0 0 (b2n (!data.isEmpty) + result * 2 + data.length % 2048 * 2 ^ 16)).raise .CUSTOMS_INT 0 9

/-- Run a mailbox command: RESTORING before RUN; HALTED answers as RUN does, and nothing answers after the power-down. -/
def State.onMailbox (s : State) (always : Bool) (f : State → State) : Host.Outcome State Fault Refusal :=
  if 4 ≤ s.customs.state then .next s
  else if 2 ≤ s.customs.state || (always && s.customs.state = 1) then .next (f s)
  else .next (s.mbxAnswer 5 [])

/-- The record a command names: EPX or site. -/
def State.mbxId (s : State) : Nat := s.fld .CUSTOMS_MBX_ARG0 0 0 23 0

/-- The identity a command may name. -/
def idOk (epx : Nat) : Bool := decide (epx < 2 ^ 22) || epx = siteId

/-- READ_BILLING. -/
def execMbxReadBilling (s : State) : Host.Outcome State Fault Refusal :=
  if s.hostHeld then .next s else
  s.onMailbox (s.mbxId = siteId) (fun s =>
    let epx := s.mbxId
    if !idOk epx then s.mbxAnswer 4 []
    else
      let was := s.customs.bad.contains epx
      let s := s.verifyBill epx
      let r := s.bill epx
      if r.serial = 0 then s.mbxAnswer 1 [] else s.mbxAnswer (if was then 2 else 0) (s.billBytes epx r))

/-- The partition as reads see it: programmed records and the journal buffer. -/
def State.cusRecords (s : State) : List CusRec := s.customs.part ++ s.customs.buffer

/-- READ_PERIOD: the latest PERIOD record of the identity for the period; LOST where its page no longer reads (R343). -/
def execMbxReadPeriod (s : State) : Host.Outcome State Fault Refusal :=
  if s.hostHeld then .next s else
  s.onMailbox false (fun s =>
    let epx := s.mbxId
    let p := s.get .CUSTOMS_MBX_ARG1 0 0
    if !idOk epx then s.mbxAnswer 4 []
    else
      match s.cusRecords.reverse.find? (fun r => r.type = 2 && r.epx = epx && leAt r.bytes 8 4 = p) with
      | some r => if r.lost then s.mbxAnswer 6 [] else s.mbxAnswer 0 (slice r.bytes 4 1024)
      | none => s.mbxAnswer 1 [])

/-- A record holds the profile entry of an identity's channel for the interval from `t`: its place. -/
def CusRec.entryAt (r : CusRec) (epx chan t : Nat) : Option Nat :=
  let b := r.bytes
  let start := leAt b 8 4
  if r.type != 1 || r.epx != epx then none
  else if epx = siteId then (if start / 900 = t / 900 && decide (chan < leAt b 12 1) then some chan else none)
  else if leAt b 7 1 = chan && decide (start ≤ t) && (t - start) % 900 = 0 && decide ((t - start) / 900 < leAt b 12 1) then
    some ((t - start) / 900)
  else none

/-- The profile entry of an identity's channel for the interval from `t`: the latest record that has it; none is an entry whose
page no longer reads. -/
def profileEntry (recs : List CusRec) (epx chan t : Nat) : Option (Option Bytes) :=
  recs.reverse.findSome? (fun r =>
    (r.entryAt epx chan t).map (fun k => if r.lost then none else some (slice r.bytes (16 + 6 * k) 6)))

/-- The entry was not written for want of room (R230). -/
def State.wasDropped (s : State) (epx chan t : Nat) : Bool :=
  s.customs.dropped.any (fun d =>
    d.1 = epx && (epx = siteId && d.2.2.1 / 900 = t / 900
      || d.2.1 = chan && decide (d.2.2.1 ≤ t) && decide (t < d.2.2.1 + 900 * d.2.2.2)))

/-- READ_PROFILE: LOST for an interval older than R230 keeps, for one that was not written for want of room, and for one whose
page no longer reads (R343). -/
def execMbxReadProfile (s : State) : Host.Outcome State Fault Refusal :=
  if s.hostHeld then .next s else
  s.onMailbox false (fun s =>
    let epx := s.mbxId
    let chan := s.fld .CUSTOMS_MBX_ARG0 0 0 25 24
    let start := s.get .CUSTOMS_MBX_ARG1 0 0
    let n := s.fld .CUSTOMS_MBX_ARG2 0 0 6 0
    if !idOk epx || n = 0 || 96 < n then s.mbxAnswer 4 []
    else
      let ts := (List.range n).map (fun i => start + 900 * i)
      let es := ts.map (profileEntry s.cusRecords epx chan)
      if es.all (fun e => (e.getD none).isSome) then s.mbxAnswer 0 (es.flatMap (fun e => (e.getD none).getD []))
      else
        let lost := es.any (fun e => e = some none) || decide (start + 397 * 86400 < s.cSec % 2 ^ 32)
          || ts.any (s.wasDropped epx chan)
        s.mbxAnswer (if lost then 6 else 1) [])

/-- CAL_USER: the blob fetched is a SET record whose last 104 bytes are its AUTH; an empty calibration is the restore
form (R206, R239, R463; assumption 24). -/
def execMbxCalUser (blob : Bytes) (s : State) : Host.Outcome State Fault Refusal :=
  if s.hostHeld then .next s else
  s.onMailbox false (fun s =>
    let n := s.fld .CUSTOMS_MBX_LEN 0 0 12 0
    let b := blob.take n
    if n = 0 || 4096 < n then s.mbxAnswer 4 []
    else
      let auth := b.drop (b.length - 104)
      let content := (b.take (b.length - 104)).drop 4
      let slot := leAt auth 4 4
      let s := s.useSlot slot
      let ok := decide (108 ≤ b.length) && leAt b 0 1 = 6 && leAt auth 0 1 = 1 && (s.keySlot slot).valid
        && (s.keySlot slot).usage = 4
        && Config.p384Verify (s.keySlot slot).material (Config.sha384 (toLE 4 0x00B07680 ++ [1] ++ content)) (slice auth 8 96)
      if !ok then s.mbxAnswer 3 []
      else
        let s := (s.modCustoms (fun c => { c with userCal := if content.isEmpty then none else some content })).journal 6
          siteId (content ++ auth)
        (s.siteTamper 6).mbxAnswer 0 [])

end Sys2Proof.Machine
end

