-- ==== Sys2Proof/Machine/BootRecord.lean ====
section
/-!
DEFINITION. The boot record and the image slots of the QSPI NOR (R389, R390, Tables 15-1 to 15-3).
-/
namespace Sys2Proof.Machine

/-- Slot `n` (0 A, 1 B) of an image code. -/
def BootRec.slot (r : BootRec) (code n : Nat) : BootSlot := r.slots.getD (2 * (code - 1) + n) BootSlot.empty

/-- Change a slot. -/
def BootRec.modSlot (r : BootRec) (code n : Nat) (f : BootSlot → BootSlot) : BootRec :=
  { r with slots := updAt r.slots (2 * (code - 1) + n) f }

/-- The number of a code's active slot. -/
def BootRec.act (r : BootRec) (code : Nat) : Nat := b2n (bit r.active (code - 1))

/-- Make slot `n` of a code the active one. -/
def BootRec.setAct (r : BootRec) (code n : Nat) : BootRec := { r with active := putBits r.active (code - 1) (code - 1) n }

/-- The number of the copy in force: a good CRC and the higher seq (R390). -/
def State.bootIdx (s : State) : Nat :=
  let a := s.upd.copies.getD 0 BootRec.blank
  let b := s.upd.copies.getD 1 BootRec.blank
  if b.good && (!a.good || decide (a.seq < b.seq)) then 1 else 0

/-- The boot record in force. -/
def State.bootRec (s : State) : BootRec := s.upd.copies.getD s.bootIdx BootRec.blank

/-- A slot state as UPD.SLOT shows it: WRITING reads as EMPTY at start (Table 15-3). -/
def BootSlot.shown (x : BootSlot) (atStart : Bool) : Nat := if atStart && x.state = 1 then 0 else x.state

/-! ### The QSPI NOR as bytes (Tables 15-1 and 15-2) -/

/-- A slot's entry in the boot record, 32 bytes. -/
def BootSlot.bytes (x : BootSlot) : Bytes := toLE 1 x.state ++ zeros 1 ++ toLE 2 x.version ++ toLE 4 x.length ++ fit 24 x.compat

/-- The 352 bytes of a boot record, with its CRC. -/
def BootRec.bytes (r : BootRec) : Bytes :=
  let b := toLE 4 0x52425156 ++ toLE 4 r.seq ++ toLE 1 r.active ++ toLE 1 r.trial ++ toLE 1 r.trialStarts ++ toLE 1 r.lastCode
    ++ toLE 4 r.campaign ++ r.slots.flatMap BootSlot.bytes ++ zeros 12
  b ++ toLE 4 (crc32 b)

/-- Where each slot begins and its size, in the order of the boot record: code 1 A, code 1 B, code 2 A and so on (Table 15-1). -/
def norSlots : List (Nat × Nat) :=
  [(0x20000, 0x80000), (0xA0000, 0x80000), (0x200000, 0x800000), (0xA00000, 0x800000), (0x1200000, 0x400000), (0x1600000, 0x400000),
    (0x1A00000, 0x200000), (0x1C00000, 0x200000), (0x1E00000, 0x200000), (0x2000000, 0x200000)]

/-- The byte of the QSPI NOR at an offset: the two copies of the boot record, the packages in the slots, and 0xFF where nothing is
programmed, as in the reserved ranges (R389, R390; assumption 69). -/
def State.norByte (s : State) (a : Nat) : Byte :=
  if a < 0x20000 then
    let r := s.upd.copies.getD (a / 0x10000) BootRec.blank
    if r.good then r.bytes.getD (a % 0x10000) 0xFF else 0xFF
  else
    match (List.range 10).find? (fun k => decide ((norSlots.getD k (0, 0)).1 ≤ a)
        && decide (a < (norSlots.getD k (0, 0)).1 + (norSlots.getD k (0, 0)).2)) with
    | some k => (s.bootRec.slots.getD k BootSlot.empty).pkg.getD (a - (norSlots.getD k (0, 0)).1) 0xFF
    | none => 0xFF

/-- UPD.SLOT, UPD.VER and UPD.STATUS.trial follow the boot record (R407). -/
def State.showBoot (s : State) (atStart : Bool) : State :=
  let r := s.bootRec
  let s := (List.range 5).foldl (fun s k =>
    let a := r.slot (k + 1) 0
    let b := r.slot (k + 1) 1
    (s.set .UPD_SLOT k 0 (a.shown atStart + b.shown atStart * 2 ^ 3 + r.act (k + 1) * 2 ^ 6)).set .UPD_VER k 0
      (a.version % 2 ^ 16 + b.version % 2 ^ 16 * 2 ^ 16)) s
  s.setFld .UPD_STATUS 0 0 2 0 r.trial

/-- A change of the boot record writes the other copy with seq + 1 (R390). -/
def State.putBoot (s : State) (f : BootRec → BootRec) : State :=
  let r := s.bootRec
  (s.modUpd (fun u => { u with
    copies := u.copies.set (1 - s.bootIdx) { f r with good := true, seq := r.seq + 1 } })).showBoot false

/-- The version that COMPAT compares: of the active slot, or of the Customs ROM (R40, Table 2-4). -/
def State.activeVersion (s : State) (code : Nat) : Nat :=
  if code = 6 then Config.romVersion.toNat else (s.bootRec.slot code (s.bootRec.act code)).version

/-- The image in a slot: the package's body; a slot that is neither VALID, ACTIVE nor TRIAL holds none (Table 15-3). -/
def BootSlot.image (x : BootSlot) : Bytes :=
  if x.state = 2 || x.state = 3 || x.state = 4 then slice x.pkg 64 x.length else []

end Sys2Proof.Machine
end

