-- ==== Sys2Proof/Machine/PlcPhy.lean ====
section
/-!
DEFINITION. The PLC signal format as numbers: guards, groups, scrambler, LDPC base matrix, frame control, map sets and
frame bodies (R122-R135).
-/
namespace Sys2Proof.Machine

/-- Guard samples of symbol `i` (R123). -/
def plcGuard (i : Nat) : Nat := if i % 3 = 2 then 342 else 341

/-- Samples of symbols 0 to n − 1 (R123). -/
def plcSpan : Nat → Nat
  | 0 => 0
  | n + 1 => plcSpan n + 2048 + plcGuard n

/-- Samples of a frame with `n` payload symbols: the preamble, frame control and payload (R122, Table 5-1). -/
def frameSamples (n : Nat) : Nat := 10240 + plcSpan (n + 1)

/-- Samples before symbol `i` of a frame (R123). -/
def symbolAt (i : Nat) : Nat := 10240 + plcSpan i

/-- Duration of samples in ns, at root/48 (Table 5-1). -/
def sampleNs (n : Nat) : Nat := 15 * n

/-- Carriers of a group (R124). -/
def groupCarriers (g : Nat) : List Nat := (List.range (if g = 99 then 7 else 8)).map (fun k => 62 + 8 * g + k)

/-- Bits per carrier of a loading code (Table 5-2). -/
def codeBits (c : Nat) : Nat := [0, 1, 2, 4, 6, 8].getD c 0

/-- SNR threshold in dB of a loading code at rate 2/3 (Table 5-2). -/
def codeSnr (c : Nat) : Nat := [0, 4, 7, 13, 19, 25].getD c 0

/-! ### Scrambling and the LDPC code (R126, R127) -/

/-- One step of the scrambler register: output bit and next state (R126). -/
def lfsrStep (s : Nat) : Bool × Nat :=
  let b := (s.testBit 14) != (s.testBit 13)
  (b, (s <<< 1) % 2 ^ 15 + b2n b)

/-- XOR bits with the scrambler's output from a state (R126). -/
def scrambleFrom : Nat → List Bool → List Bool
  | _, [] => []
  | st, b :: bs => (b != (lfsrStep st).1) :: scrambleFrom (lfsrStep st).2 bs

/-- Scramble or descramble a stream from the first body bit (R126). -/
def scramble (bs : List Bool) : List Bool := scrambleFrom 0x7FFF bs

/-- A body as bits, least significant bit of each byte first (R126). -/
def bodyBits (b : Bytes) : List Bool := b.flatMap (fun x => (List.range 8).map x.toNat.testBit)

/-- Bits as a number, the first the least significant. -/
def ofBits : List Bool → Nat
  | [] => 0
  | b :: bs => b2n b + 2 * ofBits bs

/-- A list in pieces of `n`, the last as long as it comes. -/
def piecesOf {α : Type} (n : Nat) : Nat → List α → List (List α)
  | 0, _ => []
  | fuel + 1, xs => if xs.isEmpty then [] else xs.take n :: piecesOf n fuel (xs.drop n)

/-- Whole bytes of a bit stream (R126). -/
def bitsBody (bs : List Bool) : Bytes :=
  (piecesOf 8 (bs.length / 8) bs).map (fun x => BitVec.ofNat 8 (ofBits x))

/-- Information bits per codeword of a rate code (R126). -/
def infoBits (rate : Nat) : Nat := [960, 1280, 1600].getD rate 960

/-- Codewords of a body (R126). -/
def codewords (rate : Nat) (b : Bytes) : Nat := ceilDiv (8 * b.length) (infoBits rate)

/-- Information columns of the base matrix (R127). -/
def ldpcKb (rate : Nat) : Nat := [12, 16, 20].getD rate 12

/-- An entry of the base matrix (R127): none for EMPTY. Where rules of the construction name one entry twice, the later
holds. -/
def baseMatrix (rate row col : Nat) : Option Nat :=
  let kb := ldpcKb rate
  let mb := 24 - kb
  if col < kb then
    if row = col % mb || row = (col + mb / 3) % mb || row = (col + 2 * mb / 3) % mb then
      some ((17 * row + 29 * col + 7 * row * col) % 80)
    else none
  else if col = kb then
    if row = 0 || row = mb - 1 then some 1 else if row = mb / 2 then some 0 else none
  else
    let t := col - kb - 1
    if row = t || row = t + 1 then some 0 else none

/-- The product of the expansion of entry `s` with a block of 80 bits: bit a of the product is bit (a + s) mod 80 (R127). -/
def rot80 (s x : Nat) : Nat := (x >>> s ||| x <<< (80 - s)) % 2 ^ 80

/-- Block `row` of H × x over the columns `cols`, for a word in blocks of 80 bits (R127). -/
def ldpcRow (rate row : Nat) (cols : List Nat) (x : List Nat) : Nat :=
  (cols.zip x).foldl (fun acc p => match baseMatrix rate row p.1 with
    | some s => acc ^^^ rot80 s p.2
    | none => acc) 0

/-- H × x = 0 for a word of 24 blocks (R127). -/
def ldpcOk (rate : Nat) (x : List Nat) : Bool :=
  (List.range (24 - ldpcKb rate)).all (fun r => ldpcRow rate r (List.range 24) x = 0)

/-- The parity blocks after the first: each follows from the row above it (R127). -/
def ldpcParity (rate p0 : Nat) (u : List Nat) : Nat → Nat → Nat → List Nat
  | 0, _, _ => []
  | fuel + 1, row, above =>
    let kb := ldpcKb rate
    let own := match baseMatrix rate row kb with
      | some s => rot80 s p0
      | none => 0
    let p := ldpcRow rate row (List.range kb) u ^^^ own ^^^ above
    p :: ldpcParity rate p0 u fuel (row + 1) p

/-- The codeword of information blocks (R127): the two columns with equal shifts leave the first parity block as the sum of
all rows. -/
def ldpcEncode (rate : Nat) (u : List Nat) : List Nat :=
  let kb := ldpcKb rate
  let mb := 24 - kb
  let p0 := (List.range mb).foldl (fun acc r => acc ^^^ ldpcRow rate r (List.range kb) u) 0
  u ++ [p0] ++ ldpcParity rate p0 u (mb - 1) 0 0

/-- Bits of a block of 80. -/
def blockBits (x : Nat) : List Bool := (List.range 80).map x.testBit

/-- Blocks of 80 bits. -/
def toBlocks (bs : List Bool) : List Nat := (piecesOf 80 24 bs).map ofBits

/-- Bits filled with zeros to a length. -/
def padBits (n : Nat) (bs : List Bool) : List Bool := bs ++ List.replicate (n - bs.length) false

/-- The codewords of a body, as bits (R126, R127). -/
def bodyCodewords (rate : Nat) (b : Bytes) : List (List Bool) :=
  let k := infoBits rate
  let c := codewords rate b
  (piecesOf k c (padBits (c * k) (scramble (bodyBits b)))).map (fun u =>
    (ldpcEncode rate (toBlocks u)).flatMap blockBits)

/-- Codewords interleaved: bit i of codeword c lies at i × C + c (R128). -/
def interleave (cws : List (List Bool)) : List Bool :=
  (List.range 1920).flatMap (fun i => cws.map (fun w => w.getD i false))

/-! ### The decoder (R127) -/

/-- Columns of a check of H. -/
def checkCols (rate row a : Nat) : List Nat :=
  (List.range 24).filterMap (fun c => (baseMatrix rate row c).map (fun s => 80 * c + (a + s) % 80))

/-- The messages of one check: the product of the other signs with the normalised smallest other magnitude (R127). -/
def checkMessages (q : List Int) : List Int :=
  (List.range q.length).map (fun i =>
    let others := q.take i ++ q.drop (i + 1)
    let neg := (others.filter (fun x => decide (x < 0))).length % 2
    let m : Nat := match others.map Int.natAbs with
      | [] => 0
      | x :: xs => xs.foldl min x
    let v := Config.minSumNorm (m : Int)
    if neg = 1 then -v else v)

/-- One layer step: a check updates its messages and the values of its bits. -/
def checkStep (rate row a : Nat) (l : List Int) (old : List Int) : List Int × List Int :=
  let cols := checkCols rate row a
  let q := cols.zipWith (fun c m => l.getD c 0 - m) (old ++ List.replicate (cols.length - old.length) 0)
  let new := checkMessages q
  ((cols.zip (q.zipWith (· + ·) new)).foldl (fun acc p => acc.set p.1 p.2) l, new)

/-- One iteration over every check, row by row. -/
def ldpcIterate (rate : Nat) (l : List Int) (msgs : Map (List Int)) : List Int × Map (List Int) :=
  (List.range ((24 - ldpcKb rate) * 80)).foldl (fun acc n =>
    let r := checkStep rate (n / 80) (n % 80) acc.1 (Map.getD acc.2 n [])
    (r.1, Map.put acc.2 n r.2)) (l, msgs)

/-- Hard decisions: a negative value is a 1. -/
def hardBits (l : List Int) : List Bool := l.map (fun x => decide (x < 0))

/-- Decode one codeword in `fuel` more iterations. A word in which no bit is erased and every check holds is decoded as it
stands (R127, assumption 59). -/
def ldpcDecode (rate : Nat) : Nat → List Int → Map (List Int) → Option (List Bool)
  | fuel, l, msgs =>
    let hard := hardBits l
    if l.all (· != 0) && ldpcOk rate (toBlocks hard) then some (hard.take (infoBits rate))
    else
      match fuel with
      | 0 => none
      | f + 1 =>
        let r := ldpcIterate rate l msgs
        ldpcDecode rate f r.1 r.2

/-! ### Carriers and windows (R124, R125, R128, R129) -/

/-- The window of payload symbol `j` of a frame (R128); `m` is 47 at 50 Hz and 39 at 60 Hz. -/
def symbolWindow (w0 n0 m j : Nat) : Nat := if j ≤ n0 then w0 else (w0 + 1 + (j - n0 - 1) / m) % 6

/-- The ROBO sub-map: BPSK in every unnotched group (R128). -/
def roboMap (notched : Nat → Bool) : List Nat := (List.range 100).map (fun g => if notched g then 0 else 1)

/-- Loaded carriers of a symbol under a sub-map, ascending, with their codes (R128). -/
def loadedCarriers (notched : Nat → Bool) (sub : List Nat) : List (Nat × Nat) :=
  (List.range 100).flatMap (fun g =>
    let c := sub.getD g 0
    if notched g || codeBits c = 0 then [] else (groupCarriers g).map (fun k => (k, c)))

/-- Bits a symbol carries under a sub-map: every carrier of every unnotched group (R128). -/
def symbolBits (notched : Nat → Bool) (sub : List Nat) : Nat :=
  ((List.range 100).map (fun g =>
    if notched g then 0 else (if g = 99 then 7 else 8) * codeBits (sub.getD g 0))).sum

/-- The level of Gray-coded bits, most significant first: all zeros give the most positive level, as BPSK's 0 does (R125,
assumption 59). -/
def grayLevel (bs : List Bool) : Int :=
  let r := bs.foldl (fun (acc : Nat × Bool) b => let x := acc.2 != b; (2 * acc.1 + b2n x, x)) (0, false)
  ((2 ^ bs.length - 1 : Nat) : Int) - 2 * (r.1 : Int)

/-- What a carrier with a loading code sends for its bits, in stream order (R125). -/
def carrierTone (k c : Nat) (bs : List Bool) : Config.Tone :=
  if c = 1 then ⟨k, 1, if bs.headD false then -1 else 1, 0⟩
  else
    let h := codeBits c / 2
    ⟨k, c, grayLevel (bs.take h), grayLevel (bs.drop h)⟩

/-- The energy of the levels of a square constellation, a mean over its points (R125). -/
def levelEnergy (c : Nat) : Nat := [1, 1, 2, 10, 42, 170].getD c 1

/-- cos(θ / 2) of cos θ, both in 2⁻⁴⁰. -/
def halfCos (c : Int) : Int := isqrt (((2 ^ 40 + c) / 2 * 2 ^ 40).toNat)

/-- cos of π / 2^k, in 2⁻⁴⁰. -/
def cosPiBy : Nat → Int
  | 0 => -(2 ^ 40)
  | k + 1 => halfCos (cosPiBy k)

/-- The product of two complex numbers in 2⁻⁴⁰. -/
def rotBy (a b : Int × Int) : Int × Int := ((a.1 * b.1 - a.2 * b.2) / 2 ^ 40, (a.1 * b.2 + a.2 * b.1) / 2 ^ 40)

/-- exp(2πj 2^i / 2048), in 2⁻⁴⁰. -/
def unitTurn (i : Nat) : Int × Int :=
  let c := cosPiBy (10 - i)
  (c, isqrt ((2 ^ 80 - c * c).toNat))

/-- exp(2πjm / 2048), in 2⁻⁴⁰. -/
def turnOf (m : Nat) : Int × Int :=
  (List.range 11).foldl (fun acc i => if m.testBit i then rotBy acc (unitTurn i) else acc) (2 ^ 40, 0)

/-- What a carrier sends, in 2⁻⁴⁰: a unit value of the preamble, or a constellation point of unit mean energy (R125, R129). -/
def tonePoint (t : Config.Tone) : Int × Int :=
  if t.code = 0 then turnOf (256 * (t.i.toNat % 8))
  else
    let u : Int := isqrt (2 ^ 80 / levelEnergy t.code)
    (t.i * u, t.q * u)

/-- The largest number of `b` bits whose `k`-th power is at most `v`. -/
def rootOf (k v : Nat) : Nat → Nat → Nat
  | 0, r => r
  | b + 1, r => if (r + 2 ^ b) ^ k ≤ v then rootOf k v b (r + 2 ^ b) else rootOf k v b r

/-- A magnitude `a` × 0.5 dB lower: its fortieth power falls by 10^a (R157). -/
def attenuated (a x : Nat) : Nat := rootOf 40 (x ^ 40 / 10 ^ a) 96 0

/-- A sample of AFE_TX from its exact value in 2⁻⁴⁰ LSB: 16 bits with full scale ±32,767 (R122, R157). -/
def toSample (x : Int) : Int := max (-32767) (min 32767 (x / 2 ^ 40 + if Config.plcRoundsUp x then 1 else 0))

/-- The 2,048 useful samples of a symbol (R122, R129, R157): the real part of the sum of its carriers, at a transmit attenuation.
A unit value has one amplitude in every symbol, so that the preamble has the mean power of a data symbol on its carriers. -/
def symbolSamples (atten : Nat) (ts : List Config.Tone) : List Int :=
  (List.range 2048).map (fun n =>
    let x : Int := (ts.map (fun t => (rotBy (tonePoint t) (turnOf (t.carrier * n % 2048))).1)).sum
    let m : Int := (attenuated atten (Config.plcScale * x.natAbs) : Nat)
    toSample (if x < 0 then -m else m))

/-- Load a symbol's carriers with the stream; bits beyond its end are 0 (R128). -/
def loadCarriers : List (Nat × Nat) → List Bool → List Config.Tone
  | [], _ => []
  | (k, c) :: ks, bs => carrierTone k c (padBits (codeBits c) (bs.take (codeBits c))) :: loadCarriers ks (bs.drop (codeBits c))

/-- Carriers that no notch of the mask removes (R124). -/
def openCarriers (notched : Nat → Bool) : List Nat :=
  (List.range 100).flatMap (fun g => if notched g then [] else groupCarriers g)

/-- The preamble symbol P, or its negative (R129): phase q_k in eighths of a turn. -/
def preambleTones (notched : Nat → Bool) (negative : Bool) : List Config.Tone :=
  (openCarriers notched).map (fun k =>
    ⟨k, 0, (((k - 62) * (k - 61) / 2 % 8 + (if negative then 4 else 0)) % 8 : Nat), 0⟩)

/-- The frame-control symbol: bit b on carriers 62 + b + 72r, nothing on 854 to 860 (R130). -/
def controlTones (notched : Nat → Bool) (word : Nat) : List Config.Tone :=
  ((openCarriers notched).filter (fun k => decide (k < 854))).map (fun k =>
    ⟨k, 1, if word.testBit ((k - 62) % 72) then -1 else 1, 0⟩)

/-- Bits [55:0] of frame control (Table 5-3). -/
def FrameCtl.word (f : FrameCtl) : Nat :=
  f.ftype % 16 + f.dst % 2 ^ 12 * 2 ^ 4 + f.src % 2 ^ 12 * 2 ^ 16 + f.symbols % 2 ^ 9 * 2 ^ 28 + f.rate % 4 * 2 ^ 37
    + b2n f.mapped * 2 ^ 39 + f.gen % 16 * 2 ^ 40 + f.w0 % 8 * 2 ^ 44 + f.n0 % 64 * 2 ^ 47 + b2n f.more * 2 ^ 53
    + b2n f.reest * 2 ^ 54

/-- The 72-bit frame control with its CRC-16 (R130). -/
def FrameCtl.encode (f : FrameCtl) : Nat := f.word + crc16 (toLE 7 f.word) * 2 ^ 56

/-- Frame control as received: none when the CRC fails or the type or rate is reserved (R130). -/
def FrameCtl.decode (w : Nat) : Option FrameCtl :=
  if crc16 (toLE 7 w) != bits w 71 56 || decide (8 ≤ bits w 3 0) || bits w 38 37 = 3 then none
  else some
    { ftype := bits w 3 0, dst := bits w 15 4, src := bits w 27 16, symbols := bits w 36 28, rate := bits w 38 37,
      mapped := bit w 39, gen := bits w 43 40, w0 := bits w 46 44, n0 := bits w 52 47, more := bit w 53,
      reest := bit w 54 }

/-- A group is in the segment's notch mask (R124). -/
def State.notched (s : State) (n g : Nat) : Bool := s.flag .PLC_NOTCH n (g / 32) (g % 32)

/-- The bytes of a map set (Table 5-7). -/
def MapSet.bytes (m : MapSet) : Bytes :=
  toLE 1 m.gen ++ toLE 1 m.rate ++ zeros 2
    ++ m.codes.flatMap (fun sub => (List.range 50).map (fun k =>
      BitVec.ofNat 8 (sub.getD (2 * k) 0 + 16 * sub.getD (2 * k + 1) 0)))

/-- A map set read from an item's value. -/
def MapSet.ofBytes (v : Bytes) : MapSet :=
  { gen := leAt v 0 1 % 16, rate := leAt v 1 1,
    codes := (List.range 6).map (fun w => (List.range 100).map (fun g =>
      let b := leAt v (4 + 50 * w + g / 2) 1
      if g % 2 = 0 then bits b 3 0 else bits b 7 4)) }

/-- A set is valid: no reserved code or rate, and no nonzero code in a notched group (R134). -/
def MapSet.valid (notched : Nat → Bool) (m : MapSet) : Bool :=
  decide (m.rate < 3) && m.codes.all (fun sub =>
    sub.all (fun c => decide (c < 6)) && (List.range 100).all (fun g => !(notched g && sub.getD g 0 != 0)))

/-! ### Frame bodies (R131) -/

/-- A body item on the wire (Table 5-6). -/
def plcItem (t : Nat) (v : Bytes) : Bytes := toLE 1 t ++ toLE 2 v.length ++ v

/-- A frame body without its CRC (Table 5-5). -/
def plcBodyHead (seq ack : Nat) (up : Bool) (route : List Nat) (items : Bytes) : Bytes :=
  toLE 1 seq ++ toLE 1 ack ++ toLE 1 (route.length + b2n up * 16) ++ [0] ++ toLE 2 items.length
    ++ route.flatMap (toLE 2) ++ items

/-- A frame body (Table 5-5). -/
def plcBody (seq ack : Nat) (up : Bool) (route : List Nat) (items : Bytes) : Bytes :=
  let h := plcBodyHead seq ack up route items
  h ++ toLE 4 (crc32 h)

/-- CRC-32 of a received body is good. -/
def plcCrcOk (b : Bytes) : Bool := decide (10 ≤ b.length) && crc32 (b.take (b.length - 4)) = leAt b (b.length - 4) 4

/-- Split items of a 1-byte type and a 2-byte length; none when one overruns. -/
def splitItems : Nat → Bytes → Option (List (Nat × Bytes))
  | 0, b => if b.isEmpty then some [] else none
  | fuel + 1, b =>
    if b.isEmpty then some []
    else
      let n := leAt b 1 2
      if b.length < 3 + n then none
      else (splitItems fuel (b.drop (3 + n))).map (fun rs => (leAt b 0 1, slice b 3 n) :: rs)

/-- The items of a body; none for a bad body (R131). -/
def plcItems (b : Bytes) : Option (List (Nat × Bytes)) :=
  let l := leAt b 2 1 % 16
  let n := leAt b 4 2
  if 4096 < b.length || b.length != 10 + 2 * l + n then none
  else
    match splitItems n (slice b (6 + 2 * l) n) with
    | none => none
    | some its => if its.all (fun i => decide (128 ≤ i.1) || (decide (1 ≤ i.1) && decide (i.1 ≤ 6))) then some its else none

end Sys2Proof.Machine
end

