-- ==== Sys2Proof/Machine/PlcFrame.lean ====
section
/-!
DEFINITION. PLC frames as they are sent and received: symbol counts and windows, carriers and samples, the Breakwater, and the
decoding of a received frame (R122-R131, R139, R140).
-/
namespace Sys2Proof.Machine

/-! ### Frames sent -/

/-- Symbols of a window that follow one another without a crossing: 47 at 50 Hz and 39 at 60 Hz (R128). -/
def State.windowSymbols (s : State) (n : Nat) : Nat := if s.flag .PLC_SEG_CFG0 n 0 26 then 39 else 47

/-- w0 and n0 of a frame that starts at an instant: the window of payload symbol 1, and how many payload symbols begin in it
(Table 5-3). -/
def State.frameWindow (s : State) (n start : Nat) : Nat × Nat :=
  let t := start + sampleNs (symbolAt 1)
  let w := s.zcWindowAt n t
  (w, max 1 (min 47 (ceilDiv ((w + 1) * (1000 * s.tHalf n) / 6 - s.sinceZc n t) 35840)))

/-- The sub-map of payload symbol `j` of a frame (R128). -/
def State.subMap (s : State) (n : Nat) (fc : FrameCtl) (maps : List (List Nat)) (j : Nat) : List Nat :=
  maps.getD (symbolWindow fc.w0 fc.n0 (s.windowSymbols n) j) []

/-- Payload symbols that `need` bits take, of at most `fuel` more after `j` symbols (R128). -/
def symbolsFor (bitsOf : Nat → Nat) : Nat → Nat → Nat → Option Nat
  | 0, need, j => if need = 0 then some j else none
  | fuel + 1, need, j => if need = 0 then some j else symbolsFor bitsOf fuel (need - bitsOf (j + 1)) (j + 1)

/-- The ROBO sub-maps of a segment (R128). -/
def State.roboMaps (s : State) (n : Nat) : List (List Nat) := List.replicate 6 (roboMap (s.notched n))

/-- A frame of the device (R124-R130): mapped by a set that carries its body in 511 payload symbols, and ROBO otherwise
(R135, assumption 59). -/
def State.plcFrame (s : State) (n start ftype dst : Nat) (set : Option MapSet) (more reest : Bool) (body : Bytes) : PlcTx :=
  let w := s.frameWindow n start
  let fc : FrameCtl := ⟨ftype, dst, 0, 0, 0, false, 0, w.1, w.2, more, reest⟩
  let size : Nat → List (List Nat) → Option Nat := fun rate maps =>
    symbolsFor (fun j => symbolBits (s.notched n) (s.subMap n fc maps j)) 511 (1920 * codewords rate body) 0
  let made : FrameCtl × List (List Nat) :=
    match set.bind (fun m => (size m.rate m.codes).map (fun k => (m, k))) with
    | some (m, k) => ({ fc with symbols := k, rate := m.rate, mapped := true, gen := m.gen }, m.codes)
    | none => ({ fc with symbols := (size 0 (s.roboMaps n)).getD 511 }, s.roboMaps n)
  let fc := if ftype = 6 then { fc with symbols := 280 } else made.1
  ⟨start, start + sampleNs (frameSamples fc.symbols), fc, made.2, body⟩

/-- Tones of payload symbols `j`, `j + 1`, … of a frame, filled from the coded stream (R128). -/
def State.payloadTones (s : State) (n : Nat) (f : PlcTx) : Nat → Nat → List Bool → List (List Config.Tone)
  | 0, _, _ => []
  | fuel + 1, j, bs =>
    let cs := loadedCarriers (s.notched n) (s.subMap n f.fc f.maps j)
    loadCarriers cs bs :: s.payloadTones n f fuel (j + 1) (bs.drop ((cs.map (fun c => codeBits c.2)).sum))

/-- Tones of the symbols after the preamble (R123): frame control, then the payload or the sounding symbols (Table 5-4). -/
def State.frameTones (s : State) (n : Nat) (f : PlcTx) : List (List Config.Tone) :=
  controlTones (s.notched n) f.fc.encode ::
    (if f.fc.ftype = 6 then (List.range 280).map (fun k => preambleTones (s.notched n) (k % 2 = 0))
     else s.payloadTones n f f.fc.symbols 1 (interleave (bodyCodewords f.fc.rate f.body)))

/-- The samples of a frame at AFE_TX (R122, R123, R129, R157): P four times and −P without guard, then each symbol after a copy
of its last samples. -/
def State.frameWave (s : State) (n : Nat) (f : PlcTx) : List Int :=
  let out := symbolSamples (s.fld .PLC_SEG_CFG2 n 0 9 5)
  let p := out (preambleTones (s.notched n) false)
  let syms := s.frameTones n f
  p ++ p ++ p ++ p ++ out (preambleTones (s.notched n) true)
    ++ ((List.range syms.length).zip syms).flatMap (fun x =>
      let w := out x.2
      w.drop (w.length - plcGuard x.1) ++ w)

/-! ### The Breakwater (R139) -/

/-- The Breakwater over samples: the powers of the last samples not zeroed, the positions of samples over the threshold, newest
first, and the next position. -/
structure Breakwater where
  floor : List Nat
  hits : List Nat
  next : Nat
  deriving DecidableEq, Repr

/-- A power is `th` dB or more above the mean of the last 256 powers (R139): both sides to the tenth power. -/
def overFloor (th : Nat) (floor : List Nat) (p : Nat) : Bool :=
  let f := floor.take 256
  decide (0 < p) && !f.isEmpty && decide (f.sum ^ 10 * 10 ^ th ≤ (p * f.length) ^ 10)

/-- One sample: over the threshold it is zeroed with the 16 samples on each side, which the floor leaves out (R139). -/
def Breakwater.step (th : Nat) (b : Breakwater) (x : Int) : Breakwater :=
  let p := x.natAbs * x.natAbs
  let since := match b.hits with
    | h :: _ => b.next - (h + 17)
    | [] => b.next
  if overFloor th b.floor p then ⟨b.floor.drop (min 16 since), b.next :: b.hits, b.next + 1⟩
  else
    let near := match b.hits with
      | h :: _ => decide (b.next ≤ h + 16)
      | [] => false
    ⟨if near then b.floor else (p :: b.floor).take 272, b.hits, b.next + 1⟩

/-- Samples zeroed among `len` from `at0` on. -/
def zeroedIn (hits : List Nat) (at0 len : Nat) : Nat :=
  ((List.range len).filter (fun k => hits.any (fun h => decide (h ≤ at0 + k + 16) && decide (at0 + k ≤ h + 16)))).length

/-- Contiguous runs of zeroed samples, from positions newest first. -/
def blankEvents : List Nat → Nat
  | [] => 0
  | [_] => 1
  | a :: b :: hs => blankEvents (b :: hs) + (if a ≤ b + 33 then 0 else 1)

/-! ### Frames received -/

/-- What a segment makes of a received frame (R130, R139, R140): its frame control, the payload symbols erased, impulse events,
the floor left, whether impulses hit the preamble or frame control, and its soft values. -/
structure PlcHeard where
  fc : Option FrameCtl
  erased : List Nat
  blanks : Nat
  floor : List Nat
  struck : Bool
  t : Nat
  llr : List Int
  chan : List (Nat × Int)
  snr : List (Nat × Nat × Int)
  deriving DecidableEq, Repr

/-- A segment receives a frame. -/
def State.plcHear (s : State) (n : Nat) (rx : PlcRx) : PlcHeard :=
  let b := rx.samples.foldl (Breakwater.step (s.fld .PLC_SEG_CFG1 n 0 22 18))
    ⟨((s.plc[n]?).map (·.floor)).getD [], [], 0⟩
  let fc := FrameCtl.decode rx.fc
  let symbols := (fc.map (·.symbols)).getD 0
  { fc := fc
    erased := ((List.range symbols).map (· + 1)).filter (fun j =>
      decide (s.fld .PLC_SEG_CFG1 n 0 31 23 < zeroedIn b.hits (rx.lead + symbolAt j) (2048 + plcGuard j)))
    blanks := blankEvents b.hits
    floor := b.floor
    struck := decide (0 < zeroedIn b.hits rx.lead (symbolAt 1))
    t := rx.t, llr := rx.llr, chan := rx.chan, snr := rx.snr }

/-- The soft values of `fuel` payload symbols from `j` on, those of erased symbols 0 (R127, R139). -/
def eraseSymbols (bitsOf : Nat → Nat) (erased : List Nat) : Nat → Nat → List Int → List Int
  | 0, _, _ => []
  | fuel + 1, j, l =>
    let n := bitsOf j
    let x := l.take n
    (if erased.contains j then x.map (fun _ => 0) else x) ++ eraseSymbols bitsOf erased fuel (j + 1) (l.drop n)

/-- All of a list's answers, or none. -/
def allSome {α : Type} : List (Option α) → Option (List α)
  | [] => some []
  | none :: _ => none
  | some x :: xs => (allSome xs).map (x :: ·)

/-- The body of `c` codewords in a coded stream: every codeword decodes, and the body's length and CRC-32 agree (R126, R140). -/
def decodeBody (rate : Nat) (stream : List Int) (c : Nat) : Option Bytes :=
  let cols := piecesOf c 1920 stream
  match allSome ((List.range c).map (fun k => ldpcDecode rate 20 (cols.map (fun x => x.getD k 0)) [])) with
  | none => none
  | some ws =>
    let b := bitsBody (scramble ws.flatten)
    let body := b.take (10 + 2 * (leAt b 2 1 % 16) + leAt b 4 2)
    if plcCrcOk body && codewords rate body = c then some body else none

/-- The body of a received frame under sub-maps (R128, R140). Where the number of payload symbols fits several numbers of
codewords, the lowest that decodes counts (assumption 59). -/
def State.plcBodyOf (s : State) (n : Nat) (h : PlcHeard) (fc : FrameCtl) (maps : List (List Nat)) : Option Bytes :=
  let bitsOf : Nat → Nat := fun j => symbolBits (s.notched n) (s.subMap n fc maps j)
  let stream := eraseSymbols bitsOf h.erased fc.symbols 1 h.llr
  let room := ((List.range fc.symbols).map (fun j => bitsOf (j + 1))).sum
  let fits := ((List.range (room / 1920)).map (· + 1)).filter (fun c => decide (room - bitsOf fc.symbols < 1920 * c))
  fits.findSome? (decodeBody fc.rate stream)

/-- The window a failed frame is attributed to (R140): the one with the most erased symbols, and that of payload symbol 1 where
none or several have the most. -/
def State.blameWindow (s : State) (n : Nat) (h : PlcHeard) : Nat :=
  match h.fc with
  | none => s.zcWindowAt n (h.t + sampleNs (symbolAt 1))
  | some fc =>
    let count : Nat → Nat := fun w =>
      (h.erased.filter (fun j => symbolWindow fc.w0 fc.n0 (s.windowSymbols n) j = w)).length
    let m := ((List.range 6).map count).foldl max 0
    match (List.range 6).filter (fun w => count w = m) with
    | [w] => if m = 0 then fc.w0 else w
    | _ => fc.w0

/-- SNR observations by window × 100 + group (R136, R140): those of the preamble, where no impulse struck it, and, of a frame that
decoded, of symbols that are not erased. -/
def State.windowSnr (s : State) (n : Nat) (h : PlcHeard) (decoded : Bool) : List (Nat × Int) :=
  h.snr.filterMap (fun o =>
    if o.1 = 0 then (if h.struck && !decoded then none else some (s.zcWindowAt n h.t * 100 + o.2.1, o.2.2))
    else if !decoded || h.erased.contains o.1 then none
    else h.fc.map (fun fc => (symbolWindow fc.w0 fc.n0 (s.windowSymbols n) o.1 * 100 + o.2.1, o.2.2)))

end Sys2Proof.Machine
end

