-- ==== Sys2Proof/Machine/Plc.lean ====
section
/-!
DEFINITION. Power-line segments: transmit cells, routes, polling, refresh, downgrade and zero crossings (R132-R161).
-/
namespace Sys2Proof.Machine

/-- The segment, as it is at reset when there is no such number. -/
def State.seg (s : State) (n : Nat) : PlcSeg := s.plc.getD n PlcSeg.reset

/-- Change the node at a position. -/
def State.modNode (s : State) (n p : Nat) (f : PlcNode → PlcNode) : State :=
  s.modPlc n (fun g => { g with nodes := Map.upd g.nodes p f })

/-- The cycle number at an instant (R143). -/
def State.plcCycleAt (s : State) (n : Nat) (t : Nat) : Nat :=
  (((t : Int) - (s.seg n).anchor) / ((1000000 * max 1 (s.fld .PLC_SEG_CFG0 n 0 15 0) : Nat) : Int)).toNat

/-! ### Transmit cells and entries (R145-R147) -/

/-- An envelope is dropped: counted, signalled and recorded (R146). -/
def State.plcDrop (s : State) (n epx : Nat) : State :=
  ((s.count .PLC_TX_DROP_CNT n 0 1).raise (.PLC_INT) n 4).event 0x0603 n epx

/-- Envelopes other than CONFIRM that hold cells, those in an undelivered DATA_DOWN included. -/
def PlcNode.held (d : PlcNode) : Nat :=
  d.cells.length + (match d.down with
    | some f => (f.envs.filter (fun e => envType e.2 != 0xA)).length
    | none => 0)

/-- The oldest envelope other than a CONFIRM is taken out: one of the undelivered DATA_DOWN comes before the cells (R147). The
EPX is that of the envelope. -/
def PlcNode.dropOldest (d : PlcNode) : PlcNode × Nat :=
  let inDown : List (Nat × Bytes) := match d.down with
    | some f => f.envs.filter (fun e => envType e.2 != 0xA)
    | none => []
  match inDown with
  | x :: _ =>
    ({ d with down := d.down.bind (fun f =>
        let es := f.envs.erase x
        if es.isEmpty then none else some { f with envs := es }) }, x.1)
  | [] => ({ d with cells := d.cells.drop 1 }, (d.cells.head?.map (·.1)).getD d.epx)

/-- A new CONFIRM replaces the one that an undelivered DATA_DOWN still holds (R147). -/
def PlcNode.dropConfirm (d : PlcNode) : PlcNode :=
  { d with down := d.down.bind (fun f =>
      let es := f.envs.filter (fun e => envType e.2 != 0xA)
      if es.isEmpty then none else some { f with envs := es }) }

/-- A committed command envelope takes a cell, dropping the oldest when the three are full (R147). -/
def State.plcQueue (s : State) (n p epx : Nat) (env : Bytes) : State :=
  match Map.get? (s.seg n).nodes p with
  | none => s.count .PLC_TX_DROP_CNT n 0 1
  | some d =>
    if d.held < 3 then s.modNode n p (fun d => { d with cells := d.cells ++ [(epx, env)] })
    else
      let r := d.dropOldest
      (s.modNode n p (fun _ => { r.1 with cells := r.1.cells ++ [(epx, env)] })).plcDrop n r.2

/-- A committed PLC transmit-queue item (R145, R147, R405). -/
def State.plcCommit (s : State) (n p : Nat) (it : LinkItem) : State :=
  match it with
  | .create epx serial =>
    let s := match Map.get? (s.seg n).nodes p with
      | some d => if d.epx = epx then s else s.event 0x0605 (n + p * 2 ^ 16) d.epx
      | none => s
    s.modPlc n (fun g => { g with nodes := Map.put g.nodes p (PlcNode.new epx serial s.time.ns) })
  | .remove epx =>
    s.modPlc n (fun g => { g with nodes := Map.keep g.nodes (fun k d => !(k = p && d.epx = epx)) })
  | .confirm epx env => s.modNode n p (fun d => { d.dropConfirm with confirmCell := some (epx, env) })
  | .command epx env => s.plcQueue n p epx env
  | .sched epx env _ => s.plcQueue n p epx env
  | .marker _ _ => s
  | .fwBlock b => s.modPlc n (fun g => { g with fwBlocks := g.fwBlocks ++ [b] })
  | .craftOrder _ _ _ => s

/-- When a segment's function reaches OFF, queued envelopes are dropped without Logbook records (R147). -/
def State.plcOff (s : State) (n : Nat) : State :=
  let c := ((s.seg n).nodes.map (fun e =>
    e.2.cells.length + b2n e.2.confirmCell.isSome + (match e.2.down with
      | some f => f.envs.length
      | none => 0))).sum
  (s.count .PLC_TX_DROP_CNT n 0 c).modPlc n (fun g => { g with
    running := false, exch := none, inWindow := false, late := false
    nodes := g.nodes.map (fun e => (e.1, { e.2 with cells := [], confirmCell := none, down := none })) })

/-! ### ETX and routes (R152-R156) -/

/-- ETX of a history of attempts, in 1/16 units (R153). -/
def etxOf (a : List (Bool × Bool)) : Nat :=
  let good := (a.filter (·.2)).length
  if a.length < 4 || good = 0 then 255 else min 255 (ceilDiv (16 * a.length) good)

/-- ETX of the direct link to a node. -/
def PlcNode.etx (d : PlcNode) : Nat := etxOf d.attempts

/-- The ETX a node reports of an address; 0 counts as 255 (R153). -/
def PlcNode.reported (d : PlcNode) (a : Nat) : Nat :=
  match d.neigh.find? (·.1 = a) with
  | some (_, e) => if e = 0 then 255 else e
  | none => 255

/-- The next relay choice for a node in REPEATER mode: relay address, if any, and path ETX (R154). -/
def choosePath (nodes : Map PlcNode) (bias : Nat) (d : PlcNode) (self : Nat) : List Nat × Nat :=
  let r := ((List.range 2049).filter (fun v => d.neigh.any (·.1 = v) && v != 0 && v != self)).foldl
    (fun (best : Int × List Nat × Nat) v =>
      match Map.get? nodes (v - 1) with
      | none => best
      | some x =>
        if x.etx < 255 && d.reported v < 255 then
          let c := x.etx + d.reported v
          if (c : Int) < best.1 then ((c : Int), [v, self], c) else best
        else best)
    (((d.etx : Int) - bias), [], d.etx)
  r.2

/-- ETX of a link between two addresses, 0 the device; a reported link is usable in both directions (R153, R155). -/
def linkEtx (nodes : Map PlcNode) (u v : Nat) : Nat :=
  match Map.get? nodes (v - 1) with
  | none => 255
  | some x =>
    if u = 0 then x.etx
    else if x.reported u < 255 then x.reported u
    else
      match Map.get? nodes (u - 1) with
      | some y => y.reported v
      | none => 255

/-- Costs and parents of MESH mode by address (R155). -/
structure MeshTable where
  cost : Map Nat
  parent : Map Nat
  deriving DecidableEq, Repr

/-- Relax one link. -/
def relax (nodes : Map PlcNode) (old : Map Nat) (t : MeshTable) (u v : Nat) : MeshTable :=
  match Map.get? old u with
  | none => t
  | some cu =>
    let e := linkEtx nodes u v
    if e = 255 then t
    else
      let c := cu + e
      match Map.get? t.cost v with
      | none => ⟨Map.put t.cost v c, Map.put t.parent v u⟩
      | some x =>
        if c < x || (c = x && decide (u < (Map.get? t.parent v).getD 0)) then
          ⟨Map.put t.cost v c, Map.put t.parent v u⟩
        else t

/-- Neighbour addresses a link may reach an entry from. -/
def sources (nodes : Map PlcNode) (v : Nat) : List Nat :=
  0 :: (nodes.map (fun e => e.1 + 1)).filter (fun u => u != v)

/-- Eight rounds of relaxation (R155). -/
def meshRounds (nodes : Map PlcNode) : Nat → MeshTable → MeshTable
  | 0, t => t
  | n + 1, t =>
    meshRounds nodes n (nodes.foldl (fun acc e =>
      (sources nodes (e.1 + 1)).foldl (fun a u => relax nodes t.cost a u (e.1 + 1)) acc) t)

/-- The relay list to an address, first hop first, the address itself last. -/
def meshRoute (t : MeshTable) : Nat → Nat → List Nat
  | 0, _ => []
  | n + 1, a =>
    match Map.get? t.parent a with
    | none => []
    | some 0 => [a]
    | some u => meshRoute t n u ++ [a]

/-- Compute the routes of a segment in MESH mode (R155). -/
def State.computeRoutes (s : State) (n : Nat) : State :=
  let nodes := (s.seg n).nodes
  let t := meshRounds nodes 8 ⟨[(0, 0)], []⟩
  nodes.foldl (fun s e =>
    let a := e.1 + 1
    match Map.get? t.cost a with
    | some c =>
      let r := meshRoute t 8 a
      s.modNode n e.1 (fun d => { d with
        cost := c, route := if r.length < 2 then [] else r, unreachable := false })
    | none =>
      let s' := s.modNode n e.1 (fun d => { d with unreachable := true })
      if e.2.unreachable then s' else (s'.raise .PLC_INT n 3).event 0x0604 n e.1) s

/-- Evaluate the mode at a cycle start (R152). -/
def State.evalMode (s : State) (n : Nat) : State :=
  let mesh := decide (256 < (s.seg n).nodes.length) || s.flag .PLC_SEG_CFG0 n 0 29
  let s' := if s.flag .PLC_SEG_STATUS n 0 2 = mesh then s
    else (s.setFlag .PLC_SEG_STATUS n 0 2 mesh).raise .PLC_INT n 5
  if mesh then s'.computeRoutes n
  else s'.modPlc n (fun g => { g with nodes := g.nodes.map (fun e => (e.1, { e.2 with unreachable := false })) })

/-- The path to a position now: route list (empty when direct), path ETX and hops (R149, R154, R155). -/
def State.path (s : State) (n p : Nat) (d : PlcNode) : List Nat × Nat × Nat :=
  if s.flag .PLC_SEG_STATUS n 0 2 then (d.route, d.cost, max 1 d.route.length)
  else
    let c := choosePath (s.seg n).nodes (s.fld .PLC_SEG_CFG2 n 0 29 26) d (p + 1)
    (c.1, c.2, max 1 c.1.length)

/-! ### Map sets (R134-R137, R141, R142) -/

/-- Take SNR observations with weight 1/8 (R136); estimates have 20 more fraction bits. -/
def observe (m : Map Int) (obs : List (Nat × Int)) : Map Int :=
  obs.foldl (fun m o =>
    let v := 1048576 * o.2
    match Map.get? m o.1 with
    | some e => Map.put m o.1 (e + (v - e) / 8)
    | none => Map.put m o.1 v) m

/-- The code of a group in a window (R136): margin in dB. -/
def groupCode (snr : Map Int) (notched : Nat → Bool) (margin rate w g : Nat) : Nat :=
  if notched g then 0
  else if (List.range 100).all (fun k => (Map.get? snr (w * 100 + k)).isNone) then 1
  else
    match Map.get? snr (w * 100 + g) with
    | none => 1
    | some e =>
      let adj : Int := if rate = 0 then -2 else if rate = 2 then 2 else 0
      ((List.range 6).filter (fun c => c = 0 || decide (8388608 * ((codeSnr c : Int) + adj + margin) ≤ e))).foldl max 0

/-- The return set a refresh computes (R136). -/
def State.returnSet (s : State) (n : Nat) (d : PlcNode) (rate gen : Nat) : MapSet :=
  ⟨gen, rate, (List.range 6).map (fun w => (List.range 100).map (fun g =>
    groupCode d.snr (s.notched n) (s.fld .PLC_SEG_CFG2 n 0 4 0) rate w g))⟩

/-- Replace the return set: one generation up, the former still decoding until the new one is heard (R135). -/
def PlcNode.issueSet (d : PlcNode) (m : MapSet) : PlcNode :=
  let gen := match d.retGen with
    | some g => (g + 1) % 16
    | none => 0
  { d with ret := some { m with gen := gen }, retPrev := d.ret, retGen := some gen, mapDue := true }

/-- The device has SOUND from the node: a new return set, at a rate that a timed refresh moves by the failures since the last
refresh (R136, R137). -/
def State.refreshNode (s : State) (n : Nat) (d : PlcNode) : PlcNode :=
  let rate := if d.retGen.isNone then 1
    else if !d.timed then d.rate
    else if d.failsSince = 0 then min 2 (d.rate + 1)
    else if s.fld .PLC_SEG_CFG1 n 0 12 8 ≤ d.failsSince then d.rate - 1 else d.rate
  { (d.issueSet (s.returnSet n d rate 0)) with rate := rate, failsSince := 0 }

/-- Lower the codes of a window by one; 1 and 0 stay (R141). -/
def lowerCode (c : Nat) : Nat := if 2 ≤ c then c - 1 else c

/-- A failed decode attributed to a window; the third within 600 s of the first downgrades the window (R141). The Bool
says that it did. -/
def PlcNode.noteFailure (d : PlcNode) (w now : Nat) : PlcNode × Bool :=
  let ts := (Map.getD d.failTimes w []) ++ [now]
  let ts := if 3 < ts.length then ts.drop 1 else ts
  match ts with
  | [a, _, c] =>
    if c ≤ a + 600 * 1000000000 then
      let d := { d with failTimes := Map.put d.failTimes w [] }
      (match d.ret with
       | some m =>
         let m' := { m with codes := updAt m.codes w (fun sub => sub.map lowerCode) }
         if m'.codes = m.codes then d else d.issueSet m'
       | none => d, true)
    else ({ d with failTimes := Map.put d.failTimes w ts }, false)
  | _ => ({ d with failTimes := Map.put d.failTimes w ts }, false)

/-- Compare the preamble's channel magnitudes in the unnotched groups with the stored estimate (R142). -/
def PlcNode.compareChannel (d : PlcNode) (notched : Nat → Bool) (thresh : Nat) (all : List (Nat × Int)) : PlcNode :=
  let chan := all.filter (fun c => !notched c.1)
  if chan.isEmpty then d
  else
    let new : Map Int := chan.foldl (fun m c => Map.put m c.1 c.2) []
    let diff := (new.map (fun c => match Map.get? d.chan c.1 with
      | some x => (c.2 - x).natAbs
      | none => 0)).sum
    if d.chan.isEmpty then { d with chan := new }
    else if thresh * new.length < diff then { d with chan := new, reest := true }
    else d

/-! ### The cycle (R143-R151) -/

/-- The first sample of the segment's next BEACON, POLL, DATA_DOWN or SOUND, in ns: PLC_TXEN_n asserts 10 µs before it, and 40 µs
pass since the last sample on the segment (R157, Table 5-8). -/
def State.plcStart (s : State) (n : Nat) : Nat := max (s.time.ns + 10000) ((s.seg n).airEnd + 40000)

/-- Put a frame of the device on the segment. -/
def State.plcSend (s : State) (n : Nat) (f : PlcTx) : State :=
  s.modPlc n (fun g => { g with txNow := [f], airEnd := f.stop })

/-- The SYNC item of a frame that starts now at `start` (Table 5-6). -/
def State.syncItem (s : State) (n start : Nat) (lastgasp : Bool) : Bytes :=
  let th := s.tHalf n
  let el := (start - (s.seg n).tzc) / 1000 % th
  plcItem 1 (toLE 4 (s.get .PLC_CYCLE n 0) ++ toLE 2 (th - el) ++ toLE 2 th
    ++ toLE 1 (b2n (s.flag .PLC_SEG_STATUS n 0 1) + b2n lastgasp * 2 + b2n (s.flag .PLC_SEG_STATUS n 0 2) * 4) ++ [0])

/-- The next frame sequence number: 1-255 (Table 5-5). -/
def seqUp (q : Nat) : Nat := if q = 255 then 1 else q + 1

/-- As many FW_BLOCK items as fit a body with `used` bytes so far (R405). -/
def takeBlocks : Nat → List Bytes → List Bytes
  | _, [] => []
  | used, b :: bs => if used + b.length ≤ 4096 then b :: takeBlocks (used + b.length) bs else []

/-- Send a BEACON (R144, R145, R159). -/
def State.beacon (s : State) (n : Nat) (lastgasp : Bool) : State :=
  let g := s.seg n
  let t := s.plcStart n
  let sync := s.syncItem n t lastgasp
  let asg := (g.nodes.filter (fun e => decide (0 < e.2.assignLeft))).take 16
  let items := sync ++ asg.flatMap (fun e => plcItem 6 (toLE 8 e.2.serial ++ toLE 2 (e.1 + 1)))
  let blocks := takeBlocks (10 + items.length) g.fwBlocks
  let f := s.plcFrame n t 0 0xFFF none false false (plcBody g.seq 0 false [] (items ++ blocks.flatMap id))
  ((s.count .UPD_BLOCK_CNT 0 0 blocks.length).plcSend n f).modPlc n (fun g => { g with
    seq := seqUp g.seq, fwBlocks := []
    nodes := g.nodes.map (fun e => if asg.any (fun a => a.1 = e.1) then
      (e.1, { e.2 with assignLeft := e.2.assignLeft - 1 }) else e) })

/-- The segment may transmit: SEALED, function RUNNING, link up, no power failure (R147, R158, R159). -/
def State.plcLive (s : State) (n : Nat) : Bool :=
  decide (n < 8) && s.inService && !s.pwrfail && s.fnRunning (1 + n) && s.flag .PLC_SEG_STATUS n 0 0

/-- A node has something queued for it. -/
def PlcNode.queued (d : PlcNode) : Bool := !d.cells.isEmpty || d.confirmCell.isSome || d.down.isSome

/-- Positions still to poll in this cycle, in poll order (R144, R150): re-poll list, acknowledged REQs, queued downlinks, due
nodes. -/
def State.plcOrder (s : State) (n : Nat) : List Nat :=
  let g := s.seg n
  let bp := s.bpActive 1 n
  let ok : Nat → Bool := fun p => !g.done.contains p && (match Map.get? g.nodes p with
    | some d => !d.unreachable
    | none => false)
  ((if bp then [] else g.repoll) ++ g.req ++ (g.nodes.filter (fun e => e.2.queued)).map (·.1)
    ++ (if bp then [] else g.due)).filter ok

/-- The next position to poll: the first in order, or while its entry is being loaded the next one whose entry is cached (R138,
R144). -/
def State.plcNext (s : State) (n : Nat) : Option Nat :=
  match s.plcOrder n with
  | [] => none
  | p :: ps => some (((p :: ps).find? (fun q => (s.seg n).cache.contains q)).getD p)

/-- The scheduler loads the entry of the first position in order into the cache (R138, assumption 59). -/
def State.plcLoad (s : State) (n : Nat) : State :=
  match s.plcOrder n with
  | [] => s
  | p :: _ =>
    if (s.seg n).cache.contains p then s
    else s.modPlc n (fun g => { g with cache := (p :: g.cache).take (s.fld .PLC_SEG_CFG2 n 0 25 16) })

/-- Begin a cycle: mode and routes, poll lists, BEACON, and the firmware ROUND manifest (R144, R152, R405). -/
def State.plcBegin (s : State) (n : Nat) : State :=
  let c := s.plcCycleAt n s.time.ns
  let s := s.setFlag .PLC_SEG_STATUS n 0 3 (s.seg n).late
  let s := (s.set .PLC_CYCLE n 0 c).evalMode n
  let s := s.modPlc n (fun g => { g with
    running := true, late := false, inWindow := false, exch := none, done := [], refreshes := 0
    repoll := g.repollNext, repollNext := [], req := g.reqNext, reqNext := []
    due := (g.nodes.filter (fun e => c % 2 ^ e.2.pollLog2 = e.1 % 2 ^ e.2.pollLog2)).map (·.1) })
  let s := s.beacon n false
  if s.fnRunning 0x16 then s.make kFwPush 3 (0x410100 + n) 1 n none [] else s

/-- Whether polls of the cycle in progress remain. -/
def State.plcBusy (s : State) (n : Nat) : Bool :=
  (s.seg n).running && ((s.seg n).exch.isSome || (s.plcNext n).isSome)

/-- A nominal cycle start (R144): a cycle still polling overruns; otherwise the next begins. -/
def execPlcCycleStart (seg : Nat) (s : State) : Host.Outcome State Fault Refusal :=
  if !s.plcLive seg then .next s
  else if s.plcBusy seg then
    .next (((s.modPlc seg (fun g => { g with late := true, inWindow := false })).setFlag .PLC_SEG_STATUS seg 0 3 true).raise
      .PLC_INT seg 2)
  else .next (s.plcBegin seg)

/-- After an exchange, an overrun cycle whose polls are done gives way to the cycle now current (R144). -/
def State.plcAfter (s : State) (n : Nat) : State :=
  if (s.seg n).late && s.plcLive n && !s.plcBusy n then s.plcBegin n else s

/-- A committed ISSUE manifest of an EPX is still waiting or running. -/
def State.issueQueued (s : State) (epx : Nat) : Bool :=
  s.allManifests.any (fun m => m.kind = kCommand && m.kindArg = 0xFF && m.epxValid && m.epx = epx)

/-- A pending entry's window is closed when the current window is `cur` (R113). -/
def windowClosed (cur w : Nat) : Bool :=
  w != 0xFFFFFFFF && w != cur % 2 ^ 32 && decide ((cur % 2 ^ 32 + 2 ^ 32 - w) % 2 ^ 32 < 2 ^ 31)

/-- The record has an entry of a closed window. -/
def EpRec.hasClosed (r : EpRec) (cur : Nat) : Bool :=
  r.pend.any (fun p => match p with
    | some e => windowClosed cur e.window
    | none => false)

/-- Create the ISSUE manifest a poll of a node calls for (R116, R148). -/
def State.plcIssue (s : State) (n p : Nat) : State :=
  match Map.get? (s.seg n).nodes p with
  | none => s
  | some d =>
    if s.workerRole || s.issueQueued d.epx then s
    else if 8 ≤ d.upCount || (s.record d.epx).hasClosed (s.plcCycleAt n s.time.ns) then
      s.make kCommand 0xFF d.epx 1 n (some d.epx) []
    else s

/-- Queued envelopes that a DATA_DOWN with `room` bytes left carries, and those it leaves (R147). -/
def takeEnvs : Nat → List (Nat × Bytes) → List (Nat × Bytes) × List (Nat × Bytes)
  | _, [] => ([], [])
  | room, e :: es =>
    if e.2.length + 3 ≤ room then
      let r := takeEnvs (room - (e.2.length + 3)) es
      (e :: r.1, r.2)
    else
      let r := takeEnvs room es
      (r.1, e :: r.2)

/-- Since when a link is due for refresh (R137). -/
def State.refreshSince (s : State) (n : Nat) (d : PlcNode) : Option Nat :=
  let timed := d.lastRefresh + 60000000000 * s.fld .PLC_SEG_CFG1 n 0 7 0
  (d.dueAt.toList ++ d.soundDue.toList ++ (if timed ≤ s.time.ns then [timed] else [])).min?

/-- A refresh takes the place of this poll: due, within the limit of the cycle with those due earlier of the nodes still to
poll ahead of it, and no back-pressure (R137, R150). -/
def State.refreshNow (s : State) (n p : Nat) (d : PlcNode) : Bool :=
  let g := s.seg n
  match s.refreshSince n d with
  | none => false
  | some since =>
    let ahead := (g.nodes.filter (fun e => e.1 != p && (s.plcOrder n).contains e.1 && (match s.refreshSince n e.2 with
      | some t => decide (t < since)
      | none => false))).length
    !s.bpActive 1 n && decide (g.refreshes + ahead < s.fld .PLC_SEG_CFG2 n 0 15 10)

/-- The forward set of the link to a hop. -/
def State.forwardSet (s : State) (n hop : Nat) : Option MapSet := (Map.get? (s.seg n).nodes (hop - 1)).bind (·.fwd)

/-- A node is to be told to estimate again (R142). -/
def State.reestOf (s : State) (n p : Nat) : Bool :=
  match Map.get? (s.seg n).nodes p with
  | some d => d.reest
  | none => false

/-- The instant at which a reply is missing (Table 5-8, R156): over `hops` relays beyond the first, each adds the time of the
device's frame and of the longest relayed reply. -/
def replyDeadline (f : PlcTx) (hops : Nat) : Nat :=
  f.stop + 200000 + (hops - 1) * (f.stop - f.start + 100000) + 2009760 * (hops - 1)

/-- Send POLL or DATA_DOWN to a position (R144, R146, R147); reest tells the first hop to estimate again (R142). -/
def State.pollFrame (s : State) (n p : Nat) (d : PlcNode) : State :=
  let pth := s.path n p d
  let hop := pth.1.headD (p + 1)
  let mapItem := if d.mapDue then (match d.ret with
    | some m => plcItem 3 m.bytes
    | none => []) else []
  let base := s.syncItem n (s.plcStart n) false ++ mapItem
  let queue := d.confirmCell.toList ++ d.cells
  let taken := takeEnvs (4096 - (10 + 2 * pth.1.length + base.length)) queue
  let down : Option DownFrame := match d.down with
    | some f => some { f with sends := f.sends + 1 }
    | none => if taken.1.isEmpty then none else some ⟨d.downSeq, 1, taken.1⟩
  let fresh := d.down.isNone && down.isSome
  let seq := match down with
    | some f => f.seq
    | none => d.downSeq
  let items := base ++ (match down with
    | some f => f.envs.flatMap (fun e => plcItem 2 e.2)
    | none => [])
  let kind := if down.isSome then 2 else 1
  let left := if fresh then taken.2 else queue
  let keptConfirm := decide (left.length = queue.length) || (d.confirmCell.any (fun c => left.head? = some c))
  let d' := { d with
    down := down, downSeq := if d.down.isNone then seqUp d.downSeq else d.downSeq, mapDue := false
    confirmCell := if keptConfirm then d.confirmCell else none
    cells := if keptConfirm && d.confirmCell.isSome then left.drop 1 else left
    upCount := if down.isSome then 0 else d.upCount }
  let f := s.plcFrame n (s.plcStart n) kind hop (s.forwardSet n hop) (!left.isEmpty) (s.reestOf n (hop - 1))
    (plcBody seq d.ackSeq false pth.1 items)
  ((s.modPlc n (fun g => { g with
    nodes := Map.put g.nodes p d', done := p :: g.done
    exch := some ⟨p, hop - 1, kind, decide (2 ≤ pth.1.length), replyDeadline f (max 1 pth.1.length), false⟩ })).plcSend n
      f).modNode n (hop - 1) (fun d => { d with reest := false })

/-- Send SOUND to a position (R137). The failures that made its link due count no further (assumption 59). -/
def State.soundFrame (s : State) (n p : Nat) (d : PlcNode) : State :=
  let timed := decide (d.lastRefresh + 60000000000 * s.fld .PLC_SEG_CFG1 n 0 7 0 ≤ s.time.ns)
  let d' := { d with
    dueAt := none, soundDue := none, timed := timed, fails := [], lastRefresh := s.time.ns, reest := false }
  let f := s.plcFrame n (s.plcStart n) 6 (p + 1) none false d.reest []
  (s.modPlc n (fun g => { g with
    nodes := Map.put g.nodes p d', done := p :: g.done, refreshes := g.refreshes + 1
    exch := some ⟨p, p, 6, false, replyDeadline f 1, false⟩ })).plcSend n f

/-- The segment sends the next frame in poll order; a poll, in whose place no SOUND went, makes the ISSUE manifest that it calls
for (R137, R144, R148). -/
def execPlcPollExchange (seg : Nat) (s : State) : Host.Outcome State Fault Refusal :=
  let g := s.seg seg
  if !s.plcLive seg || !g.running || g.exch.isSome || g.inWindow then .next s
  else
    match s.plcNext seg with
    | none => .next (s.plcAfter seg)
    | some p =>
      match Map.get? g.nodes p with
      | none => .next s
      | some d =>
        let s := s.plcLoad seg
        .next (if s.refreshNow seg p d then s.soundFrame seg p d else (s.pollFrame seg p d).plcIssue seg p)

/-- Record an uplink attempt on the link of the first hop: its failures make the link due for refresh (R137). -/
def State.linkAttempt (s : State) (n p : Nat) (ok : Bool) : State :=
  s.modNode n p (fun d =>
    let fails := ((!ok) :: d.fails).take 32
    { d with
      fails := fails, failsSince := if ok then d.failsSince else d.failsSince + 1
      dueAt := if d.dueAt.isNone && decide (s.fld .PLC_SEG_CFG1 n 0 12 8 ≤ (fails.filter id).length) then some s.time.ns
        else d.dueAt })

/-- Record an exchange: the ETX history of a direct link, and the uplink attempt of the first hop (R137, R153). -/
def State.plcAttempt (s : State) (n : Nat) (e : Exchange) (reply ok : Bool) : State :=
  (if e.relayed then s
    else s.modNode n e.pos (fun d => { d with attempts := ((reply, ok) :: d.attempts).take 32 })).linkAttempt n e.hop ok

/-- Drop the envelopes of a DATA_DOWN that three sends have not delivered (R146). -/
def State.plcUndelivered (s : State) (n p : Nat) : State :=
  match Map.get? (s.seg n).nodes p with
  | none => s
  | some d =>
    match d.down with
    | none => s
    | some f =>
      if f.sends < 3 then s
      else f.envs.foldl (fun s e => s.plcDrop n e.1) (s.modNode n p (fun d => { d with down := none }))

/-- End the exchange in progress. -/
def State.plcEnd (s : State) (n p : Nat) : State :=
  ((s.plcUndelivered n p).modPlc n (fun g => { g with exch := none })).plcAfter n

/-- The sub-maps that a received frame decodes by: ROBO, or the return set in its generation, the former one while it still
decodes (R128, R135). -/
def State.receiveMaps (s : State) (n : Nat) (d : PlcNode) (fc : FrameCtl) : Option (List (List Nat)) :=
  if !fc.mapped then some (s.roboMaps n)
  else ((d.ret.toList ++ d.retPrev.toList).find? (fun m => m.gen = fc.gen)).map (·.codes)

/-- Take the items of a DATA_UP: envelope, forward map set and neighbour report (R134, R140, R153). -/
def State.plcTake (s : State) (n p : Nat) (d : PlcNode) (items : List (Nat × Bytes)) : State :=
  items.foldl (fun s it =>
    match it.1 with
    | 2 =>
      let pth := s.path n p d
      (s.arrive n it.2 ⟨1, n, p + 1, s.nsec, s.sec, s.quality,
        min 4095 pth.2.1 + min 8 pth.2.2 * 2 ^ 12⟩).1
    | 3 =>
      let m := MapSet.ofBytes it.2
      if m.valid (s.notched n) then s.modNode n p (fun d => { d with fwd := some m, fwdPrev := d.fwd }) else s
    | 4 =>
      s.modNode n p (fun d => { d with neigh :=
        (List.range (it.2.length / 3)).map (fun k => (leAt it.2 (3 * k) 2, leAt it.2 (3 * k + 2) 1)) })
    | _ => s) s

/-- The end of a received frame's last sample, in ns. -/
def PlcHeard.stop (h : PlcHeard) : Nat := h.t + sampleNs (frameSamples ((h.fc.map (·.symbols)).getD 0))

/-- What every reception on a segment brings, whatever becomes of its frame (R139): impulse events, the floor, and how long the
medium was taken. -/
def State.plcListen (s : State) (n : Nat) (h : PlcHeard) : State :=
  if n < 8 then (s.count .PLC_BLANK_CNT n 0 h.blanks).modPlc n (fun g => { g with floor := h.floor, airEnd := h.stop }) else s

/-- What any frame of the node on a link brings (R135, R136, R142): erased symbols, the preamble's channel, the end of the former
return set at the first frame in the new one, and SNR observations. -/
def State.plcObserve (s : State) (n p : Nat) (h : PlcHeard) (decoded : Bool) : State :=
  let s := s.count .PLC_ERASED_SYM_CNT n 0 h.erased.length
  let obs := s.windowSnr n h decoded
  s.modNode n p (fun d =>
    let d := d.compareChannel (s.notched n) (s.fld .PLC_SEG_CFG1 n 0 17 13) h.chan
    let newGen := match h.fc, d.ret with
      | some fc, some m => fc.mapped && m.gen = fc.gen
      | _, _ => false
    let d := if newGen then { d with retPrev := none } else d
    { d with snr := observe d.snr obs })

/-- A frame of a link failed to decode (R140, R141): counted, attributed to a window of that link's return set, and the node
is polled again in the next cycle. -/
def State.plcFailed (s : State) (n pos link : Nat) (h : PlcHeard) : State :=
  let s := (s.plcObserve n link h false).count .PLC_RX_FAIL_CNT n 0 1
  let w := s.blameWindow n h
  let s := match Map.get? (s.seg n).nodes link with
    | some d =>
      let r := d.noteFailure w s.time.ns
      let s := s.modNode n link (fun _ => r.1)
      if r.2 then s.count .PLC_DOWNGRADE_CNT n 0 1 else s
    | none => s
  if Map.has (s.seg n).nodes pos then
    s.modPlc n (fun g => { g with repollNext := if g.repollNext.contains pos then g.repollNext else g.repollNext ++ [pos] })
  else s

/-- ACK goes out 60 µs after the last sample of a frame (Table 5-8), with reest if the node is to estimate again (R142). -/
def State.plcAck (s : State) (n addr : Nat) (h : PlcHeard) : State :=
  let f := s.plcFrame n (h.stop + 60000) 5 addr none false (s.reestOf n (addr - 1)) []
  (s.modNode n (addr - 1) (fun d => { d with reest := false })).plcSend n f

/-- A DATA_UP that decoded (R131, R140, R146): acknowledged at once on a direct path, its seq noted, its items taken unless the
body is bad. -/
def State.plcTakeUp (s : State) (n : Nat) (e : Exchange) (h : PlcHeard) (body : Bytes) : State :=
  let p := e.pos
  let s := (s.plcObserve n e.hop h true).plcAttempt n e true true
  let s := if e.relayed then s else s.plcAck n (p + 1) h
  let ack := leAt body 1 1
  let s := s.modNode n p (fun d => { d with
    ackSeq := leAt body 0 1, upCount := d.upCount + 1
    down := d.down.bind (fun f => if f.seq = ack then none else some f) })
  match plcItems body, Map.get? (s.seg n).nodes p with
  | some items, some d => ((s.count .PLC_RX_OK_CNT n 0 1).plcTake n p d items).plcEnd n p
  | _, _ => (s.count .PLC_RX_FAIL_CNT n 0 1).plcEnd n p

/-- The segment may hand on what it receives: its function is RUNNING and power is good (R147, R159). -/
def State.plcHandsOn (s : State) (n : Nat) : Bool := s.fnRunning (1 + n) && !s.pwrfail

/-- A reply to the exchange in progress (R137, R139-R142, R146). A frame with bad frame control, or not from the first hop, is
ignored, unless impulses struck its frame control; one whose signal buffer had an uncorrectable error is not acknowledged. -/
def State.plcReply (s : State) (n : Nat) (e : Exchange) (h : PlcHeard) : State :=
  match h.fc with
  | none => if h.struck then ((s.plcFailed n e.pos e.hop h).plcAttempt n e true false).plcEnd n e.pos else s
  | some fc =>
    if fc.dst != 0 || fc.src != e.hop + 1 || fc.ftype != (if e.kind = 6 then 6 else 3) then s
    else if e.hit || !s.plcHandsOn n then s.plcEnd n e.pos
    else if e.kind = 6 then
      let s := (s.plcObserve n e.pos h true).plcAttempt n e true true
      (s.modNode n e.pos (s.refreshNode n)).plcEnd n e.pos
    else
      let body := ((Map.get? (s.seg n).nodes e.hop).bind (fun d => s.receiveMaps n d fc)).bind (s.plcBodyOf n h fc)
      match body with
      | some b => s.plcTakeUp n e h b
      | none => ((s.plcFailed n e.pos e.hop h).plcAttempt n e true false).plcEnd n e.pos

/-- Run `f` on the exchange in progress and its node. -/
def State.onExch (s : State) (n : Nat) (f : Exchange → State) : Host.Outcome State Fault Refusal :=
  match (s.seg n).exch with
  | none => .next s
  | some e =>
    if Map.has (s.seg n).nodes e.pos then .next (f e) else .next (s.modPlc n (fun g => { g with exch := none }))

/-- A reply is received (R140). -/
def execPlcReplyReceived (seg : Nat) (rx : PlcRx) (s : State) : Host.Outcome State Fault Refusal :=
  let h := s.plcHear seg rx
  let s := s.plcListen seg h
  s.onExch seg (fun e => s.plcReply seg e h)

/-- A NULL_UP ends the exchange without acknowledgement (R146). -/
def execPlcNullUpReceived (seg : Nat) (rx : PlcRx) (s : State) : Host.Outcome State Fault Refusal :=
  let h := s.plcHear seg rx
  let s := s.plcListen seg h
  s.onExch seg (fun e =>
    match h.fc with
    | none => s
    | some fc =>
      if e.kind = 6 || fc.ftype != 4 || fc.dst != 0 || fc.src != e.hop + 1 then s
      else ((s.plcObserve seg e.hop h true).plcAttempt seg e true true).plcEnd seg e.pos)

/-- The reply deadline passes (R137, R146, Table 5-8, R156). -/
def execPlcReplyMissing (seg : Nat) (s : State) : Host.Outcome State Fault Refusal :=
  s.onExch seg (fun e =>
    if s.time.ns < e.deadline then s
    else ((s.count .PLC_POLL_FAIL_CNT seg 0 1).plcAttempt seg e false false).plcEnd seg e.pos)

/-- The items of a CONTEND from an address: a REQ of a node of the segment is noted, an INSTALL of a node without an address
passed on (R151). -/
def State.contendItem (s : State) (n addr : Nat) (it : Nat × Bytes) : State :=
  match it.1 with
  | 5 =>
    if addr != 0 && Map.has (s.seg n).nodes (addr - 1) then
      s.modPlc n (fun g => { g with
        reqNext := if g.reqNext.contains (addr - 1) then g.reqNext else g.reqNext ++ [addr - 1] })
    else s
  | 2 =>
    if addr = 0xFFE && envType it.2 = 2 then (s.arrive n it.2 ⟨1, n, addr, s.nsec, s.sec, s.quality, 0⟩).1 else s
  | _ => s

/-- A CONTEND in the contention window (R139-R142, R151): decoded by ROBO and acknowledged, its REQ noted or its INSTALL passed
on; one that fails is attributed to a window of its node. -/
def execPlcContendReceived (seg : Nat) (sig : PlcSig) (fc : Nat) (llr : List Int) (s : State) :
    Host.Outcome State Fault Refusal :=
  let rx : PlcRx := ⟨sig, fc, llr⟩
  let h := s.plcHear seg rx
  let s := s.plcListen seg h
  if !s.plcLive seg || !(s.seg seg).inWindow then .next s
  else
    match h.fc with
    | none => .next (if h.struck then s.count .PLC_RX_FAIL_CNT seg 0 1 else s)
    | some fc =>
      let link := fc.src - 1
      if fc.dst != 0 || fc.ftype != 7 || fc.src = 0 then .next s
      else
        match (if fc.mapped then none else s.plcBodyOf seg h fc (s.roboMaps seg)) with
        | none => .next ((s.plcFailed seg link link h).linkAttempt seg link false)
        | some body =>
          let s := ((s.plcObserve seg link h true).linkAttempt seg link true).plcAck seg fc.src h
          let s := s.count .PLC_CONTEND_CNT seg 0 1
          match plcItems body with
          | none => .next (s.count .PLC_RX_FAIL_CNT seg 0 1)
          | some items =>
            .next (items.foldl (fun s it => s.contendItem seg fc.src it) (s.count .PLC_RX_OK_CNT seg 0 1))

/-- The last cw_ms of the cycle begin, or end (R144, R151); cw_ms 0 removes the window. -/
def execPlcContentionWindow (seg : Nat) (opens : Bool) (s : State) : Host.Outcome State Fault Refusal :=
  if s.plcLive seg && (s.seg seg).running && s.fld .PLC_SEG_CFG0 seg 0 25 16 != 0 then
    .next (s.modPlc seg (fun g => { g with inWindow := opens }))
  else .next s

/-! ### Crossings, link and registers (R132, R137, R158, R161) -/

/-- One crossing at a segment: accepted when the interval lies within 7.5-11.0 ms (R132). -/
def PlcSeg.crossing (g : PlcSeg) (t : Nat) : PlcSeg × Bool :=
  let us := (t - g.lastEdge) / 1000
  if 7500 ≤ us && us ≤ 11000 then
    ({ g with tzc := t, lastEdge := t, intervals := (us :: g.intervals).take 8 }, true)
  else ({ g with lastEdge := t }, false)

/-- A zero crossing of METRO_V_1 to _3 at time `t` in ns, delivered to 1 µs (R132, R205). -/
def execZeroCrossing (phase t : Nat) (s : State) : Host.Outcome State Fault Refusal :=
  let t := t / 1000 * 1000
  .next ((List.range 8).foldl (fun s n =>
    if s.fld .PLC_SEG_CFG0 n 0 28 27 = phase then
      let r := (s.seg n).crossing t
      let s := s.modPlc n (fun _ => r.1)
      if r.2 then s.setFlag .PLC_SEG_STATUS n 0 1 false else s
    else s) s)

/-- No crossing accepted for 3 × T_half: the segment generates its own (R132). -/
def execPlcZcLost (seg : Nat) (s : State) : Host.Outcome State Fault Refusal :=
  if decide (seg < 8) && !s.flag .PLC_SEG_STATUS seg 0 1
      && decide ((s.seg seg).tzc + 3000 * s.tHalf seg ≤ s.time.ns) then
    .next (((s.setFlag .PLC_SEG_STATUS seg 0 1 true).raise .PLC_INT seg 1).event 0x0602 seg 0)
  else .next s

/-- The segment loses its AFE link: sync-header lock is lost, or more than 4 CRC-12 errors came in 1 ms (R158). It stops
transmitting, and a DATA_DOWN that was sent for the third time is dropped (R146). -/
def execPlcLinkDown (link : PlcLink) (s : State) : Host.Outcome State Fault Refusal :=
  let seg := link.seg
  if decide (seg < 8) && s.flag .PLC_SEG_STATUS seg 0 0 && (!link.locked || decide (4 < link.crcErrors)) then
    let s := match (s.seg seg).exch with
      | some e => s.plcUndelivered seg e.pos
      | none => s
    let s := s.modPlc seg (fun g => { g with running := false, exch := none, inWindow := false, late := false, txNow := [] })
    .next (((s.setFlag .PLC_SEG_STATUS seg 0 0 false).raise .PLC_INT seg 0).event 0x0601 seg 0)
  else .next s

/-- Bring-up is retried every 10 ms while the link is down (R158). -/
def execPlcLinkRetry (seg : Nat) (up : Bool) (s : State) : Host.Outcome State Fault Refusal :=
  if decide (seg < 8) && up then .next (s.setFlag .PLC_SEG_STATUS seg 0 0 true) else .next s

/-- ENTRY_STATUS of a position (Table 5-14). -/
def State.entryStatus (s : State) (n p : Nat) : Nat :=
  match Map.get? (s.seg n).nodes p with
  | none => 2
  | some d =>
    let pth := s.path n p d
    2 + 4 + b2n d.unreachable * 8 + d.pollLog2 * 2 ^ 4
      + (if d.unreachable then 0 else pth.2.2 % 16 * 2 ^ 7 + min 4095 pth.2.1 * 2 ^ 11)

/-- PLC.ENTRY_CMD with set 0 (Table 5-14). -/
def execPlcEntryRead (seg : Nat) (val : Word) (s : State) : Host.Outcome State Fault Refusal :=
  if s.hostHeld then .next s else
  if decide (seg < 8) && bit val.toNat 31 && !bit val.toNat 14 then
    .next (s.set .PLC_ENTRY_STATUS seg 0 (s.entryStatus seg (bits val.toNat 10 0)))
  else .next s

/-- PLC.ENTRY_CMD with set 1: the poll class counts from the next cycle start (Table 5-14). -/
def execPlcEntrySet (seg : Nat) (val : Word) (s : State) : Host.Outcome State Fault Refusal :=
  if s.hostHeld then .next s else
  if decide (seg < 8) && bit val.toNat 31 && bit val.toNat 14 then
    let p := bits val.toNat 10 0
    let s := s.modNode seg p (fun d => { d with pollLog2 := bits val.toNat 13 11 })
    .next (s.set .PLC_ENTRY_STATUS seg 0 (s.entryStatus seg p))
  else .next s

/-- A write of 1 to SEG_CTL.sound_now makes every link due (R137). -/
def execPlcSoundNow (seg : Nat) (s : State) : Host.Outcome State Fault Refusal :=
  if s.hostHeld then .next s else
  .next (s.modPlc seg (fun g => { g with nodes := g.nodes.map (fun e =>
    (e.1, { e.2 with soundDue := some (e.2.soundDue.getD s.time.ns) })) }))

end Sys2Proof.Machine
end

