-- ==== Sys2Proof/Machine/RadioPhy.lean ====
section
/-!
DEFINITION. The radio signal format as numbers: channels, frame header, PN9 whitening, airtime and body limits
(R163-R171).
-/
namespace Sys2Proof.Machine

/-- Lower edge of channel `c` in kHz (R163). -/
def channelLow (centre c : Nat) : Nat := centre + 200 * c - 1600

/-- One step of the PN9 register: output bit and next state (R166). -/
def pn9Step (s : Nat) : Bool × Nat :=
  (s.testBit 0, s / 2 + b2n ((s.testBit 0) != (s.testBit 5)) * 256)

/-- `n` PN9 bits from a state. -/
def pn9Bits : Nat → Nat → List Bool
  | 0, _ => []
  | n + 1, s => (pn9Step s).1 :: pn9Bits n (pn9Step s).2

/-- The 3-byte frame header (Table 6-2). -/
def radioHeader (ftype seq len ackSeq : Nat) (ackValid : Bool) : Bytes :=
  toLE 1 (ftype % 16 + seq % 16 * 16) ++ toLE 2 (len % 2048 + ackSeq % 16 * 2 ^ 11 + b2n ackValid * 2 ^ 15)

/-- Header, body and CRC of a frame before whitening, the CRC low byte first (R166). -/
def radioFrame (ftype seq ackSeq : Nat) (ackValid : Bool) (body : Bytes) : Bytes :=
  let h := radioHeader ftype seq body.length ackSeq ackValid ++ body
  h ++ toLE 2 (crc16 h)

/-- Bits XORed with the PN9 sequence from the first header bit (R166). -/
def whiten (bs : List Bool) : List Bool := bs.zipWith (fun x y => x != y) (pn9Bits bs.length 0x1FF)

/-- Header, body and CRC as whitened bits, least significant bit of each byte first (R166). -/
def whitened (b : Bytes) : List Bool := whiten (bodyBits b)

/-- Sync word of frames from the device, and of frames to it (R166). -/
def syncOut : Nat := 0xD391

/-- Sync word of frames to the device. -/
def syncIn : Nat := 0x7A0E

/-- A sync word as sent, most significant bit first (R166). -/
def syncBits (w : Nat) : List Bool := (List.range 16).map (fun i => w.testBit (15 - i))

/-- The preamble: 4 bytes of 0x55, or 8 of 0xEE in wide mode (Table 6-1), the least significant bit of each first
(assumption 61). -/
def radioPreamble (wide : Bool) : List Bool :=
  bodyBits (if wide then List.replicate 8 0xEE else List.replicate 4 0x55)

/-- The bits of a frame after its preamble. -/
def radioAir (sync ftype seq ackSeq : Nat) (ackValid : Bool) (body : Bytes) : List Bool :=
  syncBits sync ++ whitened (radioFrame ftype seq ackSeq ackValid body)

/-- A frame that the device sends, bit by bit (R166). -/
def RadioTx.bits (f : RadioTx) (wide : Bool) : List Bool :=
  radioPreamble wide ++ radioAir syncOut f.ftype f.seq f.ackSeq f.ackValid f.body

/-- A received frame as read from its bits. -/
structure RadioHeard where
  t : Nat
  rssi : Option Int
  crcOk : Bool
  ftype : Nat
  seq : Nat
  ackSeq : Nat
  ackValid : Bool
  body : Bytes

/-- Read a frame to the device (R166): nothing without its sync word; a CRC that is cut off or does not hold fails. -/
def hearFrame (rx : RadioRx) : Option RadioHeard :=
  if rx.air.take 16 != syncBits syncIn then none
  else
    let b := bitsBody (whiten (rx.air.drop 16))
    let w := leAt b 1 2
    let len := w % 2 ^ 11
    let ok := decide (len + 5 ≤ b.length) && crc16 (b.take (3 + len)) = leAt b (3 + len) 2
    some { t := rx.t, rssi := rx.rssi, crcOk := ok, ftype := leAt b 0 1 % 16, seq := leAt b 0 1 / 16,
           ackSeq := w / 2 ^ 11 % 16, ackValid := bit w 15, body := slice b 3 len }

/-- Airtime of a sensor-mode frame with an `n`-byte body, in µs (R165, R166). -/
def airtime (n : Nat) : Nat := (11 + n) * 80

/-- Airtime of a wide-mode frame, in µs: 8 bytes of preamble, sync, header and CRC (R165, R166). -/
def wideAirtime (n : Nat) : Nat := (15 + n) * 10

/-- Slots of a width code (R170). -/
def widthSlots (w : Nat) : Nat := 2 ^ w

/-- DOWN body limit of a width code (Table 6-4). -/
def downLimit (w : Nat) : Nat := [51, 151, 351].getD w 0

/-- UP body limit of a width code (Table 6-4). -/
def upLimit (w : Nat) : Nat := [48, 148, 348].getD w 0

/-- A slot is assignable: neither beacon nor access (R169). -/
def assignable (access slot : Nat) : Bool := decide (slot < 4096) && decide (access < slot % 256)

/-- The guard of an occurrence in µs (R174): local_ppm in 0.1 ppm, sensor_ppm in ppm, Δt in µs. -/
def guardUs (localPpm sensorPpm dt : Nat) : Nat := ceilDiv ((localPpm + 10 * sensorPpm) * dt) 10000000 + 200

end Sys2Proof.Machine
end

