-- ==== Sys2Proof/Machine/Radio.lean ====
section
/-!
DEFINITION. Radio ports in sensor mode: duty-cycle accounting, entries, beacons, matching, responses and SEARCH
(R168-R194).
-/
namespace Sys2Proof.Machine

/-! ### Duty-cycle accounting (R185-R188) -/

/-- The sub-band that holds a frequency range in kHz. -/
def State.bandOf (s : State) (low high : Nat) : Option Nat :=
  (List.range 16).find? (fun b => s.flag .RADIO_SB_LIMIT b 0 14 && decide (s.get .RADIO_SB_LOW b 0 ≤ low)
    && decide (high ≤ s.get .RADIO_SB_HIGH b 0))

/-- The sub-band of a sensor channel. -/
def State.bandOfChan (s : State) (n c : Nat) : Option Nat :=
  let lo := channelLow (s.get .RADIO_CFG0 n 0) c
  s.bandOf lo (lo + 200)

/-- The sub-band of a wide port's 1.6 MHz channel. -/
def State.bandOfWide (s : State) (n : Nat) : Option Nat :=
  let c := s.get .RADIO_CFG0 n 0
  s.bandOf (c - 800) (c + 800)

/-- may_send of R186, in µs: class 0 B, 1 S, 2 G. -/
def State.maySend (s : State) (b cls t : Nat) : Bool :=
  let e := 360000 * s.fld .RADIO_SB_LIMIT b 0 13 0
  let ub := s.dutyUsed b 0
  let us := s.dutyUsed b 1
  let rb := if cls = 0 then 0 else e / 5 - ub
  let rs := if cls = 1 then 0 else e / 20 - us
  decide (t + rb + rs + (ub + us + s.dutyUsed b 2) ≤ e)

/-- Add airtime to a second's usage. -/
def DutySec.add (d : DutySec) (cls t : Nat) : DutySec :=
  if cls = 0 then { d with b := d.b + t } else if cls = 1 then { d with s := d.s + t } else { d with g := d.g + t }

/-- Charge airtime to a sub-band at its start (R185). -/
def State.charge (s : State) (b cls t : Nat) : State :=
  let now := s.radio.dutySec
  s.modRadio (fun r => { r with duty := updAt r.duty b (fun d =>
    { d with secs := (match d.secs with
      | x :: rest => if x.sec = now then x.add cls t :: rest
          else (DutySec.add ⟨now, 0, 0, 0⟩ cls t) :: x :: rest.filter (fun y => decide (now < y.sec + 3600))
      | [] => [DutySec.add ⟨now, 0, 0, 0⟩ cls t]) }) })

/-- A frame leaves the port: it reaches the antenna at `t`, in ns, so its samples leave rf_delay µs earlier (R164, R172). -/
def State.transmit (s : State) (n t air : Nat) (f : Nat → Nat → RadioTx) : State :=
  let a := t - 1000 * s.fld .RADIO_CFG1 n 0 23 18
  let b := a + 1000 * air
  s.modPort n (fun p => { p with
    txNow := p.txNow ++ [f a b]
    bursts := (a, b) :: p.bursts.filter (fun x => decide (a ≤ x.2 + 1000000000)) })

/-- Send within the budget of a sub-band, or defer (R186). The Bool says that it was sent. -/
def State.dutySend (s : State) (n : Nat) (band : Option Nat) (cls t : Nat) : State × Bool :=
  match band with
  | none => (s, false)
  | some b =>
    if s.maySend b cls t then (s.charge b cls t, true)
    else ((s.count .RADIO_DEFER_CNT n 0 1).raise .RADIO_INT n 4, false)

/-- Preload a sub-band's account with 0.75 × E of class G (R188). -/
def State.preload (s : State) (b : Nat) : State :=
  let v := s.fld .RADIO_SB_LIMIT b 0 13 0 * 75
  let s := s.modRadio (fun r => { r with duty := updAt r.duty b (fun _ =>
    { valid := true, low := s.get .RADIO_SB_LOW b 0, high := s.get .RADIO_SB_HIGH b 0, secs := [],
      pre := some (r.dutySec, v) }) })
  (List.range 4).foldl (fun s n =>
    let here := if s.flag .RADIO_CFG1 n 0 0 then decide (s.bandOfWide n = some b)
      else (List.range 16).any (fun c => bit (s.get .RADIO_CFG2 n 0) c && s.bandOfChan n c = some b)
    if here then s.raise .RADIO_INT n 5 else s) s

/-- After the RADIO section is applied, accounts that are not valid or whose range changed are preloaded (R188). -/
def State.checkDuty (s : State) : State :=
  (List.range 16).foldl (fun s b =>
    match s.radio.duty[b]? with
    | some d =>
      if s.flag .RADIO_SB_LIMIT b 0 14 && (!d.valid || d.low != s.get .RADIO_SB_LOW b 0
          || d.high != s.get .RADIO_SB_HIGH b 0) then s.preload b else s
    | none => s) s

/-! ### Entries (R170, R184) -/

/-- The phases of two schedules agree modulo the shorter period (R170). -/
def Sched.meets (a b : Sched) : Bool := a.phase % 2 ^ min a.p b.p = b.phase % 2 ^ min a.p b.p

/-- Slot ranges on one channel overlap. -/
def overlaps (s1 w1 s2 w2 : Nat) : Bool := decide (s1 < s2 + widthSlots w2) && decide (s2 < s1 + widthSlots w1)

/-- A placement collides with an entry, its coming schedule included (R170, R183). -/
def RadioEntry.collides (e : RadioEntry) (chan slot : Nat) (c : Sched) : Bool :=
  e.chan = chan &&
    (e.sch :: e.newSch).any (fun x => overlaps e.slot x.width slot c.width && x.meets c)

/-- A placement is valid: width known, phase in range, every slot assignable (R184). -/
def State.placeOk (s : State) (n slot : Nat) (c : Sched) : Bool :=
  decide (c.width < 3) && decide (c.phase < 2 ^ c.p)
    && (List.range (widthSlots c.width)).all (fun k => assignable (s.fld .RADIO_CFG1 n 0 12 9) (slot + k))

/-- A new entry in state PENDING. -/
def RadioEntry.new (epx serial chan slot : Nat) (c : Sched) : RadioEntry :=
  { epx := epx, serial := serial, chan := chan, slot := slot, sch := c, newSch := [], schReady := none, state := 3,
    count := 0, matched := 0, counted := false, confirmCell := none, cells := [], down := none, acked := 0,
    markers := [] }

/-- Insert an entry by channel and first slot. -/
def insertEntry (e : RadioEntry) : List RadioEntry → List RadioEntry
  | [] => [e]
  | x :: xs => if (e.chan * 4096 + e.slot) * 128 + e.sch.phase ≤ (x.chan * 4096 + x.slot) * 128 + x.sch.phase then e :: x :: xs else x :: insertEntry e xs

/-- The slot table of the port takes one more entry: it holds up to 65,536 (R170), and a wide port has none in use (R193). -/
def State.tableRoom (s : State) (n : Nat) : Bool :=
  decide ((s.rport n).entries.length < 65536) && !s.flag .RADIO_CFG1 n 0 0

/-- Put a PENDING entry in the slot table and queue its ASSIGN (R184). -/
def State.addEntry (s : State) (n epx serial chan slot : Nat) (c : Sched) : State :=
  s.modPort n (fun p => { p with
    entries := insertEntry (RadioEntry.new epx serial chan slot c) p.entries
    assigns := p.assigns ++ [⟨epx, serial, slot, c, chan, 3⟩] })

/-- Change the entry of an EPX at a slot and channel. -/
def State.modEntry (s : State) (n epx chan slot : Nat) (f : RadioEntry → RadioEntry) : State :=
  s.modPort n (fun p => { p with entries := p.entries.map (fun e =>
    if e.epx = epx && e.chan = chan && e.slot = slot then f e else e) })

/-- The entry of an EPX at a slot and channel; a wide port's slot table is not used (R193). -/
def State.entry? (s : State) (n epx chan slot : Nat) : Option RadioEntry :=
  if s.flag .RADIO_CFG1 n 0 0 then none
  else (s.rport n).entries.find? (fun e => e.epx = epx && e.chan = chan && e.slot = slot)

/-- The schedule of a LINK_PARAM value (R182). -/
def Sched.ofParam (v : Nat) : Sched := ⟨bits v 15 12, bits v 23 20, bits v 31 24⟩

/-- Create the COMMAND manifest of a LINK_EVENT (R182): its payload is the message body, followed for SCHED by the
LINK_PARAM value. -/
def State.linkEvent (s : State) (n ev : Nat) (e : RadioEntry) (extra : Bytes) : State :=
  s.make kCommand (0xFE + ev * 256) e.epx 2 (n * 16 + e.chan) (some e.epx)
    (toLE 4 e.epx ++ toLE 1 ev ++ toLE 1 e.chan ++ toLE 2 e.slot ++ toLE 4 (s.superframeAt n s.time.ns).1 ++ extra)

/-- An envelope is dropped with its record (R171, R179). -/
def State.radioDrop (s : State) (n epx : Nat) : State := (s.count .RADIO_TX_DROP_CNT n 0 1).event 0x0802 n epx

/-- The oldest other envelope of an entry is gone: a schedule that it announces is not to come (R183). -/
def RadioEntry.dropCell (e : RadioEntry) : RadioEntry :=
  { e with
    cells := e.cells.drop 1
    newSch := match (e.cells.head?).bind (·.sched) with
      | some c => e.newSch.erase c
      | none => e.newSch }

/-- A committed envelope enters the entry's cells (R171, R179). -/
def State.radioQueue (s : State) (n epx chan slot : Nat) (env : Bytes) (sched : Option Sched) : State :=
  match s.entry? n epx chan slot with
  | none => s.count .RADIO_TX_DROP_CNT n 0 1
  | some e =>
    if downLimit e.sch.width < env.length then
      (s.modEntry n epx chan slot (fun e => { e with newSch := match sched with
        | some c => e.newSch.erase c
        | none => e.newSch })).radioDrop n epx
    else if e.cells.length < 2 then
      s.modEntry n epx chan slot (fun e => { e with cells := e.cells ++ [⟨env, sched⟩] })
    else
      (s.modEntry n epx chan slot (fun e => { e.dropCell with
        cells := e.cells.drop 1 ++ [⟨env, sched⟩]
        down := match e.down with
          | some d => if d.confirm then some d else none
          | none => none })).radioDrop n epx

/-- A committed RF-port transmit-queue item at a slot and channel (R179, R180, R184). The record of a replacement names both
EPXs: its detail is the displaced one, and its key holds the new one above the port number (assumption 61); an entry beyond the
table's 65,536 is not made. -/
def State.radioCommit (s : State) (n slot chan : Nat) (it : LinkItem) : State :=
  match it with
  | .create epx serial =>
    let c : Sched := ⟨0, 0, 0⟩
    let hit := (s.rport n).entries.filter (fun e => e.collides chan slot c)
    let s := hit.foldl (fun s e => s.event 0x0803 (n + epx * 4) e.epx) s
    let s := s.modPort n (fun p => { p with entries := p.entries.filter (fun e => !e.collides chan slot c) })
    if s.tableRoom n then s.addEntry n epx serial chan slot c else s
  | .remove epx =>
    s.modPort n (fun p => { p with
      entries := p.entries.filter (fun e => !(e.epx = epx && e.chan = chan && e.slot = slot))
      assigns := p.assigns.filter (fun a => !(a.epx = epx && a.chan = chan && a.slot = slot)) })
  | .confirm epx env =>
    match s.entry? n epx chan slot with
    | none => s.count .RADIO_TX_DROP_CNT n 0 1
    | some e =>
      if downLimit e.sch.width < env.length then s.radioDrop n epx
      else s.modEntry n epx chan slot (fun e => { e with
        confirmCell := some env
        down := match e.down with
          | some d => if d.confirm then none else some d
          | none => none })
  | .command epx env => s.radioQueue n epx chan slot env none
  | .sched epx env v => s.radioQueue n epx chan slot env (some (Sched.ofParam v))
  | .marker epx w => if s.flag .RADIO_CFG1 n 0 0 then s else s.modEntry n epx chan slot (fun e => { e with markers := e.markers ++ [w] })
  | .fwBlock _ => s
  | .craftOrder _ _ _ => s

/-- When a port's function reaches OFF its queued envelopes are dropped without Logbook records (R191). The superframes of a
wide port go on, silent, so that their skips count (R189, Table 9-9). -/
def State.radioOff (s : State) (n : Nat) : State :=
  let c := ((s.rport n).entries.map (fun e => e.cells.length + b2n e.confirmCell.isSome)).sum
  let wide := s.flag .RADIO_CFG1 n 0 0
  (s.count .RADIO_TX_DROP_CNT n 0 c).modPort n (fun p => { p with
    running := p.running && wide, resp := [], acks := []
    entries := p.entries.map (fun e => { e with cells := [], confirmCell := none, down := none }) })

/-! ### Superframes and beacons (R168-R173, R189) -/

/-- A superframe boundary: the port starts when its conditions hold, or continues (R21, R168). -/
def execRadioSuperframeStart (port : Nat) (s : State) : Host.Outcome State Fault Refusal :=
  if decide (4 ≤ port) || s.flag .RADIO_CFG1 port 0 0 then .next s
  else
    let n := (s.superframeAt port s.time.ns).1
    if (s.rport port).running then .next (s.set .RADIO_SUPERFRAME port 0 n)
    else if s.loader = 6 && s.fnRunning (9 + port) && decide (s.quality ≤ 6) && s.txAllowed && !s.pwrfail then
      .next (((s.modPort port (fun p => { p with running := true, skips := 0, firstSf := n, acks := [] })).set
        .RADIO_SUPERFRAME port 0 n).raise .RADIO_INT port 6)
    else .next s

/-- The entry bytes 48-63 of a beacon (Table 6-5). -/
def beaconEntry (kind epx slot chan serial : Nat) (c : Sched) : Bytes :=
  toLE 1 kind ++ toLE 3 epx ++ toLE 2 (slot + c.width * 2 ^ 12) ++ toLE 1 (chan + c.p * 2 ^ 4) ++ toLE 1 c.phase
    ++ toLE 8 serial

/-- The next CALL of a channel, round robin in ascending first slot, and of one first slot in ascending phase (R173). -/
def RadioPort.nextCall (p : RadioPort) (c : Nat) : Option RadioEntry :=
  let es := p.entries.filter (fun e => e.chan = c && e.state = 2)
  match es.find? (fun e => decide (Map.getD p.callPtr c 0 ≤ e.slot * 128 + e.sch.phase)) with
  | some e => some e
  | none => es.head?

/-- The group-acknowledgement bitmap of group `k` on a channel (R178). -/
def RadioPort.bitmap (p : RadioPort) (c k : Nat) : Bytes :=
  let base := 256 * ((k + 15) % 16)
  toLE 32 (((List.range 256).map (fun i => if p.acks.contains (c * 4096 + base + i) then 2 ^ i else 0)).sum)

/-- The start of a slot of a superframe of port `n`, in ns (R169). -/
def State.slotStart (s : State) (n sf slot : Nat) : Nat :=
  ((s.rport n).anchor + ((32768000000 * sf + 8000000 * slot : Nat) : Int)).toNat

/-- A beacon body (Table 6-5). -/
def State.beaconBody (s : State) (n c k : Nat) (entry : Option Bytes) (lastgasp : Bool) : Bytes :=
  let sf := (s.superframeAt n s.time.ns).1
  let t := s.slotStart n sf (k * 256)
  toLE 4 sf ++ toLE 1 k
    ++ toLE 1 (b2n entry.isSome + b2n (decide (4 ≤ s.quality)) * 2 + b2n lastgasp * 4)
    ++ toLE 1 (s.fld .RADIO_CFG1 n 0 12 9) ++ toLE 1 (min 255 s.localPpm) ++ toLE 4 (t / 1000000000)
    ++ toLE 2 (t % 1000000000 / 1000000) ++ zeros 2 ++ (s.rport n).bitmap c k ++ entry.getD []

/-- The enabled channels of a port. -/
def State.channels (s : State) (n : Nat) : List Nat := (List.range 16).filter (fun c => bit (s.get .RADIO_CFG2 n 0) c)

/-- A beacon body that leaves on a channel at `t`, if its duty allows; the entry it called is passed. -/
def State.beaconSend (s : State) (n c t : Nat) (body : Bytes) (call : Option RadioEntry) : State × Bool :=
  let air := airtime body.length
  let r := s.dutySend n (s.bandOfChan n c) 0 air
  if r.2 then
    ((r.1.transmit n t air (fun a b => ⟨a, b, c, 4, 0, 0, false, body⟩)).modPort n (fun p => { p with
      callPtr := match call with
        | some e => Map.put p.callPtr c (e.slot * 128 + e.sch.phase + 1)
        | none => p.callPtr }), true)
  else (r.1, false)

/-- Send the beacon of one channel, if duty-cycle accounting allows it. The Bool says that it went out. -/
def State.beaconOn (s : State) (n c k : Nat) (assign : Option Assign) (lastgasp : Bool) : State × Bool :=
  let call := if assign.isSome || lastgasp then none else (s.rport n).nextCall c
  let entry := match assign, call with
    | some a, _ => some (beaconEntry 2 a.epx a.slot a.chan a.serial a.sch)
    | none, some e => some (beaconEntry 1 e.epx e.slot e.chan 0 e.sch)
    | none, none => none
  let t := if lastgasp then s.time.ns else s.slotStart n (s.superframeAt n s.time.ns).1 (k * 256) + 500000
  s.beaconSend n c t (s.beaconBody n c k entry lastgasp) call

/-- A beacon transmission is skipped, or all of it went out (R189). -/
def State.noteBeacon (s : State) (n : Nat) (sent counts : Bool) : State :=
  if sent then (s.modPort n (fun p => { p with skips := 0 })).setFlag .RADIO_PORT_STATUS n 0 3 false
  else if !counts then s
  else
    let k := (s.rport n).skips + 1
    let s := (s.count .RADIO_BEACON_SKIP_CNT n 0 1).modPort n (fun p => { p with skips := k })
    if k = 3 then
      ((s.setFlag .RADIO_PORT_STATUS n 0 3 true).raise .RADIO_INT n 0).event 0x0801 n k
    else s

/-- The beacons of one group on every enabled channel; the Bool says that all went out. -/
def State.beaconGroup (s : State) (n k : Nat) (lastgasp : Bool) : State × Bool :=
  let assign := if lastgasp then none else (s.rport n).assigns.head?
  let s := s.modPort n (fun p => { p with txNow := [] })
  (s.channels n).foldl (fun r c =>
    let x := r.1.beaconOn n c k assign lastgasp
    (x.1, r.2 && x.2)) (s, true)

/-- A beacon slot of group `group` (R172, R173, R178, R189): beacons are sent while the function runs and transmission
is permitted, and the bitmap of the group before is spent. -/
def execRadioBeaconSlot (port group : Nat) (s : State) : Host.Outcome State Fault Refusal :=
  if decide (4 ≤ port) || decide (16 ≤ group) || !(s.rport port).running || s.flag .RADIO_CFG1 port 0 0 || s.pwrfail then
    .next s
  else
    let live := s.fnRunning (9 + port)
    let r := if live && s.txAllowed then s.beaconGroup port group false else (s, false)
    let s := r.1.noteBeacon port r.2 (live && decide ((s.superframeAt port s.time.ns).1 ≠ (s.rport port).firstSf))
    .next (s.modPort port (fun p => { p with
      acks := p.acks.filter (fun a => a % 4096 / 256 != (group + 15) % 16)
      assigns := if live then (match p.assigns with
        | a :: rest => if a.left ≤ 1 then rest else { a with left := a.left - 1 } :: rest
        | [] => []) else p.assigns }))

/-! ### Uplinks (R174-R182, R194) -/

/-- A new seq of the port: 1-15 (Table 6-2). -/
def radioSeqUp (q : Nat) : Nat := if q = 15 then 1 else q + 1

/-- The entry that an UP or POLL with a link_tag matches, with δ, the guard and the superframe (R174, R175). -/
def State.matchEntry (s : State) (n c tag t : Nat) : Option (RadioEntry × Int × Nat × Nat) :=
  let sf := s.superframeAt n t
  let g : RadioEntry → Nat := fun e =>
    guardUs (s.ppmAt (s.slotStart n sf.1 e.slot)) (s.fld .RADIO_CFG1 n 0 8 2) ((e.slot % 256) * 8000)
  ((s.rport n).entries.find? (fun e =>
    e.chan = c && e.epx = tag && sf.1 % 2 ^ e.sch.p = e.sch.phase
      && decide (((sf.2 : Int) - (e.slot * 8000 + 500 : Nat)).natAbs ≤ 4 * g e))).map
    (fun e => (e, (sf.2 : Int) - (e.slot * 8000 + 500 : Nat), g e, sf.1))

/-- Deliver the DOWN that a matched frame acknowledges (R179, R183). -/
def RadioEntry.deliver (e : RadioEntry) (ackSeq : Nat) (ackValid : Bool) : RadioEntry :=
  match e.down with
  | none => e
  | some d =>
    if ackValid && d.seq = ackSeq then
      if d.confirm then { e with confirmCell := none, down := none, acked := 0 }
      else
        { e with cells := e.cells.drop 1, confirmCell := none, down := none, acked := 0,
                 schReady := match (e.cells.head?).bind (·.sched) with
                   | some c => some c
                   | none => e.schReady }
    else e

/-- Create the ISSUE manifest an occurrence calls for (R180); a chip in worker role creates none (R359). -/
def State.radioIssue (s : State) (n sf : Nat) (e : RadioEntry) : State :=
  if s.workerRole then s
  else if 8 ≤ e.acked || e.markers.any (windowClosed sf) then
    (s.modEntry n e.epx e.chan e.slot (fun e => { e with
      acked := if 8 ≤ e.acked then 0 else e.acked
      markers := e.markers.filter (fun w => !windowClosed sf w) })).make kCommand 0xFF e.epx 2 (n * 16 + e.chan)
      (some e.epx) []
  else s

/-- Create the SEND manifest of an occurrence whose cells hold no envelope but CONFIRM, for an endpoint that is the target
of a job (R405, R406). -/
def State.fwOffer (s : State) (cls idx epx : Nat) (free : Bool) : State :=
  if free && s.fnRunning 0x16 && !s.workerRole && Map.has s.upd.targets epx
      && !s.allManifests.any (fun m => m.kind = kFwPush && m.kindArg % 16 = 4 && m.epxValid && m.epx = epx) then
    s.make kFwPush 4 epx cls idx (some epx) []
  else s

/-- At its first occurrence after the DOWN with LINK_PARAM was delivered, an entry takes its new schedule (R183); changes announced
before it are past. -/
def RadioEntry.applySched (e : RadioEntry) : RadioEntry :=
  match e.schReady with
  | some c => { e with sch := c, newSch := (e.newSch.dropWhile (· ≠ c)).drop 1, schReady := none }
  | none => e

/-- The port applies a delivered schedule, and the slot table keeps its order of slots and phases (R173, R183). -/
def State.applySched (s : State) (n epx chan slot : Nat) : State :=
  match s.entry? n epx chan slot with
  | none => s
  | some e =>
    s.modPort n (fun p => { p with entries := insertEntry e.applySched (p.entries.filter (fun x => decide (x ≠ e))) })

/-- The link_quality of a match (R194). -/
def linkQuality (rssi : Option Int) (offset : Int) (delta : Int) : Nat :=
  (match rssi with
   | some v => (max 1 (min 255 (v + offset + 200))).toNat
   | none => 0) + min 255 (delta.natAbs / 8) * 256

/-- A matched UP or POLL: state, delivery, packet, response (R175, R177, R181). -/
def State.radioMatched (s : State) (n : Nat) (rx : RadioHeard) (e : RadioEntry) (delta : Int) (g sf : Nat) : State :=
  let rescued := decide (g < delta.natAbs)
  let s := if rescued then s.count .RADIO_RESCUED_CNT n 0 1 else s
  let resumed := e.state != 1
  let s := if e.schReady.isSome then s.applySched n e.epx e.chan e.slot else s
  let s := s.modEntry n e.epx e.chan e.slot (fun e =>
    { (e.deliver rx.ackSeq rx.ackValid) with
      state := 1, count := 0, matched := sf + 1, counted := if e.matched = sf + 1 then e.counted else false })
  let s := if resumed then s.linkEvent n 3 e [] else s
  let s := s.radioIssue n sf ((s.entry? n e.epx e.chan e.slot).getD e)
  let s := s.fwOffer 2 (n * 16 + e.chan) e.epx ((s.entry? n e.epx e.chan e.slot).getD e).cells.isEmpty
  let isUp := rx.ftype = 0
  let off := toSigned 8 (s.fld .RADIO_CFG1 n 0 31 24)
  let a : Arrival := ⟨2, n * 16 + e.chan, e.slot, rx.t % 1000000000, rx.t / 1000000000, s.quality,
    linkQuality rx.rssi off delta⟩
  let s := if isUp then (s.arrive (8 + 2 * n + (if envType rx.body = 0 then 0 else 1)) rx.body a).1
    else
      let k := e.chan * 4096 + e.slot
      s.modPort n (fun p => { p with acks := if p.acks.contains k then p.acks else k :: p.acks })
  let start := s.slotStart n sf e.slot
  let d : RespDue :=
    { epx := e.epx, slot := e.slot, tEnd := rx.t + airtime rx.body.length * 1000,
      limit := start + widthSlots e.sch.width * 8000000, seq := rx.seq, rescued := rescued,
      ackReq := isUp && bit (leAt rx.body 1 1) 0, etype := if isUp then envType rx.body else 16, offset := delta }
  s.modPort n (fun p => { p with resp := Map.put p.resp e.chan d })

/-- A frame's length fits its type, which is not reserved (R167, Table 6-3). -/
def sensorFormed (rx : RadioHeard) : Bool :=
  let n := rx.body.length
  match rx.ftype with
  | 0 => decide (5 ≤ n)
  | 1 => n = 3
  | 2 => n = 6
  | 3 => decide (5 ≤ n)
  | 4 => n = 48 || n = 64
  | _ => false

/-- The port receives a frame: reception with rx_blank is discarded while RFP_n_TX_EN is asserted, as is a frame without the
sync word of frames to the device (R164, R166); CRC failures and good frames count (R167). None when it goes no further. -/
def State.radioHear (s : State) (n : Nat) (rx : RadioRx) : State × Option RadioHeard :=
  match hearFrame rx with
  | none => (s, none)
  | some h =>
    let air := 1000 * (if s.flag .RADIO_CFG1 n 0 0 then wideAirtime h.body.length else airtime h.body.length)
    if s.flag .RADIO_CFG1 n 0 1 && s.radioTxen n h.t (h.t + air) then (s, none)
    else if !h.crcOk then (s.count .RADIO_RX_CRC_FAIL_CNT n 0 1, none)
    else (s.count .RADIO_RX_OK_CNT n 0 1, some h)

/-- A good frame that R175 drops. -/
def State.unslotted (s : State) (n : Nat) : State := s.count .RADIO_UNSLOTTED_CNT n 0 1

/-- An INSTALL in an access slot is handed on, and an ACK it asks for is due (R175, R177). -/
def State.radioInstall (s : State) (n c slot : Nat) (rx : RadioHeard) : State :=
  let off := toSigned 8 (s.fld .RADIO_CFG1 n 0 31 24)
  let s := (s.arrive (9 + 2 * n) rx.body ⟨2, n * 16 + c, 0xFFF, rx.t % 1000000000, rx.t / 1000000000, s.quality,
    linkQuality rx.rssi off 0⟩).1
  let start := s.slotStart n (s.superframeAt n rx.t).1 slot
  let d : RespDue :=
    { epx := 0xFFFFFF, slot := slot, tEnd := rx.t + airtime rx.body.length * 1000, limit := start + 8000000,
      seq := rx.seq, rescued := false, ackReq := bit (leAt rx.body 1 1) 0, etype := 2, offset := 0 }
  s.modPort n (fun p => { p with resp := Map.put p.resp c d })

/-- A received sensor frame (R167, R175, R191): one that matches, an INSTALL in an access slot, or a frame that counts in
UNSLOTTED_CNT; in a drain nothing matches. -/
def execRadioFrameReceived (port chan : Nat) (rx : RadioRx) (s : State) : Host.Outcome State Fault Refusal :=
  if decide (4 ≤ port) || s.flag .RADIO_CFG1 port 0 0 || !bit (s.get .RADIO_CFG2 port 0) chan || decide (16 ≤ chan)
      || !(s.rport port).running then .next s
  else
    match s.radioHear port rx with
    | (s, none) => .next s
    | (s, some rx) =>
      if !sensorFormed rx then .next s
      else if !s.fnRunning (9 + port) || decide (2 ≤ rx.ftype) then .next (s.unslotted port)
      else
        let slot := (s.superframeAt port rx.t).2 / 8000
        let access := decide (1 ≤ slot % 256) && decide (slot % 256 ≤ s.fld .RADIO_CFG1 port 0 12 9)
        if access then
          .next (if rx.ftype = 0 && envType rx.body = 2 then s.radioInstall port chan slot rx else s.unslotted port)
        else
          match s.matchEntry port chan (if rx.ftype = 0 then envTag rx.body else leAt rx.body 0 3) rx.t with
          | none => .next (s.unslotted port)
          | some (e, delta, g, sf) => .next (s.radioMatched port rx e delta g sf)

/-- The oldest envelope queued for an entry, and whether it is the CONFIRM (R179). -/
def RadioEntry.oldest (e : RadioEntry) : Option (Bytes × Bool) :=
  match e.cells with
  | c :: _ => some (c.env, false)
  | [] => e.confirmCell.map (fun b => (b, true))

/-- Drop the envelope that three sends have not delivered, when it is due again (R179). -/
def State.radioGiveUp (s : State) (n : Nat) (e : RadioEntry) : State :=
  match e.down with
  | some d =>
    if d.sends < 3 then s
    else
      ((s.modEntry n e.epx e.chan e.slot (fun e =>
        if d.confirm then { e with confirmCell := none, down := none }
        else { e.dropCell with down := none })).radioDrop n e.epx).raise .RADIO_INT n 3
  | none => s

/-- An ACK body (Table 6-3). -/
def ackBody (tag : Nat) (pending rescued : Bool) (offset : Int) : Bytes :=
  toLE 3 tag ++ toLE 1 (b2n pending + b2n rescued * 2) ++ toLE 2 (ofSigned 16 (max (-32767) (min 32767 offset)))

/-- Send one frame from a port as a response at `t`: charged, recorded, or deferred. The Bool says that it was sent. -/
def State.radioSend (s : State) (n cls t c : Nat) (f : Nat → Nat → RadioTx) : State × Bool :=
  let air := airtime (f 0 0).body.length
  let r := s.dutySend n (s.bandOfChan n c) cls air
  if r.2 then ((r.1.modPort n (fun p => { p with txNow := [] })).transmit n t air f, true) else r

/-- A DATA frame of this occurrence is acknowledged, by ACK or by bitmap: it counts once (R180). -/
def RadioEntry.countAcked (e : RadioEntry) : RadioEntry :=
  if e.counted then e else { e with acked := e.acked + 1, counted := true }

/-- Send an ACK (R177, Table 6-3). -/
def State.sendAck (s : State) (n c cls : Nat) (d : RespDue) (pending : Bool) : State :=
  let r := s.radioSend n cls (d.tEnd + 1000000) c
    (fun a b => ⟨a, b, c, 2, (s.rport n).seq, d.seq, true, ackBody d.epx pending d.rescued d.offset⟩)
  if r.2 then
    let s := (r.1.count .RADIO_ACK_CNT n 0 1).modPort n (fun p => { p with seq := radioSeqUp p.seq })
    if d.etype = 0 then s.modEntry n d.epx c d.slot RadioEntry.countAcked else s
  else r.1

/-- The response to the matched uplink of a channel (R177): DOWN, ACK or nothing. -/
def State.respond (s : State) (n c : Nat) (d : RespDue) : State :=
  let fits : Nat → Bool := fun len => decide (d.tEnd + 1000000 + airtime len * 1000 ≤ d.limit)
  let isData := d.etype = 0
  let held := isData && s.bpActive 2 n
  let cls := if d.etype = 3 then 1 else 2
  let s := match s.entry? n d.epx c d.slot with
    | some e => s.radioGiveUp n e
    | none => s
  let e := s.entry? n d.epx c d.slot
  let q := match e with
    | some e => e.oldest
    | none => none
  match q, e with
  | some (env, conf), some e =>
    if fits env.length then
      let again := match e.down with
        | some x => x.confirm == conf
        | none => false
      let seq := if again then (e.down.map (·.seq)).getD 0 else (s.rport n).seq
      let r := s.radioSend n cls (d.tEnd + 1000000) c (fun a b => ⟨a, b, c, 3, seq, if held then 0 else d.seq, !held, env⟩)
      if r.2 then
        let s := (r.1.count .RADIO_DOWN_CNT n 0 1).modEntry n d.epx c d.slot (fun e => { e with
          down := some ⟨seq, (if again then (e.down.map (·.sends)).getD 0 else 0) + 1, conf⟩ })
        if again then s else s.modPort n (fun p => { p with seq := radioSeqUp p.seq })
      else r.1
    else if held || !fits 6 then s
    else s.sendAck n c cls d true
  | _, _ =>
    if held || !(d.ackReq || d.rescued) || !fits 6 then s
    else s.sendAck n c cls d false

/-- 1,000 µs after a matched uplink the port responds (R177, R190, R191). -/
def execRadioResponse (port chan : Nat) (s : State) : Host.Outcome State Fault Refusal :=
  match Map.get? (s.rport port).resp chan with
  | none => .next s
  | some d =>
    let s := s.modPort port (fun p => { p with resp := Map.del p.resp chan })
    if s.fnRunning (9 + port) && s.txAllowed && !s.pwrfail then .next (s.respond port chan d) else .next s

/-- An occurrence ends with no matched frame (R181, R191). -/
def execRadioOccurrenceMissed (port chan slot phase : Nat) (s : State) : Host.Outcome State Fault Refusal :=
  let sf := s.get .RADIO_SUPERFRAME port 0
  match (s.rport port).entries.find? (fun e => e.chan = chan && e.slot = slot && e.sch.phase = phase) with
  | none => .next s
  | some e =>
    if decide (4 ≤ port) || s.flag .RADIO_CFG1 port 0 0 || !(s.rport port).running || !s.fnRunning (9 + port)
        || e.matched = sf + 1 then .next s
    else
      let s := s.count .RADIO_MISSED_CNT port 0 1
      let s := if e.schReady.isSome then s.applySched port e.epx chan slot else s
      let s := s.radioIssue port sf e
      if e.state = 1 then
        if e.count = 0 then .next (s.modEntry port e.epx chan slot (fun x => { x with count := 1 }))
        else
          .next (((s.modEntry port e.epx chan slot (fun x => { x with state := 2, count := 0 })).raise
            .RADIO_INT port 1).linkEvent port 1 e [])
      else if e.state = 2 then
        if e.count < 2 then .next (s.modEntry port e.epx chan slot (fun x => { x with count := x.count + 1 }))
        else
          .next (((s.radioCommit port slot chan (.remove e.epx)).raise .RADIO_INT port 2).linkEvent port 2 e [])
      else .next s

/-! ### ENTRY_CMD (Table 6-12) -/

/-- The schedule an ENTRY_CMD write names. -/
def schedOf (v : Nat) : Sched := ⟨bits v 20 19, bits v 18 16, bits v 27 21⟩

/-- ENTRY_STATUS with a result and an entry. -/
def State.setEntryStatus (s : State) (n result : Nat) (e : Option RadioEntry) : State :=
  s.set .RADIO_ENTRY_STATUS n 0 (2 + result * 4 + (match e with
    | some e => e.state * 2 ^ 4 + e.count % 4 * 2 ^ 6 + e.epx % 2 ^ 22 * 2 ^ 10
    | none => 0))

/-- An ENTRY_CMD write with go set and an op (Table 6-12). -/
def entryOp (port : Nat) (val : Word) (op : Nat) : Bool :=
  decide (port < 4) && bit val.toNat 31 && bits val.toNat 29 28 = op

/-- READ: the entry that covers a slot and channel at an occurrence phase (Table 6-12). -/
def execRadioEntryRead (port : Nat) (val : Word) (s : State) : Host.Outcome State Fault Refusal :=
  if s.hostHeld then .next s else
  if entryOp port val 0 then
    let v := val.toNat
    let slot := bits v 11 0
    .next (s.setEntryStatus port 0 ((s.rport port).entries.find? (fun e =>
      e.chan = bits v 15 12 && decide (e.slot ≤ slot) && decide (slot < e.slot + widthSlots e.sch.width)
        && bits v 27 21 % 2 ^ e.sch.p = e.sch.phase)))
  else .next s

/-- PLACE (R184); a table with no room answers INVALID (assumption 61). -/
def State.entryPlace (s : State) (port : Nat) (val : Word) : State :=
  if entryOp port val 1 then
    let v := val.toNat
    let slot := bits v 11 0
    let chan := bits v 15 12
    let c := schedOf v
    let epx := s.fld .RADIO_ENTRY_EPX port 0 21 0
    if !s.placeOk port slot c || !s.tableRoom port then (s.setEntryStatus port 2 none)
    else
      match (s.rport port).entries.find? (fun e => e.collides chan slot c) with
      | some e => (s.setEntryStatus port 1 (some e))
      | none =>
        let e := RadioEntry.new epx (s.record epx).serial chan slot c
        let s := s.addEntry port epx (s.record epx).serial chan slot c
        ((s.linkEvent port 4 e []).setEntryStatus port 0 (some e))
  else s

/-- SCHED: the new schedule is announced by LINK_PARAM and takes effect under R183 (R184). -/
def execRadioEntrySched (port : Nat) (val : Word) (s : State) : Host.Outcome State Fault Refusal :=
  if s.hostHeld then .next s else
  if entryOp port val 2 then
    let v := val.toNat
    let slot := bits v 11 0
    let chan := bits v 15 12
    let c := schedOf v
    match (if s.flag .RADIO_CFG1 port 0 0 then none
        else (s.rport port).entries.find? (fun e => e.chan = chan && e.slot = slot)) with
    | none => .next (s.setEntryStatus port 3 none)
    | some e =>
      if !s.placeOk port slot c then .next (s.setEntryStatus port 2 (some e))
      else
        match (s.rport port).entries.find? (fun x =>
          !(x.epx = e.epx && x.slot = e.slot && x.sch = e.sch) && x.collides chan slot c) with
        | some x => .next (s.setEntryStatus port 1 (some x))
        | none =>
          let s := s.modEntry port e.epx chan slot (fun x => { x with newSch := x.newSch ++ [c] })
          let extra := toLE 2 (slot + c.width * 2 ^ 12) ++ toLE 1 (chan + c.p * 2 ^ 4) ++ toLE 1 c.phase
          .next ((s.linkEvent port 5 e extra).setEntryStatus port 0 (some e))
  else .next s

end Sys2Proof.Machine
end

