-- ==== Sys2Proof/Machine/FwPush.lean ====
section
/-!
DEFINITION. Endpoint firmware push: jobs, targets and the FW_PUSH manifests (R400-R406), and the argument cells that
jobs, targets and pending commands share (R112, R119).
-/
namespace Sys2Proof.Machine

/-! ### Results and argument cells -/

/-- A staged result (R116). -/
def resultFx (id epx res : Nat) : Effect := .hostMsg (resultBody id epx res 0)

/-- Cells of the argument area (R119, Table 4-11). -/
def State.argCells (s : State) : Nat := 16384 * s.itemLE 0x90 5 4 2 64

/-- Cells an argument takes. -/
def argSpan (p : Pend) : Nat := ceilDiv p.arg.length 64

/-- The argument cells in use as first and count: committed entries, targets and job images, and cells staged and not yet
released. -/
def State.argUsed (s : State) : List (Nat × Nat) :=
  let ofRec : EpRec → List (Nat × Nat) := fun r => r.pend.filterMap (fun p =>
    match p with
    | some e => if e.argCell = 0xFFFFFFFF then none else some (e.argCell, argSpan e)
    | none => none)
  s.ep.recs.flatMap (fun e => ofRec e.2)
    ++ s.upd.targets.map (fun e => (e.2.cell, 1))
    ++ (s.upd.jobs.filter (fun j => j.state != 0)).map (fun j => (j.cell, ceilDiv j.image.length 64))
    ++ s.hm.slots.flatMap (fun e => e.2.stage.flatMap (fun x =>
      match x with
      | .row (.ep _ r) => ofRec r
      | .row (.target _ (some t)) => [(t.cell, 1)]
      | _ => []))

/-- The first run of `n` free cells, tried at 0 and after each used run. -/
def firstFit (total n : Nat) (used : List (Nat × Nat)) : Option Nat :=
  let cands := 0 :: used.map (fun u => u.1 + u.2)
  let fits := cands.filter (fun c => decide (c + n ≤ total)
    && used.all (fun u => decide (u.1 + u.2 ≤ c) || decide (c + n ≤ u.1)))
  match fits with
  | [] => none
  | f :: fs => some (fs.foldl min f)

/-! ### Jobs (R400, R406) -/

/-- A job by number; FREE when there is none. -/
def State.job (s : State) (j : Nat) : FwJob := s.upd.jobs.getD j FwJob.free

/-- Change a job and report its new state (Table 15-12, Table 15-13). -/
def State.setJob (s : State) (j : Nat) (x : FwJob) : State :=
  ((s.modUpd (fun u => { u with jobs := updAt u.jobs j (fun _ => x) })).raise .UPD_INT 0 5).event 0x1406 j x.state

/-- Blocks of a job's image. -/
def FwJob.blocks (j : FwJob) : Nat := if j.blockSize = 0 then 0 else ceilDiv j.image.length j.blockSize

/-- The data of a block. -/
def FwJob.block (j : FwJob) (b : Nat) : Bytes := slice j.image (b * j.blockSize) j.blockSize

/-- UPD.JOB_CMD CREATE: the image found in host memory is copied into argument cells; without them RESOURCE, which UPD.CMD_STATUS shows
(R400; assumption 69). -/
def execJobCreate (val : Word) (image : Bytes) (s : State) : Host.Outcome State Fault Refusal :=
  if s.hostHeld then .next s else
  let v := val.toNat
  let j := bits v 2 0
  let n := bits v 25 5
  let cfg := s.get .UPD_JOB_CFG 0 0
  if bits v 4 3 != 1 || s.flag .UPD_STATUS 0 0 5 then .next s
  else
    let ok := (s.job j).state = 0 && decide (64 ≤ n) && decide (n ≤ 1048576) && decide (32 ≤ bits cfg 10 0)
      && decide (bits cfg 10 0 ≤ 1024) && decide (1 ≤ bits cfg 23 18) && decide (1 ≤ bits cfg 31 24)
    if !ok then .next (s.raise .UPD_INT 0 4)
    else
      match firstFit s.argCells (ceilDiv n 64) s.argUsed with
      | none => .next ((s.set .UPD_CMD_STATUS 0 0 (1 + 12 * 2)).raise .UPD_INT 0 4)
      | some c =>
        let ver := s.fresh
        let data := fit n image
        .next ((ver.2.setFlag .UPD_STATUS 0 0 5 true).setJob j
          { state := 1, image := data, digest := Config.sha384 data, version := ver.1, cell := c,
            blockSize := bits cfg 10 0, minBattery := bits cfg 17 11, perCycle := bits cfg 23 18,
            stall := bits cfg 31 24, activate := s.get .UPD_JOB_ACT 0 0 })

/-- The image copy and its digest finish (R400). -/
def execJobReady (s : State) : Host.Outcome State Fault Refusal :=
  match findIdx? (fun j => j.state = 1) s.upd.jobs with
  | some j => .next ((s.setFlag .UPD_STATUS 0 0 5 false).setJob j { s.job j with state := 2 })
  | none => .next s

/-- A SET manifest that ends a target with a result code (R404, R406). -/
def State.makeSet (s : State) (epx j res : Nat) : State :=
  s.make kFwPush (5 + j * 16) epx 5 kFwPush (some epx) (toLE 1 res)

/-- UPD.JOB_CMD CANCEL: the job's targets end through SET manifests, and a job without targets is freed (R406). -/
def execJobCancel (val : Word) (s : State) : Host.Outcome State Fault Refusal :=
  if s.hostHeld then .next s else
  let v := val.toNat
  let j := bits v 2 0
  if bits v 4 3 != 2 || s.flag .UPD_STATUS 0 0 5 || (s.job j).state = 0 then .next s
  else
    let ts := s.upd.targets.filter (fun e => e.2.job = j)
    if ts.isEmpty then .next (s.setJob j FwJob.free)
    else
      let s := if (s.job j).state = 3 then s else s.setJob j { s.job j with state := 3 }
      .next (ts.foldl (fun s e => s.makeSet e.1 j 6) s)

/-- A target row is written back: a job being cancelled is freed with its last target (R406). -/
def State.commitTarget (s : State) (epx : Nat) (t : Option FwTarget) : State :=
  let old := Map.get? s.upd.targets epx
  let s := s.modUpd (fun u => { u with targets := match t with
    | some x => Map.put u.targets epx x
    | none => Map.del u.targets epx })
  match t, old with
  | none, some o =>
    if (s.job o.job).state = 3 && !s.upd.targets.any (fun e => e.2.job = o.job) then s.setJob o.job FwJob.free else s
  | _, _ => s

/-! ### Targets (R403, R404) -/

/-- The effects that end a target with a result code other than ACTIVATED's. -/
def endFx (epx job res : Nat) : List Effect :=
  [.row (.target epx none), resultFx job epx res, countFx .UPD_REFUSED_CNT]

/-- The effects that end the firmware-push target of a deprovisioned endpoint (R404). -/
def State.endTarget (s : State) (epx : Nat) : List Effect :=
  match Map.get? s.upd.targets epx with
  | some t => endFx epx t.job 6
  | none => []

/-- The battery condition of Table 15-11. -/
def batteryBad (r : EpRec) (j : FwJob) : Bool :=
  r.battery && (r.lowBattery || decide (r.batteryLevel < j.minBattery))

/-- A FW_PUSH manifest of one set of kind_arg [3:0], over the record it names and its target; a set that no row names is
REJECTED by any row. -/
def State.onPush (s : State) (n set : Nat) (f : State → Manifest → EpRec → State × Nat × List Effect) :
    Host.Outcome State Fault Refusal :=
  match s.running n kFwPush with
  | none => .next s
  | some m =>
    if m.kindArg % 16 = 0 || 6 ≤ m.kindArg % 16 then .next (s.complete n stRejected [] [])
    else if m.kindArg % 16 != set then .next s
    else if !m.epxValid then .next (s.complete n stRejected [] [])
    else .next (s.withRecs n m.epx [.target m.epx] (fun s r => f s m r))

/-- fw_tag of an FW_START (R401). -/
def fwTag (k : Bytes) (job : Nat) (j : FwJob) : Bytes :=
  Config.kmac256 k (ascii "VQ-FW") (toLE 2 job ++ j.digest ++ toLE 4 j.version) 16

/-- The FW_START record of a job (Table 15-10). -/
def fwStart (job : Nat) (j : FwJob) (tag : Bytes) : RRec :=
  ⟨0x90, toLE 2 job ++ toLE 4 j.version ++ toLE 4 j.image.length ++ toLE 2 j.blockSize ++ toLE 2 j.blocks ++ j.digest
    ++ toLE 4 j.activate ++ tag⟩

/-- TARGET admission (R403, Table 15-11); only the host rings it. -/
def State.fwAdmit (s : State) (m : Manifest) (r : EpRec) : State × Nat × List Effect :=
  let jn := bits m.kindArg 6 4
  let j := s.job jn
  let refuse (res : Nat) : State × Nat × List Effect := (s, stRejected, [resultFx jn m.epx res])
  if m.srcClass != 0 || j.state != 2 || r.state != 2 then refuse 5
  else if r.fwPush then refuse (Config.fwResult 0).toNat
  else if batteryBad r j then refuse (Config.fwResult 1).toNat
  else
    match firstFit s.argCells 1 s.argUsed with
    | none => refuse (Config.fwResult 2).toNat
    | some c =>
      match s.epKey m.epx r 3 r.keyEpoch with
      | (s, none) => (s, stRejected, [resultFx jn m.epx 5])
      | (s, some k) =>
        match s.downlink m.epx 8 r { r with fwPush := true } [fwStart jn j (fwTag k jn j)] with
        | (s, none) => (s, stRejected, [resultFx jn m.epx 5])
        | (s, some (r', env)) =>
          (s, stOk, [Effect.row (.ep m.epx r'), .row (.target m.epx (some ⟨jn, 0, 0, s.sec, c⟩))]
            ++ linkEffect m.epx r' false env ++ rekeyIntr r r' ++ [resultFx jn m.epx (Config.fwResult 3).toNat])

/-- TARGET. -/
def execFwPushTarget (slot : Nat) (s : State) : Host.Outcome State Fault Refusal :=
  s.onPush slot 1 (fun s m r => s.fwAdmit m r)

/-- STATUS (R404): battery first, then activated or failed, else progress, and FW_ACTIVATE once complete. -/
def State.fwStatus (s : State) (m : Manifest) (r : EpRec) : State × Nat × List Effect :=
  let v := m.buf
  match Map.get? s.upd.targets m.epx with
  | none => (s, stOk, [])
  | some t =>
    let j := s.job t.job
    let flags := leAt v 12 1
    let clear : Effect := .row (.ep m.epx { r with fwPush := false })
    if t.job != leAt v 0 2 then (s, stOk, [])
    else if batteryBad r j then (s, stOk, clear :: endFx m.epx t.job (Config.fwResult 1).toNat)
    else if bit flags 2 then
      (s, stOk, [clear, .row (.target m.epx none), resultFx t.job m.epx (Config.fwResult 4).toNat,
        countFx .UPD_DONE_CNT])
    else if bit flags 3 then (s, stOk, clear :: endFx m.epx t.job (Config.fwResult 5).toNat)
    else
      let base := leAt v 2 2
      let t' := { t with
        base := base, window := leAt v 4 8, progress := if t.base < base then s.sec else t.progress }
      let row : Effect := .row (.target m.epx (some t'))
      if bit flags 0 then
        match s.downlink m.epx 8 r r [⟨0x93, toLE 2 t.job ++ toLE 4 j.activate⟩] with
        | (s, none) => (s, r.noDownlink, if r.txSpent then [row] else [])
        | (s, some (r', env)) =>
          (s, stOk, [.row (.ep m.epx r'), row] ++ linkEffect m.epx r' false env ++ rekeyIntr r r')
      else (s, stOk, [row])

/-- STATUS. -/
def execFwPushStatus (slot : Nat) (s : State) : Host.Outcome State Fault Refusal :=
  s.onPush slot 2 (fun s m r => s.fwStatus m r)

/-! ### Blocks (R405) -/

/-- The blocks a target misses within its window. -/
def FwTarget.missing (t : FwTarget) (count : Nat) : List Nat :=
  ((List.range 64).filter (fun i => !t.window.testBit i && decide (t.base + i < count))).map (t.base + ·)

/-- The FW_BLOCK value of a block. -/
def blockValue (job : Nat) (j : FwJob) (b : Nat) : Bytes := toLE 2 job ++ toLE 2 b ++ j.block b

/-- Take `n` blocks by the number of targets that miss them, the lower block winning a tie. -/
def takeMost : Nat → List Nat → (Nat → Nat) → List Nat
  | 0, _, _ => []
  | n + 1, bs, w =>
    match bs with
    | [] => []
    | b :: rest =>
      let best := rest.foldl (fun x y => if w x < w y || (w x = w y && decide (y < x)) then y else x) b
      best :: takeMost n (bs.filter (· ≠ best)) w

/-- The blocks a ROUND stages for one job on a segment. -/
def State.roundBlocks (s : State) (seg jn : Nat) : List Bytes :=
  let j := s.job jn
  let ts := s.upd.targets.filter (fun e =>
    let r := s.record e.1
    e.2.job = jn && r.linkType = 1 && r.linkIndex = seg)
  let miss := ts.flatMap (fun e => e.2.missing j.blocks)
  if j.state = 2 then
    (takeMost j.perCycle miss.eraseDups (fun b => miss.count b)).map (blockValue jn j)
  else []

/-- ROUND (R405): FW_BLOCK items for the segment's next BEACON, whose body they keep within 4,096 bytes. -/
def execFwPushRound (slot : Nat) (s : State) : Host.Outcome State Fault Refusal :=
  s.onKind slot kFwPush (fun m =>
    if m.kindArg % 16 != 3 then s
    else
      let seg := m.flow % 8
      let items := ((List.range 8).flatMap (s.roundBlocks seg)).map (plcItem 0x81)
      s.complete slot stOk [] ((takeBlocks 10 items).map (fun b => .plc seg 0 (.fwBlock b))))

/-- As many blocks, lowest first, as fit the room left. -/
def fitBlocks (j : FwJob) : Nat → List Nat → List Nat
  | _, [] => []
  | room, b :: bs =>
    let n := 7 + (j.block b).length
    if n ≤ room then b :: fitBlocks j (room - n) bs else []

/-- The largest downlink envelope that the record's link carries: Table 6-4, or one item of a 1,232-byte datagram. -/
def State.envLimit (s : State) (epx : Nat) (r : EpRec) : Nat :=
  match r.linkType with
  | 2 =>
    match s.entry? r.linkIndex epx r.channel r.position with
    | some e => downLimit e.sch.width
    | none => 0
  | 3 => 1192
  | _ => 0

/-- SEND (R405): the lowest missing blocks that fit one downlink. -/
def State.fwSend (s : State) (m : Manifest) (r : EpRec) : State × Nat × List Effect :=
  match Map.get? s.upd.targets m.epx with
  | none => (s, stOk, [])
  | some t =>
    let j := s.job t.job
    let miss := t.missing j.blocks
    if j.state != 2 || r.state != 2 || miss.isEmpty then (s, stOk, [])
    else
      let room := s.envLimit m.epx r - (32 + 3 * b2n r.noteRekey.rekeyDue + 7 * b2n r.timeCorrDue)
      match fitBlocks j room miss with
      | [] =>
        if r.linkType = 2 then
          (s, stOk, .row (.ep m.epx { r with fwPush := false }) :: endFx m.epx t.job (Config.fwResult 7).toNat)
        else (s, stOk, [])
      | bs =>
        match s.downlink m.epx 8 r r (bs.map (fun b => ⟨0x91, blockValue t.job j b⟩)) with
        | (s, none) => (s, r.noDownlink, [])
        | (s, some (r', env)) =>
          (s, stOk, [Effect.row (.ep m.epx r')] ++ linkEffect m.epx r' false env ++ rekeyIntr r r'
            ++ [.count .UPD_BLOCK_CNT 0 0 bs.length])

/-- SEND. -/
def execFwPushSend (slot : Nat) (s : State) : Host.Outcome State Fault Refusal :=
  s.onPush slot 4 (fun s m r => s.fwSend m r)

/-- SET (R406): the target of the manifest's job ends with the result the manifest carries. -/
def State.fwSet (s : State) (m : Manifest) (r : EpRec) : State × Nat × List Effect :=
  match Map.get? s.upd.targets m.epx with
  | none => (s, stOk, [])
  | some t =>
    if t.job != bits m.kindArg 6 4 then (s, stOk, [])
    else (s, stOk, .row (.ep m.epx { r with fwPush := false }) :: endFx m.epx t.job (leAt m.buf 0 1))

/-- SET. -/
def execFwPushSet (slot : Nat) (s : State) : Host.Outcome State Fault Refusal :=
  s.onPush slot 5 (fun s m r => if m.srcClass = 0 then (s, stRejected, []) else s.fwSet m r)

/-- A target whose base has not advanced for stall_s ends with STALLED, through a SET manifest (R404, R406). -/
def execFwPushStall (epx : Nat) (s : State) : Host.Outcome State Fault Refusal :=
  match Map.get? s.upd.targets epx with
  | none => .next s
  | some t =>
    if t.progress + 600 * (s.job t.job).stall ≤ s.sec then .next (s.makeSet epx t.job (Config.fwResult 6).toNat)
    else .next s

end Sys2Proof.Machine
end

