-- ==== Sys2Proof/Machine/Command.lean ====
section
/-!
DEFINITION. Commands to endpoints: windows, conflicts, PROVISION and DEPROVISION, ISSUE (R112-R116), and the LINK_EVENT
manifests of the link chapters (R182, R354).
-/
namespace Sys2Proof.Machine

/-! ### Windows (R113) -/

/-- The number of the window an instant lies in on the record's link, and the start of a window by number, in ns; none
for link_type 0. -/
def State.linkWindow (s : State) (r : EpRec) (t : Nat) : Option (Nat × (Nat → Nat)) :=
  match r.linkType with
  | 1 =>
    let p := 1000000 * s.fld .PLC_SEG_CFG0 r.linkIndex 0 15 0
    some (s.plcCycleAt r.linkIndex t, fun n => (((n * p : Nat) : Int) + (s.seg r.linkIndex).anchor).toNat)
  | 2 =>
    some ((s.superframeAt r.linkIndex t).1,
      fun n => (((32768000000 * n : Nat) : Int) + (s.rport r.linkIndex).anchor).toNat)
  | 3 =>
    let p := 1000000 * max 1 (s.fld .EP_CMD_CFG 0 0 31 16)
    some (t / p, fun n => n * p)
  | _ => none

/-- The window number a command takes (R113). -/
def State.windowOf (s : State) (r : EpRec) (t : Nat) : Nat :=
  match s.linkWindow r t with
  | some (n, _) => n % 2 ^ 32
  | none => 0xFFFFFFFF

/-- The end of a closed window, in ns: the nominal start of the next (R113). -/
def State.windowEnd (s : State) (r : EpRec) (t w : Nat) : Nat :=
  match s.linkWindow r t with
  | some (n, start) => start (n - (n % 2 ^ 32 + 2 ^ 32 - w) % 2 ^ 32 + 1)
  | none => 0

/-! ### The command block (R112) -/

/-- Issuer priority of a session (R114). -/
def State.issuerPrio (s : State) (session : Nat) : Nat :=
  match (s.items 0x90 3).find? (fun v => decide (leAt v 0 2 ≤ session) && decide (session ≤ leAt v 2 2)) with
  | some v => leAt v 4 1
  | none => 0

/-- The ops of Table 4-8a with their object and argument lengths. -/
def opTable : List (Nat × Nat × Nat × Nat) :=
  [(0x01, 1, 0, 0), (0x02, 1, 0, 0), (0x03, 2, 1, 1024), (0x04, 3, 1, 32), (0x05, 4, 1, 1024), (0x06, 0, 4, 4),
   (0x10, 0, 32, 32), (0x11, 0, 0, 0)]

/-- The block of a command is well formed for its op (R112). -/
def blockOk (op : Nat) (b : Bytes) : Bool :=
  match opTable.find? (fun x => x.1 = op) with
  | some (_, obj, lo, hi) =>
    let n := leAt b 8 2
    decide (16 ≤ b.length) && leAt b 6 2 = obj && decide (lo ≤ n) && decide (n ≤ hi) && decide (16 + n ≤ b.length)
  | none => false

/-- A refused command: REJECTED with result REFUSED under its command id (R112). -/
def refuseCmd (m : Manifest) : Nat × List Effect := (stRejected, [resultFx (leAt m.buf 0 4) m.epx 5])

/-- Run a COMMAND of an op over its record (R112): one that the chip or the block rules out is refused, and a row runs a
manifest whose op no row names, so that it too is refused. -/
def State.onCmd (s : State) (n op : Nat) (f : State → Manifest → EpRec → Nat × List Effect) :
    Host.Outcome State Fault Refusal :=
  match s.running n kCommand with
  | none => .next s
  | some m =>
    let o := m.kindArg % 256
    let fromLink := m.srcClass != 0
    let known := opTable.any (fun x => x.1 = o) || (fromLink && (o = 0xFE || o = 0xFF))
    if o != op && known then .next s
    else if !m.epxValid then .next (s.complete n stRejected [] [])
    else
      let more : List RowKey := if op = 0x11 then [.target m.epx] else []
      .next (s.withRecs n m.epx more (fun s r =>
        if o != op || !blockOk op m.buf || (s.workerRole && op != 0x10 && op != 0x11) then
          (s, (refuseCmd m).1, (refuseCmd m).2)
        else
          let x := f s m r
          (s, x.1, x.2)))

/-! ### Stored commands (R112-R115) -/

/-- Two commands conflict (R114). -/
def conflicts (a b : Pend) : Bool := a.object = b.object && a.object != 4 && a.window = b.window

/-- The issue marker of a stored command on a radio link (R180). -/
def markerFx (epx : Nat) (r : EpRec) (w : Nat) : List Effect :=
  if r.linkType = 2 then [.radio r.linkIndex r.position r.channel (.marker epx w)] else []

/-- Store a command as a pending entry, or resolve its conflict (R112, R114, R115). -/
def State.storeCmd (s : State) (m : Manifest) (r : EpRec) : Nat × List Effect :=
  let b := m.buf
  let id := leAt b 0 4
  let n := leAt b 8 2
  let used := s.argUsed
  let cell := if n = 0 then some 0xFFFFFFFF else firstFit s.argCells (ceilDiv n 64) used
  match cell with
  | none => refuseCmd m
  | some cell =>
    let session := leAt b 4 2
    let p : Pend := ⟨id, s.windowOf r (s.stampNs m), session, leAt b 6 2, m.kindArg % 256, s.issuerPrio session,
      slice b 16 n, cell⟩
    if r.state = 0 || r.state = 3 then refuseCmd m
    else
      let hit := findIdx? (fun (e : Option Pend) => match e with
        | some e => conflicts e p
        | none => false) r.pend
      match hit with
      | some i =>
        let old := (r.pend.getD i none).getD p
        if old.prio < p.prio then
          let r' := { r with pend := r.pend.set i (some p) }
          (stOk, [Effect.row (.ep m.epx r')] ++ markerFx m.epx r p.window
            ++ [resultFx old.cmdId m.epx 3, .log 0x0501 id old.cmdId none, countFx .EP_CONFLICT_CNT, .intr .EP_INT 0 2])
        else
          (stConflict, [resultFx id m.epx 3, .log 0x0501 old.cmdId id none, countFx .EP_CONFLICT_CNT,
            .intr .EP_INT 0 2])
      | none =>
        match findIdx? Option.isNone r.pend with
        | none => refuseCmd m
        | some i =>
          (stOk, [Effect.row (.ep m.epx { r with pend := r.pend.set i (some p) })] ++ markerFx m.epx r p.window)

/-- CONNECT. -/
def execCmdConnect (slot : Nat) (s : State) : Host.Outcome State Fault Refusal :=
  s.onCmd slot 0x01 (fun s m r => s.storeCmd m r)

/-- DISCONNECT. -/
def execCmdDisconnect (slot : Nat) (s : State) : Host.Outcome State Fault Refusal :=
  s.onCmd slot 0x02 (fun s m r => s.storeCmd m r)

/-- TARIFF_PUSH. -/
def execCmdTariffPush (slot : Nat) (s : State) : Host.Outcome State Fault Refusal :=
  s.onCmd slot 0x03 (fun s m r => s.storeCmd m r)

/-- READ. -/
def execCmdRead (slot : Nat) (s : State) : Host.Outcome State Fault Refusal :=
  s.onCmd slot 0x04 (fun s m r => s.storeCmd m r)

/-- DLMS. -/
def execCmdDlms (slot : Nat) (s : State) : Host.Outcome State Fault Refusal :=
  s.onCmd slot 0x05 (fun s m r => s.storeCmd m r)

/-- CANCEL (R116). -/
def cancelCmd (m : Manifest) (r : EpRec) : Nat × List Effect :=
  let id := leAt m.buf 0 4
  let target := leAt m.buf 16 4
  if r.state = 0 || r.state = 3 then refuseCmd m
  else
    match findIdx? (fun (e : Option Pend) => match e with
        | some e => e.cmdId = target
        | none => false) r.pend with
    | none => refuseCmd m
    | some i =>
      (stOk, [.row (.ep m.epx { r with pend := r.pend.set i none }), resultFx target m.epx 6, resultFx id m.epx 7])

/-- CANCEL. -/
def execCmdCancel (slot : Nat) (s : State) : Host.Outcome State Fault Refusal :=
  s.onCmd slot 0x06 (fun _ m r => cancelCmd m r)

/-- The link fields a PROVISION argument gives lie in the ranges of their link (R112). -/
def State.linkFieldsOk (s : State) (t i p c : Nat) : Bool :=
  match t with
  | 0 => true
  | 1 => decide (i < 8) && decide (p < 2048)
  | 2 => decide (i < 4) && assignable (s.fld .RADIO_CFG1 i 0 12 9) p && decide (c < 16)
  | 3 => decide (i < 256)
  | _ => false

/-- The hand-off of an OPEN (Table 7-3): the serial in bytes 4-11. -/
def openHandoff (epx serial stamp : Nat) : Bytes := toLE 4 (epx + 2 ^ 22) ++ toLE 8 serial ++ toLE 4 stamp

/-- The hand-off of a CLOSE (Table 7-3). -/
def closeHandoff (epx stamp : Nat) : Bytes := toLE 4 (epx + 2 ^ 23) ++ zeros 8 ++ toLE 4 stamp

/-- The record a PROVISION writes (R102, R112). -/
def provisioned (r : EpRec) (v : Bytes) : EpRec :=
  let c := leAt v 8 1
  let l1 := leAt v 10 2
  let l2 := leAt v 12 2
  let serial := leAt v 0 8
  let epoch := leAt v 14 2
  let t := leAt v 16 1
  let kept := r.state = 3 && r.serial = serial && r.l1 = l1 && r.l2 = l2
  { EpRec.empty with
    serial := serial, cls := c % 16, aes256 := bit c 4, battery := bit c 5, dlmsOk := bit c 6, billed := bit c 7,
    state := 1, l1 := l1, l2 := l2, keyEpoch := if kept then max epoch r.keyEpoch else epoch,
    linkType := t, linkIndex := if t = 0 then 0 else leAt v 17 1,
    position := if t = 0 || t = 3 then 0xFFFF else leAt v 18 2, channel := if t = 2 then leAt v 20 1 else 0xFF,
    linkState := if t = 2 then 1 else 0, balGroup := leAt v 22 2, balMember := leAt v 24 2, batteryLevel := 0xFF }

/-- The entry a PROVISION makes on its link (R145, R184). -/
def entryEffect (epx : Nat) (r : EpRec) : List Effect :=
  match r.linkType with
  | 1 => [.plc r.linkIndex r.position (.create epx r.serial)]
  | 2 => [.radio r.linkIndex r.position r.channel (.create epx r.serial)]
  | _ => []

/-- PROVISION (R102, R112, R214). -/
def State.provision (s : State) (m : Manifest) (r : EpRec) : Nat × List Effect :=
  let v := slice m.buf 16 32
  let rebuild := bit (leAt v 9 1) 0
  if 6 ≤ leAt v 8 1 % 16 || 4 ≤ leAt v 16 1 || !s.linkFieldsOk (leAt v 16 1) (leAt v 17 1) (leAt v 18 2) (leAt v 20 1)
      || !(r.state = 0 || r.state = 3 || (rebuild && r.recordLost)) then refuseCmd m
  else
    let r' := provisioned r v
    let stamp := m.tsSec % 2 ^ 28 + m.tsQual * 2 ^ 28
    (stOk, [Effect.row (.ep m.epx r')] ++ entryEffect m.epx r'
      ++ (if r'.billed then
            [followEp kCommand kTariff 1 m.epx (openHandoff m.epx r'.serial stamp) Arrival.none] else [])
      ++ [resultFx (leAt m.buf 0 4) m.epx 7])

/-- PROVISION. -/
def execCmdProvision (slot : Nat) (s : State) : Host.Outcome State Fault Refusal :=
  s.onCmd slot 0x10 (fun s m r => s.provision m r)

/-- DEPROVISION (R102, R112, R214). -/
def deprovision (m : Manifest) (r : EpRec) : Nat × List Effect :=
  if r.state = 0 || r.state = 3 then refuseCmd m
  else
    let r' := { r with
      state := 3, rxHigh := 0, rxMap := 0, txCounter := 0, linkType := 0, linkIndex := 0, position := 0xFFFF,
      channel := 0xFF, linkState := 0, pend := [none, none, none, none], fwPush := false, held := [] }
    let ended := r.pend.filterMap (fun p => p.map (fun e => resultFx e.cmdId m.epx 6))
    let stamp := m.tsSec % 2 ^ 28 + m.tsQual * 2 ^ 28
    (stOk, [Effect.row (.ep m.epx r')] ++ unlinkEffect m.epx r
      ++ [followEp kCommand kTariff 2 m.epx (closeHandoff m.epx stamp) Arrival.none] ++ ended ++ [resultFx (leAt m.buf 0 4) m.epx 7])

/-- DEPROVISION; a firmware-push target of the endpoint ends CANCELLED with it (R404). -/
def execCmdDeprovision (slot : Nat) (s : State) : Host.Outcome State Fault Refusal :=
  s.onCmd slot 0x11 (fun s m r =>
    let x := deprovision m r
    (x.1, x.2 ++ (if x.1 = stOk then s.endTarget m.epx else [])))

/-! ### ISSUE (R116, R148, R180, R356) -/

/-- Insert an entry by window order, oldest window first. -/
def insertByAge (cur : Nat) (p : Pend) : List Pend → List Pend
  | [] => [p]
  | x :: xs =>
    let age : Pend → Nat := fun e => (cur % 2 ^ 32 + 2 ^ 32 - e.window) % 2 ^ 32
    if age x < age p then p :: x :: xs else x :: insertByAge cur p xs

/-- The ISSUE manifest of a link (R116): expired entries end, the rest of closed windows go out in one COMMAND, and
where there is none a CONFIRM does. A failed key request completes it REJECTED with nothing staged (R318). -/
def State.issue (s : State) (m : Manifest) (r : EpRec) : State × Nat × List Effect :=
  let t := s.stampNs m
  let cur := match s.linkWindow r t with
    | some (n, _) => n
    | none => 0
  let linked := (s.linkWindow r t).isSome
  let isClosed : Pend → Bool := fun e => linked && windowClosed cur e.window
  let isOld : Pend → Bool := fun e =>
    isClosed e && decide (s.windowEnd r t e.window + 1000000000 * s.fld .EP_CMD_CFG 0 0 15 0 < t)
  let entries := r.pend.filterMap id
  let old := entries.filter isOld
  let live := (entries.filter (fun e => isClosed e && !isOld e)).foldl (fun acc e => insertByAge cur e acc) []
  let keep := fun (drop : Pend → Bool) => r.pend.map (fun p => match p with
    | some e => if drop e then none else some e
    | none => none)
  let expired := old.map (fun e => resultFx e.cmdId m.epx 4)
  let onlyExpired := (s, stOk,
    (if old.isEmpty then [] else [Effect.row (.ep m.epx { r with pend := keep isOld })]) ++ expired)
  if r.state != 2 || r.txSpent then onlyExpired
  else if live.isEmpty then
    match s.downlink m.epx 0xA r { r with pend := keep isOld } [] with
    | (s, none) => (s, stRejected, [])
    | (s, some (r', env)) =>
      (s, stOk, [Effect.row (.ep m.epx r')] ++ linkEffect m.epx r' true env ++ rekeyIntr r r' ++ expired)
  else
    let recs := live.map (fun e => RRec.mk 0x10 (toLE 4 e.cmdId ++ toLE 1 e.op ++ toLE 2 e.object ++ e.arg))
    match s.downlink m.epx 8 r { r with pend := keep isClosed } recs with
    | (s, none) => (s, stRejected, [])
    | (s, some (r', env)) =>
      (s, stOk, [Effect.row (.ep m.epx r')] ++ linkEffect m.epx r' false env ++ rekeyIntr r r' ++ expired
        ++ live.map (fun e => resultFx e.cmdId m.epx 0))

/-- ISSUE. -/
def execCmdIssue (slot : Nat) (s : State) : Host.Outcome State Fault Refusal :=
  match s.running slot kCommand with
  | none => .next s
  | some m =>
    if m.kindArg % 256 != 0xFF || m.srcClass = 0 then .next s
    else .next (s.withRec slot m.epx (fun s r => s.issue m r))

/-! ### LINK_EVENT (R182, R354) -/

/-- Run a LINK_EVENT of a code over its record; a code that Table R182 does not use is REJECTED by any row. -/
def State.onLinkEvent (s : State) (n ev : Nat) (f : State → Manifest → EpRec → State × Nat × List Effect) :
    Host.Outcome State Fault Refusal :=
  match s.running n kCommand with
  | none => .next s
  | some m =>
    let e := m.kindArg / 256
    if m.kindArg % 256 != 0xFE || m.srcClass = 0 then .next s
    else if e = 0 || 8 ≤ e then .next (s.complete n stRejected [] [])
    else if e != ev then .next s
    else .next (s.withRec n m.epx (fun s r => f s m r))

/-- The record still holds the entry a LINK_EVENT concerns (R182). -/
def EpRec.holds (r : EpRec) (m : Manifest) : Bool :=
  r.linkType = 2 && r.linkIndex = m.srcIndex / 16 && r.position = leAt m.buf 6 2 && r.channel = leAt m.buf 5 1

/-- Events 1 to 3 change the record while it holds the entry. -/
def heldEvent (m : Manifest) (r r' : EpRec) : Nat × List Effect :=
  if r.holds m then (stOk, [.row (.ep m.epx r'), .hostMsg (m.buf.take 12)]) else (stOk, [])

/-- Event 1. -/
def execLinkEventSearch (slot : Nat) (s : State) : Host.Outcome State Fault Refusal :=
  s.onLinkEvent slot 1 (fun s m r => (s, heldEvent m r { r with linkState := 1 }))

/-- Event 2. -/
def execLinkEventReleased (slot : Nat) (s : State) : Host.Outcome State Fault Refusal :=
  s.onLinkEvent slot 2 (fun s m r => (s, heldEvent m r { r with position := 0xFFFF }))

/-- Event 3. -/
def execLinkEventResumed (slot : Nat) (s : State) : Host.Outcome State Fault Refusal :=
  s.onLinkEvent slot 3 (fun s m r => (s, heldEvent m r { r with linkState := 0 }))

/-- Event 4: the record takes the entry and leaves the one it held elsewhere. -/
def execLinkEventPlaced (slot : Nat) (s : State) : Host.Outcome State Fault Refusal :=
  s.onLinkEvent slot 4 (fun s m r =>
    let r' := { r with linkType := 2, linkIndex := m.srcIndex / 16, position := leAt m.buf 6 2,
                       channel := leAt m.buf 5 1, linkState := 1 }
    (s, stOk, [Effect.row (.ep m.epx r')] ++ (if r.holds m then [] else unlinkEffect m.epx r)
      ++ [.hostMsg (m.buf.take 12)]))

/-- Event 5: a DOWN carrying LINK_PARAM. -/
def execLinkEventSched (slot : Nat) (s : State) : Host.Outcome State Fault Refusal :=
  s.onLinkEvent slot 5 (fun s m r =>
    let msg : List Effect := [.hostMsg (m.buf.take 12)]
    if r.state != 2 then (s, stOk, msg)
    else
      match s.downlink m.epx 8 r r [RRec.mk 0x13 (slice m.buf 12 4)] with
      | (s, none) => (s, r.noDownlink, if r.txSpent then msg else [])
      | (s, some (r', env)) =>
        (s, stOk, [Effect.row (.ep m.epx r'),
          .radio (m.srcIndex / 16) (leAt m.buf 6 2) (leAt m.buf 5 1) (.sched m.epx env (leAt m.buf 12 4))] ++ rekeyIntr r r' ++ msg))

/-- Events 6 and 7 set link_state in records of the worker, and stage nothing elsewhere (R354). -/
def workerEvent (m : Manifest) (r : EpRec) (v : Nat) : Nat × List Effect :=
  if r.linkType = 3 && r.linkIndex = m.srcIndex then (stOk, [.row (.ep m.epx { r with linkState := v })]) else (stOk, [])

/-- Event 6. -/
def execLinkEventWorkerLost (slot : Nat) (s : State) : Host.Outcome State Fault Refusal :=
  s.onLinkEvent slot 6 (fun s m r => (s, workerEvent m r 2))

/-- Event 7. -/
def execLinkEventWorkerBack (slot : Nat) (s : State) : Host.Outcome State Fault Refusal :=
  s.onLinkEvent slot 7 (fun s m r => (s, workerEvent m r 0))

end Sys2Proof.Machine
end

