-- ==== Sys2Proof/Machine/Craft.lean ====
section
/-!
DEFINITION. Craft control: the craft superframe, wide-mode frames, reservations, lane checks, tasks and RTK corrections
(chapter 9).
-/
namespace Sys2Proof.Machine

/-! ### Rows, lanes and the site graph (R268-R270) -/

/-- A craft row. -/
def State.craftRow (s : State) (c : Nat) : CraftRow := Map.getD s.craft.rows c CraftRow.unknown

/-- The flow of a craft (Table 3-5). -/
def craftFlow (c : Nat) : Nat := 0x400000 + c

/-- craft_count. -/
def State.craftCount (s : State) : Nat := s.fld .CRAFT_CFG0 0 0 6 0

/-- clear_sf. -/
def State.clearSf (s : State) : Nat := s.fld .CRAFT_CFG0 0 0 12 7

/-- The LANE item of a lane: cap and conflict set. -/
def State.laneItem (s : State) (l : Nat) : Option Bytes := (s.items 0xB0 5).find? (fun v => leAt v 0 2 = l)

/-- Two lanes are the same or share a conflict set. -/
def State.meets (s : State) (l m : Nat) : Bool :=
  l = m || (match s.laneItem l, s.laneItem m with
    | some a, some b => leAt a 10 2 != 0xFFFF && leAt a 10 2 = leAt b 10 2
    | _, _ => false)

/-- What a decision answers: 0 GRANTED, else the reason of a REFUSE (Table 9-6). -/
abbrev Decision := Nat

/-- decide (R270), over the reservations and rows as the manifest has them so far; N is the current superframe. -/
def State.laneDecision (s : State) (lanes : Map (List Resv)) (rows : Map CraftRow) (c l a b : Nat) : Decision :=
  let cl := s.clearSf
  let all := lanes.flatMap (fun e => e.2.filter s.counts)
  let len := (b + 2 ^ 32 - a % 2 ^ 32) % 2 ^ 32
  if s.craft.allStop then 2
  else if (s.laneItem l).isNone || 2 ^ 31 ≤ len || s.fld .CRAFT_CFG3 0 0 15 0 < len + 1 then 3
  else if all.any (fun r => r.craft != c && s.meets r.lane l && !sfBefore (b + cl) r.a && !sfBefore (r.b + cl) a) then 1
  else if rows.any (fun e => e.1 != c && e.2.known && e.2.lane != 0xFFFF && s.meets e.2.lane l
      && !sfBefore (s.craftSf + cl) a) then 1
  else if 8 ≤ (all.filter (·.lane = l)).length || 65536 ≤ all.length then 1
  else 0

/-- Record a reservation in its lane's row, which keeps only those that count. -/
def State.reserve (s : State) (lanes : Map (List Resv)) (r : Resv) : Map (List Resv) :=
  Map.put lanes r.lane ((Map.getD lanes r.lane []).filter s.counts ++ [r])

/-- The write-backs of the lane rows that changed. -/
def State.laneWrites (s : State) (lanes : Map (List Resv)) : List Effect :=
  lanes.filterMap (fun e =>
    if Map.getD s.craft.lanes e.1 [] = e.2 then none else some (Effect.row (.lane e.1 e.2)))

/-- The craft rows, used or not (R271). -/
def State.craftKeys (s : State) : List RowKey := (List.range s.craftCount).map RowKey.craft

/-- What a decision reads: every craft row, and every lane row, used or not (R271). -/
def State.craftLoads (s : State) : List RowKey :=
  s.craftKeys ++ ((s.items 0xB0 5).map (fun v => leAt v 0 2) ++ s.craft.lanes.map (·.1)).eraseDups.map RowKey.lane

/-! ### C_ORDER (Tables 9-3, 9-6) -/

/-- A GRANT or GO item. -/
def grantItem (type lane a b speed : Nat) : Bytes :=
  toLE 1 type ++ [0] ++ toLE 2 lane ++ toLE 4 a ++ toLE 4 b ++ toLE 2 speed ++ zeros 2

/-- A REFUSE item. -/
def refuseItem (reason lane a : Nat) : Bytes := toLE 1 2 ++ toLE 1 reason ++ toLE 2 lane ++ toLE 4 a ++ zeros 8

/-- A TASK item. -/
def taskItem (id : Nat) (t : Task) : Bytes :=
  toLE 1 6 ++ [0] ++ toLE 2 t.kind ++ toLE 4 id ++ toLE 2 t.from' ++ toLE 2 t.dest ++ zeros 4

/-- A TASK_CANCEL item. -/
def taskCancelItem (id : Nat) : Bytes := toLE 1 7 ++ zeros 3 ++ toLE 4 id ++ zeros 8

/-- Split a list into runs of up to eight. -/
def eights {α : Type} : Nat → List α → List (List α)
  | 0, _ => []
  | n + 1, l => if l.isEmpty then [] else l.take 8 :: eights n (l.drop 8)

/-- The C_ORDER frames that carry items to a craft, each with the host orders it carries. -/
def State.orderFx (s : State) (c : Nat) (items : List (Bytes × Option (Nat × Nat))) : List Effect :=
  (eights items.length items).map (fun g =>
    .radio (s.widePort.getD 0) 0 0 (.craftOrder c
      (toLE 1 c ++ toLE 1 s.craft.epoch ++ toLE 1 g.length ++ [0] ++ g.flatMap (·.1)) (g.filterMap (·.2))))

/-- The body of an order result (R273). -/
def State.orderBody (s : State) (id c res lane : Nat) : Bytes :=
  toLE 4 id ++ toLE 1 c ++ toLE 1 res ++ toLE 2 lane ++ toLE 4 s.craftSf

/-- A staged order result. -/
def State.orderFxResult (s : State) (id c res lane : Nat) : Effect := .hostMsg (s.orderBody id c res lane)

/-- A staged craft notice. -/
def State.noticeFx (s : State) (code c task : Nat) : Effect := .hostMsg (Config.craftNotice code c task s.craftSf)

/-- An order result that no manifest stages: the craft port makes a HOST_MSG manifest of it. -/
def State.orderReport (s : State) (id c res lane : Nat) : State :=
  s.make kHostMsg 0 (craftFlow c) 2 (s.widePort.getD 0 * 16) none (s.orderBody id c res lane)

/-- Drop a C_ORDER frame that was not delivered (R274). -/
def State.dropOrder (s : State) (x : CraftTx) : State :=
  let s := ((s.count .CRAFT_ORDER_DROP_CNT 0 0 1).raise .CRAFT_INT 0 7).event 0x0C03 x.craft (x.seq.getD 0)
  x.orders.foldl (fun s o => s.orderReport o.1 x.craft 7 o.2) s

/-- A committed C_ORDER enters the craft's cells; with all 4 full the oldest is dropped (R274). -/
def State.craftQueue (s : State) (c : Nat) (body : Bytes) (orders : List (Nat × Nat)) : State :=
  let mine := s.craft.queue.filter (fun x => x.craft = c && !x.ack)
  let x : CraftTx := ⟨c, false, none, 0, body, orders⟩
  match mine with
  | old :: _ =>
    if 4 ≤ mine.length then
      (s.dropOrder old).modCraft (fun k => { k with queue := k.queue.erase old ++ [x] })
    else s.modCraft (fun k => { k with queue := k.queue ++ [x] })
  | [] => s.modCraft (fun k => { k with queue := k.queue ++ [x] })

/-! ### LANE_CHECK (R271-R273) -/

/-- A manifest of one LANE_CHECK sub-operation; the host may ring only ORDER and TASK, and a sub-operation that no row
names is REJECTED (R271). -/
def State.onLane (s : State) (n op : Nat) (f : Manifest → State) : Host.Outcome State Fault Refusal :=
  s.onKind n kLaneCheck (fun m =>
    let k := m.kindArg % 16
    if k = 0 || 6 ≤ k then s.complete n stRejected [] []
    else if k != op then s
    else if m.srcClass = 0 && k != 2 && k != 3 then
      s.complete n stRejected [] [s.orderFxResult (leAt m.buf 0 4) (m.flow - craftFlow 0) 5 0xFFFF]
    else f m)

/-- What a load of the task table's order registers: a key above every task id, which each change of the table makes stale
(assumption 65). -/
abbrev taskOrder : Nat := 2 ^ 32

/-- A task's row write, keeping it queued at the head of its priority. -/
def State.requeue (s : State) (id : Nat) : List Effect :=
  match Map.get? s.craft.tasks id with
  | none => []
  | some t =>
    let low := ((Map.vals s.craft.tasks).map (·.rank)).foldl min 0
    [.row (.task id (some { t with craft := none, rank := low - 1 }))]

/-- The row a C_STATUS gives (Table 9-5). -/
def CraftRow.ofStatus (r : CraftRow) (b : Bytes) (n : Nat) : CraftRow :=
  { r with known := true, lost := false, lastHeard := n, fix := leAt b 2 1 % 4, flags := leAt b 3 1
           east := leAt b 4 4, north := leAt b 8 4, up := leAt b 12 4, heading := leAt b 16 2, speed := leAt b 18 2
           lane := leAt b 20 2, junction := leAt b 22 2, task := leAt b 24 4, battery := leAt b 28 1 }

/-- STATUS with an empty body: the craft is LOST (R272). -/
def State.craftLostFx (s : State) (c : Nat) : List Effect :=
  let r := s.craftRow c
  [.row (.craft c { r with lost := true, allot := 0 })] ++ (if r.allot = 0 then [] else s.requeue r.allot)
    ++ [s.noticeFx 0 c r.allot, .intr .CRAFT_INT 0 5]

/-- The requests of a C_STATUS, decided in order: items, lanes and counts. -/
def State.decideRequests (s : State) (rows : Map CraftRow) (c n : Nat) (b : Bytes) :
    List (Bytes × Option (Nat × Nat)) × Map (List Resv) × Nat × Nat :=
  (List.range 2).foldl (fun acc i =>
    let l := leAt b (32 + 6 * i) 2
    let o := leAt b (34 + 6 * i) 2
    let d := leAt b (36 + 6 * i) 2
    if l = 0xFFFF then acc
    else
      let a := (n + o) % 2 ^ 32
      let e := (n + o + d - 1) % 2 ^ 32
      let r := s.laneDecision acc.2.1 rows c l a e
      let r := if r != 2 && (o < 2 || d = 0) then 3 else r
      let cap := ((s.laneItem l).map (fun v => leAt v 8 2)).getD 0
      if r = 0 then
        (acc.1 ++ [(grantItem 1 l a e cap, none)], s.reserve acc.2.1 ⟨c, l, a, e, cap, s.craft.epoch, none⟩,
          acc.2.2.1 + 1, acc.2.2.2)
      else (acc.1 ++ [(refuseItem r l a, none)], acc.2.1, acc.2.2.1, acc.2.2.2 + 1))
    ([], s.craft.lanes, 0, 0)

/-- Count a number of outcomes. -/
def countN (r : Reg) (n : Nat) : List Effect := if n = 0 then [] else [.count r 0 0 n]

/-- LANE_CHECK STATUS (R272). -/
def execLaneStatus (slot : Nat) (s : State) : Host.Outcome State Fault Refusal :=
  s.onLane slot 1 (fun m =>
    let c := m.flow - craftFlow 0
    let loads := .craft c :: s.craftLoads
    let tasks (a : Nat) : List RowKey := if a = 0 then [] else [.task a, .task taskOrder]
    if m.buf.length < 44 then s.complete slot stOk (loads ++ tasks (s.craftRow c).allot) (s.craftLostFx c)
    else
      let n := leAt m.buf 44 4
      let old := s.craftRow c
      let r := old.ofStatus m.buf n
      let done := r.flags.testBit 2
      let gone := r.flags.testBit 3
      let ends := old.allot != 0 && (done || gone)
      let r := if done || gone then { r with allot := 0, task := 0 } else r
      let d := s.decideRequests (Map.put s.craft.rows c r) c n m.buf
      s.complete slot stOk (loads ++ (if ends then tasks old.allot else [])) ([.row (.craft c r)] ++ s.laneWrites d.2.1
        ++ (if !ends then [] else if done then [.row (.task old.allot none), s.noticeFx 2 c old.allot]
            else s.requeue old.allot ++ [s.noticeFx 3 c old.allot])
        ++ (if old.lost then [s.noticeFx 1 c 0] else [])
        ++ s.orderFx c d.1 ++ countN .CRAFT_GRANT_CNT d.2.2.1 ++ countN .CRAFT_REFUSE_CNT d.2.2.2))

/-- LANE_CHECK ORDER (R114, R115, R273). -/
def execLaneOrder (slot : Nat) (s : State) : Host.Outcome State Fault Refusal :=
  s.onLane slot 2 (fun m =>
    let c := m.flow - craftFlow 0
    let b := m.buf
    let id := leAt b 0 4
    let op := leAt b 6 1
    let lane := if op = 1 then leAt b 8 2 else 0xFFFF
    let row := s.craftRow c
    let refused (st res : Nat) (more : List Effect) : State :=
      s.complete slot st [.craft c] (s.orderFxResult id c res lane :: more)
    if m.srcClass != 0 || m.flow < craftFlow 0 || s.craftCount ≤ c || b.length < 20 || op = 0 || 4 ≤ op then
      refused stRejected 5 []
    else
      let p : POrder := ⟨id, s.issuerPrio (leAt b 4 2), op, lane, leAt b 10 2, leAt b 12 4, leAt b 16 4,
        s.craftSfAt (s.stampNs m)⟩
      let keep (os : List POrder) : Effect := .row (.craft c { row with orders := os })
      match findIdx? (fun (o : POrder) => o.lane = p.lane && o.window = p.window) row.orders with
      | some i =>
        let o := row.orders.getD i p
        if o.prio < p.prio then
          s.complete slot stOk [.craft c] [keep (row.orders.eraseIdx i ++ [p]), s.orderFxResult o.id c 2 o.lane,
            .log 0x0501 id o.id none, countFx .EP_CONFLICT_CNT, .intr .EP_INT 0 2]
        else refused stConflict 2 [.log 0x0501 o.id id none, countFx .EP_CONFLICT_CNT, .intr .EP_INT 0 2]
      | none =>
        if 4 ≤ row.orders.length then refused stRejected 5 []
        else s.complete slot stOk [.craft c] [keep (row.orders ++ [p])])

/-- What ISSUE has decided so far: items, results, lanes, the row's lane, and the numbers granted and refused. -/
structure Issued where
  items : List (Bytes × Option (Nat × Nat))
  results : List Effect
  lanes : Map (List Resv)
  rowLane : Nat
  granted : Nat
  refused : Nat

/-- One pending order of an ISSUE (R273). -/
def State.issueOrder (s : State) (c : Nat) (x : Issued) (o : POrder) : Issued :=
  let sent (item : Bytes) : Issued :=
    { x with items := x.items ++ [(item, some (o.id, o.lane))], results := x.results ++ [s.orderFxResult o.id c 0 o.lane] }
  if o.op = 1 then
    let d := s.laneDecision x.lanes s.craft.rows c o.lane o.a o.b
    let cap := ((s.laneItem o.lane).map (fun v => leAt v 8 2)).getD 0
    if d = 0 then
      let r : Resv := ⟨c, o.lane, o.a, o.b, min o.speed cap, s.craft.epoch, some o.id⟩
      { sent (grantItem 3 o.lane o.a o.b r.speed) with lanes := s.reserve x.lanes r, granted := x.granted + 1 }
    else
      { x with results := x.results ++ [s.orderFxResult o.id c (if d = 1 then 3 else if d = 2 then 4 else 5) o.lane],
               refused := x.refused + 1 }
  else if o.op = 2 then sent (toLE 1 4 ++ zeros 15)
  else
    { sent (toLE 1 5 ++ zeros 15) with
      lanes := x.lanes.map (fun e => (e.1, e.2.filter (·.craft ≠ c))), rowLane := 0xFFFF }

/-- LANE_CHECK ISSUE (R273). -/
def execLaneIssue (slot : Nat) (s : State) : Host.Outcome State Fault Refusal :=
  s.onLane slot 4 (fun m =>
    let c := m.flow - craftFlow 0
    let row := s.craftRow c
    let due := row.orders.filter (fun o => decide (o.window < s.craftSf))
    let x := due.foldl (s.issueOrder c) ⟨[], [], s.craft.lanes, row.lane, 0, 0⟩
    s.complete slot stOk (.craft c :: s.craftLoads)
      ([.row (.craft c { row with
          orders := row.orders.filter (fun o => !decide (o.window < s.craftSf)), lane := x.rowLane })]
        ++ s.laneWrites x.lanes ++ s.orderFx c x.items ++ x.results ++ countN .CRAFT_GRANT_CNT x.granted
        ++ countN .CRAFT_REFUSE_CNT x.refused))

/-- LANE_CHECK TASK (R273): an ADD reads the table's order, so that one of two that execute together runs again. -/
def execLaneTask (slot : Nat) (s : State) : Host.Outcome State Fault Refusal :=
  s.onLane slot 3 (fun m =>
    let b := m.buf
    let id := leAt b 4 4
    let old := Map.get? s.craft.tasks id
    let loads := .task taskOrder :: s.craft.tasks.map (fun e => RowKey.task e.1)
    if b.length < 20 || leAt b 0 1 = 0 || 3 ≤ leAt b 0 1 then s.complete slot stRejected [] []
    else if leAt b 0 1 = 1 then
      if old.isSome || 65536 ≤ s.craft.tasks.length || 8 ≤ leAt b 1 1 then s.complete slot stRejected loads []
      else
        let top := ((Map.vals s.craft.tasks).map (·.rank)).foldl max 0
        s.complete slot stOk (.task id :: loads) [.row (.task id (some
          ⟨leAt b 1 1, leAt b 2 2, leAt b 8 4, leAt b 12 2, leAt b 14 2, top + 1, none⟩))]
    else
      match old with
      | none => s.complete slot stRejected [.task id] []
      | some t =>
        match t.craft with
        | none => s.complete slot stOk [.task id] [.row (.task id none)]
        | some c =>
          s.complete slot stOk [.task id, .craft c] ([.row (.task id none),
            .row (.craft c { s.craftRow c with allot := 0 })] ++ s.orderFx c [(taskCancelItem id, none)]))

/-- A junction's position in cm. -/
def State.junction (s : State) (j : Nat) : Option (Int × Int) :=
  ((s.items 0xB0 4).find? (fun v => leAt v 0 2 = j)).map (fun v => (leSigned v 4 4, leSigned v 8 4))

/-- A craft's capability (CAP item), 0 where there is none. -/
def State.capability (s : State) (c : Nat) : Nat :=
  (((s.items 0xB0 3).find? (fun v => leAt v 0 1 = c)).map (fun v => leAt v 4 4)).getD 0

/-- The queued tasks in ALLOT's order. -/
def State.queuedTasks (s : State) : List (Nat × Task) :=
  let free := s.craft.tasks.filter (fun e => e.2.craft.isNone)
  (List.range 8).reverse.flatMap (fun p =>
    ((free.filter (fun e => e.2.prio = p)).foldl (fun acc e =>
      let i := (acc.takeWhile (fun x => decide (x.2.rank ≤ e.2.rank))).length
      acc.take i ++ e :: acc.drop i) []))

/-- The craft that a task goes to (R273). -/
def State.bestCraft (s : State) (rows : Map CraftRow) (t : Task) : Option Nat :=
  match s.junction t.from' with
  | none => none
  | some (x, y) =>
    let ok := rows.filter (fun e => e.2.known && !e.2.lost && e.2.allot = 0 && e.2.task = 0 && e.2.fix = 3
      && decide (e.1 < s.craftCount) && (s.capability e.1 &&& t.cap) = t.cap)
    let dist (r : CraftRow) : Nat := (toSigned 32 r.east - x).natAbs ^ 2 + (toSigned 32 r.north - y).natAbs ^ 2
    (ok.foldl (fun (b : Option (Nat × Nat)) e =>
      match b with
      | some (d, c) => if dist e.2 < d then some (dist e.2, e.1) else some (d, c)
      | none => some (dist e.2, e.1)) none).map (·.2)

/-- One task after another, up to `n` allotments (R273). -/
def State.allot (s : State) : Nat → Map CraftRow → List (Nat × Task) → List (Nat × Nat × Task)
  | _, _, [] => []
  | n, rows, (id, t) :: rest =>
    if n = 0 then []
    else
      match s.bestCraft rows t with
      | none => s.allot n rows rest
      | some c => (id, c, t) :: s.allot (n - 1) (Map.upd rows c (fun r => { r with allot := id })) rest

/-- LANE_CHECK ALLOT (R267, R273). -/
def execLaneAllot (slot : Nat) (s : State) : Host.Outcome State Fault Refusal :=
  s.onLane slot 5 (fun _ =>
    if s.craft.allStop || s.fld .CRAFT_CFG2 0 0 15 8 * 10 ≤ s.corrAge then s.complete slot stOk [] []
    else
      let as := s.allot (s.fld .CRAFT_CFG0 0 0 24 21) s.craft.rows s.queuedTasks
      s.complete slot stOk (s.craftKeys ++ .task taskOrder :: s.craft.tasks.map (fun e => RowKey.task e.1))
        (as.flatMap (fun a =>
          [Effect.row (.task a.1 (some { a.2.2 with craft := some a.2.1 })),
            .row (.craft a.2.1 { s.craftRow a.2.1 with allot := a.1 })]
            ++ s.orderFx a.2.1 [(taskItem a.1 a.2.2, none)] ++ [s.noticeFx 4 a.2.1 a.1, countFx .CRAFT_ALLOT_CNT])))

/-! ### The base and corrections (R264-R267) -/

/-- The BASE item. -/
def State.baseItem (s : State) : Option Bytes := s.item? 0xB0 2

/-- The base position is taken (R264). -/
def State.setBase (s : State) (p : List Int) : State :=
  let w : Nat → Nat := fun i => ofSigned 64 (p.getD i 0)
  let s := (s.modCraft (fun c => { c with base := some p })).setFld .CRAFT_STATUS 0 0 4 3 2
  let s := (s.set .CRAFT_BASE_X_LO 0 0 (w 0 % 2 ^ 32)).set .CRAFT_BASE_X_HI 0 0 (w 0 / 2 ^ 32)
  let s := (s.set .CRAFT_BASE_Y_LO 0 0 (w 1 % 2 ^ 32)).set .CRAFT_BASE_Y_HI 0 0 (w 1 / 2 ^ 32)
  let s := (s.set .CRAFT_BASE_Z_LO 0 0 (w 2 % 2 ^ 32)).set .CRAFT_BASE_Z_HI 0 0 (w 2 / 2 ^ 32)
  s.raise .CRAFT_INT 0 4

/-- The plan comes into service with a CRAFT section: FIXED and a kept survey are READY, else the survey runs (R264). -/
def State.baseStart (s : State) : State :=
  match s.baseItem with
  | none => s
  | some v =>
    if leAt v 0 1 = 0 then s.setBase [leSigned v 8 8, leSigned v 16 8, leSigned v 24 8]
    else
      let again := match s.craft.kept with
        | some (k, p) => if k = v then some p else none
        | none => none
      match again with
      | some p => s.setBase p
      | none => s.setFld .CRAFT_STATUS 0 0 4 3 1

/-- The base survey meets survey_s and survey_mm (R264). -/
def execBaseSurveyDone (s : State) : Host.Outcome State Fault Refusal :=
  match s.baseItem with
  | none => .next s
  | some v =>
    let y := s.craft.survey
    if s.fld .CRAFT_STATUS 0 0 4 3 = 1 && decide (max 1 (leAt v 4 4) ≤ y.n) && decide (y.sigma ≤ leAt v 2 2) then
      let p := y.sum.map (fun x => Int.tdiv x y.n)
      .next ((s.setBase p).modCraft (fun c => { c with kept := some (v, p) }))
    else .next s

/-- The GNSS baseband delivers the observations of a TAI second: they reach the RTK_EPOCH manifest through signal FIFO 20,
with N_e (R266, Table 16-5). -/
def execGnssEpochObservations (obs : Bytes) (s : State) : Host.Outcome State Fault Refusal :=
  if obs.isEmpty || s.craft.base.isNone || !s.fnRunning 0x12 || s.widePort.isNone then .next s
  else
    let body := (toLE 4 s.sec ++ toLE 4 (s.craftSfAt (1000000000 * s.sec)) ++ obs).take 4352
    .next (s.fifoPut 20 ⟨kRtkEpoch, 0, s.fld .CRAFT_CFG4 0 0 23 0, none, ⟨4, 59, 0, s.nsec, s.sec, s.quality, 0⟩, body⟩).1

/-- The satellites of a constellation at or above elev_mask, in degrees (R265). -/
def satsAbove (mask sys : Nat) (obs : Bytes) : List Nat :=
  ((Config.obsSats obs sys).filter (fun e => decide (((1000 * mask : Nat) : Int) ≤ e.2))).map (·.1)

/-- The message stream of an epoch (R265): 1005, then the MSM7 of GPS, Galileo and BeiDou, the multiple-message bit set in all but
the last. -/
def rtcmStream (station mask : Nat) (base : List Int) (obs : Bytes) : Bytes :=
  Config.rtcmFrame (Config.rtcm1005 station base)
    ++ [(1077, 0), (1097, 1), (1127, 2)].flatMap (fun e : Nat × Nat =>
      Config.rtcmFrame (Config.rtcmMsm e.1 station (e.1 != 1127) (satsAbove mask e.2 obs) obs))

/-- RTK_EPOCH (R265, R266): while the base is not ready it stages no corrections (R264). -/
def execRtkEpoch (slot : Nat) (s : State) : Host.Outcome State Fault Refusal :=
  s.onKind slot kRtkEpoch (fun m =>
    if m.srcClass = 0 || m.buf.length < 9 then s.complete slot stRejected [] []
    else if s.craft.base.isNone then s.complete slot stOk [] []
    else
      let data := rtcmStream (s.fld .CRAFT_CFG2 0 0 27 16) (s.fld .CRAFT_CFG3 0 0 20 16) (s.craft.base.getD [])
        (m.buf.drop 8)
      let host := match s.item? 0xB0 1 with
        | some v => bit (leAt v 1 1) 1
        | none => false
      s.complete slot stOk [] ([Effect.row (.corr (leAt m.buf 0 4) (leAt m.buf 4 4) data)]
        ++ (if host then [.hostMsg data] else [])))

/-- A committed epoch takes the correction queue (R266). -/
def State.commitCorr (s : State) (epoch ne : Nat) (data : Bytes) : State :=
  let s := if s.craft.corr.isSome then s.count .CRAFT_CORR_DROP_CNT 0 0 1 else s
  s.modCraft (fun c => { c with corr := if data.isEmpty then none else some ⟨epoch, ne, data, 0, 0⟩ })

/-! ### The superframe (R261, R267, R272, R273, R276) -/

/-- A C_BEACON body (Table 9-4). -/
def State.craftBeacon (s : State) (n : Nat) (lastgasp : Bool) : Bytes :=
  let c := s.craft
  let t := ((s.rport (s.widePort.getD 0)).anchor + ((100000000 * n : Nat) : Int)).toNat
  let stop := c.allStop || lastgasp
  toLE 4 n ++ toLE 1 (b2n stop + b2n (decide (4 ≤ s.quality)) * 2 + b2n lastgasp * 4 + b2n c.base.isNone * 8
      + b2n c.suspended * 16)
    ++ toLE 1 c.epoch ++ toLE 2 (if c.slow then s.fld .CRAFT_CFG1 0 0 21 11 else 0xFFFF) ++ toLE 2 s.corrAge
    ++ toLE 4 (t / 1000000000) ++ toLE 2 (t % 1000000000 / 1000000)
    ++ toLE 12 (((List.range 96).map (fun k => if c.acks.contains (n - 1, k) && n != 0 then 2 ^ k else 0)).sum)

/-- The instant `t` µs into the current craft superframe, in ns. -/
def State.craftInstant (s : State) (p t : Nat) : Nat :=
  ((s.rport p).anchor + ((100000000 * s.craftSf + 1000 * t : Nat) : Int)).toNat

/-- The craft port may send: functions 0x12 and 9 + p run and transmission is permitted (R190, R191, R261). -/
def State.craftLive (s : State) (p : Nat) : Bool := s.fnRunning 0x12 && s.fnRunning (9 + p)

/-- Send a wide-mode frame that reaches the antenna at `t`, if duty-cycle accounting allows it; a new frame takes the port's
next seq, and a beacon has 0 (Table 6-2). -/
def State.wideSend (s : State) (p cls t ftype : Nat) (seq : Option Nat) (ack : Option Nat) (body : Bytes) : State × Bool :=
  let q := seq.getD (s.rport p).seq
  let air := wideAirtime body.length
  let r := s.dutySend p (s.bandOfWide p) cls air
  if r.2 then
    ((r.1.transmit p t air (fun a b => ⟨a, b, 0, ftype, q, ack.getD 0, ack.isSome, body⟩)).modPort p (fun x => { x with
      seq := if seq.isNone then radioSeqUp x.seq else x.seq }), true)
  else r

/-- Send a frame of the downlink at `t` µs, noted with what its sender stood at before it. -/
def State.dlSend (s : State) (p t ftype : Nat) (seq : Option Nat) (body : Bytes) (what : DlWhat) : State × Bool :=
  let q := (s.rport p).seq
  let at' := s.craftInstant p t
  let sec := s.radio.dutySec
  let o := s.wideSend p 2 at' ftype seq none body
  if o.2 then
    (o.1.modCraft (fun c => { c with
      dl := c.dl ++ [⟨at' - 1000 * s.fld .RADIO_CFG1 p 0 23 18, wideAirtime body.length, sec, q, what⟩] }), true)
  else o

/-- The effects of corr_age at a superframe start (R267). -/
def State.judgeAge (s : State) : State :=
  let age := s.corrAge
  let slow := decide (s.fld .CRAFT_CFG2 0 0 7 0 * 10 ≤ age)
  let sus := decide (s.fld .CRAFT_CFG2 0 0 15 8 * 10 ≤ age)
  let s := if slow && !s.craft.slow then s.raise .CRAFT_INT 0 2 else s
  let s := if sus && !s.craft.suspended then s.raise .CRAFT_INT 0 3 else s
  s.modCraft (fun c => { c with slow := c.slow || slow, suspended := c.suspended || sus })

/-- The manifests of a superframe boundary: ISSUE for crafts with pending orders of a closed window, and ALLOT at every
tenth (Table 9-7, R21). -/
def State.craftManifests (s : State) (p n : Nat) : State :=
  let due := s.craft.rows.filter (fun e => e.2.orders.any (fun o => decide (o.window < n))
    && !s.allManifests.any (fun m => m.kind = kLaneCheck && m.kindArg % 16 = 4 && m.flow = craftFlow e.1))
  let s := due.foldl (fun s e => s.make kLaneCheck 4 (craftFlow e.1) 2 (p * 16) none []) s
  if n % 10 = 0 && decide (s.quality ≤ 6) then
    s.make kLaneCheck 5 (s.fld .CRAFT_CFG4 0 0 23 0 + 1) 4 58 none []
  else s

/-- A craft superframe starts: start of the superframes, then beacon, ISSUE and ALLOT (R261). -/
def execCraftSuperframeStart (s : State) : Host.Outcome State Fault Refusal :=
  match s.widePort with
  | none => .next s
  | some p =>
    let n := s.craftSf
    let live := s.craftLive p
    let start := s.loader = 6 && s.fnRunning 0x12 && decide (s.quality ≤ 6) && s.txAllowed && !s.pwrfail
    if !(s.rport p).running && !start || s.pwrfail then .next s
    else
      let s := if (s.rport p).running then s
        else ((s.modPort p (fun x => { x with running := true, skips := 0 })).modCraft (fun c =>
          { c with firstSf := some n })).raise .RADIO_INT p 6
      let s := if start then s.modCraft (fun c => { c with reset := false }) else s
      let s := (s.set .RADIO_SUPERFRAME p 0 n).judgeAge
      let s := s.modCraft (fun c => { c with acks := c.acks.filter (fun a => decide (n ≤ a.1 + 1)) })
      let s := s.modPort p (fun x => { x with txNow := [] })
      let r := if live && s.txAllowed then s.wideSend p 0 (s.craftInstant p 100) 8 (some 0) none (s.craftBeacon n false)
        else (s, false)
      let s := (r.1.noteBeacon p r.2 (s.craft.firstSf != some n)).stopEval
      .next (if s.fnRunning 0x12 then s.craftManifests p n else s)

/-- Frames of a downlink one after another: the time used so far in µs, and what is sent (R261, R274). -/
def State.sendQueue (s : State) (p : Nat) : Nat → List CraftTx → State × List CraftTx
  | _, [] => (s, [])
  | t, x :: rest =>
    if !x.ack && 3 ≤ x.sends then (s.dropOrder x).sendQueue p t rest
    else
      let a := wideAirtime x.body.length
      if 18000 < t + a then
        let r := s.sendQueue p t rest
        (r.1, x :: r.2)
      else
        let q := (s.rport p).seq
        let o := s.dlSend p t (if x.ack then 0xE else 0xB) x.seq x.body (.cell x)
        let r := o.1.sendQueue p (if o.2 then t + a + 40 else t) rest
        if !o.2 then (r.1, x :: r.2)
        else if x.ack then r
        else (r.1, { x with seq := some (x.seq.getD q), sends := x.sends + 1 } :: r.2)

/-- The next correction fragment goes out, while the base is ready (R264, R266). -/
def State.sendCorr (s : State) (p t : Nat) : State × Nat :=
  match if s.craft.base.isSome then s.craft.corr else none with
  | none => (s, t)
  | some k =>
    let c := s.craft
    let d := slice k.data k.sent (max 1 (s.fld .CRAFT_CFG1 0 0 10 0))
    let last := decide (k.data.length ≤ k.sent + d.length)
    let body := toLE 4 k.epoch ++ toLE 1 k.frag ++ toLE 1 (b2n last) ++ toLE 2 d.length ++ d
    let a := wideAirtime body.length
    if 18000 < t + a then (s, t)
    else
      let o := s.dlSend p t 0xA none body (.corr k c.lastNe c.slow c.suspended)
      if !o.2 then (o.1, t)
      else if last then
        ((o.1.modCraft (fun c => { c with corr := none, lastNe := some k.ne, slow := false, suspended := false })).count
          .CRAFT_CORR_SENT_CNT 0 0 1, t + a + 40)
      else
        (o.1.modCraft (fun c => { c with corr := some { k with sent := k.sent + d.length, frag := k.frag + 1 } }),
          t + a + 40)

/-- A C_STOP body (Table 9-3). -/
def State.stopBody (s : State) : Bytes :=
  toLE 4 s.craftSf ++ toLE 1 s.craft.epoch ++ toLE 1 s.stopSources ++ zeros 2

/-- Send a C_STOP at `t`, counted. -/
def State.sendStop (s : State) (p t : Nat) : State × Bool :=
  let o := s.wideSend p 1 t 9 none none s.stopBody
  (if o.2 then o.1.count .CRAFT_STOP_FRAME_CNT 0 0 1 else o.1, o.2)

/-- At 2 ms of a superframe: C_STOP, one correction fragment, then C_ORDER and C_ACK in commit order (R261). -/
def execCraftDownlink (s : State) : Host.Outcome State Fault Refusal :=
  match s.widePort with
  | none => .next s
  | some p =>
    if !(s.rport p).running || !s.craftLive p || !s.txAllowed || s.pwrfail then .next s
    else
      let s := (s.modPort p (fun x => { x with txNow := [] })).modCraft (fun c => { c with dl := [] })
      let a := if s.craft.allStop then s.sendStop p (s.craftInstant p 2000) else (s, false)
      let b := a.1.sendCorr p (if a.2 then 2000 + wideAirtime 8 + 40 else 2000)
      let r := b.1.sendQueue p b.2 b.1.craft.queue
      .next (r.1.modCraft (fun c => { c with queue := r.2 ++ c.queue.drop b.1.craft.queue.length, dlSf := some s.craftSf }))

/-- Take airtime out of a second of a sub-band's account. -/
def State.uncharge (s : State) (b sec t : Nat) : State :=
  s.modRadio (fun r => { r with duty := updAt r.duty b (fun d =>
    { d with secs := d.secs.map (fun x => if x.sec = sec then { x with g := x.g - t } else x) }) })

/-- A frame of the downlink that has not begun is withdrawn: its sender stands as before it. A newer epoch in the correction queue
stays (R266). -/
def State.withdraw (s : State) (p : Nat) (f : DlFrame) : State :=
  let s := match s.bandOfWide p with
    | some b => s.uncharge b f.sec f.air
    | none => s
  let s := s.modPort p (fun x => { x with
    seq := f.seq, bursts := x.bursts.filter (fun e => e.1 != f.start) })
  match f.what with
  | .stop => s
  | .cell x => s.modCraft (fun c => { c with
      queue := if x.ack then x :: c.queue
        else match findIdx? (fun (y : CraftTx) => y.craft = x.craft && !y.ack && y.seq = some (x.seq.getD f.seq)) c.queue with
          | some i => c.queue.set i x
          | none => x :: c.queue })
  | .corr k ne slow sus =>
    let whole := s.craft.lastNe = some k.ne && ne != some k.ne
    let s := if whole then s.set .CRAFT_CORR_SENT_CNT 0 0 (s.get .CRAFT_CORR_SENT_CNT 0 0 - 1) else s
    s.modCraft (fun c =>
      let c := { c with lastNe := ne, slow := slow, suspended := sus }
      match c.corr with
      | some y => if y.epoch = k.epoch then { c with corr := some k } else c
      | none => { c with corr := some k })

/-- The frames of the downlink that have not begun are withdrawn, the last first (R277, R280). -/
def State.withdrawRest (s : State) (p : Nat) : State :=
  let now := s.time.ns
  let late := s.craft.dl.filter (fun f => decide (now < f.start))
  (late.reverse.foldl (fun s f => s.withdraw p f) s).modCraft (fun c => { c with
    dl := c.dl.filter (fun f => decide (f.start ≤ now)) })

/-- All-stop has become active within a downlink: a C_STOP follows the frame in progress when it ends by 18,000 µs, and the frames
after it go out behind it as before (R261, R277). -/
def State.stopInDownlink (old s : State) : State :=
  match s.widePort with
  | none => s
  | some p =>
    if old.craft.allStop || !s.craft.allStop || s.craft.dlSf != some s.craftSf || !(s.rport p).running || !s.craftLive p
        || !s.txAllowed || s.pwrfail then s
    else
      let rf := 1000 * s.fld .RADIO_CFG1 p 0 23 18
      let gone := s.craft.dl.filter (fun f => decide (f.start ≤ s.time.ns))
      let free := (gone.map (fun f => f.start + 1000 * f.air + rf + 40000)).foldl max (s.time.ns + rf)
      if s.craftInstant p 18000 < free + 1000 * wideAirtime 8 then s
      else
        let s := s.withdrawRest p
        let a := (s.modPort p (fun x => { x with txNow := [] })).sendStop p free
        let t := ceilDiv (free - s.craftInstant p 0) 1000 + wideAirtime 8 + 40
        let b := if gone.any (fun f => match f.what with
            | .corr _ _ _ _ => true
            | _ => false) then (a.1, t) else a.1.sendCorr p t
        let sent (x : CraftTx) : Bool := gone.any (fun f => match f.what with
          | .cell y => !x.ack && x.craft = y.craft && x.seq = some (y.seq.getD f.seq)
          | _ => false)
        let q := b.1.craft.queue
        let r := b.1.sendQueue p b.2 (q.filter (fun x => !sent x))
        r.1.modCraft (fun c => { c with queue := q.filter sent ++ r.2 ++ c.queue.drop q.length })

/-- STOP_IN_N has been low, or high, for 20 µs (Table 9-8). -/
def execStopInChange (low : Bool) (s : State) : Host.Outcome State Fault Refusal :=
  .next (State.stopInDownlink s (s.modCraft (fun c => { c with stopIn := low })).stopEval)

/-- STOP_CMD.stop. -/
def execStopCmdStop (s : State) : Host.Outcome State Fault Refusal :=
  if s.hostHeld then .next s else
  .next (State.stopInDownlink s (s.modCraft (fun c => { c with host := true })).stopEval)

/-! ### Uplinks (R262, R274) -/

/-- A craft acknowledges a C_ORDER: its host orders report DELIVERED (R274). -/
def State.craftAcked (s : State) (c seq : Nat) : State :=
  match s.craft.queue.find? (fun x => x.craft = c && !x.ack && x.seq = some seq) with
  | none => s
  | some x =>
    x.orders.foldl (fun s o => s.orderReport o.1 c 1 o.2) (s.modCraft (fun k => { k with queue := k.queue.erase x }))

/-- A wide frame's length fits its type, which is not reserved (R167, R263, Table 9-3). -/
def wideFormed (corrMax : Nat) (rx : RadioHeard) : Bool :=
  let n := rx.body.length
  match rx.ftype with
  | 0x8 => n = 28
  | 0x9 | 0xD => n = 8
  | 0xA => decide (9 ≤ n) && decide (n ≤ 8 + corrMax)
  | 0xB => n % 16 = 4 && decide (20 ≤ n) && decide (n ≤ 132)
  | 0xC => n = 44
  | 0xE => n = 4
  | _ => false

/-- A craft frame reaches the port: only type `ftype` goes further (R167, R262). -/
def State.craftFrame (s : State) (rx : RadioRx) (ftype : Nat) : State × Option (Nat × RadioHeard) :=
  match s.widePort with
  | none => (s, none)
  | some p =>
    if !(s.rport p).running then (s, none)
    else
      match s.radioHear p rx with
      | (s, none) => (s, none)
      | (s, some h) =>
        if !wideFormed (s.fld .CRAFT_CFG1 0 0 10 0) h then (s, none)
        else if h.ftype != ftype then (s.unslotted p, none)
        else (s, some (p, h))

/-- The arrival of a craft frame. -/
def State.craftArrival (s : State) (p : Nat) (rx : RadioHeard) : Arrival :=
  ⟨2, p * 16, 0, rx.t % 1000000000, rx.t / 1000000000, s.quality, 0⟩

/-- A frame received in uplink slot k (R262, Table 9-2). Its packet carries the body and the superframe number. -/
def execCStatusReceived (k : Nat) (rx : RadioRx) (s : State) : Host.Outcome State Fault Refusal :=
  match s.craftFrame rx 0xC with
  | (s, none) => .next s
  | (s, some (p, rx)) =>
    let n := s.craftSfAt rx.t
    let at' : Int := ((rx.t : Int) - (s.rport p).anchor) - ((100000000 * n + 18000000 + 800000 * k : Nat) : Int)
    if leAt rx.body 0 1 != k || s.craftCount ≤ k || at' < 30000 || 70000 < at' || !s.fnRunning (9 + p) then
      .next (s.unslotted p)
    else
      let s := (s.count .CRAFT_STATUS_CNT 0 0 1).modCraft (fun c => { c with
        heard := Map.put c.heard k n
        acks := if c.acks.contains (n, k) then c.acks else (n, k) :: c.acks })
      let s := if rx.ackValid then s.craftAcked k rx.ackSeq else s
      .next (s.fifoPut (9 + 2 * p) ⟨kLaneCheck, 1, craftFlow k, none, s.craftArrival p rx, rx.body ++ toLE 4 n⟩).1

/-- A frame received in the guard: a C_ALARM is acknowledged and makes an ALARM manifest (R262, R281); one of an invalid craft
index is ignored (R4; assumption 55). -/
def execCAlarmReceived (rx : RadioRx) (s : State) : Host.Outcome State Fault Refusal :=
  match s.craftFrame rx 0xD with
  | (s, none) => .next s
  | (s, some (p, rx)) =>
    let c := leAt rx.body 0 1
    let at' : Int := ((rx.t : Int) - (s.rport p).anchor) % 100000000
    if at' < 94800000 || !s.fnRunning (9 + p) then .next (s.unslotted p)
    else if 96 ≤ c then .next s else
    let s := (s.count .CRAFT_ALARM_CNT 0 0 1).raise .CRAFT_INT 0 6
    let s := (s.fifoPut (9 + 2 * p) ⟨kAlarm, 0, craftFlow c, none, s.craftArrival p rx, rx.body⟩).1
    let ack := toLE 1 c ++ zeros 3
    if !s.craftLive p || !s.txAllowed || s.pwrfail then .next s
    else
      let o := (s.modPort p (fun x => { x with txNow := [] })).wideSend p 2 (rx.t + 1230000) 0xE none (some rx.seq) ack
      .next (if o.2 then o.1
        else o.1.modCraft (fun k => { k with queue := k.queue ++ [⟨c, true, none, 0, ack, []⟩] }))

/-- The superframe of a craft's last accepted C_STATUS: as heard since the reset, else as the row kept over it says. -/
def State.lastStatus (s : State) (c : Nat) : Option Nat :=
  match Map.get? s.craft.heard c with
  | some n => some n
  | none => if (s.craftRow c).known then some (s.craftRow c).lastHeard else none

/-- A craft with no accepted C_STATUS for lost_sf superframes: the port makes a STATUS manifest with an empty body
(R272). -/
def execCraftLost (craft : Nat) (s : State) : Host.Outcome State Fault Refusal :=
  match s.widePort, s.lastStatus craft with
  | some p, some n =>
    if s.fld .CRAFT_CFG0 0 0 20 13 ≤ s.sfSince n && !(s.craftRow craft).lost
        && !s.allManifests.any (fun m => m.kind = kLaneCheck && m.kindArg % 16 = 1 && m.flow = craftFlow craft
          && m.buf.isEmpty) then
      .next (s.make kLaneCheck 1 (craftFlow craft) 2 (p * 16) none [])
    else .next s
  | _, _ => .next s

/-! ### Q_CMD, configuration and deltas (R280, R282, R283) -/

/-- CRAFT.Q_CMD (Table 9-15). -/
def execCraftQuery (val : Word) (s : State) : Host.Outcome State Fault Refusal :=
  if s.hostHeld then .next s else
  let v := val.toNat
  let c := bits v 6 0
  if !bit v 31 then .next s
  else if s.craftCount ≤ c then .next (s.set .CRAFT_Q_STATUS 0 0 4)
  else
    let r := s.craftRow c
    let st := if !r.known then 0 else if r.lost then 3 else if r.allot != 0 then 2 else 1
    let held := ((s.craft.lanes.flatMap (·.2)).filter (fun x => x.craft = c && s.counts x)).length
    let ws := [st + r.fix * 2 ^ 2 + r.lane % 2 ^ 14 * 2 ^ 4 + r.flags % 4 * 2 ^ 18, r.east, r.north,
      r.speed + r.heading * 2 ^ 16, if r.allot = 0 then r.task else r.allot, r.lastHeard, s.capability c, min 15 held]
    .next (((List.range 8).foldl (fun s i => s.set .CRAFT_Q_DATA i 0 (ws.getD i 0)) s).set .CRAFT_Q_STATUS 0 0 2)

/-- The settings of the CFG item, shown in CRAFT.CFG0-4 (Tables 9-10 and 9-14). -/
def State.craftConfig (s : State) : State :=
  let i (o n d : Nat) : Nat := s.itemLE 0xB0 1 o n d
  let s := s.set .CRAFT_CFG0 0 0 (i 2 1 96 % 2 ^ 7 + i 3 1 5 % 2 ^ 6 * 2 ^ 7 + i 4 1 30 * 2 ^ 13 + i 5 1 8 % 2 ^ 4 * 2 ^ 21)
  let s := s.set .CRAFT_CFG1 0 0 (i 8 2 400 % 2 ^ 11 + i 10 2 100 % 2 ^ 11 * 2 ^ 11)
  let s := s.set .CRAFT_CFG2 0 0 (i 6 1 10 + i 7 1 30 * 2 ^ 8 + i 16 2 0 % 2 ^ 12 * 2 ^ 16)
  let s := s.set .CRAFT_CFG3 0 0 (i 19 2 3000 + i 18 1 10 % 2 ^ 5 * 2 ^ 16)
  s.set .CRAFT_CFG4 0 0 (i 12 4 0x440000 % 2 ^ 24)

/-- The BASE item changed, or the section is new: the base is taken again (R264), and a new section's superframes have not
run since the reset (Table 9-8). -/
def State.craftRestart (old : State) (s : State) : State :=
  let s := if s.baseItem = old.baseItem then s
    else ((s.modCraft (fun c => { c with base := none, survey := ⟨0, [0, 0, 0], [0, 0, 0]⟩ })).setFld
      .CRAFT_STATUS 0 0 4 3 0).baseStart
  if !old.hasSection 0xB0 && s.craft.firstSf.isNone then (s.modCraft (fun c => { c with reset := true })).stopEval else s

/-- A CRAFT delta has been applied: reservations on lanes it removes or alters end CANCELLED, and tasks that name removed
junctions are cancelled (Table 9-9). -/
def State.craftDelta (old : State) (s : State) : State :=
  let s := State.craftRestart old s
  let bad (l : Nat) : Bool := s.laneItem l != old.laneItem l
  let gone := s.craft.lanes.flatMap (fun e => if bad e.1 then e.2.filter s.counts else [])
  let s := gone.foldl (fun s r => match r.order with
    | some id => s.orderReport id r.craft 6 r.lane
    | none => s) s
  let s := s.modCraft (fun c => { c with lanes := Map.keep c.lanes (fun l _ => !bad l) })
  let removed (j : Nat) : Bool := (old.junction j).isSome && (s.junction j).isNone
  let dead := s.craft.tasks.filter (fun e => removed e.2.from' || removed e.2.dest)
  dead.foldl (fun s e =>
    let s := s.modCraft (fun c => { c with tasks := Map.del c.tasks e.1 })
    match e.2.craft with
    | none => s
    | some k =>
      (s.modCraft (fun c => { c with rows := Map.upd c.rows k (fun r => { r with allot := 0 }) })).craftQueue k
        (toLE 1 k ++ toLE 1 s.craft.epoch ++ toLE 1 1 ++ [0] ++ taskCancelItem e.1) []) s

end Sys2Proof.Machine
end

