-- ==== Sys2Proof/Machine/Fleet.lean ====
section
/-!
DEFINITION. The Harbourmaster's own events: dispatch, tug failures and self-tests, function enables and drains, the
dead-letter berth, doorbells, admission, and the two-step staging kinds (chapters 3, 4 and 16).
-/
namespace Sys2Proof.Machine

/-! ### Tugs (R65, R76-R79) -/

/-- A tug becomes idle and takes work (R65); a manifest that comes to the head with no dock left is handled at once (R67). -/
def execTugDispatch (tug : Nat) (s : State) : Host.Outcome State Fault Refusal :=
  .next (s.dispatch tug).poisonHeads

/-- A tug's watchdog fires while it executes a manifest (R76). -/
def execTugWatchdogExpire (tug : Nat) (s : State) : Host.Outcome State Fault Refusal :=
  match s.slotOfTug tug with
  | some _ => .next (s.tugFails tug 3)
  | none => .next s

/-- A tug meets an uncorrectable ECC error: cause 1 its local store, 2 its dock's memory, whose line is retired (R76,
R78). -/
def execTugFailure (tug cause : Nat) (s : State) : Host.Outcome State Fault Refusal :=
  if decide (tug < 256) && (cause = 1 || cause = 2) then
    let s := s.tugFails tug cause
    .next (if cause = 2 then s.retireLine (tug / 16) else s)
  else .next s

/-- The tug under a commanded self-test: the head of the queue. -/
def State.testing (s : State) : Option Nat := s.hm.testQueue.head?

/-- TUG.SELFTEST_CMD (R79, Table 3-18). In FAILED too: the test runs on a fenced tug, which executes nothing (assumption 50). -/
def execTugSelftestCmd (val : Word) (s : State) : Host.Outcome State Fault Refusal :=
  if s.hostHeld then .next s else
  let v := val.toNat
  let want := if bit v 8 then (List.range 256).filter s.tugFenced
    else if s.tugFenced (bits v 7 0) then [bits v 7 0] else []
  if s.testing.isSome || want.isEmpty then .next s
  else .next ((s.modHm (fun h => { h with testQueue := want })).setFlag .TUG_FLEET_STATUS 0 0 18 true)

/-- A commanded self-test ends (R79): a tug that passes returns to service, where a fenced dock still gets no manifest (R56;
assumption 51); one that fails is reported like every failure of a tug (R76 steps 4 to 6). -/
def execTugSelftestDone (pass : Bool) (s : State) : Host.Outcome State Fault Refusal :=
  match s.hm.testQueue with
  | [] => .next s
  | t :: rest =>
    let s := s.modHm (fun h => { h with testQueue := rest })
    let s := s.set .TUG_SELFTEST_RESULT 0 0 (t + (if pass then 1 else 2) * 2 ^ 8)
    let s := s.setFlag .TUG_FLEET_STATUS 0 0 18 (!rest.isEmpty)
    if pass then
      let s := s.setFlag .TUG_FENCED (t / 32) 0 (t % 32) false
      let s := s.setFld .TUG_FLEET_STATUS 0 0 8 0 (s.fld .TUG_FLEET_STATUS 0 0 8 0 + 1)
      .next (s.setFld .TUG_FLEET_STATUS 0 0 17 9 (s.fld .TUG_FLEET_STATUS 0 0 17 9 - 1))
    else .next (((s.set .TUG_FAIL_LAST 0 0 (t + 4 * 2 ^ 8)).raise .HM_INT 0 0).event 0x0201 t 4)

/-! ### The dead-letter berth (R63) -/

/-- HM.DL_POP. -/
def execDlPop (s : State) : Host.Outcome State Fault Refusal :=
  if s.hostHeld then .next s else
  .next (s.modHm (fun h => { h with dead := h.dead.drop 1 }))

/-! ### Functions (R81-R83) -/

/-- Abandoning host manifests ends the unissued commands with CANCELLED, each result as a HOST_MSG manifest (R116). -/
def State.endUnissued (s : State) : State :=
  s.ep.recs.foldl (fun s e =>
    let ps := e.2.pend.filterMap id
    if ps.isEmpty then s
    else
      ps.foldl (fun s p =>
        s.make kHostMsg 0 e.1 5 kCommand (some e.1) (resultBody p.cmdId e.1 6 0))
        (s.writeRec e.1 { e.2 with pend := [none, none, none, none] })) s

/-- Convert a function to ABANDONING (R82, R116). -/
def State.abandonFn (s : State) (f : Nat) : State :=
  let s := s.abandon f
  if f = 0 then s.endUnissued else s

/-- Disable a function, whatever asks for it (R32, R82): where the drain policy abandons host manifests, their unissued commands
end too (R116). -/
def State.disableFn (s : State) (f : Nat) : State :=
  let t := s.disable f
  if t.fnState f = 3 && s.fnState f != 3 && f = 0 then t.endUnissued else t

/-- A write of 0 to a function's enable (R82); ignored while the loader holds the function (R51). -/
def execFunctionDisable (fn : Nat) (s : State) : Host.Outcome State Fault Refusal :=
  if s.hostHeld then .next s else
  .next (if s.hm.held.contains fn then s else s.disableFn fn)

/-- A write of 1 to abandon_now, accepted during BUSY_DRAIN only (R83). -/
def execAbandonNow (fn : Nat) (s : State) : Host.Outcome State Fault Refusal :=
  if s.hostHeld then .next s else
  if s.fnState fn = 2 then .next ((s.setFlag .HM_FUNC_CTL fn 0 2 true).abandonFn fn) else .next s

/-- A drain still has manifests when timeout ms have passed since the disable (R82). -/
def execDrainTimeout (fn : Nat) (s : State) : Host.Outcome State Fault Refusal :=
  if s.fnState fn = 2 && s.fnLoad fn != 0
      && decide (Map.getD s.hm.drainAt fn 0 + 1000000 * s.fld .HM_FUNC_CTL fn 0 31 16 ≤ s.time.ns) then
    .next (((s.abandonFn fn).raise .HM_INT 0 4).event 0x0206 fn (s.fnLoad fn))
  else .next s

/-! ### Doorbells (R62, R64, R410, R411) -/

/-- The endpoint-bound kinds of R64 (R104). -/
def endpointBound (k : Nat) : Bool :=
  [kFrameIn, kOpen, kReplay, kVee, kTariff, kProfile, kCommand, kRejoin].contains k

/-- Reserved bits of a manifest's words are 0 (R58, Table 3-3). -/
def reservedClear (w : List Nat) : Bool :=
  bits (w.getD 1 0) 31 28 = 0 && bits (w.getD 6 0) 31 31 = 0

/-- A host manifest that R64 refuses. -/
def State.hostRefused (s : State) (n : Nat) (w : List Nat) (m : Manifest) : Bool :=
  !s.flag .HM_BERTH_CFG n 0 30 || !reservedClear w || budgetOf m.kind = 0 || (endpointBound m.kind && !m.epxValid)
    || (m.flow = noFlow && s.flag .HM_BERTH_CFG n 0 29)
    || !(List.range 16).any (fun d => s.flag .TUG_DOCK_CFG d 0 0 && s.dockServes d m.kind)

/-- The reason for which a doorbell manifest is not accepted, 0 when it is (Table 16-3). -/
def State.ringReason (s : State) (n : Nat) (ok : Bool) (w : List Nat) (m : Manifest) : Nat :=
  if !ok then 4
  else if n != 4095 && (s.pwrfail || !s.berthOpen n) then 2
  else if n = 4095 || s.hostRefused n w m then 3
  else if s.berthCap n ≤ (s.berth n).depth then 1
  else if s.stageRoom < s.stageUsed + 256 * (s.hm.slots.map (·.2.ddrPages)).sum + m.length then 5
  else 0

/-- End a ring: the reason, and busy clear. A manifest turned away from a full or closed berth counts there (R62, R87, Tables
3-11 and 3-16). -/
def State.endRing (s : State) (n reason : Nat) : State :=
  let s := if (reason = 1 || reason = 2) && decide (n < 4095) then s.countRefused n else s
  let s := s.modHost (fun h => { h with rings410 := Map.del h.rings410 n })
  (s.setFld .BAR2_DB_STATUS n 0 11 8 reason).setFlag .BAR2_DB_STATUS n 0 31 false

/-- A DB_COUNT write (R410). -/
def execDoorbellRing (berth count : Nat) (s : State) : Host.Outcome State Fault Refusal :=
  if s.hostHeld then .next s else
  if decide (berth < 4096) && decide (1 ≤ count) && decide (count ≤ 64) && !s.flag .BAR2_DB_STATUS berth 0 31 then
    .next ((s.modHost (fun h => { h with rings410 := Map.put h.rings410 berth count })).set .BAR2_DB_STATUS berth 0
      (2 ^ 31))
  else .next s

/-- The next manifest of a ring, as fetched with its host buffer; `ok` is 0 when the fetch aborts (R410, R411). Fetches wait while the link
is down or Bus Master Enable is 0 (R408). -/
def execDoorbellEntry (berth : Nat) (ok : Bool) (man buf : Bytes) (s : State) : Host.Outcome State Fault Refusal :=
  match Map.get? s.host.rings410 berth with
  | none => .next s
  | some left =>
    let w := (List.range 8).map (fun i => leAt man (4 * i) 4)
    let m0 := Manifest.ofWords w []
    let r := s.ringReason berth ok w m0
    if !(s.host.linkUp && s.host.busMaster) then .next s
    else if r != 0 then .next (s.endRing berth r)
    else
      let p := s.fresh
      let m := { m0 with srcClass := 0, srcIndex := berth % 1024, payload := p.1, buf := fit m0.length buf }
      let s := p.2.enterBerth berth m
      let s := s.setFld .BAR2_DB_STATUS berth 0 6 0 (s.fld .BAR2_DB_STATUS berth 0 6 0 + 1)
      if left ≤ 1 then .next (s.endRing berth 0)
      else .next (s.modHost (fun h => { h with rings410 := Map.put h.rings410 berth (left - 1) }))

/-! ### Signal FIFOs, admission and back-pressure (R117, R118, R421) -/

/-- A hardware channel takes a packet of a signal FIFO (R421). -/
def execDmaFifoPacket (fifo : Nat) (s : State) : Host.Outcome State Fault Refusal := .next (s.takePacket fifo)

/-- Manifests in flight and queued at every level, the dead-letter berth's entries among them (R117, Table 3-16). -/
def State.load (s : State) : Nat := s.hm.slots.length + (s.hm.berths.map (fun e => e.2.depth)).sum + s.hm.dead.length

/-- The admission level moves by at most one (R117). -/
def execAdmissionUpdate (s : State) : Host.Outcome State Fault Refusal :=
  let q := s.load
  let a := s.ep.level
  let a' :=
    if s.fld .EP_ADMIT_CFG 0 0 15 0 * 1024 ≤ q && a < s.fld .EP_ADMIT_CFG2 0 0 2 0 then a + 1
    else if q ≤ s.fld .EP_ADMIT_CFG 0 0 31 16 * 1024 && 0 < a then a - 1 else a
  if a' = a then .next s else .next ((s.modEp (fun e => { e with level := a' })).raise .EP_INT 0 0)

/-- bp_hold ms pass since the last shed or refusal on a source (R118). -/
def execBackpressureHoldEnd (cls idx : Nat) (s : State) : Host.Outcome State Fault Refusal :=
  match Map.get? s.ep.bp (1024 * cls + idx) with
  | none => .next s
  | some t =>
    if t + 1000000 * s.fld .EP_ADMIT_CFG2 0 0 15 8 ≤ s.time.ns then
      .next (s.modEp (fun e => { e with bp := Map.del e.bp (1024 * cls + idx) }))
    else .next s

/-- EP.RD_CMD: one committed snapshot of a record (R121); bytes that DDR-5 cannot give are free (assumption 2). -/
def execEndpointRecordRead (val : Word) (s : State) : Host.Outcome State Fault Refusal :=
  if s.hostHeld then .next s else
  if bit val.toNat 31 then
    let epx := bits val.toNat 21 0
    let b := if s.recGone epx then Config.reportBody s.free else (s.record epx).bytes s.upd.recFormat
    let s : State := if s.recGone epx then { s with free := s.free + 1 } else s
    let s := (List.range 64).foldl (fun s n => s.set .EP_RD_DATA n 0 (leAt b (4 * n) 4)) s
    .next (s.set .EP_RD_STATUS 0 0 2)
  else .next s

/-! ### TELEMETRY, SCRUB_REPORT and LOG_SNAP (R28, R30, R381) -/

/-- TELEMETRY stages a host message whose content the spec does not give (assumption 2). -/
def execTelemetry (slot : Nat) (s : State) : Host.Outcome State Fault Refusal :=
  s.onKind slot kTelemetry (fun _ =>
    let f := s.fresh
    f.2.complete slot stOk [] [.hostMsg ((Config.reportBody s.free).take 4096)])

/-- SCRUB_REPORT stages a host message whose content the spec does not give (assumption 2). -/
def execScrubReport (slot : Nat) (s : State) : Host.Outcome State Fault Refusal :=
  s.onKind slot kScrubReport (fun _ =>
    let f := s.fresh
    f.2.complete slot stOk [] [.hostMsg ((Config.reportBody s.free).take 4096)])

/-- LOG_SNAP stages a Logbook record with the list its kind_arg names (R381, Table 14-2). -/
def execLogSnap (slot : Nat) (s : State) : Host.Outcome State Fault Refusal :=
  s.onKind slot kLogSnap (fun m =>
    s.complete slot stOk [] [.log 0x1302 (m.kindArg % 32) m.srcIndex (some (m.kindArg % 32))])

end Sys2Proof.Machine
end

