-- ==== Sys2Proof/Machine/Panel.lean ====
section
/-!
DEFINITION. The bistable panel (chapter 17): frames, runs, compensation, bands, blinking, the readout and power.
-/
namespace Sys2Proof.Machine

/-! ### Waveforms and bands (R429, R433) -/

/-- Frame entries of a waveform; old and new as 0 or 1. -/
def State.wave (s : State) (old new band : Nat) : List Nat :=
  match (s.items 0x120 3).find? (fun v => leAt v 0 1 = old && leAt v 1 1 = new && leAt v 2 1 = band) with
  | some v => (List.range (leAt v 3 1)).map (fun k => leAt v (4 + 2 * k) 2)
  | none => []

/-- COMP of a band: pos entry, neg entry, idle_delta. -/
def State.compEntry (s : State) (band : Nat) : Nat × Nat × Int :=
  match (s.items 0x120 4).find? (fun v => leAt v 0 1 = band) with
  | some v => (leAt v 2 2, leAt v 4 2, leSigned v 6 1)
  | none => (0, 0, 0)

/-- delta of a frame entry (Table 17-2). -/
def entryDelta (e : Nat) : Int := toSigned 8 (bits e 13 6)

/-- The panel temperature in 0.01 °C (R433). -/
def State.panelTemp (s : State) : Int :=
  if s.flag .PANEL_CFG1 0 0 24 then toSigned 16 (s.get .PANEL_TEMP_HOST 0 0)
  else toSigned 32 (s.get .CUSTOMS_TEMP 0 0) + toSigned 16 (s.fld .PANEL_CFG2 0 0 27 12)

/-- Thresholds that a temperature has reached. -/
def State.reached (s : State) (t : Int) : Nat :=
  ((List.range 7).filter (fun k => decide (toSigned 16 (s.get .PANEL_BAND_T k 0) ≤ t))).length

/-- The band after a reading: it moves only when a threshold is passed by 1 °C (R433). -/
def State.bandAt (s : State) (t : Int) : Nat :=
  let b := s.panel.band
  if !s.panel.bandKnown then s.reached t
  else if b < s.reached (t - 100) then s.reached (t - 100)
  else if s.reached (t + 99) < b then s.reached (t + 99) else b

/-- Read the band at a frame boundary. -/
def State.readBand (s : State) : State :=
  let t := s.panelTemp
  (s.modPanel (fun p => { p with band := s.bandAt t, bandKnown := true })).set .PANEL_TEMP_USED 0 0
    (ofSigned 16 (satSigned 16 t))

/-! ### Segments and accounts (R426, R431) -/

/-- The segments that exist: common below com_count, line below seg_count. -/
def State.segs (s : State) : List Nat :=
  (List.range 512).filter (fun n => decide (n / 64 < s.fld .PANEL_CFG0 0 0 3 0) && decide (n % 64 < s.fld .PANEL_CFG0 0 0 10 4))

/-- The image mask of every segment that exists. -/
def State.segMask (s : State) : Nat := (s.segs.map (2 ^ ·)).sum

/-- Segments whose account lies outside ±bal_tol (R432). -/
def State.outside (s : State) : List Nat :=
  s.segs.filter (fun n => decide (s.fld .PANEL_CFG1 0 0 15 0 < (Map.getD s.panel.accounts n 0).natAbs))

/-- Change every account by its charge, saturating at ±32,767 (R431); saturation is reported (R440). -/
def State.panelCharge (s : State) (f : Nat → Int) (frames : Nat) : State :=
  let next (n : Nat) : Int := Map.getD s.panel.accounts n 0 + f n
  let hit := s.segs.any (fun n => decide (32767 < (next n).natAbs))
  let acc : Map Int := (List.range 512).filterMap (fun n =>
    let v := if s.segs.contains n then max (-32767) (min 32767 (next n)) else Map.getD s.panel.accounts n 0
    if v = 0 then none else some (n, v))
  let s := s.modPanel (fun p => { p with accounts := acc })
  if hit then (s.raise .PANEL_INT 0 2).event 0x1702 s.outside.length frames else s

/-- The entry that drives a segment in the present frame of the run, none while it takes seg_idle (R430). -/
def State.runEntry (s : State) (n : Nat) : Option Nat :=
  let r := s.panel.run
  if bit r.driven n then (s.wave (bits r.old n n) (bits r.target n n) r.band)[r.frame]? else none

/-- The entry that drives a segment in a compensation frame (R432). -/
def State.compDrive (s : State) (n : Nat) : Option Nat :=
  let c := s.compEntry s.panel.run.band
  if s.outside.contains n then some (if Map.getD s.panel.accounts n 0 < 0 then c.1 else c.2.1) else none

/-- The charge of the frame in progress to a segment. -/
def State.frameCharge (s : State) (n : Nat) : Int :=
  match s.panel.phase with
  | .run =>
    match s.runEntry n with
    | some e => entryDelta e
    | none => (s.compEntry s.panel.run.band).2.2
  | .comp _ =>
    match s.compDrive n with
    | some e => entryDelta e
    | none => 0
  | _ => 0

/-- Frames of the run: the longest waveform of a driven segment. -/
def State.runLength (s : State) : Nat :=
  let r := s.panel.run
  ((List.range 4).map (fun k =>
    if s.segs.any (fun n => bit r.driven n && bits r.old n n = k / 2 && bits r.target n n = k % 2) then
      (s.wave (k / 2) (k % 2) r.band).length else 0)).foldl max 0

/-! ### Runs (R430, R432, R434, R438) -/

/-- Idle codes on every line, in the order shifted (R428). -/
def State.idleCodes (s : State) : List Nat :=
  List.replicate 8 (s.fld .PANEL_CFG2 0 0 8 6) ++ List.replicate 64 (s.fld .PANEL_CFG2 0 0 11 9)

/-- Start a run with the band just read. -/
def State.startRun (s : State) (driven old target : Nat) : State :=
  s.modPanel (fun p => { p with phase := .run, run := ⟨driven, old, target, p.band, 0⟩, inRun := true, kept := true })

/-- The next run for a pending target, when the panel is idle (R430, R435). -/
def State.startPending (s : State) : State :=
  match s.panel.pending with
  | none => s.modPanel (fun p => { p with phase := .idle })
  | some t =>
    let redraw := s.flag .PANEL_CTL 0 0 2
    let driven := if redraw then s.segMask else (t ^^^ s.panel.displayed) &&& s.segMask
    let s := s.modPanel (fun p => { p with pending := none, target := t, kept := true, next := .idle })
    if driven = 0 then s.modPanel (fun p => { p with phase := .idle })
    else (s.setFlag .PANEL_CTL 0 0 2 false).startRun driven s.panel.displayed t

/-- Idle codes are latched, and hv_discharge begins (R438). -/
def State.discharge (s : State) : State :=
  s.modPanel (fun p => { p with phase := .discharge, phaseAt := s.time.ns, codes := s.idleCodes })

/-- A compensation has ended: what follows it. -/
def State.panelGo (s : State) : State :=
  let p := s.panel
  match p.next with
  | .idle => s.startPending
  | .restart => (s.modPanel (fun p => { p with next := p.after })).startRun p.run.driven p.run.old p.run.target
  | .clear => (s.modPanel (fun p => { p with next := .redraw })).startRun s.segMask s.segMask 0
  | .redraw => (s.modPanel (fun p => { p with next := .light })).startRun s.segMask p.displayed p.target
  | .light => (s.modPanel (fun p => { p with next := .idle, powering := false, lit := true })).startPending
  | .down => s.discharge

/-- Compensation after `n` frames of it: done, given up, or another frame (R432). -/
def State.compensate (s : State) (n : Nat) : State :=
  let k := s.outside.length
  if k = 0 then (s.modPanel (fun p => { p with unbalanced := false })).panelGo
  else if s.fld .PANEL_CFG1 0 0 23 16 ≤ n then
    (((s.modPanel (fun p => { p with unbalanced := true })).raise .PANEL_INT 0 2).event 0x1702 k n).panelGo
  else s.modPanel (fun p => { p with phase := .comp n, run := { p.run with band := p.band } })

/-- A run ends: the driven segments show their target bits, and compensation follows (R430). -/
def State.runEnds (s : State) : State :=
  let s := s.modPanel (fun p => { p with
    displayed := (p.displayed &&& (p.displayed ^^^ p.run.driven)) ||| (p.run.target &&& p.run.driven), inRun := false })
  ((s.count .PANEL_RUN_CNT 0 0 1).raise .PANEL_INT 0 0).compensate 0

/-- A band two or more away aborts the run: compensation in the new band, then the same change again (R434). -/
def State.runAborts (s : State) : State :=
  let s := (s.count .PANEL_ABORT_CNT 0 0 1).raise .PANEL_INT 0 1
  let s := s.event 0x1701 s.panel.run.band s.panel.band
  (s.modPanel (fun p => { p with after := p.next, next := .restart })).compensate 0

/-- A frame boundary (R430): the band is read, the frame that ended is accounted, and the run or compensation goes on. -/
def execPanelFrameBoundary (s : State) : Host.Outcome State Fault Refusal :=
  let begin' (s : State) : State := (s.modPanel (fun p => { p with slots := 0 })).readBand
  match s.panel.phase with
  | .off => .next s
  | .settle => .next s
  | .discharge => .next s
  | .idle => .next (begin' s).startPending
  | .run =>
    let s := begin' ((s.panelCharge s.frameCharge 0).modPanel (fun p => { p with run := { p.run with frame := p.run.frame + 1 } }))
    let p := s.panel
    .next (if s.runLength ≤ p.run.frame then s.runEnds
      else if p.band + 2 ≤ p.run.band || p.run.band + 2 ≤ p.band then s.runAborts else s)
  | .comp n =>
    let s := begin' ((s.panelCharge s.frameCharge (n + 1)).count .PANEL_COMP_CNT 0 0 1)
    .next (s.compensate (n + 1))

/-! ### Slots (R427, R428) -/

/-- The level codes of slot `k`, in the order shifted: COM_7 to COM_0, then SEG_63 to SEG_0. -/
def State.slotCodes (s : State) (k : Nat) : List Nat :=
  let c := k / 2
  let (idle, non) := (s.fld .PANEL_CFG2 0 0 11 9, s.fld .PANEL_CFG2 0 0 8 6)
  let driving := match s.panel.phase with
    | .run => true
    | .comp _ => true
    | _ => false
  let on := driving && decide (c < s.fld .PANEL_CFG0 0 0 3 0)
  let sel := if k % 2 = 0 then s.fld .PANEL_CFG2 0 0 2 0 else s.fld .PANEL_CFG2 0 0 5 3
  let coms := (List.range 8).reverse.map (fun x => if on && x = c then sel else non)
  let entry (n : Nat) : Option Nat := match s.panel.phase with
    | .run => s.runEntry n
    | _ => s.compDrive n
  let segs := (List.range 64).reverse.map (fun x =>
    if on && decide (x < s.fld .PANEL_CFG0 0 0 10 4) then
      (match entry (64 * c + x) with
       | some e => if k % 2 = 0 then bits e 2 0 else bits e 5 3
       | none => idle)
    else idle)
  coms ++ segs

/-- The bits that a slot shifts out of PANEL_SDO: each code most significant bit first (R428). -/
def panelSdo (codes : List Nat) : List Bool := codes.flatMap (fun c => [bit c 2, bit c 1, bit c 0])

/-- A slot begins: 72 level codes are shifted and latched (R428). -/
def execPanelSlotStart (s : State) : Host.Outcome State Fault Refusal :=
  if s.panel.phase = .off || s.panel.phase = .discharge then .next s
  else
    let k := s.panel.slots % 16
    .next (s.modPanel (fun p => { p with codes := s.slotCodes k, slots := min 16 (p.slots + 1) }))

/-! ### What is drawn (R435-R437) -/

/-- Readout page `n`: ROM version and CRC, or the site A+ total of rate n − 1. -/
def State.readoutValue (s : State) (n : Nat) : Nat :=
  if n = 0 then Config.romVersion.toNat + Config.romCrc.toNat * 2 ^ 16 else s.customs.site.energy.getD (n - 1) 0

/-- The READOUT field: its mask and the image the Customs domain renders (R436). -/
def State.readout (s : State) : Nat × Nat :=
  match s.item? 0x120 5 with
  | some v =>
    let (first, d) := (leAt v 0 2, leAt v 2 1)
    let m := 2 ^ (7 * d) - 1
    (m <<< first, (Config.readout d s.panel.page (s.readoutValue s.panel.page) % (m + 1)) <<< first)
  | none => (0, 0)

/-- The mask a blink group inverts. -/
def State.blinkMask (s : State) (g : Nat) : Nat :=
  ((List.range 16).map (fun w => s.get .PANEL_BLINK_MASK g w <<< (32 * w))).sum

/-- Segments inverted at the present time: in an enabled group that is in its on time, once (R437). -/
def State.inverted (s : State) : Nat :=
  (s.panel.blink.filter (fun g => s.flag .PANEL_BLINK_CTL g 0 0)).foldl (fun m g => m ||| s.blinkMask g) 0

/-- The committed row, blinking and the readout make the pending target (R435-R437). -/
def State.retarget (s : State) : State :=
  let (m, img) := s.readout
  let t := s.panel.row ^^^ s.inverted
  s.modPanel (fun p => { p with pending := some (((t ^^^ (t &&& m)) ||| img) % 2 ^ 512) })

/-- A committed target row (R435). -/
def State.panelRow (s : State) (img : Option Nat) : State :=
  (s.modPanel (fun p => { p with row := (img.getD p.row) % 2 ^ 512 })).retarget

/-- PANEL_UPDATE: 64 bytes stage the row; no payload stages it unchanged with the readout-refresh flag (R435). -/
def execPanelUpdate (slot : Nat) (s : State) : Host.Outcome State Fault Refusal :=
  s.onKind slot kPanelUpdate (fun m =>
    if m.length = 64 then s.complete slot stOk [.panel] [.row (.panel (some (leAt m.buf 0 64)))]
    else if m.length = 0 then s.complete slot stOk [.panel] [.row (.panel none)]
    else s.complete slot stRejected [] [])

/-- When the next edge of a blink group is due: `on` tenths of a second after its on time began, and `period` − `on` after it
ended; at once for a group just enabled (R437). -/
def State.blinkDue (s : State) (g : Nat) : Nat :=
  let (period, on) := (s.fld .PANEL_BLINK_CTL g 0 8 1, s.fld .PANEL_BLINK_CTL g 0 16 9)
  match Map.get? s.panel.blinkAt g with
  | none => 0
  | some t => t + 100000000 * (if s.panel.blink.contains g then on else period - on)

/-- A blink group's on or off time begins (R437). -/
def execPanelBlinkEdge (group : Nat) (s : State) : Host.Outcome State Fault Refusal :=
  if group < 8 && s.flag .PANEL_BLINK_CTL group 0 0 && s.fnRunning 0x14 && decide (s.blinkDue group ≤ s.time.ns) then
    .next (s.modPanel (fun p => { p with
      blinkAt := Map.put p.blinkAt group s.time.ns
      blink := if p.blink.contains group then p.blink.filter (· ≠ group) else group :: p.blink })).retarget
  else .next s

/-- The readout page advances every readout_s seconds (R436). -/
def execReadoutPageAdvance (s : State) : Host.Outcome State Fault Refusal :=
  match s.item? 0x120 5 with
  | some v =>
    if s.fnRunning 0x14 && decide (s.panel.pageAt + 1000000000 * leAt v 3 1 ≤ s.time.ns) then
      .next (s.modPanel (fun p => { p with page := (p.page + 1) % (leAt v 4 1 + 1), pageAt := s.time.ns })).retarget
    else .next s
  | none => .next s

/-- PANEL.CTL.redraw is set; it reads 1 until the next run starts (R430). -/
def execPanelRedraw (s : State) : Host.Outcome State Fault Refusal :=
  if s.hostHeld then .next s else .next (s.setFlag .PANEL_CTL 0 0 2 true)

/-- TEMP_HOST has not been written for 60 s (R433). -/
def execPanelTempStale (s : State) : Host.Outcome State Fault Refusal :=
  if s.flag .PANEL_CFG1 0 0 24 && s.hasSection 0x120 && s.inService && !s.panel.stale
      && decide (s.panel.tempAt + 60000000000 ≤ s.time.ns) then
    .next (((s.modPanel (fun p => { p with stale := true })).raise .PANEL_INT 0 4).event 0x1704
      (s.get .PANEL_TEMP_HOST 0 0) 0)
  else .next s

/-! ### Power (R438, R439) -/

/-- The function reaches RUNNING: idle codes, then PANEL_EN_HV (R438). -/
def State.panelUp (s : State) : State :=
  s.modPanel (fun p => { p with
    phase := .settle
    phaseAt := s.time.ns
    powering := true
    next := .clear
    codes := s.idleCodes
    hv := true
    bandKnown := false
    slots := 0 })

/-- hv_settle has passed: recovery, and the compensation of step 3 (R438, R439, R440). -/
def execPanelHvSettled (s : State) : Host.Outcome State Fault Refusal :=
  if s.panel.phase = .settle && decide (s.panel.phaseAt + 1000000 * s.fld .PANEL_CFG0 0 0 18 11 ≤ s.time.ns) then
    let p := s.panel
    let s := if p.kept then s else s.modPanel (fun p => { p with accounts := [], target := 0, displayed := 0, kept := true })
    let s := if p.cut || !p.kept then
        (s.raise .PANEL_INT 0 3).event 0x1703 (if p.kept then 0 else 1) (b2n (p.kept && p.inRun))
      else s
    let s := (s.modPanel (fun p => { p with cut := false })).readBand
    .next (s.compensate 0)
  else .next s

/-- The function reaches OFF: the frontlight goes, the run and its compensation end, then idle codes (R438). -/
def State.panelDown (s : State) : State :=
  let s := s.modPanel (fun p => { p with lit := false, powering := false })
  match s.panel.phase with
  | .off => s
  | .discharge => s
  | .settle => s.discharge
  | .idle => s.discharge
  | _ => s.modPanel (fun p => if p.next = .restart then { p with after := .down } else { p with next := .down })

/-- hv_discharge has passed: PANEL_EN_HV is deasserted (R438). -/
def execPanelHvDischarged (s : State) : Host.Outcome State Fault Refusal :=
  if s.panel.phase = .discharge && decide (s.panel.phaseAt + 1000000 * s.fld .PANEL_CFG0 0 0 26 19 ≤ s.time.ns) then
    .next (s.modPanel (fun p => { p with phase := .off, hv := false }))
  else .next s

/-- A reset or loss of power finds the panel: the outputs fall, and the next power-up recovers (R439). -/
def State.panelCut (s : State) : State :=
  s.modPanel (fun p => { p with
    phase := .off, hv := false, lit := false, powering := false, codes := if p.phase = .off then p.codes else s.idleCodes,
    cut := p.cut || p.phase != .off, pending := none, blink := [], blinkAt := [] })

/-- PWRFAIL_N (R439): each account takes the part of the frame's charge that its completed slots gave. -/
def State.panelFail (s : State) : State :=
  (s.panelCharge (fun n => Int.tdiv (s.frameCharge n * s.panel.slots) 16) 0).panelCut

end Sys2Proof.Machine
end

