-- ==== Sys2Proof/Machine/Eth.lean ====
section
/-!
DEFINITION. The Ethernet MACs (R352, R414-R417): transmit queues, IPv6 and UDP, the neighbour responder and pause.
-/
namespace Sys2Proof.Machine

/-- A port of the Ethernet MACs. -/
def State.ethPort (s : State) (n : Nat) : EthPort := s.eth.ports.getD n EthPort.start

/-- Change a port. -/
def State.modEthPort (s : State) (n : Nat) (f : EthPort → EthPort) : State :=
  s.modEth (fun e => { e with ports := updAt e.ports n f })

/-- The link of a port is up. -/
def State.ethUp (s : State) (n : Nat) : Bool := s.flag .ETH_STATUS n 0 0

/-- A port's MAC address, as the number of its six bytes in the order sent. -/
def macOf (n : Nat) : Nat := (Config.mac n).toNat

/-- The whole frame of a queued packet without its FCS, padded to the least length of IEEE 802.3. -/
def TxFrame.frame (f : TxFrame) (src dst : Nat) : Bytes :=
  let b := toBE 6 dst ++ toBE 6 src ++ toBE 2 f.etype ++ f.packet
  b ++ zeros (60 - b.length)

/-- Bytes a frame takes in a queue. -/
def TxFrame.size (f : TxFrame) : Nat := max 64 (18 + f.packet.length)

/-- A queue has room for a frame (R416); while the link is down nothing waits. -/
def State.ethRoom (s : State) (n q len : Nat) : Bool :=
  !s.ethUp n || decide (((s.ethPort n).queues.getD q []).foldl (fun k f => k + f.size) (max 64 (18 + len)) ≤ 65536)

/-- A frame enters a transmit queue, or is counted while the link is down (R416). -/
def State.ethQueue (s : State) (n q : Nat) (f : TxFrame) : State :=
  if s.ethUp n then s.modEthPort n (fun p => { p with queues := updAt p.queues q (· ++ [f]) })
  else s.count .ETH_CNT n 7 1

/-! ### PTP messages in the transmit queues (R301, R303, R416) -/

/-- A latency of a port, in ns (R303, Table 10-6): ingress at byte 2, egress at byte 4 of its item. -/
def State.ptpLatency (s : State) (n o : Nat) : Int :=
  match (s.items 0xC0 7).find? (fun v => leAt v 0 1 = n) with
  | some v => leSigned v o 2
  | none => 0

/-- The timestamp of a message that leaves a port now, in 2⁻¹⁶ ns: at the message timestamp point, to 1/16 ns, which the egress latency
corrects (R284, R303, assumption 66). -/
def State.ptpStamp (s : State) (n : Nat) : Nat :=
  (2 ^ 16 * ((s.time.ns : Int) + s.ptpLatency n 4) + (sixteenths s.time.frac : Nat)).toNat

/-- Change a PTP port. -/
def State.modPtp (s : State) (n : Nat) (f : PtpPort → PtpPort) : State :=
  s.modTime (fun t => { t with ptp := updAt t.ptp n f })

/-- The length of a message (IEEE 1588-2019; assumption 23). -/
def ptpLen (mtype : Nat) : Nat := [44, 44, 54, 54, 44, 44, 44, 44, 44, 54, 54, 64].getD mtype 44

/-- Bytes of the headers that a transport puts before a message: none, IPv4 and UDP, IPv6 and UDP. -/
def ptpHead (transport : Nat) : Nat := [0, 28, 48].getD transport 0

/-- The EtherType of a transport. -/
def ptpEtherType (transport : Nat) : Nat := [0x88F7, 0x0800, 0x86DD].getD transport 0x88F7

/-- The multicast address of a message by transport: peer delay messages have their own (IEEE 1588-2019; assumption 23). -/
def ptpMac (transport mtype : Nat) : Nat :=
  let peer := mtype = 2 || mtype = 3 || mtype = 0xA
  match transport with
  | 1 => if peer then 0x01005E00006B else 0x01005E000181
  | 2 => if peer then 0x33330000006B else 0x333300000181
  | _ => if peer then 0x0180C200000E else 0x011B19000000

/-- The fields of a message in the order of PtpTx, from which its bytes follow. -/
def PtpTx.fields (x : PtpTx) : List Int :=
  [x.mtype, x.domain, x.seq, x.sender, x.requester, b2n x.twoStep, x.correction, x.time, x.priority1, x.cls, x.accuracy,
    x.variance, x.priority2, x.gm, x.steps, x.utcOffset, x.source, b2n x.timescale]

/-- The packet of a message: over UDP/IPv4 the checksum is 0, over UDP/IPv6 it is computed from what the message now holds (R301). -/
def PtpTx.packet (x : PtpTx) : Bytes :=
  Config.ptpPacket x.transport (if x.transport = 2 then Config.ptpSum x.fields else 0) x.fields

/-- Send a message: it enters the port's highest-priority queue, which must hold it (R303, R416). -/
def State.ptpSend (s : State) (x : PtpTx) : State :=
  let n := ptpHead x.transport + ptpLen x.mtype
  if s.ethRoom x.port 7 n then
    s.ethQueue x.port 7 ⟨none, ptpMac x.transport x.mtype, ptpEtherType x.transport, zeros n, some x⟩
  else s

/-- A message passes its timestamp point: the time since its ingress enters the correction, a Sync of the engine takes the stamp as its
origin, and a request notes when it left (R301, R303). -/
def State.ptpLeave (s : State) (n : Nat) (x : PtpTx) : State × PtpTx :=
  let t := s.ptpStamp n
  let x : PtpTx := match x.ingress with
    | some i => { x with correction := x.correction + ((t : Int) - i) }
    | none => x
  let x : PtpTx := if x.own && x.mtype = 0 then
      { x with time := t / 2 ^ 16, correction := x.correction + ((t % 2 ^ 16 : Nat) : Int) } else x
  let s := if x.own && (x.mtype = 1 || x.mtype = 2) then s.modPtp n (fun p => { p with req := some (x.seq, t) }) else s
  (s.modTime (fun k => { k with ptpTx := x :: k.ptpTx.take 7 }), x)

/-! ### IPv6 (R352) -/

/-- The 16-bit ones' complement sum of a byte string. -/
def onesSum : Bytes → Nat
  | a :: b :: bs => let x := a.toNat * 256 + b.toNat + onesSum bs; x % 65536 + x / 65536
  | [a] => a.toNat * 256
  | [] => 0

/-- The checksum of an upper-layer packet with its IPv6 pseudo-header (RFC 8200). -/
def inetSum (src dst next : Nat) (body : Bytes) : Nat :=
  let x := 65535 - onesSum (toBE 16 src ++ toBE 16 dst ++ toBE 4 body.length ++ zeros 3 ++ toLE 1 next ++ body)
  if x = 0 then 65535 else x

/-- An IPv6 packet. -/
def ipv6 (src dst next hop : Nat) (body : Bytes) : Bytes :=
  toBE 4 0x60000000 ++ toBE 2 body.length ++ toLE 1 next ++ toLE 1 hop ++ toBE 16 src ++ toBE 16 dst ++ body

/-- A UDP datagram over IPv6 with hop limit 64. -/
def udp6 (src dst sport dport : Nat) (payload : Bytes) : Bytes :=
  let h := toBE 2 sport ++ toBE 2 dport ++ toBE 2 (8 + payload.length)
  ipv6 src dst 17 64 (h ++ toBE 2 (inetSum src dst 17 (h ++ zeros 2 ++ payload)) ++ payload)

/-- The ADDR item's address, prefix length and gateway (Table 13-8). -/
def State.wharfAddr (s : State) : Nat × Nat × Nat :=
  match s.item? 0xF0 2 with
  | some v => (ofBE (slice v 0 16), leAt v 16 1, ofBE (slice v 20 16))
  | none => (0, 128, 0)

/-- The next hop toward a destination: itself inside the prefix, else the gateway. -/
def State.nextHop (s : State) (dst : Nat) : Nat :=
  let (a, n, g) := s.wharfAddr
  if a >>> (128 - n) = dst >>> (128 - n) then dst else g

/-- The LINK port. -/
def State.linkPort (s : State) : Nat := s.fld .WHARF_CFG1 0 0 17 16

/-- A Neighbour Solicitation for a next hop (RFC 4861). -/
def State.solicit (s : State) (hop : Nat) : TxFrame :=
  let (a, _, _) := s.wharfAddr
  let dst := 0xFF0200000000000000000001FF000000 + hop % 2 ^ 24
  let h := toLE 1 135 ++ [0]
  let b := zeros 4 ++ toBE 16 hop ++ [1, 1] ++ toBE 6 (macOf s.linkPort)
  ⟨none, 0x333300000000 + dst % 2 ^ 32, 0x86DD,
    ipv6 a dst 58 255 (h ++ toBE 2 (inetSum a dst 58 (h ++ zeros 2 ++ b)) ++ b), none⟩

/-- The Neighbour Advertisement that answers a solicitation from `target` at `mac`; from the unspecified address, to all
nodes. -/
def State.advertise (s : State) (target mac : Nat) : TxFrame :=
  let (a, _, _) := s.wharfAddr
  let dst := if target = 0 then 0xFF020000000000000000000000000001 else target
  let h := toLE 1 136 ++ [0]
  let b := toBE 4 (if target = 0 then 0x20000000 else 0x60000000) ++ toBE 16 a ++ [2, 1] ++ toBE 6 (macOf s.linkPort)
  ⟨none, if target = 0 then 0x333300000001 else mac, 0x86DD,
    ipv6 a dst 58 255 (h ++ toBE 2 (inetSum a dst 58 (h ++ zeros 2 ++ b)) ++ b), none⟩

/-- Queue a UDP datagram on the LINK port, with a solicitation first when the next hop's address is not known. -/
def State.udpSend (s : State) (q dst sport dport : Nat) (payload : Bytes) : State :=
  let hop := s.nextHop dst
  let n := s.linkPort
  let known := Map.has s.eth.neigh hop
  let s := if known then s else s.ethQueue n 5 (s.solicit hop)
  s.ethQueue n q ⟨some hop, 0, 0x86DD, udp6 s.wharfAddr.1 dst sport dport payload, none⟩

/-! ### Transmission and pause (R416, R417) -/

/-- The head of a queue can go: its next hop is resolved. -/
def State.ready (s : State) (q : List TxFrame) : Bool :=
  match q with
  | f :: _ => (match f.hop with
    | some h => Map.has s.eth.neigh h
    | none => true)
  | [] => false

/-- The highest queue with a frame to send. -/
def State.txQueue (s : State) (n : Nat) : Option Nat :=
  ([7, 6, 5, 4, 3, 2, 1, 0]).find? (fun q => s.ready ((s.ethPort n).queues.getD q []))

/-- Send the next whole frame of the highest non-empty queue (R416). -/
def State.ethSend (s : State) (n : Nat) : State :=
  if !s.ethUp n || decide (s.time.ns < (s.ethPort n).pauseEnd) then s
  else
    match s.txQueue n with
    | none => s
    | some q =>
      match (s.ethPort n).queues.getD q [] with
      | [] => s
      | f :: rest =>
        let dst := match f.hop with
          | some h => Map.getD s.eth.neigh h 0
          | none => f.mac
        let s := s.modEthPort n (fun p => { p with queues := updAt p.queues q (fun _ => rest) })
        let r : State × TxFrame := match f.ptp with
          | some x => ((s.ptpLeave n x).1, { f with packet := (s.ptpLeave n x).2.packet })
          | none => (s, f)
        let s := r.1
        let f := r.2
        (s.modEth (fun e => { e with sent := ((n, f.frame (macOf n) dst) :: e.sent).take 16 })).count .ETH_CNT n 6 1

/-- Mb/s of a link speed code (Table 16-8). -/
def ethMbps (code : Nat) : Nat := [0, 10, 100, 1000, 2500, 10000].getD code 0

/-- A PAUSE frame holds transmission for its quanta of 512 bit times (R417). -/
def State.pause (s : State) (n quanta : Nat) : State :=
  let p := s.ethPort n
  let s := s.count .ETH_CNT n 8 1
  if s.time.ns < p.ignoreEnd then s
  else
    let held := decide (s.time.ns < p.pauseEnd)
    s.modEthPort n (fun p => { p with
      pauseSince := if held then p.pauseSince else s.time.ns
      pauseEnd := s.time.ns + quanta * 512 * 1000 / max 1 (ethMbps (s.fld .ETH_STATUS n 0 3 1)) })

/-- A pause hold has lasted pause_wd ms (R417). -/
def execPauseWatchdog (port : Nat) (s : State) : Host.Outcome State Fault Refusal :=
  let p := s.ethPort port
  let wd := s.fld .ETH_CFG port 0 23 16
  if port < 4 && wd != 0 && decide (s.time.ns < p.pauseEnd) && decide (p.pauseSince + 1000000 * wd ≤ s.time.ns) then
    let s := s.modEthPort port (fun p => { p with pauseEnd := 0, ignoreEnd := s.time.ns + 1000000000 })
    .next ((s.count .ETH_CNT port 9 1).raise .ETH_INT port 1)
  else .next s

/-- A speed that a port's mode gives (R414, Table 16-8): 10GBASE-R, SGMII or 2500BASE-X. -/
def State.ethSpeed (s : State) (n speed : Nat) : Bool :=
  if n < 2 then speed = 5
  else if s.fld .ETH_CFG n 0 25 24 = 0 then decide (1 ≤ speed) && decide (speed ≤ 3)
  else speed = 4

/-- A link goes up or down; a port that PINS does not enable, a half-duplex result or a speed that is not the mode's leaves it
down, and going down flushes the queues (R414, R416, R474). -/
def execEthLinkChange (port : Nat) (up full : Bool) (speed : Nat) (s : State) : Host.Outcome State Fault Refusal :=
  if 4 ≤ port then .next s
  else
    let up := up && full && s.flag .PINS_ETH_EN 0 0 port && s.ethSpeed port speed
    let was := s.ethUp port
    let s := s.set .ETH_STATUS port 0 (if up then 1 + speed % 8 * 2 else 0)
    let n := ((s.ethPort port).queues.map List.length).sum
    let s := if up then s
      else (s.modEthPort port (fun p => { p with queues := List.replicate 8 [], pauseEnd := 0 })).count .ETH_CNT port 7 n
    .next (if up != was then s.raise .ETH_INT port 0 else s)

end Sys2Proof.Machine
end

