-- ==== Sys2Proof/Machine/Wharf.lean ====
section
/-!
DEFINITION. The Wharf link (R352-R360): sealing and checking datagrams, workers and credit, worker role, key export, and
the reception of Ethernet frames that leads to it (R415).
-/
namespace Sys2Proof.Machine

/-- The LINK item. -/
def State.link? (s : State) : Option Bytes := s.item? 0xF0 1

/-- The items of the WHARF section that an association follows: that of the running plan, or for a worker that had its heartbeat that of
the delta which waits for the others (R371, Table 2-2). -/
def State.wharfItems (s : State) (a type : Nat) : List Bytes :=
  match (if s.wharf.switched.contains a then s.plan.todo.head? else none) with
  | some x => if x.tag = 0xF0 then (x.items.filter (·.type = type)).map (·.value) else s.items 0xF0 type
  | none => s.items 0xF0 type

/-- The LINK item that an association follows. -/
def State.linkOf (s : State) (a : Nat) : Option Bytes := (s.wharfItems a 1).head?

/-- The link_epoch of an association. -/
def State.linkEpoch (s : State) (a : Nat) : Nat := leAt ((s.linkOf a).getD []) 10 2

/-- The key of an association (R353, R358): in worker role the LINK slot's own, else derived from WHARF_ROOT. -/
def State.wharfKey (s : State) (a : Nat) : Option Bytes :=
  match s.linkOf a with
  | none => none
  | some v =>
    let k := s.keySlot (leAt v 8 1)
    if !k.valid then none
    else if s.workerRole then some k.material
    else if a = 256 then some (Config.kmac256 k.material (ascii "VQ-PAIR") (toLE 2 (s.linkEpoch a)) 32)
    else some (Config.kmac256 k.material (ascii "VQ-WHARF") (toLE 1 a ++ toLE 2 (s.linkEpoch a)) 32)

/-- Where the next seq of an association is kept: under its link_epoch. -/
def State.seqKey (s : State) (a : Nat) : Nat := 512 * s.linkEpoch a + a

/-- The next seq of an association. -/
def State.nextSeq (s : State) (a : Nat) : Nat := Map.getD s.wharf.seqs (s.seqKey a) 1

/-- The worker number of the MANAGER item. -/
def State.ownWorker (s : State) : Nat := s.itemLE 0xF0 5 0 1 0

/-- The WORKER items of a worker that are enabled. -/
def State.workerItems (s : State) (w : Nat) : List Bytes :=
  (s.wharfItems w 3).filter (fun v => leAt v 0 1 = w && bit (leAt v 1 1) 0)

/-- Workers with an enabled item. -/
def State.workerIds (s : State) : List Nat :=
  (((s.items 0xF0 3).filter (fun v => bit (leAt v 1 1) 0)).map (fun v => leAt v 0 1)).eraseDups

/-- The Wharf link function runs. -/
def State.wharfOn (s : State) : Bool := s.inService && s.fnRunning 0xD

/-- An IPv6 address of an item. -/
def addrAt (v : Bytes) (o : Nat) : Nat := ofBE (slice v o 16)

/-- The AID page that keeps an association's sequence floor (R353; assumption 28). -/
def floorPage (a : Nat) : Nat := 1 + a

/-- Save the floor of an association: its seq and the link_epoch it counts under. -/
def State.saveFloor (s : State) (a seq : Nat) : State :=
  s.aidSave (floorPage a) (toLE 2 (s.linkEpoch a) ++ zeros 6 ++ toLE 8 seq)

/-- The transmit queue of a datagram type (R416); HELLO, UP_ENV and KEY_REQ take the queue of HELLO_ACK (assumption 29). -/
def queueOf (type : Nat) : Nat :=
  match type with
  | 0x03 => 6
  | 0x04 => 6
  | 0x21 => 5
  | 0x22 => 5
  | 0x20 => 1
  | _ => 4

/-- The standby end of the partner association sends toward the active chip. -/
def State.towardActive (s : State) : Bool := s.fld .PILOT_STATUS 0 0 3 0 != 8

/-- The 16-byte header of a datagram this chip sends (Table 13-1). -/
def State.wharfHeader (s : State) (a type seq : Nat) : Bytes :=
  let pilot := s.hasPilot && !s.workerRole
  let dir := s.workerRole || (a = 256 && s.towardActive)
  toLE 1 1 ++ toLE 1 type ++ toLE 1 (if a = 256 then 0 else a)
    ++ toLE 1 (b2n dir + b2n (pilot && s.flag .PILOT_CFG 0 0 0) * 2)
    ++ toLE 4 (if pilot then s.get .PILOT_CLAIM 0 0 else 0) ++ toLE 8 seq

/-- The GCM nonce of a header: flags, worker, two zero bytes, seq (R353). -/
def wharfNonce (h : Bytes) : Bytes := slice h 3 1 ++ slice h 2 1 ++ [0, 0] ++ slice h 8 8

/-- Seal and queue a datagram to an address and port. A payload above 1,232 bytes, a lost sequence or a missing key sends
nothing (R352, R353). -/
def State.wharfSendTo (s : State) (a dst port type : Nat) (body : Bytes) : State :=
  if s.flag .WHARF_STATUS 0 0 11 || decide (1200 < body.length) then s
  else
    match s.wharfKey a with
    | none => s
    | some k =>
      let q := s.nextSeq a
      let h := s.wharfHeader a type q
      let payload := h ++ Config.gcmSeal k (wharfNonce h) h body
      let k := s.seqKey a
      let s := s.modWharf (fun w => { w with seqs := Map.put w.seqs k (q + 1) })
      let s := if (q + 1) % 2 ^ 24 = 0 then s.saveFloor a (q + 1) else s
      let s := if a = 256 && !s.towardActive then
          s.modWharf (fun w => { w with
            unacked := w.unacked ++ [⟨q, type, payload, s.time.ns⟩]
            lastJournal := if type = 0x21 then q else w.lastJournal })
        else s
      (s.udpSend (queueOf type) dst port port payload).count .WHARF_TX_DGRAM_CNT 0 0 1

/-- mgr_port. -/
def State.mgrPort (s : State) : Nat := s.fld .WHARF_CFG0 0 0 15 0

/-- The mgr_port of a worker's association. -/
def State.mgrPortOf (s : State) (w : Nat) : Nat :=
  if s.wharf.switched.contains w then leAt ((s.linkOf w).getD []) 2 2 else s.mgrPort

/-- Send to a worker. -/
def State.toWorker (s : State) (w type : Nat) (body : Bytes) : State :=
  match (s.workerItems w).head? with
  | none => s
  | some v => s.wharfSendTo w (addrAt v 4) (s.mgrPortOf w) type body

/-- Send to the partner. -/
def State.toPartner (s : State) (type : Nat) (body : Bytes) : State :=
  match s.item? 0xF0 4 with
  | none => s
  | some v => s.wharfSendTo 256 (addrAt v 0) (s.fld .WHARF_CFG0 0 0 31 16) type body

/-- The address of manager A (0) or B (1); 0 where the item gives none. -/
def State.mgrAddr (s : State) (i : Nat) : Nat :=
  match s.item? 0xF0 5 with
  | some v => addrAt v (4 + 16 * i)
  | none => 0

/-- Send to a manager, in worker role. -/
def State.toMgr (s : State) (i type : Nat) (body : Bytes) : State :=
  if s.mgrAddr i = 0 then s else s.wharfSendTo s.ownWorker (s.mgrAddr i) s.mgrPort type body

/-! ### Reception (R353, R415) -/

/-- The 64-entry window of R100 for a sequence: highest and bitmap afterwards, none when it fails. -/
def windowTake (w : Nat × Nat) (c : Nat) : Option (Nat × Nat) :=
  if w.1 < c then
    let d := c - w.1
    some (c, (if 64 ≤ d then 0 else (w.2 <<< d) % 2 ^ 64) ||| 1)
  else
    let d := w.1 - c
    if 64 ≤ d || w.2.testBit d then none else some (w.1, w.2 ||| 2 ^ d)

/-- Types each association may carry: the partner's are HEARTBEAT, CKPT, JOURNAL and JACK. -/
def typeFits (a type : Nat) (role : Bool) : Bool :=
  if a = 256 then type = 3 || type = 0x20 || type = 0x21 || type = 0x22
  else if role then type = 2 || type = 3 || type = 4 || type = 0x11 || type = 0x13
  else type = 1 || type = 3 || type = 0x10 || type = 0x12

/-- A seq of the partner association is received: those without a gap below advance (R368). -/
def absorbSeq : Nat → Nat → List Nat → Nat × List Nat
  | 0, n, l => (n, l)
  | k + 1, n, l => if l.contains n then absorbSeq k (n + 1) (l.filter (· ≠ n)) else (n, l)

/-- Note a seq of the partner association. -/
def State.noteSeq (s : State) (q : Nat) : State :=
  s.modWharf (fun w =>
    let n := if w.rxNext = 0 then q else w.rxNext
    let l := if q < n then w.rxAhead else q :: w.rxAhead
    let r := absorbSeq l.length n l
    { w with rxNext := r.1, rxAhead := r.2 })

/-- The association of a datagram: by port, and in worker role the chip's own (R352, R358). -/
def State.assocOf (s : State) (port worker : Nat) : Option Nat :=
  if s.workerRole then (if port = s.mgrPort && worker = s.ownWorker then some worker else none)
  else if port = s.fld .WHARF_CFG0 0 0 31 16 && worker = 0 && (s.item? 0xF0 4).isSome then some 256
  else if port = s.mgrPortOf worker && !(s.workerItems worker).isEmpty then some worker
  else none

/-- The Wharf link engine takes a UDP payload (R353): tag, then window; a valid datagram waits for its row. An active chip takes what
comes toward it, and a HEARTBEAT of a partner that is active too (R363). -/
def State.wharfTake (s : State) (port : Nat) (p : Bytes) : State :=
  let h := p.take 16
  let dir := bit (leAt h 3 1) 0
  let chip := bits (leAt h 3 1) 1 1
  let q := leAt h 8 8
  match s.assocOf port (leAt h 2 1) with
  | none => s
  | some a =>
    let dirOk : Bool :=
      if s.workerRole then !dir
      else if a = 256 then (if s.towardActive then !dir else dir || leAt h 1 1 = 3)
      else dir
    if p.length < 32 || leAt h 0 1 != 1 || !dirOk || (a != 256 && !s.wharfOn) then s
    else
      match s.wharfKey a with
      | none => s
      | some k =>
        match Config.gcmOpen k (wharfNonce h) h (p.drop 16) with
        | none => (s.count .WHARF_AUTH_FAIL_CNT 0 0 1).raise .WHARF_INT 0 2
        | some body =>
          let key := a * 4 + b2n dir * 2 + chip
          match windowTake (Map.getD s.wharf.wins key (0, 0)) q with
          | none => s.count .WHARF_REPLAY_CNT 0 0 1
          | some w =>
            let type := leAt h 1 1
            let s := s.modWharf (fun x => { x with wins := Map.put x.wins key w })
            let s := s.count .WHARF_RX_DGRAM_CNT 0 0 1
            let s := if a = 256 then s.noteSeq q else s
            if !typeFits a type s.workerRole then s
            else
              let s := s.modWharf (fun x => { x with rxq := x.rxq ++ [⟨a, type, chip, leAt h 4 4, q, body⟩] })
              if s.workerRole then
                s.modWharf (fun x => { x with mgrs := updAt x.mgrs chip (fun m => { m with last := s.time.ns }) })
              else s.modWharf (fun x => { x with
                workers := Map.upd x.workers a (fun y => { y with last := s.time.ns, missed := 0 }) })

/-- Where a frame's IPv6 payload begins and what it is: next header, source, destination. -/
def ipv6Of (b : Bytes) : Option (Nat × Nat × Nat) :=
  if b.length < 40 || bits (leAt b 0 1) 7 4 != 6 then none
  else some (leAt b 6 1, ofBE (slice b 8 16), ofBE (slice b 24 16))

/-- A received frame, with its FCS, is checked and classified (R415). PTP messages go to the PTP engine, where their own row
takes them. -/
def execEthFrameReceived (port : Nat) (frame : Bytes) (fcsOk : Bool) (s : State) : Host.Outcome State Fault Refusal :=
  let drop (i : Nat) : State := (s.count .ETH_CNT port i 1).raise .ETH_INT port 2
  if 4 ≤ port || !s.ethUp port then .next s
  else if frame.length < 64 then .next (drop 1)
  else if !fcsOk then .next (drop 2)
  else if s.fld .ETH_CFG port 0 13 0 < frame.length then .next (drop 3)
  else
    let et := ofBE (slice frame 12 2)
    let ip := slice frame 14 (frame.length - 18)
    let body := ip.drop 40
    let ok := s.count .ETH_CNT port 0 1
    if et = 0x8808 then .next (if ofBE (slice ip 0 2) = 1 then ok.pause port (ofBE (slice ip 2 2)) else ok)
    else if et = 0x88F7 then .next ok
    else if et = 0x0800 && leAt ip 9 1 = 17 &&
        (let h := 4 * (leAt ip 0 1 % 16); ofBE (slice ip (h + 2) 2) = 319 || ofBE (slice ip (h + 2) 2) = 320) then .next ok
    else
      match (if et = 0x86DD then ipv6Of ip else none) with
      | none => .next (drop 5)
      | some (next, src, dst) =>
        let here := s.wharfAddr.1
        if next = 17 && (ofBE (slice body 2 2) = 319 || ofBE (slice body 2 2) = 320) then .next ok
        else if next = 58 && leAt body 0 1 = 135 && ofBE (slice body 8 16) = here && port = s.linkPort && here != 0 then
          .next (ok.ethQueue port 5 (s.advertise src (ofBE (slice frame 6 6))))
        else if next = 58 && leAt body 0 1 = 136 && dst = here && port = s.linkPort && here != 0 then
          .next (if leAt body 24 1 = 2 && leAt body 25 1 = 1 then
              ok.modEth (fun e => { e with neigh := Map.put e.neigh (ofBE (slice body 8 16)) (ofBE (slice body 26 6)) })
            else ok)
        else if next = 17 && dst = here && here != 0 && port = s.linkPort
            && (ofBE (slice body 2 2) = s.mgrPort || s.wharf.switched.any (fun w => ofBE (slice body 2 2) = s.mgrPortOf w)
              || (!s.workerRole && ofBE (slice body 2 2) = s.fld .WHARF_CFG0 0 0 31 16)) then
          .next (ok.wharfTake (ofBE (slice body 2 2)) (slice body 8 (ofBE (slice body 4 2) - 8)))
        else .next (drop 5)

/-! ### Workers (R354, R355) -/

/-- The datagram at the front of the engine, when it has the type a row takes. -/
def State.takeDgram (s : State) (type : Nat) (f : State → WDgram → State) : Host.Outcome State Fault Refusal :=
  match s.wharf.rxq with
  | [] => .next s
  | d :: rest => if d.type = type then .next (f (s.modWharf (fun w => { w with rxq := rest })) d) else .next s

/-- A worker's association; a worker the plan names starts in HELLO. -/
def State.worker (s : State) (w : Nat) : WWorker := Map.getD s.wharf.workers w WWorker.hello

/-- Store a worker's association. -/
def State.setWorker (s : State) (w : Nat) (x : WWorker) : State :=
  s.modWharf (fun y => { y with workers := Map.put y.workers w x })

/-- Create LINK_EVENTs for every EPX in a worker's ranges, in time (R354). -/
def State.workerNotices (s : State) (w ev : Nat) : State :=
  s.modWharf (fun y => { y with
    notices := y.notices ++ (s.workerItems w).map (fun v => (w, ev, leAt v 20 4, leAt v 24 4)) })

/-- A worker becomes UP; a return from LOST raises WORKER_BACK. -/
def State.workerUp (s : State) (w : Nat) (x : WWorker) : State :=
  let was := (s.worker w).state
  let s := s.setWorker w { x with state := 2, last := s.time.ns, missed := 0 }
  let s := if was = 2 then s else s.raise .WHARF_INT 0 1
  if was = 3 then s.workerNotices w 7 else s

/-- HELLO is answered with HELLO_ACK and the worker becomes UP, its envelope count starting again (R354, R355). -/
def execWharfHello (s : State) : Host.Outcome State Fault Refusal :=
  s.takeDgram 1 (fun s d =>
    let s := s.workerUp d.assoc { s.worker d.assoc with grant := 0, accepted := 0, beat := 0 }
    s.toWorker d.assoc 2 [])

/-- HELLO_ACK starts heartbeats to the manager (R358). -/
def execWharfHelloAck (s : State) : Host.Outcome State Fault Refusal :=
  s.takeDgram 2 (fun s d =>
    let all := s.wharf.mgrs.any (·.up)
    let again := s.wharf.joined != 2
    let s := s.modWharf (fun w => { w with
      mgrs := updAt w.mgrs d.chip (fun m => { m with up := true, grant := 0 })
      addressed := if all then w.addressed else d.chip
      joined := 2
      sent := if again || !all || w.addressed = d.chip then 0 else w.sent })
    if again then s.raise .WHARF_INT 0 1 else s)

/-- The grant permits envelope k (R355). -/
def permits (grant k : Nat) : Bool := decide ((grant + 2 ^ 32 - k % 2 ^ 32) % 2 ^ 32 < 2 ^ 31)

/-- Send the datagram that is being filled (R359). -/
def State.upFlush (s : State) : State :=
  if s.wharf.filling.isEmpty then s
  else
    (s.toMgr s.wharf.addressed 0x10 s.wharf.filling.flatten).modWharf (fun w => { w with filling := [] })

/-- Items of the engine queue enter datagrams while credit lasts; a full datagram is sent (R359). -/
def State.upPump : Nat → State → State
  | 0, s => s
  | n + 1, s =>
    let w := s.wharf
    match w.queue, w.mgrs[w.addressed]? with
    | it :: rest, some m =>
      if !m.up || !permits m.grant (w.sent + 1) then s
      else
        let s := if 1200 < (w.filling.map List.length).sum + it.length then s.upFlush else s
        State.upPump n (s.modWharf (fun w => { w with
          queue := rest, filling := w.filling ++ [it], sent := (w.sent + 1) % 2 ^ 32 }))
    | _, _ => s

/-- Run the engine queue. -/
def State.pumpUp (s : State) : State := State.upPump s.wharf.queue.length s

/-- 1 ms after its first item a partly filled datagram is sent (R359). -/
def execWharfDgramFlush (s : State) : Host.Outcome State Fault Refusal := .next s.upFlush

/-- In worker role, the manager with the higher claim is addressed (R357, R358). -/
def State.chooseMgr (s : State) : State :=
  let m (i : Nat) : WMgr := s.wharf.mgrs.getD i ⟨false, 0, 0, 0⟩
  let pick := if (m 0).up && (m 1).up then (if (m 0).claim < (m 1).claim then 1 else if (m 1).claim < (m 0).claim then 0
    else s.wharf.addressed) else if (m 1).up then 1 else if (m 0).up then 0 else s.wharf.addressed
  s.modWharf (fun w => { w with addressed := pick })

/-- HEARTBEAT: a worker stays or comes back UP; in worker role the manager's claim and grant are taken, and while a HELLO_ACK
stands it makes its manager UP; from the partner its claim is judged by `judge` (R354, R357, R358, R363; assumption 67). -/
def State.heartbeatTake (s : State) (d : WDgram) (judge : State → Nat → State) : State :=
  if s.workerRole then
    let s := s.modWharf (fun w => { w with
      mgrs := updAt w.mgrs d.chip (fun m => { m with
        up := m.up || w.joined = 2, claim := d.claim, grant := leAt d.body 16 4 }) })
    s.chooseMgr.pumpUp
  else if d.assoc = 256 then judge s d.claim
  else
    let x := s.worker d.assoc
    if x.state = 2 || x.state = 3 then s.workerUp d.assoc x else s

/-- CREDIT updates the manager's grant (R355). -/
def execWharfCredit (s : State) : Host.Outcome State Fault Refusal :=
  s.takeDgram 4 (fun s d =>
    (s.modWharf (fun w => { w with
      mgrs := updAt w.mgrs d.chip (fun m => { m with grant := leAt d.body 0 4 }) })).pumpUp)

/-- credit_max of a worker's association. -/
def State.creditMax (s : State) (w : Nat) : Nat :=
  if s.wharf.switched.contains w then leAt ((s.linkOf w).getD []) 6 2 else s.fld .WHARF_CFG1 0 0 15 0

/-- Raise a worker's grant and send CREDIT once it has risen by a quarter of credit_max (R355). -/
def State.creditNow (s : State) (w : Nat) : State :=
  let x := s.worker w
  let g := (x.accepted + s.creditMax w) % 2 ^ 32
  if s.bpActive 3 w || (g + 2 ^ 32 - x.beat) % 2 ^ 32 < s.creditMax w / 4 || 2 ^ 31 ≤ (g + 2 ^ 32 - x.beat) % 2 ^ 32 then s
  else (s.setWorker w { x with grant := g, beat := g }).toWorker w 4 (toLE 4 g)

/-- The ISSUE manifest a worker exchange calls for (R356): a closed window, or 8 DATA frames since the last downlink. -/
def State.workerIssue (s : State) (w epx : Nat) (data : Bool) : State :=
  let n := Map.getD s.wharf.upCount epx 0 + b2n data
  let s := s.modWharf (fun y => { y with upCount := Map.put y.upCount epx n })
  let r := s.record epx
  if r.linkType = 3 && r.linkIndex = w && !s.issueQueued epx
      && (decide (8 ≤ n) || r.hasClosed (s.windowOf r s.time.ns)) then
    s.make kCommand 0xFF epx 3 w (some epx) []
  else s

/-- One item of an UP_ENV: credit, then the worker's ranges, then R95 and the signal FIFO (R355). -/
def State.upEnv (s : State) (w : Nat) (qual ns word : Nat) (env : Bytes) : State :=
  let x := s.worker w
  if !permits x.grant (x.accepted + 1) then (s.count .WHARF_CREDIT_DROP_CNT 0 0 1).raise .WHARF_INT 0 3
  else
    let s := s.setWorker w { x with accepted := (x.accepted + 1) % 2 ^ 32 }
    let tag := envTag env
    let inRange := (s.workerItems w).any (fun v => decide (leAt v 20 4 ≤ tag) && decide (tag ≤ leAt v 24 4))
    if !inRange then s.count .WHARF_RANGE_DROP_CNT 0 0 1
    else
      let r := s.arrive (16 + s.linkPort) env ⟨3, w, 0, ns % 2 ^ 30, word % 2 ^ 28, word / 2 ^ 28, qual⟩
      if r.2 && tag != 0xFFFFFF then r.1.workerIssue w tag (envType env = 0) else r.1

/-- Items of an UP_ENV (Table 13-2). -/
def State.upItems : Nat → Nat → Bytes → State → State
  | 0, _, _, s => s
  | k + 1, w, b, s =>
    let n := leAt b 12 2
    if b.length < 16 || b.length < 16 + n then s
    else State.upItems k w (b.drop (16 + n)) (s.upEnv w (leAt b 2 2) (leAt b 4 4) (leAt b 8 4) (slice b 16 n))

/-- UP_ENV (R355). -/
def execWharfUpEnv (s : State) : Host.Outcome State Fault Refusal :=
  s.takeDgram 0x10 (fun s d => (State.upItems d.body.length d.assoc d.body s).creditNow d.assoc)

/-- Items of a DOWN_ENV: one WHARF_FWD manifest each on the endpoint's flow (R359); an item of an invalid EPX makes none (R4;
assumption 55). -/
def State.downItems : Nat → Nat → Bytes → State → State
  | 0, _, _, s => s
  | k + 1, w, b, s =>
    let n := leAt b 4 2
    if b.length < 8 || b.length < 8 + n then s
    else
      let epx := leAt b 0 4
      State.downItems k w (b.drop (8 + n))
        (if epx < 2 ^ 22 then s.make kWharfFwd 0x11 epx 3 w (some epx) (slice b 8 n) else s)

/-- DOWN_ENV in worker role (R359). -/
def execWharfDownEnv (s : State) : Host.Outcome State Fault Refusal :=
  s.takeDgram 0x11 (fun s d => State.downItems d.body.length d.assoc d.body s)

/-- KEY_REQ becomes a WHARF_FWD manifest on the worker control flow (R356). -/
def execWharfKeyReq (s : State) : Host.Outcome State Fault Refusal :=
  s.takeDgram 0x12 (fun s d => s.make kWharfFwd 0x12 (0x410000 + d.assoc) 3 d.assoc none (fit 20 d.body))

/-- The 20-byte HEARTBEAT body (Table 13-2). -/
def State.beatBody (s : State) (bp : Bool) (grant count : Nat) : Bytes :=
  toLE 8 s.sec ++ toLE 4 s.nsec ++ toLE 1 s.quality ++ toLE 1 (b2n bp) ++ zeros 2 ++ toLE 4 grant ++ toLE 4 count

/-- What a section changes against the running plan: the first bytes of the items of some types that were added or removed (R51). -/
def State.changedKeys (s : State) (new : Section) (types : List Nat) : List Nat :=
  let old := types.flatMap (fun t => (s.items new.tag t).map (fun v => (t, v)))
  let now := (new.items.filter (fun i : Item => types.contains i.type)).map (fun i : Item => (i.type, i.value))
  ((old.filter (fun x => !now.contains x)) ++ (now.filter (fun x => !old.contains x))).map (fun x => leAt x.2 0 1)

/-- The workers that a WHARF section of a delta affects: every one when LINK or ADDR changes, else those whose items change (R371). -/
def State.affectedWorkers (s : State) (x : Section) : List Nat :=
  if s.changedKeys x [1, 2] = [] then s.changedKeys x [3] else s.workerIds

/-- At its heartbeat a worker follows the WHARF section of the delta in progress; a changed link_epoch starts its receive windows anew, and
its seq under the new epoch begins at 1 (R353, R371). -/
def State.switchWorker (s : State) (w : Nat) : State :=
  match s.plan.todo.head? with
  | some x =>
    if x.tag = 0xF0 && s.loader = 9 && s.fnLoad 0xD = 0 && (s.affectedWorkers x).contains w && !s.wharf.switched.contains w then
      let e := s.linkEpoch w
      let s := s.modWharf (fun y => { y with switched := w :: y.switched })
      let s := s.useSlot (leAt ((s.linkOf w).getD []) 8 1)
      if s.linkEpoch w = e then s
      else s.modWharf (fun y => { y with wins := Map.keep y.wins (fun k _ => decide (k / 4 ≠ w)) })
    else s
  | none => s

/-- The HEARTBEAT to one worker, raising its grant (R355); a period with no datagram since the last one was missed (Table 13-9). -/
def State.beatWorker (s : State) (w : Nat) : State :=
  let x := s.worker w
  if x.state = 2 || x.state = 3 then
    let s := s.switchWorker w
    let g := if s.bpActive 3 w then x.grant else (x.accepted + s.creditMax w) % 2 ^ 32
    let missed := if x.last < x.beatAt then satAdd 255 x.missed 1 else x.missed
    (s.setWorker w { x with grant := g, beat := g, missed := missed, beatAt := s.time.ns }).toWorker w 3
      (s.beatBody (s.bpActive 3 w) g x.accepted)
  else s

/-- Create up to `n` of the events still owed (R354: at most 100,000 a second). -/
def State.payNotices : Nat → State → State
  | 0, s => s
  | n + 1, s =>
    match s.wharf.notices with
    | [] => s
    | (w, ev, a, b) :: rest =>
      let s := s.modWharf (fun y => { y with notices := if a < b then (w, ev, a + 1, b) :: rest else rest })
      State.payNotices n (if a ≤ b then
        s.make kCommand (0xFE + ev * 256) a 3 w (some a) (toLE 4 a ++ toLE 1 ev ++ [0xFF, 0xFF, 0xFF] ++ zeros 4) else s)

/-- HEARTBEATs go on while a delta's WHARF section waits for one to each affected worker (Table 2-2; assumption 62). -/
def State.wharfBeats (s : State) : Bool := s.wharfOn || (s.inService && s.hm.held.contains 0xD)

/-- Every 100 ms: HEARTBEATs to workers or to the manager, and to the partner (R354, R355, R358). -/
def execWharfHeartbeatSend (s : State) : Host.Outcome State Fault Refusal :=
  if !s.inService then .next s
  else
    let s :=
      if s.workerRole then
        if s.wharfBeats && (s.wharf.mgrs.getD s.wharf.addressed ⟨false, 0, 0, 0⟩).up then
          s.toMgr s.wharf.addressed 3 (s.beatBody (!s.ep.bp.isEmpty) 0 s.wharf.sent)
        else s
      else if s.wharfBeats then State.payNotices 10000 (s.workerIds.foldl (fun s w => s.beatWorker w) s)
      else s
    .next (if s.hasPilot then s.toPartner 3 (s.beatBody false 0 0) else s)

/-- 300 ms without a valid datagram from a worker that is UP (R354). -/
def execWorkerLost (worker : Nat) (s : State) : Host.Outcome State Fault Refusal :=
  let x := s.worker worker
  if s.wharfOn && !s.workerRole && x.state = 2 && decide (x.last + 300000000 ≤ s.time.ns) then
    let s := s.setWorker worker { x with state := 3 }
    let s := (((s.raise .WHARF_INT 0 0).count .WHARF_LOST_CNT 0 0 1).event 0x1101 worker 0)
    let s := s.make kHostMsg 0 (0x410000 + worker) 3 worker none (toLE 4 worker)
    .next (s.workerNotices worker 6)
  else .next s

/-- In worker role: HELLO to every manager once per second until a HELLO_ACK comes, and again after the loss of every manager (R358). -/
def execWorkerRoleHelloSend (s : State) : Host.Outcome State Fault Refusal :=
  if s.workerRole && s.wharfOn && s.wharf.joined != 2 then
    let hello := toLE 2 0x7680 ++ toLE 2 0x00B0 ++ zeros 4
    .next ((s.toMgr 0 1 hello).toMgr 1 1 hello)
  else .next s

/-- A manager silent for 300 ms counts as lost; losing the last returns the chip to HELLO (R358, R360). -/
def execManagerLost (mgr : Nat) (s : State) : Host.Outcome State Fault Refusal :=
  match s.wharf.mgrs[mgr]? with
  | none => .next s
  | some m =>
    if s.workerRole && m.up && decide (m.last + 300000000 ≤ s.time.ns) then
      let s := (s.modWharf (fun w => { w with mgrs := updAt w.mgrs mgr (fun m => { m with up := false }) })).chooseMgr
      .next (if s.wharf.mgrs.any (·.up) then s
        else ((s.raise .WHARF_INT 0 0).count .WHARF_LOST_CNT 0 0 1).modWharf (fun w => { w with joined := 1 }))
    else .next s

/-! ### WHARF_FWD (R320, R356, R359) -/

/-- R320: what a KEY_REQ asks for may leave to this worker; its wrap slot. -/
def State.exportSlot (s : State) (w level purpose epoch l1 l2 epx serial : Nat) : Option Nat :=
  let shape := decide (epx < 2 ^ 22) && (level = 2 || level = 3 || level = 5)
    && (decide (3 ≤ level) || (epx = 0 && serial = 0)) && (level = 5 || (purpose = 0 && epoch = 0))
    && (level != 5 || (decide (1 ≤ purpose) && decide (purpose ≤ 4)))
  match (s.items 0xD0 2).find? (fun v => leAt v 0 1 = w && bit (leAt v 8 1) 0 && leAt v 2 2 = l1
      && decide (leAt v 4 2 ≤ l2) && decide (l2 ≤ leAt v 6 2)) with
  | some v => if shape && (s.keySlot (leAt v 1 1)).valid then some (leAt v 1 1) else none
  | none => none

/-- The wrapped key blob (Table 11-8). -/
def wrapBlob (level l1 l2 epx serial purpose slot epoch : Nat) (iv key wrap : Bytes) : Bytes :=
  let h := toLE 1 level ++ toLE 1 key.length ++ toLE 2 l1 ++ toLE 2 l2 ++ toLE 4 epx ++ toLE 8 serial ++ toLE 1 purpose
    ++ toLE 1 slot ++ toLE 2 epoch ++ zeros 2
  h ++ iv ++ Config.gcmSeal wrap iv h key

/-- What an export that R320 refuses stages. -/
def refuseExport (w level : Nat) : List Effect := [countFx .BOND_EXPORT_REFUSED_CNT, .log 0x0F02 w level none]

/-- A WHARF_FWD manifest of a KEY_REQ (R356): KEY, or the refusal of R320. -/
def execWharfFwdKeyReq (slot : Nat) (s : State) : Host.Outcome State Fault Refusal :=
  s.onKind slot kWharfFwd (fun m =>
    if m.kindArg != 0x12 then s
    else if s.workerRole || m.srcClass = 0 then s.complete slot stRejected [] []
    else
      let b := m.buf
      let w := m.srcIndex
      let level := leAt b 0 1
      let (purpose, epoch, l1, l2) := (leAt b 1 1, leAt b 2 2, leAt b 4 2, leAt b 6 2)
      let (epx, serial) := (leAt b 8 4, leAt b 12 8)
      match s.exportSlot w level purpose epoch l1 l2 epx serial with
      | none => s.complete slot stRejected [] (refuseExport w level)
      | some k =>
        let aes := (s.record (epx % 2 ^ 22)).aes256
        let p : KeyPath := ⟨5, l1, l2, epx, serial, purpose, epoch, aes⟩
        let s := s.useSlot k
        match s.requestKey p (if level = 2 then 2 else if level = 3 then 3 else 4) with
        | (s, none) => s.complete slot stRejected [] (refuseExport w level)
        | (s, some key) =>
          if !(s.keySlot k).valid then s.complete slot stRejected [] (refuseExport w level) else
          let iv := Config.trng s.bond.drawn 12
          let s := s.modBond (fun b => { b with drawn := b.drawn + 1 })
          s.complete slot stOk [] [.wharf w 0x13
            (wrapBlob level l1 l2 epx serial purpose k epoch iv key (s.keySlot k).material), countFx .BOND_EXPORT_CNT])

/-- A WHARF_FWD manifest of a DOWN_ENV item (R359): the envelope goes to the record's own link. -/
def execWharfFwdDownEnv (slot : Nat) (s : State) : Host.Outcome State Fault Refusal :=
  s.onKind slot kWharfFwd (fun m =>
    if m.kindArg = 0x12 then s
    else if !s.workerRole || m.srcClass = 0 || m.kindArg != 0x11 then s.complete slot stRejected [] []
    else s.withRec slot m.epx (fun s r =>
      if r.linkType = 1 || r.linkType = 2 then (s, stOk, linkEffect m.epx r (envType m.buf = 0xA) m.buf)
      else (s, stOk, [countFx .WHARF_RANGE_DROP_CNT])))

/-! ### Commit and start -/

/-- Bytes in the engine queue of worker role (R359). -/
def State.engineUsed (s : State) : Nat := (s.wharf.queue.map List.length).sum

/-- A committed Wharf-link datagram item (R356, R359): a downlink restarts the endpoint's count of DATA frames. -/
def State.wharfCommit (s : State) (w type : Nat) (body : Bytes) : State :=
  if s.workerRole then (s.modWharf (fun y => { y with queue := y.queue ++ [body] })).pumpUp
  else
    let s := if type = 0x11 then
        s.modWharf (fun y => { y with upCount := Map.del y.upCount (leAt body 0 4) })
      else s
    s.toWorker w type body

/-- A commit of a datagram item finds room (R359, R416). -/
def State.wharfRoom (s : State) (type : Nat) (body : Bytes) : Bool :=
  if s.workerRole then decide (s.engineUsed + body.length ≤ 262144)
  else s.ethRoom s.linkPort (queueOf type) (80 + body.length)

/-- The saved floor of an association under the present link_epoch. -/
def State.floorOf (s : State) (a : Nat) : Option Nat :=
  let page : Option Bytes := match s.store.cache.find? (fun c => c.part = 4 && c.page = floorPage a) with
    | some c => some c.data
    | none => match s.nandPage 4 (floorPage a) with
      | some x => some (s.pageData x [])
      | none => none
  page.bind (fun d => if leAt d 0 2 = s.linkEpoch a then some (leAt d 8 8) else none)

/-- The associations of the running plan. -/
def State.associations (s : State) : List Nat :=
  if s.workerRole then [s.ownWorker] else s.workerIds ++ (if (s.item? 0xF0 4).isSome then [256] else [])

/-- The WHARF section comes into service (R353, R371): registers, worker states, and send sequences. A sequence goes on from the larger
of its keepalive value and the saved floor and 2²⁴; one under a new link_epoch, or of an association new to it, begins at 1 while keepalive
SRAM is valid; and with neither value at hand the link stays closed until another link_epoch comes. -/
def State.wharfConfig (s : State) : State :=
  match s.link? with
  | none => s
  | some v =>
    let s := s.useSlot (leAt v 8 1)
    let s := s.set .WHARF_CFG0 0 0 (leAt v 2 2 + leAt v 4 2 * 2 ^ 16)
    let s := s.set .WHARF_CFG1 0 0 (leAt v 6 2 + leAt v 0 1 % 4 * 2 ^ 16)
    let e := s.linkEpoch 256
    let next (a : Nat) : Option Nat :=
      match Map.get? s.wharf.seqs (s.seqKey a), s.floorOf a with
      | some x, some f => some (max x (f + 2 ^ 24))
      | some x, none => some x
      | none, some f => some (f + 2 ^ 24)
      | none, none => if s.wharf.epoch.isSome && s.wharf.lostEpoch != some e then some 1 else none
    let as := s.associations
    let lost := as.any (fun a => (next a).isNone)
    let seqs := as.foldl (fun m a => match next a with
      | some n => Map.put m (s.seqKey a) n
      | none => m) s.wharf.seqs
    let s := s.modWharf (fun w => { w with
      seqs := seqs
      wins := if w.epoch = some e then w.wins else Map.keep w.wins (fun k _ => w.switched.contains (k / 4))
      epoch := some e
      lostEpoch := if lost then some e else none
      switched := []
      workers := (s.workerIds).foldl (fun m a => Map.put m a (Map.getD w.workers a WWorker.hello)) [] })
    s.setFlag .WHARF_STATUS 0 0 11 lost

/-- A WHARF section of a delta (R353, R371); where the plan had none, its link_epoch is a new one. -/
def State.wharfDelta (s old : State) : State :=
  if old.hasSection 0xF0 then s.wharfConfig
  else (s.modWharf (fun w => { w with epoch := some (w.epoch.getD 0), lostEpoch := none })).wharfConfig

end Sys2Proof.Machine
end

