-- ==== Sys2Proof/Machine/Functions.lean ====
section
/-!
DEFINITION. A function's start and its end (R81-R83), with what each function's chapter does then.
-/
namespace Sys2Proof.Machine

/-- The function reaches RUNNING (R81; the balance takes its marks, R256; the panel powers up, R438). -/
def State.fnOn (s : State) (f : Nat) : State :=
  let s := (s.setFld .HM_FUNC_CTL f 0 4 3 1).setFlag .HM_FUNC_CTL f 0 0 true
  if f = 0x11 then s.balStart else if f = 0x14 then s.panelUp else s

/-- The function reaches OFF (R82, R147, R191, R255, R438). -/
def State.fnOff (s : State) (f : Nat) : State :=
  let s := ((s.setFld .HM_FUNC_CTL f 0 4 3 0).setFlag .HM_FUNC_CTL f 0 0 false).setFlag .HM_FUNC_CTL f 0 2 false
  if 1 ≤ f && f ≤ 8 then s.plcOff (f - 1)
  else if 9 ≤ f && f ≤ 0xC then s.radioOff (f - 9)
  else if f = 0x11 then s.balOff
  else if f = 0x14 then s.panelDown
  else s

/-- The plan enables the function: its section is there, and the SEG or PORT item of a segment or port, or the CFG item of craft
control, sets enable (R38, R282, R450). -/
def State.planEnables (s : State) (f : Nat) : Bool :=
  if 1 ≤ f && f ≤ 8 then (s.items 0x60 1).any (fun v => leAt v 0 1 = f - 1 && bit (leAt v 1 1) 0)
  else if 9 ≤ f && f ≤ 0xC then (s.items 0x70 1).any (fun v => leAt v 0 1 = f - 9 && bit (leAt v 1 1) 0)
  else if f = 0x12 then (s.items 0xB0 1).any (fun v => bit (leAt v 1 1) 0)
  else s.fnPresent f

/-- Every function of Table 3-7. -/
def allFns : List Nat := List.range 0x17

/-- PWR.STATUS.in_service is set once every function that the plan enables runs; BOOT_MS is the time since the release
(R450, Table 18-12). -/
def State.noteService (s : State) : State :=
  if s.inService && !s.flag .PWR_STATUS 0 0 11 && (allFns.filter s.planEnables).all s.fnRunning then
    ((s.setFlag .PWR_STATUS 0 0 11 true).raise .PWR_INT 0 5).set .PWR_BOOT_MS 0 0
      (((s.time.ns : Int) - s.pwr.released) / 1000000).toNat
  else s

/-- Start every function that the plan enables (R450 step 11, R369 step 4); one that still drains starts when it is OFF (R83). -/
def State.startFns (s : State) : State :=
  let late := allFns.filter (fun f => s.planEnables f && (s.fnState f = 2 || s.fnState f = 3))
  let s := s.modHm (fun h => { h with restart := late })
  ((allFns.filter (fun f => s.planEnables f && s.fnState f = 0)).foldl (fun s f => s.fnOn f) s).noteService

/-- A function that was to start again starts when its drain has ended. -/
def State.restartFn (s : State) (f : Nat) : State :=
  if s.hm.restart.contains f then (s.modHm (fun h => { h with restart := h.restart.filter (· ≠ f) })).fnOn f else s

/-- A write of 1 to a function's enable: taken while the function is OFF, the plan is in service and gives the function,
and neither a standby rank nor a delta holds it (R46, R51, R81, R83, R367). -/
def execFunctionEnable (fn : Nat) (s : State) : Host.Outcome State Fault Refusal :=
  if s.hostHeld then .next s else
  if decide (fn ≤ 0x16) && s.inService && s.fnPresent fn && !s.standby && !s.hm.held.contains fn && s.fnState fn = 0 then
    .next (s.fnOn fn)
  else .next s

/-- Segments and ports are all OFF and the signal block restarts: each is enabled as the plan sets (R394, Table 15-6). -/
def State.signalBack (s : State) : State :=
  let fs := (List.range 12).map (· + 1)
  if s.upd.restarting && fs.all (fun f => s.fnState f = 0) then
    let s := s.modUpd (fun u => { u with restarting := false })
    if s.inService && !s.standby then (fs.filter (fun f => s.planEnables f)).foldl (fun s f => s.fnOn f) s else s
  else s

/-- No manifest of a draining function remains: OFF, and what the function's chapter does then (R82). A function that the
loader holds waits for its section instead (R51). -/
def execFunctionOff (fn : Nat) (s : State) : Host.Outcome State Fault Refusal :=
  if s.hm.held.contains fn then .next s
  else if (s.fnState fn = 2 || s.fnState fn = 3) && s.fnLoad fn = 0 then .next ((s.fnOff fn).signalBack.restartFn fn)
  else .next s

end Sys2Proof.Machine
end

