-- ==== Sys2Proof/Machine/EpDecode.lean ====
section
/-!
DEFINITION. An endpoint record read back from its 256 bytes (Table 4-1), for a checkpoint image (R368, R369).
-/
namespace Sys2Proof.Machine

/-- A pending entry of Table 4-9; `arg` gives the bytes of the argument area at a cell. -/
def Pend.ofBytes (b : Bytes) (arg : Nat → Nat → Bytes) : Option Pend :=
  let p := leAt b 13 1
  if bit p 3 then
    some ⟨leAt b 0 4, leAt b 4 4, leAt b 8 2, leAt b 10 2, leAt b 12 1, p % 8, arg (leAt b 16 4) (leAt b 14 2), leAt b 16 4⟩
  else none

/-- The record in 256 bytes; a wrong CRC makes it a lost record (R92). -/
def EpRec.ofBytes (b : Bytes) (arg : Nat → Nat → Bytes) : EpRec :=
  if b.all (· = 0) then EpRec.empty
  else if leAt b 252 4 != crc32 (b.take 252) then EpRec.lost
  else
    let c := leAt b 8 1
    let f := leAt b 10 2
    { serial := leAt b 0 8, cls := c % 16, aes256 := bit c 4, battery := bit c 5, dlmsOk := bit c 6, billed := bit c 7,
      state := leAt b 9 1, recordLost := bit f 0, rekeyDue := bit f 1, lowBattery := bit f 2, timeCorrDue := bit f 3,
      fwPush := bit f 4, l1 := leAt b 12 2, l2 := leAt b 14 2, keyEpoch := leAt b 16 2, timeCorr := leSigned b 18 2,
      rxHigh := leAt b 20 4, rxMap := leAt b 24 8, txCounter := leAt b 32 4, linkType := leAt b 36 1,
      linkIndex := leAt b 37 1, position := leAt b 38 2, channel := leAt b 40 1, linkState := leAt b 41 1,
      linkQuality := leAt b 42 2, lastRx := leAt b 44 4, veeLastEnd := leAt b 48 4,
      chans := (List.range 4).map (fun k => ⟨leAt b (52 + 8 * k) 4, leAt b (56 + 8 * k) 4⟩),
      veeFail := leAt b 84 2, veeEst := leAt b 86 2, balGroup := leAt b 88 2, balMember := leAt b 90 2,
      tamperSeen := leAt b 92 4, tamperLast := leAt b 96 4, tamperTotal := leAt b 100 2, batteryLevel := leAt b 102 1,
      pend := (List.range 4).map (fun k => Pend.ofBytes (slice b (104 + 20 * k) 20) arg),
      classArea := slice b 184 64, held := [] }

end Sys2Proof.Machine
end

