-- ==== Sys2Proof/Machine/ImageConfig.lean ====
section
/-!
DEFINITION. The byte layouts of checkpoint regions 1, 2, 3 and 5 and of a SLOT journal item, which the spec names and
does not give (R368, Table 13-5; assumption 30): constants with no body.
-/
namespace Sys2Proof.Config
open Sys2Proof.Machine

/-- The 32-byte slot-table entry of a SLOT item, for the entry at a channel and slot; none for a removed one. -/
opaque slotEnc : Nat → Nat → Option RadioEntry → Bytes

/-- A SLOT item's channel, slot and entry. -/
opaque slotDec : Bytes → Nat × Nat × Option RadioEntry

/-- Region 1: the slot tables of the four ports. -/
opaque slotsEnc : List (List RadioEntry) → Bytes

/-- Region 1 read back. -/
opaque slotsDec : Bytes → List (List RadioEntry)

/-- Region 2: neighbour entries and poll tables of the eight segments. -/
opaque plcEnc : List (Map PlcNode) → Bytes

/-- Region 2 read back. -/
opaque plcDec : Bytes → List (Map PlcNode)

/-- Region 3: craft rows, reservations and tasks. -/
opaque craftEnc : Map CraftRow → Map (List Resv) → Map Task → Bytes

/-- Region 3 read back. -/
opaque craftDec : Bytes → Map CraftRow × Map (List Resv) × Map Task

/-- Region 5: the PLC anchors, the radio anchors, stop_epoch and PILOT.OUT. -/
opaque anchorsEnc : List Int → List Int → Nat → Nat → Bytes

/-- Region 5 read back. -/
opaque anchorsDec : Bytes → List Int × List Int × Nat × Nat

end Sys2Proof.Config
end

