-- ==== Sys2Proof/Machine/Pilot.lean ====
section
/-!
DEFINITION. The redundant pair (R361-R370): claims and the Pilot link, checkpoint passes and the journal, takeover and
the drill.
-/
namespace Sys2Proof.Machine

/-! ### Claims (R361-R363) -/

/-- Rank of Table 13-11. -/
def State.rank (s : State) : Nat := s.fld .PILOT_STATUS 0 0 3 0

/-- The chip takes a rank under an epoch. -/
def State.setClaim (s : State) (rank epoch : Nat) : State :=
  ((s.setFld .PILOT_STATUS 0 0 3 0 rank).set .PILOT_CLAIM 0 0 (rank * 2 ^ 28 + epoch % 2 ^ 28)).modPilot (fun p =>
    { p with epoch := epoch % 2 ^ 28 })

/-- Transmit permission as the claim gives it (R363). -/
def State.mayTransmit (s : State) : Bool := s.rank = 8 && s.pilot.ready && decide (8 ≤ s.pilot.higher)

/-- Grant or withdraw transmit permission; its loss is the CLAIM all-stop source (R276). -/
def State.setPermit (s : State) : State := (s.setFlag .PILOT_STATUS 0 0 5 s.mayTransmit).stopEval

/-- lost_frames. -/
def State.lostFrames (s : State) : Nat := s.fld .PILOT_CFG 0 0 9 2

/-- The Pilot link runs: a PILOT section, and the plan in service (R362). -/
def State.pilotOn (s : State) : Bool := s.hasPilot && s.inService

/-- The PAIR item comes into service (R373). -/
def State.pilotConfig (s : State) : State :=
  match s.item? 0x100 1 with
  | some v =>
    let s := s.set .PILOT_CFG 0 0 (leAt v 0 1 % 4 + leAt v 1 1 * 2 ^ 2)
    (s.set .PILOT_PAIR_ID 0 0 (leAt v 4 4)).setFlag .PILOT_STATUS 0 0 4 (bit (leAt v 0 1) 0)
  | none => s

/-- After SEALED the chip claims STARTING and listens (R363). -/
def State.pilotStart (s : State) : State :=
  if s.hasPilot then
    (s.modPilot (fun p => { p with
      periods := 0, since := 0, higher := 8, seen := false, seenActive := false, highest := 0 })).setClaim 1 s.pilot.epoch
  else s

/-- The partner association carries journal and checkpoints: the chip is ACTIVE and a first pass has begun (R368). -/
def State.journals (s : State) : Bool := s.rank = 8 && s.wharf.pass != 0 && (s.item? 0xF0 4).isSome

/-- Partner in sync, as WHARF.STATUS shows it. -/
def State.inSync (s : State) : Bool := s.flag .WHARF_STATUS 0 0 9

/-- Forget the partner association's pass, journal and image; the send sequence goes on (R353). -/
def State.pairForget (s : State) : State :=
  let s := s.modWharf (fun w => { w with
    pass := 0, passAt := 0, region := 6, offset := 0, passEnd := 0, unacked := [], lastJournal := 0, jacked := 0, desync := false,
    rxNext := 0, rxAhead := [], imgCur := none, imgDone := none, itemsCur := [], itemsDone := [] })
  { (s.setFlag .WHARF_STATUS 0 0 9 false).setFlag .WHARF_STATUS 0 0 10 false with heldDown := [] }

/-- Every function is disabled under its drain policy (R32, R82). -/
def State.drainFns (s : State) : State := allFns.foldl (fun s f => s.disableFn f) s

/-- The chip takes STANDBY: its functions go OFF by their drain policies (R32, R82, R367). -/
def State.takeStandby (s : State) (epoch : Nat) : State :=
  ((s.setClaim 4 epoch).pairForget.modPilot (fun p => { p with ready := false })).setPermit.drainFns

/-- A drill whose chip stands down has handed over: its HANDOVER was taken up before the JACK came, or the partner took over by itself
(R370). -/
def State.drillOver (s : State) : State :=
  s.modPilot (fun p => { p with
    drill := if p.drill = 0 then 0 else 3
    drillAt := if p.drill = 1 then s.time.ns else p.drillAt })

/-- The chip stands down on a claim (R363). -/
def State.standDown (s : State) (c : Nat) : State :=
  ((((s.event 0x1202 (s.get .PILOT_CLAIM 0 0) c).raise .PILOT_INT 0 1).drillOver).takeStandby (max s.pilot.epoch (c % 2 ^ 28)))

/-- Whether an ACTIVE chip must stand down on a claim it receives. -/
def State.mustStandDown (s : State) (c : Nat) : Bool :=
  s.rank = 8 && (decide (s.get .PILOT_CLAIM 0 0 < c) || (c = s.get .PILOT_CLAIM 0 0 && s.flag .PILOT_CFG 0 0 0))

/-! ### The journal (R368) -/

/-- Bytes of journal without a JACK. -/
def WharfState.owed (w : WharfState) : Nat :=
  ((w.unacked.filter (·.type = 0x21)).map (fun u => u.payload.length)).sum

/-- A committed PLC, radio or Wharf transmit item (Table 1-2). -/
def State.commitLink (s : State) (e : Effect) : State :=
  match e with
  | .plc seg pos it => s.plcCommit seg pos it
  | .radio port slot chan it =>
    (match it with
     | .craftOrder c body orders => s.craftQueue c body orders
     | _ => s.radioCommit port slot chan it)
  | .wharf w type body => s.wharfCommit w type body
  | _ => s

/-- Release the downlinks whose JACK has come, in the order they were committed. -/
def State.releaseHeld (s : State) (upTo : Nat) : State :=
  let ready := s.heldDown.filter (fun e => decide (e.1 ≤ upTo))
  ready.foldl (fun s e => s.commitLink e.2) { s with heldDown := s.heldDown.filter (fun e => decide (upTo < e.1)) }

/-- 64 MiB of journal without a JACK: the partner is DESYNC, and downlinks are held no more (R368). What has no JACK is still sent
again, so that the next full pass ends it. -/
def State.checkGap (s : State) : State :=
  if 67108864 ≤ s.wharf.owed && !s.wharf.desync then
    let s := (s.raise .PILOT_INT 0 5).event 0x1203 0 (s.wharf.owed / 1048576)
    let s := (s.modWharf (fun w => { w with desync := true })).setFlag .WHARF_STATUS 0 0 9 false
    s.heldDown.foldl (fun s e => s.commitLink e.2) { s with heldDown := [] }
  else s

/-- Journal one item of Table 13-5. -/
def State.pairJournal (s : State) (type : Nat) (content : Bytes) : State :=
  if s.journals then (s.toPartner 0x21 (toLE 1 type ++ [0] ++ toLE 2 content.length ++ content)).checkGap else s

/-- Journal the slot-table entries that changed since an earlier state. -/
def State.journalSlots (s old : State) : State :=
  let same (a b : RadioEntry) : Bool := a.epx = b.epx && a.chan = b.chan && a.slot = b.slot && a.sch = b.sch
  (List.range 4).foldl (fun s n =>
    let now := (s.rport n).entries
    let was := (old.rport n).entries
    let s := (was.filter (fun e => !now.any (same e))).foldl (fun s e =>
      s.pairJournal 4 (toLE 1 n ++ zeros 3 ++ Config.slotEnc e.chan e.slot none)) s
    (now.filter (fun e => !was.any (same e))).foldl (fun s e =>
      s.pairJournal 4 (toLE 1 n ++ zeros 3 ++ Config.slotEnc e.chan e.slot (some e))) s) s

/-- Journal a record's write-back: RECORD for a changed state, link or pending command, TXMARK at a multiple of 256. -/
def State.journalRec (s : State) (epx : Nat) (old new : EpRec) : State :=
  let link (r : EpRec) : List Nat := [r.state, r.serial % 2 ^ 64, r.linkType, r.linkIndex, r.position, r.channel]
  let s := if link old != link new || old.pend != new.pend then s.pairJournal 2 (toLE 4 epx ++ new.bytes s.upd.recFormat) else s
  if new.txCounter / 256 = old.txCounter / 256 then s
  else s.pairJournal 3 (toLE 4 epx ++ toLE 4 (new.txCounter / 256 * 256 + 256))

/-- RADIO.ENTRY_CMD PLACE (R184), journaled. -/
def execRadioEntryPlace (port : Nat) (val : Word) (s : State) : Host.Outcome State Fault Refusal :=
  if s.hostHeld then .next s else
  .next ((s.entryPlace port val).journalSlots s)

/-! ### Checkpoint passes (R368) -/

/-- Bytes of the command argument area (Table 4-11). -/
def State.argBytes (s : State) : Nat := 64 * s.argCells

/-- `n` bytes of the command argument area at offset `o`: a pending command's argument lies at its cell of 64 bytes. -/
def State.argArea (s : State) (o n : Nat) : Bytes :=
  let ps := (s.ep.recs.flatMap (fun e => e.2.pend.filterMap id)).filter (fun p =>
    decide (64 * p.argCell < o + n) && decide (o < 64 * p.argCell + p.arg.length))
  ps.foldl (fun b p =>
    let at' := 64 * p.argCell
    fit n (if at' < o then overlay b 0 (p.arg.drop (o - at')) else overlay b (at' - o) p.arg)) (zeros n)

/-- Bytes of a region whose layout assumption 30 leaves to the chip. -/
def State.regionBytes (s : State) (r : Nat) : Bytes :=
  if r = 1 then Config.slotsEnc (s.radio.ports.map (·.entries))
  else if r = 2 then Config.plcEnc (s.plc.map (·.nodes))
  else if r = 3 then Config.craftEnc s.craft.rows s.craft.lanes s.craft.tasks
  else Config.anchorsEnc (s.plc.map (·.anchor)) (s.radio.ports.map (·.anchor)) s.craft.epoch (s.get .PILOT_OUT 0 0)

/-- Size of a region. -/
def State.regionSize (s : State) (r : Nat) : Nat :=
  if r = 0 then 2 ^ 30 else if r = 4 then s.argBytes else (s.regionBytes r).length

/-- Data bytes a CKPT datagram carries. -/
abbrev ckptChunk : Nat := 1024

/-- One chunk of a region. -/
def State.regionChunk (s : State) (r o : Nat) : Bytes :=
  if r = 0 then (List.range 4).flatMap (fun k => (s.record (o / 256 + k)).bytes s.upd.recFormat)
  else if r = 4 then s.argArea o (min ckptChunk (s.argBytes - o))
  else slice (s.regionBytes r) o ckptChunk

/-- Send the next CKPT datagram of the pass. -/
def State.ckptNext (s : State) : State :=
  let w := s.wharf
  if 6 ≤ w.region then s
  else
    let q := s.nextSeq 256
    let s' := s.toPartner 0x20
      (toLE 4 w.pass ++ toLE 1 w.region ++ zeros 3 ++ toLE 8 w.offset ++ s.regionChunk w.region w.offset)
    let last := decide (s.regionSize w.region ≤ w.offset + ckptChunk)
    s'.modWharf (fun x => { x with
      region := if last then w.region + 1 else w.region
      offset := if last then 0 else w.offset + ckptChunk
      passEnd := if last && w.region = 5 then q else x.passEnd })

/-- Every 60 s the active chip begins a pass, once the one before is sent (R368; assumption 67). -/
def execCheckpointPassStart (s : State) : Host.Outcome State Fault Refusal :=
  if s.pilotOn && s.rank = 8 && s.pilot.ready && (s.item? 0xF0 4).isSome && s.wharf.region = 6
      && (s.wharf.pass = 0 || decide (s.wharf.passAt + 60000000000 ≤ s.time.ns)) then
    .next ((s.modWharf (fun w => { w with
      pass := (w.pass + 1) % 2 ^ 32, passAt := s.time.ns, region := 0, offset := 0 })).setFlag
      .WHARF_STATUS 0 0 10 true)
  else .next s

/-- A port sends its next frame (R416); an idle LINK port with a pass in progress takes its next chunk (R368). -/
def execEthFrameTransmit (port : Nat) (s : State) : Host.Outcome State Fault Refusal :=
  let s := if port = s.linkPort && s.pilotOn && s.rank = 8 && ((s.ethPort port).queues.getD 1 []).isEmpty && s.ethUp port then
      s.ckptNext else s
  .next (s.ethSend port)

/-- Datagrams without a JACK for 5 ms go out again, the same bytes under the same seq (R368). -/
def execJournalResend (s : State) : Host.Outcome State Fault Refusal :=
  match s.item? 0xF0 4 with
  | none => .next s
  | some v =>
    if s.rank != 8 then .next s
    else
      let due (u : Unacked) : Bool := decide (u.sentAt + 5000000 ≤ s.time.ns)
      let port := s.fld .WHARF_CFG0 0 0 31 16
      let s' := (s.wharf.unacked.filter due).foldl (fun s u =>
        (s.udpSend (queueOf u.type) (addrAt v 0) port port u.payload).count .WHARF_TX_DGRAM_CNT 0 0 1) s
      .next (s'.modWharf (fun w => { w with
        unacked := w.unacked.map (fun u => if due u then { u with sentAt := s.time.ns } else u) })).checkGap

/-- The standby acknowledges every 1 ms (R368). -/
def execJackSend (s : State) : Host.Outcome State Fault Refusal :=
  if s.pilotOn && s.rank = 4 && s.wharf.rxNext != 0 then .next (s.toPartner 0x22 (toLE 8 (s.wharf.rxNext - 1))) else .next s

/-- JACK: what it covers is acknowledged, held downlinks go, a covered pass is complete, a covered HANDOVER ends the active
role (R367, R368, R370). -/
def execWharfJack (s : State) : Host.Outcome State Fault Refusal :=
  s.takeDgram 0x22 (fun s d =>
    if s.rank != 8 then s
    else
      let q := max s.wharf.jacked (leAt d.body 0 8)
      let done := s.wharf.passEnd != 0 && decide (s.wharf.passEnd ≤ q)
      let s := s.modWharf (fun w => { w with
        jacked := q, unacked := w.unacked.filter (fun u => decide (q < u.seq))
        passEnd := if done then 0 else w.passEnd, desync := w.desync && !done })
      let s := if done then
          ((s.setFlag .WHARF_STATUS 0 0 9 true).setFlag .WHARF_STATUS 0 0 10 false).raise .WHARF_INT 0 4
        else s
      let s := s.releaseHeld q
      if s.pilot.drill = 2 && decide (s.pilot.drillSeq ≤ q) then
        (s.modPilot (fun p => { p with drill := 3 })).takeStandby s.pilot.epoch
      else s)

/-! ### The standby's side (R367, R368) -/

/-- A pass is complete when its last region has come and no seq is missing. -/
def State.imageCheck (s : State) : State :=
  match s.wharf.imgCur with
  | some i =>
    if i.chunks.any (fun c => c.1 = 5) && s.wharf.rxAhead.isEmpty then
      (s.modWharf (fun w => { w with
        imgDone := some i, itemsDone := w.itemsCur.filter (fun x => decide (i.from' < x.1)), desync := false })).setFlag .WHARF_STATUS 0 0 9 true
    else s
  | none => s

/-- CKPT writes the image slot in progress; a later pass number begins it, and a gap still open then is a DESYNC until a full pass is
complete (R368). A chunk of an earlier pass, sent again, is out of date. -/
def execWharfCkpt (s : State) : Host.Outcome State Fault Refusal :=
  s.takeDgram 0x20 (fun s d =>
    if s.rank != 4 then s
    else
      let pass := leAt d.body 0 4
      let fresh := match s.wharf.imgCur with
        | some i => i.pass != pass && decide ((pass + 2 ^ 32 - i.pass) % 2 ^ 32 < 2 ^ 31)
        | none => true
      let stale := match s.wharf.imgCur with
        | some i => i.pass != pass && !fresh
        | none => false
      let gap := fresh && !s.wharf.rxAhead.isEmpty
      let s := if gap then s.setFlag .WHARF_STATUS 0 0 9 false else s
      let data := d.body.drop 16
      let chunk := (leAt d.body 4 1, leAt d.body 8 8, data)
      let keep := leAt d.body 4 1 = 5 || !data.all (· = 0)
      if stale then s.imageCheck
      else (s.modWharf (fun w =>
        let i : Image := if fresh then ⟨pass, d.seq, []⟩ else w.imgCur.getD ⟨pass, d.seq, []⟩
        { w with
          desync := w.desync || gap
          itemsCur := if fresh then w.itemsCur.filter (fun x => decide (d.seq < x.1)) else w.itemsCur
          imgCur := some { i with from' := min i.from' d.seq, chunks := if keep then i.chunks ++ [chunk] else i.chunks } })).imageCheck)

/-- Split a JOURNAL body into items of type and content. -/
def journalItems : Nat → Bytes → List (Nat × Bytes)
  | 0, _ => []
  | k + 1, b =>
    let n := leAt b 2 2
    if b.length < 4 || b.length < 4 + n then [] else (leAt b 0 1, slice b 4 n) :: journalItems k (b.drop (4 + n))

/-- Insert an item by the seq that carried it. -/
def insertItem (q : Nat) (x : Bytes) : List (Nat × Bytes) → List (Nat × Bytes)
  | [] => [(q, x)]
  | y :: ys => if q < y.1 then (q, x) :: y :: ys else y :: insertItem q x ys

/-- A journal item at the standby: HANDOFF enters the mailbox, HANDOVER starts a takeover, and the others follow the image
(R367, R368, R370). -/
def State.journalItem (s : State) (q : Nat) (it : Nat × Bytes) : State :=
  if it.1 = 1 then
    let add : CustomsState → CustomsState := fun c =>
      { c with mailbox := c.mailbox ++ [⟨leAt it.2 0 8, it.2.drop 8⟩] }
    (s.count .CUSTOMS_HANDOFF_CNT 0 0 1).modCustoms add
  else if it.1 = 6 then s.modPilot (fun p => { p with handover := true, drillAt := s.time.ns })
  else
    let x := toLE 1 it.1 ++ it.2
    s.modWharf (fun w => { w with itemsCur := insertItem q x w.itemsCur, itemsDone := insertItem q x w.itemsDone })

/-- JOURNAL; a HANDOFF that finds no room in the mailbox waits (R213, R368). -/
def execWharfJournal (s : State) : Host.Outcome State Fault Refusal :=
  match s.wharf.rxq with
  | [] => .next s
  | d :: rest =>
    let items := journalItems d.body.length d.body
    let need := ((items.filter (·.1 = 1)).map (fun i => i.2.length)).sum
    if d.type != 0x21 || 65536 < s.mailboxBytes + need then .next s
    else
      let s := s.modWharf (fun w => { w with rxq := rest })
      .next (if s.rank != 4 then s else (items.foldl (fun s i => s.journalItem d.seq i) s).imageCheck)

/-- HEARTBEAT; the partner's claim may make the chip stand down (R354, R358, R363). -/
def execWharfHeartbeat (s : State) : Host.Outcome State Fault Refusal :=
  s.takeDgram 3 (fun s d => s.heartbeatTake d (fun s c =>
    let s := s.modPilot (fun p => { p with highest := max p.highest (c % 2 ^ 28) })
    if s.mustStandDown c then s.standDown c else s))

/-! ### Claim frames (R362, R363) -/

/-- The 20-byte body of the next claim frame (Table 13-3). -/
def State.claimBody (s : State) : Bytes :=
  let chip := b2n (s.flag .PILOT_CFG 0 0 0)
  let out := b2n (s.flag .PILOT_STATUS 0 0 5) + b2n s.stopOut * 2 + s.fld .PILOT_OUT 0 0 29 0 * 4
  let b := toLE 1 (1 + chip * 16) ++ toLE 1 (b2n s.craft.allStop + b2n (s.pilot.drill = 1 || s.pilot.drill = 2) * 2)
    ++ toLE 2 s.pilot.fseq ++ toLE 4 (s.get .PILOT_CLAIM 0 0) ++ toLE 4 out ++ toLE 4 (s.get .PILOT_PAIR_ID 0 0)
  b ++ toLE 4 (crc32 b)

/-- A claim frame on the line (R362): two bytes of 0x55, the start byte 0xD5 and the body, each byte least significant bit first; a 0 is
high then low, a 1 low then high. -/
def claimLine (body : Bytes) : List Bool :=
  ([0x55, 0x55, 0xD5] ++ body).flatMap (fun (b : Byte) => (List.range 8).flatMap (fun i => [!b.getLsbD i, b.getLsbD i]))

/-- A draining drill journals HANDOVER once every function is OFF (R370). -/
def State.drillStep (s : State) : State :=
  if s.pilot.drill = 1 && allFns.all (fun f => s.fnState f = 0) then
    let s := s.pairJournal 6 []
    s.modPilot (fun p => { p with drill := 2, drillSeq := s.wharf.lastJournal, drillAt := s.time.ns })
  else s

/-- Each millisecond a claim frame goes out (R362, R363). -/
def execClaimFrameSend (s : State) : Host.Outcome State Fault Refusal :=
  if !s.pilotOn then .next s
  else
    let s := s.modPilot (fun p => { p with periods := p.periods + 1, since := p.since + 1, higher := min 8 (p.higher + 1) })
    let s := s.setFlag .PILOT_STATUS 0 0 6 (s.pilot.seen && decide (s.pilot.since < 8))
    let s := if s.pilot.since = s.lostFrames then s.raise .PILOT_INT 0 2 else s
    let s := s.setPermit.drillStep
    let b := s.claimBody
    .next (s.modPilot (fun p => { p with tx := b, line := claimLine b, fseq := (p.fseq + 1) % 65536 }))

/-- A drill ends with a result (R370). -/
def State.drillEnd (s : State) (result ms : Nat) : State :=
  let s := s.set .PILOT_DRILL_RESULT 0 0 (result + min 65535 ms * 2 ^ 16)
  let s := (s.setFlag .PILOT_STATUS 0 0 7 false).modPilot (fun p => { p with drill := 0 })
  (s.raise .PILOT_INT 0 4).event 0x1204 result ms

/-- A partner frame ends (R363): checks, claims, ranks, the end of a drill. -/
def execClaimFrameReceived (body : Bytes) (s : State) : Host.Outcome State Fault Refusal :=
  if !s.pilotOn then .next s
  else if body.length != 20 || leAt body 16 4 != crc32 (body.take 16) || leAt body 12 4 != s.get .PILOT_PAIR_ID 0 0 then
    .next (s.count .PILOT_FRAME_ERR_CNT 0 0 1)
  else
    let c := leAt body 4 4
    let r := c / 2 ^ 28
    if leAt body 0 1 % 16 != 1 || !(r = 1 || r = 4 || r = 8) then .next s
    else
      let own := s.get .PILOT_CLAIM 0 0
      let back := s.pilot.seen && decide (s.lostFrames ≤ s.pilot.since)
      let s := s.modPilot (fun p => { p with
        seen := true, seenActive := p.seenActive || r = 8, since := 0, highest := max p.highest (c % 2 ^ 28)
        higher := if own < c then 0 else p.higher })
      let s := (s.setFld .PILOT_STATUS 0 0 11 8 r).setFlag .PILOT_STATUS 0 0 6 true
      let s := s.set .PILOT_PARTNER_CLAIM 0 0 c
      let s := if back then s.raise .PILOT_INT 0 3 else s
      let s := if s.mustStandDown c then s.standDown c
        else if s.rank = 1 && r = 8 then s.takeStandby (c % 2 ^ 28) else s
      let ms := (s.time.ns - s.pilot.drillAt) / 1000000
      let s := if s.pilot.drill = 3 && r = 8 && bit (leAt body 8 4) 0 then s.drillEnd 1 ms else s
      .next s.setPermit

/-- The claim epoch an ACTIVE takes: one more than the larger of its own and the highest received (R361). -/
def State.nextEpoch (s : State) : Nat := (max s.pilot.epoch s.pilot.highest + 1) % 2 ^ 28

/-- No ACTIVE frame was received: the preferred chip takes ACTIVE at the 21st period, the other after 100 (R363). -/
def execClaimStartupDecision (s : State) : Host.Outcome State Fault Refusal :=
  let due := if s.flag .PILOT_CFG 0 0 1 then 21 else 100
  if s.pilotOn && s.rank = 1 && !s.pilot.seenActive && decide (due ≤ s.pilot.periods) then
    .next (s.setClaim 8 s.nextEpoch).setPermit
  else .next s

/-! ### Takeover (R369) -/

/-- A standby in sync that hears nothing for lost_frames periods, or that holds a HANDOVER, claims ACTIVE (R369 step 1). -/
def execTakeover (s : State) : Host.Outcome State Fault Refusal :=
  let lost := decide (s.lostFrames ≤ s.pilot.since)
  if s.pilotOn && s.rank = 4 && (lost || s.pilot.handover) then
    if s.wharf.imgDone.isSome && !s.wharf.desync then
      let s := s.setClaim 8 s.nextEpoch
      let s := (s.modPilot (fun p => { p with resuming := true, ready := false, higher := 8 })).setPermit
      .next (((s.raise .PILOT_INT 0 0).count .PILOT_TAKEOVER_CNT 0 0 1).event 0x1201 (s.get .PILOT_CLAIM 0 0) 0)
    else .next (if lost then s.raise .PILOT_INT 0 2 else s)
  else .next s

/-- `n` bytes of an image's region at an offset; what it does not hold is zero. -/
def Image.read (i : Image) (r o n : Nat) : Bytes :=
  (i.chunks.filter (fun c => c.1 = r && decide (c.2.1 < o + n) && decide (o < c.2.1 + c.2.2.length))).foldl (fun b c =>
    fit n (if c.2.1 < o then overlay b 0 (c.2.2.drop (o - c.2.1)) else overlay b (c.2.1 - o) c.2.2)) (zeros n)

/-- All the bytes of one of the image's regions of no fixed size. -/
def Image.whole (i : Image) (r : Nat) : Bytes :=
  let n := ((i.chunks.filter (fun c => c.1 = r)).map (fun c => c.2.1 + c.2.2.length)).foldl max 0
  i.read r 0 n

/-- Step 2: the last complete image becomes the working regions. -/
def State.copyImage (s : State) (i : Image) : State :=
  let arg (cell n : Nat) : Bytes := i.read 4 (64 * cell) n
  let recs : Map EpRec := (i.chunks.filter (fun c => c.1 = 0)).foldl (fun m c =>
    (List.range 4).foldl (fun m k =>
      Map.putD m (c.2.1 / 256 + k) (EpRec.ofBytes (slice c.2.2 (256 * k) 256) arg) EpRec.empty) m) []
  let s := s.modEp (fun e => { e with recs := recs, damaged := [], cache := [], lost := false })
  let slots := Config.slotsDec (i.whole 1)
  let nodes := Config.plcDec (i.whole 2)
  let (rows, lanes, tasks) := Config.craftDec (i.whole 3)
  let (plcA, radA, stop, out) := Config.anchorsDec (i.whole 5)
  let s := (List.range 8).foldl (fun s n => s.modPlc n (fun g => { g with nodes := nodes.getD n [], anchor := plcA.getD n 0 })) s
  let s := (List.range 4).foldl (fun s n =>
    s.modPort n (fun p => { p with entries := slots.getD n [], anchor := radA.getD n 0 })) s
  let s := s.modCraft (fun c => { c with rows := rows, lanes := lanes, tasks := tasks, epoch := stop % 256 })
  s.set .PILOT_OUT 0 0 (out % 2 ^ 30)

/-- Step 3: one journal item that follows the image. -/
def State.applyItem (s : State) (i : Image) (x : Bytes) : State :=
  let v := x.drop 1
  match leAt x 0 1 with
  | 2 =>
    let r := EpRec.ofBytes (slice v 4 256) (fun cell n => i.read 4 (64 * cell) n)
    s.modEp (fun e => { e with recs := Map.putD e.recs (leAt v 0 4 % 2 ^ 22) r EpRec.empty })
  | 3 => s.modEp (fun e => { e with
      recs := Map.upd e.recs (leAt v 0 4) (fun r => { r with txCounter := max r.txCounter (leAt v 4 4) }) })
  | 4 =>
    let (chan, slot, e) := Config.slotDec (v.drop 4)
    s.modPort (leAt v 0 1) (fun p =>
      let rest := p.entries.filter (fun x => !(x.chan = chan && x.slot = slot))
      { p with entries := match e with
          | some e => insertEntry e rest
          | none => rest })
  | 5 => s.set .PILOT_OUT 0 0 (leAt v 0 4 % 2 ^ 30)
  | _ => s

/-- Steps 2 to 5 of a takeover: image, journal, functions with the RESET all-stop source, HEARTBEATs (R369). -/
def execTakeoverResume (s : State) : Host.Outcome State Fault Refusal :=
  match s.pilot.resuming, s.wharf.imgDone with
  | true, some i =>
    let s := s.wharf.itemsDone.foldl (fun s x => s.applyItem i x.2) (s.copyImage i)
    let drilled := s.pilot.handover
    let ms := (s.time.ns - s.pilot.drillAt) / 1000000
    let s := s.pairForget.modCraft (fun c => { c with reset := s.hasSection 0xB0 })
    let s := s.stopEval.startFns
    let s := s.modPilot (fun p => { p with resuming := false, ready := true, handover := false })
    let s := s.setPermit
    let s := s.modWharf (fun w => { w with workers := w.workers.map (fun e => (e.1, { e.2 with state := 2 })) })
    let s := s.workerIds.foldl (fun s w => s.beatWorker w) s
    .next (if drilled then s.event 0x1204 1 ms else s)
  | _, _ => .next s

/-! ### The drill (R370) -/

/-- PILOT.CMD DRILL: refused while the pair is not ready or a craft moves; else every function drains (R370, R373). -/
def execPilotDrill (force : Bool) (s : State) : Host.Outcome State Fault Refusal :=
  if s.hostHeld then .next s else
  if s.flag .PILOT_STATUS 0 0 7 then .next s
  else
    let partner := s.fld .PILOT_STATUS 0 0 11 8 = 4 && s.flag .PILOT_STATUS 0 0 6
    let refuse (v : Nat) : State := (s.set .PILOT_DRILL_RESULT 0 0 v).raise .PILOT_INT 0 4
    if !(s.rank = 8 && partner && s.inSync && s.journals) then .next (refuse 2)
    else if (s.craft.rows.any (fun e => s.craftMoves e.2)) && !force then .next (refuse 6)
    else
      let s := (s.setFlag .PILOT_STATUS 0 0 7 true).modPilot (fun p => { p with drill := 1 })
      .next s.drainFns

/-- 12 s after HANDOVER (R370): the partner has not claimed ACTIVE, so FAILED, and the old chip starts over; one that has, and has not
reported transmit permission, took over. A partner that holds the HANDOVER and could not take over writes its own FAILED record. -/
def execDrillTimeout (s : State) : Host.Outcome State Fault Refusal :=
  let late := decide (s.pilot.drillAt + 12000000000 ≤ s.time.ns)
  if decide (2 ≤ s.pilot.drill) && late then
    if s.fld .PILOT_STATUS 0 0 11 8 = 8 then .next (s.drillEnd 1 ((s.time.ns - s.pilot.drillAt) / 1000000))
    else
      let s := s.drillEnd 3 0
      let s := if s.rank = 4 then
          (s.modPilot (fun p => { p with periods := 0, seenActive := false, ready := true })).setClaim 1 s.pilot.epoch
        else s
      .next s.startFns
  else if s.rank = 4 && s.pilot.handover && late then
    .next ((s.modPilot (fun p => { p with handover := false })).event 0x1204 3 0)
  else .next s

end Sys2Proof.Machine
end

