-- ==== Sys2Proof/Machine/PlanFormat.lean ====
section
/-!
DEFINITION. The Quay Plan's container: sections, items and the item tables of every section, with the range each table
gives a value (chapter 2; the section tables of the other chapters).
-/
namespace Sys2Proof.Machine

/-- A loader error (Table 2-7): code and section tag; code 0 is OK. -/
abbrev PlanErr := Nat × Nat

/-- The first error of a list. -/
def firstErr (es : List PlanErr) : PlanErr := (es.find? (fun e => e.1 != 0)).getD (0, 0)

/-- An error where a test holds. -/
def errIf (b : Bool) (code tag : Nat) : PlanErr := if b then (code, tag) else (0, 0)

/-! ### Framing (R33-R37) -/

/-- A section as it stands in the stream: tag, version, payload. -/
structure RawSection where
  tag : Nat
  version : Nat
  payload : Bytes
  deriving DecidableEq, Repr

/-- The tags of Table 2-2, in order. -/
def planTags : List Nat :=
  [0x01, 0x10, 0x20, 0x30, 0x40, 0x50, 0x60, 0x70, 0x80, 0x90, 0xA0, 0xB0, 0xC0, 0xD0, 0xE0, 0xF0, 0x100, 0x110, 0x120,
    0x130, 0xFFFF]

/-- Sections that a full plan must contain (Table 2-2). -/
def requiredTags : List Nat :=
  [0x01, 0x10, 0x20, 0x30, 0x40, 0x50, 0x80, 0xC0, 0xD0, 0xE0, 0x110, 0x130, 0xFFFF]

/-- Sections that no delta may carry (Table 2-2). -/
def noDeltaTags : List Nat := [0x10, 0x20, 0xD0, 0xE0, 0x100, 0x130]

/-- Walk the section headers to SIGNATURE, which must end the stream: the sections, or the framing error. -/
def walk : Nat → Nat → Bytes → List RawSection × PlanErr
  | 0, _, _ => ([], 3, 0xFFFF)
  | fuel + 1, prev, b =>
    if b.isEmpty then ([], 3, 0xFFFF)
    else if b.length < 8 then ([], 2, 0)
    else
      let tag := leAt b 0 2
      let len := leAt b 4 4
      if b.length < 8 + len then ([], 2, tag)
      else if len % 4 != 0 then ([], 3, tag)
      else if !planTags.contains tag then ([], 4, tag)
      else if tag ≤ prev then ([], 3, tag)
      else
        let x : RawSection := ⟨tag, leAt b 2 2, slice b 8 len⟩
        let rest := b.drop (8 + len)
        if tag = 0xFFFF then (if rest.isEmpty then ([x], 0, 0) else ([], 3, 0xFFFF))
        else
          let r := walk fuel tag rest
          (x :: r.1, r.2)

/-- The sections of a stream of at most `limit` bytes; a stream that does not begin with HEADER is no image (R44). -/
def frames (limit : Nat) (b : Bytes) : List RawSection × PlanErr :=
  if leAt b 0 2 != 1 then ([], 1, if b.length < 2 then 0xFFFF else leAt b 0 2)
  else if limit < b.length then ([], 2, 0)
  else walk b.length 0 b

/-- The items of a payload; none when one overruns it or is padded with a byte other than 0 (R34). -/
def parseItems : Nat → Bytes → Option (List Item)
  | 0, b => if b.isEmpty then some [] else none
  | fuel + 1, b =>
    if b.isEmpty then some []
    else if b.length < 4 then none
    else
      let n := leAt b 2 2
      let w := ceilDiv n 4 * 4
      if b.length < 4 + w || !(slice b (4 + n) (w - n)).all (fun x => x == 0) then none
      else (parseItems fuel (b.drop (4 + w))).map (⟨leAt b 0 2, slice b 4 n⟩ :: ·)

/-! ### Item tables -/

/-- What a chapter's table says of an item type: how often it may stand in the section, its value lengths, the key bytes
that must not repeat (offset and length, 0 for none), whether it is required, and the values it may have. -/
structure ItemSpec where
  type : Nat
  most : Nat
  len : Nat → Bool
  keyAt : Nat
  keyLen : Nat
  need : Bool
  ok : Bytes → Bool

/-- A field lies in a range. -/
def within (v : Bytes) (o n lo hi : Nat) : Bool := decide (lo ≤ leAt v o n) && decide (leAt v o n ≤ hi)

/-- A signed field lies in a range. -/
def withinS (v : Bytes) (o n : Nat) (lo hi : Int) : Bool := decide (lo ≤ leSigned v o n) && decide (leSigned v o n ≤ hi)

/-- Any value. -/
def anyVal : Bytes → Bool := fun _ => true

/-- An item of one length that stands once. -/
def once (type n : Nat) (need : Bool) (ok : Bytes → Bool) : ItemSpec := ⟨type, 1, fun l => l == n, 0, 0, need, ok⟩

/-- An item of one length that may repeat. -/
def many (type n most : Nat) (ok : Bytes → Bool) : ItemSpec := ⟨type, most, fun l => l == n, 0, 0, false, ok⟩

/-- An item of one length, one for each value of its key bytes. -/
def keyed (type n most keyAt keyLen : Nat) (ok : Bytes → Bool) : ItemSpec :=
  ⟨type, most, fun l => l == n, keyAt, keyLen, false, ok⟩

/-- Items without a limit of their own. -/
abbrev unlimited : Nat := 0x200000

/-- HEADER (Table 2-3). -/
def headerSpecs : List ItemSpec :=
  [once 1 8 false anyVal, once 2 4 false anyVal,
    ⟨3, 1, fun l => l % 4 == 0 && decide (4 ≤ l) && decide (l ≤ 24), 0, 0, false, anyVal⟩,
    once 4 4 false anyVal, once 6 8 false anyVal]

/-- CLOCKS (Table 18-9). -/
def clocksSpecs : List ItemSpec :=
  [once 1 4 true (fun v => within v 0 1 0 1 && (leAt v 2 2 == 0 || within v 2 2 100 65535)),
    once 2 4 false (fun v => within v 2 2 20 10000)]

/-- MEMORY (Table 3-9a). -/
def memorySpecs : List ItemSpec :=
  [once 1 4 false (fun v => within v 0 4 4 16), once 2 4 false (fun v => within v 0 4 2 14),
    once 3 4 false (fun v => within v 0 4 1 8), once 4 4 false (fun v => within v 0 4 64 16384),
    once 5 4 false (fun v => within v 0 4 64 4096), once 6 4 false (fun v => within v 0 4 1 7)]

/-- DOCKS (R85): no reserved kind. -/
def docksSpecs : List ItemSpec :=
  [keyed 1 12 16 0 1 (fun v => within v 0 1 0 15 && (leAt v 4 8 &&& 0xFFFFE) == leAt v 4 8)]

/-- BERTHS (R60, R86, Table 3-15). -/
def berthsSpecs : List ItemSpec :=
  [many 1 12 unlimited (fun v =>
      let cfg := leAt v 4 4
      let lim := leAt v 8 4
      within v 0 2 0 4094 && decide (bits cfg 19 16 ≤ 10) && bits cfg 28 27 != 3 && decide (bits lim 23 20 ≤ 10)
        && decide (bits lim 9 0 * 64 ≤ 2 ^ (6 + bits cfg 19 16)) && decide (bits cfg 19 16 ≤ bits lim 23 20)),
    many 2 4 unlimited (fun v => within v 0 1 0 0x16)]

/-- FLOWS (R87). -/
def flowsSpecs : List ItemSpec := [many 1 12 unlimited (fun v => within v 0 1 0 8 && within v 8 2 1 256)]

/-- PLC (Table 5-9). -/
def plcSpecs : List ItemSpec :=
  [keyed 1 24 8 0 1 (fun v => within v 0 1 0 7 && within v 2 1 1 3 && within v 4 2 1000 60000 && within v 6 2 0 1000
      && within v 8 1 1 240 && within v 9 1 1 31 && within v 10 1 1 31 && within v 11 1 6 24 && within v 12 2 1 511
      && within v 14 1 0 15 && within v 15 1 0 31 && within v 16 1 1 63 && within v 17 1 0 15 && within v 18 2 32 512),
    keyed 2 16 8 0 1 (fun v => within v 0 1 0 7 && decide (leAt v 2 13 < 2 ^ 100))]

/-- RADIO (Table 6-7). -/
def radioSpecs : List ItemSpec :=
  [keyed 1 16 4 0 1 (fun v => within v 0 1 0 3 && within v 2 1 1 100 && within v 3 1 0 15 && within v 4 4 30000 6000000
      && within v 10 1 0 31 && within v 11 1 0 50),
    many 2 12 16 (fun v => within v 0 1 0 15 && within v 2 2 1 10000 && decide (leAt v 4 4 < leAt v 8 4))]

/-- Switch points of a DAY item rise strictly from 0 and name rates 0-15 (R237). -/
def dayOk (v : Bytes) : Bool :=
  let q (i : Nat) : Nat := leAt v (4 + 2 * i) 1
  q 0 == 0 && (List.range (leAt v 2 1)).all (fun i =>
    decide (q i ≤ 95) && within v (5 + 2 * i) 1 0 15 && (i == 0 || decide (q (i - 1) < q i)))

/-- CUSTOMS (Table 7-9). -/
def customsSpecs : List ItemSpec :=
  [once 1 16 false (fun v => withinS v 2 2 (-720) 840 && within v 4 1 0 120
      && [6, 11].all (fun o => within v o 1 1 12 && within v (o + 1) 1 1 5 && within v (o + 2) 1 0 6)),
    many 2 16 8 (fun v => within v 0 1 1 8 && leAt v 4 8 % 900 == 0 && within v 12 1 1 28 && within v 13 1 0 95),
    many 3 12 128 (fun v => within v 0 1 1 8 && within v 1 1 0 15 && within v 2 1 1 12 && within v 3 1 1 31
      && (List.range 7).all (fun i => within v (4 + i) 1 0 63)),
    ⟨4, 512, fun l => l % 2 == 0 && decide (6 ≤ l) && decide (l ≤ 36), 0, 0, false, fun v =>
      within v 0 1 1 8 && within v 1 1 0 63 && within v 2 1 1 16 && v.length == 4 + 2 * leAt v 2 1 && dayOk v⟩,
    many 5 8 2048 (fun v => within v 0 1 1 8 && within v 4 1 1 12 && within v 5 1 1 31 && within v 6 1 0 63),
    once 6 16 false (fun v => within v 2 1 0 1 && within v 3 1 0 1 && within v 4 1 1 60 && within v 5 1 0 1
      && within v 8 4 1000 1000000000 && within v 12 4 1000 1000000000),
    once 7 4 false (fun v => within v 2 1 15 240),
    keyed 8 104 2 0 1 (fun v => within v 0 1 0 1)]

/-- VEE (Table 4-6, Table 4-11). -/
def veeSpecs : List ItemSpec :=
  [keyed 1 32 1024 0 2 (fun v => within v 0 2 0 1023 && within v 2 1 1 6 && (within v 3 1 0 3 || leAt v 3 1 == 0xFF)
      && bits (leAt v 6 1) 1 0 != 3 && bits (leAt v 6 1) 3 2 != 3 && within v 7 1 0 63),
    many 2 194 64 (fun v => within v 0 1 0 63 && (List.range 96).any (fun i => leAt v (2 + 2 * i) 2 != 0)),
    many 3 8 256 (fun v => decide (leAt v 0 2 ≤ leAt v 2 2) && within v 4 1 0 7),
    once 4 8 false (fun v => decide (leAt v 2 2 < leAt v 0 2) && within v 4 1 1 7 && within v 5 1 1 255),
    once 5 8 false (fun v => within v 0 2 10 65535 && within v 2 2 100 60000 && within v 4 2 16 1024)]

/-- BALANCE (Table 8-6). -/
def balanceSpecs : List ItemSpec :=
  [once 1 24 true (fun v => within v 0 2 15 1440 && within v 2 1 50 100 && within v 3 1 1 63 && within v 4 1 1 63
      && within v 5 1 1 12 && within v 6 2 1 10000 && within v 8 2 1 4095 && within v 14 4 1 65536
      && within v 18 4 1 4194304),
    many 2 24 65536 (fun v => within v 8 2 1 4096),
    ⟨3, 65536, fun l => l % 4 == 0 && decide (8 ≤ l) && decide (l ≤ 260), 0, 2, false, fun v =>
      within v 2 1 1 64 && v.length == 4 + 4 * leAt v 2 1
        && (List.range (leAt v 2 1)).all (fun i => within v (6 + 4 * i) 1 1 3)⟩,
    once 4 12 false (fun v => within v 0 2 1440 10080),
    once 5 12 false (fun v => within v 2 1 1 255 && within v 6 1 1 255 && within v 7 1 1 255 && within v 10 2 1 1000)]

/-- CRAFT (Table 9-10, R282). -/
def craftSpecs : List ItemSpec :=
  [once 1 24 true (fun v => within v 0 1 0 3 && within v 2 1 1 96 && within v 3 1 0 63 && within v 4 1 1 255
      && within v 5 1 1 15 && within v 6 1 1 255 && within v 7 1 1 255 && within v 8 2 100 1200 && within v 10 2 0 2047
      && within v 12 4 0x440000 0xFFFFFD && within v 16 2 0 4095 && within v 18 1 0 30 && within v 19 2 1 36000
      && decide (leAt v 6 1 ≤ leAt v 7 1)),
    once 2 32 true (fun v => within v 0 1 0 1 && within v 2 2 1 1000 && within v 4 4 600 604800),
    many 3 8 96 (fun v => within v 0 1 0 95), many 4 12 4096 anyVal,
    many 5 16 16384 (fun v => within v 10 2 0 4095 || leAt v 10 2 == 0xFFFF)]

/-- TIME (Table 10-6, R304, R306). -/
def timeSpecs : List ItemSpec :=
  [once 1 12 true (fun v =>
      let cs := (List.range 4).map (fun i => leAt v i 1)
      cs.all (fun c => decide (c ≤ 3)) && [1, 2, 3].all (fun c => decide (cs.count c ≤ 1))
        && within v 4 1 1 100 && within v 6 2 0 511 && within v 8 4 100 1000000000),
    once 2 8 false (fun v => within v 0 2 1 50000 && within v 2 2 0 50000 && within v 6 1 1 255),
    once 3 28 false anyVal,
    once 4 8 false (fun v => within v 2 1 0 30),
    once 5 8 false (fun v => within v 1 1 1 250 && withinS v 4 4 (-4000000) 4000000),
    once 6 12 false (fun v => within v 0 1 0 127 && within v 1 1 0 2 && within v 2 1 0 1 && withinS v 5 1 (-4) 4
      && within v 6 1 0 4 && within v 7 1 2 10 && withinS v 8 1 (-4) 4),
    keyed 7 8 4 0 1 (fun v => within v 0 1 0 3 && within v 1 1 0 4),
    many 8 8 64 anyVal,
    many 9 28 48 (fun v =>
      let f := leAt v 1 1
      within v 0 1 0 47 && within v 2 1 0 7 && within v 16 8 1000 86400000000000
        && within v 24 4 20 (leAt v 16 8 - 20)
        && (!bit f 2 || ([kTelemetry, kPanelUpdate, kLogSnap].contains (leAt v 3 1) && decide (1000000000 ≤ leAt v 16 8)))),
    many 10 4 9 (fun v => within v 0 1 0 8 && within v 1 1 0 2)]

/-- KEYS (Table 11-14). -/
def keysSpecs : List ItemSpec :=
  [once 1 4 true (fun v => within v 0 1 3 254),
    keyed 2 12 256 0 1 (fun v => decide (leAt v 4 2 ≤ leAt v 6 2)),
    once 3 4 false (fun v => within v 0 2 0 16384)]

/-- STORE (Tables 12-2 and 12-9). -/
def storeSpecs : List ItemSpec :=
  [once 1 4 true anyVal,
    keyed 2 8 3 0 1 (fun v => within v 0 1 1 3 && (leAt v 0 1 != 2 || within v 6 2 30 3650)
      && (leAt v 0 1 != 3 || within v 2 4 16 1024)),
    once 3 8 false (fun v => within v 0 1 0 1 && within v 1 1 1 50 && within v 2 2 18 4095 && within v 4 2 18 4095),
    once 4 12 false (fun v => within v 0 1 1 30 && within v 1 1 1 200 && within v 2 2 10 10000 && within v 4 1 1 20
      && within v 6 2 100 65535 && within v 8 2 100 65535 && within v 10 2 64 4096)]

/-- WHARF (Table 13-8). -/
def wharfSpecs : List ItemSpec :=
  [once 1 12 true (fun v => within v 0 1 0 3 && within v 6 2 64 65535 && within v 8 1 3 254),
    once 2 36 true (fun v => within v 16 1 1 128),
    many 3 28 1024 (fun v => decide (leAt v 20 4 ≤ leAt v 24 4) && decide (leAt v 24 4 ≤ 0x3FFFFF)),
    once 4 20 false anyVal, once 5 36 false anyVal]

/-- PILOT (Table 13-8). -/
def pilotSpecs : List ItemSpec := [once 1 12 true (fun v => within v 1 1 10 255)]

/-- LOG (Table 14-3, R386). -/
def logSpecs : List ItemSpec :=
  [once 1 4 false (fun v => within v 0 2 0 3600),
    ⟨2, 31, fun l => l % 4 == 0 && decide (8 ≤ l) && decide (l ≤ 52), 0, 1, false, fun v =>
      within v 0 1 1 31 && within v 1 1 1 12 && v.length == 4 + 4 * leAt v 1 1
        && (List.range (leAt v 1 1)).all (fun i => leAt v (4 + 4 * i) 4 % 4 == 0 && decide (leAt v (4 + 4 * i) 4 < 0x400000))⟩,
    keyed 3 4 256 0 2 (fun v => within v 2 1 0 31)]

/-- PANEL (Table 17-4, R441). -/
def panelSpecs : List ItemSpec :=
  [once 1 16 true (fun v => within v 0 1 1 8 && within v 1 1 1 64 && (List.range 4).all (fun i => within v (2 + i) 1 0 7)
      && within v 6 1 1 255 && within v 7 1 1 255 && within v 8 2 1 32767 && within v 10 1 1 255 && within v 11 1 0 1),
    once 2 16 true (fun v => (List.range 6).all (fun i => decide (leSigned v (2 * i) 2 < leSigned v (2 * i + 2) 2))),
    ⟨3, 32, fun l => l % 2 == 0 && decide (6 ≤ l) && decide (l ≤ 132), 0, 3, false, fun v =>
      within v 0 1 0 1 && within v 1 1 0 1 && within v 2 1 0 7 && within v 3 1 1 64 && v.length == 4 + 2 * leAt v 3 1⟩,
    keyed 4 8 8 0 1 (fun v => within v 0 1 0 7 && decide (0 < toSigned 8 (bits (leAt v 2 2) 13 6))
      && decide (toSigned 8 (bits (leAt v 4 2) 13 6) < 0)),
    once 5 8 false (fun v => within v 0 2 0 511 && within v 2 1 1 12 && within v 3 1 2 60 && within v 4 1 0 16)]

/-- The highest index of a GPIO function (Table 19-5). -/
def functionIndices (f : Nat) : Nat := [0, 7, 7, 0, 7, 1, 0].getD f 0

/-- PINS (Table 19-6, R475). -/
def pinsSpecs : List ItemSpec :=
  [keyed 1 4 48 0 1 (fun v => within v 0 1 0 47 && within v 1 1 0 6 && within v 2 1 0 (functionIndices (leAt v 1 1))
      && bits (leAt v 3 1) 2 1 != 3),
    keyed 2 4 4 0 1 (fun v => within v 0 1 0 3 && (!bit (leAt v 1 1) 1 || decide (2 ≤ leAt v 0 1)))]

/-- SIGNATURE (R41). -/
def signatureSpecs : List ItemSpec := [once 1 4 true anyVal, once 2 96 true anyVal]

/-- The item table of a section. -/
def itemSpecs (tag : Nat) : List ItemSpec :=
  match tag with
  | 0x01 => headerSpecs
  | 0x10 => clocksSpecs
  | 0x20 => memorySpecs
  | 0x30 => docksSpecs
  | 0x40 => berthsSpecs
  | 0x50 => flowsSpecs
  | 0x60 => plcSpecs
  | 0x70 => radioSpecs
  | 0x80 => customsSpecs
  | 0x90 => veeSpecs
  | 0xA0 => balanceSpecs
  | 0xB0 => craftSpecs
  | 0xC0 => timeSpecs
  | 0xD0 => keysSpecs
  | 0xE0 => storeSpecs
  | 0xF0 => wharfSpecs
  | 0x100 => pilotSpecs
  | 0x110 => logSpecs
  | 0x120 => panelSpecs
  | 0x130 => pinsSpecs
  | _ => signatureSpecs

/-- No two items of a type share their key bytes. -/
def keysDiffer (p : ItemSpec) (items : List Item) : Bool :=
  let ks := items.map (fun i => slice i.value p.keyAt p.keyLen)
  p.keyLen == 0 || decide (ks.Nodup)

/-- No more than `n` items of a type for each value of their first byte. -/
def perFirst (items : List Item) (type n : Nat) : Bool :=
  let xs := items.filter (·.type = type)
  xs.all (fun x => decide ((xs.filter (fun y => leAt y.value 0 1 = leAt x.value 0 1)).length ≤ n))

/-- Types, repeats and labels of a section's items (R34, R35); ignorable types may stand any number of times (assumption 54). With the limits per slot of Table 7-9 and per worker of
Table 13-8; GROUP stands at most `groups` times (Table 8-6). -/
def itemsFormed (tag : Nat) (items : List Item) : Bool :=
  let specs := itemSpecs tag
  items.all (fun i => if 0x8000 ≤ i.type then i.type != 0x8001 || decide (i.value.length ≤ 32)
    else specs.any (fun p => p.type == i.type))
    && specs.all (fun p =>
      let xs := items.filter (·.type = p.type)
      decide (xs.length ≤ p.most) && keysDiffer p xs)
    && (tag != 0x80 || (perFirst items 3 16 && perFirst items 4 64 && perFirst items 5 256))
    && (tag != 0xF0 || perFirst items 3 4)
    && (tag != 0xA0 || (match items.find? (·.type = 1) with
      | some b => decide ((items.filter (·.type = 2)).length ≤ leAt b.value 14 4)
      | none => true))

/-- A section's payload as items: VERSION, TLV, or the items without the ignorable ones (R34, R35, R37). -/
def RawSection.parse (r : RawSection) : Section × PlanErr :=
  if r.version != 1 then (⟨r.tag, []⟩, 5, r.tag)
  else match parseItems r.payload.length r.payload with
    | none => (⟨r.tag, []⟩, 6, r.tag)
    | some is =>
      if itemsFormed r.tag is then (⟨r.tag, is.filter (fun i => decide (i.type < 0x8000))⟩, 0, 0) else (⟨r.tag, []⟩, 6, r.tag)

/-- Lengths and values of a section's items lie in their ranges (Table 2-7 VALUE). -/
def Section.valuesOk (x : Section) : Bool :=
  x.items.all (fun i => match (itemSpecs x.tag).find? (fun p => p.type == i.type) with
    | some p => p.len i.value.length && p.ok i.value
    | none => true)

/-- A section holds every item its chapter requires (R38); PART is required for partitions 1 and 2 (Table 12-9). -/
def Section.complete (x : Section) : Bool :=
  (itemSpecs x.tag).all (fun p => !p.need || x.items.any (fun i => i.type == p.type))
    && (x.tag != 0xE0 || [1, 2].all (fun n => x.items.any (fun i => i.type == 2 && leAt i.value 0 1 == n)))

end Sys2Proof.Machine
end

