-- ==== Sys2Proof/Machine/Ptp.lean ====
section
/-!
DEFINITION. The PTP engine: best master, offset and delay measurement, transparent clock (R301-R303).
-/
namespace Sys2Proof.Machine

/-- The role of a port: 0 DISABLED, 1 AUTO, 2 MASTER, 3 SLAVE, 4 TC; 0 without a PTP or PTPPORT item (Table 10-6). -/
def State.ptpRole (s : State) (n : Nat) : Nat :=
  if (s.items 0xC0 6).isEmpty then 0
  else match (s.items 0xC0 7).find? (fun v => leAt v 0 1 = n) with
    | some v => leAt v 1 1
    | none => 0

/-- A byte of the PTP item, or its default. -/
def State.ptpCfg (s : State) (o d : Nat) : Nat := s.itemLE 0xC0 6 o 1 d

/-- The clock identity: EUI-64 of the MAC address of port 0 (R301). -/
def clockIdentity : Nat :=
  let m := (Config.mac 0).toNat
  m / 2 ^ 24 * 2 ^ 40 + 0xFFFE * 2 ^ 24 + m % 2 ^ 24

/-- The port identity of a port: clock identity and port number. -/
def portIdentity (n : Nat) : Nat := clockIdentity * 2 ^ 16 + n + 1

/-- clockClass, clockAccuracy and timeSource announced at a quality; 0x20 stands for the source before holdover when it
was GNSS (Table 10-5). -/
def State.announced (s : State) : Nat × Nat × Nat :=
  let before := match s.selected with
    | 1 => 0x20
    | 2 => 0x40
    | _ => 0x90
  [(6, 0x21, 0x20), (6, 0x23, 0x20), (6, 0x23, 0x40), (6, 0x23, 0x90), (7, 0x25, before), (52, 0xFE, before),
    (187, 0xFE, 0x60), (248, 0xFE, 0xA0)].getD s.quality (248, 0xFE, 0xA0)

/-- The device's own data set. A device that follows a PTP master compares as a free-running clock, so that it does not
win over its own master (assumption 23). -/
def State.ownData (s : State) : PtpMaster :=
  let a := s.announced
  { sender := 0, priority1 := s.ptpCfg 3 128, cls := if s.selected = 2 then 248 else a.1,
    accuracy := if s.selected = 2 then 0xFE else a.2.1, variance := 0xFFFF, priority2 := s.ptpCfg 4 128,
    gm := clockIdentity, steps := 0, count := 2 }

/-- The comparison key of a data set (clause 9.3 of IEEE 1588-2019). -/
def PtpMaster.key (m : PtpMaster) : List Nat :=
  [m.priority1, m.cls, m.accuracy, m.variance, m.priority2, m.gm, m.steps, m.sender]

/-- Lexicographic order. -/
def lexLt : List Nat → List Nat → Bool
  | a :: as, b :: bs => decide (a < b) || (a = b && lexLt as bs)
  | [], _ :: _ => true
  | _, _ => false

/-- One data set is better than another. -/
def PtpMaster.better (a b : PtpMaster) : Bool := lexLt a.key b.key

/-- The best of a list of data sets. -/
def bestOf : List PtpMaster → Option PtpMaster
  | [] => none
  | m :: ms => match bestOf ms with
    | some b => if b.better m then some b else some m
    | none => some m

/-- A PTP port. -/
def State.ptpPort (s : State) (n : Nat) : PtpPort := s.time.ptp.getD n PtpPort.start

/-- The best qualified master heard on a port: one announced at least twice. -/
def PtpPort.best (p : PtpPort) : Option PtpMaster := bestOf (p.masters.filter (fun m => decide (2 ≤ m.count)))

/-- The state the best-master comparison gives a port (R302): 6 MASTER, 7 PASSIVE, 9 SLAVE, 4 LISTENING. -/
def State.decidePort (s : State) (n : Nat) (best : Option (Nat × PtpMaster)) : Nat :=
  let own := s.ownData
  let role := s.ptpRole n
  let p := s.ptpPort n
  if role = 0 || role = 4 then 0
  else if role = 2 then 6
  else
    let st :=
      match best with
      | none => if role = 1 then 6 else 4
      | some (port, e) =>
        if own.cls ≤ 127 then
          match p.best with
          | some m => if m.better own then 7 else 6
          | none => 6
        else if own.better e then 6
        else if port = n then 9
        else match p.best with
          | some m => if m.gm = e.gm && decide (e.steps < m.steps) then 7 else 6
          | none => 6
    if role = 3 && st != 9 then 4 else st

/-- Write PTP_PORT from a port's state (Table 10-11). -/
def State.showPtp (s : State) (n : Nat) : State :=
  let p := s.ptpPort n
  let b := p.best
  s.set .TIME_PTP_PORT n 0 (p.state + b2n b.isSome * 2 ^ 4
    + (match b with
       | some m => m.cls % 256
       | none => 0) * 2 ^ 8)

/-- Run the best-master comparison over every port; PTP is LOST when no port is in SLAVE state, and a new SLAVE port or master
begins its own run of measurements (R302, Table 10-2). -/
def State.bmca (s : State) : State :=
  let cands := (List.range 4).filterMap (fun n =>
    if s.ptpRole n = 1 || s.ptpRole n = 3 then (s.ptpPort n).best.map (fun m => (n, m)) else none)
  let best := cands.foldl (fun (b : Option (Nat × PtpMaster)) c =>
    match b with
    | none => some c
    | some x => if c.2.better x.2 then some c else some x) none
  let states := (List.range 4).map (fun n => s.decidePort n best)
  let had := s.time.ptp.any (·.state = 9)
  let moved := (List.range 4).any (fun n => states.getD n 0 = 9
    && ((s.ptpPort n).state != 9 || (s.ptpPort n).parent != (s.ptpPort n).best.map (·.sender)))
  let s := (List.range 4).foldl (fun s n =>
    let st := states.getD n 0
    let fresh := st = 9 && (s.ptpPort n).state != 9
    let s := s.modPtp n (fun p => { p with
      state := st, parent := if st = 9 then p.best.map (·.sender) else none
      sync := if fresh then none else p.sync })
    let s := if st = 9 then s.setFld .TIME_STATUS 0 0 10 9 n else s
    s.showPtp n) s
  let s := if moved then s.setSource 2 { s.source 2 with good := 0 } else s
  if had && !states.contains 9 then s.loseSource 2 else s

/-- The clockClasses of a master that a PTP source may follow (Table 10-2). -/
def goodClass (c : Nat) : Bool := c = 6 || c = 7 || c = 13 || c = 14

/-- The master that a port follows announces such a class. -/
def PtpPort.follows (p : PtpPort) : Bool := p.masters.any (fun m => p.parent = some m.sender && goodClass m.cls)

/-- An offset measurement of the port in SLAVE state, in 2⁻¹⁶ ns (R289): the PTP error is the offset with its sign turned. -/
def State.ptpOffset (s : State) (n : Nat) (off : Int) : State :=
  if off.natAbs < 1000 * 2 ^ 16 && (s.ptpPort n).follows then s.observeSource 2 16 1 true (-off) false
  else s.setSource 2 { s.source 2 with good := 0, err := -off }

/-- A Sync's times are complete: t2 − t1 less corrections is `d`. -/
def State.ptpSync (s : State) (n : Nat) (d : Int) : State :=
  (s.modPtp n (fun p => { p with msd := d, sync := none })).ptpOffset n (d - (s.ptpPort n).mpd)

/-- A message of the engine's own on a port, with the data set that the device announces: its own (Table 10-5; assumption 23). -/
def State.ptpOwn (s : State) (n mtype seq : Nat) (correction : Int) (time requester : Nat) (ingress : Option Int) : PtpTx :=
  let a := s.announced
  { port := n, mtype := mtype, domain := s.ptpCfg 0 0, seq := seq, sender := portIdentity n, requester := requester
    twoStep := false, correction := correction, time := time, priority1 := s.ptpCfg 3 128, cls := a.1, accuracy := a.2.1
    variance := 0xFFFF, priority2 := s.ptpCfg 4 128, gm := clockIdentity, steps := 0, utcOffset := s.leapAt s.sec, source := a.2.2
    timescale := true, transport := s.ptpCfg 1 0, own := true, ingress := ingress }

/-- An Announce is taken into the foreign masters of its port (R289, R302). -/
def State.ptpAnnounce (s : State) (n : Nat) (rx : PtpRx) : State :=
  let old := (s.ptpPort n).masters.find? (·.sender = rx.sender)
  let m : PtpMaster := ⟨rx.sender, rx.priority1, rx.cls, rx.accuracy, rx.variance, rx.priority2, rx.gm, rx.steps,
    (old.map (·.count)).getD 0 + 1⟩
  let s := (s.modPtp n (fun p => { p with
    masters := m :: p.masters.filter (·.sender != rx.sender)
    heardAt := s.time.ns })).noteUtc 2 rx.utc
  let s := s.bmca
  let p := s.ptpPort n
  if p.state = 9 && p.parent = some rx.sender then
    if goodClass rx.cls then
      if s.discipline = 2 && s.selected = 2 && s.quality != (s.lockQuality 2).1 then s.enterLocked else s
    else s.loseSource 2
  else s

/-- A message as a TC port sends it again on port `k` (R303). -/
def ptpAgain (rx : PtpRx) (k transport : Nat) (ingress : Option Int) : PtpTx :=
  { port := k, mtype := rx.mtype, domain := rx.domain, seq := rx.seq, sender := rx.sender, requester := rx.requester
    twoStep := rx.twoStep, correction := rx.correction, time := rx.time, priority1 := rx.priority1, cls := rx.cls
    accuracy := rx.accuracy, variance := rx.variance, priority2 := rx.priority2, gm := rx.gm, steps := rx.steps
    utcOffset := rx.utc, source := rx.source, timescale := rx.timescale, transport := transport, own := false
    ingress := ingress }

/-- A TC port passes a message to every other TC port: an event message's residence time, from its ingress stamp `t`, enters its
correction, under P2P with the ingress path delay of a Sync; a general message goes on unchanged (R303). -/
def State.ptpForward (s : State) (n t : Nat) (rx : PtpRx) : State :=
  let mpd : Int := if rx.mtype = 0 && s.ptpCfg 2 0 = 1 then (s.ptpPort n).mpd else 0
  let ingress : Option Int := if rx.mtype < 4 then some ((t : Int) - mpd) else none
  ((List.range 4).filter (fun k => k != n && s.ptpRole k = 4)).foldl (fun s k =>
    s.ptpSend (ptpAgain rx k (s.ptpCfg 1 0) ingress)) s

/-- What a port does with a message of each type, stamped `t` in 2⁻¹⁶ ns (R301, R303). -/
def State.ptpTake (s : State) (n t : Nat) (rx : PtpRx) : State :=
  let p := s.ptpPort n
  let p2p := s.ptpCfg 2 0 = 1
  let origin : Int := 2 ^ 16 * rx.time
  let d : Int := (t : Int) - origin - rx.correction
  match rx.mtype with
  | 0 =>
    if p.state = 9 && p.parent = some rx.sender then
      if rx.twoStep then s.modPtp n (fun p => { p with sync := some (rx.seq, (t : Int) - rx.correction) })
      else s.ptpSync n d
    else s
  | 8 =>
    match p.sync with
    | some (q, t2) =>
      if p.state = 9 && p.parent = some rx.sender && q = rx.seq then s.ptpSync n (t2 - origin - rx.correction) else s
    | none => s
  | 1 =>
    if p.state = 6 && !p2p then
      s.ptpSend (s.ptpOwn n 9 rx.seq (rx.correction - (t % 2 ^ 16 : Nat)) (t / 2 ^ 16) rx.sender none)
    else s
  | 9 =>
    match p.req with
    | some (q, t3) =>
      if p.state = 9 && q = rx.seq && rx.requester = portIdentity n then
        s.modPtp n (fun p => { p with req := none, mpd := (p.msd + (origin - t3 - rx.correction)) / 2 })
      else s
    | none => s
  | 2 =>
    if p2p then s.ptpSend (s.ptpOwn n 3 rx.seq rx.correction 0 rx.sender (some t)) else s
  | 3 =>
    match p.req with
    | some (q, t1) =>
      if q = rx.seq && rx.requester = portIdentity n then
        let turn := (t : Int) - t1
        if rx.twoStep then s.modPtp n (fun p => { p with resp := some (q, turn, origin - rx.correction) })
        else s.modPtp n (fun p => { p with req := none, mpd := (turn - rx.correction) / 2 })
      else s
    | none => s
  | 0xA =>
    match p.resp with
    | some (q, turn, t2) =>
      if q = rx.seq && rx.requester = portIdentity n then
        s.modPtp n (fun p => { p with
          req := none, resp := none, mpd := (turn - (origin + rx.correction - t2)) / 2 })
      else s
    | none => s
  | 0xB => if s.ptpRole n = 2 then s else s.ptpAnnounce n rx
  | _ => s

/-- A PTP message is received on an Ethernet port (R301). -/
def execPtpMessageReceived (port : Nat) (rx : PtpRx) (s : State) : Host.Outcome State Fault Refusal :=
  if 4 ≤ port then .next s
  else
    let s := s.count .ETH_CNT port 4 1
    let t := (2 ^ 16 * ((rx.at' : Int) - s.ptpLatency port 2) + (sixteenths rx.frac : Nat)).toNat
    let local' := rx.mtype = 2 || rx.mtype = 3 || rx.mtype = 0xA
    if s.ptpRole port = 0 || rx.domain != s.ptpCfg 0 0 || rx.mtype = 0xC || rx.mtype = 0xD then .next s
    else if s.ptpRole port = 4 then
      .next (if local' && s.ptpCfg 2 0 = 1 then s.ptpTake port t rx else s.ptpForward port t rx)
    else .next (s.ptpTake port t rx)

/-- The interval of a logarithm in two's complement, in ns. -/
def logInterval (l : Nat) : Nat :=
  let k := toSigned 8 l
  if k < 0 then 1000000000 / 2 ^ k.natAbs else 1000000000 * 2 ^ k.natAbs

/-- The interval at which a port sends a message type; the spec gives none for Delay_Req (Table 10-6). -/
def State.ptpInterval (s : State) (mtype : Nat) : Nat :=
  match mtype with
  | 0 => logInterval (s.ptpCfg 5 0)
  | 0xB => logInterval (s.ptpCfg 6 1)
  | 2 => logInterval (s.ptpCfg 8 0)
  | _ => 0

/-- The interval of a message type has passed since the port last sent one. -/
def State.ptpDue (s : State) (n mtype : Nat) : Bool :=
  match Map.get? (s.ptpPort n).sentAt mtype with
  | some t => decide (t + s.ptpInterval mtype ≤ s.time.ns)
  | none => true

/-- At its interval the engine sends a message that the port's state calls for, one-step and stamped where it leaves (R301, R302). -/
def execPtpMessageSend (port mtype : Nat) (s : State) : Host.Outcome State Fault Refusal :=
  let p := s.ptpPort port
  let role := s.ptpRole port
  let p2p := s.ptpCfg 2 0 = 1
  let x := s.ptpOwn port mtype p.seq 0 0 0 none
  let due :=
    (mtype = 0 && p.state = 6) || (mtype = 0xB && p.state = 6) || (mtype = 1 && p.state = 9 && !p2p)
      || (mtype = 2 && p2p && role != 0)
  if decide (4 ≤ port) || !due || !s.ptpDue port mtype then .next s
  else
    let up : PtpPort → PtpPort := fun p => { p with
      seq := (p.seq + 1) % 2 ^ 16
      sentAt := Map.put p.sentAt mtype s.time.ns }
    .next ((s.ptpSend x).modPtp port up)

/-- announceReceiptTimeout expires on a port (Table 10-2). -/
def execPtpAnnounceTimeout (port : Nat) (s : State) : Host.Outcome State Fault Refusal :=
  let slave := (s.ptpPort port).state = 9
  let wait := s.ptpCfg 7 3 * logInterval (s.ptpCfg 6 1)
  if s.time.ns < (s.ptpPort port).heardAt + wait then .next s else
  let s := (s.modPtp port (fun p => { p with masters := [] })).bmca
  .next (if slave then s.loseSource 2 else s)

end Sys2Proof.Machine
end

