-- ==== Sys2Proof/Machine/PlanApply.lean ====
section
/-!
DEFINITION. What each section of a plan writes into its block when the loader applies it (R44 APPLY, R51), and what a delta
does beside it.
-/
namespace Sys2Proof.Machine

/-- A register of a section takes its reset value: what an absent item leaves (R38). -/
def State.atReset (s : State) (r : Reg) (i j : Nat) : State := s.set r i j (r.resetVal i j)

/-- CLOCKS (R465, Table 18-11). -/
def State.clocksConfig (s : State) : State :=
  let f := s.itemLE 0x10 2 0 1 0
  let s := s.set .PWR_WDT_CFG 0 0 (s.itemLE 0x10 1 2 2 0)
  let s := (s.setFlag .PWR_CFG 0 0 1 (bit f 0)).setFlag .PWR_CFG 0 0 2 (bit f 1)
  (s.setFld .PWR_CFG 0 0 3 3 (s.itemLE 0x10 1 0 1 0)).setFld .PWR_CFG 0 0 31 16 (s.itemLE 0x10 2 2 2 100)

/-- DOCKS, with DOCK_STAGE of MEMORY (R84, R85, Table 3-20). -/
def State.docksConfig (s : State) : State :=
  (List.range 16).foldl (fun s d =>
    let v := ((s.items 0x30 1).find? (fun v => leAt v 0 1 = d)).getD (zeros 12)
    let s := (s.setFld .TUG_DOCK_CFG d 0 4 0 (leAt v 1 1)).setFld .TUG_DOCK_CFG d 0 14 12 (s.itemLE 0x20 6 0 4 4)
    (s.set .TUG_DOCK_KIND_LO d 0 (leAt v 4 4)).set .TUG_DOCK_KIND_HI d 0 (leAt v 8 4)) s

/-- BERTHS (R86), in the items' order: of two items that name one berth the later stands (assumption 19). -/
def State.berthsConfig (s : State) : State :=
  let s := (s.items 0x40 1).foldl (fun s v =>
    (s.set .HM_BERTH_CFG (leAt v 0 2) 0 (leAt v 4 4)).set .HM_BERTH_LIM (leAt v 0 2) 0 (bits (leAt v 8 4) 29 0)) s
  (List.range 0x17).foldl (fun s f =>
    let v := ((s.items 0x40 2).find? (fun v => leAt v 0 1 = f)).getD (zeros 4)
    (s.setFlag .HM_FUNC_CTL f 0 1 (bit (leAt v 1 1) 0)).setFld .HM_FUNC_CTL f 0 31 16 (leAt v 2 2)) s

/-- PLC (Tables 5-9, 5-13 and 5-14). -/
def State.plcConfig (s : State) : State :=
  (List.range 8).foldl (fun s n =>
    let s := match (s.items 0x60 1).find? (fun v => leAt v 0 1 = n) with
      | some v =>
        let f := leAt v 1 1
        let s := s.set .PLC_SEG_CFG0 n 0 (leAt v 4 2 + leAt v 6 2 * 2 ^ 16 + b2n (bit f 2) * 2 ^ 26 + leAt v 2 1 * 2 ^ 27
          + b2n (bit f 1) * 2 ^ 29)
        let s := s.set .PLC_SEG_CFG1 n 0 (leAt v 8 1 + leAt v 9 1 * 2 ^ 8 + leAt v 10 1 * 2 ^ 13 + leAt v 11 1 * 2 ^ 18
          + leAt v 12 2 * 2 ^ 23)
        s.set .PLC_SEG_CFG2 n 0 (leAt v 14 1 + leAt v 15 1 * 2 ^ 5 + leAt v 16 1 * 2 ^ 10 + leAt v 18 2 * 2 ^ 16
          + leAt v 17 1 * 2 ^ 26)
      | none => ((s.atReset .PLC_SEG_CFG0 n 0).atReset .PLC_SEG_CFG1 n 0).atReset .PLC_SEG_CFG2 n 0
    let m := (((s.items 0x60 2).find? (fun v => leAt v 0 1 = n)).map (fun v => leAt v 2 13)).getD 0
    (List.range 4).foldl (fun s k => s.set .PLC_NOTCH n k (bits m (min 99 (32 * k + 31)) (32 * k))) s) s

/-- A delta has changed a segment's notch mask: its sets are invalid and its links due for refresh (R137). -/
def State.plcDelta (old s : State) : State :=
  (List.range 8).foldl (fun s n =>
    if (List.range 4).all (fun k => s.get .PLC_NOTCH n k = old.get .PLC_NOTCH n k) then s
    else s.modPlc n (fun g => { g with nodes := g.nodes.map (fun e =>
      (e.1, { e.2 with fwd := none, fwdPrev := none, ret := none, retPrev := none, dueAt := some (e.2.dueAt.getD s.time.ns) })) })) s

/-- RADIO (Tables 6-7, 6-11 and 6-13), with the preload of R188. -/
def State.radioConfig (s : State) : State :=
  let s := (List.range 4).foldl (fun s n =>
    match (s.items 0x70 1).find? (fun v => leAt v 0 1 = n) with
    | some v =>
      let f := leAt v 1 1
      let s := s.set .RADIO_CFG0 n 0 (leAt v 4 4)
      let s := s.set .RADIO_CFG1 n 0 (b2n (bit f 1) + b2n (bit f 2) * 2 + leAt v 2 1 * 2 ^ 2 + leAt v 3 1 * 2 ^ 9
        + leAt v 10 1 * 2 ^ 13 + leAt v 11 1 * 2 ^ 18 + leAt v 12 1 * 2 ^ 24)
      s.set .RADIO_CFG2 n 0 (leAt v 8 2)
    | none => ((s.atReset .RADIO_CFG0 n 0).atReset .RADIO_CFG1 n 0).atReset .RADIO_CFG2 n 0) s
  (List.range 16).foldl (fun s b =>
    match (s.items 0x70 2).find? (fun v => leAt v 0 1 = b) with
    | some v => ((s.set .RADIO_SB_LIMIT b 0 (leAt v 2 2 + 2 ^ 14)).set .RADIO_SB_LOW b 0 (leAt v 4 4)).set .RADIO_SB_HIGH b 0
        (leAt v 8 4)
    | none => ((s.atReset .RADIO_SB_LIMIT b 0).atReset .RADIO_SB_LOW b 0).atReset .RADIO_SB_HIGH b 0) s

/-- A delta has changed the RADIO section and its functions are open again: entries on channels it disables, on a port that it makes
wide all of them, end with LINK_EVENT RELEASED (R191, R193). -/
def State.radioDelta (s : State) : State :=
  (List.range 4).foldl (fun s n =>
    let gone := (s.rport n).entries.filter (fun e => s.flag .RADIO_CFG1 n 0 0 || !bit (s.get .RADIO_CFG2 n 0) e.chan)
    gone.foldl (fun s e =>
      (s.modPort n (fun p => { p with entries := p.entries.filter (fun x => decide (x ≠ e)) })).linkEvent n 2 e []) s) s

/-- VEE: the ADMIT and CMD items (Tables 4-11 and 4-15). -/
def State.veeConfig (s : State) : State :=
  let i := s.itemLE 0x90
  let s := s.set .EP_ADMIT_CFG 0 0 (i 4 0 2 0x800 + i 4 2 2 0x400 * 2 ^ 16)
  let s := s.set .EP_ADMIT_CFG2 0 0 (i 4 4 1 6 + i 4 5 1 10 * 2 ^ 8)
  s.set .EP_CMD_CFG 0 0 (i 5 0 2 300 + i 5 2 2 1000 * 2 ^ 16)

/-- TIME (Tables 10-6, 10-9 and 10-13): the TRIG_EN bits from the items' enable flags, every new or changed schedule
from its start at or after now (R306), the drift of a keepalive start by the plan's ka_ppm (Table 10-1), and the PTP ports' roles (R302).
A new leap-second table governs from here (R286). -/
def State.timeConfig (old s : State) : State :=
  let i := s.itemLE 0xC0
  let s := s.set .TIME_CFG0 0 0 (i 1 4 1 100 + i 1 6 2 60 % 2 ^ 9 * 2 ^ 7)
  let s := s.set .TIME_CFG1 0 0 (i 1 8 4 10000)
  let s := s.set .TIME_PPS_CFG 0 0 (i 5 4 4 0 % 2 ^ 24 + i 5 1 1 50 * 2 ^ 24)
  let s := s.modTime (fun t => { t with ppsDelay := toSigned 24 (i 5 4 4 0 % 2 ^ 24), ppsSetAt := none })
  let s := s.set .GNSS_CFG0 0 0 (i 4 4 2 0 + i 4 2 1 10 % 2 ^ 7 * 2 ^ 16 + i 4 0 1 7 % 2 ^ 3 * 2 ^ 23 + i 4 1 1 1 % 2 * 2 ^ 26)
  let en (lo : Nat) : Nat := maskOf ((List.range 32).map (fun k => match s.trig? (lo + k) with
    | some v => bit (leAt v 1 1) 0
    | none => false))
  let s := (s.set .TIME_TRIG_EN_LO 0 0 (en 0)).set .TIME_TRIG_EN_HI 0 0 (en 32 % 2 ^ 16)
  let s := (List.range 48).foldl (fun s k =>
    if s.trig? k = old.trig? k then s
    else s.modTime (fun t => { t with acted := Map.put t.acted k (t.ns - 1) })) s
  let s := if s.quality = 7 then (s.modTime (fun t => { t with e0 := s.keepaliveError })).publish else s
  let s := if s.items 0xC0 8 = old.items 0xC0 8 then s else s.setFlag .TIME_STATUS 0 0 13 false
  s.bmca

/-- A change of SRC is a source selection (R290, R306). -/
def State.reselect (s : State) : State :=
  match s.bestSource with
  | some d => if (s.discipline = 1 || s.discipline = 2) && s.selected = d then s else s.lockOn d
  | none => if s.listed.contains s.selected then s else s.sourceLost s.selected

/-- PANEL (Tables 17-4 and 17-7). -/
def State.panelConfig (s : State) : State :=
  let i := s.itemLE 0x120 1
  let s := s.set .PANEL_CFG0 0 0 (i 0 1 8 + i 1 1 64 * 2 ^ 4 + i 6 1 20 * 2 ^ 11 + i 7 1 50 * 2 ^ 19)
  let s := s.set .PANEL_CFG1 0 0 (i 8 2 16 + i 10 1 64 * 2 ^ 16 + i 11 1 0 * 2 ^ 24)
  let s := s.set .PANEL_CFG2 0 0 (i 2 1 0 + i 3 1 0 * 2 ^ 3 + i 4 1 0 * 2 ^ 6 + i 5 1 0 * 2 ^ 9 + i 12 2 0 * 2 ^ 12)
  (List.range 7).foldl (fun s k => s.set .PANEL_BAND_T k 0 (s.itemLE 0x120 2 (2 * k) 2 0)) s

/-- PINS (Tables 19-6 and 20-6): balls, Ethernet ports and their mode (R474, R475). -/
def State.pinsConfig (s : State) : State :=
  let s := (List.range 48).foldl (fun s g =>
    match (s.items 0x130 1).find? (fun v => leAt v 0 1 = g) with
    | some v => s.set .PINS_BALL g 0 (leAt v 1 1 + leAt v 2 1 * 2 ^ 8 + bits (leAt v 3 1) 3 0 * 2 ^ 16)
    | none => s.atReset .PINS_BALL g 0) s
  (List.range 4).foldl (fun s p =>
    let f := (((s.items 0x130 2).find? (fun v => leAt v 0 1 = p)).map (fun v => leAt v 1 1)).getD 0
    (s.setFlag .PINS_ETH_EN 0 0 p (bit f 0)).setFld .ETH_CFG p 0 25 24 (b2n (bit f 1 && decide (2 ≤ p)))) s

/-- The bytes of the plan's TARGET item, which the CUSTOMS authorisation covers (R219). -/
def State.planTarget (s : State) : Bytes := (s.item? 0x01 2).getD []

/-- Apply the section with a tag; `old` is the device before the section (R44, R51). Customs takes its own section
beforehand (R219). -/
def State.applySection (old s : State) (delta : Bool) (tag : Nat) : State :=
  match tag with
  | 0x10 => s.clocksConfig
  | 0x20 => s.docksConfig
  | 0x30 => if delta then s.docksConfig.fleetChanged else s.docksConfig
  | 0x40 => s.berthsConfig
  | 0x60 => if delta then State.plcDelta old s.plcConfig else s.plcConfig
  | 0x70 => s.radioConfig.checkDuty
  | 0x90 => s.veeConfig
  | 0xA0 => if delta then State.balDelta old s.balConfig else s.balConfig
  | 0xB0 => if delta then State.craftDelta old s.craftConfig else s.craftConfig
  | 0xC0 =>
    let x := State.timeConfig old s
    if delta && s.items 0xC0 1 != old.items 0xC0 1 then x.reselect else x
  | 0xE0 => s.storeConfig
  | 0xF0 => if delta then s.wharfDelta old else s.wharfConfig
  | 0x100 => s.pilotConfig
  | 0x110 => s.logConfig
  | 0x120 => s.panelConfig
  | 0x130 => s.pinsConfig
  | _ => s

/-- Put a section in the running plan, in place of the one with its tag, in tag order (R49). -/
def putSection (x : Section) : List Section → List Section
  | [] => [x]
  | y :: ys => if x.tag < y.tag then x :: y :: ys else if x.tag = y.tag then x :: ys else y :: putSection x ys

end Sys2Proof.Machine
end

