-- ==== Sys2Proof/Machine/PlanCheck.lean ====
section
/-!
DEFINITION. The checks of PARSE that look across items and sections (chapter 2 and the section chapters): MANDATORY, VALUE,
RESOURCE and CONFLICT. They read a scratch device in which the candidate sections run; nothing is written.
-/
namespace Sys2Proof.Machine

/-- Every pair of different places in a list satisfies a test. -/
def pairwise {α : Type} (p : α → α → Bool) : List α → Bool
  | [] => true
  | x :: xs => xs.all (p x) && pairwise p xs

/-- Two closed ranges have no value in common. -/
def apart (a b : Nat × Nat) : Bool := decide (a.2 < b.1) || decide (b.2 < a.1)

/-! ### Resources (R25, R84 and the claims of the other chapters) -/

/-- Enabled sensor ports. -/
def State.sensorPorts (c : State) : Nat :=
  ((c.items 0x70 1).filter (fun v => bit (leAt v 1 1) 0 && !bit (leAt v 1 1) 1)).length

/-- The command argument area in MiB (Table 4-11): claimed without a VEE section too. -/
def State.argMiB (c : State) : Nat := c.itemLE 0x90 5 4 2 64

/-- DDR-5 that the plan claims, in bytes. -/
def State.ddrClaim (c : State) : Nat :=
  (1024 + 4096 + 128 + c.itemLE 0x20 4 0 4 2048 + c.itemLE 0x20 5 0 4 1024 + c.argMiB + 33 + 74 * c.sensorPorts
    + (if c.hasSection 0x60 then 160 else 0) + (if c.hasSection 0xB0 then 16 else 0)
    + (if (c.item? 0xF0 4).isSome then 2 * (1088 + c.argMiB) else 0)) * 2 ^ 20
    + (if c.hasSection 0x120 then 128 else 0)
    + (if c.hasSection 0xA0 then c.itemLE 0xA0 1 14 4 0 * 16384 + c.itemLE 0xA0 1 18 4 0 * 8192 + 16384 else 0)

/-- Signal buffers that the plan claims, in bytes; the FIFOs and the payload pool leave 2,688 KiB (R418). -/
def State.bufferClaim (c : State) : Nat :=
  ((c.items 0x60 1).map (fun v => leAt v 18 2 * 640)).sum + 262144 * c.sensorPorts
    + (if c.hasSection 0xB0 then 131072 else 0)

/-- MEMORY: the harbour SRAM items sum to 20 MiB, and every claim fits (R84). -/
def State.checkMemory (c : State) : PlanErr :=
  firstErr [errIf (c.itemLE 0x20 1 0 4 12 + c.itemLE 0x20 2 0 4 6 + c.itemLE 0x20 3 0 4 2 != 20) 0xD 0x20,
    errIf (decide (c.pwr.ddrMiB * 2 ^ 20 < c.ddrClaim)) 0xE 0x20, errIf (decide (2688 * 1024 < c.bufferClaim)) 0xE 0x20]

/-! ### Berths and routes (R60, R86, R87, R245) -/

/-- A berth's SRAM part in 512-byte units, first and last. -/
def ringUnits (v : Bytes) : Nat × Nat :=
  (bits (leAt v 4 4) 15 0, bits (leAt v 4 4) 15 0 + 2 ^ (2 + bits (leAt v 4 4) 19 16) - 1)

/-- Berths in use: BERTH items with enabled set. -/
def State.usedBerths (c : State) : List Bytes := (c.items 0x40 1).filter (fun v => bit (leAt v 4 4) 31)

/-- The berths that a ROUTE item sends manifests to: its range with spreading, else the first alone (R87). -/
def routeBerths (v : Bytes) : List Nat :=
  if bit (leAt v 10 1) 0 then (List.range (leAt v 8 2)).map (leAt v 6 2 + ·) else [leAt v 6 2]

/-- The kinds that FLOWS routes to a berth. -/
def State.kindsTo (c : State) (n : Nat) : List Nat :=
  ((c.items 0x50 1).filter (fun v => (routeBerths v).contains n)).map (fun v => leAt v 1 1)

/-- BERTHS: rings inside HS_RINGS below the dead-letter ring and apart, spill extents within DDR_SPILL, and home docks that
serve what is routed to them (R86). -/
def State.checkBerths (c : State) : PlanErr :=
  let bs := c.usedBerths
  let top := 2048 * c.itemLE 0x20 2 0 4 6 - 64
  let spill := (bs.map (fun v => 32 * (2 ^ (6 + bits (leAt v 8 4) 23 20) - 2 ^ (6 + bits (leAt v 4 4) 19 16)))).sum
  let dockMask (d : Nat) : Nat := (((c.items 0x30 1).find? (fun v => leAt v 0 1 = d)).map (fun v => leAt v 4 8)).getD 0
  firstErr [
    errIf (!bs.all (fun v => decide ((ringUnits v).2 < top)) || !pairwise (fun a b => apart (ringUnits a) (ringUnits b)) bs)
      0xE 0x40,
    errIf (decide (c.itemLE 0x20 4 0 4 2048 * 2 ^ 20 < spill)) 0xE 0x40,
    errIf (!bs.all (fun v => (c.kindsTo (leAt v 0 2)).all (fun k => bit (dockMask (bits (leAt v 4 4) 26 23)) k))) 0xD 0x40]

/-- FLOWS: no two routes match one source and kind, every routed berth is in use (R87), and HOUR, TOPO and SET go to ordered
berths (R245). -/
def State.checkFlows (c : State) : PlanErr :=
  let rs := c.items 0x50 1
  let berthOf (n : Nat) : Option Bytes := c.usedBerths.find? (fun v => leAt v 0 2 = n)
  let span (v : Bytes) : List Nat := (List.range (leAt v 8 2)).map (leAt v 6 2 + ·)
  let same (a b : Bytes) : Bool := leAt a 0 1 == leAt b 0 1 && leAt a 1 1 == leAt b 1 1
    && !apart (leAt a 2 2, leAt a 4 2) (leAt b 2 2, leAt b 4 2)
  let hourly (v : Bytes) : Bool := leAt v 0 1 == 4 && leAt v 1 1 == kBalance
    && [60, 62, 63].any (fun i => decide (leAt v 2 2 ≤ i) && decide (i ≤ leAt v 4 2))
  firstErr [
    errIf (!pairwise (fun a b => !same a b) rs) 0xF 0x50,
    errIf (rs.any (fun v => (span v).any (fun n => (berthOf n).isNone))) 0xF 0x50,
    errIf (rs.any (fun v => hourly v && (routeBerths v).any (fun n => match berthOf n with
      | some b => !bit (leAt b 4 4) 29
      | none => false))) 0xD 0x50]

/-! ### Radio, craft and balance (R185, R187, R193, R240, R242, R278, R282) -/

/-- A sub-band item's range. -/
def bandRange (v : Bytes) : Nat × Nat := (leAt v 4 4, leAt v 8 4)

/-- The edges in kHz of the channel of a wide PORT item (R163). -/
def wideRange (v : Bytes) : Nat × Nat := (leAt v 4 4 - 800, leAt v 4 4 + 800)

/-- The channels that a PORT item enables, with their edges in kHz; the wide one of a wide port (R163, R185). -/
def portChannels (v : Bytes) : List (Nat × Nat) :=
  let f := leAt v 4 4
  if !bit (leAt v 1 1) 0 then []
  else if bit (leAt v 1 1) 1 then [wideRange v]
  else ((List.range 16).filter (fun c => bit (leAt v 8 2) c)).map (fun c => (channelLow f c, channelLow f c + 200))

/-- RADIO: sub-bands apart, one wide port at most, each channel wholly in one sub-band that holds no other mode, and the
beacon and stop loads within their reservations (R185, R187, R193). -/
def State.checkRadio (c : State) : PlanErr :=
  let bands := c.items 0x70 2
  let ports := c.items 0x70 1
  let inBand (b : Bytes) (x : Nat × Nat) : Bool := decide (leAt b 4 4 ≤ x.1) && decide (x.2 ≤ leAt b 8 4)
  let chans (wide : Bool) : List (Nat × Nat) := (ports.filter (fun v => bit (leAt v 1 1) 1 == wide)).flatMap portChannels
  let overlap (a b : Bytes) : Bool := decide (leAt a 4 4 < leAt b 8 4) && decide (leAt b 4 4 < leAt a 8 4)
  firstErr [
    errIf (!pairwise (fun a b => !overlap a b) bands) 0xF 0x70,
    errIf (decide (1 < (ports.filter (fun v => bit (leAt v 1 1) 1)).length)) 0xD 0x70,
    errIf ((chans false ++ chans true).any (fun x => !bands.any (fun b => inBand b x))) 0xD 0x70,
    errIf (bands.any (fun b =>
      let n := ((chans false).filter (inBand b)).length
      let w := (chans true).any (inBand b)
      (w && (n != 0 || decide (leAt b 2 2 < 460))) || decide (leAt b 2 2 * 72000 < 10546875 * n))) 0xD 0x70]

/-- CRAFT: the named port is wide, its sub-band has L of 460 or more, and every lane joins defined junctions (R278, R282). -/
def State.checkCraft (c : State) : PlanErr :=
  let port := c.itemLE 0xB0 1 0 1 0
  let js := (c.items 0xB0 4).map (fun v => leAt v 0 2)
  let wide := ((c.items 0x70 1).filter (fun v => leAt v 0 1 == port && bit (leAt v 1 1) 1)).map wideRange
  let holds (b : Bytes) : Bool := wide.any (fun x => decide (leAt b 4 4 ≤ x.1) && decide (x.2 ≤ leAt b 8 4))
  firstErr [
    errIf ((c.items 0x70 2).any (fun b => holds b && decide (leAt b 2 2 < 460))) 0xD 0xB0,
    errIf (!(c.items 0x70 1).any (fun v => leAt v 0 1 == port && bit (leAt v 1 1) 1)) 0xF 0xB0,
    errIf ((c.items 0xB0 5).any (fun v => !js.contains (leAt v 2 2) || !js.contains (leAt v 4 2))) 0xF 0xB0]

/-- BALANCE: row blocks within members and apart, no EPX designated in two groups, group numbers below groups, and
EPXs that exist (R4, R240, R242). -/
def State.checkBalance (c : State) : PlanErr :=
  let gs := c.items 0xA0 2
  let rows (v : Bytes) : Nat × Nat := (leAt v 4 4, leAt v 4 4 + leAt v 8 2 - 1)
  let refs (v : Bytes) : List Nat := if bit (leAt v 2 1) 1 then []
    else ([leAt v 12 4, leAt v 16 4, leAt v 20 4]).filter (· != 0xFFFFFFFF)
  firstErr [
    errIf (gs.any (fun v => decide (c.itemLE 0xA0 1 14 4 0 ≤ leAt v 0 2) || (refs v).any (fun e => decide (2 ^ 22 ≤ e)))) 0xD
      0xA0,
    errIf (gs.any (fun v => decide (c.itemLE 0xA0 1 18 4 0 ≤ (rows v).2)) || !pairwise (fun a b => apart (rows a) (rows b)) gs)
      0xF 0xA0,
    errIf (!pairwise (fun a b => !(refs a).any (refs b).contains) gs) 0xF 0xA0]

/-! ### The other sections -/

/-- Copies of frame-control bit b that a notch mask leaves: its carriers are 62 + b + 72r, eight to a group from carrier 62
(R128, R130). -/
def controlCopies (mask b : Nat) : Nat := ((List.range 11).filter (fun r => !bit mask ((b + 72 * r) / 8))).length

/-- PLC: a notch mask leaves every frame-control bit 6 of its 11 copies (R130). -/
def State.checkPlc (c : State) : PlanErr :=
  errIf ((c.items 0x60 2).any (fun v => (List.range 72).any (fun b => decide (controlCopies (leAt v 2 13) b < 6)))) 0xD 0x60

/-- The balls that PINS gives a function and index. -/
def State.hasBall (c : State) (f i : Nat) : Bool := (c.items 0x130 1).any (fun v => leAt v 1 1 == f && leAt v 2 1 == i)

/-- CUSTOMS: no slot has two CAL items and no key of SEASON, DAY or SPECIAL repeats (R237). -/
def State.checkCustoms (c : State) : PlanErr :=
  let ks (t o n : Nat) : List Bytes := (c.items 0x80 t).map (fun v => slice v o n)
  errIf (!((ks 2 0 1).Nodup && (ks 3 0 2).Nodup && (ks 4 0 2).Nodup
    && ((c.items 0x80 5).map (fun v => slice v 0 1 ++ slice v 2 4)).Nodup)) 0xD 0x80

/-- VEE: shapes that rules name are there, and issuer ranges are apart (R119). -/
def State.checkVee (c : State) : PlanErr :=
  firstErr [
    errIf ((c.items 0x90 1).any (fun v => bits (leAt v 6 1) 3 2 == 2
      && !(c.items 0x90 2).any (fun x => leAt x 0 1 == leAt v 7 1))) 0xD 0x90,
    errIf (!pairwise (fun a b => apart (leAt a 0 2, leAt a 2 2) (leAt b 0 2, leAt b 2 2)) (c.items 0x90 3)) 0xF 0x90]

/-- TIME: the leap table rises, no two TRIG items drive one output, and PINS gives TIME its balls (R306). -/
def State.checkTime (c : State) : PlanErr :=
  let ls := (c.items 0xC0 8).map (fun v => leAt v 0 6)
  let outs := ((c.items 0xC0 9).filter (fun v => bit (leAt v 1 1) 1)).map (fun v => leAt v 2 1)
  firstErr [
    errIf (!pairwise (fun a b => decide (a < b)) ls) 0xD 0xC0,
    errIf (!decide outs.Nodup) 0xF 0xC0,
    errIf (outs.any (fun k => !c.hasBall 1 k) || (c.items 0xC0 10).any (fun v =>
      decide (leAt v 0 1 < 8) && !c.hasBall 2 (leAt v 0 1))) 0xF 0xC0]

/-- A slot is VALID with a usage (Table 11-2). -/
def State.slotIs (c : State) (n usage : Nat) : Bool := (c.keySlot n).valid && (c.keySlot n).usage == usage

/-- KEYS: ROOT and wrap slots, and worker ranges of one l1_label apart (R327). -/
def State.checkKeys (c : State) : PlanErr :=
  let ws := c.items 0xD0 2
  firstErr [
    errIf (!c.slotIs (c.itemLE 0xD0 1 0 1 0) 1 || ws.any (fun v => !c.slotIs (leAt v 1 1) 6)) 0xD 0xD0,
    errIf (!pairwise (fun a b => leAt a 2 2 != leAt b 2 2 || apart (leAt a 4 2, leAt a 6 2) (leAt b 4 2, leAt b 6 2)) ws)
      0xF 0xD0]

/-- STORE: the array holds what the section claims, and the Customs region keeps its size (R329, R350). -/
def State.checkStore (c : State) : PlanErr :=
  let c := c.storeConfig
  firstErr [errIf c.storeShort 0xE 0xE0, errIf (c.store.cus != 0 && c.store.cusMiB != c.partMiB 1) 0xF 0xE0]

/-- WHARF: the key slot's usage, MANAGER alone, PARTNER with PILOT, and a port that PINS gives to Ethernet (R360, R371). -/
def State.checkWharf (c : State) : PlanErr :=
  let worker := (c.item? 0xF0 5).isSome
  let port := c.itemLE 0xF0 1 0 1 0
  firstErr [
    errIf (!c.slotIs (c.itemLE 0xF0 1 8 1 0) (if worker then 13 else 7)) 0xD 0xF0,
    errIf (worker && (!(c.items 0xF0 3).isEmpty || (c.item? 0xF0 4).isSome)) 0xF 0xF0,
    errIf ((c.item? 0xF0 4).isSome && !c.hasSection 0x100) 0xF 0xF0,
    errIf (!(c.items 0x130 2).any (fun v => leAt v 0 1 == port && bit (leAt v 1 1) 0)) 0xF 0xF0]

/-- Event codes of the Logbook that are defined: Table 14-2 and the tables of chapters 15, 17 and 18 (R386). -/
def logCodes : List Nat :=
  [0x1, 0x101, 0x102, 0x201, 0x202, 0x203, 0x204, 0x205, 0x206, 0x207, 0x501, 0x601, 0x602, 0x603, 0x604, 0x605,
    0x801, 0x802, 0x803, 0xA01, 0xA02, 0xA03, 0xC01, 0xC02, 0xC03, 0xD01, 0xD02, 0xD03, 0xF01, 0xF02, 0xF03, 0xF04,
    0xF05, 0x1001, 0x1002, 0x1003, 0x1004, 0x1005, 0x1101, 0x1201, 0x1202, 0x1203, 0x1204, 0x1301, 0x1302, 0x1303,
    0x1401, 0x1402, 0x1403, 0x1404, 0x1405, 0x1406, 0x1701, 0x1702, 0x1703, 0x1704, 0x1801, 0x1802, 0x1803, 0x1804,
    0x1805, 0x1806, 0x1807]

/-- LOG: triggers name defined codes and lists (R386). -/
def State.checkLog (c : State) : PlanErr :=
  let ls := (c.items 0x110 2).map (fun v => leAt v 0 1)
  errIf ((c.items 0x110 3).any (fun v => !logCodes.contains (leAt v 0 2) || (leAt v 2 1 != 0 && !ls.contains (leAt v 2 1))))
    0xD 0x110

/-- PANEL: every WAVE and COMP combination, and a readout within the commons (R441). -/
def State.checkPanel (c : State) : PlanErr :=
  firstErr [
    errIf ((c.items 0x120 3).length != 32 || (c.items 0x120 4).length != 8) 0xD 0x120,
    errIf (match c.item? 0x120 5 with
      | some v => decide (c.itemLE 0x120 1 0 1 8 * 64 < leAt v 0 2 + 7 * leAt v 2 1)
      | none => false) 0xF 0x120]

/-- PINS: one ball for a function and index, delay-matched balls for TRIG_OUT and CAPT_IN, and what enabled segments need
(R475). -/
def State.checkPins (c : State) : PlanErr :=
  let bs := (c.items 0x130 1).filter (fun v => leAt v 1 1 != 0)
  let segs := (c.items 0x60 1).filter (fun v => bit (leAt v 1 1) 0)
  firstErr [
    errIf (!decide ((bs.map (fun v => slice v 1 2)).Nodup)) 0xF 0x130,
    errIf (bs.any (fun v => (leAt v 1 1 == 1 || leAt v 1 1 == 2) && decide (15 < leAt v 0 1))) 0xF 0x130,
    errIf (segs.any (fun v => !c.hasBall 4 (leAt v 0 1) || !c.hasBall 3 0)) 0xF 0x130]

/-- CLOCKS: backup_pin needs ON_BACKUP (R465). -/
def State.checkClocks (c : State) : PlanErr :=
  errIf (bit (c.itemLE 0x10 2 0 1 0) 1 && !c.hasBall 6 0) 0xF 0x10

/-- Section `tag` of the candidate against the others. -/
def State.checkSection (c : State) (tag : Nat) : PlanErr :=
  match tag with
  | 0x10 => c.checkClocks
  | 0x20 => c.checkMemory
  | 0x40 => c.checkBerths
  | 0x50 => c.checkFlows
  | 0x60 => c.checkPlc
  | 0x70 => c.checkRadio
  | 0x80 => c.checkCustoms
  | 0x90 => c.checkVee
  | 0xA0 => c.checkBalance
  | 0xB0 => c.checkCraft
  | 0xC0 => c.checkTime
  | 0xD0 => c.checkKeys
  | 0xE0 => c.checkStore
  | 0xF0 => c.checkWharf
  | 0x110 => c.checkLog
  | 0x120 => c.checkPanel
  | 0x130 => c.checkPins
  | _ => (0, 0)

/-- The end of PARSE: each section holds its required items and values in range, in tag order, and then the sections agree
(R38, Table 2-7). `changed` are the sections that the stream carries. -/
def State.checkPlan (s : State) (sections changed : List Section) : PlanErr :=
  let c := { s with plan := { s.plan with running := sections } }
  firstErr (changed.map (fun x => firstErr [errIf (!x.complete) 0xC x.tag, errIf (!x.valuesOk) 0xD x.tag])
    ++ sections.map (fun x => c.checkSection x.tag))

end Sys2Proof.Machine
end

