-- ==== Sys2Proof/Machine/Loader.lean ====
section
/-!
DEFINITION. The plan loader (chapter 2): VERIFY and PARSE of a stream, APPLY, the boot's two copies, and deltas.
-/
namespace Sys2Proof.Machine

/-! ### VERIFY (R39-R42) -/

/-- The first item of a type in a section. -/
def Section.item (x : Section) (t : Nat) : Option Bytes := (x.items.find? (fun i => i.type == t)).map (·.value)

/-- Bytes of a section's item as a number; 0 without it. -/
def Section.num (x : Section) (t o n : Nat) : Nat := leAt ((x.item t).getD []) o n

/-- The HEADER has the items that its form requires and none that it forbids (R39). -/
def Section.headerOk (h : Section) (delta : Bool) : Bool :=
  let has (t : Nat) : Bool := (h.item t).isSome
  has 1 && has 2 && has 4 && (has 3 != delta) && (has 6 == delta)

/-- The entries of the compatibility vector: code, reserved byte, minimum version. -/
def Section.compat (h : Section) : List (Nat × Nat × Nat) :=
  let v := (h.item 3).getD []
  (List.range (v.length / 4)).map (fun i => (leAt v (4 * i) 1, leAt v (4 * i + 1) 1, leAt v (4 * i + 2) 2))

/-- COMPAT: entries outside Table 2-4 are VALUE errors; a repeated code, or an active version below a minimum (R40). -/
def State.checkCompat (s : State) (h : Section) : PlanErr :=
  let es := h.compat
  firstErr [errIf (es.any (fun e => !([1, 3, 4, 5, 6].contains e.1) || e.2.1 != 0)) 0xD 1,
    errIf (!decide ((es.map (·.1)).Nodup) || es.any (fun e => decide (s.activeVersion e.1 < e.2.2))) 8 1]

/-- The checks of VERIFY over a stream whose sections are framed (R39-R42, Table 2-5). -/
def State.verifyPlan (s : State) (delta : Bool) (b : Bytes) (h g : RawSection) : PlanErr :=
  let hp := h.parse
  let gp := g.parse
  let head := hp.1
  let slot := gp.1.num 1 0 4
  let span := b.take (b.length - 8 - g.payload.length)
  firstErr [hp.2, gp.2, errIf (!head.valuesOk) 0xD 1, errIf (!gp.1.complete) 0xC 0xFFFF,
    errIf (!gp.1.valuesOk) 0xD 0xFFFF,
    errIf (!s.slotIs slot 2) 0xA 0xFFFF,
    errIf (!Config.p384Verify (s.keySlot slot).material (Config.sha384 span) ((gp.1.item 2).getD [])) 0xB 0xFFFF,
    errIf (!head.headerOk delta) 0xC 1,
    errIf (head.num 2 0 4 != 0x00B07680) 7 1,
    if delta then (0, 0) else s.checkCompat head,
    errIf (if delta then head.num 4 0 4 != s.get .PLAN_EPOCH 0 0 else decide (head.num 4 0 4 < s.bond.floor)) 9 1]

/-- The sections between HEADER and SIGNATURE as items, with the first VERSION or TLV error. -/
def parseBody (raw : List RawSection) : List Section × PlanErr :=
  let body := raw.filter (fun r => r.tag != 1 && r.tag != 0xFFFF)
  (body.map (fun r => r.parse.1), firstErr (body.map (fun r => r.parse.2)))

/-- The slots whose keys a plan's signature and AUTH items name. -/
def planSlots (limit : Nat) (b : Bytes) : List Nat :=
  (frames limit b).1.flatMap (fun r =>
    let x := r.parse.1
    if x.tag = 0xFFFF then [x.num 1 0 4]
    else if x.tag = 0x80 then (x.items.filter (·.type = 8)).map (fun i => leAt i.value 4 4)
    else [])

/-- Their tags are checked before the plan is verified with them (R311). -/
def State.usePlanKeys (s : State) (limit : Nat) (b : Bytes) : State := (planSlots limit b).foldl State.useSlot s

/-- The slot that signed a plan. -/
def planSigner (b : Bytes) : Option Nat := (frames 8388608 b).1.getLast?.map (fun g => g.parse.1.num 1 0 4)

/-- FETCH, VERIFY and PARSE of a full plan (R44): its sections in tag order, HEADER first and SIGNATURE left out. -/
def State.checkFull (s : State) (b : Bytes) : List Section × PlanErr :=
  let f := frames 8388608 b
  if f.2.1 != 0 then ([], f.2)
  else match f.1.head?, f.1.getLast? with
    | some h, some g =>
      let e := s.verifyPlan false b h g
      if e.1 != 0 then ([], e)
      else
        let p := parseBody f.1
        let tags := f.1.map (·.tag)
        let missing := (requiredTags.find? (fun t => !tags.contains t)).getD 0
        let xs := h.parse.1 :: p.1
        let e := firstErr [p.2, errIf (missing != 0) 0xC missing]
        if e.1 != 0 then ([], e) else (xs, s.checkPlan xs p.1)
    | _, _ => ([], 3, 0)

/-! ### Loading at boot (R44-R47) -/

/-- Set the loader state. -/
def State.setLoader (s : State) (v : Nat) : State := s.setFld .PLAN_STATUS 0 0 3 0 v

/-- The running serial. -/
def State.serial (s : State) : Nat := s.get .PLAN_SERIAL_LO 0 0 + s.get .PLAN_SERIAL_HI 0 0 * 2 ^ 32

/-- Show a running serial (R51). -/
def State.setSerial (s : State) (n : Nat) : State :=
  (s.set .PLAN_SERIAL_LO 0 0 (n % 2 ^ 32)).set .PLAN_SERIAL_HI 0 0 (n / 2 ^ 32 % 2 ^ 32)

/-- APPLY of a full plan: Customs decides its section, and every section is written in tag order (R44, R219). A hardware
error while a section is written is APPLY_FAULT. -/
def State.applyPlan (s : State) (xs : List Section) (fault : Option Nat) : State × PlanErr :=
  let c := s.modPlan (fun p => { p with running := xs })
  let cus := xs.find? (fun x => x.tag == 0x80)
  let before := match fault with
    | some t => decide (t < 0x80) && xs.any (fun x => x.tag == t)
    | none => false
  let r := match cus with
    | some x => if before then (c, true) else c.customsSection false c.planTarget x.items
    | none => (c, true)
  let applied := xs.foldl (fun d x => State.applySection d d false x.tag) r.1
  match fault with
  | some t =>
    if before then (c, 0x16, t) else if !r.2 then (r.1, 0x14, 0x80)
    else if xs.any (fun x => x.tag == t) then (applied, 0x16, t) else (applied, 0, 0)
  | none => if r.2 then (applied, 0, 0) else (r.1, 0x14, 0x80)

/-- A loader error in the form of the error registers (Table 2-10). -/
def errWord (e : PlanErr) : Nat := e.1 + e.2 * 2 ^ 16

/-- SEAL: the plan is in service (R45, R47, Table 2-9). -/
def State.seal (s : State) (copy : Nat) (xs : List Section) : State :=
  let h := (xs.find? (fun x => x.tag == 1)).getD ⟨1, []⟩
  let s := (s.set .PLAN_STATUS 0 0 (6 + copy * 2 ^ 4 + 2 ^ 8)).setSerial (h.num 1 0 8)
  s.set .PLAN_EPOCH 0 0 (h.num 4 0 4)

/-- One copy from FETCH to SEAL: the device with the plan in service, or the error. Blocks that APPLY wrote return to
their reset state when it fails, but for what Customs has journaled (R44, R45, R219). -/
def State.tryCopy (s : State) (copy : Nat) (b : Bytes) (fault : Option Nat) : State × PlanErr :=
  if s.bond.lifecycle = 4 then (s, 0xA, 0xFFFF)
  else
    let s := s.usePlanKeys 8388608 b
    let p := s.checkFull b
    if p.2.1 != 0 then (s, p.2)
    else
      let a := s.applyPlan p.1 fault
      if a.2.1 = 0 then ((a.1.seal copy p.1).modPlan (fun q => { q with signer := planSigner b }), 0, 0)
      else (({ s with customs := a.1.customs, log := a.1.log, free := a.1.free }).set .CUSTOMS_AUTH_REASON 0 0
        (a.1.get .CUSTOMS_AUTH_REASON 0 0), a.2)

/-- In FACTORY the loader runs once a PLAN_VERIFY slot exists (Table 11-10). -/
def State.loaderRuns (s : State) : Bool :=
  s.bond.lifecycle != 1 || s.bond.slots.any (fun e => e.2.valid && e.2.usage = 2)

/-- FAILED (R45, R46): nothing is in service, and STOP_OUT is asserted. -/
def State.loaderFails (s : State) : State := (s.setLoader 7).raise .PLAN_INT 0 3

/-- The loader runs from IDLE: the primary copy, then the fallback (R44, R45). -/
def State.runLoader (s : State) (primary fallback : Bytes) (fault0 fault1 : Option Nat) : State :=
  if !s.loaderRuns then s
  else
    let a := s.tryCopy 1 primary fault0
    if a.2.1 = 0 then a.1
    else
      let s := a.1.set .PLAN_BOOT_ERROR_0 0 0 (errWord a.2)
      let b := s.tryCopy 2 fallback fault1
      if b.2.1 = 0 then (b.1.raise .PLAN_INT 0 2).event 0x0101 (errWord a.2) 0
      else (b.1.set .PLAN_BOOT_ERROR_1 0 0 (errWord b.2)).loaderFails

/-! ### Deltas (R49-R53) -/

/-- The functional sections of a plan: all but HEADER. -/
def functional (xs : List Section) : List Section := xs.filter (fun x => x.tag != 1)

/-- Base and size of every berth's ring and extent (Table 2-2), by berth; of two items for a berth the later stands. -/
def berthShape (items : List Bytes) : Map (Nat × Nat) :=
  items.foldl (fun m v => Map.put m (leAt v 0 2) (bits (leAt v 4 4) 19 0, bits (leAt v 8 4) 23 20)) []

/-- A section that Table 2-2 does not let a delta carry, or not in this form. -/
def State.forbids (s : State) (x : Section) : PlanErr :=
  if noDeltaTags.contains x.tag then (0x11, x.tag)
  else if x.tag = 0x40 && berthShape (s.items 0x40 1) != berthShape ((x.items.filter (·.type = 1)).map (·.value)) then
    (0x11, 0x40)
  else if x.tag = 0xB0 && s.craft.rows.any (fun e => s.craftMoves e.2) then (0x13, 0xB0)
  else (0, 0)

/-- The running plan with a delta's sections in place of its own (R49). -/
def State.merged (s : State) (xs : List Section) : List Section := xs.foldl (fun l x => putSection x l) s.plan.running

/-- DELTA_CHECK (R50); a delta that carries no functional section is refused with MANDATORY, tag 0 (assumption 52): the functional sections with the device in which Customs took its section, or the error. -/
def State.checkDelta (s : State) (b : Bytes) : State × List Section × Nat × PlanErr :=
  let f := frames 1048576 b
  if f.2.1 != 0 then (s, [], 0, f.2)
  else match f.1.head?, f.1.getLast? with
    | some h, some g =>
      let head := h.parse.1
      let p := parseBody f.1
      let xs := p.1
      let e := firstErr [s.verifyPlan true b h g, errIf (head.num 6 0 8 != s.serial) 0x10 1,
        errIf (decide (head.num 1 0 8 ≤ s.serial)) 0x15 1, errIf xs.isEmpty 0xC 0, p.2,
        firstErr (xs.map s.forbids)]
      if e.1 != 0 then (s, [], 0, e)
      else
        let e := s.checkPlan (s.merged xs) xs
        if e.1 != 0 then (s, [], 0, e)
        else
          let r := match xs.find? (fun x => x.tag == 0x80) with
            | some x => s.customsSection true s.planTarget x.items
            | none => (s, true)
          (r.1, xs, head.num 1 0 8, if r.2 then (0, 0) else (0x14, 0x80))
    | _, _ => (s, [], 0, 3, 0)

/-- Functions of the berths whose BERTH item differs between two BERTHS sections. -/
def State.berthFnsChanged (s : State) (new : Section) : List Nat :=
  let items := (new.items.filter (fun i : Item => i.type = 1)).map (fun i : Item => i.value)
  let old := s.items 0x40 1
  let of (l : List Bytes) : List Nat := l.map (fun v => bits (leAt v 8 4) 29 24)
  of (items.filter (fun v => !old.contains v)) ++ of (old.filter (fun v => !items.contains v))

/-- The functions that a section affects: the loader closes their intake and drains them (R32, R51, Table 2-2). -/
def State.affected (s : State) (x : Section) : List Nat :=
  let fns := match x.tag with
    | 0x30 =>
      let docks := s.changedKeys x [1]
      (s.usedBerths.filter (fun v => docks.contains (bits (leAt v 4 4) 26 23))).map (fun v => bits (leAt v 8 4) 29 24)
    | 0x40 => s.berthFnsChanged x
    | 0x50 =>
      let old := s.items 0x50 1
      let now := (x.items.filter (fun i : Item => i.type = 1)).map (fun i : Item => i.value)
      let routes := (old.filter (fun v => !now.contains v)) ++ (now.filter (fun v => !old.contains v))
      (s.usedBerths.filter (fun b => routes.any (fun v =>
        decide (leAt v 6 2 ≤ leAt b 0 2) && decide (leAt b 0 2 < leAt v 6 2 + leAt v 8 2)))).map
        (fun v => bits (leAt v 8 4) 29 24)
    | 0x60 => (s.changedKeys x [1, 2]).map (· + 1)
    | 0x70 => if s.changedKeys x [2] = [] then (s.changedKeys x [1]).map (· + 9) else [9, 10, 11, 12]
    | 0x90 => [0x10]
    | 0xA0 => [0x11]
    | 0xB0 => [0x12]
    | 0xF0 => [0xD]
    | 0x120 => [0x14]
    | _ => []
  (List.range 0x17).filter (fun f => fns.contains f)

/-- The loader closes the intake of the next section's functions (R51). -/
def State.holdNext (s : State) : State :=
  match s.plan.todo with
  | [] => s
  | x :: _ =>
    let fs := s.affected x
    let run := fs.filter s.fnRunning
    let now := s.time.ns
    let s := (s.modHm (fun h => { h with held := fs })).modPlan (fun p => { p with reopen := run, heldAt := now })
    run.foldl (fun s f => s.disableFn f) s

/-- Refuse a delta (R50): the running plan is untouched. -/
def State.refuseDelta (s : State) (e : PlanErr) : State := (s.set .PLAN_DELTA_ERROR 0 0 (errWord e)).raise .PLAN_INT 0 1

/-- PLAN.CMD APPLY_DELTA with the bytes at DELTA_ADDR (R50, Table 2-8): checked at once; a delta that passes begins its
first section. After a partial delta every later one is refused with PARTIAL, whatever the power state (assumption 20). -/
def execApplyDelta (data : Bytes) (s : State) : Host.Outcome State Fault Refusal :=
  if s.hostHeld then .next s else
  if s.flag .PLAN_STATUS 0 0 9 then .next (s.refuseDelta (0x17, 0))
  else if s.loader != 6 || s.power != 0 || s.bootRec.trial = 2 || s.pwrfail then .next (s.refuseDelta (0x12, 0))
  else
    let b := fit (s.fld .PLAN_DELTA_LEN 0 0 20 0) data
    let s := s.usePlanKeys 1048576 b
    let r := s.checkDelta b
    if r.2.2.2.1 != 0 then .next (r.1.refuseDelta r.2.2.2)
    else
      let s := ((r.1.set .PLAN_DELTA_ERROR 0 0 0).setLoader 9).modPwr (fun p => { p with unsealed := s.time.ns })
      .next (s.modPlan (fun p => { p with
        todo := r.2.1, deltaSerial := r.2.2.1, deltaCount := r.2.1.length })).holdNext

/-- Apply the section in progress at its quiescent point and reopen its functions (R51); one that the new section disables
is OFF (R49). -/
def State.applyDelta (s : State) (x : Section) : State :=
  let old := s
  let s := s.modPlan (fun p => { p with running := putSection x p.running, todo := p.todo.drop 1 })
  let s := State.applySection old s true x.tag
  let s := s.plan.reopen.foldl (fun s f =>
    if s.planEnables f then (s.setFld .HM_FUNC_CTL f 0 4 3 1).setFlag .HM_FUNC_CTL f 0 2 false else s.fnOff f) s
  let s := (s.modHm (fun h => { h with held := [] })).modPlan (fun p => { p with reopen := [] })
  if x.tag = 0x70 then s.radioDelta else s

/-- The last section is applied: serial, count, interrupt and record (R51). -/
def State.deltaDone (s : State) : State :=
  let p := s.plan
  let s := (s.setSerial p.deltaSerial).setLoader 6
  let now := s.time.ns
  let s := s.modPwr (fun w => { w with kicked := w.kicked + (now - max w.unsealed w.kicked) })
  let s := s.setFld .PLAN_STATUS 0 0 23 16 (satAdd 255 (s.fld .PLAN_STATUS 0 0 23 16) 1)
  (s.raise .PLAN_INT 0 0).event 0x0102 p.deltaSerial p.deltaCount

/-- An instant `a + k * period` lies between the closing of intake and now. -/
def State.crossed (s : State) (a : Int) (period : Nat) : Bool :=
  decide (((s.plan.heldAt : Int) - a) / (max 1 period : Nat) < ((s.time.ns : Int) - a) / (max 1 period : Nat))

/-- The quiescent point of Table 2-2 for the section in progress, beyond the drain of its functions: the docks drained, the poll
cycle ended, the superframe's boundary or the TIME second passed, no VEE manifest in flight, the section taken up by each affected worker at its
heartbeat, the waveform ended. -/
def State.quiescent (s : State) (x : Section) : Bool :=
  match x.tag with
  | 0x30 =>
    let docks := s.changedKeys x [1]
    s.hm.slots.all (fun e => match e.2.tug with
      | some t => !docks.contains (t / 16)
      | none => true)
  | 0x60 => (s.changedKeys x [1, 2]).all (fun n => match s.plc[n]? with
      | some g => !g.running || (g.exch.isNone && s.crossed g.anchor (1000000 * s.fld .PLC_SEG_CFG0 n 0 15 0))
      | none => true)
  | 0x70 => (s.affected x).all (fun f => match s.radio.ports[f - 9]? with
      | some p => !p.running || s.crossed p.anchor (if s.flag .RADIO_CFG1 (f - 9) 0 0 then 100000000 else 32768000000)
      | none => true)
  | 0x90 => s.hm.slots.all (fun e => e.2.m.kind != kVee)
  | 0xB0 => match s.widePort with
    | some n => (match s.radio.ports[n]? with
      | some p => !p.running || s.crossed p.anchor 100000000
      | none => true)
    | none => true
  | 0xC0 => decide (s.plan.heldAt / 1000000000 < s.sec)
  | 0xF0 =>
    (s.affectedWorkers x).all (fun w => match Map.get? s.wharf.workers w with
      | some k => (k.state != 2 && k.state != 3) || s.wharf.switched.contains w
      | none => true)
  | 0x120 => s.panel.phase = .off || s.panel.phase = .idle
  | _ => true

/-- The affected functions have reached the section's quiescent point and no manifest of theirs remains (R51, Table 2-2). -/
def execDeltaSectionApply (s : State) : Host.Outcome State Fault Refusal :=
  match s.plan.todo with
  | [] => .next s
  | x :: _ =>
    if s.loader = 9 && s.hm.held.all (fun f => s.fnLoad f = 0) && s.quiescent x then
      let s := s.applyDelta x
      .next (if s.plan.todo.isEmpty then s.deltaDone else s.holdNext)
    else .next s

/-- PWRFAIL_N during DELTA_APPLY: the section in progress is applied without its drain, and no other (Table 2-8). Neither
delta_done nor delta_fail is set and DELTA_ERROR stays (assumption 53). -/
def State.deltaCutShort (s : State) : State :=
  match s.plan.todo with
  | x :: _ =>
    if s.loader = 9 then
      let s := s.applyDelta x
      ((s.modPlan (fun p => { p with todo := [] })).setFlag .PLAN_STATUS 0 0 9 true).setLoader 6
    else s
  | [] => s

end Sys2Proof.Machine
end

