-- ==== Sys2Proof/Machine/Reset.lean ====
section
/-!
DEFINITION. Resets: what each source's scope resets, wipes and keeps (R446, R447, R449, R294, Table 18-2). A reset and the
BOOT that follows it are two commands; between them `pwr.inReset` holds.
-/
namespace Sys2Proof.Machine

/-- Registers that show the timebase and the GNSS baseband, which run through every reset that keeps the timebase; and the
count of takeovers since PORST_N (Table 13-11). -/
def runningRegs : List Reg :=
  [.TIME_STATUS, .TIME_TIME_UNC, .TIME_FREQ_UNC, .TIME_OFFSET, .TIME_RESIDUAL, .TIME_RATE, .TIME_PTP_PORT, .GNSS_STATUS,
    .GNSS_SATS, .GNSS_RESID, .GNSS_CN0, .GNSS_POS_X_LO, .GNSS_POS_X_HI, .GNSS_POS_Y_LO, .GNSS_POS_Y_HI, .GNSS_POS_Z_LO,
    .GNSS_POS_Z_HI, .PILOT_TAKEOVER_CNT]

/-- Registers that hold fencing, but for the dock flags (R79). -/
def fenceRegs : List Reg := [.TUG_FENCED, .TUG_FLEET_STATUS]

/-- Every register returns to its reset value, but for those that show what the reset leaves as it was. -/
def State.resetRegs (s : State) (keep : List Reg) : State :=
  { s with regs := s.regs.keep (fun a _ => match regAt a with
    | some (r, _, _) => keep.contains r
    | none => false) }

/-- The fencing of docks and the count of their retired lines, as they were (R78, R79). -/
def State.keepDocks (s old : State) : State :=
  (List.range 16).foldl (fun s d => s.set .TUG_DOCK_CFG d 0 (old.get .TUG_DOCK_CFG d 0 &&& 0xFE0)) s

/-- A record of the start that follows, before the records already due; PWR_RESET comes first, and one stands for each
start (R447, R467). -/
def State.noteStart (s : State) (cause : Nat) (more : List (Nat × Nat × Nat)) : State :=
  s.modPwr (fun p =>
    let ms := match p.startLog.find? (fun e => e.1 = 0x1801) with
      | some e => e.2.2
      | none => s.get .PWR_BOOT_MS 0 0
    { p with startLog := (0x1801, cause, ms) :: (p.startLog.filter (fun e => e.1 != 0x1801) ++ more) })

/-- What every reset does (Table 18-2): registers, wiped arrays and discarded contents; DDR-5 tables, the timebase, Customs,
the Logbook and NAND stay, as they do for the narrower scopes. -/
def State.wipe (s : State) (cause : Nat) (fencingKept : Bool) : State :=
  let old := s
  let s := s.panelCut.resetRegs (runningRegs ++ (if fencingKept then fenceRegs else []))
  let s := if fencingKept then (s.keepDocks old).setFlag .TUG_FLEET_STATUS 0 0 18 false else s
  let s := s.set .PWR_STATUS 0 0 (cause * 2 ^ 3 + old.fld .PWR_STATUS 0 0 9 9 * 2 ^ 9)
  let s := s.modPlan (fun _ => PlanState.start)
  let s := s.modHm (fun _ => HmState.start)
  let s := s.modDma (fun _ => DmaState.start)
  let s := s.modEth (fun e => ⟨List.replicate 4 EthPort.start, [], e.sent⟩)
  let s := s.modBal (fun _ => BalState.reset)
  let s := s.modEp (fun e => { e with cache := [], level := 0, bp := [] })
  let s := s.modHost (fun h => { h with
    rings := List.replicate 8 RingState.start, readData := [], latch := [], rings410 := [] })
  let s := s.modTime (fun t => { t with capt := [], acted := [] })
  let s := { s with
    plc := s.plc.map (fun g : PlcSeg => { PlcSeg.reset with nodes := g.nodes })
    heldDown := [] }
  let s := s.modRadio (fun r => { r with
    ports := r.ports.map (fun p : RadioPort => { RadioPort.reset with entries := p.entries }) })
  let s := s.modCraft (fun c => { CraftState.start with
    rows := c.rows
    lanes := c.lanes
    tasks := c.tasks
    kept := c.kept
    stopIn := c.stopIn
    latched := 0 })
  let s := s.modWharf (fun w => { WharfState.reset with seqs := w.seqs, epoch := w.epoch, lostEpoch := w.lostEpoch })
  let s := s.modPilot (fun p => { PilotState.reset with epoch := p.epoch })
  let s := s.modBond (fun b => { b with nonce := none, cache := [] })
  let s := s.modUpd (fun u => { u with staging := none, trialOk := false, trialAt := none, restarting := false, newRecFormat := none, newMapFormat := none })
  let s := s.modStore (fun t => { t with cache := [], aidWait := [], patrolling := false })
  s.modPwr (fun p => { p with
    inReset := true
    gasp := 0
    heldReset := false
    warned := false
    nextEvent := 0
    entered := 0
    hibEntry := none
    passes := []
    bgAt := []
    tugMem := []
    devMem := p.devMem.keep (fun a _ => decide (a < 0x1000000000)) })

/-- Customs loses its supply: what it holds is journaled as at PWRFAIL_N, at C of this tick, or of the keepalive count at the
loss of REFCLK; its SRAM is gone (R226, R449, Table 18-2), with what a flush cut short left of the journal buffer. -/
def State.customsLoses (s : State) (refclk : Bool) : State :=
  let c := s.customs
  let s := if c.state = 4 then s else s.customsPowerDown.cusFlush
  let lost (t : Nat) : Bool := s.customs.buffer.any (fun r => r.type = t)
  s.modCustoms (fun d =>
    let down : Option CusDown := match d.down, s.time.keep with
      | some x, some k =>
        if refclk && (c.state = 1 || c.state = 2) then some { x with at' := 1000000000 * k } else some x
      | x, _ => x
    { d with
      buffer := []
      cusOff := 0
      mbxRec := if lost 9 then [] else d.mbxRec
      state := 0
      resid := 0
      running := false
      restarting := false
      queue := []
      tampers := []
      mismatches := []
      down := if lost 4 then none else down
      sealKey := none })

/-- Reset sources of Table 18-10: 1 SYSRST_N, 2 watchdog, 3 plan-requested. A commit in progress has completed, since a
command is atomic (R75); the store's write cache is flushed first (R347). -/
def State.takeReset (s : State) (cause : Nat) (fencingKept : Bool) : State :=
  let s := if s.storeOn then s.flushCache else s
  let s := if s.power = 3 then s.customsLoses false else s
  (s.noteStart cause []).wipe cause fencingKept

/-- A reset with the scope of SYSRST_N that a function takes (R446). -/
def State.sysReset (s : State) : State := s.takeReset 3 false

/-- The keepalive count that a start reads, which ran on for `off` seconds; none when VDD_KA was lost (R294). -/
def State.keptCount (s : State) (off : Option Nat) : Option Nat :=
  match off, s.time.keep with
  | some d, some k => some (k + d)
  | _, _ => none

/-- The ns at which the timebase starts: the keepalive count's second, or the newest durable stamp and 1 s (R294). -/
def State.startNs (s : State) (count : Option Nat) : Nat :=
  match count with
  | some c => 1000000000 * c
  | none =>
    match s.newestDurable with
    | some d => d.2.2 + 1000000000
    | none => 0

/-- The timebase from `ns`; the keepalive count `count` and what it was disciplined with stay (R294). -/
def TimeState.startAt (t : TimeState) (ns : Nat) (count : Option Nat) : TimeState :=
  { TimeState.start with
    ns := ns
    lastSec := ns / 1000000000
    refAt := ns
    kaAge := if count.isSome then ns / 1000000000 - t.keepAt else 0
    keep := count
    keepAt := if count.isSome then t.keepAt else 0
    ageing := t.ageing
    calibrations := t.calibrations
    aid := t.aidSaved
    aidSaved := t.aidSaved }

/-- Load the timebase at a start (R294): from the keepalive count, which ran on for `off` seconds, or from the newest durable
stamp when VDD_KA was lost; STATUS names the source KEEPALIVE or none. The sources start again. -/
def State.reloadTime (s : State) (off : Option Nat) : State :=
  let count := s.keptCount off
  let ns := s.startNs count
  let s := s.modTime (fun t => t.startAt ns count)
  let s := s.modTime (fun t => { t with e0 := if count.isSome then s.keepaliveError else 0 })
  (s.set .TIME_STATUS 0 0 (if count.isSome then 7 + 5 * 2 ^ 6 else 8)).publish

/-- What DDR-5 held is gone (Table 18-2). -/
def State.loseDdr (s : State) : State :=
  let s := s.modEp (fun e => { e with recs := [], damaged := [], lost := true })
  let s := { s with plc := List.replicate 8 PlcSeg.reset }
  let s := s.modRadio (fun r => { r with ports := List.replicate 4 RadioPort.reset })
  let s := s.modCraft (fun c => { c with rows := [], lanes := [], tasks := [] })
  let s := s.modPanel (fun p => { p with row := 0 })
  let s := s.modUpd (fun u => { u with jobs := List.replicate 8 FwJob.free, targets := [] })
  s.modPwr (fun p => { p with devMem := [] })

/-- The k-th region of keepalive SRAM is not valid, and its owner applies its rule (R461, Table 18-7). The Time region acts where the
timebase is loaded (R294), and the Hibernate region at a wake (R456). -/
def State.loseRegion (k : Nat) (s : State) : State :=
  match k with
  | 2 => s.modRadio (fun r => { r with dutySec := 0, duty := RadioState.start.duty })
  | 3 => s.modCraft (fun c => { c with kept := none })
  | 4 => s.modPilot (fun p => { p with epoch := 0 })
  | 5 => s.modPanel (fun p => { p with kept := false, accounts := [], displayed := 0, target := 0, inRun := false })
  | 6 => s.modTime (fun t => { t with ageing := 0, calibrations := 0 })
  | 8 => s.modWharf (fun w => { w with seqs := [], epoch := none, lostEpoch := none })
  | _ => s

/-- The regions of keepalive SRAM that a header without its CRC, or the regions listed, leave not valid (R461). -/
def lostRegions (bad : List Nat) : List Nat :=
  if bad.contains 0 then [1, 2, 3, 4, 5, 6, 7, 8] else bad

/-- The owners of the regions that are not valid at a start apply their rules (R461). -/
def State.loseRegions (s : State) (bad : List Nat) : State :=
  (lostRegions bad).foldl (fun s k => s.loseRegion k) s

/-- VDD_KA was lost: no region of keepalive SRAM is valid (R461, Table 18-7). -/
def State.loseKeepalive (s : State) : State :=
  s.loseRegions [0]

/-- The Time region alone is not valid at a start that loads the timebase from it (R294, R461). -/
def State.loseTime (s : State) (bad : List Nat) : State :=
  let cause := s.fld .PWR_STATUS 0 0 5 3
  if (lostRegions bad).contains 1 && (cause = 0 || cause = 4 || cause = 5) then s.reloadTime none else s

/-- A reset with the scope of PORST_N (R446, R449, R459): `core` and `sram` say that VDD_CORE and VDD_SRAM held (R379), `off`
the seconds the keepalive clock ran while the timebase did not; none that VDD_KA was lost. -/
def State.fullReset (s : State) (cause : Nat) (core sram : Bool) (off : Option Nat) (more : List (Nat × Nat × Nat)) :
    State :=
  let s := s.noteStart cause more
  let s := (s.customsLoses (cause = 4)).wipe cause false
  let s := { s with regs := [] }
  let s := s.set .PWR_STATUS 0 0 (cause * 2 ^ 3 + s.fld .PWR_STATUS 0 0 9 9 * 2 ^ 9)
  let s := s.loseDdr
  let s := if off.isSome then s else s.loseKeepalive
  let s := s.modHost (fun h => { h with linkUp := false, busMaster := false, msixMasked := true })
  let s := if core then s else s.modLog (fun l => { l with powerCycles := (l.powerCycles + 1) % 2 ^ 32 })
  let s := s.modLog (fun l => { l with opSec := s.startOpSec })
  let s := if sram then s else s.logStart
  let s := s.modStore (fun t => { t with entries := [], health := (t.ckpts.head?.map (·.health)).getD Health.zero })
  s.reloadTime off

/-! ### The rows -/

/-- PORST_N (R446): at once, whatever is in progress. -/
def execPorstN (core sram : Bool) (off : Option Nat) (s : State) : Host.Outcome State Fault Refusal :=
  .next (s.fullReset 0 core sram off [])

/-- The root PLL lost lock (R449). -/
def execRefclkLoss (s : State) : Host.Outcome State Fault Refusal :=
  .next (s.fullReset 4 true true (some 0) [(0x1803, 0, 0)])

/-- A brown-out restart leaves POWER_DOWN while HOLDUP_OK is high (R459); TIME ran and no rail was lost. -/
def execBrownoutRestart (s : State) : Host.Outcome State Fault Refusal :=
  if s.power = 4 && s.flag .PWR_STATUS 0 0 9 then .next (s.fullReset 5 true true (some 0) [(0x1804, 0, 0)]) else .next s

/-- SYSRST_N (R446, R447): held during the last gasp, ignored in POWER_DOWN. -/
def execSysrstN (s : State) : Host.Outcome State Fault Refusal :=
  if s.power = 4 then .next s
  else if s.pwrfail then .next (s.modPwr (fun p => { p with heldReset := true }))
  else .next (s.takeReset 1 false)

/-- PWR.CMD RESET (R446, R447); ignored while a command runs (R466). -/
def execPwrCmdReset (s : State) : Host.Outcome State Fault Refusal :=
  if s.hostHeld then .next s else
  if s.pwr.inReset || s.power = 4 || s.flag .PWR_STATUS 0 0 12 then .next s
  else if s.pwrfail then .next (s.modPwr (fun p => { p with heldReset := true }))
  else .next (s.takeReset 3 true)

/-! ### The watchdog (R448) -/

/-- The watchdog counts: the loader is in SEALED, a timeout is set, and PWRFAIL_N is not accepted (R447, R448). -/
def State.watching (s : State) : Bool :=
  s.loader = 6 && !s.pwrfail && !s.pwr.inReset && s.fld .PWR_WDT_CFG 0 0 15 0 != 0

/-- A write to PWR.WDT_KICK (R448). -/
def execWatchdogKick (val : Word) (s : State) : Host.Outcome State Fault Refusal :=
  if s.hostHeld then .next s else
  if bits val.toNat 15 0 = 0xC35A then
    .next (s.modPwr (fun p => { p with kicked := s.time.ns, warned := false }))
  else .next s

/-- Half the timeout has passed since the last restart (R448). -/
def execWatchdogHalf (s : State) : Host.Outcome State Fault Refusal :=
  if s.watching && !s.pwr.warned
      && decide (s.pwr.kicked + 500000 * s.fld .PWR_WDT_CFG 0 0 15 0 ≤ s.time.ns) then
    .next ((s.modPwr (fun p => { p with warned := true })).raise .PWR_INT 0 4)
  else .next s

/-- The timeout has passed since the last restart (R448). -/
def execWatchdogReset (s : State) : Host.Outcome State Fault Refusal :=
  if s.watching && decide (s.pwr.kicked + 1000000 * s.fld .PWR_WDT_CFG 0 0 15 0 ≤ s.time.ns) then
    .next (s.takeReset 2 true)
  else .next s

end Sys2Proof.Machine
end

