-- ==== Sys2Proof/Machine/Update.lean ====
section
/-!
DEFINITION. The image update (R391-R399): STAGE, ACTIVATE, the trial, COMMIT and revert. BOOT starts the trials of codes
1 to 3.
-/
namespace Sys2Proof.Machine

/-! ### Packages (Table 15-4) -/

/-- Bytes of a slot (Table 15-1). -/
def slotSize (code : Nat) : Nat := [0, 524288, 8388608, 4194304, 2097152, 2097152].getD code 0

/-- A package's code. -/
def pkgCode (b : Bytes) : Nat := leAt b 4 1
/-- A package's version. -/
def pkgVersion (b : Bytes) : Nat := leAt b 8 2
/-- The update-gate floor to set at commit. -/
def pkgFloor (b : Bytes) : Nat := leAt b 10 2
/-- Bytes of the body. -/
def pkgLength (b : Bytes) : Nat := leAt b 16 4
/-- The campaign number. -/
def pkgCampaign (b : Bytes) : Nat := leAt b 20 4
/-- The compatibility entries, 24 bytes. -/
def pkgCompat (b : Bytes) : Bytes := slice b 24 24
/-- The endpoint record format a tug image writes. -/
def pkgRec (b : Bytes) : Nat := leAt b 48 2
/-- The MAP page format boot stage 1 writes. -/
def pkgMap (b : Bytes) : Nat := leAt b 50 2

/-- Entries of a compat field in use: code and minimum version. -/
def compatEntries (c : Bytes) : List (Nat × Nat) :=
  ((List.range (c.length / 4)).map (fun i => (leAt c (4 * i) 1, leAt c (4 * i + 2) 2))).filter (fun e => e.1 != 0)

/-- Compat entries of a package: each all-zero and unused, or a code of Table 2-4 with byte 1 zero, no code twice (R40). -/
def compatFormed (c : Bytes) : Bool :=
  let es := ((List.range 6).map (fun i => slice c (4 * i) 4)).filter (fun e => leAt e 0 4 != 0)
  es.all (fun e => [1, 3, 4, 5, 6].contains (leAt e 0 1) && leAt e 1 1 = 0) && decide ((es.map (fun e => leAt e 0 1)).Nodup)

/-- Check 4 of Table 15-5: magic, code, length, reserved fields and compat entries. -/
def pkgFormed (b : Bytes) : Bool :=
  let c := pkgCode b
  let n := pkgLength b
  leAt b 0 4 = 0x4B505156 && decide (1 ≤ c) && decide (c ≤ 5) && n % 4 = 0 && decide (n ≤ slotSize c)
    && b.length = 160 + n && leAt b 5 3 = 0 && leAt b 56 8 = 0 && decide (pkgFloor b ≤ pkgVersion b)
    && (c = 3 || pkgRec b = 0) && (c = 1 || pkgMap b = 0)
    && compatFormed (slice b 24 24)

/-- Check 8: the entries are met by the active versions, and no active image and no COMPAT entry of the running plan asks
for a higher version of this code. -/
def State.compatMet (s : State) (code version : Nat) (compat : Bytes) : Bool :=
  let r := s.bootRec
  let asks := (List.range 5).flatMap (fun k => compatEntries (r.slot (k + 1) (r.act (k + 1))).compat)
    ++ compatEntries ((s.item? 1 3).getD [])
  (compatEntries compat).all (fun e => decide (1 ≤ e.1) && decide (e.1 ≤ 6) && decide (e.2 ≤ s.activeVersion e.1))
    && asks.all (fun e => e.1 != code || decide (e.2 ≤ version))

/-- A code's place in the order of a campaign (R393); 0 before any. -/
def campaignPlace (code : Nat) : Nat := [0, 1, 5, 2, 3, 4].getD code 0

/-- The slot of a code that is neither ACTIVE nor TRIAL, the lower when both are free (R393). -/
def BootRec.idle (r : BootRec) (code : Nat) : Nat :=
  let used (n : Nat) : Bool := (r.slot code n).state = 3 || (r.slot code n).state = 4
  if used 0 then 1 else 0

/-- The slot of a code in a state. -/
def BootRec.inState (r : BootRec) (code state : Nat) : Option Nat :=
  if (r.slot code 0).state = state then some 0 else if (r.slot code 1).state = state then some 1 else none

/-! ### Answers (Tables 15-12 to 15-14) -/

/-- A UPD command answers; a refusal is counted in INT and recorded. -/
def State.updDone (s : State) (cmd result detail : Nat) : State :=
  let s := s.set .UPD_CMD_STATUS 0 0 (1 + result * 2 + detail % 256 * 2 ^ 8)
  if result = 0 then s else (s.raise .UPD_INT 0 4).event 0x1405 cmd result

/-- A UPD command is taken: registers answer, and none is busy (R407). -/
def State.updTakes (s : State) : Bool := !s.pwr.inReset && !s.flag .UPD_STATUS 0 0 4

/-- Checks 1 to 3 of Table 15-5: 0 when they hold. -/
def State.updGuard (s : State) : Nat :=
  if s.loader != 6 then 1
  else if s.bond.ownerLock then 8
  else if !s.flag .PWR_STATUS 0 0 9 then 9
  else if s.bootRec.trial != 0 then 7
  else 0

/-- The first failing check of Table 15-5 for a package, with its detail; 0 when all hold. -/
def State.stageRefusal (s : State) (b : Bytes) : Nat × Nat :=
  let c := pkgCode b
  let r := s.bootRec
  let k := s.keySlot (leAt b 52 4)
  let span := b.take (64 + pkgLength b)
  if s.updGuard != 0 then (s.updGuard, 0)
  else if !pkgFormed b then (14, 0)
  else if leAt b 12 4 != 0x00B07680 then (3, 0)
  else if !(s.slotIs (leAt b 52 4) 5
      && Config.p384Verify k.material (Config.sha384 span) (slice b (64 + pkgLength b) 96)) then (2, 0)
  else if pkgVersion b < s.bond.gates.getD c 0 then (4, 0)
  else if !s.compatMet c (pkgVersion b) (pkgCompat b) then (5, 0)
  else if pkgCampaign b < r.campaign
      || (pkgCampaign b = r.campaign && decide (campaignPlace c ≤ campaignPlace r.lastCode)) then (6, 0)
  else if c = 2 then
    let e := (s.checkFull (slice b 64 (pkgLength b))).2.1
    if e = 0 then (0, 0) else (13, e)
  else (0, 0)

/-- STAGE with the package found at PKG_ADDR (R392, R393): steps 1 and 2 begin. -/
def execUpdStage (pkg : Bytes) (s : State) : Host.Outcome State Fault Refusal :=
  if s.hostHeld then .next s else
  if !s.updTakes then .next s
  else
    let b := fit (s.fld .UPD_PKG_LEN 0 0 23 0) pkg
    let s := s.useSlot (leAt b 52 4)
    let s := if pkgCode b = 2 then s.usePlanKeys 8388608 (slice b 64 (pkgLength b)) else s
    let e := s.stageRefusal b
    if e.1 != 0 then .next (s.updDone 1 e.1 e.2)
    else
      let c := pkgCode b
      let n := s.bootRec.idle c
      let s := s.putBoot (fun r => r.modSlot c n (fun _ => { BootSlot.empty with state := 1 }))
      .next ((s.modUpd (fun u => { u with staging := some (c, n, b) })).setFlag .UPD_STATUS 0 0 4 true)

/-- The slot is programmed and read back (R393 steps 3 and 4): VALID, or EMPTY on a mismatch. -/
def execUpdStageDone (ok : Bool) (s : State) : Host.Outcome State Fault Refusal :=
  match s.upd.staging with
  | none => .next s
  | some (c, n, b) =>
    let s := (s.modUpd (fun u => { u with staging := none })).setFlag .UPD_STATUS 0 0 4 false
    if ok then
      let s := s.putBoot (fun r => r.modSlot c n (fun _ => ⟨2, pkgVersion b, pkgLength b, pkgCompat b, b⟩))
      .next (((s.updDone 1 0 0).raise .UPD_INT 0 0).event 0x1401 c (pkgVersion b))
    else .next ((s.putBoot (fun r => r.modSlot c n (fun _ => BootSlot.empty))).updDone 1 14 0)

/-! ### The trial (R394, R395, Table 15-6) -/

/-- The first start made with the trial slot (R395); a format that its image changes is to be migrated (R398). -/
def State.trialStarts (s : State) : State :=
  let r := s.bootRec
  let c := r.trial
  let b := (r.slot c ((r.inState c 4).getD 0)).pkg
  let rec' : Option Nat := if c = 3 && pkgRec b != 0 && pkgRec b != s.upd.recFormat then some (pkgRec b) else none
  let map' : Option Nat := if c = 1 && pkgMap b != 0 && pkgMap b != s.upd.mapFormat then some (pkgMap b) else none
  let s := s.putBoot (fun r => { r with trialStarts := 1 })
  let s := s.modUpd (fun u => { u with
    trialOk := false, trialAt := some s.time.ns, newRecFormat := rec', newMapFormat := map' })
  s.setFlag .UPD_STATUS 0 0 3 rec'.isSome

/-- The signal block restarts on its microcode: segments and ports drain under R82 first (Table 15-6). -/
def State.signalRestart (s : State) : State :=
  let s := s.modUpd (fun u => { u with restarting := true })
  (((List.range 12).filter (fun k => s.fnRunning (k + 1))).foldl (fun s k => s.disableFn (k + 1)) s).signalBack

/-- The GNSS baseband restarts: GNSS is LOST, and the timebase follows R290 (Table 15-6). -/
def State.gnssRestart (s : State) : State := (State.noteGnss s (s.loseSource 1)).setFld .GNSS_STATUS 0 0 1 0 1

/-- Codes 4 and 5 start in place. -/
def State.restartInPlace (s : State) (code : Nat) : State :=
  if code = 4 then s.signalRestart else if code = 5 then s.gnssRestart else s

/-- Why ACTIVATE of slot `n` is refused (R394, R399); 0 when it is not. -/
def State.activateRefusal (s : State) (code n : Nat) (force : Bool) : Nat :=
  let x := s.bootRec.slot code n
  if x.version < s.bond.gates.getD code 0 then 4
  else if !s.compatMet code x.version x.compat then 5
  else if 3 ≤ code && !force && s.craft.rows.any (fun e => s.craftMoves e.2) then 10
  else if code = 3 && pkgRec x.pkg != 0 && pkgRec x.pkg != s.upd.recFormat
      && decide (s.pwr.ddrMiB * 2 ^ 20 < s.ddrClaim + 2 ^ 30) then 12
  else 0

/-- ACTIVATE (R394): the VALID slot becomes the trial and is started as its code requires. A code without one is STATE. -/
def execUpdActivate (val : Word) (s : State) : Host.Outcome State Fault Refusal :=
  if s.hostHeld then .next s else
  let code := bits val.toNat 6 4
  if !s.updTakes then .next s
  else if s.updGuard != 0 then .next (s.updDone 2 s.updGuard 0)
  else
    match s.bootRec.inState code 2 with
    | none => .next (s.updDone 2 1 0)
    | some n =>
      let e := if 1 ≤ code && code ≤ 5 then s.activateRefusal code n (bit val.toNat 7) else 1
      if e != 0 then .next (s.updDone 2 e 0)
      else
        let v := (s.bootRec.slot code n).version
        let s := s.putBoot (fun r =>
          { r.modSlot code n (fun x => { x with state := 4 }) with
            trial := code
            trialStarts := 0 })
        let s := ((s.updDone 2 0 0).raise .UPD_INT 0 1).event 0x1402 code v
        if code = 3 then .next s.sysReset
        else if 4 ≤ code then .next (s.trialStarts.restartInPlace code)
        else .next s

/-- The slots of a revert (R395): the trial slot REJECTED, the former slot ACTIVE; a migration is discarded (R399). -/
def State.revertSlots (s : State) (cause : Nat) : State :=
  let r := s.bootRec
  let c := r.trial
  let s := s.putBoot (fun r =>
    let r := match r.inState c 4 with
      | some n => r.modSlot c n (fun x => { x with state := 5 })
      | none => r
    { r with
      trial := 0
      trialStarts := 0 })
  let s := s.modUpd (fun u => { u with trialOk := false, trialAt := none, newRecFormat := none, newMapFormat := none })
  ((s.setFlag .UPD_STATUS 0 0 3 false).raise .UPD_INT 0 3).event 0x1404 c cause

/-- A revert while the device runs (R395, R397): codes 1 to 3 by a reset with the scope of SYSRST_N, the others in place. -/
def State.revert (s : State) (cause : Nat) : State :=
  let c := s.bootRec.trial
  let s := s.revertSlots cause
  if c ≤ 3 then s.sysReset else s.restartInPlace c

/-- The success condition of a trial of code 4 or 5 is judged once the block has restarted (Table 15-6); BOOT judges the
other codes. -/
def execTrialEvaluation (ok : Bool) (s : State) : Host.Outcome State Fault Refusal :=
  let c := s.bootRec.trial
  if s.pwr.inReset || s.upd.restarting || s.upd.trialOk || s.upd.trialAt.isNone || !(c = 4 || c = 5) then .next s
  else if ok then .next (s.modUpd (fun u => { u with trialOk := true }))
  else .next (s.revert 2)

/-- trial_s seconds have passed since the trial started (R397). -/
def execTrialTimeout (s : State) : Host.Outcome State Fault Refusal :=
  match s.upd.trialAt with
  | some t =>
    if s.bootRec.trial != 0 && !s.pwr.inReset
        && decide (t + 1000000000 * s.get .UPD_TRIAL_CFG 0 0 ≤ s.time.ns) then .next (s.revert 3)
    else .next s
  | none => .next s

/-- REVERT (R397); without a trial it is STATE. -/
def execUpdRevert (s : State) : Host.Outcome State Fault Refusal :=
  if s.hostHeld then .next s else
  if !s.updTakes then .next s
  else if s.bootRec.trial = 0 then .next (s.updDone 4 1 0)
  else .next ((s.updDone 4 0 0).revert 4)

/-! ### COMMIT and migration (R396, R398, R399) -/

/-- The conversion of the endpoint records ends (R399). -/
def execMigrationDone (s : State) : Host.Outcome State Fault Refusal :=
  .next (if s.upd.newRecFormat.isSome then s.setFlag .UPD_STATUS 0 0 3 false else s)

/-- COMMIT (R396): formats, boot record, gate floor. -/
def execUpdCommit (s : State) : Host.Outcome State Fault Refusal :=
  if s.hostHeld then .next s else
  let r := s.bootRec
  let c := r.trial
  if !s.updTakes then .next s
  else if s.loader != 6 || c = 0 || !s.upd.trialOk then .next (s.updDone 3 1 0)
  else if !s.flag .PWR_STATUS 0 0 9 then .next (s.updDone 3 9 0)
  else if s.flag .UPD_STATUS 0 0 3 then .next (s.updDone 3 11 0)
  else
    let n := (r.inState c 4).getD 0
    let b := (r.slot c n).pkg
    let newMap := s.upd.newMapFormat.isSome
    let s := s.modUpd (fun u => { u with
      recFormat := u.newRecFormat.getD u.recFormat
      mapFormat := u.newMapFormat.getD u.mapFormat
      newRecFormat := none
      newMapFormat := none
      trialOk := false
      trialAt := none })
    let s := s.putBoot (fun r =>
      let r := (r.modSlot c (1 - n) (fun x => if x.state = 3 then { x with state := 2 } else x)).modSlot c n
        (fun x => { x with state := 3 })
      { r.setAct c n with
        trial := 0
        trialStarts := 0
        campaign := pkgCampaign b
        lastCode := c })
    let s := if newMap then s.mapCheckpoint else s
    let s := s.raiseGate c (pkgFloor b)
    .next (((s.updDone 3 0 0).raise .UPD_INT 0 2).event 0x1403 c (s.bond.gates.getD c 0))

end Sys2Proof.Machine
end

