-- ==== Sys2Proof/Machine/Power.lean ====
section
/-!
DEFINITION. Power states, power failure, the background activities, PWR.CMD, the die temperature and GPIO (R28-R30,
R452-R464, R480, R487, R489).
-/
namespace Sys2Proof.Machine

/-! ### State, backup and wake (R452-R457) -/

/-- PWR.STATUS.state changes (Table 18-10). -/
def State.setPower (s : State) (v : Nat) : State :=
  if s.power = v then s else (s.setFld .PWR_STATUS 0 0 2 0 v).raise .PWR_INT 0 0

/-- PWR.STATUS.backup (R453): a ball carries ON_BACKUP and it is asserted, or backup_force. -/
def State.onBackup (s : State) : Bool :=
  (s.pwr.onBackup && s.flag .PWR_CFG 0 0 2 && (List.range 48).any (fun g => s.fld .PINS_BALL g 0 7 0 = 6))
    || s.flag .PWR_CFG 0 0 0

/-- The periods of Table 1-9 do not count `ns` spent in NAP or HIBERNATE (R462); telemetry has instants of its own, which wake the
device (R454). -/
def State.pauseBg (s : State) (ns : Nat) : State :=
  s.modPwr (fun p => { p with
    bgAt := p.bgAt.map (fun e => if e.1 = 1 || e.1 = 2 || e.1 = 3 then (e.1, e.2 + ns) else e) })

/-- The device is in RUN again (R454-R457). Out of HIBERNATE, Customs waits for its restoration and the plan's functions
start. -/
def State.wake (s : State) : State :=
  let from' := s.power
  if from' = 0 || 4 ≤ from' then s
  else
    let now := s.time.ns
    let s := if 2 ≤ from' then (s.count .PWR_NAP_MS 0 0 ((now - s.pwr.entered) / 1000000)).pauseBg (now - s.pwr.entered) else s
    let s := if s.pwr.nextEvent < now then
        (s.count .PWR_WAKE_LATE_CNT 0 0 1).event 0x1807 from' (min 0xFFFFFFFF ((now - s.pwr.nextEvent) / 1000))
      else s
    let s := s.setPower 0
    if from' = 3 then
      let s := ((s.customsLoses false).loadSlots []).modStore (fun t => { t with flushEnd := false })
      (s.setFld .GNSS_STATUS 0 0 1 0 1).startFns
    else s

/-- Entry to HIBERNATE is given up: the device stays in RUN, and the functions that the plan enables run again (R457). -/
def State.endHibEntry (s : State) : State :=
  if s.pwr.hibEntry.isSome then (s.modPwr (fun p => { p with hibEntry := none })).startFns else s

/-- backup is judged again (R453, Table 18-6). -/
def State.backupEval (s : State) : State :=
  let b := s.onBackup
  if s.flag .PWR_STATUS 0 0 6 = b then s
  else
    let s := if b then s else s.endHibEntry
    let s := (s.setFlag .PWR_STATUS 0 0 6 b).raise .PWR_INT 0 3
    if b && s.power < 2 then s else s.wake

/-! ### Idle (R453, R454) -/

/-- The first instant of a phase `a` with a period, after now. -/
def nextAfter (now : Nat) (a : Int) (period : Nat) : Nat :=
  (a + ((((now : Int) - a) / (max 1 period : Nat) + 1) * (max 1 period : Nat))).toNat

/-- Instants of a radio port: the next beacon slot, and each entry's next occurrence less its guard (R168, R174, R175). -/
def State.radioInstants (s : State) (n : Nat) : List Nat :=
  let p := s.rport n
  if !p.running || s.flag .RADIO_CFG1 n 0 0 || !s.fnRunning (9 + n) then []
  else
    nextAfter s.time.ns p.anchor 2048000000 ::
      p.entries.map (fun e : RadioEntry =>
        let g := guardUs s.localPpm (s.fld .RADIO_CFG1 n 0 8 2) ((e.slot % 256) * 8000)
        let at' : Int := p.anchor + ((32768000000 * e.sch.phase + 8000000 * e.slot + 500000 : Nat) : Int)
          - ((4000 * g : Nat) : Int)
        nextAfter s.time.ns at' (32768000000 * 2 ^ e.sch.p))

/-- Cycle starts of the segments (R143). -/
def State.plcInstants (s : State) : List Nat :=
  ((List.range 8).filter (fun n => (s.seg n).running && s.fnRunning (1 + n))).map (fun n =>
    nextAfter s.time.ns (s.seg n).anchor (1000000 * s.fld .PLC_SEG_CFG0 n 0 15 0))

/-- Superframe starts, while superframes run (R261). -/
def State.craftInstants (s : State) : List Nat :=
  match s.widePort with
  | some p => if (s.rport p).running then [nextAfter s.time.ns (s.rport p).anchor 100000000] else []
  | none => []

/-- Instants of enabled trigger schedules, and of the device's own (R304, Table 8-2). -/
def State.trigInstants (s : State) : List Nat :=
  ((List.range 48).filterMap (fun i =>
    if !s.trigOn i then none
    else (s.trig? i).map (fun v =>
      let p := trigTimes v
      if s.time.ns < p.1 then p.1 else nextAfter s.time.ns p.1 p.2)))
    ++ (if s.balOn then [nextAfter s.time.ns 0 60000000000] else [])
    ++ (if s.fnRunning 0x12 && s.craft.base.isSome then [nextAfter s.time.ns 0 1000000000] else [])

/-- The next edge of PPS_OUT (R300). -/
def State.ppsInstants (s : State) : List Nat :=
  if s.ppsOn then
    [nextAfter s.time.ns (toSigned 24 (s.fld .TIME_PPS_CFG 0 0 23 0) / 4) 1000000000]
  else []

/-- next_event (R454); `tel` is the next TELEMETRY instant. -/
def State.nextEvent (s : State) (tel : Nat) : Nat :=
  ((List.range 4).flatMap s.radioInstants ++ s.plcInstants ++ s.craftInstants ++ s.trigInstants ++ s.ppsInstants).foldl
    min tel

/-- No manifest is dispatchable (R454). -/
def State.dispatchIdle (s : State) : Bool :=
  !s.dispatchOn || (List.range 16).all (fun d => !s.dockUp d || (s.pick d).isNone)

/-- No frame that the device sends is on a segment or a port (R454). -/
def State.airIdle (s : State) : Bool :=
  s.plc.all (fun g => g.txNow.all (fun f => decide (f.stop ≤ s.time.ns)))
    && s.radio.ports.all (fun p => p.txNow.all (fun f => decide (f.stop ≤ s.time.ns)))

/-- No tug executes: a manifest under way keeps the TUG domain (R454; assumption 32). -/
def State.tugsIdle (s : State) : Bool := s.hm.slots.all (fun e => e.2.tug.isNone)

/-- A power state is eligible (R453). -/
def State.mayEnter (s : State) (v : Nat) : Bool :=
  match v with
  | 1 => true
  | 2 => s.hm.slots.isEmpty && s.hm.berths.all (fun e => e.2.depth = 0) && s.store.cache.isEmpty && s.store.entries.isEmpty
      && s.customs.mailbox.isEmpty
  | _ => s.flag .PWR_CFG 0 0 1 && !s.hasPilot && s.fnState 0x12 = 0 && !s.ppsOn

/-- Break-even, and the longest wake, in ns (Table 18-4). -/
def breakEven (v : Nat) : Nat := [0, 100000, 10000000, 5000000000].getD v 0

/-- Wake max. -/
def wakeMax (v : Nat) : Nat := [0, 20000, 2000000, 400000000].getD v 0

/-- wake_margin in ns. -/
def State.wakeMargin (s : State) : Nat := s.fld .PWR_CFG 0 0 31 16 * 1000

/-- Every function that has nothing left to drain is OFF. -/
def State.idleOff (s : State) : State :=
  (allFns.filter (fun f => (s.fnState f = 2 || s.fnState f = 3) && s.fnLoad f = 0)).foldl (fun s f => s.fnOff f) s

/-- Entry to HIBERNATE begins: every function drains under its policy (R32, R82, R456). -/
def State.beginHibernate (s : State) (next : Nat) : State :=
  let now := s.time.ns
  let s := s.modPwr (fun p => { p with hibEntry := some (now, next) })
  (allFns.foldl (fun s f => s.disableFn f) s).idleOff

/-- What entry to HIBERNATE waits for has ended: every function is OFF, the panel rests, and the store can program (R456, R457;
assumption 32). -/
def State.mayHibernate (s : State) : Bool :=
  allFns.all (fun f => s.fnState f = 0) && s.storeOn && (s.panel.phase = .off || s.panel.phase = .idle)

/-- What entry to HIBERNATE does once every function is OFF (R456, R457). -/
def State.hibernate (s : State) : State :=
  let s := s.modHm (fun h => { h with berths := [], slots := [], relNext := h.seqNext, starved := [], skips := [] })
  let s := s.modPanel (fun p => { p with phase := .off, hv := false })
  let was := s.storeState
  let s := ((s.customsPowerDown.startFlush false).flushAll).setStore was
  let s := s.modLog (fun l => { l with pages := [], done := 0, copy := l.permanent, queue := [] })
  let s := { s with plc := s.plc.map (fun g : PlcSeg => { g with cache := [] }) }
  let s := (State.noteGnss s (s.loseSource 1)).setFld .GNSS_STATUS 0 0 1 0 0
  let s := s.modBond (fun b => { b with cache := [] })
  let s := s.modEp (fun e => { e with cache := [] })
  let s := s.modPwr (fun p => { p with
    tugMem := []
    devMem := p.devMem.keep (fun a _ => decide (a < 0x1000000000)) })
  s.modDma (fun d => { d with fifos := [] })

/-- Enter a power state (R454): counted, recorded, and its wake known. -/
def State.enter (s : State) (v next : Nat) : State :=
  let now := s.time.ns
  let s := s.event 0x1805 v (min 0xFFFFFFFF ((next - now) / 1000))
  let s := s.count (if v = 1 then .PWR_DOZE_CNT else if v = 2 then .PWR_NAP_CNT else .PWR_HIB_CNT) 0 0 1
  let s := if v = 3 then s.hibernate else s
  (s.setPower v).modPwr (fun p => { p with nextEvent := next, entered := now, hibEntry := none })

/-- The device is idle with backup set (R454): the deepest eligible state whose break-even it meets. `tel` is the next
TELEMETRY instant, in ns. -/
def execDeviceIdle (tel : Nat) (s : State) : Host.Outcome State Fault Refusal :=
  if s.pwr.inReset || s.pwrfail || s.power != 0 || !s.flag .PWR_STATUS 0 0 6 || s.flag .PWR_STATUS 0 0 7 || s.loader = 8
      || s.loader = 9 || !s.dispatchIdle || !s.tugsIdle || !s.airIdle then .next s
  else
    match s.pwr.hibEntry with
    | some e =>
      if e.1 + 100000000 < s.time.ns then .next s.endHibEntry
      else
        let s := s.idleOff
        .next (if s.mayHibernate then s.enter 3 e.2 else s)
    | none =>
      let next := s.nextEvent tel
      let t := next - s.time.ns
      match [3, 2, 1].find? (fun v => s.mayEnter v && decide (breakEven v + s.wakeMargin ≤ t)) with
      | none => .next s
      | some 3 =>
        let s := s.beginHibernate next
        .next (if s.mayHibernate then s.enter 3 next else s)
      | some v => .next (s.enter v next)

/-- The time set at entry arrives (R454). -/
def execScheduledWake (s : State) : Host.Outcome State Fault Refusal :=
  if 1 ≤ s.power && s.power ≤ 3 && decide (s.pwr.nextEvent ≤ s.time.ns + wakeMax s.power + s.wakeMargin) then .next s.wake
  else .next s

/-- A source of R455: 0 a dispatchable manifest, 1 a signal-FIFO end mark, 2 a BAR0 access, 3 a BAR2 access, 4 a PTP message,
5 a change of STOP_IN_N, HOLDUP_OK or backup. -/
def execUnscheduledWake (source : Nat) (s : State) : Host.Outcome State Fault Refusal :=
  let wakes : Bool := match s.power with
    | 1 => source = 0 && !s.dispatchIdle
    | 2 => decide (1 ≤ source) && decide (source ≤ 5)
    | 3 => source = 2 || source = 5
    | _ => false
  if wakes then .next s.wake else .next s

/-- An access by the host in NAP, or to BAR0 in HIBERNATE, waits for the wake it causes (R455). -/
def State.accessWake (s : State) (addr : Nat) : State :=
  if s.power = 2 || (s.power = 3 && decide (addr < 0x400000)) then s.wake else s

/-! ### Power failure (R458) -/

/-- What PWRFAIL_N stops at the Harbourmaster (R75): unreleased manifests are lost. -/
def State.dropManifests (s : State) : State :=
  s.modHm (fun h => { h with berths := [], slots := [], relNext := h.seqNext, starved := [], reloading := [], skips := [] })

/-- PWRFAIL_N is accepted (R458): all-stop and the Harbourmaster at once, then Customs, and the store's flush begins. -/
def execPwrfailAccept (s : State) : Host.Outcome State Fault Refusal :=
  if s.pwrfail || s.power = 4 then .next s
  else
    let was := s.power
    let s := ((s.setFlag .PWR_STATUS 0 0 10 true).raise .PWR_INT 0 1).event 0x1802 (s.fld .PWR_STATUS 0 0 9 9) was
    if was = 3 then .next ((s.stopEval.setPower 4).modPwr (fun p => { p with heldReset := false }))
    else
      let s := match s.widePort with
        | some p => s.withdrawRest p
        | none => s
      let s := (s.setPower 0).stopEval.dropManifests.deltaCutShort.panelFail
      let s := s.modUpd (fun u => { u with staging := none })
      .next ((s.permFails.customsPowerDown.startFlush true).modPwr (fun p => { p with gasp := 1, passes := [], hibEntry := none }))

/-- The last-gasp frames of the craft port (Table 9-9). -/
def State.gaspCraft (s : State) : State :=
  match s.widePort with
  | some p =>
    if (s.rport p).running then
      let s := s.modPort p (fun x => { x with txNow := [] })
      let now := s.time.ns
      ((s.wideSend p 0 now 8 (some 0) none (s.craftBeacon s.craftSf true)).1.sendStop p (now + 470000)).1
    else s
  | none => s

/-- POWER_DOWN (R458 step 4, R447): a held reset is discarded, and PPS_OUT falls. -/
def State.powerDown (s : State) : State :=
  ((s.setPower 4).modPwr (fun p => { p with gasp := 0, heldReset := false })).modTime (fun t => { t with
    ppsEnd := min t.ppsEnd t.ns })

/-- The flush's Logbook step is durable (R458 steps 3 and 4): the last-gasp frames, then POWER_DOWN. -/
def execLastGaspFrames (s : State) : Host.Outcome State Fault Refusal :=
  if s.pwr.gasp != 1 || s.storeState != 7 then .next s
  else
    let s := ((List.range 8).filter (fun n => (s.seg n).running && s.inService)).foldl (fun s n => s.beacon n true) s
    let s := if s.txAllowed then
        let ports := (List.range 4).filter (fun n => (s.rport n).running && !s.flag .RADIO_CFG1 n 0 0)
        (ports.foldl (fun s n => (s.beaconGroup n ((s.superframeAt n s.time.ns).2 / 2048000) true).1) s).gaspCraft
      else s
    .next s.powerDown

/-- HOLDUP_OK changes level (R480, Table 18-6). -/
def execHoldupOkChange (high : Bool) (s : State) : Host.Outcome State Fault Refusal :=
  if s.flag .PWR_STATUS 0 0 9 = high then .next s
  else
    let s := s.setFlag .PWR_STATUS 0 0 9 high
    if high then .next (if 2 ≤ s.power then s.wake.stopEval else s.stopEval)
    else
      let s := (s.raise .PWR_INT 0 2).wake
      let s := if !s.pwrfail then s.noteTamper 2 else s
      .next (State.stopInDownlink s s.stopEval)

/-- The PINS function ON_BACKUP changes (R453, Table 19-5). -/
def execBackupChange (on : Bool) (s : State) : Host.Outcome State Fault Refusal :=
  .next (s.modPwr (fun p => { p with onBackup := on })).backupEval

/-! ### PWR.CMD (R453, R462, R464, R466) -/

/-- A PWR.CMD write is taken: no reset, and no command in progress (R466, R485). -/
def State.pwrTakes (s : State) : Bool := !s.hostHeld && !s.flag .PWR_STATUS 0 0 12

/-- CMD_STATUS of a command: 0 OK, 1 BUSY, 2 REFUSED (Table 18-11). -/
def State.pwrDone (s : State) (result : Nat) : State := s.set .PWR_CMD_STATUS 0 0 (1 + result * 2)

/-- HOLD_RUN keeps the device in RUN (R453). -/
def execPwrHoldRun (s : State) : Host.Outcome State Fault Refusal :=
  if s.pwrTakes then .next ((s.setFlag .PWR_STATUS 0 0 7 true).wake.endHibEntry.pwrDone 0) else .next s

/-- RELEASE_RUN ends it (R453). -/
def execPwrReleaseRun (s : State) : Host.Outcome State Fault Refusal :=
  if s.pwrTakes then .next ((s.setFlag .PWR_STATUS 0 0 7 false).pwrDone 0) else .next s

/-- The GNSS group delays return to the factory's: a new error measurement, whose value the spec does not give (R464, R292;
assumption 2). -/
def State.factoryDelay (s : State) : State :=
  let s := s.modTime (fun t => { t with calibrations := 0 })
  if s.discipline = 2 && s.selected = 1 then
    let f := s.fresh
    f.2.correct (2 ^ 16 * toSigned 32 f.1)
  else s

/-- RESTORE_FACTORY (R464). -/
def execPwrRestoreFactory (arg : Nat) (s : State) : Host.Outcome State Fault Refusal :=
  if !s.pwrTakes then .next s
  else if bits arg 3 2 != 0 then .next (s.pwrDone 2)
  else
    let s := if bit arg 0 then s.factoryDelay else s
    let s := if bit arg 1 then s.modTime (fun t => { t with ageing := 0 }) else s
    let s := s.noteTamper 6
    .next (((s.event 0x1806 (bits arg 1 0) 0).raise .PWR_INT 0 6).pwrDone 0)

/-- BG_NOW starts an extra pass (R462): 0 SRAM scrub, 1 DDR-5 patrol, 2 NAND patrol. -/
def execPwrBgNow (arg : Nat) (s : State) : Host.Outcome State Fault Refusal :=
  if !s.pwrTakes then .next s
  else if 3 ≤ arg % 16 then .next (s.pwrDone 2)
  else if s.pwr.passes.contains (arg % 16) then .next (s.pwrDone 1)
  else .next ((s.modPwr (fun p => { p with passes := (arg % 16) :: p.passes })).pwrDone 0)

/-! ### Scrub and patrol (R28-R30, R462) -/

/-- The array of an error, in the row order of Table 1-10. -/
def arrayOf : ScrubAt → Nat
  | .tugStore _ => 0
  | .dockWork _ => 0
  | .stagePage _ _ => 0
  | .harbour _ => 1
  | .harbourKey _ => 1
  | .customs _ => 2
  | .signal _ _ => 3
  | .radioFrame _ _ => 3
  | .packet _ _ => 3
  | .logbook _ => 4
  | .bonded _ _ => 5
  | .epRecord _ => 6
  | .billing _ => 7

/-- Mark the affected Logbook record of the buffer damaged, be it of a circulating page or of its copy of the permanent array; its
position is kept (R376, Table 1-10, Table 14-4). -/
def State.damageLog (s : State) (seq : Nat) : State :=
  let hurt : LogRec → LogRec := fun r => if r.seq = seq then { r with damaged := true } else r
  let hit := (s.log.pages.flatten ++ s.log.copy).any (fun r => r.seq = seq)
  let s := s.modLog (fun l => { l with pages := l.pages.map (fun p => p.map hurt), copy := l.copy.map hurt })
  if hit then s.raise .LOG_INT 0 1 else s

/-- Customs state is restored from its journal (Table 1-10, R26, R235). -/
def State.cusRestore (s : State) (epx : Nat) : State :=
  let s := s.modCustoms (fun c => { c with bad := if c.bad.contains epx then c.bad else epx :: c.bad })
  if s.cusLive then s.verifyBill epx else s

/-- A packet of a signal FIFO is lost to an uncorrectable error: it makes no manifest, so its frame is not acknowledged (R178,
Table 1-10). -/
def State.losePacket (s : State) (n k : Nat) : State :=
  match (s.fifo n).packets[k]? with
  | none => s
  | some p => s.modDma (fun d => { d with
      fifos := Map.put d.fifos n { s.fifo n with
        packets := (s.fifo n).packets.eraseIdx k, rptr := ((s.fifo n).rptr + p.words) % 2 ^ 11 } })

/-- The consequence of an uncorrectable error for its array (Table 1-10, R78; assumption 21). A tone map is read again from DDR-5, as it
was, and the frame it served is not acknowledged: no reply of it is taken. -/
def State.scrubHits (s : State) : ScrubAt → State
  | .tugStore t => s.tugFails t 1
  | .dockWork d =>
    if d < 16 then
      (s.retireLine d).modHm (fun h => { h with reloading := if h.reloading.contains d then h.reloading else d :: h.reloading })
    else s
  | .stagePage d n => if d < 16 then (s.failManifest n d).starveCheck.retireLine d else s
  | .harbour epx => s.modEp (fun e => { e with cache := e.cache.filter (· ≠ epx) })
  | .harbourKey n => s.modBond (fun b => { b with cache := b.cache.eraseIdx n })
  | .customs epx => s.cusRestore epx
  | .signal n p => s.modPlc n (fun g => { g with
      cache := g.cache.filter (· ≠ p), exch := g.exch.map (fun x => if x.pos = p then { x with hit := true } else x) })
  | .radioFrame n c => s.modPort n (fun p => { p with resp := Map.del p.resp c })
  | .packet n k => s.losePacket n k
  | .logbook seq => s.damageLog seq
  | .bonded n c => if n < 256 then s.tagFail n c else s
  | .epRecord epx => s.modEp (fun e => { e with damaged := if e.damaged.contains epx then e.damaged else epx :: e.damaged })
  | .billing epx => s.cusRestore epx

/-- One uncorrectable error (R30): its consequence, a Logbook record and a SCRUB_REPORT. -/
def State.scrubError (s : State) (x : ScrubErr) : State :=
  ((s.scrubCount.event 0x0001 (arrayOf x.at') x.addr).scrubHits x.at').scrubReport (arrayOf x.at')

/-- A pass of the SRAM scrub or the DDR-5 patrol is complete (R28, R462). -/
def State.passDone (s : State) (k : Nat) : State :=
  ((s.count .PWR_BG_PASS k 0 1).modPwr (fun p => { p with passes := p.passes.filter (· ≠ k) })).scrubReportFree

/-- A full pass of the SRAM scrub: bits corrected, and what it could not correct (R28-R30). -/
def execSramScrubPass (corrected : Nat) (errs : List ScrubErr) (s : State) : Host.Outcome State Fault Refusal :=
  if s.pwr.inReset || s.power = 4 then .next s
  else
    let s := s.count .GLOBAL_SCRUB_CORR_CNT 0 0 corrected
    let s := (errs.filter (fun x => decide (arrayOf x.at' < 6))).foldl State.scrubError s
    .next ((s.passDone 0).raise .GLOBAL_INT 0 2)

/-- The DDR-5 patrol reads on; `done` that it reached the end of a pass. It pauses in NAP and deeper (R28, R30, R462). -/
def execDdrPatrol (corrected : Nat) (errs : List ScrubErr) (done : Bool) (s : State) : Host.Outcome State Fault Refusal :=
  if s.pwr.inReset || decide (2 ≤ s.power) then .next s
  else
    let s := s.count .GLOBAL_SCRUB_CORR_CNT 0 0 corrected
    let s := (errs.filter (fun x => decide (6 ≤ arrayOf x.at'))).foldl State.scrubError s
    .next (if done then s.passDone 1 else s)

/-- Every 60 s a TELEMETRY manifest (R28); the spec does not give its source index (assumption 2). -/
def execTelemetryInstant (idx : Nat) (s : State) : Host.Outcome State Fault Refusal :=
  if !s.bgDue 0 60 then .next s
  else if s.fnRunning 0x13 then .next ((s.bgRan 0).make kTelemetry 0 noFlow 4 (idx % 64) none [])
  else .next (s.bgRan 0)

/-! ### Temperature and GPIO (R487, R489) -/

/-- Every 1 ms tj is read, in 0.01 °C (R487, Table 20-4); the store's own reading goes with it every 60 s (R348). -/
def execTempSample (tj : Int) (s : State) : Host.Outcome State Fault Refusal :=
  let top := s.fld .GLOBAL_TEMP_MAX 0 0 15 0
  let hotC := toSigned 16 (s.fld .GLOBAL_HOT_CFG 0 0 15 0)
  let s := (s.set .GLOBAL_TEMP 0 0 (ofSigned 16 tj)).storeTemp tj
  let s := if top = 0x8000 || decide (toSigned 16 top < satSigned 16 tj) then
      s.set .GLOBAL_TEMP_MAX 0 0 (ofSigned 16 (satSigned 16 tj)) else s
  let hot := s.flag .GLOBAL_STATUS 0 0 1
  if hotC ≤ tj then
    .next (if hot then s else (s.setFlag .GLOBAL_STATUS 0 0 1 true).raise .GLOBAL_INT 0 0)
  else if tj < hotC - 200 then .next (s.setFlag .GLOBAL_STATUS 0 0 1 false)
  else .next s

/-- The edge detector of a ball: GPIO_EDGE selects 1 rising, 2 falling or 3 both (Table 20-5). -/
def State.gpioEdge (s : State) (g : Nat) (rising : Bool) : State :=
  let e := s.fld .PINS_GPIO_EDGE (g / 16) 0 (2 * (g % 16) + 1) (2 * (g % 16))
  if bit e (if rising then 0 else 1) then
    if g < 32 then s.raise .PINS_GPIO_INT_LO 0 g else s.raise .PINS_GPIO_INT_HI 0 (g - 32)
  else s

/-- A ball changes level from outside, or through its function (R489). A host output follows GPIO_OUT instead. -/
def execGpioEdge (ball : Nat) (rising : Bool) (s : State) : Host.Outcome State Fault Refusal :=
  if 48 ≤ ball then .next s
  else
    let old := s.gpioLevel ball
    let s := s.modPwr (fun p => { p with gpio := putBits p.gpio ball ball (b2n rising) })
    if s.gpioLevel ball != old && s.gpioLevel ball = rising then .next (s.gpioEdge ball rising) else .next s

end Sys2Proof.Machine
end

