-- ==== Sys2Proof/Machine/LifeCycle.lean ====
section
/-!
DEFINITION. Life-cycle transitions of the Bonded Store (R324, R325, Tables 11-10 to 11-12).
-/
namespace Sys2Proof.Machine

/-- Why a transition to `dest` is refused (R324); none when it is not. -/
def State.lifeRefusal (s : State) (dest : Nat) (force : Bool) : Option Nat :=
  let has (u : Nat) : Bool := s.bond.slots.any (fun e => e.2.valid && e.2.usage = u)
  if !force && s.craft.rows.any (fun e => s.craftMoves e.2) then some bMoving
  else if s.loader = 8 || s.loader = 9 || s.bond.fillPending then some bBusy
  else if s.bond.lifecycle = 1 && dest = 2 && !(has 3 && has 2 && has 1) then some bSlot
  else none

/-- The commit point (R325 step 3): the state, slot 2 destroyed, a zero-fill pending, and for RETIRED its slots zeroised. -/
def State.lifeCommit (s : State) (dest : Nat) (fill : Bool) : State :=
  let gone (n : Nat) (k : KeySlot) : Bool :=
    n = 2 || (dest = 4 && (n = 1 || n = 255 || (!reservedSlot n && k.valid)))
  s.modBond (fun b => { b with
    lifecycle := dest
    slots := b.slots.map (fun e => if gone e.1 e.2 then (e.1, e.2.put e.1 [] 0 e.2.writes) else e)
    fillPending := fill || dest = 4
    restartDue := true })

/-- A transition: its refusals, then the steps of R325 up to the reset; BOOT restarts. With PWRFAIL_N accepted the commit point
is not reached, and the next start says so (Table 11-12). -/
def State.transition (s : State) (dest : Nat) (fill force : Bool) : State :=
  match s.lifeRefusal dest force with
  | some r => s.bondDone r 0
  | none =>
    let old := s.bond.lifecycle
    if s.pwrfail then s.modPwr (fun p => { p with startLog := p.startLog ++ [(0x0F05, old, dest)] })
    else
      let s := (s.modCraft (fun c => { c with reset := true })).stopEval.dropManifests
      ((s.event 0x0F04 old dest).lifeCommit dest fill).sysReset

/-- A transition that needs no signature, from a state (Table 11-11). -/
def State.plainTransition (s : State) (from' dest flags : Nat) : State :=
  if s.bond.lifecycle != from' then s.bondDone bState 0 else s.transition dest (bit flags 0) (bit flags 1)

/-- DEPLOY. -/
def execBondDeploy (flags : Nat) (s : State) : Host.Outcome State Fault Refusal :=
  if s.hostHeld then .next s else .next (s.plainTransition 1 2 flags)

/-- EXIT_SERVICE. -/
def execBondExitService (flags : Nat) (s : State) : Host.Outcome State Fault Refusal :=
  if s.hostHeld then .next s else .next (s.plainTransition 3 2 flags)

/-- RETIRE_FACTORY: the zero-fill always runs. -/
def execBondRetireFactory (flags : Nat) (s : State) : Host.Outcome State Fault Refusal :=
  if s.hostHeld then .next s else .next (s.plainTransition 1 4 flags)

/-- The owner-signed ENTER_SERVICE (Table 11-5). -/
def execOwnerEnterService (blob : Bytes) (s : State) : Host.Outcome State Fault Refusal :=
  if s.hostHeld then .next s else .next (s.signed 1 blob [2] 4 (fun s b =>
    s.transition 3 (bit (leAt (ownerArg b) 0 1) 0) (bit (leAt (ownerArg b) 0 1) 1)))

/-- The owner-signed RETIRE: the zero-fill always runs. -/
def execOwnerRetire (blob : Bytes) (s : State) : Host.Outcome State Fault Refusal :=
  if s.hostHeld then .next s else .next (s.signed 2 blob [2, 3] 4 (fun s b => s.transition 4 true (bit (leAt (ownerArg b) 0 1) 1)))

end Sys2Proof.Machine
end

