-- ==== Sys2Proof/Machine/Boot.lean ====
section
/-!
DEFINITION. The boot (R450): what each step does, in its order. The store's start and Customs' restoration run alongside
and have rows of their own.
-/
namespace Sys2Proof.Machine

/-- Events of the start: PWR_RESET is its first record (R447, R467). -/
def State.bootLog (s : State) : State :=
  let es := s.pwr.startLog
  let first := es.filter (fun e => e.1 = 0x1801)
  let rest := es.filter (fun e => e.1 != 0x1801)
  (first ++ rest).foldl (fun s e => s.event e.1 e.2.1 e.2.2) (s.modPwr (fun p => { p with startLog := [] }))

/-- Step 4: DDR-5 is trained; DDR-5 that came up as zeros holds EMPTY records (R92). -/
def State.bootDdr (s : State) (b : BootIn) : State :=
  (s.modPwr (fun p => { p with ddrMiB := b.ddrMiB })).modEp (fun e => { e with lost := e.lost && !b.ddrZero })

/-- Step 5: a pending zero-fill writes all of DDR-5 (R325). Billing records then fail their tag and are restored from the
partition (R235). -/
def State.zeroFill (s : State) : State :=
  if s.bond.fillPending then
    let s := s.loseDdr.modEp (fun e => { e with lost := false })
    let s := s.modCustoms (fun c => { c with bad := Map.keys c.recs })
    s.modBond (fun b => { b with fillPending := false })
  else s

/-- The restart of a transition (R325 step 6): a new store key outside RETIRED, if slot 2 has a good copy. -/
def State.lifeRestart (s : State) : State :=
  if s.bond.restartDue then
    let k := s.keySlot 2
    let s := if s.bond.lifecycle != 4 && !k.bad then
        (s.modBond (fun b => { b with drawn := b.drawn + 1 })).setSlot 2
          (k.put 2 (Config.trng s.bond.drawn 64) (deviceAttr 10 2) (k.writes + 1))
      else s
    (s.modBond (fun b => { b with restartDue := false })).raise .BOND_INT 0 4
  else s

/-- The boot record and slots of a NOR that something outside the device programmed: A slots ACTIVE, B slots VALID. -/
def norRecord (ps : List Bytes) : BootRec :=
  { BootRec.blank with
    good := true
    seq := 1
    slots := (List.range 10).map (fun i =>
      let p := ps.getD i []
      if p.isEmpty then BootSlot.empty
      else ⟨if i % 2 = 0 then 3 else 2, pkgVersion p, pkgLength p, pkgCompat p, p⟩) }

/-- Step 7: the boot record. A trial that has started once reverts, and one of codes 1 to 3 starts now (R390, R395). -/
def State.bootImages (s : State) (nor : List Bytes) : State :=
  let s := if nor.isEmpty then s else s.modUpd (fun u => { u with copies := [norRecord nor, BootRec.blank] })
  let s := s.showBoot true
  let r := s.bootRec
  if r.trial = 0 then s
  else if r.trialStarts = 1 then s.revertSlots 1
  else if r.trial ≤ 3 then s.trialStarts
  else s

/-- The trial of a code began with this start. -/
def State.trying (s : State) (code : Nat) : Bool := s.bootRec.trial = code && s.upd.trialAt.isSome

/-- The success condition of a trial is judged (Table 15-6). -/
def State.judgeTrial (s : State) (ok : Bool) : State :=
  if ok then s.modUpd (fun u => { u with trialOk := true }) else s.revertSlots 2

/-- Step 8: the loader, on the plan slot in trial or active, then on the other (R44, R45). -/
def State.bootLoader (s : State) (b : BootIn) : State :=
  let r := s.bootRec
  let n := if s.trying 2 then (r.inState 2 4).getD 0 else r.act 2
  let s := s.runLoader (r.slot 2 n).image (r.slot 2 (1 - n)).image b.fault0 b.fault1
  let s := if s.trying 2 then s.judgeTrial (s.loader = 6 && s.fld .PLAN_STATUS 0 0 5 4 = 1) else s
  if s.quality = 7 then (s.modTime (fun t => { t with e0 := s.keepaliveError })).publish else s

/-- Step 10: the tug image gives its budgets (Table 3-19), and every tug runs the self-test; those that fail are fenced
(R79). -/
def State.bootTugs (s : State) (fails : List Nat) : State :=
  let s := (List.range 64).foldl (fun s k => s.set .TUG_BUDGET k 0 (budgetOf k)) s
  let kept := ((List.range 256).filter s.tugFenced).length
  let s := (s.setFld .TUG_FLEET_STATUS 0 0 8 0 (256 - kept)).setFld .TUG_FLEET_STATUS 0 0 17 9 kept
  (fails.filter (fun t => decide (t < 256))).foldl (fun s t => s.fenceTug t 4 0) s

/-- Steps 9 to 11 with a plan in service: self-test, and every function that the plan enables (R450, R264, R276, R363). -/
def State.bootService (s : State) (b : BootIn) : State :=
  let bad := s.trying 3 && !b.tugFail.isEmpty
  let s := if s.trying 3 then s.judgeTrial (!bad) else s
  let s := s.bootTugs (if bad then b.formerFail else b.tugFail)
  let s := if s.hasSection 0xB0 then s.baseStart else s.modCraft (fun c => { c with reset := false })
  let s := s.stopEval.pilotStart
  let s := if s.standby then s else s.startFns
  (s.modPilot (fun p => { p with ready := true })).setPermit

/-- Steps 8 to 11, once boot stage 1 runs. A trial of the tug image needs the loader in SEALED (Table 15-6). -/
def State.bootRun (s : State) (b : BootIn) : State :=
  let s := if s.trying 1 then s.judgeTrial true else s
  let s := s.bootLoader b
  let s := if s.inService then s.bootService b else if s.trying 3 then s.judgeTrial false else s
  s.backupEval.modPwr (fun p => { p with inReset := false, kicked := s.time.ns, warned := false })

/-- The boot ROM identifies the NAND array (R329); codewords that no longer decode are told of, and a Customs record on such a page is
LOST to Customs (R330, R343). -/
def State.bootNand (s : State) (b : BootIn) : State :=
  let hurt (n : Map (List NandPage)) (x : Nat × Nat × Nat) : Map (List NandPage) :=
    match Map.get? n x.1 with
    | some ps => Map.put n x.1 (updAt ps x.2.1 (fun p => { p with bad := if p.bad.contains (x.2.2 % 8) then p.bad else (x.2.2 % 8) :: p.bad }))
    | none => n
  let pages := (b.nandBad.filter (fun x => decide (x.1 % 65536 < s.store.cus))).filterMap (fun x =>
    ((s.blkPages x.1)[x.2.1]?).map (·.page))
  (s.modStore (fun t => { t with
    luns := b.luns, ppb := b.ppb, bpl := b.bpl, good := b.good, factory := b.factory, nand := b.nandBad.foldl hurt t.nand })).cusLoses pages

/-- The boot after a reset (R450): steps 1 to 7, then the rest when boot stage 1 verifies; a device without a stage 1 that
verifies goes no further. From the end of step 3 on, registers answer and ready reads 1 (R485). -/
def execBoot (b : BootIn) (s : State) : Host.Outcome State Fault Refusal :=
  if !s.pwr.inReset || s.flag .GLOBAL_STATUS 0 0 0 then .next s
  else
    let s := (s.loseRegions b.kaBad).loseTime b.kaBad
    let s := s.modPwr (fun p => { p with released := (s.time.ns : Int) - (1000000 * b.ms : Nat) })
    let s := (s.modCraft (fun c => { c with allStop := false })).bootLog.stopEval
    let s := s.permMark.loadSlots b.tagBad
    let s := ((s.setFlag .PWR_STATUS 0 0 8 true).setFlag .GLOBAL_STATUS 0 0 0 true).bootDdr b
    let s := s.zeroFill.lifeRestart
    let s := s.bootNand b
    let s := s.modUpd (fun u => { u with jobs := u.jobs.map (fun j => if j.state = 1 then FwJob.free else j) })
    let s := s.bootImages b.nor
    if b.stage1 then .next (s.bootRun b)
    else if s.trying 1 then
      let s := s.revertSlots 2
      .next (if b.former1 then s.bootRun b else s)
    else .next s

end Sys2Proof.Machine
end

