-- ==== Sys2Proof/Machine/HostIf.lean ====
section
/-!
DEFINITION. The PCIe endpoint, completion rings as the host drives them, and DMA channels 12-15 (R408, R413, R422, R423).
-/
namespace Sys2Proof.Machine

/-! ### Completion rings (R413) -/

/-- A ring's entries are all freed. -/
def State.ringEmpty (s : State) (p : Nat) : Bool :=
  match s.host.rings[p]? with
  | some r => r.used = 0
  | none => false

/-- A CR_HEAD write frees entries when it moves the head forward by no more than are unread (R413). -/
def State.crHead (s : State) (p v : Nat) : State :=
  match s.host.rings[p]? with
  | none => s
  | some r =>
    let size := s.ringSize p
    let h := v % 2 ^ 16
    let d := (h + size - s.get .DMA_CR_HEAD p 0) % size
    if size ≤ h || r.used < d then s
    else (s.set .DMA_CR_HEAD p 0 h).modHost (fun x => { x with rings := updAt x.rings p (fun r => { r with used := r.used - d }) })

/-- Tail, head and phase return to the start (R413). -/
def State.crRestart (s : State) (p : Nat) : State :=
  ((s.set .DMA_CR_TAIL p 0 0).set .DMA_CR_HEAD p 0 0).modHost (fun x => { x with
    rings := updAt x.rings p (fun r => { r with phase := true }) })

/-- A write to CR_BASE_LO (0), CR_BASE_HI (1) or CR_CFG (2): base, size and enable change on an empty ring only (R413). -/
def State.crCfg (s : State) (p which v : Nat) : State :=
  let empty := s.ringEmpty p
  if which = 0 then (if empty then (s.set .DMA_CR_BASE_LO p 0 v).crRestart p else s)
  else if which = 1 then (if empty then (s.set .DMA_CR_BASE_HI p 0 v).crRestart p else s)
  else
    let old := s.get .DMA_CR_CFG p 0
    let size := if empty && bits v 8 5 ≤ 9 then bits v 8 5 else bits old 8 5
    let en := if empty then v % 2 else old % 2
    let s := s.set .DMA_CR_CFG p 0 (en + size * 2 ^ 5 + bits v 31 9 * 2 ^ 9)
    if size = bits old 8 5 then s else s.crRestart p

/-- A CR_HEAD write. -/
def execCrHeadWrite (ring : Nat) (val : Word) (s : State) : Host.Outcome State Fault Refusal :=
  if s.hostHeld then .next s else
  .next (if ring < 8 then s.crHead ring val.toNat else s)

/-- A CR_BASE or CR_CFG write: register 0 is BASE_LO, 1 BASE_HI, 2 CFG. -/
def execCrCfgWrite (ring reg : Nat) (val : Word) (s : State) : Host.Outcome State Fault Refusal :=
  if s.hostHeld then .next s else
  .next (if decide (ring < 8) && decide (reg ≤ 2) then s.crCfg ring reg val.toNat else s)

/-- coal_us have passed since the oldest unsignalled message (R413). -/
def execCrCoalesceTimeout (ring : Nat) (s : State) : Host.Outcome State Fault Refusal :=
  match s.host.rings[ring]? with
  | some r =>
    if r.unsignalled = 0 || decide (s.time.ns < r.since + 1000 * s.fld .DMA_CR_CFG ring 0 31 16) then .next s
    else .next ((s.modHost (fun h => { h with
      rings := updAt h.rings ring (fun r => { r with unsignalled := 0 }) })).sendVector (64 + ring))
  | none => .next s

/-! ### DMA channels 12-15 (R422, R423) -/

/-- Every byte of a device range is valid in Table 3-1. -/
def State.devValid (s : State) (a n : Nat) : Bool :=
  decide (a + n ≤ 1048576 * s.pwr.ddrMiB)
    || (decide (0x1000000000 ≤ a) && decide (a + n ≤ 0x1001400000 - 1048576 * s.itemLE 0x20 3 0 4 2))
    || (decide (0x1040000000 ≤ a) && decide (a + n ≤ 0x1040000000 + 16 * 0x80000))
    || (decide (0x1080000000 ≤ a) && decide (a + n ≤ 0x1080380000))

/-- `n` bytes of the device address space: what DMA wrote there, else free values, since the spec places none of the
device's own structures (assumption 2). -/
def State.devRead (s : State) (a n : Nat) : Bytes :=
  (List.range n).map (fun k => match Map.get? s.pwr.devMem (a + k) with
    | some b => b
    | none => BitVec.ofNat 8 (Config.freeWord (s.free + k)).toNat)

/-! ### What a tug reaches (R55)

The tug image runs these accesses; no row of the table is one, and what a work kind does is its own row's meaning. -/

/-- A tug's address of the space of Table 3-1 reaches memory: harbour SRAM, DDR-5 or its own dock's memory. -/
def State.tugReach (s : State) (t a : Nat) : Bool :=
  decide (a < 1048576 * s.pwr.ddrMiB)
    || (decide (0x1000000000 ≤ a) && decide (a < 0x1001400000 - 1048576 * s.itemLE 0x20 3 0 4 2))
    || (decide (0x1040000000 + t / 16 * 0x80000 ≤ a) && decide (a < 0x1040000000 + (t / 16 + 1) * 0x80000))

/-- A tug's read of the device address space: zeros where it reaches nothing. -/
def State.tugRead (s : State) (t a : Nat) : Byte := if s.tugReach t a then (s.devRead a 1).getD 0 0 else 0

/-- A tug's write to the device address space, discarded where it reaches nothing. -/
def State.tugWrite (s : State) (t a : Nat) (b : Byte) : State :=
  if s.tugReach t a then s.modPwr (fun p => { p with devMem := Map.put p.devMem a b }) else s

/-- A byte of a tug's own local store, 64 KiB. -/
def State.localRead (s : State) (t o : Nat) : Byte := if o < 65536 then Map.getD s.pwr.tugMem (65536 * t + o) 0 else 0

/-- A tug's write to its own local store. -/
def State.localWrite (s : State) (t o : Nat) (b : Byte) : State :=
  if o < 65536 then s.modPwr (fun p => { p with tugMem := Map.putD p.tugMem (65536 * t + o) b 0 }) else s

/-- Reverse each group of `n`. -/
def chunksRev {α : Type} (n : Nat) : Nat → List α → List α
  | 0, l => l
  | k + 1, l => if l.length < n || n = 0 then l else (l.take n).reverse ++ chunksRev n k (l.drop n)

/-- Swapping of the destination stream (R422). -/
def swapBytes (sw : Nat) (b : Bytes) : Bytes :=
  let k := b.length
  if sw = 1 then chunksRev 2 k b
  else if sw = 2 then chunksRev 4 k b
  else if sw = 3 then chunksRev 8 k b
  else if sw = 4 then chunksRev 2 k (chunksRev 4 k b)
  else if sw = 5 then chunksRev 2 k (chunksRev 8 k b)
  else b

/-- Bytes of a swap unit. -/
def swapUnit (sw : Nat) : Nat := [1, 2, 4, 8, 4, 8].getD sw 1

/-- The 64-bit address in a register pair. -/
def State.addr64 (s : State) (lo hi : Reg) (c : Nat) : Nat := s.get lo c 0 + s.get hi c 0 * 2 ^ 32

/-- A write to CTL: its fields, and with go set an operation that is refused with FORMAT or makes the channel busy; a GO write
to a busy channel is ignored (R422, R425). Lengths outside Table 16-11 are refused alike (assumption 31). -/
def State.dmaGo (s : State) (c v : Nat) : State :=
  if c < 12 || 16 ≤ c || (bit v 0 && s.flag .DMA_CH_STATUS c 0 0) then s
  else
    let s := s.set .DMA_CH_CTL c 0 (v % 2 ^ 27 / 2 * 2)
    if !bit v 0 then s
    else
      let n := s.get .DMA_CH_LEN c 0
      let e := s.fld .DMA_CH_ELEM c 0 8 0
      let op : DmaOp := ⟨s.get .DMA_CH_CTL c 0, s.addr64 .DMA_CH_SRC_LO .DMA_CH_SRC_HI c,
        s.addr64 .DMA_CH_DST_LO .DMA_CH_DST_HI c, s.addr64 .DMA_CH_IDX_LO .DMA_CH_IDX_HI c, n, s.get .DMA_CH_ELEM c 0⟩
      let sw := bits v 6 4
      let u := swapUnit sw
      let ok := if bit v 1 then e % u = 0 && decide (1 ≤ e) && decide (e ≤ 256) && decide (1 ≤ n) && decide (n ≤ 65536)
        else n % u = 0 && decide (1 ≤ n) && decide (n ≤ 16777216)
      if !ok || 6 ≤ sw then s.set .DMA_CH_STATUS c 0 (2 + 3 * 4)
      else
        ((s.modDma (fun d => { d with ops := Map.put d.ops c op })).set .DMA_CH_STATUS c 0 1).setFlag .DMA_STATUS 0 0 c true

/-- The operation of a busy channel. -/
def State.dmaOp (s : State) (c : Nat) : DmaOp := Map.getD s.dma.ops c ⟨0, 0, 0, 0, 0, 0⟩

/-- A channel stops on a fault (R423). -/
def State.dmaFault (s : State) (c cause : Nat) : State :=
  ((s.set .DMA_CH_STATUS c 0 (2 + cause * 4)).setFlag .DMA_STATUS 0 0 c false).raise .DMA_INT 0 0

/-- A GO write to a channel. -/
def execDmaChannelGo (chan : Nat) (val : Word) (s : State) : Host.Outcome State Fault Refusal :=
  if s.hostHeld then .next s else
  .next (if bit val.toNat 0 then s.dmaGo chan val.toNat else s)

/-- The offsets of a gather. -/
def State.gatherOffs (s : State) (op : DmaOp) : List Nat :=
  let t := s.devRead op.idx (4 * op.len)
  (List.range op.len).map (fun k => leAt t (4 * k) 4)

/-- The manifest of an HM pulse, or its refusal (R423), which counts at a full or closed berth (R62, R87). -/
def State.dmaPulse (s : State) (c : Nat) : State :=
  let ctl := (s.dmaOp c).ctl
  let n := bits (s.dmaOp c).elem 27 16
  let m := { Manifest.zero with
    kind := bits ctl 14 9, kindArg := bits ctl 26 15, srcClass := 8, srcIndex := c, flow := noFlow }
  if !s.berthOpen n || decide (s.berthCap n ≤ (s.berth n).depth) then
    let s := s.count .DMA_EV_REFUSED_CNT 0 0 1
    if n < 4095 then s.countRefused n else s
  else if budgetOf m.kind = 0 || endpointBound m.kind
      || s.flag .HM_BERTH_CFG n 0 29
      || !(List.range 16).any (fun d => s.flag .TUG_DOCK_CFG d 0 0 && s.dockServes d m.kind) then
    s.count .DMA_EV_REFUSED_CNT 0 0 1
  else s.enterBerth n m

/-- A channel's operation ends (R422, R423). `src` is what the host's memory gave, in stream order, when the source is a
host address; `abort` a host completion abort. -/
def execDmaChannelDone (chan : Nat) (abort : Bool) (src : Bytes) (s : State) : Host.Outcome State Fault Refusal :=
  if chan < 12 || 16 ≤ chan || !s.flag .DMA_CH_STATUS chan 0 0 then .next s
  else
    let op := s.dmaOp chan
    let ctl := op.ctl
    let (gather, srcHost, dstHost) := (bit ctl 1, bit ctl 2, bit ctl 3)
    if (srcHost || dstHost) && !(s.host.linkUp && s.host.busMaster) then .next s
    else
      let n := op.len
      let e := bits op.elem 8 0
      let total := if gather then n * e else n
      let a := op.src
      let d := op.dst
      let idxOk := !gather || s.devValid op.idx (4 * n)
      let offs := if gather && idxOk then s.gatherOffs op else []
      let srcOk := srcHost || (if gather then offs.all (fun o => s.devValid (a + o) e) else s.devValid a n)
      if !idxOk || !srcOk || (!dstHost && !s.devValid d total) then .next (s.dmaFault chan 1)
      else if abort && (srcHost || dstHost) then .next (s.dmaFault chan 2)
      else
        let raw := if srcHost then fit total src
          else if gather then offs.flatMap (fun o => s.devRead (a + o) e) else s.devRead a n
        let data := swapBytes (bits ctl 6 4) raw
        let s := { s with free := s.free + total + 4 * n }
        let s := if dstHost then s.modHost (fun h => { h with mem := memWrite h.mem d data })
          else s.modPwr (fun p => { p with devMem := memWrite p.devMem d data })
        let s := (s.set .DMA_CH_STATUS chan 0 0).setFlag .DMA_STATUS 0 0 chan false
        let t := bits ctl 8 7
        .next (if t = 1 then s.dmaPulse chan
          else if t = 2 then (s.set .DMA_CH_DONE_TS_LO chan 0 s.sec).set .DMA_CH_DONE_TS_HI chan 0 s.nsec
          else if t = 3 then s.panelRow (some (leAt (data ++ s.devRead (d + total) (64 - total)) 0 64))
          else s)

/-! ### The endpoint (R408) -/

/-- The endpoint and its configuration space are reset: the link is down, its MSI-X table and PBA are as at reset, and
channels in a host access stop with a fault (R408, R423). -/
def execPcieReset (s : State) : Host.Outcome State Fault Refusal :=
  let s := s.modHost (fun h => { h with linkUp := false, busMaster := false, msixMasked := false })
  let s := (List.range 512).foldl (fun s v =>
    ((((s.set .DMA_MSIX_ADDR_LO v 0 (Reg.resetVal .DMA_MSIX_ADDR_LO v 0)).set .DMA_MSIX_ADDR_HI v 0
      (Reg.resetVal .DMA_MSIX_ADDR_HI v 0)).set .DMA_MSIX_DATA v 0 (Reg.resetVal .DMA_MSIX_DATA v 0)).set .DMA_MSIX_CTRL v 0
      (Reg.resetVal .DMA_MSIX_CTRL v 0))) s
  let s := (List.range 16).foldl (fun s i => s.set .DMA_PBA i 0 0) s
  .next ([12, 13, 14, 15].foldl (fun s c =>
    if s.flag .DMA_CH_STATUS c 0 0 && (bit (s.dmaOp c).ctl 2 || bit (s.dmaOp c).ctl 3) then s.dmaFault c 2 else s) s)

/-- A vector that the PBA holds is sent once no mask holds it (R409). -/
def State.sendHeld (s : State) (v : Nat) : State :=
  if s.flag .DMA_PBA (v / 32) 0 (v % 32) && !s.host.msixMasked && !s.flag .DMA_MSIX_CTRL v 0 0 && s.host.linkUp then
    (s.setFlag .DMA_PBA (v / 32) 0 (v % 32) false).modHost (fun h => { h with sent := (v :: h.sent).take 64 })
  else s

/-- The link comes up; `busMaster` and `msixMasked` are what the host's enumeration writes to Bus Master Enable and the
function mask (assumption 31). -/
def execPcieLinkUp (busMaster msixMasked : Bool) (s : State) : Host.Outcome State Fault Refusal :=
  .next ((List.range 512).foldl State.sendHeld (s.modHost (fun h => { h with
    linkUp := true, busMaster := busMaster, msixMasked := msixMasked })))

end Sys2Proof.Machine
end

