-- ==== Sys2Proof/Machine/HostAccess.lean ====
section
/-!
DEFINITION. Register accesses of the host (R11-R14, R48, R484, R485): writes by access code with what the block chapters add
to a register, writes to INT registers, and reads with their side effects.
-/
namespace Sys2Proof.Machine

/-! ### Reads (R11, R13, R14, R307, R484) -/

/-- The register that holds the high word of a 64-bit quantity, at the next address (R14). TIME.NOW_SEC_HI answers from the latch
of NOW_FRAC instead (R16, R307). -/
def Reg.highWord : Reg → Option Reg
  | .PLAN_SERIAL_LO => some .PLAN_SERIAL_HI
  | .PLAN_DELTA_ADDR_LO => some .PLAN_DELTA_ADDR_HI
  | .TUG_DOCK_KIND_LO => some .TUG_DOCK_KIND_HI
  | .CUSTOMS_HWM_LO => some .CUSTOMS_HWM_HI
  | .CUSTOMS_CTIME_LO => some .CUSTOMS_CTIME_HI
  | .CUSTOMS_MBX_ADDR_LO => some .CUSTOMS_MBX_ADDR_HI
  | .CRAFT_BASE_X_LO => some .CRAFT_BASE_X_HI
  | .CRAFT_BASE_Y_LO => some .CRAFT_BASE_Y_HI
  | .CRAFT_BASE_Z_LO => some .CRAFT_BASE_Z_HI
  | .TIME_SET_SEC_LO => some .TIME_SET_SEC_HI
  | .TIME_TRIG_EN_LO => some .TIME_TRIG_EN_HI
  | .TIME_CAPT_SEC_LO => some .TIME_CAPT_SEC_HI
  | .GNSS_POS_X_LO => some .GNSS_POS_X_HI
  | .GNSS_POS_Y_LO => some .GNSS_POS_Y_HI
  | .GNSS_POS_Z_LO => some .GNSS_POS_Z_HI
  | .BOND_ADDR_LO => some .BOND_ADDR_HI
  | .BOND_SERIAL_LO => some .BOND_SERIAL_HI
  | .STORE_ADDR_LO => some .STORE_ADDR_HI
  | .LOG_OP_SEC_LO => some .LOG_OP_SEC_HI
  | .UPD_PKG_ADDR_LO => some .UPD_PKG_ADDR_HI
  | .UPD_JOB_ADDR_LO => some .UPD_JOB_ADDR_HI
  | .ETH_MAC_LO => some .ETH_MAC_HI
  | .DMA_HOST_WIN_LO => some .DMA_HOST_WIN_HI
  | .DMA_CH_SRC_LO => some .DMA_CH_SRC_HI
  | .DMA_CH_DST_LO => some .DMA_CH_DST_HI
  | .DMA_CH_IDX_LO => some .DMA_CH_IDX_HI
  | .DMA_CH_DONE_TS_LO => some .DMA_CH_DONE_TS_HI
  | .DMA_CR_BASE_LO => some .DMA_CR_BASE_HI
  | .DMA_MSIX_ADDR_LO => some .DMA_MSIX_ADDR_HI
  | .PINS_GPIO_IN_LO => some .PINS_GPIO_IN_HI
  | .PINS_GPIO_OUT_LO => some .PINS_GPIO_OUT_HI
  | .PINS_GPIO_OE_LO => some .PINS_GPIO_OE_HI
  | .PINS_GPIO_INT_LO => some .PINS_GPIO_INT_HI
  | .PINS_GPIO_INT_EN_LO => some .PINS_GPIO_INT_EN_HI
  | .BAR2_DB_ADDR_LO => some .BAR2_DB_ADDR_HI
  | _ => none

/-- RC bits return to their reset value in the read that shows them (R11). -/
def State.clearRead (s : State) (r : Reg) (i j : Nat) : State :=
  let m := r.desc.rc
  if m = 0 then s
  else
    let keep := 2 ^ 32 - 1 - m
    s.set r i j ((s.get r i j &&& keep) ||| (r.resetVal i j &&& m))

/-- A host read of one dword: its value, and the state after its side effects (R11, R13, R14, R307). -/
def State.readDword (s : State) (a : Nat) : Nat × State :=
  match regAt a with
  | none => (0, s)
  | some (r, i, j) =>
    match Map.get? s.host.latch a with
    | some v => (v.toNat, s.modHost (fun h => { h with latch := Map.del h.latch a }))
    | none =>
      let v := s.read r i j
      let s := if r = .TIME_NOW_FRAC then s.modTime (fun t => { t with latch := t.ns }) else s
      let s := match r.highWord with
        | some h =>
          let w := BitVec.ofNat 32 (s.read h i j)
          s.modHost (fun x => { x with latch := Map.put x.latch (a + 4) w })
        | none => s
      (v, s.clearRead r i j)

/-- The dword addresses that `n` bytes from `a` touch, ascending (R484). -/
def dwordsOf (a n : Nat) : List Nat :=
  if n = 0 then [] else (List.range ((a + n - 1) / 4 - a / 4 + 1)).map (fun k => 4 * (a / 4 + k))

/-- A host read: every touched dword whole and in ascending order; 0 while a reset holds the host off (R484, R485). In NAP or
HIBERNATE the wake comes first (R455). -/
def execRegisterRead (addr len : Nat) (s : State) : Host.Outcome State Fault Refusal :=
  if s.hostHeld then
    .next (s.modHost (fun h => { h with readData := (dwordsOf addr len).map (fun _ => 0) }))
  else
    let s := s.accessWake addr
    let r := (dwordsOf addr len).foldl (fun (x : List Word × State) a =>
      let d := x.2.readDword a
      (x.1 ++ [BitVec.ofNat 32 d.1], d.2)) ([], s)
    .next (r.2.modHost (fun h => { h with readData := r.1 }))

/-! ### Writes (R11-R13, R48, R484) -/

/-- Bits that a host write sets: RW, and RWL in FAILED alone (R11, R48). Berth 4095 and DMA channels 0-11 take none
(Table 3-15, R425), NOTCH_3 has 4 (Table 5-14), and ports 0 and 1 have no mode (Table 16-8). -/
def State.writeMask (s : State) (r : Reg) (i j : Nat) : Nat :=
  let m := r.desc.rw ||| (if s.loader = 7 then r.desc.rwl else 0)
  match r with
  | .HM_BERTH_CFG => if i = 4095 then 0 else m
  | .HM_BERTH_LIM => if i = 4095 then 0 else m
  | .HM_FUNC_CTL => m &&& 0xFFFFFFFE
  | .PLC_SEG_CTL => 0
  | .PLC_NOTCH => if j = 3 then m &&& 0xF else m
  | .RADIO_PORT_CTL => 0
  | .WHARF_CTL => 0
  | .PANEL_CTL => 2
  | .ETH_CFG => if i < 2 then m &&& 0xFFFFFF else m
  | .DMA_CH_SRC_LO => if i < 12 then 0 else m
  | .DMA_CH_SRC_HI => if i < 12 then 0 else m
  | .DMA_CH_DST_LO => if i < 12 then 0 else m
  | .DMA_CH_DST_HI => if i < 12 then 0 else m
  | .DMA_CH_IDX_LO => if i < 12 then 0 else m
  | .DMA_CH_IDX_HI => if i < 12 then 0 else m
  | .DMA_CH_LEN => if i < 12 then 0 else m
  | .DMA_CH_ELEM => if i < 12 then 0 else m
  | _ => m

/-- Set the bits of a mask in a register. -/
def State.setMasked (s : State) (r : Reg) (i j m v : Nat) : State :=
  let keep := 2 ^ 32 - 1 - m
  if m = 0 then s else s.set r i j ((s.get r i j &&& keep) ||| (v &&& m))

/-- The value a field check leaves of a write, or none when the write is ignored (Tables 10-9, 15-13, 16-8, 17-6, 20-4). -/
def State.checkedWrite (s : State) (r : Reg) (i v : Nat) : Option Nat :=
  match r with
  | .GLOBAL_HOT_CFG => if bits v 15 0 ≤ 12500 then some v else none
  | .TIME_PPS_CFG =>
    let d := toSigned 24 (bits v 23 0)
    if decide (-4000000 ≤ d) && decide (d ≤ 4000000) then some v
    else some (putBits v 23 0 (s.fld r i 0 23 0))
  | .UPD_TRIAL_CFG => if 60 ≤ bits v 15 0 then some v else none
  | .ETH_CFG =>
    if decide (1518 ≤ bits v 13 0) && decide (bits v 13 0 ≤ 9018) then some v
    else some (putBits v 13 0 (s.fld r i 0 13 0))
  | .PANEL_BLINK_CTL =>
    let (p, on) := (bits v 8 1, bits v 16 9)
    if decide (20 ≤ p) && decide (10 ≤ on) && decide (on + 10 ≤ p) then some v else none
  | _ => some v

/-- Balls whose level a register write changed make their edges (R489). -/
def State.ballEdges (s old : State) : State :=
  (List.range 48).foldl (fun s g =>
    if old.gpioLevel g = s.gpioLevel g then s else s.gpioEdge g (s.gpioLevel g)) s

/-- What the outcome of another command leaves of the state. -/
def State.carry (s : State) (o : Host.Outcome State Fault Refusal) : State :=
  match o with
  | .next t => t
  | _ => s

/-- A write to a function's enable, or to its alias (R81, R82). -/
def State.writeEnable (s : State) (f : Nat) (on : Bool) : State :=
  s.carry (if on then execFunctionEnable f s else execFunctionDisable f s)

/-- GPIO_OUT and GPIO_OE bits of balls that carry a function ignore a write (R489). -/
def State.ballMask (s : State) (lo n : Nat) : Nat := maskOf ((List.range n).map (fun b => !s.ballFn (lo + b)))

/-- A write to BOND.CMD (Table 11-16). SIGNED and LOAD_PLAIN take the content of a host buffer, which their own rows bring. -/
def State.bondCommand (s : State) (v : Nat) : State :=
  let n := bits v 15 8
  let flags := bits v 23 16
  s.carry (match bits v 7 0 with
    | 1 => execBondChallenge s
    | 4 => execBondGenerate n s
    | 5 => execBondErasePlain n s
    | 6 => execBondAttest n flags s
    | 7 => execBondSign n s
    | 8 => execBondDeploy flags s
    | 9 => execBondExitService flags s
    | 10 => execBondRetireFactory flags s
    | _ => .next s)

/-- A host write of one register by its access codes, with what the register does beyond holding the value. The action of a
WO register is the row of its own command. -/
def State.writeReg (s : State) (r : Reg) (i j v : Nat) : State :=
  if r.desc.w1c != 0 then s.clearInts r i v
  else
    match s.checkedWrite r i v with
    | none => s
    | some v =>
      let t := s.setMasked r i j (s.writeMask r i j) v
      match r with
      | .HM_FUNC_CTL =>
        let t := if bit v 2 then t.carry (execAbandonNow i t) else t
        t.writeEnable i (bit v 0)
      | .PLC_SEG_CTL =>
        let t := s.writeEnable (1 + i) (bit v 0)
        if bit v 1 then t.carry (execPlcSoundNow i t) else t
      | .RADIO_PORT_CTL => s.writeEnable (9 + i) (bit v 0)
      | .WHARF_CTL => s.writeEnable 0xD (bit v 0)
      | .PANEL_CTL =>
        let t := t.writeEnable 0x14 (bit v 0)
        if bit v 2 then t.carry (execPanelRedraw t) else t
      | .BOND_CMD => t.bondCommand v
      | .PANEL_TEMP_HOST => t.modPanel (fun p => { p with tempAt := t.time.ns, stale := false })
      | .PANEL_BLINK_CTL =>
        if bit v 0 then t
        else
          let t' := t.modPanel (fun p => { p with blink := p.blink.filter (· ≠ i), blinkAt := Map.del p.blinkAt i })
          if s.panel.blink.contains i then t'.retarget else t'
      | .TIME_PPS_CFG =>
        if t.fld r 0 0 23 0 = s.fld r 0 0 23 0 then t else t.modTime (fun x => { x with ppsSetAt := some s.time.ns })
      | .PILOT_OUT => t.pairJournal 5 (toLE 4 (t.get .PILOT_OUT 0 0))
      | .PWR_CFG => t.backupEval
      | .DMA_CR_BASE_LO => s.crCfg i 0 v
      | .DMA_CR_BASE_HI => s.crCfg i 1 v
      | .DMA_CR_CFG => s.crCfg i 2 v
      | .DMA_CR_HEAD => s.crHead i v
      | .DMA_CH_CTL => s.dmaGo i v
      | .DMA_MSIX_CTRL => t.sendHeld i
      | .PINS_GPIO_OUT_LO => (s.setMasked r i j (s.ballMask 0 32) v).ballEdges s
      | .PINS_GPIO_OUT_HI => (s.setMasked r i j (s.ballMask 32 16) v).ballEdges s
      | .PINS_GPIO_OE_LO => (s.setMasked r i j (s.ballMask 0 32) v).ballEdges s
      | .PINS_GPIO_OE_HI => (s.setMasked r i j (s.ballMask 32 16) v).ballEdges s
      | .PINS_BALL => t.ballEdges s
      | _ =>
        match r.intOf with
        | some q =>
          (match q.vector i with
           | some n =>
             if t.enabledInts q i &&& (2 ^ 32 - 1 - s.enabledInts q i) = 0 then t else t.sendVector n
           | none => t)
        | none => t

/-- The write of one dword (R13). -/
def State.writeDword (s : State) (a v : Nat) : State :=
  match regAt a with
  | some (r, i, j) => s.writeReg r i j v
  | none => s

/-- A host write takes effect in each dword all of whose bytes it carries, in ascending order; it is ignored while a reset holds
the host off (R484, R485). In NAP or HIBERNATE the wake comes first (R455). -/
def execRegisterWrite (addr : Nat) (data : Bytes) (s : State) : Host.Outcome State Fault Refusal :=
  if s.hostHeld then .next s
  else
    .next (((dwordsOf addr data.length).filter (fun a => decide (addr ≤ a) && decide (a + 4 ≤ addr + data.length))).foldl
      (fun s a => s.writeDword a (leAt data (a - addr) 4)) (s.accessWake addr))

/-- A write to an INT register (R11, R409). -/
def execIntRegisterWrite (addr : Nat) (val : Word) (s : State) : Host.Outcome State Fault Refusal :=
  if s.hostHeld then .next s
  else
    let s := s.accessWake addr
    match regAt addr with
    | some (r, i, _) => if r.desc.w1c != 0 then .next (s.clearInts r i val.toNat) else .next s
    | none => .next s

end Sys2Proof.Machine
end

