-- ==== Sys2Proof/Machine/Release.lean ====
section
/-!
DEFINITION. The tally gate's release: stale re-execution, the commit of a stage buffer in the row order of Table 1-2 with its
waits, and follow-on manifests (R69-R75, R83).
-/
namespace Sys2Proof.Machine

/-! ### Effects at commit (Table 1-2) -/

/-- The place of an effect in the row order of Table 1-2; statistics come last. -/
def Effect.place : Effect → Nat
  | .row _ => 0
  | .customs _ => 1
  | .append _ _ _ => 2
  | .plc _ _ _ => 3
  | .radio _ _ _ _ => 4
  | .wharf _ _ _ => 5
  | .hostMsg _ => 6
  | .log _ _ _ _ => 7
  | .follow _ => 8
  | .count _ _ _ _ => 9
  | .intr _ _ _ => 10

/-- The row order of Table 1-2, and staging order within a row (R73). -/
def inRowOrder (fx : List Effect) : List Effect := (List.range 11).flatMap (fun k => fx.filter (fun e => e.place = k))

/-- Why a commit waits (R75). -/
inductive Wait where
  /-- The write cache is full (R337). -/
  | store
  /-- Completion ring `p` is short of entries (R413). -/
  | ring (p : Nat)
  /-- The engine queue of worker role is full (R359). -/
  | engine
  /-- A mailbox, berth or transmit queue is full, or the store takes no append yet. -/
  | room
  deriving DecidableEq, Repr

/-- A record write-back: the row changes and every slot that loaded it before is stale (R74). -/
def State.commitRow (s : State) (w : RowWrite) : State :=
  match w with
  | .ep epx r =>
    let old := s.record epx
    ((s.writeRec epx r).staleKey (.ep epx)).journalRec epx old r
  | .target epx t =>
    (s.modUpd (fun u => { u with targets := match t with
      | some x => Map.put u.targets epx x
      | none => Map.del u.targets epx })).staleKey (.target epx)
  | .member n r =>
    (s.modBal (fun b => { b with members := match r with
      | some x => Map.put b.members n x
      | none => Map.del b.members n })).staleKey (.member n)
  | .group g b => (s.modBal (fun x => { x with groups := Map.put x.groups g b })).staleKey (.group g)
  | .site b => (s.modBal (fun x => { x with site := b })).staleKey .site
  | .craft c r => (s.modCraft (fun x => { x with rows := Map.put x.rows c r })).staleKey (.craft c)
  | .lane l rs => (s.modCraft (fun x => { x with lanes := Map.putD x.lanes l rs [] })).staleKey (.lane l)
  | .task id t =>
    (s.modCraft (fun x => { x with tasks := match t with
      | some y => Map.put x.tasks id y
      | none => Map.del x.tasks id })).staleKey (.task id) |>.staleKey (.task taskOrder)
  | .panel img => (s.panelRow img).staleKey .panel
  | .corr epoch ne data => s.commitCorr epoch ne data

/-- A downlink that carries a confirmation extension (R97, R367). -/
def Effect.confirms : Effect → Bool
  | .plc _ _ it =>
    (match it with
     | .confirm _ _ => true
     | .command _ _ => true
     | .sched _ _ _ => true
     | _ => false)
  | .radio _ _ _ it =>
    (match it with
     | .confirm _ _ => true
     | .command _ _ => true
     | .sched _ _ _ => true
     | _ => false)
  | .wharf _ type _ => type = 0x11
  | _ => false

/-- A committed transmit item goes to its queue; a downlink with a confirmation extension waits there for the JACK that
covers every journal item before it, while the partner is STANDBY and in sync (R367). -/
def State.commitDown (s : State) (e : Effect) : State :=
  if e.confirms && s.journals && s.inSync && !s.wharf.desync && s.fld .PILOT_STATUS 0 0 11 8 = 4
      && decide (s.wharf.jacked < s.wharf.lastJournal) then
    { s with heldDown := s.heldDown ++ [(s.wharf.lastJournal, e)] }
  else s.commitLink e

/-- The manifest a follow-on becomes (R73): a buffer it shares with its parent keeps the parent's place. -/
def State.followManifest (s : State) (f : Follow) (parent : Manifest) : State × Manifest :=
  let (p, s) := if f.buf = parent.buf then (parent.payload, s) else s.fresh
  (s, { Manifest.zero with
    kind := f.kind, kindArg := f.kindArg, flow := f.flow, srcClass := f.srcClass, srcIndex := f.srcIndex,
    epxValid := f.epx.isSome, epx := f.epx.getD 0, length := f.buf.length, payload := p, buf := f.buf, arr := f.arr,
    tsNs := parent.tsNs, tsSec := parent.tsSec, tsQual := parent.tsQual,
    pool := if f.buf = parent.buf then parent.pool else 0 })

/-- A follow-on enters its berth, waits for a full one, or is dropped at a closed one; BUSY_DRAIN admits the work of its own
function (R62, R73, R83, R87). -/
def State.commitFollow (s : State) (e : Slot Effect) (f : Follow) : Except Wait State :=
  match s.route f.srcClass f.kind f.srcIndex f.flow with
  | none => .ok (s.raise .HM_INT 0 6)
  | some n =>
    let own := s.berthFn n = s.berthFn e.berth && s.fnState (s.berthFn n) = 2 && s.flag .HM_BERTH_CFG n 0 31
    if decide (n < 4095) && (s.berthOpen n || own) then
      if s.berthCap n ≤ (s.berth n).depth then .error .room
      else
        let r := s.followManifest f e.m
        .ok (r.1.enterBerth n r.2)
    else .ok ((s.countRefused n).event 0x0207 n f.kind)

/-- Commit one effect of a completed manifest, or say what it waits for. -/
def State.commitOne (s : State) (e : Slot Effect) (x : Effect) : Except Wait State :=
  match x with
  | .row w => .ok (s.commitRow w)
  | .customs h =>
    if 65536 < s.mailboxBytes + h.body.length then .error .room
    else .ok ((s.modCustoms (fun c => { c with mailbox := c.mailbox ++ [h] })).pairJournal 1 (toLE 8 h.serial ++ h.body))
  | .append part key data =>
    if s.storeDrops then .ok (s.storeAppend part key data)
    else if !s.storeTakes then .error .room
    else if s.cacheRoom part key data.length then .ok (s.storeAppend part key data)
    else .error .store
  | .plc _ _ _ => .ok (s.commitDown x)
  | .radio _ _ _ _ => .ok (s.commitDown x)
  | .wharf _ type body =>
    if s.wharfRoom type body then .ok (s.commitDown x)
    else .error (if s.workerRole then .engine else .room)
  | .hostMsg body =>
    if s.ringRoom e.m.prio body.length then .ok (s.ringPut e.m.prio e.m.kind e.m.flow body)
    else .error (.ring e.m.prio)
  | .log code key detail list => .ok (s.logPut true code key detail list)
  | .follow f => s.commitFollow e f
  | .count r i j n => .ok (s.count r i j n)
  | .intr r i b => .ok (s.raise r i b)

/-- Commit effects one at a time, all of them or none (R73, R75). -/
def State.commitAll (s : State) (e : Slot Effect) : List Effect → Except Wait State
  | [] => .ok s
  | x :: xs =>
    match s.commitOne e x with
    | .ok s' => s'.commitAll e xs
    | .error w => .error w

/-! ### Release (R72-R75) -/

/-- A wait counts once for the commit that waits (R337, R413), and a full engine queue presses its source back (R359). -/
def State.noteWait (s : State) (n : Nat) (e : Slot Effect) (w : Wait) : State :=
  match w with
  | .store =>
    if bit e.waited 0 then s
    else (s.count .STORE_STALL_CNT 0 0 1).modSlot n (fun x => { x with waited := x.waited ||| 1 })
  | .ring p =>
    if bit e.waited 1 then s
    else (s.count .DMA_CR_WAIT_CNT p 0 1).modSlot n (fun x => { x with waited := x.waited ||| 2 })
  | .engine => s.backPressure e.m.srcClass e.m.srcIndex
  | .room => s

/-- The manifest in a slot is complete and, in an ordered berth, next in its flow (R72). -/
def State.releasable (s : State) (e : Slot Effect) : Bool :=
  e.m.status != 0 && e.tug.isNone && !s.pwrfail
    && (!s.flag .HM_BERTH_CFG e.berth 0 29 || Map.getD s.hm.relNext e.m.flow 0 = e.m.seq)

/-- The slot is freed, the flow goes on, and cancelled manifests whose turn has come follow (R69, R72, R82). -/
def State.endRelease (s : State) (n : Nat) (e : Slot Effect) : State :=
  let s := if s.flag .HM_BERTH_CFG e.berth 0 29 then
      s.modHm (fun h => { h with relNext := Map.put h.relNext e.m.flow ((e.m.seq + 1) % 2 ^ 32) })
    else s
  let s := s.freeSlot n
  let ok := e.m.status = 1
  (if e.m.kind = kBalance then s.balReleased e.m ok else s).sweep

/-- A stale manifest returns to the head of its berth with its flow_seq and retry count (R74), where R67 and R68 judge
it again. -/
def State.reexecute (s : State) (n : Nat) (e : Slot Effect) : State :=
  let m := { e.m with status := 0, stage := 0, stageValid := false }
  let s := (s.freeSlot n).count .HM_STALE_CNT 0 0 1
  let b := s.berth e.berth
  let s := s.modHm (fun h => { h with berths := Map.put h.berths e.berth ⟨m :: b.sram, b.spill⟩ })
  (s.poisonHead e.berth).noteStarved m.kind

/-- The tally gate releases a manifest (R73): CANCELLED and POISONED discard, a stale one runs again, and the others commit
when every destination has room. -/
def execTallyRelease (slot : Nat) (s : State) : Host.Outcome State Fault Refusal :=
  match s.slot? slot with
  | none => .next s
  | some e =>
    if !s.releasable e then .next s
    else if e.m.status = 4 || e.m.status = 5 then .next (s.endRelease slot e)
    else if e.stale then .next (s.reexecute slot e)
    else
      match s.commitAll e (inRowOrder e.stage) with
      | .ok t => .next ((t.journalSlots s).endRelease slot e)
      | .error w => .next (s.noteWait slot e w)

end Sys2Proof.Machine
end

