-- ==== Sys2Proof/Machine/TimeStep.lean ====
section
/-!
DEFINITION. The TIME second and the step of the timebase, which every consumer receives on its tick (R20, R288, R292-R294).
-/
namespace Sys2Proof.Machine

/-! ### The TIME second -/

/-- While LOCKED the discipline sets k; its law is open, its bound is osc_tol (R285, R291; assumption 2). -/
def State.steer (s : State) : State :=
  if s.discipline = 2 then
    let f := s.fresh
    let lim : Int := (s.oscTol * 2 ^ 40 / 1000000000 : Nat)
    let k := max (-lim) (min (toSigned 32 f.1) lim)
    f.2.modTime (fun t => { t with adj := k, history := (k :: t.history).take 86400 })
  else s

/-- The next TIME second (R288, R294): its instant is reached unless it has passed; the device publishes, copies the
keepalive count, and counts the second where seconds are counted (R185, R379). -/
def execTimeSecond (s : State) : Host.Outcome State Fault Refusal :=
  let s := if s.time.lastSec < s.sec then s else s.advanceTo (1000000000 * (s.sec + 1))
  let sec := s.sec
  let s := s.modTime (fun t => { t with lastSec := sec, keep := some sec, keepAt := sec })
  let s := s.modRadio (fun r => { r with dutySec := r.dutySec + 1 })
  let s := s.modLog (fun l => { l with opSec := (l.opSec + 1) % 2 ^ 40 })
  .next s.steer.showRate.settle.publish

/-! ### The step (R292) -/

/-- An instant kept to measure elapsed time, moved with the timebase. -/
def shiftNs (e : Int) (n : Nat) : Nat := ((n : Int) + e).toNat

/-- Anchors and remembered instants move by the step, so that cycles, superframes and running times go on (R143, R168,
R261). -/
def State.shiftInstants (s : State) (e : Int) : State :=
  let f := shiftNs e
  let node (d : PlcNode) : PlcNode := { d with
    lastRefresh := f d.lastRefresh
    dueAt := d.dueAt.map f
    soundDue := d.soundDue.map f
    failTimes := Map.mapV d.failTimes (fun l => l.map f) }
  let due (d : RespDue) : RespDue := { d with
    tEnd := f d.tEnd
    limit := f d.limit }
  let s := { s with plc := s.plc.map (fun g : PlcSeg => { g with
    anchor := g.anchor + e
    tzc := f g.tzc
    lastEdge := f g.lastEdge
    exch := g.exch.map (fun x : Exchange => { x with deadline := f x.deadline })
    txNow := g.txNow.map (fun x : PlcTx => { x with start := f x.start, stop := f x.stop })
    airEnd := f g.airEnd
    nodes := Map.mapV g.nodes node }) }
  let s := s.modRadio (fun r => { r with
    ports := r.ports.map (fun p : RadioPort => { p with
      anchor := p.anchor + e
      resp := Map.mapV p.resp due
      txNow := p.txNow.map (fun x : RadioTx => { x with start := f x.start, stop := f x.stop })
      bursts := p.bursts.map (fun x : Nat × Nat => (f x.1, f x.2)) })
    ppm := r.ppm.map (fun x : Nat × Nat => (f x.1, x.2)) })
  let s := s.modTime (fun t => { t with
    refAt := f t.refAt
    ppsEnd := (((t.ppsEnd : Int) + 2 ^ 16 * e)).toNat
    ppsSetAt := t.ppsSetAt.map f
    ptp := t.ptp.map (fun x : PtpPort => { x with heardAt := f x.heardAt, sentAt := Map.mapV x.sentAt f })
    trigEnd := Map.mapV t.trigEnd f
    sources := t.sources.map (fun x : TimeSource => { x with since := f x.since, edge := f x.edge }) })
  let s := s.modLog (fun l => { l with permAt := l.permAt.map f })
  let s := s.modHost (fun h => { h with rings := h.rings.map (fun r : RingState => { r with since := f r.since }) })
  let s := s.modPlan (fun p => { p with heldAt := f p.heldAt })
  let s := s.modHm (fun h => { h with drainAt := Map.mapV h.drainAt f })
  let s := s.modPwr (fun p => { p with
    released := p.released + e
    kicked := f p.kicked
    unsealed := f p.unsealed
    nextEvent := f p.nextEvent
    entered := f p.entered
    hibEntry := p.hibEntry.map (fun x => (f x.1, f x.2))
    bgAt := Map.mapV p.bgAt f })
  let s := s.modBond (fun b => { b with nonceAt := f b.nonceAt })
  let s := s.modUpd (fun u => { u with trialAt := u.trialAt.map f })
  let s := s.modStore (fun t => { t with
    cache := t.cache.map (fun c : CachePage => { c with last := f c.last })
    wlAt := Map.mapV t.wlAt f
    patrolAt := t.patrolAt.map f
    tempAt := f t.tempAt })
  let s := s.modEth (fun x => { x with ports := x.ports.map (fun p : EthPort => { p with
    pauseSince := f p.pauseSince
    pauseEnd := f p.pauseEnd
    ignoreEnd := f p.ignoreEnd }) })
  let s := s.modWharf (fun w => { w with
    workers := Map.mapV w.workers (fun x : WWorker => { x with last := f x.last, beatAt := f x.beatAt })
    mgrs := w.mgrs.map (fun m : WMgr => { m with last := f m.last })
    unacked := w.unacked.map (fun u : Unacked => { u with sentAt := f u.sentAt })
    passAt := f w.passAt })
  let s := s.modPanel (fun p => { p with
    tempAt := f p.tempAt
    phaseAt := f p.phaseAt
    pageAt := f p.pageAt
    blinkAt := Map.mapV p.blinkAt f })
  s.modPilot (fun p => { p with drillAt := f p.drillAt })

/-- The timebase moved by `e` 2⁻¹⁶ ns at the second `sec`; no PPS pulse until TIME passes that second again (R292). -/
def TimeState.stepped (t : TimeState) (sec : Nat) (e : Int) : TimeState :=
  let now := shiftNs e (2 ^ 16 * t.ns + t.frac % 2 ^ 16)
  { t with
    ns := now / 2 ^ 16
    frac := now % 2 ^ 16
    lastSec := now / 2 ^ 16 / 1000000000
    ppsHold := sec
    ppsEnd := 0
    step := none
    lateErr := none }

/-- The trigger instants between `old` and now are passed over (R293). -/
def State.skipTriggers (s : State) (old : Nat) : State :=
  (List.range 48).foldl (fun s i => match s.trig? i with
    | some v => s.skipInstants i v old s.time.ns
    | none => s) s

/-- The step by `e` 2⁻¹⁶ ns at the whole second `sec` (R292, R293): triggers passed over are counted or made, and an error measured
in the last millisecond becomes a new one. -/
def State.timeStep (s : State) (sec : Nat) (e : Int) : State :=
  let s := s.advanceTo (1000000000 * sec)
  let old := s.time.ns
  let late := s.time.lateErr
  let s := (s.shiftInstants (e / 2 ^ 16)).modTime (fun t => t.stepped sec e)
  let s := s.customsStep e
  let s := if 0 < e then s.skipTriggers old else s
  let s := (s.count .TIME_STEP_CNT 0 0 1).raise .TIME_INT 0 0
  let s := s.settle
  let ns := ofSigned 64 (Int.tdiv e (2 ^ 16 : Nat))
  let s := s.event 0x0D01 (ns % 2 ^ 32) (ns / 2 ^ 32)
  let s := match late with
    | some l => s.correct (l - e)
    | none => s
  s.showRate.publish

/-- The scheduled step; PWRFAIL_N before its tick cancels it (R293). -/
def execTimeStep (s : State) : Host.Outcome State Fault Refusal :=
  match s.time.step with
  | none => .next s
  | some (sec, e) =>
    if s.pwrfail then .next (s.modTime (fun t => { t with step := none, lateErr := none }))
    else .next (s.timeStep sec e)

end Sys2Proof.Machine
end

