-- ==== Sys2Proof/Machine/Vee.lean ====
section
/-!
DEFINITION. Validation, estimation and editing (R108-R111), and the meaning of VEE (Table 4-5, R98, R99, R246, R492).
-/
namespace Sys2Proof.Machine

/-- A VEE rule (Table 4-6). -/
structure VRule where
  num : Nat
  check : Nat
  chan : Nat
  mask : Nat
  action : Nat
  method : Nat
  alarm : Bool
  enabled : Bool
  shape : Nat
  p1 : Int
  p2 : Int
  p3 : Nat
  deriving DecidableEq, Repr

/-- A RULE item (Table 4-6). -/
def VRule.ofItem (v : Bytes) : VRule :=
  let a := leAt v 6 1
  { num := leAt v 0 2, check := leAt v 2 1, chan := leAt v 3 1, mask := leAt v 4 2, action := bits a 1 0,
    method := bits a 3 2, alarm := bit a 4, enabled := bit a 5, shape := leAt v 7 1, p1 := leSigned v 8 8,
    p2 := leSigned v 16 8, p3 := leAt v 24 4 }

/-- Insert a rule by ascending number. -/
def insertRule (r : VRule) : List VRule → List VRule
  | [] => [r]
  | x :: xs => if r.num ≤ x.num then r :: x :: xs else x :: insertRule r xs

/-- The enabled rules for a class code, in ascending number (R108). -/
def State.rulesFor (s : State) (cls : Nat) : List VRule :=
  (((s.items 0x90 1).map VRule.ofItem).filter (fun r => r.enabled && bit r.mask cls)).foldr insertRule []

/-- The weights of a SHAPE item (Table 4-11). -/
def State.shapeOf (s : State) (n : Nat) : List Nat :=
  match (s.items 0x90 2).find? (fun v => leAt v 0 1 = n) with
  | some v => (List.range 96).map (fun i => leAt v (2 + 2 * i) 2)
  | none => []

/-- A value with the rules it failed and what decided it (R108). -/
structure Judged where
  x : IVal
  failed : List VRule
  /-- The first failing ESTIMATE or REJECT rule. -/
  dec : Option VRule
  deriving DecidableEq, Repr

/-- A good value: no ESTIMATE or REJECT rule failed, reported, and not a duplicate (R110). -/
def Judged.good (j : Judged) : Bool := j.x.real && !j.x.dup && j.dec.isNone

/-- Decided by a REJECT rule. -/
def Judged.rejected (j : Judged) : Bool :=
  match j.dec with
  | some r => j.x.real && r.action = 2
  | none => false

/-- Belongs to a run: a missing interval, or a value that an ESTIMATE rule decided (R110). -/
def Judged.inRun (j : Judged) : Bool :=
  !j.x.dup && (!j.x.real || (match j.dec with
    | some r => r.action = 1
    | none => false))

/-- What one frame says about a channel before its values are judged. -/
structure ChanCtx where
  rules : List VRule
  lastEnd : Nat
  lastVal : Nat
  delta : Option Nat
  total : Nat
  /-- Clock skew in ms (Table 4-7). -/
  skew : Option Nat
  /-- Missing intervals that GAP finds before the frame's first one, and the start of the first of them (R110). -/
  gap : Nat
  gapStart : Nat
  deriving DecidableEq, Repr

/-- A value fails a rule (Table 4-7); GAP never fails a reported value. -/
def ChanCtx.fails (c : ChanCtx) (prev : Option Nat) (x : IVal) (r : VRule) : Bool :=
  match r.check with
  | 1 => decide ((x.v : Int) < r.p1) || decide (r.p2 < (x.v : Int))
  | 2 =>
    match prev with
    | some p => decide (r.p1 < (((x.v : Int) - p).natAbs : Int))
    | none => false
  | 3 =>
    match c.delta with
    | some d => decide (1000000 * r.p1 + ((d * r.p3 : Nat) : Int) < ((((c.total : Int) - d).natAbs * 1000000 : Nat) : Int))
    | none => false
  | 5 => c.lastEnd != 0 && decide (x.start + 900 ≤ c.lastEnd)
  | 6 =>
    match c.skew with
    | some k => decide (r.p2 < (k : Int))
    | none => false
  | _ => false

/-- Editing flags of a judged value before estimation (Table 4-8). -/
def ChanCtx.flagsOf (c : ChanCtx) (failed : List VRule) (dup : Bool) : Nat :=
  let skewed := c.rules.any (fun r => r.check = 6 && (match c.skew with
    | some k => decide (r.p1 < (k : Int))
    | none => false))
  b2n (failed.isEmpty && !c.rules.isEmpty) + b2n (failed.any (·.action = 0)) * 16 + b2n dup * 32 + b2n skewed * 64
    + b2n c.rules.isEmpty * 128

/-- Judge one value (R108, R109). -/
def ChanCtx.judge (c : ChanCtx) (prev : Option Nat) (x : IVal) : Judged :=
  let failed := c.rules.filter (c.fails prev x)
  let dup := failed.any (·.check = 5)
  ⟨{ x with dup := dup, flags := c.flagsOf failed dup }, failed,
    if dup then none else failed.find? (fun r => r.action != 0)⟩

/-- Judge the reported values in order; the previous value is known when the previous interval is (R108). -/
def ChanCtx.judgeAll (c : ChanCtx) : Option (Nat × Nat) → List IVal → List Judged
  | _, [] => []
  | prev, x :: xs =>
    let p := match prev with
      | some (s, v) => if s + 900 = x.start then some v else none
      | none => none
    c.judge p x :: c.judgeAll (some (x.start, x.v)) xs

/-- The GAP rules of a channel. -/
def ChanCtx.gapRules (c : ChanCtx) : List VRule := c.rules.filter (·.check = 4)

/-- The context with what GAP finds between `since` and the channel's first interval (Table 4-7, R111). -/
def ChanCtx.withGap (c : ChanCtx) (since : Nat) (first : IVal) : ChanCtx :=
  let n := if c.gapRules.isEmpty || c.lastEnd = 0 then 0 else ceilDiv (first.start - since) 900
  { c with gap := n, gapStart := first.start - 900 * n }

/-- Missing intervals that are not handed on: all but the newest 96 (R110). -/
def ChanCtx.older (c : ChanCtx) : Nat := c.gap - 96

/-- The missing intervals of a channel that are handed on (R110). -/
def ChanCtx.missing (c : ChanCtx) (first : IVal) : List Judged :=
  let k := min 96 c.gap
  (List.range k).map (fun i =>
    ⟨⟨first.ri, first.start - 900 * (k - i), 0, false, false, b2n (c.gapRules.any (·.action = 0)) * 16⟩, c.gapRules,
      c.gapRules.find? (fun r => r.action != 0)⟩)

/-- A value of an open run, as the frame that may close it finds it: ahead of the INTERVAL record `ri` (R110). -/
def HeldVal.judged (h : HeldVal) (ri : Nat) : Judged :=
  let rule : Option VRule := h.rule.map (fun p => ⟨0, 0, h.chan, 0, 1, p.1, false, true, p.2, 0, 0, 0⟩)
  ⟨⟨ri, h.start, h.v, h.real, false, h.flags⟩, rule.toList, rule⟩

/-- Split judged values into runs and single other values; a run is consecutive in time (R110). -/
def segments : List Judged → List (List Judged)
  | [] => []
  | j :: js =>
    match segments js with
    | (k :: ks) :: rest =>
      if j.inRun && k.inRun && j.x.start + 900 = k.x.start then (j :: k :: ks) :: rest else [j] :: (k :: ks) :: rest
    | rest => [j] :: rest

/-- The method and shape of a run: those of the rule that decided its first value, for a missing interval the first GAP
rule with action ESTIMATE (R110). -/
def runRule : List Judged → Option VRule
  | [] => none
  | j :: _ => if j.x.real then j.dec else j.failed.find? (·.action = 1)

/-- Give a run its values and an editing flag. -/
def fillRun (flag : Nat) (run : List Judged) (vals : List Nat) : List IVal :=
  (run.zip vals).map (fun p => { p.1.x with v := p.2 % 2 ^ 32, flags := p.1.x.flags ||| flag })

/-- A run that its method cannot estimate: 0, flagged MISSING (R110). -/
def missRun (run : List Judged) : List IVal := run.map (fun j => { j.x with v := 0, flags := j.x.flags ||| 8 })

/-- LINEAR values between good values `a` and `b` (R110). -/
def linearVals (a b n : Nat) : List Nat :=
  (List.range n).map (fun i => ((a : Int) + Int.tdiv (((b : Int) - a) * ((i + 1 : Nat) : Int)) ((n + 1 : Nat) : Int)).toNat)

/-- SHAPE values of a delta over weights, the truncation remainder in the last interval (R110). -/
def shapeVals (d : Nat) (w : List Nat) : List Nat :=
  let vs := w.map (fun x => d * x / w.sum)
  match vs.reverse with
  | [] => []
  | l :: rest => ((l + (d - vs.sum)) :: rest).reverse

/-- The value of an open run that is kept for the frame that closes it. -/
def Judged.held (chan : Nat) (rule : Option VRule) (j : Judged) : HeldVal :=
  ⟨chan, j.x.start, j.x.v, j.x.flags, j.x.real, (if j.x.real then j.dec else rule).map (fun r => (r.method, r.shape))⟩

/-- Intervals of a run, with the missing ones before it that are not handed on (R110). -/
def ChanCtx.runLength (c : ChanCtx) (run : List Judged) : Nat :=
  run.length + (match run with
    | j :: _ => if !j.x.real && j.x.start = c.gapStart + 900 * c.older then c.older else 0
    | [] => 0)

/-- Estimate one closed run: its values and how many were estimated (R110, assumption 57). -/
def State.estimate (s : State) (c : ChanCtx) (runs : Nat) (others : Nat) (a b : Option Nat)
    (run : List Judged) : List IVal × Nat :=
  let n := c.runLength run
  let rule := runRule run
  let method := (rule.map (·.method)).getD 0
  let covered := method = 2 && runs = 1 && c.delta.isSome && decide (n ≤ 96)
  if covered then
    let w := run.map (fun j => (s.shapeOf ((rule.map (·.shape)).getD 0)).getD (j.x.start % 86400 / 900) 0)
    let d := c.delta.getD 0
    if others ≤ d && w.sum != 0 then (fillRun 4 run (shapeVals (d - others) w), n) else (missRun run, 0)
  else
    match method, a, b with
    | 1, some a, some b => if n ≤ 4 then (fillRun 2 run (linearVals a b n), n) else (missRun run, 0)
    | _, _, _ => (missRun run, 0)

/-- Hand on the segments of a channel in order: the values, how many were estimated (R110). `prev` is the last good value
before the segment; a run is bounded by it and by the first good value after the run, and nothing of a run that ends the frame
is handed on (assumption 57). -/
def State.handOn (s : State) (c : ChanCtx) (runs others : Nat) : Option Nat → List (List Judged) → List IVal × Nat
  | _, [] => ([], 0)
  | prev, seg :: rest =>
    let isRun := seg.any Judged.inRun
    let next := (rest.flatten.find? Judged.good).map (·.x.v)
    let here : List IVal × Nat :=
      if isRun then (if rest.isEmpty then ([], 0) else s.estimate c runs others prev next seg)
      else (seg.map (fun j => if j.rejected then { j.x with v := 0, flags := j.x.flags ||| 8 } else j.x), 0)
    let last := match seg.reverse.find? Judged.good with
      | some j => some j.x.v
      | none => prev
    let more := s.handOn c runs others last rest
    (here.1 ++ more.1, here.2 + more.2)

/-- What VEE makes of one channel: values handed on, judged values, estimates and the last good value. -/
structure ChanOut where
  chan : Nat
  vals : List IVal
  judged : List Judged
  est : Nat
  good : Option Nat
  /-- The run that stays open (R110). -/
  held : List HeldVal
  /-- Missing intervals that are not handed on, and the start of the first missing one (R110). -/
  older : Nat
  gapStart : Nat
  deriving DecidableEq, Repr

/-- Values of the channel that failed a rule (Table 4-1). -/
def ChanOut.fails (o : ChanOut) : Nat := o.older + (o.judged.filter (fun j => !j.failed.isEmpty)).length

/-- VEE on one channel of a frame, over the run that earlier frames left open (R108-R111). -/
def State.veeChan (s : State) (c : ChanCtx) (chan : Nat) (kept : List HeldVal) (first : IVal) (more : List IVal) : ChanOut :=
  let seed := if c.lastEnd = 0 then none else some (c.lastEnd, c.lastVal)
  let kept := kept.filter (fun h => decide (h.start + 900 ≤ first.start))
  let since := kept.foldl (fun t h => max t (h.start + 900)) c.lastEnd
  let before := match kept.getLast? with
    | some h => if h.real then some (h.start, h.v) else none
    | none => seed.map (fun p => (p.1 - 900, p.2))
  let c := c.withGap since first
  let js := c.missing first ++ c.judgeAll before (first :: more)
  let live := kept.map (HeldVal.judged · first.ri) ++ js.filter (fun j => !j.x.dup)
  let segs := segments live
  let runs := (segs.filter (fun g => g.any Judged.inRun)).length
  let others := (live.map (fun j =>
    if j.inRun || j.rejected || decide (j.x.start < c.lastEnd) then 0 else j.x.v)).sum
  let h := s.handOn c runs others (seed.map (·.2)) segs
  let dups := (js.filter (·.x.dup)).map (·.x)
  let last := segs.getLast?.getD []
  { chan := chan, vals := dups ++ h.1, judged := js, est := h.2,
    good := ((live.filter Judged.good).reverse.head?).map (·.x.v),
    held := if last.any Judged.inRun then last.map (Judged.held chan (runRule last)) else [],
    older := c.older, gapStart := c.gapStart }

/-! ### The frame as a whole -/

/-- Context of a channel in a frame: matching rules, register delta, sum and skew. Of several REGISTER records of the
channel the last gives the register value, whatever its register code (R111, assumption 57). -/
def chanCtx (rules : List VRule) (r : EpRec) (lastEnd : Nat) (rs : List RRec) (skew : Option Nat) (c : Nat) : ChanCtx :=
  let ch := r.chans.getD c ⟨0, 0⟩
  let reg := ((ofType 1 rs).filter (fun v => leAt v 0 1 = c)).reverse.head?
  { rules := rules.filter (fun x => x.chan = c || x.chan = 0xFF), lastEnd := lastEnd, lastVal := ch.last,
    delta := if ch.reg = 0 then none else reg.map (fun v => (leAt v 2 4 + 2 ^ 32 - ch.reg) % 2 ^ 32),
    total := ((chanVals id c 0 rs).map (·.v)).sum, skew := skew, gap := 0, gapStart := 0 }

/-- The clock correction of the frame's CLOCK record: frame stamp minus CLOCK time in ms (R109). -/
def State.clockSkew (s : State) (a : Arrival) (rs : List RRec) : Option Int :=
  ((ofType 6 rs).reverse.head?).map (fun v =>
    (((s.fullSec 28 a.sec) * 1000 + a.ns / 1000000 : Nat) : Int)
      - (((s.fullSec 32 (leAt v 0 4)) * 1000 + leAt v 4 2 : Nat) : Int))

/-- One TAMPER record in the record's summary (Table 4-1). -/
def EpRec.noteTamper (r : EpRec) (v : Bytes) : EpRec :=
  { r with tamperSeen := r.tamperSeen ||| 2 ^ leAt v 0 1, tamperLast := leAt v 7 4,
           tamperTotal := satAdd 0xFFFF r.tamperTotal 1 }

/-- One BATTERY record. -/
def EpRec.noteBattery (r : EpRec) (v : Bytes) : EpRec :=
  { r with batteryLevel := leAt v 0 1, lowBattery := r.lowBattery || bit (leAt v 1 1) 0 }

/-- The record after VEE (R109, R111, Table 4-1). A CLOCK_SKEW rule sets time_corr_due whatever channel it names
(assumption 57). -/
def State.veeRecord (s : State) (r : EpRec) (a : Arrival) (rules : List VRule) (rs : List RRec) (outs : List ChanOut) :
    EpRec :=
  let fails := (outs.map ChanOut.fails).sum + (if r.dlmsOk then 0 else (ofType 0x7E rs).length)
  let est := (outs.map (·.est)).sum
  let ends := (outs.flatMap (fun o => (o.vals.filter (fun x => !x.dup)).map (fun x => x.start + 900))).foldl max 0
  let lastEnd := if ends = 0 then r.veeLastEnd else if r.veeLastEnd = 0 then ends
    else max ends (s.fullSec 32 r.veeLastEnd)
  let chans := (List.range 4).map (fun c =>
    let old := r.chans.getD c ⟨0, 0⟩
    let last := match outs.find? (·.chan = c) with
      | some o => o.good.getD old.last
      | none => old.last
    let reg := match ((ofType 1 rs).filter (fun v => leAt v 0 1 = c)).reverse.head? with
      | some v => leAt v 2 4
      | none => old.reg
    (⟨last, reg⟩ : VeeChan))
  let r := { r with
    veeFail := satAdd 0xFFFF r.veeFail fails, veeEst := satAdd 0xFFFF r.veeEst est,
    veeLastEnd := lastEnd % 2 ^ 32, chans := chans,
    held := r.held.filter (fun h => outs.all (·.chan != h.chan)) ++ outs.flatMap (·.held) }
  let r := (ofType 4 rs).foldl EpRec.noteTamper r
  let r := (ofType 5 rs).foldl EpRec.noteBattery r
  match s.clockSkew a rs with
  | some d =>
    if rules.any (fun x => x.check = 6 && decide (x.p1 < (d.natAbs : Int))) then
      { r with timeCorrDue := true, timeCorr := max (-32767) (min 32767 d) }
    else r
  | none => r

/-- Put a value among values of ascending start; of two of one start a duplicate gives way. -/
def putVal (x : IVal) : List IVal → List IVal
  | [] => [x]
  | y :: ys =>
    if x.start < y.start then x :: y :: ys
    else if x.start = y.start then (if x.dup then y :: ys else x :: ys)
    else y :: putVal x ys

/-- What VEE handed on for a channel, in ascending start. -/
def chanLine (outs : List ChanOut) (c : Nat) : List IVal :=
  match outs.find? (·.chan = c) with
  | some o => o.vals.foldl (fun l x => putVal x l) []
  | none => []

/-- SERIES skips a value flagged MISSING or DUPLICATE (R248). -/
def IVal.skipped (x : IVal) : Bool := bit x.flags 3 || bit x.flags 5

/-- Values within the 96 quarter-hours of the first that counts, then those after, `n` times (R246, assumption 64). -/
def spans : Nat → List IVal → List (List IVal)
  | 0, _ => []
  | n + 1, l =>
    match l.dropWhile IVal.skipped with
    | [] => []
    | x :: xs =>
      let inside : IVal → Bool := fun y => decide (y.start < x.start + 86400)
      ((x :: xs).filter inside) :: spans n ((x :: xs).filter (fun y => !inside y))

/-- The interval slots of a payload from a span: start, and 12 bytes per slot; a quarter-hour between them that the frame
does not hold is flagged MISSING (assumption 64). -/
def spanSlots (a b : List IVal) : Bytes :=
  let t := pieceStart a
  let last := (a.getLast?.map (·.start)).getD t
  (List.range (if a.isEmpty then 0 else (last - t) / 900 + 1)).flatMap (fun i =>
    let x := (a.find? (·.start = t + 900 * i)).getD ⟨0, 0, 0, false, false, 8⟩
    let y := (b.find? (·.start = t + 900 * i)).getD ⟨0, 0, 0, false, false, 0⟩
    toLE 4 x.v ++ toLE 4 y.v ++ toLE 1 x.flags ++ toLE 1 y.flags ++ zeros 2)

/-- The SERIES payloads of a frame (R246, Table 8-3): the first carries the values of channels 0 and 1, those that its 96
slots cannot hold go with the next (assumption 64). -/
def seriesBodies (epx : Nat) (rs : List RRec) (outs : List ChanOut) : List Bytes :=
  let a := chanLine outs 0
  let b := chanLine outs 1
  let b := if pieceStart b = pieceStart a && b.length = a.length then b else []
  let parts := spans (ofType 8 rs).length a
  let amp : Nat → Option Bytes := fun c =>
    (((ofType 3 rs).filter (fun v => leAt v 0 1 = c && leAt v 1 1 = 1)).reverse.head?).map (fun v => slice v 2 4)
  let tamper := ((ofType 4 rs).map (fun v => leAt v 7 4)).foldl max 0
  ((List.range (ofType 8 rs).length).zip (ofType 8 rs)).map (fun p =>
    let v := p.2
    let n := leAt v 4 1
    let first := p.1 = 0
    let volts := slice v 5 (2 * n)
    let part := parts.getD p.1 []
    let ivs := spanSlots part b
    toLE 4 epx ++ slice v 0 4 ++ toLE 1 n ++ toLE 1 (ivs.length / 12)
      ++ toLE 1 (if first then b2n (amp 0).isSome + 2 * b2n (amp 3).isSome else 0) ++ [0]
      ++ toLE 4 (pieceStart part)
      ++ (if first then (amp 0).getD (zeros 4) ++ (amp 3).getD (zeros 4) ++ toLE 4 tamper else zeros 12) ++ zeros 4
      ++ volts ++ zeros (ceilDiv volts.length 4 * 4 - volts.length) ++ ivs)

/-- The ALARM payloads of a frame (R492, Table 4-18). -/
def alarmBodies (epx : Nat) (a : Arrival) (head payload : Bytes) (rs : List RRec) (outs : List ChanOut) : List Bytes :=
  let h : Nat → Bytes := fun code => toLE 1 code ++ toLE 1 a.qual ++ zeros 2 ++ toLE 4 epx
  (if envType head = 3 then [h 0x31 ++ payload] else [])
    ++ (ofType 4 rs).map (fun v => h 0x32 ++ v ++ [0])
    ++ outs.flatMap (fun o =>
      let rules := (o.judged.flatMap (fun j => j.failed.filter (·.alarm))).foldl
        (fun acc r => if acc.contains r then acc else acc ++ [r]) []
      rules.map (fun r =>
        let hit := o.judged.filter (fun j => j.failed.contains r)
        let older := if r.check = 4 then o.older else 0
        h 0x33 ++ toLE 2 r.num ++ toLE 1 o.chan ++ [0] ++ toLE 2 (min 0xFFFF (older + hit.length)) ++ zeros 2
          ++ toLE 4 (if 0 < older then o.gapStart else (hit.head?.map (·.x.start)).getD 0)))

/-- The host messages of a frame (R99, R116, R491, Table 4-17). -/
def veeMessages (epx : Nat) (r : EpRec) (rs : List RRec) : List Effect :=
  rs.flatMap (fun x =>
    let v := x.value
    match x.type with
    | 0x7E => if r.dlmsOk then [.hostMsg (noticeHead 4 ++ toLE 4 epx ++ v)] else []
    | 0x03 => [.hostMsg (noticeHead 5 ++ toLE 4 epx ++ v ++ zeros 2)]
    | 0x07 =>
      let code := leAt v 4 1
      [.hostMsg (noticeHead 6 ++ slice v 0 4 ++ toLE 4 epx ++ toLE 1 (if code = 0 then 1 else 2) ++ toLE 1 code
        ++ zeros 2)]
    | _ => [])

/-- The firmware-push STATUS follow-ons of a frame's FW_STATUS records (R404). -/
def fwFollows (epx : Nat) (a : Arrival) (rs : List RRec) : List Effect :=
  ((ofType 0x92 rs).filter (fun v => v.length = 13)).map (fun v => followEp kVee kFwPush 2 epx v a)

/-- VEE (Table 4-5): the records parsed, the values judged, estimated and handed on. -/
def State.veeRun (s : State) (m : Manifest) (r : EpRec) : Nat × List Effect :=
  let head := m.buf.take 12
  let payload := m.buf.drop 12
  match readRecs r.cls payload with
  | none => (stRejected, [])
  | some rs =>
    let a := m.arr
    let rules := s.rulesFor r.cls
    let skew := (s.clockSkew a rs).map (·.natAbs)
    let lastEnd := if r.veeLastEnd = 0 then 0 else s.fullSec 32 r.veeLastEnd
    let outs := (chansOf rs).flatMap (fun c =>
      match chanVals (s.fullSec 32) c 0 rs with
      | [] => []
      | x :: xs => [s.veeChan (chanCtx rules r lastEnd rs skew c) c (r.held.filter (·.chan = c)) x xs])
    let r' := s.veeRecord r a rules rs outs
    let fails := (outs.map ChanOut.fails).sum
    let est := (outs.map (·.est)).sum
    (stOk,
      [Effect.row (.ep m.epx r')]
        ++ readingFollows kVee m.epx r a rs (outs.map (fun o => (o.chan, o.vals)))
        ++ (alarmBodies m.epx a head payload rs outs).map (fun b => followEp kVee kAlarm 0 m.epx b a)
        ++ veeMessages m.epx r rs
        ++ (if s.fnRunning 0x11 then
              (seriesBodies m.epx rs outs).map (fun b => followEp kVee kBalance 1 m.epx b a) else [])
        ++ fwFollows m.epx a rs
        ++ (if fails = 0 then [] else [.count .EP_VEE_FAIL_CNT 0 0 fails])
        ++ (if est = 0 then [] else [.count .EP_VEE_EST_CNT 0 0 est]))

/-- VEE; the host may not ring it (R104). -/
def execVee (slot : Nat) (s : State) : Host.Outcome State Fault Refusal :=
  s.onKind slot kVee (fun m =>
    if m.srcClass = 0 || s.workerRole then s.complete slot stRejected [] (s.roleEffects m)
    else s.withRec slot m.epx (fun s r =>
      let o := s.veeRun m r
      (s, o.1, o.2)))

end Sys2Proof.Machine
end

