-- ==== Sys2Proof/Machine/Dispatch.lean ====
section
/-!
DEFINITION. One arm per command: the meaning of each, by one direct call.
-/
namespace Sys2Proof.Machine

/-- The effect of a command on everything but the queue. -/
def exec (i : Instr) (s : State) : Host.Outcome State Fault Refusal :=
  match i with
  | .registerWrite addr data => Sys2Proof.Machine.execRegisterWrite addr data s
  | .intRegisterWrite addr val => Sys2Proof.Machine.execIntRegisterWrite addr val s
  | .porstN core sram off => Sys2Proof.Machine.execPorstN core sram off s
  | .sysrstN => Sys2Proof.Machine.execSysrstN s
  | .watchdogReset => Sys2Proof.Machine.execWatchdogReset s
  | .watchdogHalf => Sys2Proof.Machine.execWatchdogHalf s
  | .watchdogKick val => Sys2Proof.Machine.execWatchdogKick val s
  | .pwrCmdReset => Sys2Proof.Machine.execPwrCmdReset s
  | .refclkLoss => Sys2Proof.Machine.execRefclkLoss s
  | .brownoutRestart => Sys2Proof.Machine.execBrownoutRestart s
  | .boot b => Sys2Proof.Machine.execBoot b s
  | .pcieReset => Sys2Proof.Machine.execPcieReset s
  | .applyDelta data => Sys2Proof.Machine.execApplyDelta data s
  | .deltaSectionApply => Sys2Proof.Machine.execDeltaSectionApply s
  | .commitEpoch => Sys2Proof.Machine.execCommitEpoch s
  | .dmaFifoPacket fifo => Sys2Proof.Machine.execDmaFifoPacket fifo s
  | .admissionUpdate => Sys2Proof.Machine.execAdmissionUpdate s
  | .backpressureHoldEnd cls idx => Sys2Proof.Machine.execBackpressureHoldEnd cls idx s
  | .tugDispatch tug => Sys2Proof.Machine.execTugDispatch tug s
  | .tugWatchdogExpire tug => Sys2Proof.Machine.execTugWatchdogExpire tug s
  | .tugFailure tug cause => Sys2Proof.Machine.execTugFailure tug cause s
  | .tallyRelease slot => Sys2Proof.Machine.execTallyRelease slot s
  | .dlPop => Sys2Proof.Machine.execDlPop s
  | .tugSelftestCmd val => Sys2Proof.Machine.execTugSelftestCmd val s
  | .tugSelftestDone pass => Sys2Proof.Machine.execTugSelftestDone pass s
  | .functionEnable fn => Sys2Proof.Machine.execFunctionEnable fn s
  | .functionDisable fn => Sys2Proof.Machine.execFunctionDisable fn s
  | .abandonNow fn => Sys2Proof.Machine.execAbandonNow fn s
  | .drainTimeout fn => Sys2Proof.Machine.execDrainTimeout fn s
  | .functionOff fn => Sys2Proof.Machine.execFunctionOff fn s
  | .doorbellRing berth count => Sys2Proof.Machine.execDoorbellRing berth count s
  | .doorbellEntry berth ok man buf => Sys2Proof.Machine.execDoorbellEntry berth ok man buf s
  | .frameIn slot => Sys2Proof.Machine.execFrameIn slot s
  | .openEnv slot => Sys2Proof.Machine.execOpenEnv slot s
  | .replay slot => Sys2Proof.Machine.execReplay slot s
  | .vee slot => Sys2Proof.Machine.execVee slot s
  | .tariff slot => Sys2Proof.Machine.execTariff slot s
  | .profile slot => Sys2Proof.Machine.execProfile slot s
  | .rejoin slot => Sys2Proof.Machine.execRejoin slot s
  | .alarm slot => Sys2Proof.Machine.execAlarm slot s
  | .hostMsg slot => Sys2Proof.Machine.execHostMsg slot s
  | .telemetry slot => Sys2Proof.Machine.execTelemetry slot s
  | .scrubReport slot => Sys2Proof.Machine.execScrubReport slot s
  | .logSnap slot => Sys2Proof.Machine.execLogSnap slot s
  | .panelUpdate slot => Sys2Proof.Machine.execPanelUpdate slot s
  | .cmdConnect slot => Sys2Proof.Machine.execCmdConnect slot s
  | .cmdDisconnect slot => Sys2Proof.Machine.execCmdDisconnect slot s
  | .cmdTariffPush slot => Sys2Proof.Machine.execCmdTariffPush slot s
  | .cmdRead slot => Sys2Proof.Machine.execCmdRead slot s
  | .cmdDlms slot => Sys2Proof.Machine.execCmdDlms slot s
  | .cmdCancel slot => Sys2Proof.Machine.execCmdCancel slot s
  | .cmdProvision slot => Sys2Proof.Machine.execCmdProvision slot s
  | .cmdDeprovision slot => Sys2Proof.Machine.execCmdDeprovision slot s
  | .cmdIssue slot => Sys2Proof.Machine.execCmdIssue slot s
  | .linkEventSearch slot => Sys2Proof.Machine.execLinkEventSearch slot s
  | .linkEventReleased slot => Sys2Proof.Machine.execLinkEventReleased slot s
  | .linkEventResumed slot => Sys2Proof.Machine.execLinkEventResumed slot s
  | .linkEventPlaced slot => Sys2Proof.Machine.execLinkEventPlaced slot s
  | .linkEventSched slot => Sys2Proof.Machine.execLinkEventSched slot s
  | .linkEventWorkerLost slot => Sys2Proof.Machine.execLinkEventWorkerLost slot s
  | .linkEventWorkerBack slot => Sys2Proof.Machine.execLinkEventWorkerBack slot s
  | .endpointRecordRead val => Sys2Proof.Machine.execEndpointRecordRead val s
  | .plcCycleStart seg => Sys2Proof.Machine.execPlcCycleStart seg s
  | .plcPollExchange seg => Sys2Proof.Machine.execPlcPollExchange seg s
  | .plcReplyReceived seg rx => Sys2Proof.Machine.execPlcReplyReceived seg rx s
  | .plcNullUpReceived seg rx => Sys2Proof.Machine.execPlcNullUpReceived seg rx s
  | .plcReplyMissing seg => Sys2Proof.Machine.execPlcReplyMissing seg s
  | .plcContendReceived seg sig fc llr => Sys2Proof.Machine.execPlcContendReceived seg sig fc llr s
  | .plcContentionWindow seg opens => Sys2Proof.Machine.execPlcContentionWindow seg opens s
  | .zeroCrossing phase t => Sys2Proof.Machine.execZeroCrossing phase t s
  | .plcZcLost seg => Sys2Proof.Machine.execPlcZcLost seg s
  | .plcLinkDown link => Sys2Proof.Machine.execPlcLinkDown link s
  | .plcLinkRetry seg up => Sys2Proof.Machine.execPlcLinkRetry seg up s
  | .plcEntryRead seg val => Sys2Proof.Machine.execPlcEntryRead seg val s
  | .plcEntrySet seg val => Sys2Proof.Machine.execPlcEntrySet seg val s
  | .plcSoundNow seg => Sys2Proof.Machine.execPlcSoundNow seg s
  | .radioSuperframeStart port => Sys2Proof.Machine.execRadioSuperframeStart port s
  | .radioBeaconSlot port group => Sys2Proof.Machine.execRadioBeaconSlot port group s
  | .radioFrameReceived port chan rx => Sys2Proof.Machine.execRadioFrameReceived port chan rx s
  | .radioResponse port chan => Sys2Proof.Machine.execRadioResponse port chan s
  | .radioOccurrenceMissed port chan slot phase => Sys2Proof.Machine.execRadioOccurrenceMissed port chan slot phase s
  | .radioEntryRead port val => Sys2Proof.Machine.execRadioEntryRead port val s
  | .radioEntryPlace port val => Sys2Proof.Machine.execRadioEntryPlace port val s
  | .radioEntrySched port val => Sys2Proof.Machine.execRadioEntrySched port val s
  | .metroSecond m => Sys2Proof.Machine.execMetroSecond m s
  | .gridBoundary => Sys2Proof.Machine.execGridBoundary s
  | .demandSubintervalEnd => Sys2Proof.Machine.execDemandSubintervalEnd s
  | .customsApplyReadings => Sys2Proof.Machine.execCustomsApplyReadings s
  | .customsApplyOpen => Sys2Proof.Machine.execCustomsApplyOpen s
  | .customsApplyClose => Sys2Proof.Machine.execCustomsApplyClose s
  | .customsSlewDone => Sys2Proof.Machine.execCustomsSlewDone s
  | .lockstepMismatch => Sys2Proof.Machine.execLockstepMismatch s
  | .customsRomRestart => Sys2Proof.Machine.execCustomsRomRestart s
  | .siteTamperEvent kind => Sys2Proof.Machine.execSiteTamperEvent kind s
  | .billingSweep => Sys2Proof.Machine.execBillingSweep s
  | .customsRestore => Sys2Proof.Machine.execCustomsRestore s
  | .customsRestoreDone => Sys2Proof.Machine.execCustomsRestoreDone s
  | .metroOffsetCalibration => Sys2Proof.Machine.execMetroOffsetCalibration s
  | .mbxReadBilling => Sys2Proof.Machine.execMbxReadBilling s
  | .mbxReadPeriod => Sys2Proof.Machine.execMbxReadPeriod s
  | .mbxReadProfile => Sys2Proof.Machine.execMbxReadProfile s
  | .mbxCalUser blob => Sys2Proof.Machine.execMbxCalUser blob s
  | .refMinuteDue => Sys2Proof.Machine.execRefMinuteDue s
  | .hourDue => Sys2Proof.Machine.execHourDue s
  | .topoDue => Sys2Proof.Machine.execTopoDue s
  | .balanceSeries slot => Sys2Proof.Machine.execBalanceSeries slot s
  | .balanceRef slot => Sys2Proof.Machine.execBalanceRef slot s
  | .balanceHour slot => Sys2Proof.Machine.execBalanceHour slot s
  | .balanceTopo slot => Sys2Proof.Machine.execBalanceTopo slot s
  | .balanceSet slot => Sys2Proof.Machine.execBalanceSet slot s
  | .balQueryGroup val => Sys2Proof.Machine.execBalQueryGroup val s
  | .balQueryMember val => Sys2Proof.Machine.execBalQueryMember val s
  | .balSetFlags val => Sys2Proof.Machine.execBalSetFlags val s
  | .balSetBase val => Sys2Proof.Machine.execBalSetBase val s
  | .balUnbind val => Sys2Proof.Machine.execBalUnbind val s
  | .craftSuperframeStart => Sys2Proof.Machine.execCraftSuperframeStart s
  | .craftDownlink => Sys2Proof.Machine.execCraftDownlink s
  | .cStatusReceived k rx => Sys2Proof.Machine.execCStatusReceived k rx s
  | .cAlarmReceived rx => Sys2Proof.Machine.execCAlarmReceived rx s
  | .laneStatus slot => Sys2Proof.Machine.execLaneStatus slot s
  | .laneOrder slot => Sys2Proof.Machine.execLaneOrder slot s
  | .laneTask slot => Sys2Proof.Machine.execLaneTask slot s
  | .laneIssue slot => Sys2Proof.Machine.execLaneIssue slot s
  | .laneAllot slot => Sys2Proof.Machine.execLaneAllot slot s
  | .craftLost craft => Sys2Proof.Machine.execCraftLost craft s
  | .gnssEpochObservations obs => Sys2Proof.Machine.execGnssEpochObservations obs s
  | .rtkEpoch slot => Sys2Proof.Machine.execRtkEpoch slot s
  | .baseSurveyDone => Sys2Proof.Machine.execBaseSurveyDone s
  | .stopInChange low => Sys2Proof.Machine.execStopInChange low s
  | .stopCmdStop => Sys2Proof.Machine.execStopCmdStop s
  | .stopCmdRelease => Sys2Proof.Machine.execStopCmdRelease s
  | .stopCmdClear => Sys2Proof.Machine.execStopCmdClear s
  | .craftQuery val => Sys2Proof.Machine.execCraftQuery val s
  | .timeSecond => Sys2Proof.Machine.execTimeSecond s
  | .gnssSolution g => Sys2Proof.Machine.execGnssSolution g s
  | .gnssAntFault fault => Sys2Proof.Machine.execGnssAntFault fault s
  | .ptpMessageReceived port rx => Sys2Proof.Machine.execPtpMessageReceived port rx s
  | .ptpMessageSend port mtype => Sys2Proof.Machine.execPtpMessageSend port mtype s
  | .ptpAnnounceTimeout port => Sys2Proof.Machine.execPtpAnnounceTimeout port s
  | .ppsInEdge ns frac edge => Sys2Proof.Machine.execPpsInEdge ns frac edge s
  | .holdOffExpire => Sys2Proof.Machine.execHoldOffExpire s
  | .timeStep => Sys2Proof.Machine.execTimeStep s
  | .slewComplete => Sys2Proof.Machine.execSlewComplete s
  | .setTime => Sys2Proof.Machine.execSetTime s
  | .ppsOutEdge => Sys2Proof.Machine.execPpsOutEdge s
  | .triggerInstant sched => Sys2Proof.Machine.execTriggerInstant sched s
  | .captureEdge input ns frac edge => Sys2Proof.Machine.execCaptureEdge input ns frac edge s
  | .captPop val => Sys2Proof.Machine.execCaptPop val s
  | .oscAgeingUpdate => Sys2Proof.Machine.execOscAgeingUpdate s
  | .gnssAidingSave => Sys2Proof.Machine.execGnssAidingSave s
  | .gnssGroupDelayCal => Sys2Proof.Machine.execGnssGroupDelayCal s
  | .bondChallenge => Sys2Proof.Machine.execBondChallenge s
  | .nonceExpire => Sys2Proof.Machine.execNonceExpire s
  | .ownerEnterService blob => Sys2Proof.Machine.execOwnerEnterService blob s
  | .ownerRetire blob => Sys2Proof.Machine.execOwnerRetire blob s
  | .ownerLockSet blob => Sys2Proof.Machine.execOwnerLockSet blob s
  | .ownerLockClear blob => Sys2Proof.Machine.execOwnerLockClear blob s
  | .ownerLoadWrapped blob => Sys2Proof.Machine.execOwnerLoadWrapped blob s
  | .ownerEraseSlot blob => Sys2Proof.Machine.execOwnerEraseSlot blob s
  | .ownerLogClear blob => Sys2Proof.Machine.execOwnerLogClear blob s
  | .bondLoadPlain slot buf => Sys2Proof.Machine.execBondLoadPlain slot buf s
  | .bondGenerate slot => Sys2Proof.Machine.execBondGenerate slot s
  | .bondErasePlain slot => Sys2Proof.Machine.execBondErasePlain slot s
  | .bondAttest slot flags => Sys2Proof.Machine.execBondAttest slot flags s
  | .bondSign slot => Sys2Proof.Machine.execBondSign slot s
  | .bondDeploy flags => Sys2Proof.Machine.execBondDeploy flags s
  | .bondExitService flags => Sys2Proof.Machine.execBondExitService flags s
  | .bondRetireFactory flags => Sys2Proof.Machine.execBondRetireFactory flags s
  | .storeStart => Sys2Proof.Machine.execStoreStart s
  | .writeCachePageTimeout part page => Sys2Proof.Machine.execWriteCachePageTimeout part page s
  | .pageProgramDone part ok => Sys2Proof.Machine.execPageProgramDone part ok s
  | .foldCommit part lblk => Sys2Proof.Machine.execFoldCommit part lblk s
  | .staticWearLevel lun => Sys2Proof.Machine.execStaticWearLevel lun s
  | .nandPatrol lun blk worst corrected bad => Sys2Proof.Machine.execNandPatrol lun blk worst corrected bad s
  | .storeRead part worst corrected bad => Sys2Proof.Machine.execStoreRead part worst corrected bad s
  | .storeDiscard part count => Sys2Proof.Machine.execStoreDiscard part count s
  | .storeHealth => Sys2Proof.Machine.execStoreHealth s
  | .wharfHello => Sys2Proof.Machine.execWharfHello s
  | .wharfHelloAck => Sys2Proof.Machine.execWharfHelloAck s
  | .wharfHeartbeat => Sys2Proof.Machine.execWharfHeartbeat s
  | .wharfCredit => Sys2Proof.Machine.execWharfCredit s
  | .wharfUpEnv => Sys2Proof.Machine.execWharfUpEnv s
  | .wharfDownEnv => Sys2Proof.Machine.execWharfDownEnv s
  | .wharfKeyReq => Sys2Proof.Machine.execWharfKeyReq s
  | .wharfFwdKeyReq slot => Sys2Proof.Machine.execWharfFwdKeyReq slot s
  | .wharfFwdDownEnv slot => Sys2Proof.Machine.execWharfFwdDownEnv slot s
  | .wharfCkpt => Sys2Proof.Machine.execWharfCkpt s
  | .wharfJournal => Sys2Proof.Machine.execWharfJournal s
  | .wharfJack => Sys2Proof.Machine.execWharfJack s
  | .wharfHeartbeatSend => Sys2Proof.Machine.execWharfHeartbeatSend s
  | .workerLost worker => Sys2Proof.Machine.execWorkerLost worker s
  | .workerRoleHelloSend => Sys2Proof.Machine.execWorkerRoleHelloSend s
  | .managerLost mgr => Sys2Proof.Machine.execManagerLost mgr s
  | .wharfDgramFlush => Sys2Proof.Machine.execWharfDgramFlush s
  | .claimFrameSend => Sys2Proof.Machine.execClaimFrameSend s
  | .claimFrameReceived body => Sys2Proof.Machine.execClaimFrameReceived body s
  | .claimStartupDecision => Sys2Proof.Machine.execClaimStartupDecision s
  | .checkpointPassStart => Sys2Proof.Machine.execCheckpointPassStart s
  | .journalResend => Sys2Proof.Machine.execJournalResend s
  | .jackSend => Sys2Proof.Machine.execJackSend s
  | .takeover => Sys2Proof.Machine.execTakeover s
  | .takeoverResume => Sys2Proof.Machine.execTakeoverResume s
  | .pilotDrill force => Sys2Proof.Machine.execPilotDrill force s
  | .drillTimeout => Sys2Proof.Machine.execDrillTimeout s
  | .logRecordWrite => Sys2Proof.Machine.execLogRecordWrite s
  | .opSecSave => Sys2Proof.Machine.execOpSecSave s
  | .logRead => Sys2Proof.Machine.execLogRead s
  | .updStage pkg => Sys2Proof.Machine.execUpdStage pkg s
  | .updStageDone ok => Sys2Proof.Machine.execUpdStageDone ok s
  | .updActivate val => Sys2Proof.Machine.execUpdActivate val s
  | .trialEvaluation ok => Sys2Proof.Machine.execTrialEvaluation ok s
  | .updCommit => Sys2Proof.Machine.execUpdCommit s
  | .updRevert => Sys2Proof.Machine.execUpdRevert s
  | .trialTimeout => Sys2Proof.Machine.execTrialTimeout s
  | .migrationDone => Sys2Proof.Machine.execMigrationDone s
  | .jobCreate val image => Sys2Proof.Machine.execJobCreate val image s
  | .jobReady => Sys2Proof.Machine.execJobReady s
  | .jobCancel val => Sys2Proof.Machine.execJobCancel val s
  | .fwPushTarget slot => Sys2Proof.Machine.execFwPushTarget slot s
  | .fwPushStatus slot => Sys2Proof.Machine.execFwPushStatus slot s
  | .fwPushRound slot => Sys2Proof.Machine.execFwPushRound slot s
  | .fwPushSend slot => Sys2Proof.Machine.execFwPushSend slot s
  | .fwPushSet slot => Sys2Proof.Machine.execFwPushSet slot s
  | .fwPushStall epx => Sys2Proof.Machine.execFwPushStall epx s
  | .ethFrameReceived port frame fcsOk => Sys2Proof.Machine.execEthFrameReceived port frame fcsOk s
  | .pauseWatchdog port => Sys2Proof.Machine.execPauseWatchdog port s
  | .ethFrameTransmit port => Sys2Proof.Machine.execEthFrameTransmit port s
  | .ethLinkChange port up full speed => Sys2Proof.Machine.execEthLinkChange port up full speed s
  | .dmaChannelGo chan val => Sys2Proof.Machine.execDmaChannelGo chan val s
  | .dmaChannelDone chan abort src => Sys2Proof.Machine.execDmaChannelDone chan abort src s
  | .crHeadWrite ring val => Sys2Proof.Machine.execCrHeadWrite ring val s
  | .crCfgWrite ring reg val => Sys2Proof.Machine.execCrCfgWrite ring reg val s
  | .crCoalesceTimeout ring => Sys2Proof.Machine.execCrCoalesceTimeout ring s
  | .panelFrameBoundary => Sys2Proof.Machine.execPanelFrameBoundary s
  | .panelHvSettled => Sys2Proof.Machine.execPanelHvSettled s
  | .panelHvDischarged => Sys2Proof.Machine.execPanelHvDischarged s
  | .panelTempStale => Sys2Proof.Machine.execPanelTempStale s
  | .panelBlinkEdge group => Sys2Proof.Machine.execPanelBlinkEdge group s
  | .readoutPageAdvance => Sys2Proof.Machine.execReadoutPageAdvance s
  | .panelRedraw => Sys2Proof.Machine.execPanelRedraw s
  | .pwrfailAccept => Sys2Proof.Machine.execPwrfailAccept s
  | .lastGaspFrames => Sys2Proof.Machine.execLastGaspFrames s
  | .deviceIdle tel => Sys2Proof.Machine.execDeviceIdle tel s
  | .scheduledWake => Sys2Proof.Machine.execScheduledWake s
  | .unscheduledWake source => Sys2Proof.Machine.execUnscheduledWake source s
  | .holdupOkChange high => Sys2Proof.Machine.execHoldupOkChange high s
  | .backupChange on => Sys2Proof.Machine.execBackupChange on s
  | .pwrHoldRun => Sys2Proof.Machine.execPwrHoldRun s
  | .pwrReleaseRun => Sys2Proof.Machine.execPwrReleaseRun s
  | .pwrRestoreFactory arg => Sys2Proof.Machine.execPwrRestoreFactory arg s
  | .pwrBgNow arg => Sys2Proof.Machine.execPwrBgNow arg s
  | .sramScrubPass corrected errs => Sys2Proof.Machine.execSramScrubPass corrected errs s
  | .ddrPatrol corrected errs done => Sys2Proof.Machine.execDdrPatrol corrected errs done s
  | .telemetryInstant idx => Sys2Proof.Machine.execTelemetryInstant idx s
  | .tempSample tj => Sys2Proof.Machine.execTempSample tj s
  | .gpioEdge ball rising => Sys2Proof.Machine.execGpioEdge ball rising s
  | .registerRead addr len => Sys2Proof.Machine.execRegisterRead addr len s
  | .extLost => Sys2Proof.Machine.execExtLost s
  | .blockEraseDone lun blk ok => Sys2Proof.Machine.execBlockEraseDone lun blk ok s
  | .pcieLinkUp busMaster msixMasked => Sys2Proof.Machine.execPcieLinkUp busMaster msixMasked s
  | .panelSlotStart => Sys2Proof.Machine.execPanelSlotStart s

end Sys2Proof.Machine
end

