-- ==== Sys2Proof/Safety.lean ====
section
/-!
DEFINITION. What a state of the device must satisfy whatever commands come, and the vocabulary of the statements: an answer
with its next state, what a command leaves alone, and the registers with no effect beyond their access code.
-/
namespace Sys2Proof.Machine

/-- The command is carried out: it answers a next state, and that state satisfies `p`. -/
def Answers (o : Host.Outcome State Fault Refusal) (p : State → Prop) : Prop := ∃ t, o = .next t ∧ p t

/-- Every stored register at an address outside the list is as it was. -/
def State.regsBut (s t : State) (addrs : List Nat) : Prop := ∀ a, a ∉ addrs → Map.get? t.regs a = Map.get? s.regs a

/-- The registers that a vector and an event of the Logbook queue may move: PBA, LOG.LOST_CNT and LOG.INT (R380, R409). -/
def noteRegs : List Nat :=
  [Reg.addr .DMA_PBA 0 0, Reg.addr .DMA_PBA 1 0, Reg.addr .DMA_PBA 2 0, Reg.addr .LOG_LOST_CNT 0 0, Reg.addr .LOG_INT 0 0]

/-- The newest event of the Logbook queue: its code, key and detail (R380). -/
def State.lastEvent (s : State) : Option (Nat × Nat × Nat) := s.log.queue.getLast?.map (fun e => (e.code, e.key, e.detail))

/-- The register file is in canonical form: addresses strictly rise. -/
def State.regsWf (s : State) : Bool := Map.wf s.regs

/-- The life cycle is one of Table 11-10: 0 BLANK, 1 FACTORY, 2 DEPLOYED, 3 SERVICE, 4 RETIRED. -/
def State.legalLife (s : State) : Bool := decide (s.bond.lifecycle ≤ 4)

/-- The life cycle `b` can follow `a` in one step: it stays, or a transition of Table 11-11 is taken. -/
def lifeMoves (a b : Nat) : Bool :=
  a = b || (a = 1 && (b = 2 || b = 4)) || (a = 2 && (b = 3 || b = 4)) || (a = 3 && (b = 2 || b = 4))

/-- RW registers whose write does nothing but hold the value (Table 20-7). -/
def plainRw : List Reg :=
  [.GLOBAL_SCRATCH, .PLAN_DELTA_ADDR_LO, .PLAN_DELTA_ADDR_HI, .PLAN_DELTA_LEN, .RADIO_ENTRY_EPX, .CUSTOMS_MBX_ARG0,
   .CUSTOMS_MBX_ARG1, .CUSTOMS_MBX_ARG2, .CUSTOMS_MBX_ADDR_LO, .CUSTOMS_MBX_ADDR_HI, .CUSTOMS_MBX_LEN,
   .BAL_QUERY_ARG, .TIME_SET_NS, .TIME_SET_SEC_LO, .TIME_SET_SEC_HI, .TIME_TRIG_EN_LO, .TIME_TRIG_EN_HI,
   .BOND_ADDR_LO, .BOND_ADDR_HI, .BOND_LEN, .BOND_SLOT_SEL, .BOND_DATA, .STORE_ARG, .STORE_ADDR_LO, .STORE_ADDR_HI,
   .LOG_RD_SEQ, .UPD_PKG_ADDR_LO, .UPD_PKG_ADDR_HI, .UPD_PKG_LEN, .UPD_JOB_ADDR_LO, .UPD_JOB_ADDR_HI, .UPD_JOB_CFG,
   .UPD_JOB_ACT, .DMA_HOST_WIN_LO, .DMA_HOST_WIN_HI, .DMA_MSIX_ADDR_LO, .DMA_MSIX_ADDR_HI, .DMA_MSIX_DATA,
   .PANEL_ACCT_SEL, .PANEL_BLINK_MASK, .PINS_GPIO_EDGE, .BAR2_DB_ADDR_LO, .BAR2_DB_ADDR_HI]

/-- Registers of which a host writes RWL bits alone (Table 20-7). -/
def plainRwl : List Reg :=
  [.TUG_DOCK_CFG, .TUG_DOCK_KIND_LO, .TUG_DOCK_KIND_HI, .EP_ADMIT_CFG, .EP_ADMIT_CFG2, .EP_CMD_CFG, .PLC_SEG_CFG0,
   .PLC_SEG_CFG1, .PLC_SEG_CFG2, .PLC_NOTCH, .RADIO_CFG0, .RADIO_CFG1, .RADIO_CFG2, .RADIO_SB_LIMIT, .RADIO_SB_LOW,
   .RADIO_SB_HIGH, .BAL_CFG0, .BAL_CFG1, .BAL_CFG2, .BAL_TOPO_CFG0, .BAL_TOPO_CFG1, .BAL_THEFT_CFG0, .BAL_THEFT_CFG1,
   .BAL_THEFT_CFG2, .CRAFT_CFG0, .CRAFT_CFG1, .CRAFT_CFG2, .CRAFT_CFG3, .CRAFT_CFG4, .TIME_CFG0, .TIME_CFG1,
   .GNSS_CFG0, .STORE_CFG0, .STORE_CFG1, .STORE_CFG2, .WHARF_CFG0, .WHARF_CFG1, .PILOT_CFG, .PILOT_PAIR_ID, .LOG_CFG,
   .PANEL_CFG0, .PANEL_CFG1, .PANEL_CFG2, .PANEL_BAND_T, .PWR_WDT_CFG, .PINS_ETH_EN]

/-- Every waiting manifest that failed twice has another enabled dock that serves it, so none is due to be poisoned (R67). -/
def State.retryable (s : State) : Prop :=
  ∀ e ∈ s.hm.berths, ∀ m ∈ e.2.sram ++ e.2.spill, m.retry = 2 → s.otherDock m.lastDock m.kind = true

/-- Slot `k` executes manifest `m` of a kind: taken by a tug, not complete, not cancelled (R56, R69, R82). -/
def State.runs (s : State) (k kind : Nat) (m : Manifest) : Prop :=
  ∃ e, s.slot? k = some e ∧ e.m = m ∧ m.kind = kind ∧ m.status = 0 ∧ e.tug.isSome = true ∧ e.cancelled = false

/-- The copy of key slot `n` that serves agrees with its tag, so a use of the slot fails no check (R311). -/
def State.tagGood (s : State) (n : Nat) : Prop :=
  (s.keySlot n).valid = true → (s.keySlot n).served.tagOk n (s.keySlot n).copy = true

/-- The ROOT slot that the plan names serves a copy that agrees with its tag (R311, R318). -/
def State.rootServes (s : State) : Prop := s.tagGood (leAt ((s.item? 0xD0 1).getD []) 0 1)

/-- The counters that a record load and a key request move while a work kind runs (R90, R318). -/
def workRegs : List Nat :=
  [Reg.addr .EP_CACHE_HIT_CNT 0 0, Reg.addr .EP_CACHE_MISS_CNT 0 0, Reg.addr .BOND_DERIVE_CNT 0 0,
   Reg.addr .BOND_KCACHE_HIT_CNT 0 0, Reg.addr .BOND_KCACHE_MISS_CNT 0 0]

/-- What the work of slot `k` may change before its release (R17): its slot, the record cache, the key cache and the counts
of the two, TRNG outputs drawn, and free values drawn. -/
def State.workFrame (s t : State) (k : Nat) : Prop :=
  t = { s with
    hm := { s.hm with slots := t.hm.slots }, regs := t.regs, ep := { s.ep with cache := t.ep.cache },
    bond := { s.bond with cache := t.bond.cache, drawn := t.bond.drawn }, free := t.free } ∧
  (∀ j, j ≠ k → t.slot? j = s.slot? j) ∧ s.regsBut t workRegs

/-- Stage pages for the effects are free to slot `k`, in its dock's area or in the DDR-5 stage region (R70). -/
def State.pagesFor (s : State) (k : Nat) (fx : List Effect) : Bool :=
  match s.slot? k with
  | some e => s.stageFits e.dock fx
  | none => false

/-- The work of slot `k` completes with a status (Table 3-4) and a stage buffer where pages for it are free, waits for a page
where none is (Table 3-6), and changes nothing else. -/
def Works (o : Host.Outcome State Fault Refusal) (s : State) (k st : Nat) (fx : List Effect) : Prop :=
  Answers o (fun t =>
    (if s.pagesFor k fx then ∃ e, t.slot? k = some e ∧ e.tug = none ∧ e.m.status = st ∧ e.stage = fx
      else t.slot? k = s.slot? k) ∧ s.workFrame t k)

/-- A manifest that the device creates for a source enters berth `n`: FLOWS routes it there, admission does not shed it, and
the berth is open and not full (R62, R87, R117). -/
def State.routed (s : State) (cls kind idx flow n : Nat) : Prop :=
  s.route cls kind idx flow = some n ∧ s.berthOpen n = true ∧ (s.berth n).depth < s.berthCap n ∧
  (cls = 1 ∨ cls = 2 ∨ cls = 3 → s.ep.level ≤ s.fld .HM_BERTH_CFG n 0 22 20)

/-- A new manifest of a kind, kind_arg, flow and payload is the last one of berth `n`, pending, with no retry (R59). -/
def State.entered (s t : State) (n kind kindArg flow : Nat) (buf : Bytes) : Prop :=
  (t.berth n).depth = (s.berth n).depth + 1 ∧
  ∃ m, ((t.berth n).sram ++ (t.berth n).spill).getLast? = some m ∧ m.kind = kind ∧ m.kindArg = kindArg ∧ m.flow = flow
    ∧ m.buf = buf ∧ m.status = 0 ∧ m.retry = 0

/-- Logical block `lblk` of a partition is relocated into native block `k` (R335): the latest copy of each of its valid pages stands there
without the flush_end flag, with the codewords of `bad` (each as page × 8 + codeword) zeroed, and pages of other logical blocks stay
mapped where they were. -/
def State.folded (s t : State) (part lblk k : Nat) (bad : List Nat) : Prop :=
  (∀ page x, page < 2 ^ 32 → page / max 1 s.store.ppb = lblk → s.nandPage part page = some x →
    ∃ y, t.nandPage part page = some y ∧ Map.getD (t.mapOf part).pages (pageKey part page) 0 / 4096 = k ∧
      y.data = fit 16384 (s.pageData x ((bad.filter (fun c => c / 8 = page)).map (· % 8))) ∧
      y.oneBit = false ∧ y.flushEnd = false ∧ y.bad = []) ∧
  (∀ q, q / 2 ^ 32 ≠ part ∨ q % 2 ^ 32 / max 1 s.store.ppb ≠ lblk →
    Map.get? (t.mapOf part).pages q = Map.get? (s.mapOf part).pages q)

/-- A datagram leaves for an association (R352, R353, R416): where its key and sequence hold, its body fits and the LINK port is
up, it stands last in its type's queue of that port, sealed under the association's next sequence number, which advances under
its link_epoch. -/
def State.sends (s t : State) (a dst port type : Nat) (body : Bytes) : Prop :=
  ∀ k q h, s.wharfKey a = some k → q = s.nextSeq a → h = s.wharfHeader a type q →
    s.flag .WHARF_STATUS 0 0 11 = false → body.length ≤ 1200 →
    Map.getD t.wharf.seqs (s.seqKey a) 1 = q + 1 ∧
    t.get .WHARF_TX_DGRAM_CNT 0 0 = min 0xFFFFFFFF (s.get .WHARF_TX_DGRAM_CNT 0 0 + 1) ∧
    (s.ethUp s.linkPort = true → s.linkPort < s.eth.ports.length →
      queueOf type < (s.ethPort s.linkPort).queues.length →
      ((t.ethPort s.linkPort).queues.getD (queueOf type) []).getLast? = some ⟨some (s.nextHop dst), 0, 0x86DD,
        udp6 s.wharfAddr.1 dst port port (h ++ Config.gcmSeal k (wharfNonce h) h body), none⟩)

end Sys2Proof.Machine
end

