-- ==== Sys2Proof/Certificates/Slice0/Obligations.lean ====
section
/-!
DEFINITION. The statements for the provers.
-/
open Sys2Proof Sys2Proof.Machine

/-- For every command c, every rest of the queue and every state s: when the queue is c followed by rest, step of s is
exec of c on s with its queue set to rest. The queue of commands is the block model's own; assumption 1 names what a
step does when it is empty. (00_scope.md; 01_architecture.md) -/
def Obligations.StepRunsFront : Prop :=
  ∀ (c : Instr) (rest : List Instr) (s : State), s.pending = c :: rest → step s = exec c { s with pending := rest }

/-- For every state s whose queue is empty, step of s answers a next state, and its queue is empty. The life cycle and
the host's memory are as before. When the frequency correction k is 0, no slew is in progress and neither a
remainder nor a part of a nanosecond is pending, one tick adds 2 ns and half a nanosecond, and a second tick
completes 5 ns. That a step with an empty queue is one tick of the 400 MHz TIME clock of R284 is the model's choice
(assumption 1). (10_time_gnss.md) -/
def Obligations.IdleTick : Prop :=
  (∀ s : State, s.pending = [] → Answers (step s) (fun t => t.pending = [] ∧ t.bond.lifecycle = s.bond.lifecycle
    ∧ t.host.mem = s.host.mem)) ∧
  (∀ s : State, s.pending = [] → s.time.adj = 0 → s.time.slew = 0 → s.time.rem = 0 → s.time.frac = 0 →
    Answers (step s) (fun t => t.time.ns = s.time.ns + 2 ∧ t.time.frac = 2 ^ 15 ∧ t.time.rem = 0 ∧
      Answers (step t) (fun u => u.time.ns = s.time.ns + 5 ∧ u.time.frac = 0)))

/-- At State.reset no command waits; every register instance reads the reset value of Table 20-7 (named for REV,
TEMP_MAX, HOT_CFG, berth 4095, EP.ADMIT_CFG, PLC.SEG_CFG0 and RADIO.CFG1); the loader is in IDLE and no plan runs;
the power state is RUN and the reset cause is PORST_N; no manifest is queued, in flight or dead; no record is
cached; the Logbook queue is empty; the link is down; the register file lists nothing, and the life cycle is
FACTORY, which is the model's choice (assumption 33). (20_register_map.md; 18_power_clocks_reset.md;
11_bonded_store.md) -/
def Obligations.ResetLeaves : Prop :=
  State.reset.pending = [] ∧ State.reset.regs = [] ∧
  (∀ r i j, State.reset.get r i j = r.resetVal i j % 2 ^ 32) ∧
  Reg.resetVal .GLOBAL_REV 0 0 = 0xB0 ∧ Reg.resetVal .GLOBAL_TEMP_MAX 0 0 = 0x8000 ∧ Reg.resetVal .GLOBAL_HOT_CFG 0 0 = 0x2904 ∧
  Reg.resetVal .HM_BERTH_CFG 4095 0 = 0x80040000 ∧ Reg.resetVal .HM_BERTH_LIM 4095 0 = 0x00400000 ∧
  Reg.resetVal .EP_ADMIT_CFG 0 0 = 0x04000800 ∧ Reg.resetVal .PLC_SEG_CFG0 3 0 = 0x08C82710 ∧
  Reg.resetVal .RADIO_CFG1 2 0 = 0x250 ∧
  State.reset.loader = 0 ∧ State.reset.plan.running = [] ∧ State.reset.power = 0 ∧ State.reset.fld .PWR_STATUS 0 0 5 3 = 0 ∧
  State.reset.hm.berths = [] ∧ State.reset.hm.slots = [] ∧ State.reset.hm.dead = [] ∧ State.reset.ep.recs = [] ∧
  State.reset.ep.cache = [] ∧ State.reset.log.queue = [] ∧ State.reset.host.linkUp = false ∧ State.reset.host.mem = [] ∧
  State.reset.bond.lifecycle = 1

/-- The state after reset has a life cycle of Table 11-10, a register file whose addresses strictly rise, and a host
memory whose addresses strictly rise; reading any register of it gives a 32-bit value. (11_bonded_store.md) -/
def Obligations.ResetInvariant : Prop :=
  State.reset.legalLife = true ∧ State.reset.regsWf = true ∧ Map.wf State.reset.host.mem = true
    ∧ ∀ r i j, State.reset.get r i j < 2 ^ 32

/-- For every state s: if step s answers a next state t, then the life cycle of t is that of s or follows it by a
transition of Table 11-11 (FACTORY to DEPLOYED or RETIRED, DEPLOYED to SERVICE or RETIRED, SERVICE to DEPLOYED or
RETIRED); a RETIRED device stays RETIRED; and a legal life cycle stays legal. This ranges over all 261 commands and
the idle tick. (11_bonded_store.md) -/
def Obligations.LifeCycleMoves : Prop :=
  ∀ s t : State, step s = .next t →
    lifeMoves s.bond.lifecycle t.bond.lifecycle = true
      ∧ (s.bond.lifecycle = 4 → t.bond.lifecycle = 4)
      ∧ (s.legalLife = true → t.legalLife = true)

/-- For every state s and every next state t of step s, the queue of t is the queue of s without its front command (and
empty when it was empty). The queue is the block model's own (assumption 1), so no command of the table can touch
it. (00_scope.md; 01_architecture.md) -/
def Obligations.QueueKept : Prop :=
  ∀ s t : State, step s = .next t → t.pending = s.pending.tail

/-- For every command c that is not TIME_SECOND, TIME_STEP, SLEW_COMPLETE, CUSTOMS_SLEW_DONE, PPS_OUT_EDGE,
TRIGGER_INSTANT, SET_TIME, PORST_N, REFCLK_LOSS, BROWNOUT_RESTART or BOOT, and for all states s and t: when exec c s
answers t, the nanosecond count of the timebase in t is that of s. In particular no reset with the scope of SYSRST_N
and no life-cycle transition moves it (Table 18-2). (10_time_gnss.md; 18_power_clocks_reset.md) -/
def Obligations.TimebaseMovers : Prop :=
  ∀ (c : Instr) (s t : State), exec c s = .next t →
    (match c with
     | .timeSecond | .timeStep | .slewComplete | .customsSlewDone | .ppsOutEdge | .triggerInstant _ | .setTime | .porstN _ _ _ | .refclkLoss | .brownoutRestart
     | .boot _ => False
     | _ => True) →
    t.time.ns = s.time.ns

/-- For every state in which a reset other than PORST_N is in progress and GLOBAL.STATUS.ready is 0: REGISTER_WRITE,
INT_REGISTER_WRITE and every row that is a host write of a command register or a doorbell answer the state
unchanged, and REGISTER_READ answers 0 for each dword it touches and changes nothing else (R485).
(20_register_map.md) -/
def Obligations.HostHeldOff : Prop :=
  ∀ s : State, s.hostHeld = true →
    (∀ c : Instr,
      (match c with
       | .registerWrite _ _ | .intRegisterWrite _ _ | .watchdogKick _ | .pwrCmdReset | .applyDelta _ | .dlPop
       | .tugSelftestCmd _ | .functionEnable _ | .functionDisable _ | .abandonNow _ | .doorbellRing _ _
       | .endpointRecordRead _ | .plcEntryRead _ _ | .plcEntrySet _ _ | .plcSoundNow _ | .radioEntryRead _ _
       | .radioEntryPlace _ _ | .radioEntrySched _ _ | .mbxReadBilling | .mbxReadPeriod | .mbxReadProfile | .mbxCalUser _
       | .balQueryGroup _ | .balQueryMember _ | .balSetFlags _ | .balSetBase _ | .balUnbind _ | .stopCmdStop
       | .stopCmdRelease | .stopCmdClear | .craftQuery _ | .setTime | .captPop _ | .bondChallenge
       | .ownerEnterService _ | .ownerRetire _ | .ownerLockSet _ | .ownerLockClear _ | .ownerLoadWrapped _
       | .ownerEraseSlot _ | .ownerLogClear _ | .bondLoadPlain _ _ | .bondGenerate _ | .bondErasePlain _
       | .bondAttest _ _ | .bondSign _ | .bondDeploy _ | .bondExitService _ | .bondRetireFactory _ | .storeHealth
       | .updActivate _ | .updCommit | .updRevert | .jobCancel _ | .dmaChannelGo _ _ | .crHeadWrite _ _
       | .crCfgWrite _ _ _ | .panelRedraw | .logRead | .commitEpoch | .jobCreate _ _ | .pilotDrill _ | .updStage _
       | .storeRead _ _ _ _ | .storeDiscard _ _ | .pwrHoldRun | .pwrReleaseRun | .pwrRestoreFactory _ | .pwrBgNow _ => True
       | _ => False) → exec c s = .next s) ∧
    (∀ addr len, exec (.registerRead addr len) s
      = .next (s.modHost (fun h => { h with readData := (dwordsOf addr len).map (fun _ => 0) })))

/-- For every RW register with no effect beyond its value (the list plainRw), every instance, value and state in which
the host is not held off and no wake is due (power state neither NAP nor, for BAR0, HIBERNATE): a whole-dword write
answers a state in which the register's RW bits are those written and its other bits are as before; every other
register and all other state is unchanged. (00_scope.md; 20_register_map.md) -/
def Obligations.RegisterWriteRw : Prop :=
  ∀ (addr : Nat) (r : Reg) (i j : Nat) (v : Word) (s : State), regAt addr = some (r, i, j) → addr % 4 = 0 → r ∈ plainRw →
    s.hostHeld = false → s.power ≠ 2 → (s.power = 3 → 0x400000 ≤ addr) →
    Answers (exec (.registerWrite addr (toLE 4 v.toNat)) s) (fun t =>
      t.get r i j = ((s.get r i j &&& (2 ^ 32 - 1 - r.desc.rw)) ||| (v.toNat &&& r.desc.rw))
        ∧ t = { s with regs := t.regs } ∧ s.regsBut t [addr])

/-- For every register of which a host writes RWL bits (the list plainRwl), every instance, value and state in which the
host is not held off and no wake is due: when the loader is not in FAILED the write answers the state unchanged;
when it is in FAILED the RWL bits are those written, and every other bit, register and part of the state is as
before (so no function starts). After PORST_N, SYSRST_N or PWR_CMD_RESET the RWL bits are at their reset values
again, whatever they held. (R48) -/
def Obligations.RegisterWriteRwl : Prop :=
  (∀ (addr : Nat) (r : Reg) (i j : Nat) (v : Word) (s : State), regAt addr = some (r, i, j) → addr % 4 = 0 → r ∈ plainRwl →
    s.hostHeld = false → s.power ≠ 2 → s.power ≠ 3 →
    (s.loader ≠ 7 → exec (.registerWrite addr (toLE 4 v.toNat)) s = .next s) ∧
    (s.loader = 7 → Answers (exec (.registerWrite addr (toLE 4 v.toNat)) s) (fun t =>
      t.get r i j = ((s.get r i j &&& (2 ^ 32 - 1 - r.desc.rwl)) ||| (v.toNat &&& r.desc.rwl))
        ∧ t = { s with regs := t.regs } ∧ s.regsBut t [addr]))) ∧
  (∀ (addr : Nat) (r : Reg) (i j : Nat) (s : State), regAt addr = some (r, i, j) → r ∈ plainRwl →
    (∀ core sram off, Answers (exec (.porstN core sram off) s) (fun t => t.get r i j &&& r.desc.rwl = r.resetVal i j &&& r.desc.rwl)) ∧
    (s.power ≠ 4 → s.pwrfail = false →
      Answers (exec .sysrstN s) (fun t => t.get r i j &&& r.desc.rwl = r.resetVal i j &&& r.desc.rwl)) ∧
    (s.hostHeld = false → s.pwr.inReset = false → s.power ≠ 4 → s.flag .PWR_STATUS 0 0 12 = false → s.pwrfail = false →
      Answers (exec .pwrCmdReset s) (fun t => t.get r i j &&& r.desc.rwl = r.resetVal i j &&& r.desc.rwl)))

/-- For every state in which the host is not held off and no wake is due: a whole-dword write to an address that no
register holds, to a register that has no RW, W1C, W1S, WO or RWL bit, or one that does not carry all four bytes of
any dword, answers the state unchanged (R11, R13, R484). (00_scope.md; 20_register_map.md) -/
def Obligations.WritesIgnored : Prop :=
  ∀ (addr : Nat) (s : State), s.hostHeld = false → s.power ≠ 2 → s.power ≠ 3 →
    (∀ v : Word, addr % 4 = 0 → regAt addr = none → exec (.registerWrite addr (toLE 4 v.toNat)) s = .next s) ∧
    (∀ (v : Word) r i j, addr % 4 = 0 → regAt addr = some (r, i, j) → r.desc.rw = 0 → r.desc.w1c = 0 → r.desc.w1s = 0 →
      r.desc.wo = 0 → r.desc.rwl = 0 → r.intOf = none → r ≠ .PLC_SEG_CTL → r ≠ .RADIO_PORT_CTL → r ≠ .WHARF_CTL →
      r ≠ .HM_FUNC_CTL → r ≠ .PANEL_CTL → r ≠ .DMA_CH_CTL → exec (.registerWrite addr (toLE 4 v.toNat)) s = .next s) ∧
    (∀ data : Bytes, data.length ≤ 3 → exec (.registerWrite addr data) s = .next s)

/-- For every state in which the host is not held off and no wake is due, and a naturally aligned read of one dword: an
unassigned address answers 0 and changes nothing else; a register with no latched value answers its value, its RC
bits return to their reset value and every other bit stays, and when it is the low word of a pair the value its high
word has now is latched; while a value is latched for an address, the read answers it and the latch is gone. A
register that is neither RC, nor TIME.NOW_FRAC, nor the low word of a pair leaves all but the data returned as it
was (R11, R13, R14). (00_scope.md; 20_register_map.md) -/
def Obligations.RegisterReads : Prop :=
  ∀ (addr : Nat) (s : State), addr % 4 = 0 → s.hostHeld = false → s.power ≠ 2 → s.power ≠ 3 →
    (regAt addr = none → exec (.registerRead addr 4) s = .next (s.modHost (fun h => { h with readData := [0#32] }))) ∧
    (∀ r i j w, regAt addr = some (r, i, j) → Map.get? s.host.latch addr = some w →
      exec (.registerRead addr 4) s = .next (s.modHost (fun h => { h with readData := [w], latch := Map.del h.latch addr }))) ∧
    (∀ r i j, regAt addr = some (r, i, j) → Map.get? s.host.latch addr = none → r ≠ .TIME_NOW_FRAC →
      Answers (exec (.registerRead addr 4) s) (fun t =>
        t.host.readData = [BitVec.ofNat 32 (s.read r i j)] ∧
        t.get r i j = (if r.desc.rc = 0 then s.get r i j
          else ((s.get r i j &&& (2 ^ 32 - 1 - r.desc.rc)) ||| (r.resetVal i j &&& r.desc.rc)) % 2 ^ 32) ∧
        (∀ h, r.highWord = some h → Map.get? t.host.latch (addr + 4) = some (BitVec.ofNat 32 (s.read h i j))) ∧
        (r.highWord = none → t.host.latch = s.host.latch) ∧
        t = { s with host := t.host, regs := t.regs } ∧ t.host.mem = s.host.mem ∧ s.regsBut t [addr]))

/-- For every INT register (W1C bits, with its INT_EN), every instance and value and every state in which the host is
not held off and no wake is due: the write clears the W1C bits written as 1 and leaves the register's other bits;
when no bit of INT AND INT_EN still reads 1 nothing else changes; when one does, the register's MSI-X vector of
Table 16-2 is sent again (R409): it is the newest of the vectors sent when neither the function mask nor its own
mask bit holds it and the PCIe link is up, and its bit of DMA.PBA is set, with no vector sent, when one of the three
fails. Of the registers only the INT register and that PBA register change, and of the rest of the state only the
list of vectors sent. (00_scope.md; 16_ethernet_pcie_dma.md) -/
def Obligations.IntWrites : Prop :=
  ∀ (addr : Nat) (r : Reg) (i j n : Nat) (v : Word) (s : State), regAt addr = some (r, i, j) → r.desc.w1c ≠ 0 → r.vector i = some n →
    s.hostHeld = false → s.power ≠ 2 → s.power ≠ 3 →
    Answers (exec (.intRegisterWrite addr v) s) (fun t =>
      t = { s with regs := t.regs, host := t.host } ∧
      t.host = { s.host with sent := t.host.sent } ∧
      t.get r i 0 = s.get r i 0 &&& (2 ^ 32 - 1 - (v.toNat &&& r.desc.w1c)) ∧
      (∀ e, r.enableOf = some e → t.get r i 0 &&& s.get e i 0 = 0 → t.host.sent = s.host.sent ∧ s.regsBut t [r.addr i 0]) ∧
      (∀ e, r.enableOf = some e → t.get r i 0 &&& s.get e i 0 ≠ 0 →
        (s.host.msixMasked = false → s.flag .DMA_MSIX_CTRL n 0 0 = false → s.host.linkUp = true →
          t.host.sent = (n :: s.host.sent).take 64 ∧ s.regsBut t [r.addr i 0]) ∧
        ((s.host.msixMasked = true ∨ s.flag .DMA_MSIX_CTRL n 0 0 = true ∨ s.host.linkUp = false) → t.host.sent = s.host.sent ∧ t.flag .DMA_PBA (n / 32) 0 (n % 32) = true
          ∧ s.regsBut t [r.addr i 0, Reg.addr .DMA_PBA (n / 32) 0])))

/-- For every state: PORST_N answers a state in reset with cause 0; loss of REFCLK one with cause 4; a brown-out restart
in POWER_DOWN with HOLDUP_OK high one with cause 5. In each, no plan runs, no manifest is queued or in flight, DDR-5
records are gone, the link is down, every plain RW and RWL register is at its reset value, and the key slots, the
epoch floor, the life cycle and the permanent Logbook records are as they were. When the keepalive clock held a
count of k seconds and ran d seconds on (d = 0 for the last two), the timebase starts at k + d seconds (R294). A
PORST_N that lost VDD_CORE counts a power cycle (R379). (18_power_clocks_reset.md; 10_time_gnss.md;
16_ethernet_pcie_dma.md) -/
def Obligations.FullResets : Prop :=
  ∀ s : State,
    (∀ t : State, (∃ core sram off, exec (.porstN core sram off) s = .next t) ∨ exec .refclkLoss s = .next t
        ∨ (s.power = 4 ∧ s.flag .PWR_STATUS 0 0 9 = true ∧ exec .brownoutRestart s = .next t) →
      t.pwr.inReset = true ∧ t.plan = PlanState.start ∧ t.hm = HmState.start ∧ t.ep.recs = [] ∧ t.host.linkUp = false ∧
      t.bond.slots = s.bond.slots ∧ t.bond.floor = s.bond.floor ∧ t.bond.lifecycle = s.bond.lifecycle ∧
      t.log.permanent = s.log.permanent ∧
      (∀ addr r i j, regAt addr = some (r, i, j) → r ∈ plainRw ∨ r ∈ plainRwl → t.get r i j = r.resetVal i j % 2 ^ 32)) ∧
    (∀ core sram off, Answers (exec (.porstN core sram off) s) (fun t => t.fld .PWR_STATUS 0 0 5 3 = 0 ∧
      (∀ d k, off = some d → s.time.keep = some k → t.time.ns = 1000000000 * (k + d)) ∧
      (core = false → t.log.powerCycles = (s.log.powerCycles + 1) % 2 ^ 32) ∧ (core = true → t.log.powerCycles = s.log.powerCycles))) ∧
    Answers (exec .refclkLoss s) (fun t => t.fld .PWR_STATUS 0 0 5 3 = 4 ∧
      ∀ k, s.time.keep = some k → t.time.ns = 1000000000 * k) ∧
    (s.power = 4 → s.flag .PWR_STATUS 0 0 9 = true → Answers (exec .brownoutRestart s) (fun t => t.fld .PWR_STATUS 0 0 5 3 = 5 ∧
      ∀ k, s.time.keep = some k → t.time.ns = 1000000000 * k))

/-- For every state outside POWER_DOWN in which PWRFAIL_N is not accepted: SYSRST_N answers a state in reset with cause
1; the watchdog, when it counts and its timeout has passed since the last restart, one with cause 2; PWR.CMD RESET,
when no reset runs, no command runs and the host is not held, one with cause 3. In each no plan runs and no manifest
is queued or in flight; DDR-5 endpoint records, key slots, the life cycle, the count of the timebase and the PCIe
link are as they were. Fenced tugs stay fenced after the last two and TUG.FENCED reads its reset value after
SYSRST_N (R79). With PWRFAIL_N accepted SYSRST_N is held until the last gasp ends (R447). (18_power_clocks_reset.md;
03_tug_fleet.md; 10_time_gnss.md) -/
def Obligations.SysResets : Prop :=
  ∀ s : State, s.power ≠ 4 → s.pwrfail = false →
    Answers (exec .sysrstN s) (fun t => t.pwr.inReset = true ∧ t.fld .PWR_STATUS 0 0 5 3 = 1 ∧ t.plan = PlanState.start ∧
      t.hm = HmState.start ∧ t.ep.recs = s.ep.recs ∧ t.bond.slots = s.bond.slots ∧ t.bond.lifecycle = s.bond.lifecycle ∧
      t.time.ns = s.time.ns ∧ t.host.linkUp = s.host.linkUp ∧
      (∀ addr k, regAt addr = some (.TUG_FENCED, k, 0) → t.get .TUG_FENCED k 0 = 0)) ∧
    (s.watching = true → s.pwr.kicked + 1000000 * s.fld .PWR_WDT_CFG 0 0 15 0 ≤ s.time.ns →
      Answers (exec .watchdogReset s) (fun t => t.pwr.inReset = true ∧ t.fld .PWR_STATUS 0 0 5 3 = 2 ∧ t.plan = PlanState.start ∧
      t.hm = HmState.start ∧ t.ep.recs = s.ep.recs ∧ t.bond.slots = s.bond.slots ∧ t.bond.lifecycle = s.bond.lifecycle ∧
      t.time.ns = s.time.ns ∧ t.host.linkUp = s.host.linkUp ∧
      (∀ addr k, regAt addr = some (.TUG_FENCED, k, 0) → t.get .TUG_FENCED k 0 = s.get .TUG_FENCED k 0))) ∧
    (s.hostHeld = false → s.pwr.inReset = false → s.flag .PWR_STATUS 0 0 12 = false →
      Answers (exec .pwrCmdReset s) (fun t => t.pwr.inReset = true ∧ t.fld .PWR_STATUS 0 0 5 3 = 3 ∧ t.plan = PlanState.start ∧
      t.hm = HmState.start ∧ t.ep.recs = s.ep.recs ∧ t.bond.slots = s.bond.slots ∧ t.bond.lifecycle = s.bond.lifecycle ∧
      t.time.ns = s.time.ns ∧ t.host.linkUp = s.host.linkUp ∧
      (∀ addr k, regAt addr = some (.TUG_FENCED, k, 0) → t.get .TUG_FENCED k 0 = s.get .TUG_FENCED k 0)))

/-- For every state in which the host is not held off: a write of 0xC35A to PWR.WDT_KICK restarts the count at the
present instant and changes nothing else but the warning given; any other value changes nothing. For every state:
with the loader outside SEALED or timeout_ms = 0 neither WATCHDOG_HALF nor WATCHDOG_RESET does anything; while the
watchdog counts, once half the timeout has passed since the last restart and no warning was given yet, WATCHDOG_HALF
sets PWR.INT.wdt_warn; once timeout_ms has passed since the last restart WATCHDOG_RESET takes the watchdog reset
(cause 2), and before either instant nothing happens. (R448) -/
def Obligations.Watchdog : Prop :=
  (∀ (v : Word) (s : State), s.hostHeld = false →
    (bits v.toNat 15 0 = 0xC35A → exec (.watchdogKick v) s
      = .next { s with pwr := { s.pwr with kicked := s.time.ns, warned := false } }) ∧
    (bits v.toNat 15 0 ≠ 0xC35A → exec (.watchdogKick v) s = .next s)) ∧
  (∀ s : State, s.loader ≠ 6 ∨ s.fld .PWR_WDT_CFG 0 0 15 0 = 0 → exec .watchdogHalf s = .next s ∧ exec .watchdogReset s = .next s) ∧
  (∀ s : State, s.time.ns < s.pwr.kicked + 500000 * s.fld .PWR_WDT_CFG 0 0 15 0 →
    exec .watchdogHalf s = .next s ∧ exec .watchdogReset s = .next s) ∧
  (∀ s : State, s.time.ns < s.pwr.kicked + 1000000 * s.fld .PWR_WDT_CFG 0 0 15 0 → exec .watchdogReset s = .next s) ∧
  (∀ s : State, s.watching = true → s.pwr.warned = false →
    s.pwr.kicked + 500000 * s.fld .PWR_WDT_CFG 0 0 15 0 ≤ s.time.ns →
    Answers (exec .watchdogHalf s) (fun t => t.flag .PWR_INT 0 0 4 = true ∧ t.pwr = { s.pwr with warned := true }
      ∧ t = { s with pwr := t.pwr, regs := t.regs, host := t.host })) ∧
  (∀ s : State, s.watching = true → s.pwr.kicked + 1000000 * s.fld .PWR_WDT_CFG 0 0 15 0 ≤ s.time.ns →
    Answers (exec .watchdogReset s) (fun t => t.pwr.inReset = true ∧ t.fld .PWR_STATUS 0 0 5 3 = 2))

/-- For every state in reset whose registers do not answer yet, BOOT with a boot stage 1 that verifies answers a state
out of reset in which the host is not held off, and the watchdog's count starts at the present instant; in a state
that is not in reset BOOT changes nothing. For every state, PCIE_RESET takes the link and Bus Master Enable down and
every MSI-X entry and its vector mask to their reset values, and changes nothing but registers and the host
interface, whose memory stays; PCIE_LINK_UP brings the link up with the Bus Master Enable and function mask given,
and changes nothing but registers and the host interface. (18_power_clocks_reset.md; 20_register_map.md;
16_ethernet_pcie_dma.md) -/
def Obligations.BootAndLink : Prop :=
  (∀ (b : BootIn) (s : State), s.pwr.inReset = true → s.flag .GLOBAL_STATUS 0 0 0 = false → b.stage1 = true →
    Answers (exec (.boot b) s) (fun t => t.pwr.inReset = false ∧ t.hostHeld = false ∧ t.pwr.kicked = t.time.ns ∧ t.pwr.warned = false)) ∧
  (∀ (b : BootIn) (s : State), s.pwr.inReset = false → exec (.boot b) s = .next s) ∧
  (∀ s : State, Answers (exec .pcieReset s) (fun t =>
    t.host.linkUp = false ∧ t.host.busMaster = false ∧ t.host.mem = s.host.mem ∧
    (∀ v, v < 512 → t.get .DMA_MSIX_CTRL v 0 = Reg.resetVal .DMA_MSIX_CTRL v 0 ∧ t.get .DMA_MSIX_DATA v 0 = 0
      ∧ t.get .DMA_MSIX_ADDR_LO v 0 = 0 ∧ t.get .DMA_MSIX_ADDR_HI v 0 = 0) ∧
    t = { s with host := t.host, regs := t.regs })) ∧
  (∀ (bm mask : Bool) (s : State), Answers (exec (.pcieLinkUp bm mask) s) (fun t =>
    t.host.linkUp = true ∧ t.host.busMaster = bm ∧ t.host.msixMasked = mask ∧ t.host.mem = s.host.mem ∧
    (mask = true → t.host.sent = s.host.sent ∧ t.regs = s.regs) ∧ t = { s with host := t.host, regs := t.regs }))

/-- For every state in which the host is not held off: COMMIT_EPOCH in SEALED with a running epoch above the floor, and
a floor written fewer than 10,000 times, makes the floor that epoch and changes nothing else; in any other loader
state or with an epoch not above the floor it changes nothing (R42). APPLY_DELTA after a delta that a power failure
cut short reports PARTIAL (0x17) in every state (assumption 20), and otherwise outside SEALED, in a low-power state,
in a plan trial or with PWRFAIL_N accepted BUSY (0x12), with PLAN.INT, and changes nothing but registers and the
host's vectors; with no such ground and a delta whose check passes once the slots of its keys have been used, the
loader is in DELTA_APPLY with the delta's sections to do and no error. A section is applied once every held function
has drained and its quiescent point of Table 2-2 is reached: when it was the last, the loader is in SEALED again,
the serial is the delta's, and no function is held; a section whose functions have not drained, or whose quiescent
point has not come, waits (R51). (02_quay_plan.md) -/
def Obligations.PlanCommands : Prop :=
  (∀ s : State, s.hostHeld = false →
    (s.loader = 6 → s.bond.floor < s.get .PLAN_EPOCH 0 0 → s.bond.floorWrites < 10000 →
      exec .commitEpoch s = .next { s with bond := { s.bond with
        floor := s.get .PLAN_EPOCH 0 0, floorWrites := s.bond.floorWrites + 1 } }) ∧
    (s.loader ≠ 6 ∨ s.get .PLAN_EPOCH 0 0 ≤ s.bond.floor → exec .commitEpoch s = .next s)) ∧
  (∀ (data : Bytes) (s : State), s.hostHeld = false →
    (s.flag .PLAN_STATUS 0 0 9 = false → s.loader ≠ 6 ∨ s.power ≠ 0 ∨ s.bootRec.trial = 2 ∨ s.pwrfail = true →
      Answers (exec (.applyDelta data) s) (fun t => t.get .PLAN_DELTA_ERROR 0 0 = 0x12 ∧ t.flag .PLAN_INT 0 0 1 = true
        ∧ t = { s with regs := t.regs, host := t.host })) ∧
    (s.flag .PLAN_STATUS 0 0 9 = true →
      Answers (exec (.applyDelta data) s) (fun t => t.get .PLAN_DELTA_ERROR 0 0 = 0x17 ∧ t.flag .PLAN_INT 0 0 1 = true
        ∧ t = { s with regs := t.regs, host := t.host }))) ∧
  (∀ (data : Bytes) (s s' : State) (xs : List Section) (n : Nat), s.hostHeld = false → s.loader = 6 → s.power = 0 →
    s.bootRec.trial ≠ 2 → s.pwrfail = false → s.flag .PLAN_STATUS 0 0 9 = false →
    (s.usePlanKeys 1048576 (fit (s.fld .PLAN_DELTA_LEN 0 0 20 0) data)).checkDelta (fit (s.fld .PLAN_DELTA_LEN 0 0 20 0) data) = (s', xs, n, (0, 0)) →
    Answers (exec (.applyDelta data) s) (fun t => t.plan.todo = xs ∧ t.plan.deltaSerial = n ∧ t.plan.deltaCount = xs.length
      ∧ t.loader = 9 ∧ t.get .PLAN_DELTA_ERROR 0 0 = 0)) ∧
  (∀ (s : State) (x : Section), s.plan.todo = [x] → s.loader = 9 → s.hm.held.all (fun f => s.fnLoad f = 0) = true →
    s.quiescent x = true →
    Answers (exec .deltaSectionApply s) (fun t => t.loader = 6 ∧ t.plan.todo = [] ∧ t.hm.held = []
      ∧ t.plan.running = putSection x s.plan.running ∧ t.get .PLAN_SERIAL_LO 0 0 = s.plan.deltaSerial % 2 ^ 32)) ∧
  (∀ s : State, s.plan.todo = [] ∨ s.loader ≠ 9 ∨ s.hm.held.all (fun f => s.fnLoad f = 0) = false ∨
      (∃ x xs, s.plan.todo = x :: xs ∧ s.quiescent x = false) →
    exec .deltaSectionApply s = .next s)

/-- For every state in which no waiting manifest is due to be poisoned (each that failed twice has another enabled dock,
R67), and every tug that may take work, when the dispatcher of its dock picks a berth whose head is m: the tug's
slot is the lowest free number, holds m stamped with that slot, its berth and the tug, not cancelled, not stale,
with nothing loaded or staged; every other slot and every other part of the state but the Harbourmaster's is as
before. A fenced tug, one of a dock that is off or fenced, a busy tug, and any tug while dispatch is off takes
nothing: the state is unchanged (R56, R65, R69). (03_tug_fleet.md) -/
def Obligations.Dispatch : Prop :=
  (∀ (tug step n : Nat) (m : Manifest) (rest : List Manifest) (s : State), s.retryable → s.tugReady tug = true →
    s.pick (tug / 16) = some (step, n) → (s.berth n).sram = m :: rest →
    Answers (exec (.tugDispatch tug) s) (fun t =>
      t.slot? (firstFree 0 s.hm.slots)
        = some ⟨{ m with stage := firstFree 0 s.hm.slots, stageValid := true }, n, some tug, false, false, [], [], 0, Fin.ofNat 16 (tug / 16), 0, 0⟩ ∧
      (∀ k, k ≠ firstFree 0 s.hm.slots → t.slot? k = s.slot? k) ∧ t.hm.dead = s.hm.dead ∧ t = { s with hm := t.hm })) ∧
  (∀ (tug : Nat) (s : State), s.retryable → s.tugFenced tug = true ∨ s.dockUp (tug / 16) = false ∨ (s.slotOfTug tug).isSome = true
    ∨ s.dispatchOn = false → exec (.tugDispatch tug) s = .next s)

/-- For every slot and state: a slot whose manifest has not completed, whose tug still runs, whose turn in its ordered
flow has not come, or any slot with PWRFAIL_N accepted, is not released and nothing changes. A releasable CANCELLED
or POISONED manifest frees its slot and, unless it is a BALANCE one, changes nothing outside the Harbourmaster: its
staged effects are discarded. A releasable stale manifest, of a kind that some tug serves, that R67 does not poison
frees its slot, counts HM.STALE_CNT and heads its berth again with its flow_seq and retry count, and no effect of it
is committed. Otherwise, when every destination has room the slot is freed; when one has not, the manifest keeps its
slot and no record, Customs hand-off or host memory changes (R72 to R75). (03_tug_fleet.md; 01_architecture.md) -/
def Obligations.TallyGate : Prop :=
  (∀ (n : Nat) (s : State), (∀ e, s.slot? n = some e → s.releasable e = false) → exec (.tallyRelease n) s = .next s) ∧
  (∀ (n : Nat) (e : Slot Effect) (s : State), s.slot? n = some e → s.releasable e = true →
    (e.m.status = 4 ∨ e.m.status = 5 →
      Answers (exec (.tallyRelease n) s) (fun t => t.slot? n = none ∧ (e.m.kind ≠ kBalance → t = { s with hm := t.hm }))) ∧
    (e.m.status ≠ 4 → e.m.status ≠ 5 → e.stale = true → s.kindServed e.m.kind = true →
      (e.m.retry = 2 → s.otherDock e.m.lastDock e.m.kind = true) →
      Answers (exec (.tallyRelease n) s) (fun t => t.slot? n = none ∧
        (t.berth e.berth).sram = { e.m with status := 0, stage := 0, stageValid := false } :: (s.berth e.berth).sram ∧
        t.get .HM_STALE_CNT 0 0 = min 0xFFFFFFFF (s.get .HM_STALE_CNT 0 0 + 1) ∧
        t = { s with hm := t.hm, regs := t.regs } ∧ s.regsBut t [Reg.addr .HM_STALE_CNT 0 0])) ∧
    (∀ u, e.m.status ≠ 4 → e.m.status ≠ 5 → e.stale = false → s.commitAll e (inRowOrder e.stage) = .ok u →
      Answers (exec (.tallyRelease n) s) (fun t => t.slot? n = none)) ∧
    (∀ w, e.m.status ≠ 4 → e.m.status ≠ 5 → e.stale = false → s.commitAll e (inRowOrder e.stage) = .error w →
      Answers (exec (.tallyRelease n) s) (fun t => (t.slot? n).map (·.m) = some e.m ∧ t.ep.recs = s.ep.recs
        ∧ t.customs = s.customs ∧ t.host = s.host ∧ t.log = s.log)))

/-- For every unfenced tug that executes the manifest of slot n on its second retry, when the tug fails (local store
error, or its watchdog) while the dead-letter berth holds 1,024 entries or more and the Logbook queue has room: the
manifest is POISONED with retry 3, its tug free and its stage empty, so the tally gate releases it; the dead-letter
berth is as it was; the overflow count goes up by one (to 0xFFFF at most); HM.INT.dl_overflow is set; and a
DL_OVERFLOW record (0x0204) with the manifest's flow is in the Logbook queue. (R63) -/
def Obligations.ThirdFailure : Prop :=
  ∀ (tug n : Nat) (e : Slot Effect) (s : State), tug < 256 → s.tugFenced tug = false → s.slotOfTug tug = some n →
    s.slot? n = some e → e.cancelled = false → e.m.retry = 2 → 1024 ≤ s.hm.dead.length → s.log.queue.length < 60 →
    ∀ t : State, exec (.tugFailure tug 1) s = .next t ∨ exec (.tugWatchdogExpire tug) s = .next t →
      (∃ e', t.slot? n = some e' ∧ e'.m.status = 5 ∧ e'.m.retry = 3 ∧ e'.tug = none ∧ e'.stage = []) ∧
      t.hm.dead = s.hm.dead ∧ t.hm.dlOverflow = min 0xFFFF (s.hm.dlOverflow + 1) ∧ t.flag .HM_INT 0 0 2 = true ∧
      (∃ x ∈ t.log.queue, x.code = 0x0204 ∧ x.detail = e.m.flow % 2 ^ 32)

/-- For every unfenced tug below 256: a local-store failure with no manifest in execution fences it and records the
cause; with a manifest on its first try, the manifest heads its berth again with retry 1 and the failing dock as its
last dock, and its slot is free; with a manifest on its second retry and room in the dead-letter berth, a copy with
retry 3, status POISONED and the failing dock as its last dock is the newest entry there. TUG.FAIL_LAST names tug,
cause and kind, and the tug is fenced. A tug watchdog acts so with cause 3, and does nothing when the tug executes
no manifest. A dock-memory failure (cause 2) in a dock that is not fenced and has retired fewer than 32 lines
retires one more line (R76 to R78). (03_tug_fleet.md) -/
def Obligations.TugFailures : Prop :=
  (∀ (tug : Nat) (s : State), tug < 256 → s.tugFenced tug = false → s.slotOfTug tug = none →
    Answers (exec (.tugFailure tug 1) s) (fun t => t.tugFenced tug = true ∧ t.get .TUG_FAIL_LAST 0 0 = tug + 256 ∧
      t.hm = { s.hm with starved := t.hm.starved }) ∧
    exec (.tugWatchdogExpire tug) s = .next s ∧
    (s.fld .TUG_DOCK_CFG (tug / 16) 0 11 6 < 32 → s.flag .TUG_DOCK_CFG (tug / 16) 0 5 = false → Answers (exec (.tugFailure tug 2) s) (fun t => t.tugFenced tug = true ∧
      t.fld .TUG_DOCK_CFG (tug / 16) 0 11 6 = s.fld .TUG_DOCK_CFG (tug / 16) 0 11 6 + 1))) ∧
  (∀ (tug n : Nat) (e : Slot Effect) (s : State), tug < 256 → s.tugFenced tug = false → s.slotOfTug tug = some n →
    s.slot? n = some e → e.cancelled = false → e.m.kind < 64 →
    (e.m.retry = 0 → Answers (exec (.tugWatchdogExpire tug) s) (fun t => t.tugFenced tug = true ∧ t.slot? n = none ∧
      t.get .TUG_FAIL_LAST 0 0 = tug + 3 * 256 + e.m.kind * 2 ^ 11 ∧
      (t.berth e.berth).sram =
        { e.m with retry := 1, lastDock := tug / 16, lastDockValid := true, stage := 0, stageValid := false, status := 0 }
          :: (s.berth e.berth).sram)) ∧
    (e.m.retry = 2 → s.hm.dead.length < 1024 → Answers (exec (.tugFailure tug 1) s) (fun t => t.tugFenced tug = true ∧
      t.hm.dead = s.hm.dead ++ [{ e.m with retry := 3, status := 5, lastDock := tug / 16, lastDockValid := true, stage := 0, stageValid := false }] ∧
      t.flag .HM_INT 0 0 1 = true)))

/-- For every state in which the host is not held off: DL_POP removes the oldest entry of the dead-letter berth and
changes nothing else; a TUG.SELFTEST_CMD naming a fenced tug, or all, with no test running puts the fenced tugs
concerned under test and sets the busy bit, and naming an unfenced tug it changes nothing. For every state: when the
tug under test passes, it is no longer fenced and the result reads PASS; when it fails it stays fenced, the result
reads FAIL, FAIL_LAST has cause 4 and HM.INT.tug_fenced is set; with no test running the end of one changes nothing
(R63, R79). (03_tug_fleet.md) -/
def Obligations.FleetCommands : Prop :=
  (∀ s : State, s.hostHeld = false → exec .dlPop s = .next { s with hm := { s.hm with dead := s.hm.dead.drop 1 } }) ∧
  (∀ (v : Word) (s : State), s.hostHeld = false → s.hm.testQueue = [] →
    (bit v.toNat 8 = false → s.tugFenced (bits v.toNat 7 0) = true → Answers (exec (.tugSelftestCmd v) s) (fun t =>
      t.hm.testQueue = [bits v.toNat 7 0] ∧ t.flag .TUG_FLEET_STATUS 0 0 18 = true ∧ t = { s with hm := t.hm, regs := t.regs })) ∧
    (bit v.toNat 8 = true → (List.range 256).filter s.tugFenced ≠ [] → Answers (exec (.tugSelftestCmd v) s) (fun t =>
      t.hm.testQueue = (List.range 256).filter s.tugFenced ∧ t.flag .TUG_FLEET_STATUS 0 0 18 = true)) ∧
    (bit v.toNat 8 = false → s.tugFenced (bits v.toNat 7 0) = false → exec (.tugSelftestCmd v) s = .next s)) ∧
  (∀ (u : Nat) (rest : List Nat) (s : State), s.hm.testQueue = u :: rest → u < 256 →
    Answers (exec (.tugSelftestDone true) s) (fun t => t.tugFenced u = false ∧
      t.get .TUG_SELFTEST_RESULT 0 0 = u + 2 ^ 8 ∧ t.hm.testQueue = rest ∧ t = { s with hm := t.hm, regs := t.regs }) ∧
    Answers (exec (.tugSelftestDone false) s) (fun t => t.tugFenced u = s.tugFenced u ∧ t.hm.testQueue = rest ∧
      t.flag .HM_INT 0 0 0 = true ∧
      t.get .TUG_SELFTEST_RESULT 0 0 = u + 2 * 2 ^ 8 ∧ t.get .TUG_FAIL_LAST 0 0 = u + 4 * 2 ^ 8)) ∧
  (∀ (b : Bool) (s : State), s.hm.testQueue = [] → exec (.tugSelftestDone b) s = .next s)

/-- For every function ID up to 0x16 and state: an enable, with the host not held off, in service, the function present,
the chip not standby, the function not held and OFF, makes it RUNNING. A disable of a RUNNING function under a drain
policy with a timeout closes its intake in the same step (no berth of it is open) and makes it BUSY_DRAIN, noting
the instant and changing nothing but its HM.FUNC_CTL; under the abandon policy it is ABANDONING. abandon_now in
BUSY_DRAIN, and the end of its timeout with manifests left, make it ABANDONING with every manifest of it in flight
cancelled, and the timeout sets HM.INT; abandon_now in any other state changes nothing. A function that drains or
abandons with no manifest left, and is not held, is OFF with its enable clear (a segment or port stays OFF where no
update restarts the signal block). (03_tug_fleet.md) -/
def Obligations.FunctionEnables : Prop :=
  ∀ (fn : Nat) (s : State), fn ≤ 0x16 →
    (s.hostHeld = false → s.inService = true → s.fnPresent fn = true → s.standby = false → s.hm.held.contains fn = false →
      s.fnState fn = 0 → Answers (exec (.functionEnable fn) s) (fun t => t.fnState fn = 1 ∧ t.flag .HM_FUNC_CTL fn 0 0 = true)) ∧
    (s.hostHeld = false → s.hm.held.contains fn = false → s.fnState fn = 1 → s.flag .HM_FUNC_CTL fn 0 1 = false →
      s.fld .HM_FUNC_CTL fn 0 31 16 ≠ 0 → Answers (exec (.functionDisable fn) s) (fun t => t.fnState fn = 2 ∧
        (∀ n, s.berthFn n = fn → t.berthOpen n = false) ∧ Map.get? t.hm.drainAt fn = some s.time.ns ∧
        t = { s with regs := t.regs, hm := { s.hm with drainAt := t.hm.drainAt } } ∧
        s.regsBut t [Reg.addr .HM_FUNC_CTL fn 0])) ∧
    (s.hostHeld = false → s.hm.held.contains fn = false → s.fnState fn = 1 → s.flag .HM_FUNC_CTL fn 0 1 = true →
      Answers (exec (.functionDisable fn) s) (fun t => t.fnState fn = 3)) ∧
    (s.hostHeld = false → s.fnState fn = 2 → Answers (exec (.abandonNow fn) s) (fun t => t.fnState fn = 3 ∧
      t.flag .HM_FUNC_CTL fn 0 2 = true)) ∧
    (s.hostHeld = false → s.fnState fn ≠ 2 → exec (.abandonNow fn) s = .next s) ∧
    (s.fnState fn = 2 → s.fnLoad fn ≠ 0 →
      Map.getD s.hm.drainAt fn 0 + 1000000 * s.fld .HM_FUNC_CTL fn 0 31 16 ≤ s.time.ns → Answers (exec (.drainTimeout fn) s) (fun t => t.fnState fn = 3 ∧
      t.flag .HM_INT 0 0 4 = true)) ∧
    (s.time.ns < Map.getD s.hm.drainAt fn 0 + 1000000 * s.fld .HM_FUNC_CTL fn 0 31 16 → exec (.drainTimeout fn) s = .next s) ∧
    (s.hm.held.contains fn = false → s.fnState fn = 2 ∨ s.fnState fn = 3 → s.fnLoad fn = 0 →
      (s.upd.restarting = true → fn = 0 ∨ 0xC < fn) →
      Answers (exec (.functionOff fn) s) (fun t => t.fnState fn = 0 ∧ t.flag .HM_FUNC_CTL fn 0 0 = false))

/-- For every berth below 4096 and state: with the host not held off, a count of 1 to 64 and busy clear, DB_COUNT starts
a ring: DB_STATUS reads busy alone and count manifests are to come; any other count, or busy set, changes nothing.
For a ring in progress, with the PCIe link up and Bus Master Enable set, a fetched manifest that no check refuses
enters the berth, whose depth goes up by one, and accepted goes up by one (modulo 128); after the last one busy is
clear and reason is 0, else one fewer is to come. A manifest that a check refuses enters nothing: the ring ends with
its reason, busy is clear, and no berth, record or free value has changed (R410, R411). While the link is down or
Bus Master Enable is 0 the ring waits: nothing changes (R408). (16_ethernet_pcie_dma.md; 03_tug_fleet.md) -/
def Obligations.Doorbells : Prop :=
  (∀ (b count : Nat) (s : State), b < 4096 → s.hostHeld = false →
    (1 ≤ count → count ≤ 64 → s.flag .BAR2_DB_STATUS b 0 31 = false → Answers (exec (.doorbellRing b count) s) (fun t =>
      t.get .BAR2_DB_STATUS b 0 = 2 ^ 31 ∧ Map.get? t.host.rings410 b = some count ∧
      t = { s with regs := t.regs, host := { s.host with rings410 := t.host.rings410 } } ∧
      s.regsBut t [Reg.addr .BAR2_DB_STATUS b 0])) ∧
    (count = 0 ∨ 64 < count ∨ s.flag .BAR2_DB_STATUS b 0 31 = true → exec (.doorbellRing b count) s = .next s)) ∧
  (∀ (b left : Nat) (ok : Bool) (man buf : Bytes) (s : State), b < 4096 → Map.get? s.host.rings410 b = some left →
    s.host.linkUp = true → s.host.busMaster = true →
    (s.ringReason b ok ((List.range 8).map (fun i => leAt man (4 * i) 4))
        (Manifest.ofWords ((List.range 8).map (fun i => leAt man (4 * i) 4)) []) = 0 →
      Answers (exec (.doorbellEntry b ok man buf) s) (fun t => (t.berth b).depth = (s.berth b).depth + 1 ∧
        t.fld .BAR2_DB_STATUS b 0 6 0 = (s.fld .BAR2_DB_STATUS b 0 6 0 + 1) % 128 ∧
        (left ≤ 1 → t.flag .BAR2_DB_STATUS b 0 31 = false ∧ t.fld .BAR2_DB_STATUS b 0 11 8 = 0) ∧
        (1 < left → Map.get? t.host.rings410 b = some (left - 1)))) ∧
    (∀ r, r ≠ 0 → s.ringReason b ok ((List.range 8).map (fun i => leAt man (4 * i) 4))
        (Manifest.ofWords ((List.range 8).map (fun i => leAt man (4 * i) 4)) []) = r →
      Answers (exec (.doorbellEntry b ok man buf) s) (fun t => t.hm = s.hm ∧ t.ep = s.ep ∧ t.free = s.free ∧
        t.fld .BAR2_DB_STATUS b 0 11 8 = r % 16 ∧ t.flag .BAR2_DB_STATUS b 0 31 = false))) ∧
  (∀ (b : Nat) (ok : Bool) (man buf : Bytes) (s : State), Map.get? s.host.rings410 b = none ∨ s.host.linkUp = false ∨ s.host.busMaster = false →
    exec (.doorbellEntry b ok man buf) s = .next s)

/-- For every FIFO below 24 whose oldest packet may be taken (the channel's other FIFO is not due, the payload pool has
room): the packet leaves the FIFO, whose read pointer moves by the packet's words modulo 2,048, every other FIFO is
as it was, and when its route leads to an open berth with room and admission sheds nothing (level 0) that berth
holds one manifest more; berths that its route does not lead to are as they were, and of the rest of the state only
registers, vectors sent, Logbook events, back-pressure, group acknowledgements, the Harbourmaster and free values
may change. A packet whose channel owes the other FIFO a turn, or for which the pool has no room, waits: nothing
changes; nor does anything for an empty FIFO or one of 24 or more (R421). The admission level goes up by one, with
EP.INT, when the load reaches the upper threshold and the level is below its limit; otherwise down by one, with
EP.INT, when the load is at or below the lower threshold and the level is above 0; and otherwise nothing changes
(R117). A source whose last shed or refusal is bp_hold ms past is no longer under back-pressure, and neither another
source nor anything else changes; before that, and for a source not under it, nothing changes (R118).
(16_ethernet_pcie_dma.md; 04_endpoint_pipeline.md; 03_tug_fleet.md) -/
def Obligations.Intake : Prop :=
  (∀ (n : Nat) (p : Packet) (rest : List Packet) (s : State), n < 24 → (s.fifo n).packets = p :: rest →
    (Map.get? s.dma.served (n / 2) ≠ some n ∨ (s.fifo (if n % 2 = 0 then n + 1 else n - 1)).packets = []) →
    ceilDiv p.data.length 64 + s.poolUsed ≤ 8192 →
    Answers (exec (.dmaFifoPacket n) s) (fun t => (t.fifo n).packets = rest ∧ (t.fifo n).rptr = ((s.fifo n).rptr + p.words) % 2 ^ 11 ∧
      (∀ b, s.route p.arr.cls p.kind p.arr.idx p.flow = some b → s.ep.level = 0 → s.berthOpen b = true →
        (s.berth b).depth < s.berthCap b → (t.berth b).depth = (s.berth b).depth + 1) ∧
      (∀ b, s.route p.arr.cls p.kind p.arr.idx p.flow ≠ some b → t.berth b = s.berth b) ∧
      (∀ k, k ≠ n → t.fifo k = s.fifo k) ∧
      t = { s with
        dma := t.dma, hm := t.hm, regs := t.regs, host := { s.host with sent := t.host.sent }, log := t.log,
        ep := { s.ep with bp := t.ep.bp }, radio := t.radio, free := t.free })) ∧
  (∀ (n : Nat) (p : Packet) (rest : List Packet) (s : State), (s.fifo n).packets = p :: rest →
    (Map.get? s.dma.served (n / 2) = some n ∧ (s.fifo (if n % 2 = 0 then n + 1 else n - 1)).packets ≠ []) ∨
      (0 < ceilDiv p.data.length 64 ∧ 8192 < ceilDiv p.data.length 64 + s.poolUsed) →
    exec (.dmaFifoPacket n) s = .next s) ∧
  (∀ (n : Nat) (s : State), 24 ≤ n ∨ (s.fifo n).packets = [] → exec (.dmaFifoPacket n) s = .next s) ∧
  (∀ s : State,
    (s.fld .EP_ADMIT_CFG 0 0 15 0 * 1024 ≤ s.load → s.ep.level < s.fld .EP_ADMIT_CFG2 0 0 2 0 →
      Answers (exec .admissionUpdate s) (fun t => t.ep = { s.ep with level := s.ep.level + 1 } ∧ t.flag .EP_INT 0 0 0 = true ∧
        t = { s with ep := t.ep, regs := t.regs, host := { s.host with sent := t.host.sent } } ∧
        s.regsBut t (Reg.addr .EP_INT 0 0 :: noteRegs))) ∧
    (s.load < s.fld .EP_ADMIT_CFG 0 0 15 0 * 1024 ∨ s.fld .EP_ADMIT_CFG2 0 0 2 0 ≤ s.ep.level →
      s.load ≤ s.fld .EP_ADMIT_CFG 0 0 31 16 * 1024 → 0 < s.ep.level →
      Answers (exec .admissionUpdate s) (fun t => t.ep = { s.ep with level := s.ep.level - 1 } ∧ t.flag .EP_INT 0 0 0 = true ∧
        t = { s with ep := t.ep, regs := t.regs, host := { s.host with sent := t.host.sent } } ∧
        s.regsBut t (Reg.addr .EP_INT 0 0 :: noteRegs))) ∧
    (s.load < s.fld .EP_ADMIT_CFG 0 0 15 0 * 1024 ∨ s.fld .EP_ADMIT_CFG2 0 0 2 0 ≤ s.ep.level →
      s.fld .EP_ADMIT_CFG 0 0 31 16 * 1024 < s.load ∨ s.ep.level = 0 → exec .admissionUpdate s = .next s)) ∧
  (∀ (cls idx : Nat) (s : State),
    (∀ t0, Map.get? s.ep.bp (1024 * cls + idx) = some t0 → t0 + 1000000 * s.fld .EP_ADMIT_CFG2 0 0 15 8 ≤ s.time.ns →
      Answers (exec (.backpressureHoldEnd cls idx) s) (fun t => Map.get? t.ep.bp (1024 * cls + idx) = none ∧
        (∀ k, k ≠ 1024 * cls + idx → Map.get? t.ep.bp k = Map.get? s.ep.bp k) ∧
        t = { s with ep := { s.ep with bp := t.ep.bp } })) ∧
    (∀ t0, Map.get? s.ep.bp (1024 * cls + idx) = some t0 → s.time.ns < t0 + 1000000 * s.fld .EP_ADMIT_CFG2 0 0 15 8 →
      exec (.backpressureHoldEnd cls idx) s = .next s) ∧
    (Map.get? s.ep.bp (1024 * cls + idx) = none → exec (.backpressureHoldEnd cls idx) s = .next s))

/-- For every slot and state in which the slot executes a manifest of the kind: a device-made TARIFF of a manager
completes OK and stages the hand-off of its payload with the serial of its record; PROFILE an append of its payload
to PROFILE for its EPX; ALARM and HOST_MSG a host message with the payload unchanged, and for an INSTALL
EP.INT.install with it; TELEMETRY and SCRUB_REPORT one host message (its content is the model's free value,
assumption 2); LOG_SNAP a Logbook record 0x1302 with the list of its kind_arg; PANEL_UPDATE the target row of a
64-byte payload, the row unchanged for an empty one, and is REJECTED for any other length. A host-rung TARIFF,
PROFILE, ALARM or HOST_MSG completes REJECTED and stages nothing. In worker role a device-made TARIFF or PROFILE
completes REJECTED with a result REFUSED for its manager (R359). Nothing else changes: all other effects wait for
the release (R17, R104, R111, R212, R359, R381, R435, R491, R492). (04_endpoint_pipeline.md; 01_architecture.md;
14_logbook.md; 17_panel.md; 13_wharf_pilot.md) -/
def Obligations.ChainEnds : Prop :=
  (∀ (k : Nat) (m : Manifest) (s : State), s.runs k kTariff m →
    (m.srcClass = 0 → Works (exec (.tariff k) s) s k stRejected []) ∧
    (m.srcClass ≠ 0 → s.workerRole = false →
      Works (exec (.tariff k) s) s k stOk [.customs ⟨(s.record m.epx).serial, m.buf⟩]) ∧
    (m.srcClass ≠ 0 → s.workerRole = true → Works (exec (.tariff k) s) s k stRejected (roleRefusal m))) ∧
  (∀ (k : Nat) (m : Manifest) (s : State), s.runs k kProfile m →
    (m.srcClass = 0 → Works (exec (.profile k) s) s k stRejected []) ∧
    (m.srcClass ≠ 0 → s.workerRole = false → Works (exec (.profile k) s) s k stOk [.append 2 m.epx m.buf]) ∧
    (m.srcClass ≠ 0 → s.workerRole = true → Works (exec (.profile k) s) s k stRejected (roleRefusal m))) ∧
  (∀ (k : Nat) (m : Manifest) (s : State), s.runs k kAlarm m →
    Works (exec (.alarm k) s) s k (if m.srcClass = 0 then stRejected else stOk)
      (if m.srcClass = 0 then [] else [.hostMsg m.buf])) ∧
  (∀ (k : Nat) (m : Manifest) (s : State), s.runs k kHostMsg m → s.workerRole = false →
    Works (exec (.hostMsg k) s) s k (if m.srcClass = 0 then stRejected else stOk)
      (if m.srcClass = 0 then [] else .hostMsg m.buf :: (if isInstall m then [.intr .EP_INT 0 3] else []))) ∧
  (∀ (k : Nat) (m : Manifest) (s : State), s.runs k kTelemetry m →
    ∃ body, Works (exec (.telemetry k) s) s k stOk [.hostMsg body]) ∧
  (∀ (k : Nat) (m : Manifest) (s : State), s.runs k kScrubReport m →
    ∃ body, Works (exec (.scrubReport k) s) s k stOk [.hostMsg body]) ∧
  (∀ (k : Nat) (m : Manifest) (s : State), s.runs k kLogSnap m →
    Works (exec (.logSnap k) s) s k stOk [.log 0x1302 (m.kindArg % 32) m.srcIndex (some (m.kindArg % 32))]) ∧
  (∀ (k : Nat) (m : Manifest) (s : State), s.runs k kPanelUpdate m →
    (m.length = 64 → Works (exec (.panelUpdate k) s) s k stOk [.row (.panel (some (leAt m.buf 0 64)))]) ∧
    (m.length = 0 → Works (exec (.panelUpdate k) s) s k stOk [.row (.panel none)]) ∧
    (m.length ≠ 64 → m.length ≠ 0 → Works (exec (.panelUpdate k) s) s k stRejected []))

/-- For every slot that executes the kind over a record whose bytes are good, where a use of the ROOT slot fails no tag
check (R311): FRAME_IN completes OK and stages OPEN as its one effect when the checks of Table 4-5 hold, and
REJECTED with EP.HDR_REJ_CNT when one fails; in worker role it stages the envelope for the manager; over a record
whose bytes fail it is REJECTED and stages R92's effects. OPEN stages REPLAY with header and plaintext when the tag
verifies, and is REJECTED with EP.AUTH_FAIL_CNT when it does not or when no key can be had. REPLAY is REJECTED with
EP.REPLAY_REJ_CNT when the window refuses the counter or rx_high is 0xFFFF_FFFF, and else OK, its first effect the
record with the window moved; on the record's own link with VEE running the only further effects are VEE and R103's
bit. VEE is REJECTED on a payload that does not parse, and else OK, its first effect the record write-back. An OPEN,
REPLAY or VEE that the host rang is REJECTED with no effect, and a device-made one in worker role with a result
REFUSED. An accepted JOIN writes back a record that is JOINED at the JOIN's epoch (R92, R100, R101, R103, R104,
R108, R359). (04_endpoint_pipeline.md; 01_architecture.md; 13_wharf_pilot.md) -/
def Obligations.ReadingChain : Prop :=
  (∀ (k : Nat) (m : Manifest) (s : State), s.runs k kFrameIn m →
    (s.workerRole = false → s.recGone m.epx = false →
      Works (exec (.frameIn k) s) s k (if frameOk m (s.record m.epx) then stOk else stRejected)
        (if frameOk m (s.record m.epx) then [followEp kFrameIn kOpen 0 m.epx m.buf m.arrival] else [countFx .EP_HDR_REJ_CNT])) ∧
    (s.workerRole = false → s.recGone m.epx = true → Works (exec (.frameIn k) s) s k stRejected (lostEffects m.epx)) ∧
    (s.workerRole = true → m.srcClass ≠ 0 → Works (exec (.frameIn k) s) s k stOk [upItem m])) ∧
  (∀ (k : Nat) (m : Manifest) (s : State) (r : EpRec) (key : Bytes), s.runs k kOpen m → m.srcClass ≠ 0 → s.workerRole = false →
    s.recGone m.epx = false → s.record m.epx = r → s.rootServes →
    ((s.loadRec m.epx).epKey m.epx r 1 (r.keyEpoch - r.keyEpoch % 256 + envEpoch m.buf)).2 = some key →
    (∀ p, Config.ccmOpen key (ccmNonce r.serial (envCounter m.buf) (leAt m.buf 0 1)) (m.buf.take 12) (m.buf.drop 12) = some p →
      Works (exec (.openEnv k) s) s k stOk [followEp kOpen kReplay 0 m.epx (m.buf.take 12 ++ p) m.arr]) ∧
    (Config.ccmOpen key (ccmNonce r.serial (envCounter m.buf) (leAt m.buf 0 1)) (m.buf.take 12) (m.buf.drop 12) = none →
      Works (exec (.openEnv k) s) s k stRejected [countFx .EP_AUTH_FAIL_CNT])) ∧
  (∀ (k : Nat) (m : Manifest) (s : State) (r : EpRec), s.runs k kOpen m → m.srcClass ≠ 0 → s.workerRole = false →
    s.recGone m.epx = false → s.record m.epx = r → s.rootServes →
    ((s.loadRec m.epx).epKey m.epx r 1 (r.keyEpoch - r.keyEpoch % 256 + envEpoch m.buf)).2 = none →
    Works (exec (.openEnv k) s) s k stRejected [countFx .EP_AUTH_FAIL_CNT]) ∧
  (∀ (k : Nat) (m : Manifest) (s : State) (r : EpRec), s.runs k kReplay m → m.srcClass ≠ 0 → s.workerRole = false →
    s.recGone m.epx = false → s.record m.epx = r →
    (checkCounter r (envCounter m.buf) = none ∨ r.rxHigh = 0xFFFFFFFF →
      Works (exec (.replay k) s) s k stRejected [countFx .EP_REPLAY_REJ_CNT]) ∧
    (∀ r1, r.rxHigh ≠ 0xFFFFFFFF → checkCounter r (envCounter m.buf) = some r1 → ∃ r2 fx, r2.rxHigh = r1.rxHigh ∧ r2.rxMap = r1.rxMap ∧
      Works (exec (.replay k) s) s k stOk (.row (.ep m.epx r2) :: fx) ∧
      (r.onLink { m.arr with sec := s.fullSec 28 m.arr.sec } = true → s.fnRunning 0x10 = true →
        fx = rekeyIntr r r2 ++ [followEp kReplay kVee 0 m.epx m.buf m.arr]))) ∧
  (∀ (k : Nat) (m : Manifest) (s : State), s.runs k kVee m → m.srcClass ≠ 0 → s.workerRole = false → s.recGone m.epx = false →
    (readRecs (s.record m.epx).cls (m.buf.drop 12) = none → Works (exec (.vee k) s) s k stRejected []) ∧
    (∀ rs, readRecs (s.record m.epx).cls (m.buf.drop 12) = some rs → ∃ r' fx, Works (exec (.vee k) s) s k stOk (.row (.ep m.epx r') :: fx))) ∧
  (∀ (c : Nat → Instr) (kind k : Nat) (m : Manifest) (s : State),
    (kind, c) ∈ [(kOpen, Instr.openEnv), (kReplay, .replay), (kVee, .vee)] → s.runs k kind m →
    (m.srcClass = 0 → Works (exec (c k) s) s k stRejected []) ∧
    (m.srcClass ≠ 0 → s.workerRole = true → Works (exec (c k) s) s k stRejected (roleRefusal m))) ∧
  (∀ (k : Nat) (m : Manifest) (s : State) (r r1 : EpRec) (epoch : Nat) (opens : Bool) (key p : Bytes), s.runs k kRejoin m →
    s.workerRole = false → s.recGone m.epx = false → s.record m.epx = r →
    (envType m.buf ≠ 1 → Works (exec (.rejoin k) s) s k stRejected [countFx .EP_AUTH_FAIL_CNT]) ∧
    (envType m.buf = 1 → envTag m.buf = m.epx → m.buf.length = 28 + envLen m.buf → leAt m.buf 12 8 = r.serial →
      joinEpoch r (envEpoch m.buf) = some (epoch, opens) → s.rootServes → ((s.loadRec m.epx).epKey m.epx r 1 epoch).2 = some key →
      Config.ccmOpen key (ccmNonce r.serial (envCounter m.buf) (leAt m.buf 0 1)) (m.buf.take 20) (m.buf.drop 20) = some p →
      acceptJoin r epoch opens (envCounter m.buf) = some r1 →
      ∃ r3 fx, r3.state = 2 ∧ r3.keyEpoch = epoch ∧ r3.serial = r.serial ∧
        Works (exec (.rejoin k) s) s k stOk (.row (.ep m.epx r3) :: fx)))

/-- For every slot that executes a well-formed COMMAND of the op for a record that is JOINED or PROVISIONED, with a cell
for its argument: with no entry of the same object and window and a free place, it completes OK and stages the
record with the command in the first free place (and on a radio link its issue marker). With a conflicting entry of
lower issuer priority the newcomer takes its place and the old one is reported SUPERSEDED with a conflict record,
count and interrupt; with one of equal or higher priority the newcomer is CONFLICT and the record is not written.
With no free place, and for a record that is EMPTY or RETIRED, it is REJECTED with result REFUSED. DLMS conflicts
with nothing. Nothing else changes before the release (R112, R114, R115). (04_endpoint_pipeline.md) -/
def Obligations.StoredCommands : Prop :=
  ∀ (op : Nat) (c : Nat → Instr) (k : Nat) (m : Manifest) (s : State) (r : EpRec) (cell : Nat) (p : Pend),
    (op, c) ∈ [(0x01, Instr.cmdConnect), (0x02, .cmdDisconnect), (0x03, .cmdTariffPush), (0x04, .cmdRead), (0x05, .cmdDlms)] →
    s.runs k kCommand m → m.kindArg % 256 = op → m.epxValid = true → s.workerRole = false → blockOk op m.buf = true →
    s.recGone m.epx = false → s.record m.epx = r →
    (if leAt m.buf 8 2 = 0 then some 0xFFFFFFFF else firstFit s.argCells (ceilDiv (leAt m.buf 8 2) 64) s.argUsed) = some cell →
    p = ⟨leAt m.buf 0 4, s.windowOf r (s.stampNs m), leAt m.buf 4 2, leAt m.buf 6 2, op, s.issuerPrio (leAt m.buf 4 2),
      slice m.buf 16 (leAt m.buf 8 2), cell⟩ →
    (r.state = 0 ∨ r.state = 3 → Works (exec (c k) s) s k stRejected [resultFx p.cmdId m.epx 5]) ∧
    (r.state ≠ 0 → r.state ≠ 3 →
      ((∀ e ∈ r.pend.filterMap id, conflicts e p = false) →
        (∀ i, findIdx? Option.isNone r.pend = some i → Works (exec (c k) s) s k stOk
          (.row (.ep m.epx { r with pend := r.pend.set i (some p) }) :: markerFx m.epx r p.window)) ∧
        ((∀ x ∈ r.pend, x ≠ none) → Works (exec (c k) s) s k stRejected [resultFx p.cmdId m.epx 5])) ∧
      (∀ old rest, r.pend = some old :: rest → conflicts old p = true →
        (old.prio < p.prio → Works (exec (c k) s) s k stOk
          (.row (.ep m.epx { r with pend := some p :: rest }) :: (markerFx m.epx r p.window
            ++ [resultFx old.cmdId m.epx 3, .log 0x0501 p.cmdId old.cmdId none, countFx .EP_CONFLICT_CNT, .intr .EP_INT 0 2]))) ∧
        (p.prio ≤ old.prio → Works (exec (c k) s) s k stConflict
          [resultFx p.cmdId m.epx 3, .log 0x0501 old.cmdId p.cmdId none, countFx .EP_CONFLICT_CNT, .intr .EP_INT 0 2])))

/-- For every slot that executes the well-formed op for a record with good bytes, where a use of the ROOT slot fails no
tag check: CANCEL of an entry of a JOINED or PROVISIONED record frees its place, reports it CANCELLED and itself
DONE; one that names no entry is refused. PROVISION for an EMPTY or RETIRED record, with class, link type and link
fields in range, stages a PROVISIONED record with the argument's serial, link and groups, and its result DONE is
staged last. DEPROVISION of a record neither EMPTY nor RETIRED stages it RETIRED with its link cleared, no entry
pending, the end of its entry and the CLOSE hand-off, and reports every pending entry CANCELLED and itself DONE. An
ISSUE with nothing pending stages nothing for a record that is not JOINED or whose transmit counter is spent, and
for a JOINED one, whose downlink can be sealed, a CONFIRM for its link; when its key request fails it is REJECTED
with no effect. All else waits for the release (R102, R103, R112, R116, R318). (04_endpoint_pipeline.md) -/
def Obligations.RecordCommands : Prop :=
  (∀ (k i : Nat) (m : Manifest) (s : State) (r : EpRec) (e : Pend), s.runs k kCommand m → m.kindArg % 256 = 6 → m.epxValid = true →
    s.workerRole = false → blockOk 6 m.buf = true → s.recGone m.epx = false → s.record m.epx = r → r.state = 1 ∨ r.state = 2 →
    ((∀ x ∈ r.pend.filterMap id, x.cmdId ≠ leAt m.buf 16 4) →
      Works (exec (.cmdCancel k) s) s k stRejected [resultFx (leAt m.buf 0 4) m.epx 5]) ∧
    (r.pend[i]? = some (some e) → e.cmdId = leAt m.buf 16 4 →
      (∀ j x, r.pend[j]? = some (some x) → x.cmdId = leAt m.buf 16 4 → j = i) →
      Works (exec (.cmdCancel k) s) s k stOk [.row (.ep m.epx { r with pend := r.pend.set i none }),
        resultFx (leAt m.buf 16 4) m.epx 6, resultFx (leAt m.buf 0 4) m.epx 7])) ∧
  (∀ (k : Nat) (m : Manifest) (s : State) (v : Bytes), s.runs k kCommand m → m.kindArg % 256 = 0x10 → m.epxValid = true →
    blockOk 0x10 m.buf = true → s.recGone m.epx = false → v = slice m.buf 16 32 →
    (s.record m.epx).state = 0 ∨ (s.record m.epx).state = 3 →
    leAt v 8 1 % 16 < 6 → leAt v 16 1 < 4 → s.linkFieldsOk (leAt v 16 1) (leAt v 17 1) (leAt v 18 2) (leAt v 20 1) = true →
    ∃ r' fx, r'.state = 1 ∧ r'.serial = leAt v 0 8 ∧ r'.linkType = leAt v 16 1 ∧ r'.balGroup = leAt v 22 2
      ∧ r'.balMember = leAt v 24 2 ∧ r'.pend = [none, none, none, none] ∧ r'.txCounter = 0 ∧
      Works (exec (.cmdProvision k) s) s k stOk
        ([.row (.ep m.epx r')] ++ fx ++ [resultFx (leAt m.buf 0 4) m.epx 7])) ∧
  (∀ (k : Nat) (m : Manifest) (s : State) (r : EpRec), s.runs k kCommand m → m.kindArg % 256 = 0x11 → m.epxValid = true →
    blockOk 0x11 m.buf = true → s.recGone m.epx = false → s.record m.epx = r → r.state = 1 ∨ r.state = 2 →
    ∃ (fx : Effect) (fx' : List Effect), Works (exec (.cmdDeprovision k) s) s k stOk
      ([.row (.ep m.epx { r with
          state := 3, rxHigh := 0, rxMap := 0, txCounter := 0, linkType := 0, linkIndex := 0, position := 0xFFFF,
          channel := 0xFF, linkState := 0, pend := [none, none, none, none], fwPush := false, held := [] })]
        ++ unlinkEffect m.epx r ++ [fx] ++ r.pend.filterMap (fun p => p.map (fun e => resultFx e.cmdId m.epx 6))
        ++ [resultFx (leAt m.buf 0 4) m.epx 7] ++ fx')) ∧
  (∀ (k : Nat) (m : Manifest) (s : State), s.runs k kCommand m → m.kindArg % 256 = 0xFF → m.srcClass ≠ 0 →
    s.recGone m.epx = false → (s.record m.epx).state ≠ 2 ∨ (s.record m.epx).txCounter = 0xFFFFFFFF →
    (s.record m.epx).pend = [none, none, none, none] → Works (exec (.cmdIssue k) s) s k stOk []) ∧
  (∀ (k : Nat) (m : Manifest) (s u : State) (r r' : EpRec) (env : Bytes), s.runs k kCommand m → m.kindArg % 256 = 0xFF →
    m.srcClass ≠ 0 → s.recGone m.epx = false → s.record m.epx = r → r.state = 2 → r.pend = [none, none, none, none] → s.rootServes →
    (s.loadRec m.epx).downlink m.epx 0xA r { r with pend := [none, none, none, none] } [] = (u, some (r', env)) →
    Works (exec (.cmdIssue k) s) s k stOk ([.row (.ep m.epx r')] ++ linkEffect m.epx r' true env ++ rekeyIntr r r')) ∧
  (∀ (k : Nat) (m : Manifest) (s : State) (r : EpRec), s.runs k kCommand m → m.kindArg % 256 = 0xFF →
    m.srcClass ≠ 0 → s.recGone m.epx = false → s.record m.epx = r → r.state = 2 → r.txCounter ≠ 0xFFFFFFFF →
    r.pend = [none, none, none, none] → s.rootServes →
    ((s.loadRec m.epx).downlink m.epx 0xA r { r with pend := [none, none, none, none] } []).2 = none →
    Works (exec (.cmdIssue k) s) s k stRejected [])

/-- For every slot that executes a LINK_EVENT that the device raised, over a record with good bytes, where a use of the
ROOT slot fails no tag check (R311), it completes OK but for event 5's failed key request: events 1, 2 and 3 stage
the record with link_state SEARCH, position 0xFFFF, or link_state UP, and a host message with the event's 12 bytes,
when the record still holds the entry the event names; when it does not they complete OK and stage nothing. Event 4
stages the record on the entry the event names and, when it held none of it, the removal of its former entry, and a
host message. Event 5 for a JOINED record, whose downlink can be sealed, stages the record, a LINK_PARAM for the
entry and the host message; for one that is not JOINED, or whose transmit counter is spent, the host message alone;
and when its key request fails it is REJECTED with no effect. Events 6 and 7 stage link_state 2 or 0 in a record of
the event's worker, and nothing for another. Nothing else changes (R103, R182, R318, R354). (06_radio.md;
13_wharf_pilot.md) -/
def Obligations.LinkEvents : Prop :=
  ∀ (k : Nat) (m : Manifest) (s : State) (r : EpRec), s.runs k kCommand m → m.kindArg % 256 = 0xFE → m.srcClass ≠ 0 →
    s.recGone m.epx = false → s.record m.epx = r →
    (m.kindArg / 256 = 1 → Works (exec (.linkEventSearch k) s) s k stOk
      (if r.holds m then [.row (.ep m.epx { r with linkState := 1 }), .hostMsg (m.buf.take 12)] else [])) ∧
    (m.kindArg / 256 = 2 → Works (exec (.linkEventReleased k) s) s k stOk
      (if r.holds m then [.row (.ep m.epx { r with position := 0xFFFF }), .hostMsg (m.buf.take 12)] else [])) ∧
    (m.kindArg / 256 = 3 → Works (exec (.linkEventResumed k) s) s k stOk
      (if r.holds m then [.row (.ep m.epx { r with linkState := 0 }), .hostMsg (m.buf.take 12)] else [])) ∧
    (m.kindArg / 256 = 4 → Works (exec (.linkEventPlaced k) s) s k stOk
      ([.row (.ep m.epx { r with
          linkType := 2, linkIndex := m.srcIndex / 16, position := leAt m.buf 6 2, channel := leAt m.buf 5 1, linkState := 1 })]
        ++ (if r.holds m then [] else unlinkEffect m.epx r) ++ [.hostMsg (m.buf.take 12)])) ∧
    (m.kindArg / 256 = 5 → r.state ≠ 2 → Works (exec (.linkEventSched k) s) s k stOk [.hostMsg (m.buf.take 12)]) ∧
    (m.kindArg / 256 = 5 → r.state = 2 → s.rootServes → ∀ u r' env, (s.loadRec m.epx).downlink m.epx 8 r r [RRec.mk 0x13 (slice m.buf 12 4)]
        = (u, some (r', env)) →
      Works (exec (.linkEventSched k) s) s k stOk ([.row (.ep m.epx r'),
        .radio (m.srcIndex / 16) (leAt m.buf 6 2) (leAt m.buf 5 1) (.sched m.epx env (leAt m.buf 12 4))] ++ rekeyIntr r r' ++ [.hostMsg (m.buf.take 12)])) ∧
    (m.kindArg / 256 = 5 → r.state = 2 → s.rootServes → ((s.loadRec m.epx).downlink m.epx 8 r r [RRec.mk 0x13 (slice m.buf 12 4)]).2 = none →
      Works (exec (.linkEventSched k) s) s k (if r.txCounter = 0xFFFFFFFF then stOk else stRejected)
        (if r.txCounter = 0xFFFFFFFF then [.hostMsg (m.buf.take 12)] else [])) ∧
    (m.kindArg / 256 = 6 → Works (exec (.linkEventWorkerLost k) s) s k stOk
      (if r.linkType = 3 ∧ r.linkIndex = m.srcIndex then [.row (.ep m.epx { r with linkState := 2 })] else [])) ∧
    (m.kindArg / 256 = 7 → Works (exec (.linkEventWorkerBack k) s) s k stOk
      (if r.linkType = 3 ∧ r.linkIndex = m.srcIndex then [.row (.ep m.epx { r with linkState := 0 })] else []))

/-- For every slot that executes the set of FW_PUSH over a record with good bytes: TARGET is REJECTED with result
REFUSED when the host did not ring it, the job is not READY or the endpoint is not JOINED, and REJECTED with BUSY
(its number is the model's free value, assumption 43) when the endpoint is a target already. STATUS of an endpoint
that is no target stages nothing; one that reports ACTIVATED ends the target and counts UPD.DONE_CNT, with fw_push
cleared in the record. ROUND stages FW_BLOCK items for the segment of its flow and nothing else, none when no job
runs. SEND for a target that misses no block stages nothing. SET ends the target of its job with the result it
carries, clears fw_push and counts UPD.REFUSED_CNT; for another job it stages nothing (R403 to R406).
(15_updates.md) -/
def Obligations.PushWork : Prop :=
  (∀ (k : Nat) (m : Manifest) (s : State), s.runs k kFwPush m → m.kindArg % 16 = 1 → m.epxValid = true → s.recGone m.epx = false →
    (m.srcClass ≠ 0 ∨ (s.job (bits m.kindArg 6 4)).state ≠ 2 ∨ (s.record m.epx).state ≠ 2 →
      Works (exec (.fwPushTarget k) s) s k stRejected [resultFx (bits m.kindArg 6 4) m.epx 5]) ∧
    (m.srcClass = 0 → (s.job (bits m.kindArg 6 4)).state = 2 → (s.record m.epx).state = 2 → (s.record m.epx).fwPush = true →
      Works (exec (.fwPushTarget k) s) s k stRejected [resultFx (bits m.kindArg 6 4) m.epx (Config.fwResult 0).toNat])) ∧
  (∀ (k : Nat) (m : Manifest) (s : State), s.runs k kFwPush m → m.kindArg % 16 = 2 → m.epxValid = true → s.recGone m.epx = false →
    (Map.get? s.upd.targets m.epx = none → Works (exec (.fwPushStatus k) s) s k stOk []) ∧
    (∀ t, Map.get? s.upd.targets m.epx = some t → t.job = leAt m.buf 0 2 → batteryBad (s.record m.epx) (s.job t.job) = false →
      bit (leAt m.buf 12 1) 2 = true → Works (exec (.fwPushStatus k) s) s k stOk
        [.row (.ep m.epx { s.record m.epx with fwPush := false }), .row (.target m.epx none),
          resultFx t.job m.epx (Config.fwResult 4).toNat, countFx .UPD_DONE_CNT])) ∧
  (∀ (k : Nat) (m : Manifest) (s : State), s.runs k kFwPush m → m.kindArg % 16 = 3 →
    ∃ fx, Works (exec (.fwPushRound k) s) s k stOk fx ∧ (∀ x ∈ fx, ∃ d, x = .plc (m.flow % 8) 0 (.fwBlock d)) ∧
      ((∀ j, j < 8 → (s.job j).state ≠ 2) → fx = [])) ∧
  (∀ (k : Nat) (m : Manifest) (s : State) (t : FwTarget), s.runs k kFwPush m → m.kindArg % 16 = 4 → m.epxValid = true →
    s.recGone m.epx = false → Map.get? s.upd.targets m.epx = some t → t.missing (s.job t.job).blocks = [] →
    Works (exec (.fwPushSend k) s) s k stOk []) ∧
  (∀ (k : Nat) (m : Manifest) (s : State) (t : FwTarget), s.runs k kFwPush m → m.kindArg % 16 = 5 → m.epxValid = true →
    m.srcClass ≠ 0 → s.recGone m.epx = false → Map.get? s.upd.targets m.epx = some t →
    Works (exec (.fwPushSet k) s) s k stOk (if t.job = bits m.kindArg 6 4 then
      [.row (.ep m.epx { s.record m.epx with fwPush := false }), .row (.target m.epx none), resultFx t.job m.epx (leAt m.buf 0 1),
        countFx .UPD_REFUSED_CNT] else []))

/-- For every slot that executes the device's sub-operation: SERIES of an endpoint of no enabled group counts
BAL.UNBOUND_CNT and stages no row; of a member that is no reference it stages the member's row, bound to the
endpoint, and counts BAL.SERIES_CNT. REF stages the site block, in which the summary's minute is present in its
hour; a short payload stages nothing. HOUR of an hour at or before the group's last one, or of a part that its
partial sums already hold, stages nothing; a part that is not the last adds its rows to the group's partial sums and
leaves the group's state; the last part makes the hour the group's last hour. TOPO of a group with no bound row in
the block stages nothing; each bound row is staged with its last result replaced. SET 2 writes the prosumer flag,
SET 3 the baseline of the group, SET 4 unbinds the row (R244, R248 to R252, R260; payload layouts are the model's
choice, assumption 27). (08_loss_detection.md) -/
def Obligations.BalanceWork : Prop :=
  (∀ (k : Nat) (m : Manifest) (s : State), s.runs k kBalance m → m.srcClass ≠ 0 → m.kindArg % 16 = 1 → s.recGone m.epx = false →
    (s.joined (s.record m.epx) = none → Works (exec (.balanceSeries k) s) s k stOk [countFx .BAL_UNBOUND_CNT]) ∧
    (∀ x, s.joined (s.record m.epx) = some x → x.refPhases m.epx = [] → (s.record m.epx).balMember < x.rows →
      ∃ r fx, r.epx = m.epx ∧ Works (exec (.balanceSeries k) s) s k stOk
        ([.row (.member (x.first + (s.record m.epx).balMember) (some r)), countFx .BAL_SERIES_CNT] ++ fx))) ∧
  (∀ (k : Nat) (m : Manifest) (s : State), s.runs k kBalance m → m.srcClass ≠ 0 → m.kindArg % 16 = 2 →
    (m.buf.length < 32 → Works (exec (.balanceRef k) s) s k stOk []) ∧
    (32 ≤ m.buf.length → ∃ b, Works (exec (.balanceRef k) s) s k stOk [.row (.site b)] ∧
      (siteHourAt b.hours (leAt m.buf 0 4 / 60)).minutes.testBit (leAt m.buf 0 4 % 60) = true)) ∧
  (∀ (k : Nat) (m : Manifest) (s : State), s.runs k kBalance m → m.srcClass ≠ 0 → m.kindArg % 16 = 3 →
    (s.liveGrp? (m.flow - groupFlow 0) = none → Works (exec (.balanceHour k) s) s k stOk []) ∧
    (∀ x, s.liveGrp? (m.flow - groupFlow 0) = some x →
      (leAt m.buf 0 4 ≤ (s.block x.g).lastHour ∨ ((s.block x.g).partial'.1 = leAt m.buf 0 4 ∧ m.kindArg / 16 < (s.block x.g).parts) →
        Works (exec (.balanceHour k) s) s k stOk []) ∧
      ((s.block x.g).lastHour < leAt m.buf 0 4 → (s.block x.g).partial'.1 ≠ leAt m.buf 0 4 ∨ (s.block x.g).parts ≤ m.kindArg / 16 → ∃ g fx, Works (exec (.balanceHour k) s) s k stOk (.row (.group x.g g) :: fx) ∧
        (1024 * (m.kindArg / 16 + 1) < x.rows → g.state = (s.block x.g).state ∧ g.lastHour = (s.block x.g).lastHour) ∧
        (x.rows ≤ 1024 * (m.kindArg / 16 + 1) → g.lastHour = leAt m.buf 0 4)))) ∧
  (∀ (k : Nat) (m : Manifest) (s : State) (x : Grp), s.runs k kBalance m → m.srcClass ≠ 0 → m.kindArg % 16 = 4 →
    s.liveGrp? (m.flow - groupFlow 0) = some x →
    (s.boundRows x (16 * (m.kindArg / 16)) 16 = [] → Works (exec (.balanceTopo k) s) s k stOk []) ∧
    (∀ n r, s.boundRows x (16 * (m.kindArg / 16)) 16 = [(n, r)] → ∃ l fx, Works (exec (.balanceTopo k) s) s k stOk
      (.row (.member n (some { r with last := l })) :: fx) ∧ fx.length ≤ 1)) ∧
  (∀ (k : Nat) (m : Manifest) (s : State), s.runs k kBalance m → m.srcClass ≠ 0 → m.kindArg % 16 = 5 →
    (leAt m.buf 0 1 = 3 → ∃ g, Works (exec (.balanceSet k) s) s k stOk [.row (.group (leAt m.buf 4 4) g)] ∧
      g.base = leSigned m.buf 2 2 ∧ g.state ≠ 0) ∧
    (∀ n r, s.boundRow (leAt m.buf 4 4) = some n → Map.get? s.bal.members n = some r →
      (leAt m.buf 0 1 = 4 → Works (exec (.balanceSet k) s) s k stOk [.row (.member n none)]) ∧
      (leAt m.buf 0 1 = 2 → Works (exec (.balanceSet k) s) s k stOk
        [.row (.member n (some { r with prosumer := bit (leAt m.buf 1 1) 0 }))])))

/-- For every slot that executes the sub-operation: an empty STATUS of a craft stages the row LOST, and a C_STATUS body
stages the row with position, battery and lane it reports, known and not LOST. A host ORDER for a craft of the site
with no order of its lane in its window and fewer than four pending is added to the row; with a conflicting one of
lower issuer priority it takes that one's place, with one of equal or higher it ends CONFLICT with result
SUPERSEDED; with four pending, or malformed, it is REJECTED. TASK 1 adds a task with an unused id, TASK 2 removes a
queued one. ISSUE takes the orders of closed windows off the row. ALLOT stages nothing under all-stop or with
corrections older than their limit, and gives every task it stages to a craft (R267, R271 to R273).
(09_craft_control.md) -/
def Obligations.LaneWork : Prop :=
  (∀ (k : Nat) (m : Manifest) (s : State), s.runs k kLaneCheck m → m.srcClass ≠ 0 → m.kindArg % 16 = 1 →
    (m.buf.length < 44 → Works (exec (.laneStatus k) s) s k stOk (s.craftLostFx (m.flow - craftFlow 0))) ∧
    (44 ≤ m.buf.length → ∃ r fx, Works (exec (.laneStatus k) s) s k stOk (.row (.craft (m.flow - craftFlow 0) r) :: fx) ∧
      r.known = true ∧ r.lost = false ∧ r.east = leAt m.buf 4 4 ∧ r.north = leAt m.buf 8 4 ∧ r.battery = leAt m.buf 28 1
      ∧ r.lane = leAt m.buf 20 2)) ∧
  (∀ (k : Nat) (m : Manifest) (s : State) (row : CraftRow) (p : POrder), s.runs k kLaneCheck m → m.srcClass = 0 →
    m.kindArg % 16 = 2 → craftFlow 0 ≤ m.flow → m.flow - craftFlow 0 < s.craftCount → 20 ≤ m.buf.length →
    1 ≤ leAt m.buf 6 1 → leAt m.buf 6 1 ≤ 3 → s.craftRow (m.flow - craftFlow 0) = row →
    p = ⟨leAt m.buf 0 4, s.issuerPrio (leAt m.buf 4 2), leAt m.buf 6 1, if leAt m.buf 6 1 = 1 then leAt m.buf 8 2 else 0xFFFF,
      leAt m.buf 10 2, leAt m.buf 12 4, leAt m.buf 16 4, s.craftSfAt (s.stampNs m)⟩ →
    ((∀ o ∈ row.orders, o.lane ≠ p.lane ∨ o.window ≠ p.window) →
      (row.orders.length < 4 → Works (exec (.laneOrder k) s) s k stOk
        [.row (.craft (m.flow - craftFlow 0) { row with orders := row.orders ++ [p] })]) ∧
      (4 ≤ row.orders.length → Works (exec (.laneOrder k) s) s k stRejected
        [s.orderFxResult p.id (m.flow - craftFlow 0) 5 p.lane])) ∧
    (∀ o rest, row.orders = o :: rest → o.lane = p.lane → o.window = p.window →
      (o.prio < p.prio → ∃ fx, Works (exec (.laneOrder k) s) s k stOk
        (.row (.craft (m.flow - craftFlow 0) { row with orders := rest ++ [p] })
          :: s.orderFxResult o.id (m.flow - craftFlow 0) 2 o.lane :: fx)) ∧
      (p.prio ≤ o.prio → ∃ fx, Works (exec (.laneOrder k) s) s k stConflict
        (s.orderFxResult p.id (m.flow - craftFlow 0) 2 p.lane :: fx)))) ∧
  (∀ (k : Nat) (m : Manifest) (s : State), s.runs k kLaneCheck m → m.kindArg % 16 = 3 → 20 ≤ m.buf.length →
    (leAt m.buf 0 1 = 1 → leAt m.buf 1 1 < 8 → s.craft.tasks.length < 65536 → Map.get? s.craft.tasks (leAt m.buf 4 4) = none →
      ∃ t, Works (exec (.laneTask k) s) s k stOk [.row (.task (leAt m.buf 4 4) (some t))] ∧ t.prio = leAt m.buf 1 1
        ∧ t.kind = leAt m.buf 2 2 ∧ t.craft = none ∧ ∀ x ∈ Map.vals s.craft.tasks, x.rank < t.rank) ∧
    (leAt m.buf 0 1 = 2 → ∀ t, Map.get? s.craft.tasks (leAt m.buf 4 4) = some t → t.craft = none →
      Works (exec (.laneTask k) s) s k stOk [.row (.task (leAt m.buf 4 4) none)])) ∧
  (∀ (k : Nat) (m : Manifest) (s : State), s.runs k kLaneCheck m → m.srcClass ≠ 0 → m.kindArg % 16 = 4 →
    ∃ r fx, Works (exec (.laneIssue k) s) s k stOk (.row (.craft (m.flow - craftFlow 0) r) :: fx) ∧
      r.orders = (s.craftRow (m.flow - craftFlow 0)).orders.filter (fun o => !decide (o.window < s.craftSf))) ∧
  (∀ (k : Nat) (m : Manifest) (s : State), s.runs k kLaneCheck m → m.srcClass ≠ 0 → m.kindArg % 16 = 5 →
    (s.craft.allStop = true ∨ s.fld .CRAFT_CFG2 0 0 15 8 * 10 ≤ s.corrAge → Works (exec (.laneAllot k) s) s k stOk []) ∧
    (∃ fx, Works (exec (.laneAllot k) s) s k stOk fx ∧
      ∀ id t, .row (.task id (some t)) ∈ fx → t.craft.isSome = true ∧ s.craft.allStop = false))

/-- For every slot that executes the kind: RTK_EPOCH of the device with observations completes OK and, while the base is
ready, stages the epoch for the correction queue with its TAI second, its superframe and the RTCM stream (the
framing is an outside standard's, assumption 6), while it is not ready nothing, and is REJECTED from the host or
without observations. A KEY_REQ forward of a manager whose export R320 refuses is REJECTED and stages the refusal's
count and record; one that is allowed, whose key is had and where no slot it uses fails its tag check, stages one
KEY datagram to the worker that asked and counts BOND.EXPORT_CNT. A DOWN_ENV forward of a chip in worker role stages
the envelope for the record's PLC or radio link, and counts WHARF.RANGE_DROP_CNT for a record on neither. Nothing
else changes before the release (R264, R266, R311, R320, R356, R359). (09_craft_control.md; 13_wharf_pilot.md;
11_bonded_store.md) -/
def Obligations.EpochAndWorkerForwards : Prop :=
  (∀ (k : Nat) (m : Manifest) (s : State), s.runs k kRtkEpoch m →
    (m.srcClass = 0 ∨ m.buf.length < 9 → Works (exec (.rtkEpoch k) s) s k stRejected []) ∧
    (m.srcClass ≠ 0 → 9 ≤ m.buf.length → s.craft.base = none → Works (exec (.rtkEpoch k) s) s k stOk []) ∧
    (m.srcClass ≠ 0 → 9 ≤ m.buf.length → s.craft.base ≠ none → ∃ data fx, Works (exec (.rtkEpoch k) s) s k stOk
      (.row (.corr (leAt m.buf 0 4) (leAt m.buf 4 4) data) :: fx) ∧ (fx = [] ∨ fx = [.hostMsg data]))) ∧
  (∀ (k : Nat) (m : Manifest) (s : State), s.runs k kWharfFwd m → m.kindArg = 0x12 → s.workerRole = false → m.srcClass ≠ 0 →
    (s.exportSlot m.srcIndex (leAt m.buf 0 1) (leAt m.buf 1 1) (leAt m.buf 2 2) (leAt m.buf 4 2) (leAt m.buf 6 2) (leAt m.buf 8 4)
        (leAt m.buf 12 8) = none →
      Works (exec (.wharfFwdKeyReq k) s) s k stRejected (refuseExport m.srcIndex (leAt m.buf 0 1))) ∧
    (∀ n u key, s.tagGood n → s.rootServes → s.exportSlot m.srcIndex (leAt m.buf 0 1) (leAt m.buf 1 1) (leAt m.buf 2 2) (leAt m.buf 4 2) (leAt m.buf 6 2)
        (leAt m.buf 8 4) (leAt m.buf 12 8) = some n →
      s.requestKey ⟨5, leAt m.buf 4 2, leAt m.buf 6 2, leAt m.buf 8 4, leAt m.buf 12 8, leAt m.buf 1 1, leAt m.buf 2 2,
        (s.record (leAt m.buf 8 4 % 2 ^ 22)).aes256⟩ (if leAt m.buf 0 1 = 2 then 2 else if leAt m.buf 0 1 = 3 then 3 else 4)
        = (u, some key) → (s.keySlot n).valid = true →
      ∃ blob, Works (exec (.wharfFwdKeyReq k) s) s k stOk [.wharf m.srcIndex 0x13 blob, countFx .BOND_EXPORT_CNT])) ∧
  (∀ (k : Nat) (m : Manifest) (s : State), s.runs k kWharfFwd m → m.kindArg = 0x11 → s.workerRole = true → m.srcClass ≠ 0 →
    s.recGone m.epx = false →
    Works (exec (.wharfFwdDownEnv k) s) s k stOk
      (if (s.record m.epx).linkType = 1 ∨ (s.record m.epx).linkType = 2 then
        linkEffect m.epx (s.record m.epx) (envType m.buf = 0xA) m.buf else [countFx .WHARF_RANGE_DROP_CNT]))

/-- For every segment that may transmit: PLC_CYCLE_START while polls remain only notes the overrun (cycle_overrun in
status and INT) and closes the contention window; otherwise it begins the cycle of the present instant: PLC.CYCLE,
an empty exchange, the re-poll list of the last cycle, and a BEACON to 0xFFF as the frame sent. PLC_POLL_EXCHANGE
with no exchange and no contention window sends one frame to the next node in order, SOUND where a refresh takes the
poll's place and POLL or DATA_DOWN otherwise, and the exchange is with that node. While an exchange is open and no
overrun is noted: the passing of its deadline counts POLL_FAIL_CNT, a NULL_UP of its first hop sends nothing, a
SOUND gives the node a new return set that is due to go out, a DATA_UP that decodes counts RX_OK_CNT and is
acknowledged at once on a direct path, one that does not counts RX_FAIL_CNT and puts the node on the next re-poll
list; each ends the exchange (R136, R137, R140, R144, R146). (05_plc.md) -/
def Obligations.PlcCycle : Prop :=
  (∀ (n : Nat) (s : State), n < 8 → n < s.plc.length → s.plcLive n = true →
    (s.plcBusy n = true → Answers (exec (.plcCycleStart n) s) (fun t =>
      (t.seg n).late = true ∧ (t.seg n).inWindow = false ∧ (t.seg n).exch = (s.seg n).exch ∧ t.flag .PLC_SEG_STATUS n 0 3 = true
      ∧ t.flag .PLC_INT n 0 2 = true ∧ t = { s with plc := t.plc, regs := t.regs, host := t.host }
      ∧ s.regsBut t (noteRegs ++ [Reg.addr .PLC_SEG_STATUS n 0, Reg.addr .PLC_INT n 0]))) ∧
    (s.plcBusy n = false → Answers (exec (.plcCycleStart n) s) (fun t =>
      (t.seg n).running = true ∧ (t.seg n).late = false ∧ (t.seg n).exch = none ∧ (t.seg n).done = []
      ∧ (t.seg n).repoll = (s.seg n).repollNext ∧ t.get .PLC_CYCLE n 0 = s.plcCycleAt n s.time.ns % 2 ^ 32
      ∧ ∃ f, (t.seg n).txNow = [f] ∧ f.fc.ftype = 0 ∧ f.fc.dst = 0xFFF))) ∧
  (∀ (n p : Nat) (d : PlcNode) (s : State), n < 8 → n < s.plc.length → s.plcLive n = true → (s.seg n).running = true →
    (s.seg n).exch = none → (s.seg n).inWindow = false → s.plcNext n = some p → Map.get? (s.seg n).nodes p = some d →
    Answers (exec (.plcPollExchange n) s) (fun t => ∃ e f, (t.seg n).exch = some e ∧ e.pos = p ∧ p ∈ (t.seg n).done
      ∧ (t.seg n).txNow = [f] ∧ f.fc.ftype = e.kind ∧ (if s.refreshNow n p d then e.kind = 6 else e.kind = 1 ∨ e.kind = 2))) ∧
  (∀ (n : Nat) (e : Exchange) (s : State), n < 8 → (s.seg n).exch = some e → Map.has (s.seg n).nodes e.pos = true →
    (s.seg n).late = false → e.deadline ≤ s.time.ns →
    Answers (exec (.plcReplyMissing n) s) (fun t => (t.seg n).exch = none
      ∧ t.get .PLC_POLL_FAIL_CNT n 0 = min 0xFFFFFFFF (s.get .PLC_POLL_FAIL_CNT n 0 + 1))) ∧
  (∀ (n : Nat) (e : Exchange) (rx : PlcRx) (fc : FrameCtl) (s : State), n < 8 → (s.seg n).exch = some e →
    Map.has (s.seg n).nodes e.pos = true → (s.seg n).late = false → FrameCtl.decode rx.fc = some fc → fc.dst = 0 →
    fc.src = e.hop + 1 →
    (e.kind ≠ 6 → fc.ftype = 4 → Answers (exec (.plcNullUpReceived n rx) s) (fun t =>
      (t.seg n).exch = none ∧ (t.seg n).txNow = (s.seg n).txNow)) ∧
    (e.hit = false → s.plcHandsOn n = true →
      (e.kind = 6 → fc.ftype = 6 → Answers (exec (.plcReplyReceived n rx) s) (fun t => (t.seg n).exch = none ∧
        ∃ d, Map.get? (t.seg n).nodes e.pos = some d ∧ d.ret.isSome = true ∧ d.mapDue = true)) ∧
      (e.kind ≠ 6 → fc.ftype = 3 → ∀ m, ((Map.get? (s.seg n).nodes e.hop).bind (fun d => s.receiveMaps n d fc)) = m →
        (∀ b items, m.bind (s.plcBodyOf n (s.plcHear n rx) fc) = some b → plcItems b = some items →
          Answers (exec (.plcReplyReceived n rx) s) (fun t => (t.seg n).exch = none
            ∧ t.get .PLC_RX_OK_CNT n 0 = min 0xFFFFFFFF (s.get .PLC_RX_OK_CNT n 0 + 1)
            ∧ (e.relayed = false → ∃ f, (t.seg n).txNow = [f] ∧ f.fc.ftype = 5 ∧ f.fc.dst = e.pos + 1))) ∧
        (m.bind (s.plcBodyOf n (s.plcHear n rx) fc) = none → Answers (exec (.plcReplyReceived n rx) s) (fun t =>
          (t.seg n).exch = none ∧ e.pos ∈ (t.seg n).repollNext
          ∧ t.get .PLC_RX_FAIL_CNT n 0 = min 0xFFFFFFFF (s.get .PLC_RX_FAIL_CNT n 0 + 1))))))

/-- In the contention window of a live segment a CONTEND to the device from a node address that decodes by ROBO counts
CONTEND_CNT and RX_OK_CNT, is acknowledged to its source, and its REQ puts the node on the next cycle's list; one
that fails counts RX_FAIL_CNT. CONTENTION_WINDOW opens or closes the window of a running cycle unless cw_ms is 0. A
crossing of a phase counts at each segment of that zc_phase when its interval is 7.5 to 11.0 ms: it is the segment's
crossing, to 1 µs, and ends zc_free; no other segment changes. After 3 × T_half with no crossing the segment is
zc_free with INT.zc_lost and record 0x0602. A lost link ends the exchange and the cycle, clears link_up, sets
INT.link_down and records 0x0601; a retry that succeeds sets link_up. A host not held off reads the entry of a
position into ENTRY_STATUS, sets its poll class, and by sound_now makes every node of the segment due (R132, R137,
R140, R151, R158, R161). (05_plc.md) -/
def Obligations.PlcEvents : Prop :=
  (∀ (n : Nat) (rx : PlcRx) (fc : FrameCtl) (s : State), s.plcLive n = true → n < s.plc.length → (s.seg n).inWindow = true →
    FrameCtl.decode rx.fc = some fc → fc.dst = 0 → fc.ftype = 7 → fc.src ≠ 0 → fc.mapped = false →
    (∀ b items, s.plcBodyOf n (s.plcHear n rx) fc (s.roboMaps n) = some b → plcItems b = some items →
      Answers (exec (.plcContendReceived n rx.toPlcSig rx.fc rx.llr) s) (fun t =>
        t.get .PLC_CONTEND_CNT n 0 = min 0xFFFFFFFF (s.get .PLC_CONTEND_CNT n 0 + 1)
        ∧ t.get .PLC_RX_OK_CNT n 0 = min 0xFFFFFFFF (s.get .PLC_RX_OK_CNT n 0 + 1)
        ∧ (∃ f, (t.seg n).txNow = [f] ∧ f.fc.ftype = 5 ∧ f.fc.dst = fc.src)
        ∧ ((∃ v, (5, v) ∈ items) → Map.has (s.seg n).nodes (fc.src - 1) = true → fc.src - 1 ∈ (t.seg n).reqNext))) ∧
    (s.plcBodyOf n (s.plcHear n rx) fc (s.roboMaps n) = none → Answers (exec (.plcContendReceived n rx.toPlcSig rx.fc rx.llr) s) (fun t =>
      t.get .PLC_RX_FAIL_CNT n 0 = min 0xFFFFFFFF (s.get .PLC_RX_FAIL_CNT n 0 + 1) ∧ (t.seg n).txNow = (s.seg n).txNow))) ∧
  (∀ (n : Nat) (opens : Bool) (s : State), s.plcLive n = true → n < s.plc.length → (s.seg n).running = true →
    (s.fld .PLC_SEG_CFG0 n 0 25 16 ≠ 0 → Answers (exec (.plcContentionWindow n opens) s) (fun t =>
      t.seg n = { s.seg n with inWindow := opens } ∧ t = { s with plc := t.plc } ∧ ∀ j, j ≠ n → t.seg j = s.seg j)) ∧
    (s.fld .PLC_SEG_CFG0 n 0 25 16 = 0 → exec (.plcContentionWindow n opens) s = .next s)) ∧
  (∀ (p tns : Nat) (s : State), s.plc.length = 8 → Answers (exec (.zeroCrossing p tns) s) (fun t =>
    t = { s with plc := t.plc, regs := t.regs } ∧ s.regsBut t ((List.range 8).map (fun n => Reg.addr .PLC_SEG_STATUS n 0)) ∧
    ∀ n, n < 8 → (s.fld .PLC_SEG_CFG0 n 0 28 27 ≠ p → t.seg n = s.seg n) ∧
      (s.fld .PLC_SEG_CFG0 n 0 28 27 = p → 7500 ≤ (tns / 1000 * 1000 - (s.seg n).lastEdge) / 1000 →
        (tns / 1000 * 1000 - (s.seg n).lastEdge) / 1000 ≤ 11000 →
        (t.seg n).tzc = tns / 1000 * 1000 ∧ t.flag .PLC_SEG_STATUS n 0 1 = false) ∧
      (s.fld .PLC_SEG_CFG0 n 0 28 27 = p → (tns / 1000 * 1000 - (s.seg n).lastEdge) / 1000 < 7500 → (t.seg n).tzc = (s.seg n).tzc))) ∧
  (∀ (n : Nat) (s : State), n < 8 → s.flag .PLC_SEG_STATUS n 0 1 = false → (s.seg n).tzc + 3000 * s.tHalf n ≤ s.time.ns →
    Answers (exec (.plcZcLost n) s) (fun t => t.flag .PLC_SEG_STATUS n 0 1 = true ∧ t.flag .PLC_INT n 0 1 = true
      ∧ (s.log.queue.length < 64 → t.lastEvent = some (0x0602, n, 0)) ∧ t = { s with regs := t.regs, log := t.log, host := t.host }
      ∧ s.regsBut t (noteRegs ++ [Reg.addr .PLC_SEG_STATUS n 0, Reg.addr .PLC_INT n 0]))) ∧
  (∀ (n crc : Nat) (locked : Bool) (s : State), n < 8 → s.flag .PLC_SEG_STATUS n 0 0 = true → locked = false ∨ 4 < crc →
    Answers (exec (.plcLinkDown ⟨n, locked, crc⟩) s) (fun t => (t.seg n).running = false ∧ (t.seg n).exch = none
      ∧ t.flag .PLC_SEG_STATUS n 0 0 = false ∧ t.flag .PLC_INT n 0 0 = true
      ∧ (t.log.queue.length < 64 → t.lastEvent = some (0x0601, n, 0)))) ∧
  (∀ (n : Nat) (s : State), n < 8 → Answers (exec (.plcLinkRetry n true) s) (fun t =>
    t.flag .PLC_SEG_STATUS n 0 0 = true ∧ t = { s with regs := t.regs } ∧ s.regsBut t [Reg.addr .PLC_SEG_STATUS n 0])) ∧
  (∀ (n : Nat) (v : Word) (s : State), n < 8 → s.hostHeld = false → bit v.toNat 31 = true →
    (bit v.toNat 14 = false → Answers (exec (.plcEntryRead n v) s) (fun t => t = { s with regs := t.regs }
      ∧ s.regsBut t [Reg.addr .PLC_ENTRY_STATUS n 0]
      ∧ (Map.get? (s.seg n).nodes (bits v.toNat 10 0) = none → t.get .PLC_ENTRY_STATUS n 0 = 2)
      ∧ (∀ d, Map.get? (s.seg n).nodes (bits v.toNat 10 0) = some d → d.pollLog2 < 8 →
        bits (t.get .PLC_ENTRY_STATUS n 0) 2 1 = 3 ∧ (t.flag .PLC_ENTRY_STATUS n 0 3 = d.unreachable)
        ∧ t.fld .PLC_ENTRY_STATUS n 0 6 4 = d.pollLog2))) ∧
    (bit v.toNat 14 = true → ∀ d, Map.get? (s.seg n).nodes (bits v.toNat 10 0) = some d →
      Answers (exec (.plcEntrySet n v) s) (fun t => Map.get? (t.seg n).nodes (bits v.toNat 10 0)
          = some { d with pollLog2 := bits v.toNat 13 11 }
        ∧ t = { s with plc := t.plc, regs := t.regs } ∧ s.regsBut t [Reg.addr .PLC_ENTRY_STATUS n 0]))) ∧
  (∀ (n : Nat) (s : State), n < 8 → s.hostHeld = false → Answers (exec (.plcSoundNow n) s) (fun t =>
    t = { s with plc := t.plc } ∧ (∀ j, j ≠ n → t.seg j = s.seg j) ∧ ∀ p d, Map.get? (s.seg n).nodes p = some d →
      Map.get? (t.seg n).nodes p = some { d with soundDue := some (d.soundDue.getD s.time.ns) }))

/-- A sensor port that runs numbers each superframe; one that may start does, with RADIO.INT.sealed. A beacon slot
spends the bitmap of the group before and the first ASSIGN; a port with no entry and no ASSIGN sends one 48-byte
beacon on its one channel when the sub-band may carry it. A good frame counts RX_OK_CNT; a matched one makes its
entry UP, with its response due on its channel; one in a drain, or of the types a sensor does not send, counts
UNSLOTTED_CNT. The response is a DOWN with the oldest envelope, or an ACK if one is asked for and nothing is queued,
when the entry and the sub-band have room. A missed occurrence counts MISSED_CNT and moves the entry along UP,
SEARCH, released. ENTRY_CMD READ shows the entry, PLACE adds a PENDING one unless it collides, and SCHED notes the
new schedule after those under way (R168, R172 to R177, R179, R181, R184). (06_radio.md) -/
def Obligations.RadioPorts : Prop :=
  (∀ (n : Nat) (s : State), n < 4 → n < s.radio.ports.length → s.flag .RADIO_CFG1 n 0 0 = false →
    ((s.rport n).running = true → Answers (exec (.radioSuperframeStart n) s) (fun t =>
      t.get .RADIO_SUPERFRAME n 0 = (s.superframeAt n s.time.ns).1 % 2 ^ 32 ∧ t = { s with regs := t.regs }
      ∧ s.regsBut t [Reg.addr .RADIO_SUPERFRAME n 0])) ∧
    ((s.rport n).running = false → s.loader = 6 → s.fnRunning (9 + n) = true → s.quality ≤ 6 → s.txAllowed = true →
      s.pwrfail = false → Answers (exec (.radioSuperframeStart n) s) (fun t => (t.rport n).running = true ∧ (t.rport n).skips = 0
        ∧ t.get .RADIO_SUPERFRAME n 0 = (s.superframeAt n s.time.ns).1 % 2 ^ 32 ∧ t.flag .RADIO_INT n 0 6 = true
        ∧ t = { s with radio := t.radio, regs := t.regs, host := t.host }))) ∧
  (∀ (n k : Nat) (s : State), n < 4 → n < s.radio.ports.length → k < 16 → s.flag .RADIO_CFG1 n 0 0 = false →
    (s.rport n).running = true → s.pwrfail = false → s.fnRunning (9 + n) = true → s.txAllowed = true →
    Answers (exec (.radioBeaconSlot n k) s) (fun t =>
      (∀ a ∈ (t.rport n).acks, a ∈ (s.rport n).acks ∧ a % 4096 / 256 ≠ (k + 15) % 16) ∧
      (∀ a rest, (s.rport n).assigns = a :: rest → a.left ≤ 1 → (t.rport n).assigns = rest) ∧
      ∀ c b, s.channels n = [c] → (s.rport n).entries = [] → (s.rport n).assigns = [] → s.bandOfChan n c = some b →
        s.maySend b 0 (airtime 48) = true → (t.rport n).skips = 0 ∧ ∃ f, (t.rport n).txNow = [f] ∧ f.chan = c ∧ f.ftype = 4
          ∧ f.body.length = 48 ∧ f.start = s.slotStart n (s.superframeAt n s.time.ns).1 (k * 256) + 500000
            - 1000 * s.fld .RADIO_CFG1 n 0 23 18)) ∧
  (∀ (n c : Nat) (rx : RadioRx) (h : RadioHeard) (s u : State), n < 4 → n < s.radio.ports.length → c < 16 →
    s.flag .RADIO_CFG1 n 0 0 = false → bit (s.get .RADIO_CFG2 n 0) c = true → (s.rport n).running = true →
    s.radioHear n rx = (u, some h) → sensorFormed h = true →
    (s.fnRunning (9 + n) = false ∨ 2 ≤ h.ftype → Answers (exec (.radioFrameReceived n c rx) s) (fun t =>
      t.get .RADIO_UNSLOTTED_CNT n 0 = min 0xFFFFFFFF (s.get .RADIO_UNSLOTTED_CNT n 0 + 1)
      ∧ t.get .RADIO_RX_OK_CNT n 0 = min 0xFFFFFFFF (s.get .RADIO_RX_OK_CNT n 0 + 1) ∧ t = { s with regs := t.regs })) ∧
    (∀ (e : RadioEntry) (δ : Int) (g sf : Nat), s.fnRunning (9 + n) = true → h.ftype < 2 →
      s.fld .RADIO_CFG1 n 0 12 9 < (s.superframeAt n h.t).2 / 8000 % 256 →
      u.matchEntry n c (if h.ftype = 0 then envTag h.body else leAt h.body 0 3) h.t = some (e, δ, g, sf) →
      Answers (exec (.radioFrameReceived n c rx) s) (fun t =>
        t.get .RADIO_RX_OK_CNT n 0 = min 0xFFFFFFFF (s.get .RADIO_RX_OK_CNT n 0 + 1)
        ∧ (∃ d, Map.get? (t.rport n).resp e.chan = some d ∧ d.epx = e.epx ∧ d.slot = e.slot ∧ d.seq = h.seq ∧ d.offset = δ
          ∧ d.tEnd = h.t + airtime h.body.length * 1000)
        ∧ ∃ x, t.entry? n e.epx e.chan e.slot = some x ∧ x.state = 1 ∧ x.count = 0))) ∧
  (∀ (n c b : Nat) (d : RespDue) (s : State), n < 4 → n < s.radio.ports.length → Map.get? (s.rport n).resp c = some d →
    s.fnRunning (9 + n) = true → s.txAllowed = true → s.pwrfail = false → d.etype ≠ 0 → s.bandOfChan n c = some b →
    (s.entry? n d.epx c d.slot = none → d.ackReq = true → d.tEnd + 1000000 + 1000 * airtime 6 ≤ d.limit →
      s.maySend b (if d.etype = 3 then 1 else 2) (airtime 6) = true → Answers (exec (.radioResponse n c) s) (fun t =>
        (∃ f, (t.rport n).txNow = [f] ∧ f.ftype = 2 ∧ f.chan = c ∧ f.ackSeq = d.seq ∧ f.ackValid = true ∧ leAt f.body 0 3 = d.epx % 2 ^ 24)
        ∧ Map.get? (t.rport n).resp c = none ∧ t.get .RADIO_ACK_CNT n 0 = min 0xFFFFFFFF (s.get .RADIO_ACK_CNT n 0 + 1))) ∧
    (∀ e x xs, s.entry? n d.epx c d.slot = some e → e.cells = x :: xs → e.down = none →
      d.tEnd + 1000000 + 1000 * airtime x.env.length ≤ d.limit →
      s.maySend b (if d.etype = 3 then 1 else 2) (airtime x.env.length) = true → Answers (exec (.radioResponse n c) s) (fun t =>
        (∃ f, (t.rport n).txNow = [f] ∧ f.ftype = 3 ∧ f.chan = c ∧ f.ackSeq = d.seq ∧ f.ackValid = true ∧ f.body = x.env)
        ∧ Map.get? (t.rport n).resp c = none ∧ t.get .RADIO_DOWN_CNT n 0 = min 0xFFFFFFFF (s.get .RADIO_DOWN_CNT n 0 + 1)))) ∧
  (∀ (n c slot ph : Nat) (e : RadioEntry) (s : State), n < 4 → n < s.radio.ports.length → s.flag .RADIO_CFG1 n 0 0 = false → (s.rport n).running = true →
    s.fnRunning (9 + n) = true → e.matched ≠ s.get .RADIO_SUPERFRAME n 0 + 1 →
    (s.rport n).entries.find? (fun e => e.chan = c && e.slot = slot && e.sch.phase = ph) = some e →
    Answers (exec (.radioOccurrenceMissed n c slot ph) s) (fun t =>
      t.get .RADIO_MISSED_CNT n 0 = min 0xFFFFFFFF (s.get .RADIO_MISSED_CNT n 0 + 1) ∧
      (e.state = 1 → ∃ x ∈ (t.rport n).entries, x.epx = e.epx ∧ x.chan = c ∧ x.slot = slot ∧
        if e.count = 0 then x.count = 1 else x.state = 2 ∧ x.count = 0 ∧ t.flag .RADIO_INT n 0 1 = true) ∧
      (e.state = 2 → 2 ≤ e.count → (∀ x ∈ (t.rport n).entries, ¬ (x.epx = e.epx ∧ x.chan = c ∧ x.slot = slot))
        ∧ t.flag .RADIO_INT n 0 2 = true))) ∧
  (∀ (n : Nat) (v : Word) (s : State), n < 4 → n < s.radio.ports.length → s.hostHeld = false → bit v.toNat 31 = true →
    (bits v.toNat 29 28 = 0 → Answers (exec (.radioEntryRead n v) s) (fun t => t = { s with regs := t.regs }
      ∧ s.regsBut t [Reg.addr .RADIO_ENTRY_STATUS n 0]
      ∧ ((∀ e ∈ (s.rport n).entries, e.chan ≠ bits v.toNat 15 12) → t.get .RADIO_ENTRY_STATUS n 0 = 2)
      ∧ ∀ e, (s.rport n).entries = [e] → e.chan = bits v.toNat 15 12 → e.slot ≤ bits v.toNat 11 0 →
        bits v.toNat 11 0 < e.slot + widthSlots e.sch.width → bits v.toNat 27 21 % 2 ^ e.sch.p = e.sch.phase → e.state < 4 →
        t.fld .RADIO_ENTRY_STATUS n 0 5 4 = e.state ∧ t.fld .RADIO_ENTRY_STATUS n 0 31 10 = e.epx % 2 ^ 22)) ∧
    (bits v.toNat 29 28 = 1 → s.placeOk n (bits v.toNat 11 0) (schedOf v.toNat) = true → s.tableRoom n = true →
      ((∀ e ∈ (s.rport n).entries, e.collides (bits v.toNat 15 12) (bits v.toNat 11 0) (schedOf v.toNat) = false) →
        Answers (exec (.radioEntryPlace n v) s) (fun t => t.fld .RADIO_ENTRY_STATUS n 0 3 2 = 0 ∧
          (t.rport n).entries.length = (s.rport n).entries.length + 1 ∧ ∃ x ∈ (t.rport n).entries, x.state = 3 ∧
            x.epx = s.fld .RADIO_ENTRY_EPX n 0 21 0 ∧ x.chan = bits v.toNat 15 12 ∧ x.slot = bits v.toNat 11 0
            ∧ x.sch = schedOf v.toNat)) ∧
      (∀ e ∈ (s.rport n).entries, e.collides (bits v.toNat 15 12) (bits v.toNat 11 0) (schedOf v.toNat) = true →
        Answers (exec (.radioEntryPlace n v) s) (fun t => t.fld .RADIO_ENTRY_STATUS n 0 3 2 = 1 ∧ t.radio = s.radio))) ∧
    (bits v.toNat 29 28 = 2 → s.flag .RADIO_CFG1 n 0 0 = false → s.placeOk n (bits v.toNat 11 0) (schedOf v.toNat) = true → ∀ e, (s.rport n).entries = [e] →
      e.chan = bits v.toNat 15 12 → e.slot = bits v.toNat 11 0 → Answers (exec (.radioEntrySched n v) s) (fun t =>
        t.fld .RADIO_ENTRY_STATUS n 0 3 2 = 0 ∧ (t.rport n).entries
          = [{ e with newSch := e.newSch ++ [schedOf v.toNat] }])))

/-- While Customs is RESTORING or in RUN: a TIME second of metrology publishes FREQ and the RMS voltages and, with the
cores running, adds its energy to A+ (an export to A-), whole Wh going to the open interval; while the cores restart
its sums wait in the queue, up to 64. C at or past the next grid boundary opens the interval that begins there, the
high-water mark rises to it if it was below, and the billing period rises by one when a close is due there. A
SLIDING sub-interval that ends is shifted into the window once. The hourly offset calibration at a quarter hour
takes the present sample period, and the second's samples replace the offsets. Three lockstep mismatches within 24
hours halt the domain, one or two restart its cores, each with INT.lockstep and record 0x0A01; the restart from ROM
ends with an empty queue. Restoration without CUSTOMS_ROOT halts; with one that passes its tag check the domain is
RESTORING with the MAILBOX record's hand-offs first, and RUN follows with INT.run (R199, R203, R206, R221, R223,
R224, R235). (07_customs_billing.md) -/
def Obligations.CustomsIntervals : Prop :=
  (∀ (m : MetroSec) (s : State), s.customs.state = 1 ∨ s.customs.state = 2 →
    Answers (exec (.metroSecond m) s) (fun t => t.customs.running = true ∧ t.get .CUSTOMS_FREQ 0 0 = m.freq % 2 ^ 32 ∧
      t.customs.calAt = none ∧ t.customs.offsets.length = 7 ∧ (s.customs.calAt = none → ∀ k, k < 7 → t.customs.offsets.getD k 0 = s.customs.offsets.getD k 0) ∧
      (∀ i k x, s.customs.calAt = some i → k < 7 → (m.v ++ m.i ++ [m.neutral])[k]? = some x → i < x.length →
        t.customs.offsets.getD k 0 = x.getD i 0) ∧
      (∀ k, k < 3 → t.get .CUSTOMS_V_RMS k 0 = (s.metroSums m).vrms.getD k 0 % 2 ^ 32) ∧
      (s.customs.restarting = true → s.customs.queue.length < 64 → t.customs.queue = s.customs.queue ++ [s.metroSums m]) ∧
      ∀ p : Int, s.customs.restarting = false → s.customs.acc.length = 4 →
        (((s.metroSums m).p.take (if s.metroCfg 2 1 0 = 1 then 1 else 3)).sum = p) →
        t.customs.acc.getD (if 0 ≤ p then 0 else 1) 0
          = (s.customs.acc.getD (if 0 ≤ p then 0 else 1) 0 + p.natAbs * (s.metroSums m).n) % 28800000000 ∧
        ∀ o, s.customs.openIv = some o → o.energy.length = 4 → ∃ x, t.customs.openIv = some x ∧ x.start = o.start ∧
          x.energy.getD (if 0 ≤ p then 0 else 1) 0 = o.energy.getD (if 0 ≤ p then 0 else 1) 0
            + (s.customs.acc.getD (if 0 ≤ p then 0 else 1) 0 + p.natAbs * (s.metroSums m).n) / 28800000000)) ∧
  (∀ (b : Nat) (o : OpenIv) (s : State), s.cusLive = true → s.customs.openIv = some o → b = gridOf o.start + 900 →
    1000000000 * b ≤ s.cNs → Answers (exec .gridBoundary s) (fun t =>
      (∃ x, t.customs.openIv = some x ∧ x.start = 1000000000 * b ∧ x.energy = [0, 0, 0, 0]) ∧
      (b ≤ s.customs.hwm → t.customs.hwm = s.customs.hwm ∧ t.customs.period = s.customs.period) ∧
      (s.customs.hwm < b → t.customs.hwm = b ∧ (s.closeTarget b = none → t.customs.period = s.customs.period) ∧
        ((s.closeTarget b).isSome = true → t.customs.period = (s.customs.period + 1) % 2 ^ 32 ∧ t.customs.periodStart = b
          ∧ t.flag .CUSTOMS_INT 0 0 3 = true)))) ∧
  (∀ s : State, s.cusLive = true → s.sliding = true → s.customs.subEnd < s.cSec / 180 * 180 →
    Answers (exec .demandSubintervalEnd s) (fun t => t.customs.subEnd = s.cSec / 180 * 180 ∧ t.customs.subNow = 0 ∧
      t.customs.subs = if s.customs.subCut then [] else (s.customs.subNow :: s.customs.subs).take 5)) ∧
  (∀ (k : Nat) (s : State), s.customs.running = true → s.cSec % 900 = 0 → s.bgDue 3 3600 = true →
    s.time.ns % 1000000000 / 125000 = k → Answers (exec .metroOffsetCalibration s) (fun t =>
      t = { s with customs := { s.customs with calAt := some k }, pwr := t.pwr })) ∧
  (∀ (n : Nat) (s : State), s.customs.state = 1 ∨ s.customs.state = 2 →
    (s.customs.mismatches.filter (fun x => decide (s.time.ns < x + 86400000000000))).length = n →
    Answers (exec .lockstepMismatch s) (fun t => t.flag .CUSTOMS_INT 0 0 6 = true ∧
      (n < 2 → t.customs.restarting = true ∧ t.customs.state = s.customs.state
        ∧ (s.log.queue.length < 64 → t.lastEvent = some (0x0A01, n + 1, 0))) ∧
      (2 ≤ n → t.customs.state = 3 ∧ t.customs.restarting = false ∧ t.customs.running = false))) ∧
  (∀ s : State, s.customs.restarting = true → Answers (exec .customsRomRestart s) (fun t =>
    t.customs.restarting = false ∧ t.customs.queue = [] ∧ t.customs.tampers = [])) ∧
  (∀ s : State, s.customs.state = 0 → Answers (exec .customsRestore s) (fun t =>
    ((s.keySlot 1).valid = false → t.customs.state = 3) ∧
    ((s.keySlot 1).valid = true → s.tagGood 1 → t.customs.state = 1 ∧ t.customs.resid = 0 ∧ t.customs.bad = [] ∧ t.customs.down = none
      ∧ t.customs.mailbox = s.customs.mbxRec ++ s.customs.mailbox ∧ t.customs.mbxRec = []))) ∧
  (∀ s : State, s.customs.state = 1 → Answers (exec .customsRestoreDone s) (fun t =>
    t.customs = { s.customs with state := 2 } ∧ t.flag .CUSTOMS_INT 0 0 8 = true
    ∧ t = { s with customs := t.customs, regs := t.regs, host := t.host }))

/-- In RUN with the cores running, power good and room for the journal, the hand-off at the head of the mailbox leaves
it. READINGS of a record without that serial counts ORPHAN_CNT; of a good record of the current period it counts
HANDOFF_CNT, raises its seq and keeps its serial; OPEN makes the record new with the serial it carries; CLOSE
empties it. A site tamper event, of a condition that is not held asserted already, counts in the site record's entry
of its kind, saturating, and sets INT.tamper. The sweep, once sweep_min has passed, copies a record whose seq
changed. A host not held off gets the answer of a mailbox command with INT.mbx: READ_BILLING BAD_ARG, NOT_FOUND or
the record; READ_PERIOD BAD_ARG, NOT_FOUND, LOST or the record; READ_PROFILE BAD_ARG, or OK when every interval's
entry is held; CAL_USER BAD_ARG for no length, BAD_AUTH when the signature does not verify, and else the calibration
is in force with a tamper event of kind 6 (R206, R210, R213, R214, R231, R234, R239). (07_customs_billing.md) -/
def Obligations.CustomsRecords : Prop :=
  (∀ (h : Handoff) (rest : List Handoff) (e : Nat) (s : State), s.customs.mailbox = h :: rest → s.customs.state = 2 →
    s.customs.restarting = false → s.pwrfail = false → s.bufferBytes ≤ (if s.hasRegion then 65536 else 49152) → e = leAt h.body 0 4 % 2 ^ 22 →
    (bits (leAt h.body 0 4) 23 22 = 0 ∨ bits (leAt h.body 0 4) 23 22 = 3 → Answers (exec .customsApplyReadings s) (fun t =>
      t.customs.mailbox = rest ∧ (s.customs.bad.contains e = false →
        ((s.bill e).serial = 0 ∨ (s.bill e).serial ≠ h.serial →
          t.get .CUSTOMS_ORPHAN_CNT 0 0 = min 0xFFFFFFFF (s.get .CUSTOMS_ORPHAN_CNT 0 0 + 1) ∧ t.bill e = s.bill e) ∧
        ((s.bill e).serial ≠ 0 → (s.bill e).serial = h.serial → (s.bill e).period = s.customs.period % 2 ^ 16 →
          t.get .CUSTOMS_HANDOFF_CNT 0 0 = min 0xFFFFFFFF (s.get .CUSTOMS_HANDOFF_CNT 0 0 + 1)
          ∧ (t.bill e).serial = h.serial ∧ (t.bill e).seq = ((s.bill e).seq + 1) % 2 ^ 16)))) ∧
    (bits (leAt h.body 0 4) 23 22 = 1 → Answers (exec .customsApplyOpen s) (fun t => t.customs.mailbox = rest ∧
      (t.bill e).serial = leAt h.body 4 8 ∧ (t.bill e).energy = List.replicate 64 0 ∧ (t.bill e).lastEnd = 0
      ∧ t.get .CUSTOMS_HANDOFF_CNT 0 0 = min 0xFFFFFFFF (s.get .CUSTOMS_HANDOFF_CNT 0 0 + 1))) ∧
    (bits (leAt h.body 0 4) 23 22 = 2 → Answers (exec .customsApplyClose s) (fun t => t.customs.mailbox = rest ∧
      (t.bill e).serial = 0 ∧ (t.bill e).energy = List.replicate 64 0
      ∧ t.get .CUSTOMS_HANDOFF_CNT 0 0 = min 0xFFFFFFFF (s.get .CUSTOMS_HANDOFF_CNT 0 0 + 1)))) ∧
  (∀ (k : Nat) (s : State), k < 6 → k ≠ 2 ∨ s.pwrfail = false → s.tamperHeld k = false → s.cusLive = true → s.customs.bad.contains siteId = false →
    k < s.customs.site.tamper.length → Answers (exec (.siteTamperEvent k) s) (fun t => t.flag .CUSTOMS_INT 0 0 5 = true ∧
      (t.customs.site.tamper.getD k (0, 0, 0)).1 = min 0xFFFF ((s.customs.site.tamper.getD k (0, 0, 0)).1 + 1)
      ∧ ∃ r ∈ t.customs.buffer ++ t.customs.part, r.type = 7 ∧ r.at' = s.cSec)) ∧
  (∀ (e : Nat) (r : BillRec) (s : State), s.cusLive = true → s.customs.state = 2 → s.customs.recs = [(e, r)] → e ≠ siteId →
    s.customs.bad = [] → r.serial ≠ 0 → r.period = s.customs.period % 2 ^ 16 → Map.get? s.customs.copied e ≠ some r.seq → s.bgDue 5 (60 * s.sweepMin) = true →
    Answers (exec .billingSweep s) (fun t => Map.get? t.customs.copied e = some r.seq ∧ t.customs.recs = s.customs.recs
      ∧ ∃ x ∈ t.customs.buffer ++ t.customs.part, x.type = 8 ∧ x.epx = e)) ∧
  (∀ s : State, s.hostHeld = false → s.customs.state = 2 →
    Answers (exec .mbxReadBilling s) (fun t => t.flag .CUSTOMS_INT 0 0 9 = true ∧
      (idOk s.mbxId = false → t.get .CUSTOMS_MBX_STATUS 0 0 = 8) ∧
      (idOk s.mbxId = true → s.customs.bad.contains s.mbxId = false →
        ((s.bill s.mbxId).serial = 0 → t.get .CUSTOMS_MBX_STATUS 0 0 = 2) ∧
        ((s.bill s.mbxId).serial ≠ 0 → t.fld .CUSTOMS_MBX_STATUS 0 0 3 0 = 1
          ∧ t.get .CUSTOMS_RD_DATA 0 0 = (s.bill s.mbxId).serial % 2 ^ 32))) ∧
    Answers (exec .mbxReadPeriod s) (fun t => t.flag .CUSTOMS_INT 0 0 9 = true ∧ t.customs = s.customs ∧
      (idOk s.mbxId = false → t.get .CUSTOMS_MBX_STATUS 0 0 = 8) ∧
      (idOk s.mbxId = true →
        ((∀ r ∈ s.cusRecords, ¬ (r.type = 2 ∧ r.epx = s.mbxId ∧ leAt r.bytes 8 4 = s.get .CUSTOMS_MBX_ARG1 0 0)) →
          t.get .CUSTOMS_MBX_STATUS 0 0 = 2) ∧
        (∀ r, s.cusRecords = [r] → r.type = 2 → r.epx = s.mbxId → leAt r.bytes 8 4 = s.get .CUSTOMS_MBX_ARG1 0 0 →
          t.fld .CUSTOMS_MBX_STATUS 0 0 3 1 = if r.lost then 6 else 0))) ∧
    Answers (exec .mbxReadProfile s) (fun t => t.flag .CUSTOMS_INT 0 0 9 = true ∧ t.customs = s.customs ∧
      ∀ n, s.fld .CUSTOMS_MBX_ARG2 0 0 6 0 = n →
        (idOk s.mbxId = false ∨ n = 0 ∨ 96 < n → t.get .CUSTOMS_MBX_STATUS 0 0 = 8) ∧
        (idOk s.mbxId = true → 0 < n → n ≤ 96 → (∀ i, i < n → ∃ b, profileEntry s.cusRecords s.mbxId
            (s.fld .CUSTOMS_MBX_ARG0 0 0 25 24) (s.get .CUSTOMS_MBX_ARG1 0 0 + 900 * i) = some (some b)) →
          t.fld .CUSTOMS_MBX_STATUS 0 0 3 1 = 0)) ∧
    (∀ blob : Bytes, s.fld .CUSTOMS_MBX_LEN 0 0 12 0 = 0 →
      Answers (exec (.mbxCalUser blob) s) (fun t => t.get .CUSTOMS_MBX_STATUS 0 0 = 8 ∧ t.customs = s.customs)) ∧
    (∀ (blob content auth : Bytes), s.fld .CUSTOMS_MBX_LEN 0 0 12 0 = blob.length → 0 < blob.length → blob.length ≤ 4096 →
      blob = [6, 0, 0, 0] ++ content ++ auth → auth.length = 104 → leAt auth 0 1 = 1 → (s.keySlot (leAt auth 4 4)).valid = true →
      (s.keySlot (leAt auth 4 4)).usage = 4 → s.tagGood (leAt auth 4 4) → Answers (exec (.mbxCalUser blob) s) (fun t => t.flag .CUSTOMS_INT 0 0 9 = true ∧
        if Config.p384Verify (s.keySlot (leAt auth 4 4)).material (Config.sha384 (toLE 4 0x00B07680 ++ [1] ++ content)) (slice auth 8 96)
        then t.customs.userCal = (if content = [] then none else some content) ∧ t.get .CUSTOMS_MBX_STATUS 0 0 = 0
          ∧ t.flag .CUSTOMS_INT 0 0 5 = true
        else t.customs = s.customs ∧ t.get .CUSTOMS_MBX_STATUS 0 0 = 6)))

/-- While the balance function may create (function RUNNING, quality 6 or below): a TAI minute past the last one writes
a REF packet into the front end's FIFO; the hours and days that settled since the last ones are created in order,
the latest of them in LAST_HOUR or LAST_DAY, and a single group with one part gets one HOUR or TOPO manifest on its
flow in the berth its route names, and such a TOPO makes its day the one under way. A host not held off that starts
a query on the idle port: GROUP answers the group block, MEMBER the row bound to the endpoint, and NOT_FOUND (status
6) without one; SET_FLAGS, SET_BASE and UNBIND answer NOT_FOUND or, with the function RUNNING and a berth open, are
busy with one SET manifest on the group's flow; with the function off they answer REFUSED (R245, R249 to R252, R260;
the payload is the model's choice, assumption 27). (08_loss_detection.md) -/
def Obligations.BalanceInstants : Prop :=
  (∀ s : State, s.balOn = true → s.bal.refMark < s.sec / 60 - 1 → (s.fifo 21).words + 3 ≤ 1024 →
    (∀ x, Map.get? s.bal.mins (s.sec / 60 - 1) = some x → x.v.length = 3) → Answers (exec .refMinuteDue s) (fun t => t.bal = { s.bal with refMark := s.sec / 60 - 1 } ∧
      t = { s with bal := t.bal, dma := t.dma } ∧
      ∃ p, (t.fifo 21).packets = (s.fifo 21).packets ++ [p] ∧ p.kind = kBalance ∧ p.kindArg = 2 ∧ p.arr.idx = 61)) ∧
  (∀ (h : Nat) (s : State), s.balOn = true → h + 1 = (s.sec - 60 * s.fld .BAL_CFG0 0 0 10 0) / 3600 →
    max (s.bal.hourMark + 1) (s.bal.dueFrom / 3600 - 47) ≤ h → Answers (exec .hourDue s) (fun t =>
      t.bal.hourMark = h ∧ t.get .BAL_LAST_HOUR 0 0 = h % 2 ^ 32 ∧
      ∀ x n, s.grps.filter (·.enabled) = [x] → 0 < x.rows → x.rows ≤ 1024 → max (s.bal.hourMark + 1) (s.bal.dueFrom / 3600 - 47) = h →
        s.routed 4 kBalance 62 (groupFlow x.g) n → s.entered t n kBalance 3 (groupFlow x.g) (toLE 4 h))) ∧
  (∀ (d : Nat) (s : State), s.balOn = true → d + 1 = (s.sec - 60 * s.fld .BAL_CFG0 0 0 10 0) / 86400 →
    max (s.bal.dayMark + 1) (s.bal.dueFrom / 86400 - 7) ≤ d → Answers (exec .topoDue s) (fun t =>
      t.bal.dayMark = d ∧ t.get .BAL_LAST_DAY 0 0 = d % 2 ^ 32 ∧
      ∀ x n, s.grps.filter (·.enabled) = [x] → 0 < x.rows → x.rows ≤ 16 → max (s.bal.dayMark + 1) (s.bal.dueFrom / 86400 - 7) = d →
        s.routed 4 kBalance 63 (groupFlow x.g) n → s.entered t n kBalance 4 (groupFlow x.g) (toLE 4 d) ∧ t.bal.topoDay = some d)) ∧
  (∀ (v : Word) (s : State), s.hostHeld = false → bit v.toNat 31 = true → s.flag .BAL_QUERY_STATUS 0 0 0 = false →
    (bits v.toNat 24 22 = 0 → Answers (exec (.balQueryGroup v) s) (fun t => t = { s with regs := t.regs } ∧
      (s.liveGrp? (bits v.toNat 21 0) = none → t.get .BAL_QUERY_STATUS 0 0 = 6) ∧
      ∀ x, s.liveGrp? (bits v.toNat 21 0) = some x → t.get .BAL_QUERY_STATUS 0 0 = 2 ∧
        t.get .BAL_QUERY_DATA 2 0 = (s.block (bits v.toNat 21 0)).lastHour % 2 ^ 32 ∧
        ((s.block (bits v.toNat 21 0)).state < 4 → t.fld .BAL_QUERY_DATA 0 0 1 0 = (s.block (bits v.toNat 21 0)).state))) ∧
    (bits v.toNat 24 22 = 1 → Answers (exec (.balQueryMember v) s) (fun t => t = { s with regs := t.regs } ∧
      (s.boundRow (bits v.toNat 21 0) = none → t.get .BAL_QUERY_STATUS 0 0 = 6) ∧
      ∀ n r, s.boundRow (bits v.toNat 21 0) = some n → Map.get? s.bal.members n = some r → t.get .BAL_QUERY_STATUS 0 0 = 2 ∧
        t.get .BAL_QUERY_DATA 2 0 = r.last.n % 2 ^ 32 ∧ t.get .BAL_QUERY_DATA 3 0 = r.last.day % 2 ^ 32)) ∧
    (∀ i : Instr, (i = .balSetFlags v ∧ bits v.toNat 24 22 = 2) ∨ (i = .balUnbind v ∧ bits v.toNat 24 22 = 4) →
      (s.boundRow (bits v.toNat 21 0) = none → Answers (exec i s) (fun t => t.get .BAL_QUERY_STATUS 0 0 = 6 ∧
        t = { s with regs := t.regs })) ∧
      ∀ n b, s.boundRow (bits v.toNat 21 0) = some n →
        (s.fnRunning 0x11 = false → Answers (exec i s) (fun t => t.get .BAL_QUERY_STATUS 0 0 = 10 ∧ t = { s with regs := t.regs })) ∧
        (s.fnRunning 0x11 = true → s.routed 4 kBalance 60 (groupFlow (s.groupOfRow n)) b →
          Answers (exec i s) (fun t => t.get .BAL_QUERY_STATUS 0 0 = 1 ∧
            s.entered t b kBalance 5 (groupFlow (s.groupOfRow n)) (toLE 1 (bits v.toNat 24 22) ++ toLE 1 (s.fld .BAL_QUERY_ARG 0 0 0 0)
              ++ toLE 2 (s.fld .BAL_QUERY_ARG 0 0 31 16) ++ toLE 4 (bits v.toNat 21 0))))) ∧
    (bits v.toNat 24 22 = 3 →
      (s.liveGrp? (bits v.toNat 21 0) = none → Answers (exec (.balSetBase v) s) (fun t => t.get .BAL_QUERY_STATUS 0 0 = 6 ∧
        t = { s with regs := t.regs })) ∧
      ∀ x b, s.liveGrp? (bits v.toNat 21 0) = some x → s.fnRunning 0x11 = true →
        s.routed 4 kBalance 60 (groupFlow (bits v.toNat 21 0)) b → Answers (exec (.balSetBase v) s) (fun t =>
          t.get .BAL_QUERY_STATUS 0 0 = 1 ∧
          s.entered t b kBalance 5 (groupFlow (bits v.toNat 21 0)) (toLE 1 3 ++ toLE 1 (s.fld .BAL_QUERY_ARG 0 0 0 0)
            ++ toLE 2 (s.fld .BAL_QUERY_ARG 0 0 31 16) ++ toLE 4 (bits v.toNat 21 0)))))

/-- On a wide port that runs (or starts, with RADIO.INT.sealed and the RESET source ended) a craft superframe is
numbered and its 28-byte C_BEACON goes out when functions and sub-band allow; the downlink sends C_STOP first while
all-stop is active. A C_STATUS of the craft of its uplink slot counts, is noted as heard in its superframe and is
acknowledged by the next beacon; one with another craft's number counts UNSLOTTED_CNT. A C_ALARM in its window
counts with CRAFT.INT.alarm. A craft whose last accepted C_STATUS is lost_sf superframes old gets an empty STATUS
manifest on its flow. Observations with a base known go to FIFO 20 as an RTK_EPOCH packet. A survey that meets
survey_s and survey_mm fixes the base, with CRAFT.INT.base, and is kept (R261, R262, R264, R266, R272, R274, R276).
(09_craft_control.md) -/
def Obligations.CraftLink : Prop :=
  (∀ (p b : Nat) (s : State), s.widePort = some p → p < s.radio.ports.length → s.pwrfail = false → s.txAllowed = true →
    s.fnRunning 0x12 = true → s.fnRunning (9 + p) = true → s.bandOfWide p = some b →
    (s.maySend b 0 (wideAirtime 28) = true → (s.rport p).running = true ∨ (s.loader = 6 ∧ s.quality ≤ 6) →
      Answers (exec .craftSuperframeStart s) (fun t => (t.rport p).running = true ∧ (t.rport p).skips = 0
        ∧ t.get .RADIO_SUPERFRAME p 0 = s.craftSf % 2 ^ 32
        ∧ ((s.rport p).running = false → t.flag .RADIO_INT p 0 6 = true ∧ t.craft.reset = false ∧ t.craft.firstSf = some s.craftSf)
        ∧ ∃ f, (t.rport p).txNow = [f] ∧ f.ftype = 8 ∧ f.seq = 0 ∧ f.body.length = 28)) ∧
    ((s.rport p).running = true → Answers (exec .craftDownlink s) (fun t => t.craft.dlSf = some s.craftSf ∧
      (s.craft.allStop = true → s.maySend b 1 (wideAirtime 8) = true →
        t.get .CRAFT_STOP_FRAME_CNT 0 0 = min 0xFFFFFFFF (s.get .CRAFT_STOP_FRAME_CNT 0 0 + 1) ∧
        ∃ f rest, (t.rport p).txNow = f :: rest ∧ f.ftype = 9 ∧ f.body.length = 8)))) ∧
  (∀ (k p : Nat) (rx : RadioRx) (h : RadioHeard) (s u : State), s.craftFrame rx 0xC = (u, some (p, h)) →
    (leAt h.body 0 1 ≠ k → Answers (exec (.cStatusReceived k rx) s) (fun t =>
      t.get .RADIO_UNSLOTTED_CNT p 0 = min 0xFFFFFFFF (s.get .RADIO_UNSLOTTED_CNT p 0 + 1) ∧ t.craft = s.craft)) ∧
    (leAt h.body 0 1 = k → k < s.craftCount → s.fnRunning (9 + p) = true → ∀ δ : Int,
      δ = ((h.t : Int) - (s.rport p).anchor) - ((100000000 * s.craftSfAt h.t + 18000000 + 800000 * k : Nat) : Int) →
      30000 ≤ δ → δ ≤ 70000 → Answers (exec (.cStatusReceived k rx) s) (fun t =>
        t.get .CRAFT_STATUS_CNT 0 0 = min 0xFFFFFFFF (s.get .CRAFT_STATUS_CNT 0 0 + 1)
        ∧ Map.get? t.craft.heard k = some (s.craftSfAt h.t) ∧ (s.craftSfAt h.t, k) ∈ t.craft.acks))) ∧
  (∀ (p : Nat) (rx : RadioRx) (h : RadioHeard) (s u : State), s.craftFrame rx 0xD = (u, some (p, h)) → s.fnRunning (9 + p) = true →
    leAt h.body 0 1 < 96 → 94800000 ≤ ((h.t : Int) - (s.rport p).anchor) % 100000000 →
    Answers (exec (.cAlarmReceived rx) s) (fun t => t.flag .CRAFT_INT 0 0 6 = true
      ∧ t.get .CRAFT_ALARM_CNT 0 0 = min 0xFFFFFFFF (s.get .CRAFT_ALARM_CNT 0 0 + 1))) ∧
  (∀ (c p n b : Nat) (s : State), s.widePort = some p → s.lastStatus c = some n →
    s.fld .CRAFT_CFG0 0 0 20 13 ≤ s.sfSince n → (s.craftRow c).lost = false →
    (∀ m ∈ s.allManifests, ¬ (m.kind = kLaneCheck ∧ m.kindArg % 16 = 1 ∧ m.flow = craftFlow c ∧ m.buf = [])) →
    s.routed 2 kLaneCheck (p * 16) (craftFlow c) b →
    Answers (exec (.craftLost c) s) (fun t => s.entered t b kLaneCheck 1 (craftFlow c) [])) ∧
  (∀ (obs : Bytes) (s : State), obs ≠ [] → s.craft.base.isSome = true → s.fnRunning 0x12 = true → s.widePort.isSome = true →
    (s.fifo 20).words + 273 ≤ 1024 → Answers (exec (.gnssEpochObservations obs) s) (fun t => t = { s with dma := t.dma } ∧
      ∃ x, (t.fifo 20).packets = (s.fifo 20).packets ++ [x] ∧ x.kind = kRtkEpoch ∧ x.data
        = (toLE 4 s.sec ++ toLE 4 (s.craftSfAt (1000000000 * s.sec)) ++ obs).take 4352)) ∧
  (∀ (v : Bytes) (s : State), s.baseItem = some v → s.fld .CRAFT_STATUS 0 0 4 3 = 1 → max 1 (leAt v 4 4) ≤ s.craft.survey.n →
    s.craft.survey.sigma ≤ leAt v 2 2 → Answers (exec .baseSurveyDone s) (fun t => t.flag .CRAFT_INT 0 0 4 = true ∧
      t.fld .CRAFT_STATUS 0 0 4 3 = 2 ∧ ∃ x, t.craft.base = some x ∧ t.craft.kept = some (v, x)))

/-- For every state: STOP_IN_N low, or a STOP_CMD stop of a host not held off, is an active source: all-stop is active,
its sources latched, and a fresh activation sets CRAFT.INT.all_stop and records 0x0C01 with the sources. STOP_IN_N
high, or a release, ends that source; while a CRAFT section is in force all-stop itself stays as it is unless
another source is active. A clear with no source active ends all-stop: stop_epoch advances modulo 256, nothing stays
latched, CRAFT.INT.clear and record 0x0C02; with a source active, or all-stop not active, nothing changes. A query
of a craft of the site shows its row in Q_DATA, of another number NO_CRAFT. EP.RD_CMD shows the 256 bytes of the
record in RD_DATA and moves nothing else; a record whose bytes DDR-5 cannot give shows free values (R121, R272, R276
to R279; assumption 2). (09_craft_control.md; 04_endpoint_pipeline.md) -/
def Obligations.AllStop : Prop :=
  (∀ (s u : State) (i : Instr), (i = .stopInChange true ∧ u = s.modCraft (fun c => { c with stopIn := true })) ∨
      (i = .stopCmdStop ∧ s.hostHeld = false ∧ u = s.modCraft (fun c => { c with host := true })) →
    Answers (exec i s) (fun t => t.craft.stopIn = u.craft.stopIn ∧ t.craft.host = u.craft.host ∧ t.craft.allStop = true
      ∧ t.craft.latched = s.craft.latched ||| u.stopSources ∧ u.stopSources ≠ 0
      ∧ (s.craft.allStop = false → t.flag .CRAFT_INT 0 0 0 = true ∧
        (s.log.queue.length < 64 → ∃ e ∈ t.log.queue, e.code = 0x0C01 ∧ e.key = u.stopSources ∧ e.detail = 0)))) ∧
  (∀ (s u : State) (i : Instr), (i = .stopInChange false ∧ u = s.modCraft (fun c => { c with stopIn := false })) ∨
      (i = .stopCmdRelease ∧ s.hostHeld = false ∧ u = s.modCraft (fun c => { c with host := false })) →
    s.hasSection 0xB0 = true → s.craft.allStop = true ∨ u.stopSources = 0 →
    Answers (exec i s) (fun t => t.craft = { u.craft with latched := s.craft.latched ||| u.stopSources } ∧ t = { s with craft := t.craft })) ∧
  (∀ s : State, s.hostHeld = false →
    (s.stopSources = 0 → s.craft.allStop = true → Answers (exec .stopCmdClear s) (fun t =>
      t.craft = { s.craft with allStop := false, epoch := (s.craft.epoch + 1) % 256, latched := 0 } ∧ t.flag .CRAFT_INT 0 0 1 = true
      ∧ (s.log.queue.length < 64 → t.lastEvent = some (0x0C02, (s.craft.epoch + 1) % 256, s.craft.latched % 2 ^ 32)))) ∧
    (s.stopSources ≠ 0 ∨ s.craft.allStop = false → exec .stopCmdClear s = .next s)) ∧
  (∀ (v : Word) (s : State), s.hostHeld = false → bit v.toNat 31 = true → Answers (exec (.craftQuery v) s) (fun t =>
    t = { s with regs := t.regs } ∧
    (s.craftCount ≤ bits v.toNat 6 0 → t.get .CRAFT_Q_STATUS 0 0 = 4) ∧
    (bits v.toNat 6 0 < s.craftCount → t.get .CRAFT_Q_STATUS 0 0 = 2 ∧
      t.get .CRAFT_Q_DATA 1 0 = (s.craftRow (bits v.toNat 6 0)).east % 2 ^ 32 ∧
      t.get .CRAFT_Q_DATA 2 0 = (s.craftRow (bits v.toNat 6 0)).north % 2 ^ 32 ∧
      t.get .CRAFT_Q_DATA 5 0 = (s.craftRow (bits v.toNat 6 0)).lastHeard % 2 ^ 32))) ∧
  (∀ (v : Word) (s : State), s.hostHeld = false → bit v.toNat 31 = true → Answers (exec (.endpointRecordRead v) s) (fun t =>
    t.get .EP_RD_STATUS 0 0 = 2 ∧ t = { s with regs := t.regs, free := t.free } ∧
    (s.recGone (bits v.toNat 21 0) = true → t.free = s.free + 1) ∧
    (s.recGone (bits v.toNat 21 0) = false → t.free = s.free ∧ ∀ n, n < 64 →
      t.get .EP_RD_DATA n 0 = leAt ((s.record (bits v.toNat 21 0)).bytes s.upd.recFormat) (4 * n) 4 % 2 ^ 32)))

/-- TIME_SECOND reaches the next whole second unless it has passed, publishes it and copies it to the keepalive count,
and counts a duty second and an operating second. The scheduled step at second S with good power moves the count by
e, in 2⁻¹⁶ ns, counts STEP_CNT with TIME.INT.step and record 0x0D01, and leaves no step. SLEW_COMPLETE that ends
within the second leaves no slew, and LOCKING with no step is LOCKED; CUSTOMS_SLEW_DONE that does leaves no
residual. SET_TIME of a host not held off is REFUSED with a source LOCKED; otherwise quality is 6 and the difference
slews below 1 ms, or steps at the next second. PPS_OUT_EDGE and TRIGGER_INSTANT reach their instant when it is next;
a pulse starts unless R292 holds the second's, and the schedule has acted on it. The ageing fit, the aiding save and
the group-delay calibration run when due (R208, R288, R291 to R295, R297, R298, R300, R304; which events advance the
count is the model's choice, assumption 22). (10_time_gnss.md; 07_customs_billing.md) -/
def Obligations.TimeRuns : Prop :=
  (∀ s : State, Answers (exec .timeSecond s) (fun t =>
    t.time.ns = (if s.time.lastSec < s.sec then s.time.ns else 1000000000 * (s.sec + 1)) ∧ t.time.lastSec = t.sec
    ∧ t.time.keep = some t.sec ∧ t.radio.dutySec = s.radio.dutySec + 1 ∧ t.log.opSec = (s.log.opSec + 1) % 2 ^ 40)) ∧
  (∀ (sec : Nat) (e : Int) (s : State), s.time.step = some (sec, e) → s.pwrfail = false → s.now16 ≤ 2 ^ 16 * (1000000000 * sec) →
    s.time.lateErr = none → Answers (exec .timeStep s) (fun t => t.now16 = (2 ^ 16 * (1000000000 * (sec : Int)) + e).toNat
      ∧ t.time.step = none ∧ t.flag .TIME_INT 0 0 0 = true
      ∧ t.get .TIME_STEP_CNT 0 0 = min 0xFFFFFFFF (s.get .TIME_STEP_CNT 0 0 + 1)
      ∧ (t.log.queue.length < 64 → t.lastEvent = some (0x0D01, ofSigned 64 (Int.tdiv e (2 ^ 16)) % 2 ^ 32, ofSigned 64 (Int.tdiv e (2 ^ 16)) / 2 ^ 32)))) ∧
  (∀ (x : Nat) (s : State), s.time.slew ≠ 0 → s.slewK ≠ 0 →
    x = s.time.ns + (s.time.slew.natAbs * (2 ^ 40 + s.time.adj + s.slewK).natAbs / s.slewK.natAbs / 2 ^ 56 + 1) →
    x / 1000000000 = s.sec → Answers (exec .slewComplete s) (fun t => t.time.slew = 0 ∧ t.time.ns = x ∧
      t.flag .TIME_STATUS 0 0 11 = false ∧ (s.discipline = 1 → s.time.step = none → t.discipline = 2))) ∧
  (∀ (x : Nat) (s : State), x = s.time.ns + s.customs.resid.natAbs * 2000 / 2 ^ 56 → x / 1000000000 = s.sec →
    Answers (exec .customsSlewDone s) (fun t => t.customs.resid = 0 ∧ t.time.ns = x)) ∧
  (∀ s : State, s.hostHeld = false →
    (s.bestSource.isSome = true → Answers (exec .setTime s) (fun t => t.fld .TIME_CMD_STATUS 0 0 1 0 = 2
      ∧ t = { s with regs := t.regs } ∧ s.regsBut t [Reg.addr .TIME_CMD_STATUS 0 0])) ∧
    (∀ e : Int, s.bestSource = none → s.time.step = none → e = 2 ^ 16 * ((1000000000 * (s.get .TIME_SET_SEC_LO 0 0
        + s.get .TIME_SET_SEC_HI 0 0 * 2 ^ 32) + s.get .TIME_SET_NS 0 0 : Nat) : Int) - s.now16 →
      Answers (exec .setTime s) (fun t => t.fld .TIME_CMD_STATUS 0 0 1 0 = 1 ∧ t.quality = 6 ∧ t.discipline = 0 ∧ t.selected = 4
        ∧ t.time.ns = s.time.ns ∧ (if e.natAbs < 1000000 * 2 ^ 16 then t.time.slew = e * 2 ^ 40 ∧ t.time.step = none
          else t.time.slew = 0 ∧ t.time.step = some (s.time.ns / 1000000000 + 1, e))))) ∧
  (∀ s : State, s.ppsOn = true → s.within16 (s.edgeOf s.ppsNext) = true → Answers (exec .ppsOutEdge s) (fun t =>
    t.now16 = s.edgeOf s.ppsNext ∧ t.time.ppsDelay = s.ppsNext ∧
    t.time.ppsEnd = if s.ppsHeld (s.edgeSec s.ppsNext).toNat then s.time.ppsEnd
      else s.edgeOf s.ppsNext + 2 ^ 16 * (2000000 * s.fld .TIME_PPS_CFG 0 0 31 24))) ∧
  (∀ (k : Nat) (v : Bytes) (s : State), s.trig? k = some v → s.inService = true → s.trigOn k = true →
    s.actedOn k (firstAfter v (s.time.ns - 1)) = false → s.within (firstAfter v (s.time.ns - 1)) = true →
    Answers (exec (.triggerInstant k) s) (fun t => t.time.ns = firstAfter v (s.time.ns - 1) ∧
      Map.get? t.time.acted k = some (firstAfter v (s.time.ns - 1)) ∧ (bit (leAt v 1 1) 1 = true →
        Map.get? t.time.trigEnd (leAt v 2 1) = some (firstAfter v (s.time.ns - 1) + leAt v 24 4)))) ∧
  (∀ s : State, s.discipline = 2 → 86400 ≤ s.time.history.length → s.bgDue 2 3600 = true → Answers (exec .oscAgeingUpdate s) (fun t =>
    t.time = { s.time with ageing := (slope s.time.history).natAbs * 86400 * 100 * 1000000000 / 2 ^ 72 }
    ∧ Map.get? t.pwr.bgAt 2 = some s.time.ns ∧ t = { s with time := t.time, pwr := t.pwr })) ∧
  (∀ s : State, s.bgDue 4 600 = true → s.hasSection 0xC0 = true → s.storeTakes = true →
    Answers (exec .gnssAidingSave s) (fun t => t.time = { s.time with aidSaved := s.time.aid } ∧ t.free = s.free + 1
      ∧ Map.get? t.pwr.bgAt 4 = some s.time.ns)) ∧
  (∀ s : State, s.bgDue 1 600 = true → Answers (exec .gnssGroupDelayCal s) (fun t =>
    t.time = { s.time with calibrations := s.time.calibrations + 1 } ∧ Map.get? t.pwr.bgAt 1 = some s.time.ns
    ∧ t = { s with time := t.time, pwr := t.pwr, regs := t.regs } ∧ s.regsBut t [Reg.addr .GNSS_STATUS 0 0]))

/-- With the three sources of the timebase: a valid GNSS solution of a tracked system publishes its residual and is the
aiding held; the tenth good one in a row makes GNSS LOCKED with its error and GNSS.INT.locked. An antenna fault is
shown and GNSS is LOST and idle. A rising PPS_IN edge after none starts EXT's count; no edge for 1.1 s makes EXT
LOST. A source of higher priority than the selected one that has been LOCKED for hold_off_s is selected, in LOCKING
or LOCKED at once. An edge on a capture input with an item enters its FIFO of 16 with its stamp to 1/16 ns, or sets
TIME.INT.capt when full; CAPT_POP takes the oldest of each FIFO named. Every PTP message counts; a MASTER port
answers a Delay_Req of its domain with Delay_Resp; a message that is due takes the port's sequence number, which
rises; each enters the port's highest-priority queue when the link is up and it has room; when announces stop the
port has no masters (R289, R290, R301 to R303, R305). (10_time_gnss.md; 15_updates.md) -/
def Obligations.TimeSources : Prop :=
  (∀ (g : GnssSol) (s : State), s.time.sources.length = 3 → g.valid = true → s.tracks g.sys = true →
    Answers (exec (.gnssSolution g) s) (fun t => t.get .GNSS_RESID 0 0 = g.rms % 2 ^ 32 ∧ t.time.aid = some s.sec ∧
      (g.rms < 500 → 4 ≤ s.gnssUsed g → s.flag .GNSS_STATUS 0 0 6 = false → t.time.posMode = s.posMode ∧ ((s.source 1).state ≠ 1 →
        9 ≤ (s.source 1).good → (t.source 1).state = 1 ∧ (t.source 1).err = s.gnssErr g ∧ t.flag .GNSS_INT 0 0 0 = true ∧ t.fld .GNSS_STATUS 0 0 1 0 = 3)))) ∧
  (∀ s : State, s.time.sources.length = 3 →
    Answers (exec (.gnssAntFault true) s) (fun t => t.flag .GNSS_STATUS 0 0 6 = true ∧ (t.source 1).state = 2
      ∧ t.fld .GNSS_STATUS 0 0 1 0 = 1) ∧
    Answers (exec (.gnssAntFault false) s) (fun t => t.flag .GNSS_STATUS 0 0 6 = false ∧ t = { s with regs := t.regs }
      ∧ s.regsBut t [Reg.addr .GNSS_STATUS 0 0])) ∧
  (∀ (ns frac : Nat) (s : State), s.time.sources.length = 3 →
    ((s.source 3).good = 0 → Answers (exec (.ppsInEdge ns frac 0) s) (fun t => (t.source 3).good = 1 ∧ (t.source 3).edge = ns
      ∧ (t.source 3).first = edgePhase ns frac)) ∧
    ((s.source 3).good = 9 → (s.source 3).state ≠ 1 → 999950000 + (s.source 3).edge ≤ ns → ns ≤ 1000050000 + (s.source 3).edge →
      (edgePhase ns frac - (s.source 3).first).natAbs ≤ 1000 * 2 ^ 16 → Answers (exec (.ppsInEdge ns frac 0) s) (fun t =>
        (t.source 3).state = 1 ∧ (t.source 3).since = ns ∧ (t.source 3).err = edgePhase ns frac))) ∧
  (∀ s : State, s.time.sources.length = 3 → s.source 3 ≠ TimeSource.start → (s.source 3).edge + 1100000000 ≤ s.time.ns →
    Answers (exec .extLost s) (fun t => (t.source 3).state = 2)) ∧
  (∀ (c : Nat) (rest : List Nat) (s : State), s.listed = c :: rest → s.selected ≠ c → (s.source c).state = 1 →
    (s.source c).since + 1000000000 * s.fld .TIME_CFG0 0 0 15 7 ≤ s.time.ns → s.discipline = 2 →
    Answers (exec .holdOffExpire s) (fun t => t.selected = c ∧ (t.discipline = 1 ∨ t.discipline = 2))) ∧
  (∀ (n ns frac e : Nat) (s : State), n < 8 → e < 2 →
    (s.items 0xC0 10).any (fun v => leAt v 0 1 = n && (leAt v 1 1 = 2 || leAt v 1 1 = e)) = true →
    ((Map.getD s.time.capt n []).length < 16 → Answers (exec (.captureEdge n ns frac e) s) (fun t =>
      Map.getD t.time.capt n [] = Map.getD s.time.capt n [] ++ [⟨ns, frac % 2 ^ 16 / 4096 * 4096, e, s.quality⟩]
      ∧ t = { s with time := t.time })) ∧
    (16 ≤ (Map.getD s.time.capt n []).length → Answers (exec (.captureEdge n ns frac e) s) (fun t =>
      t.flag .TIME_INT 0 0 6 = true ∧ t.time = s.time))) ∧
  (∀ (v : Word) (s : State), s.hostHeld = false → Answers (exec (.captPop v) s) (fun t => t = { s with time := t.time } ∧
    ∀ n, n < 9 → Map.getD t.time.capt n [] = (Map.getD s.time.capt n []).drop (if bit v.toNat n then 1 else 0))) ∧
  (∀ (p : Nat) (rx : PtpRx) (s : State), p < 4 → Answers (exec (.ptpMessageReceived p rx) s) (fun t =>
    t.get .ETH_CNT p 4 = min 0xFFFFFFFF (s.get .ETH_CNT p 4 + 1) ∧
    (s.ptpRole p = 1 ∨ s.ptpRole p = 2 → rx.domain = s.ptpCfg 0 0 → rx.mtype = 1 → (s.ptpPort p).state = 6 → s.ptpCfg 2 0 ≠ 1 →
      p < s.eth.ports.length → 7 < (s.ethPort p).queues.length → s.ethUp p = true → s.ethRoom p 7 (ptpHead (s.ptpCfg 1 0) + ptpLen 9) = true →
      ∃ f x, ((t.ethPort p).queues.getD 7 []).getLast? = some f ∧ f.ptp = some x ∧ x.port = p ∧ x.mtype = 9 ∧ x.seq = rx.seq
        ∧ x.requester = rx.sender ∧ x.time = ((rx.at' : Int) - s.ptpLatency p 2).toNat))) ∧
  (∀ (p ty : Nat) (s : State), p < 4 → p < s.time.ptp.length → s.ptpDue p ty = true →
    ((ty = 0 ∨ ty = 0xB) ∧ (s.ptpPort p).state = 6) ∨ (ty = 1 ∧ (s.ptpPort p).state = 9 ∧ s.ptpCfg 2 0 ≠ 1)
      ∨ (ty = 2 ∧ s.ptpCfg 2 0 = 1 ∧ s.ptpRole p ≠ 0) →
    Answers (exec (.ptpMessageSend p ty) s) (fun t => (t.ptpPort p).seq = ((s.ptpPort p).seq + 1) % 2 ^ 16
      ∧ Map.get? (t.ptpPort p).sentAt ty = some s.time.ns ∧ t = { s with time := t.time, eth := t.eth, regs := t.regs }
      ∧ s.regsBut t [Reg.addr .ETH_CNT p 7] ∧ (p < s.eth.ports.length → 7 < (s.ethPort p).queues.length → s.ethUp p = true →
        s.ethRoom p 7 (ptpHead (s.ptpCfg 1 0) + ptpLen ty) = true → ∃ f x, ((t.ethPort p).queues.getD 7 []).getLast? = some f
          ∧ f.ptp = some x ∧ x.port = p ∧ x.mtype = ty ∧ x.seq = (s.ptpPort p).seq))) ∧
  (∀ (p : Nat) (s : State), p < s.time.ptp.length →
    (s.ptpPort p).heardAt + s.ptpCfg 7 3 * logInterval (s.ptpCfg 6 1) ≤ s.time.ns →
    Answers (exec (.ptpAnnounceTimeout p) s) (fun t => (t.ptpPort p).masters = []))

/-- For every state in which the host is not held off: CHALLENGE draws a nonce, completes with BOND.INT.done, and the
nonce ends 300 s later. In FACTORY, LOAD_PLAIN of a buffer with BOND.LEN 68 and ERASE_PLAIN write or empty the slot,
one write more, when the slot takes it; outside FACTORY they report STATE, and for another BOND.LEN FORMAT. GENERATE
in FACTORY draws a key, marks it generated, and clears BOND.DATA. ATTEST with a nonce of at most 32 bytes over a
VALID slot other than 1, whose tag and slot 0's agree, writes the signed statement to host memory and leaves every
slot as it was; for slot 1 it reports SLOT. SIGN with a SIGNING slot whose tag agrees, outside RETIRED, answers the
signature in DATA_0 to DATA_23, and in RETIRED reports STATE. DEPLOY, EXIT_SERVICE and RETIRE_FACTORY take their
transition from their state when nothing refuses it and power is good, and report STATE in any other (R309 to R311,
R314 to R316, R321, R322, R324, R325). (11_bonded_store.md) -/
def Obligations.BondCommands : Prop :=
  (∀ s : State, s.hostHeld = false → Answers (exec .bondChallenge s) (fun t => t.get .BOND_CMD_STATUS 0 0 = 1 ∧
    t.flag .BOND_INT 0 0 0 = true ∧ t.bond = { s.bond with nonce := some (Config.trng s.bond.drawn 16), nonceAt := s.time.ns, drawn := s.bond.drawn + 1 } ∧ t = { s with bond := t.bond, regs := t.regs, host := t.host })) ∧
  (∀ s : State, s.bond.nonceAt + 300000000000 ≤ s.time.ns →
    exec .nonceExpire s = .next { s with bond := { s.bond with nonce := none } }) ∧
  (∀ (n w : Nat) (buf : Bytes) (s : State), s.hostHeld = false →
    (s.bond.lifecycle ≠ 1 → ∀ i : Instr, i = .bondLoadPlain n buf ∨ i = .bondErasePlain n → Answers (exec i s) (fun t =>
      t.get .BOND_CMD_STATUS 0 0 = 3 ∧ t.bond = s.bond)) ∧
    (s.bond.lifecycle = 1 → s.fld .BOND_LEN 0 0 12 0 ≠ 68 → Answers (exec (.bondLoadPlain n buf) s) (fun t =>
      t.get .BOND_CMD_STATUS 0 0 = 19 ∧ t.bond = s.bond)) ∧
    (s.bond.lifecycle = 1 → s.fld .BOND_LEN 0 0 12 0 = 68 → w = leAt (fit 68 buf) 0 4 → s.slotRefusal n w false = none →
      (s.keySlot n).copyBad = 0 →
      Answers (exec (.bondLoadPlain n buf) s) (fun t => t.get .BOND_CMD_STATUS 0 0 = 1 ∧ (t.keySlot n).key = fit 64 ((fit 68 buf).drop 4)
        ∧ (t.keySlot n).attr = bits w 6 0 + bits w 31 16 * 2 ^ 16 ∧ (t.keySlot n).writes = (s.keySlot n).writes + 1
        ∧ ∀ j, j ≠ n → t.keySlot j = s.keySlot j)) ∧
    (s.bond.lifecycle = 1 → reservedSlot n = false → n ≤ 255 → (s.keySlot n).bad = false → s.slotInUse n = false →
      (s.keySlot n).writes < 10000 → (s.keySlot n).copyBad = 0 → Answers (exec (.bondErasePlain n) s) (fun t => t.get .BOND_CMD_STATUS 0 0 = 1 ∧
        (t.keySlot n).key = [] ∧ (t.keySlot n).attr = 0 ∧ (t.keySlot n).writes = (s.keySlot n).writes + 1
        ∧ ∀ j, j ≠ n → t.keySlot j = s.keySlot j))) ∧
  (∀ (n w : Nat) (s : State), s.hostHeld = false → s.bond.lifecycle = 1 → w = s.get .BOND_DATA 0 0 → s.slotRefusal n w true = none →
    (s.keySlot n).copyBad = 0 → Answers (exec (.bondGenerate n) s) (fun t => t.get .BOND_CMD_STATUS 0 0 = 1 ∧ t.bond.drawn = s.bond.drawn + 1 ∧
      (t.keySlot n).key = fit 64 (Config.trng s.bond.drawn (algBytes (bits w 6 4))) ∧
      (t.keySlot n).attr = bits w 6 0 + 2 ^ 7 + bits w 31 16 * 2 ^ 16 ∧ ∀ j, j < 64 → t.get .BOND_DATA j 0 = 0)) ∧
  (∀ (n flags : Nat) (s : State), s.hostHeld = false → flags % 64 ≤ 32 →
    (n = 1 → Answers (exec (.bondAttest n flags) s) (fun t => t.get .BOND_CMD_STATUS 0 0 = 9 ∧ t.bond = s.bond)) ∧
    (n ≠ 1 → (s.keySlot 0).valid = true → (s.keySlot n).valid = true → s.tagGood 0 → s.tagGood n →
    Answers (exec (.bondAttest n flags) s) (fun t => t.fld .BOND_CMD_STATUS 0 0 15 0 = 1 ∧ t.bond = s.bond ∧
      t.host.mem = memWrite s.host.mem s.bondAddr (s.coseSign1 (s.statement n ((s.bondDataBytes 8).take (flags % 64))))))) ∧
  (∀ (n : Nat) (s : State), s.hostHeld = false →
    (s.bond.lifecycle = 4 → Answers (exec (.bondSign n) s) (fun t => t.get .BOND_CMD_STATUS 0 0 = 3 ∧ t.bond = s.bond)) ∧
    (s.bond.lifecycle ≠ 4 → (s.keySlot n).valid = true → (s.keySlot n).usage = 12 → s.tagGood n → Answers (exec (.bondSign n) s) (fun t =>
      t.get .BOND_CMD_STATUS 0 0 = 1 ∧ t.bond = s.bond ∧ ∀ j, j < 24 → t.get .BOND_DATA j 0
        = leAt (fit 96 (Config.p384Sign (s.keySlot n).material (s.bondDataBytes 12))) (4 * j) 4))) ∧
  (∀ (src dst flags : Nat) (i : Instr) (s : State), s.hostHeld = false → (i = .bondDeploy flags ∧ src = 1 ∧ dst = 2) ∨
      (i = .bondExitService flags ∧ src = 3 ∧ dst = 2) ∨ (i = .bondRetireFactory flags ∧ src = 1 ∧ dst = 4) →
    (s.bond.lifecycle ≠ src → Answers (exec i s) (fun t => t.get .BOND_CMD_STATUS 0 0 = 3 ∧ t.bond = s.bond)) ∧
    (s.bond.lifecycle = src → s.lifeRefusal dst (bit flags 1) = none → s.pwrfail = false → Answers (exec i s) (fun t =>
      t.bond.lifecycle = dst ∧ (t.keySlot 2).key = [] ∧ (dst = 4 → (t.keySlot 1).key = [] ∧ (t.keySlot 255).key = []))))

/-- For every owner-signed blob of BOND.LEN bytes, of its row's code, whose signer's slot agrees with its tag, and a
host not held off, the nonce is consumed. A blob whose form, signer, target, challenge or signature fails reports
that reason and changes nothing else of the Bonded Store. One that passes them all takes effect: ENTER_SERVICE in
DEPLOYED moves the life cycle to SERVICE and RETIRE in DEPLOYED or SERVICE to RETIRED, when nothing refuses the
transition and power is good; OWNER_LOCK_SET and CLEAR write the owner lock, one write more; in SERVICE without the
owner lock, LOAD_WRAPPED reports AUTH when the wrapped key does not open under slot 255 and otherwise writes a slot
that takes it, and ERASE_SLOT empties a slot that is not reserved, in use, worn or BAD; LOG_CLEAR clears the Logbook
up to the given sequence with LOG.INT.cleared (R313 to R316, R323 to R325, R383). (11_bonded_store.md;
14_logbook.md) -/
def Obligations.OwnerCommands : Prop :=
  ∀ (buf blob : Bytes) (i : Instr) (code : Nat) (s : State), s.hostHeld = false → blob = s.bondBuf buf → leAt blob 0 1 = code →
    s.tagGood (leAt blob 1 1) →
    (i, code) ∈ [(.ownerEnterService buf, 1), (.ownerRetire buf, 2), (.ownerLockSet buf, 3), (.ownerLockClear buf, 4),
      (.ownerLoadWrapped buf, 5), (.ownerEraseSlot buf, 6), (.ownerLogClear buf, 7)] →
    Answers (exec i s) (fun t => t.bond.nonce = none ∧
      (∀ r, s.ownerRefusal blob = some r → t.get .BOND_CMD_STATUS 0 0 = 1 + 2 * r ∧ t.flag .BOND_INT 0 0 0 = true
        ∧ t.bond = { s.bond with nonce := none } ∧ t = { s with bond := t.bond, regs := t.regs, host := t.host }) ∧
      (s.ownerRefusal blob = none →
        (code = 1 → s.bond.lifecycle = 2 → (ownerArg blob).length = 4 → s.pwrfail = false →
          s.lifeRefusal 3 (bit (leAt (ownerArg blob) 0 1) 1) = none → t.bond.lifecycle = 3) ∧
        (code = 2 → s.bond.lifecycle = 2 ∨ s.bond.lifecycle = 3 → (ownerArg blob).length = 4 → s.pwrfail = false →
          s.lifeRefusal 4 (bit (leAt (ownerArg blob) 0 1) 1) = none → t.bond.lifecycle = 4) ∧
        (code = 3 ∨ code = 4 → s.bond.lifecycle = 2 ∨ s.bond.lifecycle = 3 → ownerArg blob = [] → s.bond.lockWrites < 10000 →
          t.bond = { s.bond with nonce := none, ownerLock := decide (code = 3), lockWrites := s.bond.lockWrites + 1 }
          ∧ t.get .BOND_CMD_STATUS 0 0 = 1) ∧
        (code = 5 → s.bond.lifecycle = 3 → (ownerArg blob).length = 152 → s.bond.ownerLock = false → (s.keySlot 255).valid = true → s.tagGood 255 →
          ∀ o, o = Config.gcmOpen (Config.kmac256 (Config.p384Ecdh (s.keySlot 255).material (slice (ownerArg blob) 4 49))
            (ascii "VQ-LOAD") (toLE 8 Config.serial.toNat ++ toLE 1 (leAt (ownerArg blob) 0 1) ++ slice blob 16 16) 32)
            (slice (ownerArg blob) 56 12) ((ownerArg blob).take 56) (slice (ownerArg blob) 68 84) →
          (o = none → t.get .BOND_CMD_STATUS 0 0 = 5) ∧
          (∀ p, o = some p → s.slotRefusal (leAt (ownerArg blob) 0 1) (leAt p 0 4) false = none →
            (s.keySlot (leAt (ownerArg blob) 0 1)).copyBad = 0 →
            t.get .BOND_CMD_STATUS 0 0 = 1 ∧ (t.keySlot (leAt (ownerArg blob) 0 1)).key = fit 64 (p.drop 4))) ∧
        (code = 6 → s.bond.lifecycle = 3 → (ownerArg blob).length = 4 → s.bond.ownerLock = false → ∀ n, n = leAt (ownerArg blob) 0 1 →
          reservedSlot n = false → (s.keySlot n).bad = false → s.slotInUse n = false → (s.keySlot n).writes < 10000 →
          t.get .BOND_CMD_STATUS 0 0 = 1 ∧ (t.keySlot n).key = [] ∧ (t.keySlot n).attr = 0) ∧
        (code = 7 → s.bond.lifecycle = 2 ∨ s.bond.lifecycle = 3 → (ownerArg blob).length = 8 → s.pwrfail = false →
          1024 ≤ leAt (ownerArg blob) 0 4 → leAt (ownerArg blob) 0 4 ≤ s.log.newestSeq →
          t.log.clearMark = leAt (ownerArg blob) 0 4 ∧ t.flag .LOG_INT 0 0 2 = true ∧ t.get .BOND_CMD_STATUS 0 0 = 1)))

/-- WRITE_CACHE_PAGE_TIMEOUT closes, filled with zeros, every open page of its stream that no append entered for 1 s.
PAGE_PROGRAM_DONE, in a store that takes appends and without PWRFAIL_N: a MAP page takes at most 1,019 entries off
the journal buffer, and a checkpoint follows after ckpt_pages pages; a closed AID page goes from the cache into its
block and is mapped there; Customs records move from the buffer to the partition; a page that failed retires its
block, counts PROG_FAIL_CNT and stays in the cache or the buffer. A fold that is due, of a logical block of at most
4,096 pages, moves the latest copy of each page into the native block and counts FOLD_CNT when its copies read back,
and otherwise retires that block and maps what it mapped; one that is not due changes nothing. Levelling relocates
the coldest block of a LUN whose spread exceeds wear_delta, at most once in 10 s. An erase that succeeds leaves a
block erased, one erase more; after a format's last one the store is READY if every LUN has a spare block; one that
fails retires the block; a block that awaits none changes nothing. In a patrol pass the corrected bits and
uncorrectable codewords of a block are counted, INT.uncorrectable shows the latter, REFRESH_CNT counts a block with
pages above refresh_bits, one logical block in it moves, a block at or below them stays, and the last block of the
last LUN ends and counts the pass; without a pass patrol does nothing (R28, R333, R335, R337, R342 to R344).
(12_store.md) -/
def Obligations.StoreArray : Prop :=
  (∀ (part page : Nat) (s : State), Answers (exec (.writeCachePageTimeout part page) s) (fun t =>
    t = { s with store := { s.store with cache := t.store.cache } } ∧ t.store.cache.length = s.store.cache.length ∧
    ∀ (i : Nat) (c : CachePage), s.store.cache[i]? = some c → t.store.cache[i]? = some (
      if c.part = part ∧ (part = 2 ∨ c.page = page) ∧ c.closed = false ∧ c.last + 1000000000 ≤ s.time.ns then
        { c with data := fit 16384 c.data, closed := true } else c))) ∧
  (∀ s : State, s.storeTakes = true → s.pwrfail = false →
    (s.store.entries ≠ [] → s.store.luns ≠ 0 → Answers (exec (.pageProgramDone 0 true) s) (fun t => t = { s with store := t.store } ∧
      (s.store.mapSeq + 1 < (s.store.ckpts.head?.map (·.seq)).getD 0 + s.ckptPages →
        t.store.entries = s.store.entries.drop 1019 ∧ t.store.mapSeq = s.store.mapSeq + 1 ∧ t.store.seq = s.store.seq + 1
        ∧ t.store.ckpts = s.store.ckpts ∧ t.store.map.pages = s.store.map.pages) ∧
      ((s.store.ckpts.head?.map (·.seq)).getD 0 + s.ckptPages ≤ s.store.mapSeq + 1 →
        t.store.entries = [] ∧ t.store.mapSeq = s.store.mapSeq + 2 ∧ t.store.seq = s.store.seq + 2
        ∧ t.store.ckpts = (⟨s.store.mapSeq + 2, t.store.map, t.store.health⟩ :: s.store.ckpts).take 2))) ∧
    (s.store.entries ≠ [] → Answers (exec (.pageProgramDone 0 false) s) (fun t => t.store.entries.take s.store.entries.length = s.store.entries
      ∧ t.store.mapSeq = s.store.mapSeq ∧ t.get .STORE_PROG_FAIL_CNT 0 0 = min 0xFFFFFFFF (s.get .STORE_PROG_FAIL_CNT 0 0 + 1))) ∧
    (∀ (i k : Nat) (c : CachePage) (u : State), s.cacheNext 4 = some (i, c) → s.programTarget 4 c.page false = some (k, u) →
      (s.store.aidWait = [] → Answers (exec (.pageProgramDone 4 true) s) (fun t => t.store.cache = s.store.cache.eraseIdx i ∧
        t.blkPages k = u.blkPages k ++ [u.pageOf 4 c.page true c.data false] ∧ t.store.seq = s.store.seq + 1 ∧
        Map.get? t.store.map.pages (pageKey 4 c.page) = some (4096 * k + (u.blkPages k).length) ∧ t = { s with store := t.store })) ∧
      Answers (exec (.pageProgramDone 4 false) s) (fun t => t.store.cache = s.store.cache ∧ (t.store.map.info k).role = 5 ∧
        t.get .STORE_PROG_FAIL_CNT 0 0 = min 0xFFFFFFFF (s.get .STORE_PROG_FAIL_CNT 0 0 + 1)))) ∧
  (∀ (copy : Bool) (p k : Nat) (u s : State), s.storeState ≠ 6 → s.pwrfail = false → s.customs.buffer ≠ [] → s.hasRegion = true →
    copy = s.customs.buffer.head?.any (·.type = 8) → s.cusFree copy ≠ 0 →
    p = (if copy then s.store.cusMap.a.tail else s.store.cusMap.b.tail) → s.programTarget 1 p false = some (k, u) →
    Answers (exec (.pageProgramDone 1 true) s) (fun t =>
      t.blkPages k = u.blkPages k ++ [u.pageOf 1 p true
        (slice ((cusRun s.customs.buffer).flatMap (·.bytes)) s.customs.cusOff 16384) false] ∧
      (t.customs.part ++ t.customs.buffer).map (fun r => r.bytes) = (s.customs.part ++ s.customs.buffer).map (fun r => r.bytes)
      ∧ t = { s with customs := t.customs, store := t.store }) ∧
    Answers (exec (.pageProgramDone 1 false) s) (fun t => t.customs = s.customs ∧ (t.store.cusMap.info k).role = 5)) ∧
  (∀ (part : Nat) (ok : Bool) (s : State), s.storeState ≠ 6 → s.pwrfail = true → exec (.pageProgramDone part ok) s = .next s) ∧
  (∀ (part k : Nat) (f : FoldRead) (s : State), s.mapReady part = true → s.foldDue part f.lblk = true →
    (s.heldPages part f.lblk).length ≤ 4096 → s.store.bpl ≤ 65536 →
    s.allocNand part (s.lunOf f.lblk) false (if part = 1 then 0 else 2) = some k →
    (f.verified = true → Answers (exec (.foldCommit part f) s) (fun t => s.folded t part f.lblk k f.bad ∧
      t.get .STORE_FOLD_CNT 0 0 = min 0xFFFFFFFF (s.get .STORE_FOLD_CNT 0 0 + 1) ∧
      t.get .STORE_UNCORR_CNT 0 0 = min 0xFFFFFFFF (s.get .STORE_UNCORR_CNT 0 0 + f.bad.length) ∧
      (f.bad = [] → t = { s with store := t.store, regs := t.regs } ∧ s.regsBut t [Reg.addr .STORE_FOLD_CNT 0 0]))) ∧
    (f.verified = false → Answers (exec (.foldCommit part f) s) (fun t => ((t.mapOf part).info k).role = 5 ∧
      (t.mapOf part).pages = (s.mapOf part).pages ∧ t.get .STORE_FOLD_CNT 0 0 = s.get .STORE_FOLD_CNT 0 0))) ∧
  (∀ (part : Nat) (f : FoldRead) (s : State), s.mapReady part = false ∨ s.foldDue part f.lblk = false →
    exec (.foldCommit part f) s = .next s) ∧
  (∀ (lun k : Nat) (e : Nat × BlkInfo) (s : State), s.mapReady 2 = true → s.storeState ≠ 5 →
    ((s.lunBlocks 1 lun ++ s.lunBlocks 2 lun).filter (·.2.role = 1)).find? (fun e => some e.2.erases
      = (((s.lunBlocks 1 lun ++ s.lunBlocks 2 lun).filter (·.2.role = 1)).map (·.2.erases)).min?) = some e →
    s.fld .STORE_CFG0 0 0 31 18 < (s.eraseSpan lun).2 - (s.eraseSpan lun).1 →
    (s.heldPages e.2.part e.2.lblk).length ≤ 4096 → s.store.bpl ≤ 65536 →
    s.allocNand e.2.part (s.lunOf e.2.lblk) false (if e.2.part = 1 then 0 else 2) = some k →
    ((∀ w, Map.get? s.store.wlAt lun = some w → w + 10000000000 ≤ s.time.ns) →
      Answers (exec (.staticWearLevel lun) s) (fun t => s.folded t e.2.part e.2.lblk k []
        ∧ Map.get? t.store.wlAt lun = some s.time.ns ∧ t = { s with store := t.store })) ∧
    (∀ w, Map.get? s.store.wlAt lun = some w → s.time.ns < w + 10000000000 → exec (.staticWearLevel lun) s = .next s)) ∧
  (∀ (lun blk part k : Nat) (s : State), k = 65536 * lun + blk → part = (if blk < s.store.cus then 1 else 2) →
    (s.mapReady part = true → lun < s.store.luns → blk < s.store.bpl → part = 1 ∨ s.store.cus + 4 ≤ blk →
      ((s.mapOf part).info k).role = 4 ∨ ((s.mapOf part).info k).role = 8 →
      Answers (exec (.blockEraseDone lun blk true) s) (fun t => ((t.mapOf part).info k).role = 0 ∧ t.blkPages k = []
        ∧ ((t.mapOf part).info k).erases = ((s.mapOf part).info k).erases + 1
        ∧ (((s.mapOf part).info k).role = 4 → t = { s with store := t.store })
        ∧ (((s.mapOf part).info k).role = 8 → (t.formatting = true → t.storeState = 3) ∧
          (t.formatting = false → (∀ l, l < t.store.luns → t.spareOf l ≠ 0) → t.storeState = 2))) ∧
      Answers (exec (.blockEraseDone lun blk false) s) (fun t => ((t.mapOf part).info k).role = 5
        ∧ t.get .STORE_PROG_FAIL_CNT 0 0 = min 0xFFFFFFFF (s.get .STORE_PROG_FAIL_CNT 0 0 + 1))) ∧
    (((s.mapOf part).info k).role ≠ 4 → ((s.mapOf part).info k).role ≠ 8 → ∀ ok, exec (.blockEraseDone lun blk ok) s = .next s)) ∧
  (∀ (lun blk worst corrected part k : Nat) (bad : List Nat) (s : State), k = 65536 * lun + blk →
    part = (if blk < s.store.cus then 1 else 2) → s.pwrfail = false → s.power < 2 →
    (s.store.patrolling = true → Answers (exec (.nandPatrol lun blk worst corrected bad) s) (fun t =>
      t.store.health.corr = s.store.health.corr + corrected ∧ t.store.health.uncorr = s.store.health.uncorr + bad.length
      ∧ t.get .STORE_CORR_CNT 0 0 = min 0xFFFFFFFF (s.get .STORE_CORR_CNT 0 0 + corrected)
      ∧ (bad ≠ [] → t.flag .STORE_INT 0 0 0 = true)
      ∧ (s.fld .STORE_CFG0 0 0 12 5 < worst → s.blocksIn part k ≠ [] →
        t.get .STORE_REFRESH_CNT 0 0 = min 0xFFFFFFFF (s.get .STORE_REFRESH_CNT 0 0 + 1))
      ∧ (∀ p l n, s.fld .STORE_CFG0 0 0 12 5 < worst → s.blocksIn part k = [(p, l)] → bad = [] →
        (s.heldPages p l).length ≤ 4096 → s.store.bpl ≤ 65536 →
        s.allocNand p (s.lunOf l) false (if p = 1 then 0 else 2) = some n → s.folded t p l n [])
      ∧ (worst ≤ s.fld .STORE_CFG0 0 0 12 5 → t.store.map = s.store.map ∧ t.store.cusMap = s.store.cusMap ∧ t.store.nand = s.store.nand)
      ∧ (lun + 1 = s.store.luns → blk + 1 = s.store.bpl → t.store.patrolling = false ∧
        t.get .PWR_BG_PASS 2 0 = min 0xFFFFFFFF (s.get .PWR_BG_PASS 2 0 + 1)))) ∧
    (s.store.patrolling = false → lun ≠ 0 ∨ blk ≠ 0 → exec (.nandPatrol lun blk worst corrected bad) s = .next s))

/-- STORE_START of a store that is OFF or STARTING in service reports a flush of the last power-down that left no
flush_end (INT bit 5), and goes to NO_KEY when slot 2, its tags checked, is not VALID. With a key whose fingerprint
the newest page of MAP carries the map is that of the newest checkpoint that reads, when nothing was journaled or
programmed after it, and the store is READY unless blocks await the erase of a format or a LUN has no spare; with
another fingerprint it is formatted: INT.formatted, record 0x1001, state FORMATTING, an empty cache (with no AID
page waiting), and a map without pages. READ refuses a partition other than PROFILE and LOG, a store that cannot
serve it, and a page beyond the partition, and otherwise writes the latest copy of the page to host memory, zeros
where there is none, with the codewords that do not decode as zeros and result 3; nothing but registers, host
memory, vectors, the store and Logbook events changes. DISCARD takes pages of PROFILE alone, and then a page of the
range maps to nothing and a cached copy of it reads as zeros, while every other page stays. HEALTH writes the health
page, or reports BUSY in the flush and with PWRFAIL_N accepted. Each ends with its result and INT.done (R333, R339,
R340, R343, R345 to R348). (12_store.md) -/
def Obligations.StoreHost : Prop :=
  (∀ s u : State, s.inService = true → s.storeState = 0 ∨ s.storeState = 1 →
    u = (s.setFlag .STORE_STATUS 0 0 12 s.hasRegion).flushReport.useSlot 2 →
    (s.store.down = true → s.store.flushEnd = false → Answers (exec .storeStart s) (fun t => t.flag .STORE_INT 0 0 5 = true)) ∧
    ((u.keySlot 2).valid = false → Answers (exec .storeStart s) (fun t => t.storeState = 4
      ∧ t.store.map = s.store.map ∧ t.store.nand = s.store.nand)) ∧
    ((u.keySlot 2).valid = true → u.sameKey = true → Answers (exec .storeStart s) (fun t =>
      (∀ c, s.store.ckpts.find? (fun c => (Map.get? (u.mapPages.filter (fun p => u.fpOf p.2)) c.seq).any (fun d => leAt d 2 2 = 2)) = some c →
        s.store.mapSeq = c.seq → s.store.entries = [] → u.written = [] → t.store.map = c.map) ∧
      (s.store.aidWait = [] → t.store.cache = s.store.cache) ∧
      (t.formatting = true → t.storeState = 3) ∧
      (t.formatting = false → (∀ l, l < t.store.luns → t.spareOf l ≠ 0) → t.storeState = 2))) ∧
    ((u.keySlot 2).valid = true → u.sameKey = false → Answers (exec .storeStart s) (fun t => t.flag .STORE_INT 0 0 2 = true ∧
      (t.log.queue.length < 64 → t.lastEvent = some (0x1001, 0, 0)) ∧ t.storeState = 3 ∧ (s.store.aidWait = [] → t.store.cache = [])
      ∧ t.store.map.pages = [] ∧ t.store.map.a.used = 0 ∧ t.store.map.b.used = 0))) ∧
  (∀ (part worst corrected page : Nat) (bad : List Nat) (s : State), s.hostHeld = false → page = s.get .STORE_ARG 0 0 →
    Answers (exec (.storeRead part worst corrected bad) s) (fun t => t.flag .STORE_INT 0 0 6 = true ∧
      t = { s with regs := t.regs, host := { s.host with mem := t.host.mem, sent := t.host.sent }, store := t.store, log := t.log } ∧
      (part ≠ 2 → part ≠ 3 → t.get .STORE_CMD_STATUS 0 0 = 2 + 4 * 1 ∧ t.host.mem = s.host.mem) ∧
      (part = 2 ∨ part = 3 → (∀ r, s.storeBusy = some r → t.get .STORE_CMD_STATUS 0 0 = 2 + 4 * r ∧ t.host.mem = s.host.mem) ∧
        (s.storeBusy = none → (s.partPages part ≤ page → t.get .STORE_CMD_STATUS 0 0 = 2 + 4 * 2 ∧ t.host.mem = s.host.mem) ∧
          (page < s.partPages part → ∀ d, s.cachedPage part page = some d →
            t.get .STORE_CMD_STATUS 0 0 = 2 ∧ t.host.mem = memWrite s.host.mem s.storeAddr (fit 16384 d)) ∧
          (page < s.partPages part → s.cachedPage part page = none →
            (s.nandPage part page = none → t.get .STORE_CMD_STATUS 0 0 = 2
              ∧ t.host.mem = memWrite s.host.mem s.storeAddr (fit 16384 [])) ∧
            (∀ x, s.nandPage part page = some x →
              t.get .STORE_CMD_STATUS 0 0 = 2 + 4 * (if x.bad = [] ∧ bad = [] then 0 else 3) ∧
              t.host.mem = memWrite s.host.mem s.storeAddr (fit 16384 (s.readData x bad)))))))) ∧
  (∀ (part count page : Nat) (s : State), s.hostHeld = false → page = s.get .STORE_ARG 0 0 →
    Answers (exec (.storeDiscard part count) s) (fun t => t.flag .STORE_INT 0 0 6 = true ∧
      t = { s with regs := t.regs, host := { s.host with sent := t.host.sent }, store := t.store } ∧
      (part ≠ 2 → t.get .STORE_CMD_STATUS 0 0 = 2 + 4 * 1 ∧ t.store = s.store) ∧
      (part = 2 → (∀ r, s.storeBusy = some r → t.get .STORE_CMD_STATUS 0 0 = 2 + 4 * r ∧ t.store = s.store) ∧
        (s.storeBusy = none → (s.partPages 2 < page + count ∨ count = 0 → t.get .STORE_CMD_STATUS 0 0 = 2 + 4 * 2 ∧ t.store = s.store) ∧
          (page + count ≤ s.partPages 2 → count ≠ 0 → t.get .STORE_CMD_STATUS 0 0 = 2 ∧
            (∀ p, page ≤ p → p < page + count → p < 2 ^ 32 → t.nandPage 2 p = none ∧
              (s.store.map.a.tail < s.partPages 2 → ∀ d, t.cachedPage 2 p = some d → d = fit 16384 [])) ∧
            (∀ q p, p < 2 ^ 32 → q ≠ 2 ∨ p < page ∨ page + count ≤ p → t.nandPage q p = s.nandPage q p)))))) ∧
  (∀ s : State, s.hostHeld = false → Answers (exec .storeHealth s) (fun t => t.flag .STORE_INT 0 0 6 = true ∧ t.store = s.store ∧
    (s.pwrfail = true ∨ s.storeState = 6 ∨ s.storeState = 7 → t.get .STORE_CMD_STATUS 0 0 = 2 + 4 * 4 ∧ t.host.mem = s.host.mem) ∧
    (s.pwrfail = false → s.storeState < 6 → t.get .STORE_CMD_STATUS 0 0 = 2 ∧ t.host.mem = memWrite s.host.mem s.storeAddr s.healthPage)))

/-- For the datagram at the front of the engine at a chip that is a manager. HELLO makes the worker UP with its counts
at 0, INT.worker_up unless it was UP, a WORKER_BACK notice for each range after a loss, and HELLO_ACK goes back.
HEARTBEAT of an UP or LOST worker makes it UP, heard now. An UP_ENV of one item beyond the grant counts
CREDIT_DROP_CNT with its INT bit and takes nothing; within it the envelope is accepted, and dropped into
RANGE_DROP_CNT when its link tag is in no range of the worker, counted in EP.HDR_REJ_CNT when no kind fits its type,
and otherwise enters the signal FIFO of the LINK port when it has room. KEY_REQ becomes a WHARF_FWD manifest on the
worker's control flow. A worker UP that was silent for 300 ms is LOST: INT.worker_lost, LOST_CNT, a WORKER_LOST
notice for each of its ranges, and a HOST_MSG manifest; before that nothing happens. A HEARTBEAT of a partner whose
claim beats an ACTIVE chip's makes it stand down to STANDBY. Every HEARTBEAT_SEND raises each UP or LOST worker's
grant to credit_max above what it accepted, unless back-pressure holds it, counts a missed period when nothing came
since the last one, and takes the next sequence number (R320, R352 to R356, R363). (13_wharf_pilot.md) -/
def Obligations.WharfManager : Prop :=
  (∀ (d : WDgram) (rest : List WDgram) (s : State), s.wharf.rxq = d :: rest → d.type = 1 → Answers (exec .wharfHello s) (fun t =>
    t.wharf.rxq = rest ∧ t.worker d.assoc
      = { s.worker d.assoc with state := 2, last := s.time.ns, missed := 0, grant := 0, accepted := 0, beat := 0 } ∧
    ((s.worker d.assoc).state ≠ 2 → t.flag .WHARF_INT 0 0 1 = true) ∧
    t.wharf.notices = s.wharf.notices ++ (if (s.worker d.assoc).state = 3 then
      (s.workerItems d.assoc).map (fun v => (d.assoc, 7, leAt v 20 4, leAt v 24 4)) else []) ∧
    ∀ v, (s.workerItems d.assoc).head? = some v → s.sends t d.assoc (addrAt v 4) (s.mgrPortOf d.assoc) 2 [])) ∧
  (∀ (d : WDgram) (rest : List WDgram) (s : State), s.wharf.rxq = d :: rest → d.type = 3 → s.workerRole = false →
    (d.assoc ≠ 256 → (s.worker d.assoc).state = 2 ∨ (s.worker d.assoc).state = 3 → Answers (exec .wharfHeartbeat s) (fun t =>
      t.worker d.assoc = { s.worker d.assoc with state := 2, last := s.time.ns, missed := 0 } ∧ t.wharf.rxq = rest)) ∧
    (d.assoc = 256 → s.mustStandDown d.claim = true → Answers (exec .wharfHeartbeat s) (fun t =>
      t.rank = 4 ∧ t.flag .PILOT_INT 0 0 1 = true ∧
      t.get .PILOT_CLAIM 0 0 = 4 * 2 ^ 28 + max s.pilot.epoch (d.claim % 2 ^ 28) % 2 ^ 28))) ∧
  (∀ (d : WDgram) (rest : List WDgram) (n : Nat) (env : Bytes) (s : State), s.wharf.rxq = d :: rest → d.type = 0x10 →
    n = leAt d.body 12 2 → d.body.length = 16 + n → env = slice d.body 16 n → Answers (exec .wharfUpEnv s) (fun t =>
    t.wharf.rxq = rest ∧
    (permits (s.worker d.assoc).grant ((s.worker d.assoc).accepted + 1) = false →
      t.get .WHARF_CREDIT_DROP_CNT 0 0 = min 0xFFFFFFFF (s.get .WHARF_CREDIT_DROP_CNT 0 0 + 1) ∧ t.flag .WHARF_INT 0 0 3 = true
      ∧ (t.worker d.assoc).accepted = (s.worker d.assoc).accepted ∧ t.fifo (16 + s.linkPort) = s.fifo (16 + s.linkPort)) ∧
    (permits (s.worker d.assoc).grant ((s.worker d.assoc).accepted + 1) = true →
      (t.worker d.assoc).accepted = ((s.worker d.assoc).accepted + 1) % 2 ^ 32 ∧
      ((∀ v ∈ s.workerItems d.assoc, ¬ (leAt v 20 4 ≤ envTag env ∧ envTag env ≤ leAt v 24 4)) →
        t.get .WHARF_RANGE_DROP_CNT 0 0 = min 0xFFFFFFFF (s.get .WHARF_RANGE_DROP_CNT 0 0 + 1)
        ∧ t.fifo (16 + s.linkPort) = s.fifo (16 + s.linkPort)) ∧
      ((∃ v ∈ s.workerItems d.assoc, leAt v 20 4 ≤ envTag env ∧ envTag env ≤ leAt v 24 4) →
        (envKind env = none → t.get .EP_HDR_REJ_CNT 0 0 = min 0xFFFFFFFF (s.get .EP_HDR_REJ_CNT 0 0 + 1)) ∧
        (∀ k, envKind env = some k → (s.fifo (16 + s.linkPort)).words + (1 + ceilDiv env.length 16) ≤ 1024 →
          ∃ p, (t.fifo (16 + s.linkPort)).packets = (s.fifo (16 + s.linkPort)).packets ++ [p] ∧ p.kind = k ∧ p.data = env))))) ∧
  (∀ (d : WDgram) (rest : List WDgram) (n : Nat) (s : State), s.wharf.rxq = d :: rest → d.type = 0x12 →
    s.routed 3 kWharfFwd d.assoc (0x410000 + d.assoc) n → Answers (exec .wharfKeyReq s) (fun t => t.wharf.rxq = rest ∧
      s.entered t n kWharfFwd 0x12 (0x410000 + d.assoc) (fit 20 d.body))) ∧
  (∀ (w : Nat) (s : State), s.wharfOn = true → s.workerRole = false → (s.worker w).state = 2 →
    ((s.worker w).last + 300000000 ≤ s.time.ns → Answers (exec (.workerLost w) s) (fun t =>
      t.worker w = { s.worker w with state := 3 } ∧ t.flag .WHARF_INT 0 0 0 = true ∧
      t.get .WHARF_LOST_CNT 0 0 = min 0xFFFFFFFF (s.get .WHARF_LOST_CNT 0 0 + 1) ∧
      t.wharf.notices = s.wharf.notices ++ (s.workerItems w).map (fun v => (w, 6, leAt v 20 4, leAt v 24 4)) ∧
      ∀ n, s.routed 3 kHostMsg w (0x410000 + w) n → s.entered t n kHostMsg 0 (0x410000 + w) (toLE 4 w))) ∧
    (s.time.ns < (s.worker w).last + 300000000 → exec (.workerLost w) s = .next s)) ∧
  (∀ (w : Nat) (s : State), s.wharfOn = true → s.workerRole = false → w ∈ s.workerIds →
    (s.worker w).state = 2 ∨ (s.worker w).state = 3 → Answers (exec .wharfHeartbeatSend s) (fun t =>
      (t.worker w).state = (s.worker w).state ∧ (t.worker w).missed = (if (s.worker w).last < (s.worker w).beatAt
        then min 255 ((s.worker w).missed + 1) else (s.worker w).missed) ∧
      (t.worker w).beatAt = s.time.ns ∧ (t.worker w).grant = (if s.bpActive 3 w then (s.worker w).grant
        else ((s.worker w).accepted + (s.switchWorker w).creditMax w) % 2 ^ 32) ∧
      (s.loader ≠ 9 → s.workerItems w ≠ [] → (s.wharfKey w).isSome = true → s.flag .WHARF_STATUS 0 0 11 = false →
        Map.getD t.wharf.seqs (s.seqKey w) 1 = s.nextSeq w + 1)))

/-- For a chip in worker role. HELLO goes to each manager the plan names while no HELLO_ACK stands. HELLO_ACK makes its
manager UP with no grant, addresses it when none was UP, and sets INT.worker_up at the first since the start or a
loss of all. CREDIT and HEARTBEAT of a manager set its grant; a HEARTBEAT also its claim, and makes it UP while a
HELLO_ACK stands. A DOWN_ENV of one item becomes a WHARF_FWD manifest on the endpoint's flow. A manager UP that was
silent for 300 ms is lost: the other is addressed when it is UP; with none left INT.worker_lost, LOST_CNT, and a
HELLO_ACK is due again. HEARTBEAT_SEND goes to the addressed manager. A partly filled datagram is sent as UP_ENV and
emptied; with nothing filled the flush does nothing (R354, R355, R357 to R360). (13_wharf_pilot.md) -/
def Obligations.WharfWorker : Prop :=
  (∀ (hello : Bytes) (s : State), s.workerRole = true → s.wharfOn = true → s.wharf.joined ≠ 2 →
    hello = toLE 2 0x7680 ++ toLE 2 0x00B0 ++ zeros 4 → Answers (exec .workerRoleHelloSend s) (fun t =>
      (s.mgrAddr 0 ≠ 0 → s.mgrAddr 1 = 0 → s.sends t s.ownWorker (s.mgrAddr 0) s.mgrPort 1 hello) ∧
      (s.mgrAddr 0 = 0 → s.mgrAddr 1 ≠ 0 → s.sends t s.ownWorker (s.mgrAddr 1) s.mgrPort 1 hello) ∧
      (s.mgrAddr 0 ≠ 0 → s.mgrAddr 1 ≠ 0 → (s.wharfKey s.ownWorker).isSome = true → s.flag .WHARF_STATUS 0 0 11 = false →
        Map.getD t.wharf.seqs (s.seqKey s.ownWorker) 1 = s.nextSeq s.ownWorker + 2))) ∧
  (∀ (d : WDgram) (rest : List WDgram) (m : WMgr) (s : State), s.wharf.rxq = d :: rest → s.wharf.mgrs[d.chip]? = some m →
    (d.type = 2 → Answers (exec .wharfHelloAck s) (fun t => t.wharf.rxq = rest ∧ t.wharf.joined = 2 ∧
      t.wharf.mgrs[d.chip]? = some { m with up := true, grant := 0 } ∧
      ((∀ m ∈ s.wharf.mgrs, m.up = false) → t.wharf.addressed = d.chip ∧ t.wharf.sent = 0) ∧
      ((∃ m ∈ s.wharf.mgrs, m.up = true) → t.wharf.addressed = s.wharf.addressed) ∧
      (s.wharf.joined ≠ 2 → t.flag .WHARF_INT 0 0 1 = true ∧ t.wharf.sent = 0))) ∧
    (d.type = 4 → Answers (exec .wharfCredit s) (fun t => t.wharf.rxq = rest ∧
      t.wharf.mgrs[d.chip]? = some { m with grant := leAt d.body 0 4 })) ∧
    (d.type = 3 → s.workerRole = true → Answers (exec .wharfHeartbeat s) (fun t => t.wharf.rxq = rest ∧
      t.wharf.mgrs[d.chip]? = some { m with up := m.up || decide (s.wharf.joined = 2), claim := d.claim, grant := leAt d.body 16 4 }))) ∧
  (∀ (d : WDgram) (rest : List WDgram) (epx k n : Nat) (s : State), s.wharf.rxq = d :: rest → d.type = 0x11 → k = leAt d.body 4 2 →
    d.body.length = 8 + k → epx = leAt d.body 0 4 → epx < 2 ^ 22 → s.routed 3 kWharfFwd d.assoc epx n →
    Answers (exec .wharfDownEnv s) (fun t => t.wharf.rxq = rest ∧ s.entered t n kWharfFwd 0x11 epx (slice d.body 8 k))) ∧
  (∀ (i : Nat) (a b : WMgr) (s : State), s.workerRole = true → i < 2 → s.wharf.mgrs.length = 2 → s.wharf.mgrs[i]? = some a →
    s.wharf.mgrs[1 - i]? = some b → a.up = true →
    (a.last + 300000000 ≤ s.time.ns → Answers (exec (.managerLost i) s) (fun t => t.wharf.mgrs[i]? = some { a with up := false } ∧
      t.wharf.mgrs[1 - i]? = some b ∧
      (b.up = true → t.wharf.addressed = 1 - i ∧ t = { s with wharf := t.wharf }) ∧
      (b.up = false → t.flag .WHARF_INT 0 0 0 = true ∧ t.wharf.joined = 1 ∧
        t.get .WHARF_LOST_CNT 0 0 = min 0xFFFFFFFF (s.get .WHARF_LOST_CNT 0 0 + 1)))) ∧
    (s.time.ns < a.last + 300000000 → exec (.managerLost i) s = .next s)) ∧
  (∀ (m : WMgr) (s : State), s.workerRole = true → s.wharfOn = true → s.hasPilot = false → s.wharf.mgrs[s.wharf.addressed]? = some m →
    m.up = true → s.mgrAddr s.wharf.addressed ≠ 0 → Answers (exec .wharfHeartbeatSend s) (fun t =>
      s.sends t s.ownWorker (s.mgrAddr s.wharf.addressed) s.mgrPort 3 (s.beatBody (!s.ep.bp.isEmpty) 0 s.wharf.sent))) ∧
  (∀ s : State, (s.wharf.filling = [] → exec .wharfDgramFlush s = .next s) ∧
    (s.wharf.filling ≠ [] → s.mgrAddr s.wharf.addressed ≠ 0 → Answers (exec .wharfDgramFlush s) (fun t => t.wharf.filling = [] ∧
      s.sends t s.ownWorker (s.mgrAddr s.wharf.addressed) s.mgrPort 0x10 s.wharf.filling.flatten)))

/-- At an ACTIVE chip that is ready, with a partner and no pass in progress, CHECKPOINT_PASS_START begins the next pass
at region 0, offset 0, at the earliest 60 s after the last one; datagrams without a JACK for 5 ms go out again and
no other does; a JACK drops what it covers, gives up the downlinks held for it, and one that covers a pass makes the
partner in sync with its INT bit. At a STANDBY every 1 ms a JACK of the highest seq without a gap goes to the
partner; CKPT appends its chunk to the pass in progress, all-zero chunks apart but for the last region; a later pass
number begins the next image and drops the items up to its seq, and finds the pair DESYNC when a seq is still
missing; a chunk of an earlier pass is out of date; and the chunk of region 5 with no seq missing completes the
image, with the items above its first seq, and sets the in-sync flag. A JOURNAL of one item puts a HANDOFF into the
mailbox, notes a HANDOVER with its instant, or keeps the item under its seq; a HANDOFF without room in the mailbox
waits (R367, R368, R370). (13_wharf_pilot.md) -/
def Obligations.PairJournal : Prop :=
  (∀ s : State, s.pilotOn = true → s.rank = 8 → s.pilot.ready = true → (s.item? 0xF0 4).isSome = true → s.wharf.region = 6 →
    (s.wharf.pass = 0 ∨ s.wharf.passAt + 60000000000 ≤ s.time.ns → Answers (exec .checkpointPassStart s) (fun t =>
      t.wharf = { s.wharf with pass := (s.wharf.pass + 1) % 2 ^ 32, passAt := s.time.ns, region := 0, offset := 0 } ∧
      t.flag .WHARF_STATUS 0 0 10 = true ∧ t = { s with wharf := t.wharf, regs := t.regs } ∧ s.regsBut t [Reg.addr .WHARF_STATUS 0 0])) ∧
    (s.wharf.pass ≠ 0 → s.time.ns < s.wharf.passAt + 60000000000 → exec .checkpointPassStart s = .next s)) ∧
  (∀ (v : Bytes) (s : State), s.rank = 8 → s.item? 0xF0 4 = some v → s.wharf.owed < 67108864 →
    Answers (exec .journalResend s) (fun t =>
      t.wharf = { s.wharf with unacked := s.wharf.unacked.map (fun u => if u.sentAt + 5000000 ≤ s.time.ns then { u with sentAt := s.time.ns } else u) } ∧
      (s.get .WHARF_TX_DGRAM_CNT 0 0 ≤ 0xFFFFFFFF → t.get .WHARF_TX_DGRAM_CNT 0 0 = min 0xFFFFFFFF (s.get .WHARF_TX_DGRAM_CNT 0 0
        + (s.wharf.unacked.filter (fun u => decide (u.sentAt + 5000000 ≤ s.time.ns))).length)))) ∧
  (∀ (v : Bytes) (s : State), s.pilotOn = true → s.rank = 4 → s.wharf.rxNext ≠ 0 → s.item? 0xF0 4 = some v →
    Answers (exec .jackSend s) (fun t => s.sends t 256 (addrAt v 0) (s.fld .WHARF_CFG0 0 0 31 16) 0x22 (toLE 8 (s.wharf.rxNext - 1)))) ∧
  (∀ (d : WDgram) (rest : List WDgram) (q : Nat) (s : State), s.wharf.rxq = d :: rest → d.type = 0x22 → s.rank = 8 →
    q = max s.wharf.jacked (leAt d.body 0 8) → s.pilot.drill ≠ 2 → Answers (exec .wharfJack s) (fun t =>
      t.wharf.rxq = rest ∧ t.wharf.jacked = q ∧ t.heldDown = s.heldDown.filter (fun e => decide (q < e.1)) ∧
      (s.heldDown = [] → t.wharf.unacked = s.wharf.unacked.filter (fun u => decide (q < u.seq))) ∧
      (s.wharf.passEnd ≠ 0 → s.wharf.passEnd ≤ q → t.wharf.passEnd = 0 ∧ t.wharf.desync = false ∧
        t.flag .WHARF_STATUS 0 0 9 = true ∧ t.flag .WHARF_STATUS 0 0 10 = false ∧ t.flag .WHARF_INT 0 0 4 = true))) ∧
  (∀ (d : WDgram) (rest : List WDgram) (s : State), s.wharf.rxq = d :: rest → d.type = 0x22 → s.rank = 8 → s.pilot.drill = 2 →
    s.pilot.drillSeq ≤ leAt d.body 0 8 → Answers (exec .wharfJack s) (fun t => t.rank = 4 ∧ t.pilot.drill = 3)) ∧
  (∀ (d : WDgram) (rest : List WDgram) (s : State), s.wharf.rxq = d :: rest → d.type = 0x20 → s.rank = 4 →
    Answers (exec .wharfCkpt s) (fun t => t.wharf.rxq = rest ∧
      (∀ i, s.wharf.imgCur = some i → i.pass = leAt d.body 0 4 → t.wharf.itemsCur = s.wharf.itemsCur ∧
        t.wharf.imgCur = some { i with
          from' := min i.from' d.seq, chunks := i.chunks ++ (if leAt d.body 4 1 = 5 ∨ (∃ x ∈ d.body.drop 16, x ≠ 0) then
          [(leAt d.body 4 1, leAt d.body 8 8, d.body.drop 16)] else []) }) ∧
      ((∀ i, s.wharf.imgCur = some i → i.pass ≠ leAt d.body 0 4 ∧ (leAt d.body 0 4 + 2 ^ 32 - i.pass) % 2 ^ 32 < 2 ^ 31) →
        t.wharf.itemsCur = s.wharf.itemsCur.filter (fun x => decide (d.seq < x.1)) ∧
        t.wharf.imgCur = some ⟨leAt d.body 0 4, d.seq, if leAt d.body 4 1 = 5 ∨ (∃ x ∈ d.body.drop 16, x ≠ 0) then
          [(leAt d.body 4 1, leAt d.body 8 8, d.body.drop 16)] else []⟩ ∧
        (s.wharf.rxAhead ≠ [] → t.flag .WHARF_STATUS 0 0 9 = false ∧ t.wharf.desync = true)) ∧
      (∀ i, s.wharf.imgCur = some i → i.pass ≠ leAt d.body 0 4 → 2 ^ 31 ≤ (leAt d.body 0 4 + 2 ^ 32 - i.pass) % 2 ^ 32 →
        t.wharf.itemsCur = s.wharf.itemsCur ∧ t.wharf.imgCur = some i) ∧
      (leAt d.body 4 1 = 5 → s.wharf.rxAhead = [] →
        (∀ i, s.wharf.imgCur = some i → i.pass = leAt d.body 0 4 ∨ (leAt d.body 0 4 + 2 ^ 32 - i.pass) % 2 ^ 32 < 2 ^ 31) →
        t.flag .WHARF_STATUS 0 0 9 = true ∧ t.wharf.desync = false ∧ ∃ i, t.wharf.imgCur = some i ∧ t.wharf.imgDone = some i
          ∧ t.wharf.itemsDone = t.wharf.itemsCur.filter (fun x => decide (i.from' < x.1))))) ∧
  (∀ (d : WDgram) (rest : List WDgram) (it : Nat × Bytes) (s : State), s.wharf.rxq = d :: rest → d.type = 0x21 → s.rank = 4 →
    journalItems d.body.length d.body = [it] →
    (it.1 = 1 → s.mailboxBytes + it.2.length ≤ 65536 → Answers (exec .wharfJournal s) (fun t => t.wharf.rxq = rest ∧
      t.customs = { s.customs with mailbox := s.customs.mailbox ++ [⟨leAt it.2 0 8, it.2.drop 8⟩] } ∧
      t.get .CUSTOMS_HANDOFF_CNT 0 0 = min 0xFFFFFFFF (s.get .CUSTOMS_HANDOFF_CNT 0 0 + 1))) ∧
    (it.1 = 1 → 65536 < s.mailboxBytes + it.2.length → exec .wharfJournal s = .next s) ∧
    (it.1 = 6 → s.mailboxBytes ≤ 65536 → Answers (exec .wharfJournal s) (fun t => t.wharf.rxq = rest ∧
      t.pilot = { s.pilot with handover := true, drillAt := s.time.ns })) ∧
    (it.1 ≠ 1 → it.1 ≠ 6 → s.mailboxBytes ≤ 65536 → Answers (exec .wharfJournal s) (fun t => t.wharf.rxq = rest ∧
      (d.seq, toLE 1 it.1 ++ it.2) ∈ t.wharf.itemsCur ∧
      ((∀ i, s.wharf.imgCur = some i → i.from' < d.seq) → (d.seq, toLE 1 it.1 ++ it.2) ∈ t.wharf.itemsDone))))

/-- Each millisecond the frame periods advance and a 20-byte claim frame goes out on the line with the chip's claim and
the next frame number; permission to transmit is ACTIVE, ready and 8 periods without a higher claim; lost_frames
periods without a partner frame set INT. A frame with a wrong length, checksum or pair id counts FRAME_ERR_CNT
alone; a good one of a legal rank is the partner's claim, heard now; an ACTIVE chip whose claim is lower stands down
to STANDBY, as does a starting chip that hears an ACTIVE; a drill ends OK at an ACTIVE partner that transmits. A
starting chip that heard no ACTIVE frame takes ACTIVE under the next epoch at its period, 21 for the preferred chip
and 100 for the other, not before. A STANDBY in sync that lost its partner or holds a HANDOVER takes over, with
record 0x1201; its resumption takes the image's records and journal, marks every worker UP, and ends the takeover. A
drill is refused NOT_READY without a synced standby that is heard, MOVING without force; else the functions drain. A
drill that waits 12 s fails, and the chip is STARTING again, unless the partner claims ACTIVE, which ends it OK; a
STANDBY that could not take over gives its HANDOVER up (R361 to R363, R367, R369, R370). (13_wharf_pilot.md) -/
def Obligations.PilotClaims : Prop :=
  (∀ s : State, s.pilotOn = true → Answers (exec .claimFrameSend s) (fun t =>
    t.pilot.periods = s.pilot.periods + 1 ∧ t.pilot.since = s.pilot.since + 1 ∧ t.pilot.higher = min 8 (s.pilot.higher + 1) ∧
    t.pilot.fseq = (s.pilot.fseq + 1) % 65536 ∧ t.pilot.tx.length = 20 ∧ t.pilot.line = claimLine t.pilot.tx ∧ leAt t.pilot.tx 2 2 = s.pilot.fseq % 65536 ∧
    leAt t.pilot.tx 4 4 = s.get .PILOT_CLAIM 0 0 % 2 ^ 32 ∧
    t.flag .PILOT_STATUS 0 0 5 = (decide (s.rank = 8) && s.pilot.ready && decide (8 ≤ s.pilot.higher + 1)) ∧
    t.flag .PILOT_STATUS 0 0 6 = (s.pilot.seen && decide (s.pilot.since + 1 < 8)) ∧
    (s.pilot.since + 1 = s.lostFrames → t.flag .PILOT_INT 0 0 2 = true) ∧
    (s.pilot.drill = 1 → (∀ f ∈ allFns, s.fnState f = 0) → t.pilot.drill = 2))) ∧
  (∀ (b : Bytes) (s : State), s.pilotOn = true → b.length ≠ 20 ∨ leAt b 16 4 ≠ crc32 (b.take 16) ∨ leAt b 12 4 ≠ s.get .PILOT_PAIR_ID 0 0 →
    Answers (exec (.claimFrameReceived b) s) (fun t => t.get .PILOT_FRAME_ERR_CNT 0 0 = min 0xFFFFFFFF (s.get .PILOT_FRAME_ERR_CNT 0 0 + 1)
      ∧ t = { s with regs := t.regs } ∧ s.regsBut t [Reg.addr .PILOT_FRAME_ERR_CNT 0 0])) ∧
  (∀ (b : Bytes) (c : Nat) (s : State), s.pilotOn = true → b.length = 20 → leAt b 16 4 = crc32 (b.take 16) →
    leAt b 12 4 = s.get .PILOT_PAIR_ID 0 0 → leAt b 0 1 % 16 = 1 → c = leAt b 4 4 → c / 2 ^ 28 = 1 ∨ c / 2 ^ 28 = 4 ∨ c / 2 ^ 28 = 8 →
    Answers (exec (.claimFrameReceived b) s) (fun t => t.get .PILOT_PARTNER_CLAIM 0 0 = c ∧ t.pilot.since = 0 ∧ t.pilot.seen = true ∧
      t.pilot.highest = max s.pilot.highest (c % 2 ^ 28) ∧ t.fld .PILOT_STATUS 0 0 11 8 = c / 2 ^ 28 ∧
      (s.mustStandDown c = true → t.rank = 4 ∧ t.flag .PILOT_INT 0 0 1 = true ∧ t.pilot.ready = false) ∧
      (s.rank = 1 → c / 2 ^ 28 = 8 → t.rank = 4) ∧
      (s.mustStandDown c = false → ¬ (s.rank = 1 ∧ c / 2 ^ 28 = 8) → t.rank = s.rank) ∧
      (s.pilot.drill = 3 → c / 2 ^ 28 = 8 → bit (leAt b 8 4) 0 = true →
        t.get .PILOT_DRILL_RESULT 0 0 = 1 + min 65535 ((s.time.ns - s.pilot.drillAt) / 1000000) * 2 ^ 16 ∧ t.pilot.drill = 0
        ∧ t.flag .PILOT_STATUS 0 0 7 = false ∧ t.flag .PILOT_INT 0 0 4 = true))) ∧
  (∀ (due : Nat) (s : State), s.pilotOn = true → s.rank = 1 → s.pilot.seenActive = false →
    due = (if s.flag .PILOT_CFG 0 0 1 then 21 else 100) →
    (due ≤ s.pilot.periods → Answers (exec .claimStartupDecision s) (fun t => t.rank = 8 ∧
      t.get .PILOT_CLAIM 0 0 = 8 * 2 ^ 28 + (max s.pilot.epoch s.pilot.highest + 1) % 2 ^ 28)) ∧
    (s.pilot.periods < due → exec .claimStartupDecision s = .next s)) ∧
  (∀ s : State, s.pilotOn = true → s.rank = 4 → s.lostFrames ≤ s.pilot.since ∨ s.pilot.handover = true →
    (s.wharf.imgDone.isSome = true → s.wharf.desync = false → Answers (exec .takeover s) (fun t => t.rank = 8 ∧
      t.get .PILOT_CLAIM 0 0 = 8 * 2 ^ 28 + (max s.pilot.epoch s.pilot.highest + 1) % 2 ^ 28 ∧ t.pilot.resuming = true ∧
      t.pilot.ready = false ∧ t.flag .PILOT_INT 0 0 0 = true ∧
      t.get .PILOT_TAKEOVER_CNT 0 0 = min 0xFFFFFFFF (s.get .PILOT_TAKEOVER_CNT 0 0 + 1) ∧
      (t.log.queue.length < 64 → t.lastEvent = some (0x1201, t.get .PILOT_CLAIM 0 0, 0)))) ∧
    (s.wharf.imgDone = none ∨ s.wharf.desync = true → s.lostFrames ≤ s.pilot.since → Answers (exec .takeover s) (fun t => t.rank = 4 ∧
      t.flag .PILOT_INT 0 0 2 = true ∧ t.pilot = s.pilot))) ∧
  (∀ (i : Image) (s : State), s.pilot.resuming = true → s.wharf.imgDone = some i → Answers (exec .takeoverResume s) (fun t =>
    t.pilot.resuming = false ∧ t.pilot.ready = true ∧ t.pilot.handover = false ∧ t.wharf.imgDone = none ∧
    t.ep.recs = (s.wharf.itemsDone.foldl (fun s x => s.applyItem i x.2) (s.copyImage i)).ep.recs ∧
    (∀ e ∈ t.wharf.workers, e.2.state = 2) ∧
    (s.pilot.handover = true → t.log.queue.length < 64 →
      t.lastEvent = some (0x1204, 1, (s.time.ns - s.pilot.drillAt) / 1000000 % 2 ^ 32)))) ∧
  (∀ (force : Bool) (s : State), s.hostHeld = false →
    (s.flag .PILOT_STATUS 0 0 7 = true → exec (.pilotDrill force) s = .next s) ∧
    (s.flag .PILOT_STATUS 0 0 7 = false →
      (s.rank ≠ 8 ∨ s.fld .PILOT_STATUS 0 0 11 8 ≠ 4 ∨ s.flag .PILOT_STATUS 0 0 6 = false ∨ s.inSync = false ∨ s.journals = false → Answers (exec (.pilotDrill force) s) (fun t =>
        t.get .PILOT_DRILL_RESULT 0 0 = 2 ∧ t.flag .PILOT_INT 0 0 4 = true ∧ t.pilot = s.pilot)) ∧
      (s.rank = 8 → s.fld .PILOT_STATUS 0 0 11 8 = 4 → s.flag .PILOT_STATUS 0 0 6 = true → s.inSync = true → s.journals = true →
        (force = false → (∃ e ∈ s.craft.rows, s.craftMoves e.2 = true) → Answers (exec (.pilotDrill force) s) (fun t =>
          t.get .PILOT_DRILL_RESULT 0 0 = 6 ∧ t.flag .PILOT_INT 0 0 4 = true ∧ t.pilot = s.pilot)) ∧
        (force = true ∨ (∀ e ∈ s.craft.rows, s.craftMoves e.2 = false) → Answers (exec (.pilotDrill force) s) (fun t =>
          t.flag .PILOT_STATUS 0 0 7 = true ∧ t.pilot.drill = 1 ∧ ∀ f ∈ allFns, t.fnState f ≠ 1))))) ∧
  (∀ s : State, s.pilot.drillAt + 12000000000 ≤ s.time.ns →
    (2 ≤ s.pilot.drill → Answers (exec .drillTimeout s) (fun t => t.pilot.drill = 0 ∧ t.flag .PILOT_STATUS 0 0 7 = false ∧
      t.flag .PILOT_INT 0 0 4 = true ∧
      (s.fld .PILOT_STATUS 0 0 11 8 ≠ 8 → t.get .PILOT_DRILL_RESULT 0 0 = 3 ∧ (s.rank = 4 → t.rank = 1)) ∧
      (s.fld .PILOT_STATUS 0 0 11 8 = 8 → t.rank = s.rank ∧ t.get .PILOT_DRILL_RESULT 0 0
        = 1 + min 65535 ((s.time.ns - s.pilot.drillAt) / 1000000) * 2 ^ 16))) ∧
    (s.pilot.drill < 2 → s.rank = 4 → s.pilot.handover = true → Answers (exec .drillTimeout s) (fun t =>
      t.pilot = { s.pilot with handover := false } ∧ t = { s with pilot := t.pilot, log := t.log, regs := t.regs, host := t.host })))

/-- While nothing was lost and the store's flush is not done, LOG_RECORD_WRITE takes the oldest event of the queue. One
that does not merge becomes the record with the next sequence number, in the permanent area and its buffer copy
below number 1,024 (whose last sets INT bit 3) and as the newest circulating record above, when a page can take it;
one that merges raises the newest record's repeat count, up to 0xFFFF, and gives it the event's detail, with no new
number. An empty queue changes nothing, nor does a record once the flush is done. OP_SEC_SAVE saves op_sec once
3,600 s passed since the last save and does nothing before. A host not held off that reads a record gets its 32
words and the result 0, or 2 for a damaged one; of a number that is gone result 1; after PWRFAIL_N result 3;
INT.rd_done each time, and the Logbook stays as it is (R375, R376, R378 to R380, R382, R388). (14_logbook.md) -/
def Obligations.LogbookCommands : Prop :=
  (∀ s : State, s.log.queue = [] ∨ s.storeState = 7 → exec .logRecordWrite s = .next s) ∧
  (∀ (e : LogEvent) (rest : List LogEvent) (s : State), s.log.queue = e :: rest → s.log.dropped = 0 → s.storeState ≠ 7 →
    (s.merges e = none → s.log.nextSeq < 1024 ∨ s.log.pageRoom = true → Answers (exec .logRecordWrite s) (fun t =>
      t.log.queue = rest ∧ t.log.newestSeq = s.log.nextSeq ∧ t.log.nextSeq = (s.log.nextSeq + 1) % 2 ^ 32 ∧
      ∃ r : LogRec, r.seq = s.log.nextSeq ∧ r.code = e.code ∧ r.key = e.key ∧ r.detail = e.detail ∧ r.taiS = e.sec ∧ r.taiNs = e.ns ∧
        r.rep = 0 ∧ r.opSec = s.log.opSec ∧ r.powerCycles = s.log.powerCycles ∧
        (s.log.nextSeq < 1024 → t.log.permanent = s.log.permanent ++ [r] ∧ t.log.copy = s.log.copy ++ [r] ∧ t.log.pages = s.log.pages) ∧
        (1024 ≤ s.log.nextSeq → t.log.permanent = s.log.permanent ∧ (t.log.pages.getLast?).bind (·.getLast?) = some r) ∧
        (s.log.nextSeq = 1023 → t.flag .LOG_INT 0 0 3 = true))) ∧
    (∀ r, s.merges e = some r → Answers (exec .logRecordWrite s) (fun t => t.log.queue = rest ∧ t.log.nextSeq = s.log.nextSeq ∧
      ∃ x : LogRec, (t.log.pages.getLast?).bind (·.getLast?) = some x ∧ x.seq = r.seq ∧ x.rep = min 0xFFFF (r.rep + 1) ∧
        x.detail = e.detail ∧ x.code = r.code ∧ x.key = r.key))) ∧
  (∀ s : State, (s.log.opSecSaved + 3600 ≤ s.log.opSec →
      exec .opSecSave s = .next { s with log := { s.log with opSecSaved := s.log.opSec } }) ∧
    (s.log.opSec < s.log.opSecSaved + 3600 → exec .opSecSave s = .next s)) ∧
  (∀ s : State, s.hostHeld = false → Answers (exec .logRead s) (fun t => t.flag .LOG_INT 0 0 4 = true ∧ t.log = s.log ∧
    (s.pwrfail = true → t.get .LOG_RD_STATUS 0 0 = 4 * 3) ∧
    (s.pwrfail = false → s.findRecord (s.get .LOG_RD_SEQ 0 0) = none → t.get .LOG_RD_STATUS 0 0 = 4 * 1) ∧
    (s.pwrfail = false → ∀ b, s.findRecord (s.get .LOG_RD_SEQ 0 0) = some b →
      t.get .LOG_RD_STATUS 0 0 = 2 + 4 * (if bit (leAt b 2 2) 0 then 2 else 0) ∧
      ∀ k, k < 32 → t.get .LOG_RD_DATA k 0 = leAt b (4 * k) 4)))

/-- For a boot record of two copies with ten slots each and, for its commands, a host not held off whose update engine
takes one. STAGE checks the tags of the key slots it uses; with a failing check it answers its result with
INT.refused and no slot changed, else marks the idle slot of the code WRITING; its end makes the slot VALID with the
package, or EMPTY with FORMAT. ACTIVATE without a VALID slot is STATE; accepted it makes the slot TRIAL with
INT.activated; code 3 resets the device, codes 4 and 5 begin their trial at once. A trial judged good may commit;
judged bad, reverted or after trial_s seconds, its slot is REJECTED and no trial is left, codes 1 to 3 by a reset.
COMMIT makes the trial slot ACTIVE and the former one VALID. MIGRATION_DONE ends migrating. A job is created for a
free number with a size and JOB_CFG in range and room for its image, without which INT.refused is set and the result
of no room is RESOURCE; it becomes READY, and is freed by CANCEL, through SET manifests when it has targets; a
stalled target ends through one too (R392 to R399, R400, R404, R406). (15_updates.md) -/
def Obligations.UpdateCommands : Prop :=
  (∀ (pkg b : Bytes) (s u : State), s.hostHeld = false → s.updTakes = true → s.upd.copies.length = 2 → s.bootRec.slots.length = 10 →
    b = fit (s.fld .UPD_PKG_LEN 0 0 23 0) pkg → u = (if pkgCode b = 2
      then (s.useSlot (leAt b 52 4)).usePlanKeys 8388608 (slice b 64 (pkgLength b)) else s.useSlot (leAt b 52 4)) →
    Answers (exec (.updStage pkg) s) (fun t => ∀ r d, u.stageRefusal b = (r, d) →
      (r ≠ 0 → t.get .UPD_CMD_STATUS 0 0 = 1 + r * 2 + d % 256 * 2 ^ 8 ∧ t.flag .UPD_INT 0 0 4 = true ∧ t.upd = s.upd) ∧
      (r = 0 → t.upd.staging = some (pkgCode b, s.bootRec.idle (pkgCode b), b) ∧ t.flag .UPD_STATUS 0 0 4 = true ∧
        (t.bootRec.slot (pkgCode b) (s.bootRec.idle (pkgCode b))).state = 1))) ∧
  (∀ (c n : Nat) (b : Bytes) (s : State), s.upd.staging = some (c, n, b) → s.upd.copies.length = 2 → s.bootRec.slots.length = 10 →
    1 ≤ c → c ≤ 5 → n ≤ 1 →
    Answers (exec (.updStageDone true) s) (fun t => t.upd.staging = none ∧ t.flag .UPD_STATUS 0 0 4 = false ∧
      t.bootRec.slot c n = ⟨2, pkgVersion b, pkgLength b, pkgCompat b, b⟩ ∧ t.get .UPD_CMD_STATUS 0 0 = 1 ∧ t.flag .UPD_INT 0 0 0 = true ∧
      (t.log.queue.length < 64 → t.lastEvent = some (0x1401, c, pkgVersion b))) ∧
    Answers (exec (.updStageDone false) s) (fun t => t.upd.staging = none ∧ t.bootRec.slot c n = BootSlot.empty ∧
      t.get .UPD_CMD_STATUS 0 0 = 1 + 14 * 2 ∧ t.flag .UPD_INT 0 0 4 = true)) ∧
  (∀ (val : Word) (c : Nat) (s : State), s.hostHeld = false → s.updTakes = true → s.updGuard = 0 → s.upd.copies.length = 2 →
    s.bootRec.slots.length = 10 → c = bits val.toNat 6 4 →
    (s.bootRec.inState c 2 = none → Answers (exec (.updActivate val) s) (fun t => t.get .UPD_CMD_STATUS 0 0 = 1 + 1 * 2 ∧ t.upd = s.upd)) ∧
    (∀ n, 1 ≤ c → c ≤ 5 → s.bootRec.inState c 2 = some n → s.activateRefusal c n (bit val.toNat 7) = 0 →
      Answers (exec (.updActivate val) s) (fun t => t.bootRec.trial = c ∧ (t.bootRec.slot c n).state = 4 ∧
        (c ≠ 3 → t.flag .UPD_INT 0 0 1 = true ∧ t.get .UPD_CMD_STATUS 0 0 = 1) ∧ (c = 3 → t.pwr.inReset = true) ∧
        (c = 4 ∨ c = 5 → t.bootRec.trialStarts = 1 ∧ t.upd.trialAt = some s.time.ns)))) ∧
  (∀ (c n : Nat) (s : State), s.pwr.inReset = false → s.bootRec.trial = c → 1 ≤ c → c ≤ 5 → s.bootRec.inState c 4 = some n →
    s.upd.copies.length = 2 → s.bootRec.slots.length = 10 →
    (c = 4 ∨ c = 5 → s.upd.restarting = false → s.upd.trialOk = false → s.upd.trialAt.isSome = true →
      exec (.trialEvaluation true) s = .next { s with upd := { s.upd with trialOk := true } } ∧
      Answers (exec (.trialEvaluation false) s) (fun t => t.bootRec.trial = 0 ∧ (t.bootRec.slot c n).state = 5 ∧
        t.flag .UPD_INT 0 0 3 = true)) ∧
    (s.hostHeld = false → s.updTakes = true → Answers (exec .updRevert s) (fun t => t.bootRec.trial = 0 ∧ (t.bootRec.slot c n).state = 5 ∧
      (c ≤ 3 → t.pwr.inReset = true) ∧ (4 ≤ c → t.get .UPD_CMD_STATUS 0 0 = 1 ∧ t.flag .UPD_INT 0 0 3 = true))) ∧
    (∀ a, s.upd.trialAt = some a →
      (a + 1000000000 * s.get .UPD_TRIAL_CFG 0 0 ≤ s.time.ns → Answers (exec .trialTimeout s) (fun t => t.bootRec.trial = 0 ∧
        (t.bootRec.slot c n).state = 5 ∧ (c ≤ 3 → t.pwr.inReset = true))) ∧
      (s.time.ns < a + 1000000000 * s.get .UPD_TRIAL_CFG 0 0 → exec .trialTimeout s = .next s)) ∧
    (s.hostHeld = false → s.updTakes = true → s.loader = 6 → s.upd.trialOk = true → s.flag .PWR_STATUS 0 0 9 = true →
      s.flag .UPD_STATUS 0 0 3 = false → Answers (exec .updCommit s) (fun t => t.bootRec.trial = 0 ∧ (t.bootRec.slot c n).state = 3 ∧
        t.bootRec.act c = n ∧ ((s.bootRec.slot c (1 - n)).state = 3 → (t.bootRec.slot c (1 - n)).state = 2) ∧
        t.get .UPD_CMD_STATUS 0 0 = 1 ∧ t.flag .UPD_INT 0 0 2 = true))) ∧
  (∀ s : State, s.hostHeld = false → s.updTakes = true → s.bootRec.trial = 0 →
    (∀ i : Instr, i = .updRevert ∨ i = .updCommit → Answers (exec i s) (fun t => t.get .UPD_CMD_STATUS 0 0 = 1 + 1 * 2 ∧ t.upd = s.upd))) ∧
  (∀ s : State, (s.upd.newRecFormat.isSome = true → Answers (exec .migrationDone s) (fun t => t.flag .UPD_STATUS 0 0 3 = false ∧
      t = { s with regs := t.regs } ∧ s.regsBut t [Reg.addr .UPD_STATUS 0 0])) ∧
    (s.upd.newRecFormat = none → exec .migrationDone s = .next s)) ∧
  (∀ (val : Word) (image : Bytes) (j n cfg : Nat) (s : State), s.hostHeld = false → j = bits val.toNat 2 0 → n = bits val.toNat 25 5 →
    cfg = s.get .UPD_JOB_CFG 0 0 → s.flag .UPD_STATUS 0 0 5 = false → j < s.upd.jobs.length →
    (bits val.toNat 4 3 = 1 →
      ((s.job j).state ≠ 0 ∨ n < 64 ∨ 1048576 < n ∨ bits cfg 10 0 < 32 ∨ 1024 < bits cfg 10 0 ∨ bits cfg 23 18 = 0 ∨ bits cfg 31 24 = 0 →
        Answers (exec (.jobCreate val image) s) (fun t => t.flag .UPD_INT 0 0 4 = true ∧ t.upd = s.upd)) ∧
      ((s.job j).state = 0 → 64 ≤ n → n ≤ 1048576 → 32 ≤ bits cfg 10 0 → bits cfg 10 0 ≤ 1024 → 1 ≤ bits cfg 23 18 →
        1 ≤ bits cfg 31 24 →
        (firstFit s.argCells (ceilDiv n 64) s.argUsed = none → Answers (exec (.jobCreate val image) s) (fun t =>
          t.get .UPD_CMD_STATUS 0 0 = 1 + 12 * 2 ∧ t.flag .UPD_INT 0 0 4 = true ∧ t.upd = s.upd)) ∧
        ∀ cell, firstFit s.argCells (ceilDiv n 64) s.argUsed = some cell →
        Answers (exec (.jobCreate val image) s) (fun t => (t.job j).state = 1 ∧ (t.job j).image = fit n image ∧ (t.job j).cell = cell ∧
          (t.job j).blockSize = bits cfg 10 0 ∧ t.flag .UPD_STATUS 0 0 5 = true ∧ t.flag .UPD_INT 0 0 5 = true))) ∧
    (bits val.toNat 4 3 = 2 → (s.job j).state ≠ 0 →
      (s.upd.targets.filter (fun e => e.2.job = j) = [] → Answers (exec (.jobCancel val) s) (fun t => t.job j = FwJob.free ∧
        t.flag .UPD_INT 0 0 5 = true)) ∧
      (∀ e b, s.upd.targets.filter (fun e => e.2.job = j) = [e] → s.routed 5 kFwPush kFwPush e.1 b →
        Answers (exec (.jobCancel val) s) (fun t => (t.job j).state = 3 ∧ s.entered t b kFwPush (5 + j * 16) e.1 (toLE 1 6))))) ∧
  (∀ (j : Nat) (s : State), findIdx? (fun x : FwJob => x.state = 1) s.upd.jobs = some j → Answers (exec .jobReady s) (fun t =>
    (t.job j) = { s.job j with state := 2 } ∧ t.flag .UPD_STATUS 0 0 5 = false ∧ t.flag .UPD_INT 0 0 5 = true)) ∧
  (∀ (epx b : Nat) (x : FwTarget) (s : State), Map.get? s.upd.targets epx = some x → s.routed 5 kFwPush kFwPush epx b →
    (x.progress + 600 * (s.job x.job).stall ≤ s.sec → Answers (exec (.fwPushStall epx) s) (fun t =>
      s.entered t b kFwPush (5 + x.job * 16) epx (toLE 1 (Config.fwResult 6).toNat))) ∧
    (s.sec < x.progress + 600 * (s.job x.job).stall → exec (.fwPushStall epx) s = .next s))

/-- At a port that is up, a received frame below 64 bytes, with a bad FCS, longer than the port's limit, or that no
function takes counts its own drop counter and sets INT bit 2; a PAUSE frame counts as received and as a pause, and
holds transmission for its quanta unless the port ignores pauses. A hold that lasted pause_wd ms ends, pauses are
ignored for 1 s, and INT bit 1 is set. A port with no pass to send and no hold sends the oldest frame of its highest
ready queue, to the MAC of its next hop, a PTP message as it is at its timestamp point; while held it sends nothing.
An idle LINK port of an ACTIVE chip goes on to the next chunk of the pass. A link change shows the speed and sets
INT bit 0 when the port went up or down; only an enabled port with a full-duplex result and a speed of its mode
comes up, and going down flushes its queues, counting their frames (R368, R414 to R417, R474).
(16_ethernet_pcie_dma.md; 13_wharf_pilot.md) -/
def Obligations.EthPorts : Prop :=
  (∀ (n : Nat) (f : Bytes) (fcs : Bool) (s : State), n < 4 → s.ethUp n = true →
    (∀ k, (f.length < 64 ∧ k = 1) ∨ (64 ≤ f.length ∧ fcs = false ∧ k = 2)
        ∨ (64 ≤ f.length ∧ fcs = true ∧ s.fld .ETH_CFG n 0 13 0 < f.length ∧ k = 3)
        ∨ (64 ≤ f.length ∧ fcs = true ∧ f.length ≤ s.fld .ETH_CFG n 0 13 0 ∧ k = 5
          ∧ ofBE (slice f 12 2) ∉ [0x8808, 0x88F7, 0x0800, 0x86DD]) →
      Answers (exec (.ethFrameReceived n f fcs) s) (fun t => t.get .ETH_CNT n k = min 0xFFFFFFFF (s.get .ETH_CNT n k + 1) ∧
        t.flag .ETH_INT n 0 2 = true ∧ t = { s with regs := t.regs, host := t.host } ∧
        s.regsBut t (noteRegs ++ [Reg.addr .ETH_CNT n k, Reg.addr .ETH_INT n 0]))) ∧
    (64 ≤ f.length → fcs = true → f.length ≤ s.fld .ETH_CFG n 0 13 0 → ofBE (slice f 12 2) = 0x8808 → ofBE (slice f 14 2) = 1 →
      20 ≤ f.length → n < s.eth.ports.length → Answers (exec (.ethFrameReceived n f fcs) s) (fun t =>
        t.get .ETH_CNT n 0 = min 0xFFFFFFFF (s.get .ETH_CNT n 0 + 1) ∧ t.get .ETH_CNT n 8 = min 0xFFFFFFFF (s.get .ETH_CNT n 8 + 1) ∧
        (t.ethPort n).queues = (s.ethPort n).queues ∧
        (t.ethPort n).pauseEnd = (if s.time.ns < (s.ethPort n).ignoreEnd then (s.ethPort n).pauseEnd else s.time.ns
          + ofBE (slice f 16 2) * 512 * 1000 / max 1 (ethMbps (s.fld .ETH_STATUS n 0 3 1)))))) ∧
  (∀ (n : Nat) (s : State), n < 4 → n < s.eth.ports.length → s.fld .ETH_CFG n 0 23 16 ≠ 0 → s.time.ns < (s.ethPort n).pauseEnd →
    ((s.ethPort n).pauseSince + 1000000 * s.fld .ETH_CFG n 0 23 16 ≤ s.time.ns → Answers (exec (.pauseWatchdog n) s) (fun t =>
      t.ethPort n = { s.ethPort n with pauseEnd := 0, ignoreEnd := s.time.ns + 1000000000 } ∧ t.flag .ETH_INT n 0 1 = true ∧
      t.get .ETH_CNT n 9 = min 0xFFFFFFFF (s.get .ETH_CNT n 9 + 1))) ∧
    (s.time.ns < (s.ethPort n).pauseSince + 1000000 * s.fld .ETH_CFG n 0 23 16 → exec (.pauseWatchdog n) s = .next s)) ∧
  (∀ (n q : Nat) (f : TxFrame) (rest : List TxFrame) (s : State), n < s.eth.ports.length → n ≠ s.linkPort ∨ s.rank ≠ 8 → s.ethUp n = true →
    (s.time.ns < (s.ethPort n).pauseEnd → exec (.ethFrameTransmit n) s = .next s) ∧
    ((s.ethPort n).pauseEnd ≤ s.time.ns → s.txQueue n = some q → (s.ethPort n).queues[q]? = some (f :: rest) →
      Answers (exec (.ethFrameTransmit n) s) (fun t => (t.ethPort n).queues[q]? = some rest ∧
        t.eth.sent.head? = some (n, (match f.ptp with
          | some x => { f with packet := (s.ptpLeave n x).2.packet }
          | none => f).frame (macOf n) (match f.hop with
          | some h => Map.getD s.eth.neigh h 0
          | none => f.mac)) ∧
        t.time = (match f.ptp with
          | some x => (s.ptpLeave n x).1.time
          | none => s.time) ∧
        t.get .ETH_CNT n 6 = min 0xFFFFFFFF (s.get .ETH_CNT n 6 + 1) ∧ t = { s with eth := t.eth, regs := t.regs, time := t.time } ∧
        s.regsBut t [Reg.addr .ETH_CNT n 6]))) ∧
  (∀ s : State, s.pilotOn = true → s.rank = 8 → s.ethUp s.linkPort = true → (s.ethPort s.linkPort).queues.getD 1 [] = [] →
    s.wharf.region < 6 → Answers (exec (.ethFrameTransmit s.linkPort) s) (fun t =>
      (s.regionSize s.wharf.region ≤ s.wharf.offset + 1024 → t.wharf.region = s.wharf.region + 1 ∧ t.wharf.offset = 0) ∧
      (s.wharf.offset + 1024 < s.regionSize s.wharf.region → t.wharf.region = s.wharf.region ∧ t.wharf.offset = s.wharf.offset + 1024))) ∧
  (∀ (n speed : Nat) (u full on : Bool) (s : State), n < 4 → n < s.eth.ports.length →
    on = (u && full && s.flag .PINS_ETH_EN 0 0 n && s.ethSpeed n speed) → Answers (exec (.ethLinkChange n u full speed) s) (fun t =>
      t.get .ETH_STATUS n 0 = (if on then 1 + speed % 8 * 2 else 0) ∧ (on ≠ s.ethUp n → t.flag .ETH_INT n 0 0 = true) ∧
      (on = true → t.eth = s.eth) ∧
      (on = false → (t.ethPort n).queues = List.replicate 8 [] ∧ t.get .ETH_CNT n 7 = min 0xFFFFFFFF (s.get .ETH_CNT n 7
        + ((s.ethPort n).queues.map List.length).sum)) ∧
      ∀ m, m ≠ n → t.ethPort m = s.ethPort m))

/-- For a host that is not held off. A CR_HEAD write that stays in the ring and passes no unread entry frees the entries
up to it; any other is ignored. CR_BASE writes take effect on an empty ring alone and restart tail, head and phase;
CR_CFG always takes coalescing, and enable and size on an empty ring alone. Once coal_us passed since its oldest
unsignalled message a ring sends its vector, or holds it in PBA while masked or unlinked; before that, and with
none, nothing happens. A GO write to an idle channel whose length is 0, not a multiple of the swap unit or above 16
MiB ends in FORMAT; a good one makes the channel busy with the operation of its registers; to a busy channel it is
ignored. A busy channel whose device ranges are invalid ends with a fault of cause 1, one that a host abort meets
with cause 2; otherwise the destination receives the stream, swapped, and the channel is idle; with the link down a
host transfer waits (R409, R413, R422, R423, R425). (16_ethernet_pcie_dma.md) -/
def Obligations.HostChannels : Prop :=
  (∀ (p size h d : Nat) (val : Word) (r : RingState) (s : State), s.hostHeld = false → p < 8 → s.host.rings[p]? = some r →
    size = s.ringSize p → h = val.toNat % 2 ^ 16 → d = (h + size - s.get .DMA_CR_HEAD p 0) % size →
    (h < size → d ≤ r.used → Answers (exec (.crHeadWrite p val) s) (fun t => t.get .DMA_CR_HEAD p 0 = h ∧
      t.host.rings[p]? = some { r with used := r.used - d } ∧ t = { s with regs := t.regs, host := t.host } ∧
      s.regsBut t [Reg.addr .DMA_CR_HEAD p 0])) ∧
    (size ≤ h ∨ r.used < d → exec (.crHeadWrite p val) s = .next s)) ∧
  (∀ (p : Nat) (val : Word) (r : RingState) (s : State), s.hostHeld = false → p < 8 → s.host.rings[p]? = some r →
    (r.used ≠ 0 → exec (.crCfgWrite p 0 val) s = .next s ∧ exec (.crCfgWrite p 1 val) s = .next s) ∧
    (r.used = 0 → ∀ k b, (k = 0 ∧ b = Reg.DMA_CR_BASE_LO) ∨ (k = 1 ∧ b = Reg.DMA_CR_BASE_HI) →
      Answers (exec (.crCfgWrite p k val) s) (fun t => t.get b p 0 = val.toNat ∧ t.get .DMA_CR_TAIL p 0 = 0 ∧ t.get .DMA_CR_HEAD p 0 = 0
        ∧ t.host.rings[p]? = some { r with phase := true })) ∧
    Answers (exec (.crCfgWrite p 2 val) s) (fun t => t.fld .DMA_CR_CFG p 0 31 9 = bits val.toNat 31 9 ∧
      (r.used = 0 → t.fld .DMA_CR_CFG p 0 0 0 = val.toNat % 2 ∧ (bits val.toNat 8 5 ≤ 9 → t.fld .DMA_CR_CFG p 0 8 5 = bits val.toNat 8 5)) ∧
      (r.used ≠ 0 → t.fld .DMA_CR_CFG p 0 0 0 = s.fld .DMA_CR_CFG p 0 0 0 ∧ t.fld .DMA_CR_CFG p 0 8 5 = s.fld .DMA_CR_CFG p 0 8 5
        ∧ t.host = s.host))) ∧
  (∀ (p : Nat) (r : RingState) (s : State), p < 8 → s.host.rings[p]? = some r →
    (r.unsignalled = 0 ∨ s.time.ns < r.since + 1000 * s.fld .DMA_CR_CFG p 0 31 16 → exec (.crCoalesceTimeout p) s = .next s) ∧
    (r.unsignalled ≠ 0 → r.since + 1000 * s.fld .DMA_CR_CFG p 0 31 16 ≤ s.time.ns → Answers (exec (.crCoalesceTimeout p) s) (fun t => t.host.rings[p]? = some { r with unsignalled := 0 } ∧
      (s.host.msixMasked = false → s.flag .DMA_MSIX_CTRL (64 + p) 0 0 = false → s.host.linkUp = true → t.host.sent.head? = some (64 + p)
        ∧ t.regs = s.regs) ∧
      (s.host.msixMasked = true ∨ s.flag .DMA_MSIX_CTRL (64 + p) 0 0 = true ∨ s.host.linkUp = false →
        t.flag .DMA_PBA 2 0 p = true ∧ t.host.sent = s.host.sent)))) ∧
  (∀ (c n : Nat) (val : Word) (s : State), s.hostHeld = false → 12 ≤ c → c < 16 → bit val.toNat 0 = true → n = s.get .DMA_CH_LEN c 0 →
    (s.flag .DMA_CH_STATUS c 0 0 = true → exec (.dmaChannelGo c val) s = .next s) ∧
    (s.flag .DMA_CH_STATUS c 0 0 = false → bit val.toNat 1 = false → bits val.toNat 6 4 < 6 →
      (n = 0 ∨ 16777216 < n ∨ n % swapUnit (bits val.toNat 6 4) ≠ 0 → Answers (exec (.dmaChannelGo c val) s) (fun t =>
        t.get .DMA_CH_STATUS c 0 = 2 + 3 * 4 ∧ t = { s with regs := t.regs })) ∧
      (1 ≤ n → n ≤ 16777216 → n % swapUnit (bits val.toNat 6 4) = 0 → Answers (exec (.dmaChannelGo c val) s) (fun t =>
        t.get .DMA_CH_STATUS c 0 = 1 ∧ t.flag .DMA_STATUS 0 0 c = true ∧ (t.dmaOp c).len = n ∧ (t.dmaOp c).ctl = val.toNat % 2 ^ 27 / 2 * 2 ∧
        (t.dmaOp c).src = s.addr64 .DMA_CH_SRC_LO .DMA_CH_SRC_HI c ∧ (t.dmaOp c).dst = s.addr64 .DMA_CH_DST_LO .DMA_CH_DST_HI c)))) ∧
  (∀ (c : Nat) (abort : Bool) (src data : Bytes) (op : DmaOp) (s : State), 12 ≤ c → c < 16 → s.flag .DMA_CH_STATUS c 0 0 = true →
    op = s.dmaOp c → bit op.ctl 1 = false → data = swapBytes (bits op.ctl 6 4) (if bit op.ctl 2 then fit op.len src else s.devRead op.src op.len) →
    (bit op.ctl 2 = true ∨ bit op.ctl 3 = true → s.host.linkUp = false → exec (.dmaChannelDone c abort src) s = .next s) ∧
    ((bit op.ctl 2 = false ∧ bit op.ctl 3 = false) ∨ (s.host.linkUp = true ∧ s.host.busMaster = true) →
      ((bit op.ctl 2 = false ∧ s.devValid op.src op.len = false) ∨ (bit op.ctl 3 = false ∧ s.devValid op.dst op.len = false) →
        Answers (exec (.dmaChannelDone c abort src) s) (fun t => t.get .DMA_CH_STATUS c 0 = 2 + 1 * 4 ∧ t.flag .DMA_INT 0 0 0 = true ∧
          t.flag .DMA_STATUS 0 0 c = false ∧ t.pwr = s.pwr ∧ t.host.mem = s.host.mem)) ∧
      (bit op.ctl 2 = true ∨ s.devValid op.src op.len = true → bit op.ctl 3 = true ∨ s.devValid op.dst op.len = true →
        (abort = true → bit op.ctl 2 = true ∨ bit op.ctl 3 = true → Answers (exec (.dmaChannelDone c abort src) s) (fun t =>
          t.get .DMA_CH_STATUS c 0 = 2 + 2 * 4 ∧ t.flag .DMA_INT 0 0 0 = true ∧ t.pwr = s.pwr ∧ t.host.mem = s.host.mem)) ∧
        (abort = false ∨ (bit op.ctl 2 = false ∧ bit op.ctl 3 = false) → Answers (exec (.dmaChannelDone c abort src) s) (fun t =>
          t.get .DMA_CH_STATUS c 0 = 0 ∧ t.flag .DMA_STATUS 0 0 c = false ∧
          (bit op.ctl 3 = true → t.host.mem = memWrite s.host.mem op.dst data ∧ t.pwr.devMem = s.pwr.devMem) ∧
          (bit op.ctl 3 = false → t.pwr.devMem = memWrite s.pwr.devMem op.dst data ∧ t.host.mem = s.host.mem))))))

/-- At a frame boundary an idle panel starts the run of a pending target over the segments that differ, all of them on a
redraw; without one it stays idle. A run within its length and band goes on by one frame; at its length the driven
segments show the target, with RUN_CNT and INT bit 0; a band two or more away aborts it with ABORT_CNT and INT bit
1. A compensation frame counts COMP_CNT; with no account outside bal_tol it is balanced. A slot shifts 72 level
codes. After hv_settle a panel whose image was not kept records 0x1703 with INT bit 3 and starts its clear run;
after hv_discharge the panel is off, the high voltage low; before either time nothing happens. TEMP_HOST silent for
60 s is reported once, with record 0x1704. At a due blink edge the group goes on or off; after readout_s seconds the
page advances, modulo the pages; both make a new target. A host not held off sets redraw (R428 to R440).
(17_panel.md) -/
def Obligations.PanelEvents : Prop :=
  (∀ s : State, (s.panel.phase = .off ∨ s.panel.phase = .settle ∨ s.panel.phase = .discharge → exec .panelFrameBoundary s = .next s) ∧
    (s.panel.phase = .idle → s.panel.pending = none → Answers (exec .panelFrameBoundary s) (fun t => t.panel.phase = .idle ∧
      t.panel.slots = 0 ∧ t.panel.displayed = s.panel.displayed)) ∧
    (∀ x d, s.panel.phase = .idle → s.panel.pending = some x →
      d = (if s.flag .PANEL_CTL 0 0 2 then s.segMask else (x ^^^ s.panel.displayed) &&& s.segMask) →
      Answers (exec .panelFrameBoundary s) (fun t => t.panel.pending = none ∧ t.panel.target = x ∧
        (d = 0 → t.panel.phase = .idle) ∧ (d ≠ 0 → t.panel.phase = .run ∧ t.panel.run = ⟨d, s.panel.displayed, x, t.panel.band, 0⟩ ∧
          t.flag .PANEL_CTL 0 0 2 = false))) ∧
    (s.panel.phase = .run → Answers (exec .panelFrameBoundary s) (fun t =>
      (s.panel.run.frame + 1 < s.runLength →
        (t.panel.band < s.panel.run.band + 2 → s.panel.run.band < t.panel.band + 2 → t.panel.phase = .run ∧
          t.panel.run = { s.panel.run with frame := s.panel.run.frame + 1 } ∧ t.panel.displayed = s.panel.displayed) ∧
        (s.panel.run.band + 2 ≤ t.panel.band ∨ t.panel.band + 2 ≤ s.panel.run.band → t.flag .PANEL_INT 0 0 1 = true ∧
          t.get .PANEL_ABORT_CNT 0 0 = min 0xFFFFFFFF (s.get .PANEL_ABORT_CNT 0 0 + 1))) ∧
      (s.runLength ≤ s.panel.run.frame + 1 → t.flag .PANEL_INT 0 0 0 = true ∧
        t.get .PANEL_RUN_CNT 0 0 = min 0xFFFFFFFF (s.get .PANEL_RUN_CNT 0 0 + 1) ∧ t.panel.displayed
          = (s.panel.displayed &&& (s.panel.displayed ^^^ s.panel.run.driven)) ||| (s.panel.run.target &&& s.panel.run.driven)))) ∧
    (∀ n, s.panel.phase = .comp n → Answers (exec .panelFrameBoundary s) (fun t =>
      t.get .PANEL_COMP_CNT 0 0 = min 0xFFFFFFFF (s.get .PANEL_COMP_CNT 0 0 + 1) ∧
      (t.outside = [] → t.panel.unbalanced = false) ∧
      (t.outside ≠ [] → n + 1 < s.fld .PANEL_CFG1 0 0 23 16 → t.panel.phase = .comp (n + 1)) ∧
      (t.outside ≠ [] → s.fld .PANEL_CFG1 0 0 23 16 ≤ n + 1 → t.panel.unbalanced = true ∧ t.flag .PANEL_INT 0 0 2 = true)))) ∧
  (∀ s : State, (s.panel.phase ≠ .off → s.panel.phase ≠ .discharge → Answers (exec .panelSlotStart s) (fun t =>
      t.panel = { s.panel with codes := s.slotCodes (s.panel.slots % 16), slots := min 16 (s.panel.slots + 1) } ∧
      t.panel.codes.length = 72 ∧ t = { s with panel := t.panel })) ∧
    (s.panel.phase = .off ∨ s.panel.phase = .discharge → exec .panelSlotStart s = .next s)) ∧
  (∀ s : State, s.panel.phase = .settle →
    (s.panel.phaseAt + 1000000 * s.fld .PANEL_CFG0 0 0 18 11 ≤ s.time.ns → Answers (exec .panelHvSettled s) (fun t =>
      t.panel.cut = false ∧ t.panel.kept = true ∧
      (s.panel.cut = true ∨ s.panel.kept = false → t.flag .PANEL_INT 0 0 3 = true) ∧
      (s.panel.kept = false → s.panel.next = .clear → t.panel.phase = .run ∧ t.panel.displayed = 0 ∧ t.panel.accounts = [] ∧
        t.panel.run.target = 0 ∧ t.panel.run.driven = s.segMask ∧ (s.log.queue.length < 64 → t.lastEvent = some (0x1703, 1, 0))))) ∧
    (s.time.ns < s.panel.phaseAt + 1000000 * s.fld .PANEL_CFG0 0 0 18 11 → exec .panelHvSettled s = .next s)) ∧
  (∀ s : State, s.panel.phase = .discharge →
    (s.panel.phaseAt + 1000000 * s.fld .PANEL_CFG0 0 0 26 19 ≤ s.time.ns →
      exec .panelHvDischarged s = .next { s with panel := { s.panel with phase := .off, hv := false } }) ∧
    (s.time.ns < s.panel.phaseAt + 1000000 * s.fld .PANEL_CFG0 0 0 26 19 → exec .panelHvDischarged s = .next s)) ∧
  (∀ s : State, s.flag .PANEL_CFG1 0 0 24 = true → s.hasSection 0x120 = true → s.inService = true →
    s.panel.tempAt + 60000000000 ≤ s.time.ns →
    (s.panel.stale = false → Answers (exec .panelTempStale s) (fun t => t.panel = { s.panel with stale := true } ∧
      t.flag .PANEL_INT 0 0 4 = true ∧
      (s.log.queue.length < 64 → t.lastEvent = some (0x1704, s.get .PANEL_TEMP_HOST 0 0 % 2 ^ 32, 0)))) ∧
    (s.panel.stale = true → exec .panelTempStale s = .next s)) ∧
  (∀ (g : Nat) (s : State), g < 8 → s.flag .PANEL_BLINK_CTL g 0 0 = true → s.fnRunning 0x14 = true →
    (s.blinkDue g ≤ s.time.ns → Answers (exec (.panelBlinkEdge g) s) (fun t => (g ∈ t.panel.blink ↔ g ∉ s.panel.blink) ∧
      (∀ h, h ≠ g → (h ∈ t.panel.blink ↔ h ∈ s.panel.blink)) ∧ Map.get? t.panel.blinkAt g = some s.time.ns ∧
      t.panel.pending.isSome = true ∧ t = { s with panel := t.panel })) ∧
    (s.time.ns < s.blinkDue g → exec (.panelBlinkEdge g) s = .next s)) ∧
  (∀ (v : Bytes) (s : State), s.item? 0x120 5 = some v → s.fnRunning 0x14 = true →
    (s.panel.pageAt + 1000000000 * leAt v 3 1 ≤ s.time.ns → Answers (exec .readoutPageAdvance s) (fun t =>
      t.panel.page = (s.panel.page + 1) % (leAt v 4 1 + 1) ∧ t.panel.pageAt = s.time.ns ∧ t.panel.pending.isSome = true
      ∧ t = { s with panel := t.panel })) ∧
    (s.time.ns < s.panel.pageAt + 1000000000 * leAt v 3 1 → exec .readoutPageAdvance s = .next s)) ∧
  (∀ s : State, s.hostHeld = false → Answers (exec .panelRedraw s) (fun t => t.flag .PANEL_CTL 0 0 2 = true ∧
    t = { s with regs := t.regs } ∧ s.regsBut t [Reg.addr .PANEL_CTL 0 0]))

/-- An idle device on backup, with nothing to dispatch, run or send and no hold, enters the deepest eligible state that
its next event allows, counted and recorded, and stays in RUN when none is eligible; for HIBERNATE its functions
drain first, it enters once they are OFF and store and panel let it, with no slot left, and after 100 ms it gives
up. A scheduled wake within its time and a wake source of the state lead to RUN; a wake after its time counts
WAKE_LATE_CNT; other sources change nothing. PWRFAIL_N is taken once, before POWER_DOWN: its flag, INT bit 1, RUN,
no manifest under way (and none queued but what Customs or a delta makes meanwhile), no STAGE, Customs down, and the
store FLUSHING toward flush_end; out of HIBERNATE, POWER_DOWN at once. Once the flush is done the last-gasp frames
end in POWER_DOWN. HOLDUP_OK falling sets INT bit 2; a change of backup sets INT bit 3 and, when backup ends, wakes.
A PWR command that is taken ends with its result: HOLD_RUN holds and wakes, RELEASE_RUN ends the hold,
RESTORE_FACTORY clears what its bits name with INT bit 6 and record 0x1806, BG_NOW starts a pass, is BUSY while it
runs, and REFUSED for no activity (R346, R347, R453 to R458, R462, R464, R466, R480). (18_power_clocks_reset.md;
19_package_electrical.md; 12_store.md) -/
def Obligations.PowerStates : Prop :=
  (∀ (tel next v : Nat) (s : State), s.pwr.inReset = false → s.pwrfail = false → s.power = 0 → s.flag .PWR_STATUS 0 0 6 = true →
    s.flag .PWR_STATUS 0 0 7 = false → s.loader ≠ 8 → s.loader ≠ 9 → s.dispatchIdle = true → s.tugsIdle = true → s.airIdle = true →
    next = s.nextEvent tel →
    (s.pwr.hibEntry = none → [3, 2, 1].find? (fun v => s.mayEnter v && decide (breakEven v + s.wakeMargin ≤ next - s.time.ns)) = some v → v ≠ 3 →
      Answers (exec (.deviceIdle tel) s) (fun t => t.power = v ∧ t.pwr.nextEvent = next ∧ t.pwr.entered = s.time.ns ∧
        t.flag .PWR_INT 0 0 0 = true ∧ (v = 1 → t.get .PWR_DOZE_CNT 0 0 = min 0xFFFFFFFF (s.get .PWR_DOZE_CNT 0 0 + 1)) ∧
        (v = 2 → t.get .PWR_NAP_CNT 0 0 = min 0xFFFFFFFF (s.get .PWR_NAP_CNT 0 0 + 1)) ∧
        (s.log.queue.length < 64 → t.lastEvent = some (0x1805, v, min 0xFFFFFFFF ((next - s.time.ns) / 1000))))) ∧
    (∀ u m, (s.pwr.hibEntry = none ∧ [3, 2, 1].find? (fun v => s.mayEnter v && decide (breakEven v + s.wakeMargin ≤ next - s.time.ns)) = some 3
        ∧ m = next ∧ u = s.beginHibernate next) ∨ (∃ e, s.pwr.hibEntry = some e ∧ s.time.ns ≤ e.1 + 100000000 ∧ m = e.2 ∧ u = s.idleOff) →
      (u.mayHibernate = true → Answers (exec (.deviceIdle tel) s) (fun t => t.power = 3 ∧ t.pwr.nextEvent = m ∧ t.pwr.entered = s.time.ns ∧
        t.pwr.hibEntry = none ∧ t.flag .PWR_INT 0 0 0 = true ∧ t.get .PWR_HIB_CNT 0 0 = min 0xFFFFFFFF (s.get .PWR_HIB_CNT 0 0 + 1) ∧
        t.hm.slots = [] ∧ ∀ f ∈ allFns, t.fnState f = 0)) ∧
      (u.mayHibernate = false → exec (.deviceIdle tel) s = .next u)) ∧
    (∀ e, s.pwr.hibEntry = some e → e.1 + 100000000 < s.time.ns → Answers (exec (.deviceIdle tel) s) (fun t =>
      t = s.endHibEntry ∧ t.pwr.hibEntry = none ∧ t.power = 0)) ∧
    (s.pwr.hibEntry = none → [3, 2, 1].find? (fun v => s.mayEnter v && decide (breakEven v + s.wakeMargin ≤ next - s.time.ns)) = none →
      exec (.deviceIdle tel) s = .next s)) ∧
  (∀ s : State, 1 ≤ s.power → s.power ≤ 3 →
    (s.pwr.nextEvent ≤ s.time.ns + wakeMax s.power + s.wakeMargin → Answers (exec .scheduledWake s) (fun t => t.power = 0 ∧
      t.flag .PWR_INT 0 0 0 = true ∧
      (s.pwr.nextEvent < s.time.ns → t.get .PWR_WAKE_LATE_CNT 0 0 = min 0xFFFFFFFF (s.get .PWR_WAKE_LATE_CNT 0 0 + 1)))) ∧
    (s.time.ns + wakeMax s.power + s.wakeMargin < s.pwr.nextEvent → exec .scheduledWake s = .next s)) ∧
  (∀ (k : Nat) (s : State), ((s.power = 1 ∧ k = 0 ∧ s.dispatchIdle = false) ∨ (s.power = 2 ∧ 1 ≤ k ∧ k ≤ 5) ∨ (s.power = 3 ∧ (k = 2 ∨ k = 5)) →
      Answers (exec (.unscheduledWake k) s) (fun t => t.power = 0 ∧ t.flag .PWR_INT 0 0 0 = true)) ∧
    (s.power = 0 ∨ (s.power = 1 ∧ k ≠ 0) ∨ (s.power = 2 ∧ k = 0) ∨ (s.power = 3 ∧ k ≠ 2 ∧ k ≠ 5) → exec (.unscheduledWake k) s = .next s)) ∧
  (∀ s : State, (s.pwrfail = true ∨ s.power = 4 → exec .pwrfailAccept s = .next s) ∧
    (s.pwrfail = false → s.power = 3 → Answers (exec .pwrfailAccept s) (fun t => t.power = 4 ∧ t.pwrfail = true ∧ t.flag .PWR_INT 0 0 1 = true)) ∧
    (s.pwrfail = false → s.power < 3 → Answers (exec .pwrfailAccept s) (fun t => t.power = 0 ∧ t.pwrfail = true ∧
      t.flag .PWR_INT 0 0 1 = true ∧ t.pwr.gasp = 1 ∧ t.hm.slots = [] ∧
      (s.loader ≠ 9 → s.customs.state ≠ 1 → s.customs.state ≠ 2 → t.hm.berths = []) ∧ t.upd.staging = none ∧
      t.pwr.passes = [] ∧ t.pwr.hibEntry = none ∧ (s.loader ≠ 9 → t.customs.state = 4 ∧ t.store.down = s.storeOn ∧
        (s.storeOn = true → t.storeState = 6 ∧ t.store.flushOn = true ∧ t.store.flushEnd = false) ∧
        (s.storeOn = false → t.storeState = 6 ∨ t.storeState = 7))))) ∧
  (∀ s : State, (s.pwr.gasp = 1 → s.storeState = 7 → Answers (exec .lastGaspFrames s) (fun t => t.power = 4 ∧ t.pwr.gasp = 0 ∧ t.pwr.heldReset = false)) ∧
    (s.pwr.gasp ≠ 1 ∨ s.storeState ≠ 7 → exec .lastGaspFrames s = .next s)) ∧
  (∀ (high : Bool) (s : State), (s.flag .PWR_STATUS 0 0 9 = high → exec (.holdupOkChange high) s = .next s) ∧
    (s.flag .PWR_STATUS 0 0 9 ≠ high → Answers (exec (.holdupOkChange high) s) (fun t => t.flag .PWR_STATUS 0 0 9 = high ∧
      (high = false → t.flag .PWR_INT 0 0 2 = true) ∧ (s.power = 2 ∨ s.power = 3 → t.power = 0)))) ∧
  (∀ (on b : Bool) (s : State), b = (s.modPwr (fun p => { p with onBackup := on })).onBackup → Answers (exec (.backupChange on) s) (fun t =>
    t.pwr.onBackup = on ∧ t.flag .PWR_STATUS 0 0 6 = b ∧ (s.flag .PWR_STATUS 0 0 6 = b → t.regs = s.regs) ∧
    (s.flag .PWR_STATUS 0 0 6 ≠ b → t.flag .PWR_INT 0 0 3 = true ∧ (b = false → s.power ≤ 3 → t.power = 0)))) ∧
  (∀ s : State, s.pwrTakes = true →
    Answers (exec .pwrHoldRun s) (fun t => t.flag .PWR_STATUS 0 0 7 = true ∧ t.get .PWR_CMD_STATUS 0 0 = 1 ∧ (s.power ≤ 3 → t.power = 0)) ∧
    Answers (exec .pwrReleaseRun s) (fun t => t.flag .PWR_STATUS 0 0 7 = false ∧ t.get .PWR_CMD_STATUS 0 0 = 1 ∧ t = { s with regs := t.regs }
      ∧ s.regsBut t [Reg.addr .PWR_STATUS 0 0, Reg.addr .PWR_CMD_STATUS 0 0]) ∧
    (∀ arg, bits arg 3 2 ≠ 0 → Answers (exec (.pwrRestoreFactory arg) s) (fun t => t.get .PWR_CMD_STATUS 0 0 = 1 + 2 * 2
      ∧ t = { s with regs := t.regs })) ∧
    (∀ arg, bits arg 3 2 = 0 → Answers (exec (.pwrRestoreFactory arg) s) (fun t => t.get .PWR_CMD_STATUS 0 0 = 1 ∧
      t.flag .PWR_INT 0 0 6 = true ∧ (bit arg 0 = true → t.time.calibrations = 0) ∧ (bit arg 1 = true → t.time.ageing = 0) ∧
      (t.log.queue.length < 64 → t.lastEvent = some (0x1806, bits arg 1 0, 0)))) ∧
    (∀ arg, (3 ≤ arg % 16 → Answers (exec (.pwrBgNow arg) s) (fun t => t.get .PWR_CMD_STATUS 0 0 = 1 + 2 * 2 ∧ t.pwr = s.pwr)) ∧
      (arg % 16 < 3 → arg % 16 ∈ s.pwr.passes → Answers (exec (.pwrBgNow arg) s) (fun t => t.get .PWR_CMD_STATUS 0 0 = 1 + 1 * 2 ∧ t.pwr = s.pwr)) ∧
      (arg % 16 < 3 → arg % 16 ∉ s.pwr.passes → Answers (exec (.pwrBgNow arg) s) (fun t => t.get .PWR_CMD_STATUS 0 0 = 1 ∧
        t.pwr = { s.pwr with passes := arg % 16 :: s.pwr.passes } ∧ t = { s with regs := t.regs, pwr := t.pwr }
        ∧ s.regsBut t [Reg.addr .PWR_CMD_STATUS 0 0]))))

/-- A pass of the SRAM scrub outside reset and POWER_DOWN adds its corrected bits to the count, ends an extra pass asked
for, counts the pass, and sets INT.scrub_done; an error in a signal buffer counts as uncorrectable with its INT bit.
The DDR-5 patrol in RUN or DOZE adds its corrected bits, marks an endpoint record that it could not correct, and
counts the pass at its end; deeper it pauses. Every 60 s a TELEMETRY manifest is made while its function runs, and
nothing happens before. A temperature sample is shown, raises the maximum when it exceeds it, sets hot with INT bit
0 at the threshold and clears it 2 °C below. A ball that follows its level outside takes it, and an edge that
GPIO_EDGE selects sets the ball's interrupt bit, any other none (R28 to R30, R92, R462, R487, R489).
(01_architecture.md; 18_power_clocks_reset.md; 20_register_map.md) -/
def Obligations.BackgroundWork : Prop :=
  (∀ (c : Nat) (s : State), s.pwr.inReset = false → s.power ≠ 4 → Answers (exec (.sramScrubPass c []) s) (fun t =>
    t.get .GLOBAL_SCRUB_CORR_CNT 0 0 = min 0xFFFFFFFF (s.get .GLOBAL_SCRUB_CORR_CNT 0 0 + c) ∧ t.flag .GLOBAL_INT 0 0 2 = true ∧
    t.get .PWR_BG_PASS 0 0 = min 0xFFFFFFFF (s.get .PWR_BG_PASS 0 0 + 1) ∧ 0 ∉ t.pwr.passes ∧ t.ep.recs = s.ep.recs ∧ t.plc = s.plc)) ∧
  (∀ (c n p a : Nat) (s : State), s.pwr.inReset = false → s.power ≠ 4 → Answers (exec (.sramScrubPass c [⟨.signal n p, a⟩]) s) (fun t =>
    t.get .GLOBAL_SCRUB_UNCORR_CNT 0 0 = min 0xFFFFFFFF (s.get .GLOBAL_SCRUB_UNCORR_CNT 0 0 + 1) ∧ t.flag .GLOBAL_INT 0 0 1 = true ∧
    p ∉ (t.seg n).cache ∧ ∀ m, m ≠ n → t.seg m = s.seg m)) ∧
  (∀ (c : Nat) (done : Bool) (s : State), s.pwr.inReset = false → s.power < 2 →
    Answers (exec (.ddrPatrol c [] done) s) (fun t =>
      t.get .GLOBAL_SCRUB_CORR_CNT 0 0 = min 0xFFFFFFFF (s.get .GLOBAL_SCRUB_CORR_CNT 0 0 + c) ∧
      (done = true → t.get .PWR_BG_PASS 1 0 = min 0xFFFFFFFF (s.get .PWR_BG_PASS 1 0 + 1) ∧ 1 ∉ t.pwr.passes) ∧
      (done = false → t = { s with regs := t.regs })) ∧
    (∀ epx a, Answers (exec (.ddrPatrol c [⟨.epRecord epx, a⟩] done) s) (fun t => epx ∈ t.ep.damaged ∧ t.flag .GLOBAL_INT 0 0 1 = true ∧
      t.get .GLOBAL_SCRUB_UNCORR_CNT 0 0 = min 0xFFFFFFFF (s.get .GLOBAL_SCRUB_UNCORR_CNT 0 0 + 1)))) ∧
  (∀ (c : Nat) (errs : List ScrubErr) (done : Bool) (s : State), 2 ≤ s.power → exec (.ddrPatrol c errs done) s = .next s) ∧
  (∀ (idx b : Nat) (s : State), (s.bgDue 0 60 = false → exec (.telemetryInstant idx) s = .next s) ∧
    (s.bgDue 0 60 = true → s.fnRunning 0x13 = true → s.routed 4 kTelemetry (idx % 64) noFlow b →
      Answers (exec (.telemetryInstant idx) s) (fun t => s.entered t b kTelemetry 0 noFlow [] ∧ t.bgDue 0 60 = false)) ∧
    (s.bgDue 0 60 = true → s.fnRunning 0x13 = false → Answers (exec (.telemetryInstant idx) s) (fun t => t.bgDue 0 60 = false ∧
      t = { s with pwr := t.pwr }))) ∧
  (∀ (tj hot : Int) (top : Nat) (s : State), hot = toSigned 16 (s.fld .GLOBAL_HOT_CFG 0 0 15 0) → top = s.fld .GLOBAL_TEMP_MAX 0 0 15 0 →
    -32768 ≤ tj → tj ≤ 32767 → Answers (exec (.tempSample tj) s) (fun t => t.get .GLOBAL_TEMP 0 0 = ofSigned 16 tj ∧
      (top = 0x8000 ∨ toSigned 16 top < tj → t.get .GLOBAL_TEMP_MAX 0 0 = ofSigned 16 tj) ∧
      (top ≠ 0x8000 → tj ≤ toSigned 16 top → t.get .GLOBAL_TEMP_MAX 0 0 = s.get .GLOBAL_TEMP_MAX 0 0) ∧
      (hot ≤ tj → t.flag .GLOBAL_STATUS 0 0 1 = true ∧ (s.flag .GLOBAL_STATUS 0 0 1 = false → t.flag .GLOBAL_INT 0 0 0 = true)) ∧
      (tj < hot - 200 → t.flag .GLOBAL_STATUS 0 0 1 = false) ∧
      (hot - 200 ≤ tj → tj < hot → t.flag .GLOBAL_STATUS 0 0 1 = s.flag .GLOBAL_STATUS 0 0 1))) ∧
  (∀ (g e : Nat) (rising : Bool) (u s : State), g < 48 → u = s.modPwr (fun p => { p with gpio := putBits p.gpio g g (b2n rising) }) →
    e = s.fld .PINS_GPIO_EDGE (g / 16) 0 (2 * (g % 16) + 1) (2 * (g % 16)) → Answers (exec (.gpioEdge g rising) s) (fun t => t.pwr = u.pwr ∧
      bit t.pwr.gpio g = rising ∧
      (u.gpioLevel g = rising → s.gpioLevel g ≠ rising → bit e (if rising then 0 else 1) = true →
        (g < 32 → t.flag .PINS_GPIO_INT_LO 0 0 g = true) ∧ (32 ≤ g → t.flag .PINS_GPIO_INT_HI 0 0 (g - 32) = true)) ∧
      (u.gpioLevel g = s.gpioLevel g ∨ bit e (if rising then 0 else 1) = false → t = u)))
end

