-- ==== Sys2Proof/Laws/Bits.lean ====
section
/-!
SUPPORT. Laws of bit fields and byte order.
-/
namespace Sys2Proof.Machine

/-- A bit field is below two to its width. -/
theorem bits_lt (w hi lo : Nat) : bits w hi lo < 2 ^ (hi + 1 - lo) := Nat.mod_lt _ (Nat.two_pow_pos _)

/-- A word split at a field: the bits above, the field and the bits below. -/
theorem bits_split (w hi lo : Nat) (h : lo ≤ hi) :
    w = w / 2 ^ (hi + 1) * 2 ^ (hi + 1) + bits w hi lo * 2 ^ lo + w % 2 ^ lo := by
  have e : 2 ^ (hi + 1) = 2 ^ lo * 2 ^ (hi + 1 - lo) := by rw [← Nat.pow_add]; congr 1; omega
  have a := Nat.div_add_mod w (2 ^ lo)
  have b := Nat.div_add_mod (w / 2 ^ lo) (2 ^ (hi + 1 - lo))
  rw [Nat.div_div_eq_div_mul, ← e] at b
  simp only [bits, Nat.shiftRight_eq_div_pow]
  have c : w / 2 ^ (hi + 1) * 2 ^ (hi + 1) = 2 ^ lo * (2 ^ (hi + 1 - lo) * (w / 2 ^ (hi + 1))) := by
    rw [← Nat.mul_assoc, ← e, Nat.mul_comm]
  rw [c, Nat.mul_comm (_ % _), ← Nat.mul_add, b, a]

/-- A word with a field replaced, split at the field. -/
theorem putBits_split (w hi lo v : Nat) (h : lo ≤ hi) :
    putBits w hi lo v = w / 2 ^ (hi + 1) * 2 ^ (hi + 1) + v % 2 ^ (hi + 1 - lo) * 2 ^ lo + w % 2 ^ lo := by
  have s := bits_split w hi lo h
  simp only [putBits, Nat.shiftLeft_eq]
  generalize hb : bits w hi lo * 2 ^ lo = b at *
  generalize w / 2 ^ (hi + 1) * 2 ^ (hi + 1) = a at *
  generalize w % 2 ^ lo = c at *
  omega

/-- A field reads back what was put into it. -/
theorem bits_putBits_same (w hi lo v : Nat) (h : lo ≤ hi) : bits (putBits w hi lo v) hi lo = v % 2 ^ (hi + 1 - lo) := by
  have e : 2 ^ (hi + 1) = 2 ^ (hi + 1 - lo) * 2 ^ lo := by rw [← Nat.pow_add]; congr 1; omega
  rw [putBits_split w hi lo v h, bits, Nat.shiftRight_eq_div_pow, e, ← Nat.mul_assoc, ← Nat.add_mul,
    Nat.add_comm, Nat.add_mul_div_right _ _ (Nat.two_pow_pos _), Nat.div_eq_of_lt (Nat.mod_lt _ (Nat.two_pow_pos _)),
    Nat.zero_add, Nat.add_comm, Nat.add_mul_mod_self_right, Nat.mod_mod]

/-- The bits above a replaced field are unchanged. -/
theorem putBits_div (w hi lo v : Nat) (h : lo ≤ hi) : putBits w hi lo v / 2 ^ (hi + 1) = w / 2 ^ (hi + 1) := by
  have b : v % 2 ^ (hi + 1 - lo) * 2 ^ lo + w % 2 ^ lo < 2 ^ (hi + 1) := by
    have e2 : 2 ^ (hi + 1) = 2 ^ (hi + 1 - lo) * 2 ^ lo := by rw [← Nat.pow_add]; congr 1; omega
    have l1 : v % 2 ^ (hi + 1 - lo) + 1 ≤ 2 ^ (hi + 1 - lo) := Nat.mod_lt _ (Nat.two_pow_pos _)
    have l2 := Nat.mul_le_mul_right (2 ^ lo) l1
    have l3 : w % 2 ^ lo < 2 ^ lo := Nat.mod_lt _ (Nat.two_pow_pos _)
    rw [e2]; rw [Nat.add_mul, Nat.one_mul] at l2; omega
  rw [putBits_split w hi lo v h, Nat.add_assoc, Nat.add_comm, Nat.add_mul_div_right _ _ (Nat.two_pow_pos _),
    Nat.div_eq_of_lt b, Nat.zero_add]

/-- A field above the one replaced is unchanged. -/
theorem bits_putBits_above (w hi lo v hi' lo' : Nat) (h : lo ≤ hi) (h' : hi < lo') :
    bits (putBits w hi lo v) hi' lo' = bits w hi' lo' := by
  have e : 2 ^ lo' = 2 ^ (hi + 1) * 2 ^ (lo' - (hi + 1)) := by rw [← Nat.pow_add]; congr 1; omega
  simp only [bits, Nat.shiftRight_eq_div_pow, e, ← Nat.div_div_eq_div_mul, putBits_div w hi lo v h]

/-- A field below the one replaced is unchanged. -/
theorem bits_putBits_below (w hi lo v hi' lo' : Nat) (h : lo ≤ hi) (h' : hi' < lo) (h'' : lo' ≤ hi') :
    bits (putBits w hi lo v) hi' lo' = bits w hi' lo' := by
  have m : putBits w hi lo v % 2 ^ lo = w % 2 ^ lo := by
    have e2 : 2 ^ (hi + 1) = 2 ^ (hi + 1 - lo) * 2 ^ lo := by rw [← Nat.pow_add]; congr 1; omega
    rw [putBits_split w hi lo v h, e2, ← Nat.mul_assoc, ← Nat.add_mul, Nat.add_comm, Nat.add_mul_mod_self_right,
      Nat.mod_mod]
  have key : ∀ x : Nat, bits x hi' lo' = bits (x % 2 ^ lo) hi' lo' := by
    intro x
    have e : 2 ^ lo = 2 ^ lo' * 2 ^ (lo - lo') := by rw [← Nat.pow_add]; congr 1; omega
    have e3 : 2 ^ (lo - lo') = 2 ^ (hi' + 1 - lo') * 2 ^ (lo - (hi' + 1)) := by
      rw [← Nat.pow_add]; congr 1; omega
    simp only [bits, Nat.shiftRight_eq_div_pow]
    rw [e, Nat.mod_mul_right_div_self, e3, Nat.mod_mul_right_mod]
  rw [key (putBits w hi lo v), key w, m]

/-- A replaced field keeps a 32-bit word within 32 bits. -/
theorem putBits_lt (w hi lo v : Nat) (h : lo ≤ hi) (hh : hi < 32) (hw : w < 2 ^ 32) : putBits w hi lo v < 2 ^ 32 := by
  have e : (2 : Nat) ^ 32 = 2 ^ (32 - (hi + 1)) * 2 ^ (hi + 1) := by rw [← Nat.pow_add]; congr 1; omega
  rw [e] at hw ⊢
  rw [← Nat.div_lt_iff_lt_mul (Nat.two_pow_pos _)] at hw ⊢
  rwa [putBits_div w hi lo v h]

@[simp] theorem b2n_mod (b : Bool) : b2n b % 2 = b2n b := by cases b <;> rfl

@[simp] theorem b2n_eq_one (b : Bool) : (b2n b = 1) = (b = true) := by cases b <;> simp [b2n]

/-- Little-endian bytes of a number read back as the number, cut to their width. -/
theorem ofLE_toLE (n v : Nat) : ofLE (toLE n v) = v % 256 ^ n := by
  induction n generalizing v with
  | zero => simp [toLE, ofLE, Nat.mod_one]
  | succ n ih =>
    simp only [toLE, ofLE, ih, BitVec.toNat_ofNat]
    rw [show 256 ^ (n + 1) = 256 * 256 ^ n by rw [Nat.pow_succ, Nat.mul_comm], Nat.mod_mul]

@[simp] theorem length_toLE (n v : Nat) : (toLE n v).length = n := by
  induction n generalizing v with
  | zero => rfl
  | succ n ih => simp [toLE, ih]

/-- The field a byte string starts with. -/
theorem leAt_toLE (n v : Nat) : leAt (toLE n v) 0 n = v % 256 ^ n := by
  simp [leAt, slice, List.take_of_length_le, ofLE_toLE]

end Sys2Proof.Machine
end

