-- ==== Sys2Proof/Laws/Maps.lean ====
section
/-!
SUPPORT. Laws of the sparse maps: a read after a write, writes elsewhere, and the canonical form.
-/
namespace Sys2Proof.Machine

variable {α : Type}

@[simp] theorem Map.get?_put_same (m : Map α) (n : Nat) (w : α) : Map.get? (Map.put m n w) n = some w := by
  induction m with
  | nil => simp [Map.put, Map.get?]
  | cons e m ih =>
    obtain ⟨k, v⟩ := e
    by_cases h : n < k
    · simp [Map.put, Map.get?, h]
    · by_cases h' : n = k
      · subst h'; simp [Map.put, Map.get?]
      · have h'' : ¬ k = n := fun e => h' e.symm
        simp [Map.put, Map.get?, h, h', h'', ih]

@[simp] theorem Map.get?_put_ne (m : Map α) (n k : Nat) (w : α) (h : n ≠ k) :
    Map.get? (Map.put m n w) k = Map.get? m k := by
  induction m with
  | nil => simp [Map.put, Map.get?, h]
  | cons e m ih =>
    obtain ⟨a, v⟩ := e
    by_cases h1 : n < a
    · simp [Map.put, Map.get?, h1, h]
    · by_cases h2 : n = a
      · subst h2; simp [Map.put, Map.get?, h]
      · by_cases h3 : a = k
        · subst h3; simp [Map.put, Map.get?, h1, h2]
        · simp [Map.put, Map.get?, h1, h2, h3, ih]

@[simp] theorem Map.get?_del_same (m : Map α) (n : Nat) : Map.get? (Map.del m n) n = none := by
  induction m with
  | nil => rfl
  | cons e m ih =>
    obtain ⟨a, v⟩ := e
    by_cases h : a = n
    · simpa [Map.del, List.filter, h] using ih
    · simpa [Map.del, List.filter, h, Map.get?] using ih

@[simp] theorem Map.get?_del_ne (m : Map α) (n k : Nat) (h : n ≠ k) : Map.get? (Map.del m n) k = Map.get? m k := by
  induction m with
  | nil => rfl
  | cons e m ih =>
    obtain ⟨a, v⟩ := e
    by_cases h1 : a = n
    · subst h1; simpa [Map.del, List.filter, Map.get?, h] using ih
    · by_cases h2 : a = k <;> simp_all [Map.del, List.filter, Map.get?]

/-- What a read answers after a write that keeps the canonical form. -/
theorem Map.get?_putD [DecidableEq α] (m : Map α) (n : Nat) (w d : α) :
    (Map.get? (Map.putD m n w d) n).getD d = w := by
  by_cases h : w = d <;> simp [Map.putD, h]

theorem Map.get?_putD_ne [DecidableEq α] (m : Map α) (n k : Nat) (w d : α) (h : n ≠ k) :
    Map.get? (Map.putD m n w d) k = Map.get? m k := by
  by_cases h' : w = d <;> simp [Map.putD, h', h]

theorem Map.wfFrom_mono {a b : Nat} (m : Map α) (h : a ≤ b) (hb : Map.wfFrom b m = true) : Map.wfFrom a m = true := by
  cases m with
  | nil => rfl
  | cons e m =>
    simp only [Map.wfFrom, Bool.and_eq_true, decide_eq_true_eq] at hb ⊢
    exact ⟨Nat.le_trans h hb.1, hb.2⟩

theorem Map.wfFrom_put {a : Nat} (m : Map α) (n : Nat) (w : α) (hn : a ≤ n) (h : Map.wfFrom a m = true) :
    Map.wfFrom a (Map.put m n w) = true := by
  induction m generalizing a with
  | nil => simp [Map.put, Map.wfFrom, hn]
  | cons e m ih =>
    obtain ⟨k, v⟩ := e
    simp only [Map.wfFrom, Bool.and_eq_true, decide_eq_true_eq] at h
    by_cases h1 : n < k
    · simp [Map.put, Map.wfFrom, h1, hn, h.2, Nat.succ_le_of_lt h1]
    · by_cases h2 : n = k
      · subst h2; simp [Map.put, Map.wfFrom, h.2, hn]
      · have : k + 1 ≤ n := by omega
        simp [Map.put, Map.wfFrom, h1, h2, h.1, ih this h.2]

theorem Map.wfFrom_filter {a : Nat} (m : Map α) (p : Nat × α → Bool) (h : Map.wfFrom a m = true) :
    Map.wfFrom a (List.filter p m) = true := by
  induction m generalizing a with
  | nil => rfl
  | cons e m ih =>
    simp only [Map.wfFrom, Bool.and_eq_true, decide_eq_true_eq] at h
    by_cases hp : p e
    · simp [List.filter, hp, Map.wfFrom, h.1, ih h.2]
    · simpa [List.filter, hp] using Map.wfFrom_mono _ (by omega) (ih h.2)

/-- Writing keeps the canonical form. -/
theorem Map.wf_put (m : Map α) (n : Nat) (w : α) (h : Map.wf m = true) : Map.wf (Map.put m n w) = true :=
  Map.wfFrom_put m n w (Nat.zero_le n) h

/-- Removing keeps the canonical form. -/
theorem Map.wf_del (m : Map α) (n : Nat) (h : Map.wf m = true) : Map.wf (Map.del m n) = true :=
  Map.wfFrom_filter m _ h

/-- A write that removes entries equal to the default keeps the canonical form. -/
theorem Map.wf_putD [DecidableEq α] (m : Map α) (n : Nat) (w d : α) (h : Map.wf m = true) :
    Map.wf (Map.putD m n w d) = true := by
  by_cases h' : w = d <;> simp [Map.putD, h', Map.wf_put, Map.wf_del, h]

end Sys2Proof.Machine
end

