-- ==== Sys2Proof/Laws/State.lean ====
section
/-!
SUPPORT. One lemma per field per named update of State, each true by unfolding the update once.
-/
namespace Sys2Proof.Machine

@[simp] theorem State.modHm_pending (s : State) (f : HmState Effect → HmState Effect) : (s.modHm f).pending = s.pending := rfl
@[simp] theorem State.modHm_regs (s : State) (f : HmState Effect → HmState Effect) : (s.modHm f).regs = s.regs := rfl
@[simp] theorem State.modHm_time (s : State) (f : HmState Effect → HmState Effect) : (s.modHm f).time = s.time := rfl
@[simp] theorem State.modHm_plan (s : State) (f : HmState Effect → HmState Effect) : (s.modHm f).plan = s.plan := rfl
@[simp] theorem State.modHm_hm (s : State) (f : HmState Effect → HmState Effect) : (s.modHm f).hm = f s.hm := rfl
@[simp] theorem State.modHm_log (s : State) (f : HmState Effect → HmState Effect) : (s.modHm f).log = s.log := rfl
@[simp] theorem State.modHm_host (s : State) (f : HmState Effect → HmState Effect) : (s.modHm f).host = s.host := rfl
@[simp] theorem State.modHm_ep (s : State) (f : HmState Effect → HmState Effect) : (s.modHm f).ep = s.ep := rfl
@[simp] theorem State.modHm_dma (s : State) (f : HmState Effect → HmState Effect) : (s.modHm f).dma = s.dma := rfl
@[simp] theorem State.modHm_plc (s : State) (f : HmState Effect → HmState Effect) : (s.modHm f).plc = s.plc := rfl
@[simp] theorem State.modHm_radio (s : State) (f : HmState Effect → HmState Effect) : (s.modHm f).radio = s.radio := rfl
@[simp] theorem State.modHm_bond (s : State) (f : HmState Effect → HmState Effect) : (s.modHm f).bond = s.bond := rfl
@[simp] theorem State.modHm_upd (s : State) (f : HmState Effect → HmState Effect) : (s.modHm f).upd = s.upd := rfl
@[simp] theorem State.modHm_customs (s : State) (f : HmState Effect → HmState Effect) : (s.modHm f).customs = s.customs := rfl
@[simp] theorem State.modHm_bal (s : State) (f : HmState Effect → HmState Effect) : (s.modHm f).bal = s.bal := rfl
@[simp] theorem State.modHm_craft (s : State) (f : HmState Effect → HmState Effect) : (s.modHm f).craft = s.craft := rfl
@[simp] theorem State.modHm_store (s : State) (f : HmState Effect → HmState Effect) : (s.modHm f).store = s.store := rfl
@[simp] theorem State.modHm_eth (s : State) (f : HmState Effect → HmState Effect) : (s.modHm f).eth = s.eth := rfl
@[simp] theorem State.modHm_wharf (s : State) (f : HmState Effect → HmState Effect) : (s.modHm f).wharf = s.wharf := rfl
@[simp] theorem State.modHm_pilot (s : State) (f : HmState Effect → HmState Effect) : (s.modHm f).pilot = s.pilot := rfl
@[simp] theorem State.modHm_panel (s : State) (f : HmState Effect → HmState Effect) : (s.modHm f).panel = s.panel := rfl
@[simp] theorem State.modHm_pwr (s : State) (f : HmState Effect → HmState Effect) : (s.modHm f).pwr = s.pwr := rfl
@[simp] theorem State.modHm_heldDown (s : State) (f : HmState Effect → HmState Effect) : (s.modHm f).heldDown = s.heldDown := rfl
@[simp] theorem State.modHm_free (s : State) (f : HmState Effect → HmState Effect) : (s.modHm f).free = s.free := rfl
@[simp] theorem State.modHm_get (s : State) (f : HmState Effect → HmState Effect) (r : Reg) (i j : Nat) : (s.modHm f).get r i j = s.get r i j := rfl
@[simp] theorem State.modHm_fld (s : State) (f : HmState Effect → HmState Effect) (r : Reg) (i j hi lo : Nat) : (s.modHm f).fld r i j hi lo = s.fld r i j hi lo := rfl
@[simp] theorem State.modHm_flag (s : State) (f : HmState Effect → HmState Effect) (r : Reg) (i j n : Nat) : (s.modHm f).flag r i j n = s.flag r i j n := rfl

@[simp] theorem State.modLog_pending (s : State) (f : LogState → LogState) : (s.modLog f).pending = s.pending := rfl
@[simp] theorem State.modLog_regs (s : State) (f : LogState → LogState) : (s.modLog f).regs = s.regs := rfl
@[simp] theorem State.modLog_time (s : State) (f : LogState → LogState) : (s.modLog f).time = s.time := rfl
@[simp] theorem State.modLog_plan (s : State) (f : LogState → LogState) : (s.modLog f).plan = s.plan := rfl
@[simp] theorem State.modLog_hm (s : State) (f : LogState → LogState) : (s.modLog f).hm = s.hm := rfl
@[simp] theorem State.modLog_log (s : State) (f : LogState → LogState) : (s.modLog f).log = f s.log := rfl
@[simp] theorem State.modLog_host (s : State) (f : LogState → LogState) : (s.modLog f).host = s.host := rfl
@[simp] theorem State.modLog_ep (s : State) (f : LogState → LogState) : (s.modLog f).ep = s.ep := rfl
@[simp] theorem State.modLog_dma (s : State) (f : LogState → LogState) : (s.modLog f).dma = s.dma := rfl
@[simp] theorem State.modLog_plc (s : State) (f : LogState → LogState) : (s.modLog f).plc = s.plc := rfl
@[simp] theorem State.modLog_radio (s : State) (f : LogState → LogState) : (s.modLog f).radio = s.radio := rfl
@[simp] theorem State.modLog_bond (s : State) (f : LogState → LogState) : (s.modLog f).bond = s.bond := rfl
@[simp] theorem State.modLog_upd (s : State) (f : LogState → LogState) : (s.modLog f).upd = s.upd := rfl
@[simp] theorem State.modLog_customs (s : State) (f : LogState → LogState) : (s.modLog f).customs = s.customs := rfl
@[simp] theorem State.modLog_bal (s : State) (f : LogState → LogState) : (s.modLog f).bal = s.bal := rfl
@[simp] theorem State.modLog_craft (s : State) (f : LogState → LogState) : (s.modLog f).craft = s.craft := rfl
@[simp] theorem State.modLog_store (s : State) (f : LogState → LogState) : (s.modLog f).store = s.store := rfl
@[simp] theorem State.modLog_eth (s : State) (f : LogState → LogState) : (s.modLog f).eth = s.eth := rfl
@[simp] theorem State.modLog_wharf (s : State) (f : LogState → LogState) : (s.modLog f).wharf = s.wharf := rfl
@[simp] theorem State.modLog_pilot (s : State) (f : LogState → LogState) : (s.modLog f).pilot = s.pilot := rfl
@[simp] theorem State.modLog_panel (s : State) (f : LogState → LogState) : (s.modLog f).panel = s.panel := rfl
@[simp] theorem State.modLog_pwr (s : State) (f : LogState → LogState) : (s.modLog f).pwr = s.pwr := rfl
@[simp] theorem State.modLog_heldDown (s : State) (f : LogState → LogState) : (s.modLog f).heldDown = s.heldDown := rfl
@[simp] theorem State.modLog_free (s : State) (f : LogState → LogState) : (s.modLog f).free = s.free := rfl
@[simp] theorem State.modLog_get (s : State) (f : LogState → LogState) (r : Reg) (i j : Nat) : (s.modLog f).get r i j = s.get r i j := rfl
@[simp] theorem State.modLog_fld (s : State) (f : LogState → LogState) (r : Reg) (i j hi lo : Nat) : (s.modLog f).fld r i j hi lo = s.fld r i j hi lo := rfl
@[simp] theorem State.modLog_flag (s : State) (f : LogState → LogState) (r : Reg) (i j n : Nat) : (s.modLog f).flag r i j n = s.flag r i j n := rfl

@[simp] theorem State.modPlan_pending (s : State) (f : PlanState → PlanState) : (s.modPlan f).pending = s.pending := rfl
@[simp] theorem State.modPlan_regs (s : State) (f : PlanState → PlanState) : (s.modPlan f).regs = s.regs := rfl
@[simp] theorem State.modPlan_time (s : State) (f : PlanState → PlanState) : (s.modPlan f).time = s.time := rfl
@[simp] theorem State.modPlan_plan (s : State) (f : PlanState → PlanState) : (s.modPlan f).plan = f s.plan := rfl
@[simp] theorem State.modPlan_hm (s : State) (f : PlanState → PlanState) : (s.modPlan f).hm = s.hm := rfl
@[simp] theorem State.modPlan_log (s : State) (f : PlanState → PlanState) : (s.modPlan f).log = s.log := rfl
@[simp] theorem State.modPlan_host (s : State) (f : PlanState → PlanState) : (s.modPlan f).host = s.host := rfl
@[simp] theorem State.modPlan_ep (s : State) (f : PlanState → PlanState) : (s.modPlan f).ep = s.ep := rfl
@[simp] theorem State.modPlan_dma (s : State) (f : PlanState → PlanState) : (s.modPlan f).dma = s.dma := rfl
@[simp] theorem State.modPlan_plc (s : State) (f : PlanState → PlanState) : (s.modPlan f).plc = s.plc := rfl
@[simp] theorem State.modPlan_radio (s : State) (f : PlanState → PlanState) : (s.modPlan f).radio = s.radio := rfl
@[simp] theorem State.modPlan_bond (s : State) (f : PlanState → PlanState) : (s.modPlan f).bond = s.bond := rfl
@[simp] theorem State.modPlan_upd (s : State) (f : PlanState → PlanState) : (s.modPlan f).upd = s.upd := rfl
@[simp] theorem State.modPlan_customs (s : State) (f : PlanState → PlanState) : (s.modPlan f).customs = s.customs := rfl
@[simp] theorem State.modPlan_bal (s : State) (f : PlanState → PlanState) : (s.modPlan f).bal = s.bal := rfl
@[simp] theorem State.modPlan_craft (s : State) (f : PlanState → PlanState) : (s.modPlan f).craft = s.craft := rfl
@[simp] theorem State.modPlan_store (s : State) (f : PlanState → PlanState) : (s.modPlan f).store = s.store := rfl
@[simp] theorem State.modPlan_eth (s : State) (f : PlanState → PlanState) : (s.modPlan f).eth = s.eth := rfl
@[simp] theorem State.modPlan_wharf (s : State) (f : PlanState → PlanState) : (s.modPlan f).wharf = s.wharf := rfl
@[simp] theorem State.modPlan_pilot (s : State) (f : PlanState → PlanState) : (s.modPlan f).pilot = s.pilot := rfl
@[simp] theorem State.modPlan_panel (s : State) (f : PlanState → PlanState) : (s.modPlan f).panel = s.panel := rfl
@[simp] theorem State.modPlan_pwr (s : State) (f : PlanState → PlanState) : (s.modPlan f).pwr = s.pwr := rfl
@[simp] theorem State.modPlan_heldDown (s : State) (f : PlanState → PlanState) : (s.modPlan f).heldDown = s.heldDown := rfl
@[simp] theorem State.modPlan_free (s : State) (f : PlanState → PlanState) : (s.modPlan f).free = s.free := rfl
@[simp] theorem State.modPlan_get (s : State) (f : PlanState → PlanState) (r : Reg) (i j : Nat) : (s.modPlan f).get r i j = s.get r i j := rfl
@[simp] theorem State.modPlan_fld (s : State) (f : PlanState → PlanState) (r : Reg) (i j hi lo : Nat) : (s.modPlan f).fld r i j hi lo = s.fld r i j hi lo := rfl
@[simp] theorem State.modPlan_flag (s : State) (f : PlanState → PlanState) (r : Reg) (i j n : Nat) : (s.modPlan f).flag r i j n = s.flag r i j n := rfl

@[simp] theorem State.modHost_pending (s : State) (f : HostState → HostState) : (s.modHost f).pending = s.pending := rfl
@[simp] theorem State.modHost_regs (s : State) (f : HostState → HostState) : (s.modHost f).regs = s.regs := rfl
@[simp] theorem State.modHost_time (s : State) (f : HostState → HostState) : (s.modHost f).time = s.time := rfl
@[simp] theorem State.modHost_plan (s : State) (f : HostState → HostState) : (s.modHost f).plan = s.plan := rfl
@[simp] theorem State.modHost_hm (s : State) (f : HostState → HostState) : (s.modHost f).hm = s.hm := rfl
@[simp] theorem State.modHost_log (s : State) (f : HostState → HostState) : (s.modHost f).log = s.log := rfl
@[simp] theorem State.modHost_host (s : State) (f : HostState → HostState) : (s.modHost f).host = f s.host := rfl
@[simp] theorem State.modHost_ep (s : State) (f : HostState → HostState) : (s.modHost f).ep = s.ep := rfl
@[simp] theorem State.modHost_dma (s : State) (f : HostState → HostState) : (s.modHost f).dma = s.dma := rfl
@[simp] theorem State.modHost_plc (s : State) (f : HostState → HostState) : (s.modHost f).plc = s.plc := rfl
@[simp] theorem State.modHost_radio (s : State) (f : HostState → HostState) : (s.modHost f).radio = s.radio := rfl
@[simp] theorem State.modHost_bond (s : State) (f : HostState → HostState) : (s.modHost f).bond = s.bond := rfl
@[simp] theorem State.modHost_upd (s : State) (f : HostState → HostState) : (s.modHost f).upd = s.upd := rfl
@[simp] theorem State.modHost_customs (s : State) (f : HostState → HostState) : (s.modHost f).customs = s.customs := rfl
@[simp] theorem State.modHost_bal (s : State) (f : HostState → HostState) : (s.modHost f).bal = s.bal := rfl
@[simp] theorem State.modHost_craft (s : State) (f : HostState → HostState) : (s.modHost f).craft = s.craft := rfl
@[simp] theorem State.modHost_store (s : State) (f : HostState → HostState) : (s.modHost f).store = s.store := rfl
@[simp] theorem State.modHost_eth (s : State) (f : HostState → HostState) : (s.modHost f).eth = s.eth := rfl
@[simp] theorem State.modHost_wharf (s : State) (f : HostState → HostState) : (s.modHost f).wharf = s.wharf := rfl
@[simp] theorem State.modHost_pilot (s : State) (f : HostState → HostState) : (s.modHost f).pilot = s.pilot := rfl
@[simp] theorem State.modHost_panel (s : State) (f : HostState → HostState) : (s.modHost f).panel = s.panel := rfl
@[simp] theorem State.modHost_pwr (s : State) (f : HostState → HostState) : (s.modHost f).pwr = s.pwr := rfl
@[simp] theorem State.modHost_heldDown (s : State) (f : HostState → HostState) : (s.modHost f).heldDown = s.heldDown := rfl
@[simp] theorem State.modHost_free (s : State) (f : HostState → HostState) : (s.modHost f).free = s.free := rfl
@[simp] theorem State.modHost_get (s : State) (f : HostState → HostState) (r : Reg) (i j : Nat) : (s.modHost f).get r i j = s.get r i j := rfl
@[simp] theorem State.modHost_fld (s : State) (f : HostState → HostState) (r : Reg) (i j hi lo : Nat) : (s.modHost f).fld r i j hi lo = s.fld r i j hi lo := rfl
@[simp] theorem State.modHost_flag (s : State) (f : HostState → HostState) (r : Reg) (i j n : Nat) : (s.modHost f).flag r i j n = s.flag r i j n := rfl

@[simp] theorem State.modEp_pending (s : State) (f : EpState → EpState) : (s.modEp f).pending = s.pending := rfl
@[simp] theorem State.modEp_regs (s : State) (f : EpState → EpState) : (s.modEp f).regs = s.regs := rfl
@[simp] theorem State.modEp_time (s : State) (f : EpState → EpState) : (s.modEp f).time = s.time := rfl
@[simp] theorem State.modEp_plan (s : State) (f : EpState → EpState) : (s.modEp f).plan = s.plan := rfl
@[simp] theorem State.modEp_hm (s : State) (f : EpState → EpState) : (s.modEp f).hm = s.hm := rfl
@[simp] theorem State.modEp_log (s : State) (f : EpState → EpState) : (s.modEp f).log = s.log := rfl
@[simp] theorem State.modEp_host (s : State) (f : EpState → EpState) : (s.modEp f).host = s.host := rfl
@[simp] theorem State.modEp_ep (s : State) (f : EpState → EpState) : (s.modEp f).ep = f s.ep := rfl
@[simp] theorem State.modEp_dma (s : State) (f : EpState → EpState) : (s.modEp f).dma = s.dma := rfl
@[simp] theorem State.modEp_plc (s : State) (f : EpState → EpState) : (s.modEp f).plc = s.plc := rfl
@[simp] theorem State.modEp_radio (s : State) (f : EpState → EpState) : (s.modEp f).radio = s.radio := rfl
@[simp] theorem State.modEp_bond (s : State) (f : EpState → EpState) : (s.modEp f).bond = s.bond := rfl
@[simp] theorem State.modEp_upd (s : State) (f : EpState → EpState) : (s.modEp f).upd = s.upd := rfl
@[simp] theorem State.modEp_customs (s : State) (f : EpState → EpState) : (s.modEp f).customs = s.customs := rfl
@[simp] theorem State.modEp_bal (s : State) (f : EpState → EpState) : (s.modEp f).bal = s.bal := rfl
@[simp] theorem State.modEp_craft (s : State) (f : EpState → EpState) : (s.modEp f).craft = s.craft := rfl
@[simp] theorem State.modEp_store (s : State) (f : EpState → EpState) : (s.modEp f).store = s.store := rfl
@[simp] theorem State.modEp_eth (s : State) (f : EpState → EpState) : (s.modEp f).eth = s.eth := rfl
@[simp] theorem State.modEp_wharf (s : State) (f : EpState → EpState) : (s.modEp f).wharf = s.wharf := rfl
@[simp] theorem State.modEp_pilot (s : State) (f : EpState → EpState) : (s.modEp f).pilot = s.pilot := rfl
@[simp] theorem State.modEp_panel (s : State) (f : EpState → EpState) : (s.modEp f).panel = s.panel := rfl
@[simp] theorem State.modEp_pwr (s : State) (f : EpState → EpState) : (s.modEp f).pwr = s.pwr := rfl
@[simp] theorem State.modEp_heldDown (s : State) (f : EpState → EpState) : (s.modEp f).heldDown = s.heldDown := rfl
@[simp] theorem State.modEp_free (s : State) (f : EpState → EpState) : (s.modEp f).free = s.free := rfl
@[simp] theorem State.modEp_get (s : State) (f : EpState → EpState) (r : Reg) (i j : Nat) : (s.modEp f).get r i j = s.get r i j := rfl
@[simp] theorem State.modEp_fld (s : State) (f : EpState → EpState) (r : Reg) (i j hi lo : Nat) : (s.modEp f).fld r i j hi lo = s.fld r i j hi lo := rfl
@[simp] theorem State.modEp_flag (s : State) (f : EpState → EpState) (r : Reg) (i j n : Nat) : (s.modEp f).flag r i j n = s.flag r i j n := rfl

@[simp] theorem State.modDma_pending (s : State) (f : DmaState → DmaState) : (s.modDma f).pending = s.pending := rfl
@[simp] theorem State.modDma_regs (s : State) (f : DmaState → DmaState) : (s.modDma f).regs = s.regs := rfl
@[simp] theorem State.modDma_time (s : State) (f : DmaState → DmaState) : (s.modDma f).time = s.time := rfl
@[simp] theorem State.modDma_plan (s : State) (f : DmaState → DmaState) : (s.modDma f).plan = s.plan := rfl
@[simp] theorem State.modDma_hm (s : State) (f : DmaState → DmaState) : (s.modDma f).hm = s.hm := rfl
@[simp] theorem State.modDma_log (s : State) (f : DmaState → DmaState) : (s.modDma f).log = s.log := rfl
@[simp] theorem State.modDma_host (s : State) (f : DmaState → DmaState) : (s.modDma f).host = s.host := rfl
@[simp] theorem State.modDma_ep (s : State) (f : DmaState → DmaState) : (s.modDma f).ep = s.ep := rfl
@[simp] theorem State.modDma_dma (s : State) (f : DmaState → DmaState) : (s.modDma f).dma = f s.dma := rfl
@[simp] theorem State.modDma_plc (s : State) (f : DmaState → DmaState) : (s.modDma f).plc = s.plc := rfl
@[simp] theorem State.modDma_radio (s : State) (f : DmaState → DmaState) : (s.modDma f).radio = s.radio := rfl
@[simp] theorem State.modDma_bond (s : State) (f : DmaState → DmaState) : (s.modDma f).bond = s.bond := rfl
@[simp] theorem State.modDma_upd (s : State) (f : DmaState → DmaState) : (s.modDma f).upd = s.upd := rfl
@[simp] theorem State.modDma_customs (s : State) (f : DmaState → DmaState) : (s.modDma f).customs = s.customs := rfl
@[simp] theorem State.modDma_bal (s : State) (f : DmaState → DmaState) : (s.modDma f).bal = s.bal := rfl
@[simp] theorem State.modDma_craft (s : State) (f : DmaState → DmaState) : (s.modDma f).craft = s.craft := rfl
@[simp] theorem State.modDma_store (s : State) (f : DmaState → DmaState) : (s.modDma f).store = s.store := rfl
@[simp] theorem State.modDma_eth (s : State) (f : DmaState → DmaState) : (s.modDma f).eth = s.eth := rfl
@[simp] theorem State.modDma_wharf (s : State) (f : DmaState → DmaState) : (s.modDma f).wharf = s.wharf := rfl
@[simp] theorem State.modDma_pilot (s : State) (f : DmaState → DmaState) : (s.modDma f).pilot = s.pilot := rfl
@[simp] theorem State.modDma_panel (s : State) (f : DmaState → DmaState) : (s.modDma f).panel = s.panel := rfl
@[simp] theorem State.modDma_pwr (s : State) (f : DmaState → DmaState) : (s.modDma f).pwr = s.pwr := rfl
@[simp] theorem State.modDma_heldDown (s : State) (f : DmaState → DmaState) : (s.modDma f).heldDown = s.heldDown := rfl
@[simp] theorem State.modDma_free (s : State) (f : DmaState → DmaState) : (s.modDma f).free = s.free := rfl
@[simp] theorem State.modDma_get (s : State) (f : DmaState → DmaState) (r : Reg) (i j : Nat) : (s.modDma f).get r i j = s.get r i j := rfl
@[simp] theorem State.modDma_fld (s : State) (f : DmaState → DmaState) (r : Reg) (i j hi lo : Nat) : (s.modDma f).fld r i j hi lo = s.fld r i j hi lo := rfl
@[simp] theorem State.modDma_flag (s : State) (f : DmaState → DmaState) (r : Reg) (i j n : Nat) : (s.modDma f).flag r i j n = s.flag r i j n := rfl

@[simp] theorem State.modPlc_pending (s : State) (n : Nat) (f : PlcSeg → PlcSeg) : (s.modPlc n f).pending = s.pending := rfl
@[simp] theorem State.modPlc_regs (s : State) (n : Nat) (f : PlcSeg → PlcSeg) : (s.modPlc n f).regs = s.regs := rfl
@[simp] theorem State.modPlc_time (s : State) (n : Nat) (f : PlcSeg → PlcSeg) : (s.modPlc n f).time = s.time := rfl
@[simp] theorem State.modPlc_plan (s : State) (n : Nat) (f : PlcSeg → PlcSeg) : (s.modPlc n f).plan = s.plan := rfl
@[simp] theorem State.modPlc_hm (s : State) (n : Nat) (f : PlcSeg → PlcSeg) : (s.modPlc n f).hm = s.hm := rfl
@[simp] theorem State.modPlc_log (s : State) (n : Nat) (f : PlcSeg → PlcSeg) : (s.modPlc n f).log = s.log := rfl
@[simp] theorem State.modPlc_host (s : State) (n : Nat) (f : PlcSeg → PlcSeg) : (s.modPlc n f).host = s.host := rfl
@[simp] theorem State.modPlc_ep (s : State) (n : Nat) (f : PlcSeg → PlcSeg) : (s.modPlc n f).ep = s.ep := rfl
@[simp] theorem State.modPlc_dma (s : State) (n : Nat) (f : PlcSeg → PlcSeg) : (s.modPlc n f).dma = s.dma := rfl
@[simp] theorem State.modPlc_plc (s : State) (n : Nat) (f : PlcSeg → PlcSeg) : (s.modPlc n f).plc = updAt s.plc n f := rfl
@[simp] theorem State.modPlc_radio (s : State) (n : Nat) (f : PlcSeg → PlcSeg) : (s.modPlc n f).radio = s.radio := rfl
@[simp] theorem State.modPlc_bond (s : State) (n : Nat) (f : PlcSeg → PlcSeg) : (s.modPlc n f).bond = s.bond := rfl
@[simp] theorem State.modPlc_upd (s : State) (n : Nat) (f : PlcSeg → PlcSeg) : (s.modPlc n f).upd = s.upd := rfl
@[simp] theorem State.modPlc_customs (s : State) (n : Nat) (f : PlcSeg → PlcSeg) : (s.modPlc n f).customs = s.customs := rfl
@[simp] theorem State.modPlc_bal (s : State) (n : Nat) (f : PlcSeg → PlcSeg) : (s.modPlc n f).bal = s.bal := rfl
@[simp] theorem State.modPlc_craft (s : State) (n : Nat) (f : PlcSeg → PlcSeg) : (s.modPlc n f).craft = s.craft := rfl
@[simp] theorem State.modPlc_store (s : State) (n : Nat) (f : PlcSeg → PlcSeg) : (s.modPlc n f).store = s.store := rfl
@[simp] theorem State.modPlc_eth (s : State) (n : Nat) (f : PlcSeg → PlcSeg) : (s.modPlc n f).eth = s.eth := rfl
@[simp] theorem State.modPlc_wharf (s : State) (n : Nat) (f : PlcSeg → PlcSeg) : (s.modPlc n f).wharf = s.wharf := rfl
@[simp] theorem State.modPlc_pilot (s : State) (n : Nat) (f : PlcSeg → PlcSeg) : (s.modPlc n f).pilot = s.pilot := rfl
@[simp] theorem State.modPlc_panel (s : State) (n : Nat) (f : PlcSeg → PlcSeg) : (s.modPlc n f).panel = s.panel := rfl
@[simp] theorem State.modPlc_pwr (s : State) (n : Nat) (f : PlcSeg → PlcSeg) : (s.modPlc n f).pwr = s.pwr := rfl
@[simp] theorem State.modPlc_heldDown (s : State) (n : Nat) (f : PlcSeg → PlcSeg) : (s.modPlc n f).heldDown = s.heldDown := rfl
@[simp] theorem State.modPlc_free (s : State) (n : Nat) (f : PlcSeg → PlcSeg) : (s.modPlc n f).free = s.free := rfl
@[simp] theorem State.modPlc_get (s : State) (n : Nat) (f : PlcSeg → PlcSeg) (r : Reg) (i j : Nat) : (s.modPlc n f).get r i j = s.get r i j := rfl
@[simp] theorem State.modPlc_fld (s : State) (n : Nat) (f : PlcSeg → PlcSeg) (r : Reg) (i j hi lo : Nat) : (s.modPlc n f).fld r i j hi lo = s.fld r i j hi lo := rfl
@[simp] theorem State.modPlc_flag (s : State) (n : Nat) (f : PlcSeg → PlcSeg) (r : Reg) (i j b : Nat) : (s.modPlc n f).flag r i j b = s.flag r i j b := rfl

@[simp] theorem State.modBond_pending (s : State) (f : BondState → BondState) : (s.modBond f).pending = s.pending := rfl
@[simp] theorem State.modBond_regs (s : State) (f : BondState → BondState) : (s.modBond f).regs = s.regs := rfl
@[simp] theorem State.modBond_time (s : State) (f : BondState → BondState) : (s.modBond f).time = s.time := rfl
@[simp] theorem State.modBond_plan (s : State) (f : BondState → BondState) : (s.modBond f).plan = s.plan := rfl
@[simp] theorem State.modBond_hm (s : State) (f : BondState → BondState) : (s.modBond f).hm = s.hm := rfl
@[simp] theorem State.modBond_log (s : State) (f : BondState → BondState) : (s.modBond f).log = s.log := rfl
@[simp] theorem State.modBond_host (s : State) (f : BondState → BondState) : (s.modBond f).host = s.host := rfl
@[simp] theorem State.modBond_ep (s : State) (f : BondState → BondState) : (s.modBond f).ep = s.ep := rfl
@[simp] theorem State.modBond_dma (s : State) (f : BondState → BondState) : (s.modBond f).dma = s.dma := rfl
@[simp] theorem State.modBond_plc (s : State) (f : BondState → BondState) : (s.modBond f).plc = s.plc := rfl
@[simp] theorem State.modBond_radio (s : State) (f : BondState → BondState) : (s.modBond f).radio = s.radio := rfl
@[simp] theorem State.modBond_bond (s : State) (f : BondState → BondState) : (s.modBond f).bond = f s.bond := rfl
@[simp] theorem State.modBond_upd (s : State) (f : BondState → BondState) : (s.modBond f).upd = s.upd := rfl
@[simp] theorem State.modBond_customs (s : State) (f : BondState → BondState) : (s.modBond f).customs = s.customs := rfl
@[simp] theorem State.modBond_bal (s : State) (f : BondState → BondState) : (s.modBond f).bal = s.bal := rfl
@[simp] theorem State.modBond_craft (s : State) (f : BondState → BondState) : (s.modBond f).craft = s.craft := rfl
@[simp] theorem State.modBond_store (s : State) (f : BondState → BondState) : (s.modBond f).store = s.store := rfl
@[simp] theorem State.modBond_eth (s : State) (f : BondState → BondState) : (s.modBond f).eth = s.eth := rfl
@[simp] theorem State.modBond_wharf (s : State) (f : BondState → BondState) : (s.modBond f).wharf = s.wharf := rfl
@[simp] theorem State.modBond_pilot (s : State) (f : BondState → BondState) : (s.modBond f).pilot = s.pilot := rfl
@[simp] theorem State.modBond_panel (s : State) (f : BondState → BondState) : (s.modBond f).panel = s.panel := rfl
@[simp] theorem State.modBond_pwr (s : State) (f : BondState → BondState) : (s.modBond f).pwr = s.pwr := rfl
@[simp] theorem State.modBond_heldDown (s : State) (f : BondState → BondState) : (s.modBond f).heldDown = s.heldDown := rfl
@[simp] theorem State.modBond_free (s : State) (f : BondState → BondState) : (s.modBond f).free = s.free := rfl
@[simp] theorem State.modBond_get (s : State) (f : BondState → BondState) (r : Reg) (i j : Nat) : (s.modBond f).get r i j = s.get r i j := rfl
@[simp] theorem State.modBond_fld (s : State) (f : BondState → BondState) (r : Reg) (i j hi lo : Nat) : (s.modBond f).fld r i j hi lo = s.fld r i j hi lo := rfl
@[simp] theorem State.modBond_flag (s : State) (f : BondState → BondState) (r : Reg) (i j n : Nat) : (s.modBond f).flag r i j n = s.flag r i j n := rfl

@[simp] theorem State.modTime_pending (s : State) (f : TimeState → TimeState) : (s.modTime f).pending = s.pending := rfl
@[simp] theorem State.modTime_regs (s : State) (f : TimeState → TimeState) : (s.modTime f).regs = s.regs := rfl
@[simp] theorem State.modTime_time (s : State) (f : TimeState → TimeState) : (s.modTime f).time = f s.time := rfl
@[simp] theorem State.modTime_plan (s : State) (f : TimeState → TimeState) : (s.modTime f).plan = s.plan := rfl
@[simp] theorem State.modTime_hm (s : State) (f : TimeState → TimeState) : (s.modTime f).hm = s.hm := rfl
@[simp] theorem State.modTime_log (s : State) (f : TimeState → TimeState) : (s.modTime f).log = s.log := rfl
@[simp] theorem State.modTime_host (s : State) (f : TimeState → TimeState) : (s.modTime f).host = s.host := rfl
@[simp] theorem State.modTime_ep (s : State) (f : TimeState → TimeState) : (s.modTime f).ep = s.ep := rfl
@[simp] theorem State.modTime_dma (s : State) (f : TimeState → TimeState) : (s.modTime f).dma = s.dma := rfl
@[simp] theorem State.modTime_plc (s : State) (f : TimeState → TimeState) : (s.modTime f).plc = s.plc := rfl
@[simp] theorem State.modTime_radio (s : State) (f : TimeState → TimeState) : (s.modTime f).radio = s.radio := rfl
@[simp] theorem State.modTime_bond (s : State) (f : TimeState → TimeState) : (s.modTime f).bond = s.bond := rfl
@[simp] theorem State.modTime_upd (s : State) (f : TimeState → TimeState) : (s.modTime f).upd = s.upd := rfl
@[simp] theorem State.modTime_customs (s : State) (f : TimeState → TimeState) : (s.modTime f).customs = s.customs := rfl
@[simp] theorem State.modTime_bal (s : State) (f : TimeState → TimeState) : (s.modTime f).bal = s.bal := rfl
@[simp] theorem State.modTime_craft (s : State) (f : TimeState → TimeState) : (s.modTime f).craft = s.craft := rfl
@[simp] theorem State.modTime_store (s : State) (f : TimeState → TimeState) : (s.modTime f).store = s.store := rfl
@[simp] theorem State.modTime_eth (s : State) (f : TimeState → TimeState) : (s.modTime f).eth = s.eth := rfl
@[simp] theorem State.modTime_wharf (s : State) (f : TimeState → TimeState) : (s.modTime f).wharf = s.wharf := rfl
@[simp] theorem State.modTime_pilot (s : State) (f : TimeState → TimeState) : (s.modTime f).pilot = s.pilot := rfl
@[simp] theorem State.modTime_panel (s : State) (f : TimeState → TimeState) : (s.modTime f).panel = s.panel := rfl
@[simp] theorem State.modTime_pwr (s : State) (f : TimeState → TimeState) : (s.modTime f).pwr = s.pwr := rfl
@[simp] theorem State.modTime_heldDown (s : State) (f : TimeState → TimeState) : (s.modTime f).heldDown = s.heldDown := rfl
@[simp] theorem State.modTime_free (s : State) (f : TimeState → TimeState) : (s.modTime f).free = s.free := rfl
@[simp] theorem State.modTime_get (s : State) (f : TimeState → TimeState) (r : Reg) (i j : Nat) : (s.modTime f).get r i j = s.get r i j := rfl
@[simp] theorem State.modTime_fld (s : State) (f : TimeState → TimeState) (r : Reg) (i j hi lo : Nat) : (s.modTime f).fld r i j hi lo = s.fld r i j hi lo := rfl
@[simp] theorem State.modTime_flag (s : State) (f : TimeState → TimeState) (r : Reg) (i j n : Nat) : (s.modTime f).flag r i j n = s.flag r i j n := rfl

@[simp] theorem State.modCustoms_pending (s : State) (f : CustomsState → CustomsState) : (s.modCustoms f).pending = s.pending := rfl
@[simp] theorem State.modCustoms_regs (s : State) (f : CustomsState → CustomsState) : (s.modCustoms f).regs = s.regs := rfl
@[simp] theorem State.modCustoms_time (s : State) (f : CustomsState → CustomsState) : (s.modCustoms f).time = s.time := rfl
@[simp] theorem State.modCustoms_plan (s : State) (f : CustomsState → CustomsState) : (s.modCustoms f).plan = s.plan := rfl
@[simp] theorem State.modCustoms_hm (s : State) (f : CustomsState → CustomsState) : (s.modCustoms f).hm = s.hm := rfl
@[simp] theorem State.modCustoms_log (s : State) (f : CustomsState → CustomsState) : (s.modCustoms f).log = s.log := rfl
@[simp] theorem State.modCustoms_host (s : State) (f : CustomsState → CustomsState) : (s.modCustoms f).host = s.host := rfl
@[simp] theorem State.modCustoms_ep (s : State) (f : CustomsState → CustomsState) : (s.modCustoms f).ep = s.ep := rfl
@[simp] theorem State.modCustoms_dma (s : State) (f : CustomsState → CustomsState) : (s.modCustoms f).dma = s.dma := rfl
@[simp] theorem State.modCustoms_plc (s : State) (f : CustomsState → CustomsState) : (s.modCustoms f).plc = s.plc := rfl
@[simp] theorem State.modCustoms_radio (s : State) (f : CustomsState → CustomsState) : (s.modCustoms f).radio = s.radio := rfl
@[simp] theorem State.modCustoms_bond (s : State) (f : CustomsState → CustomsState) : (s.modCustoms f).bond = s.bond := rfl
@[simp] theorem State.modCustoms_upd (s : State) (f : CustomsState → CustomsState) : (s.modCustoms f).upd = s.upd := rfl
@[simp] theorem State.modCustoms_customs (s : State) (f : CustomsState → CustomsState) : (s.modCustoms f).customs = f s.customs := rfl
@[simp] theorem State.modCustoms_bal (s : State) (f : CustomsState → CustomsState) : (s.modCustoms f).bal = s.bal := rfl
@[simp] theorem State.modCustoms_craft (s : State) (f : CustomsState → CustomsState) : (s.modCustoms f).craft = s.craft := rfl
@[simp] theorem State.modCustoms_store (s : State) (f : CustomsState → CustomsState) : (s.modCustoms f).store = s.store := rfl
@[simp] theorem State.modCustoms_eth (s : State) (f : CustomsState → CustomsState) : (s.modCustoms f).eth = s.eth := rfl
@[simp] theorem State.modCustoms_wharf (s : State) (f : CustomsState → CustomsState) : (s.modCustoms f).wharf = s.wharf := rfl
@[simp] theorem State.modCustoms_pilot (s : State) (f : CustomsState → CustomsState) : (s.modCustoms f).pilot = s.pilot := rfl
@[simp] theorem State.modCustoms_panel (s : State) (f : CustomsState → CustomsState) : (s.modCustoms f).panel = s.panel := rfl
@[simp] theorem State.modCustoms_pwr (s : State) (f : CustomsState → CustomsState) : (s.modCustoms f).pwr = s.pwr := rfl
@[simp] theorem State.modCustoms_heldDown (s : State) (f : CustomsState → CustomsState) : (s.modCustoms f).heldDown = s.heldDown := rfl
@[simp] theorem State.modCustoms_free (s : State) (f : CustomsState → CustomsState) : (s.modCustoms f).free = s.free := rfl
@[simp] theorem State.modCustoms_get (s : State) (f : CustomsState → CustomsState) (r : Reg) (i j : Nat) : (s.modCustoms f).get r i j = s.get r i j := rfl
@[simp] theorem State.modCustoms_fld (s : State) (f : CustomsState → CustomsState) (r : Reg) (i j hi lo : Nat) : (s.modCustoms f).fld r i j hi lo = s.fld r i j hi lo := rfl
@[simp] theorem State.modCustoms_flag (s : State) (f : CustomsState → CustomsState) (r : Reg) (i j n : Nat) : (s.modCustoms f).flag r i j n = s.flag r i j n := rfl

@[simp] theorem State.modBal_pending (s : State) (f : BalState → BalState) : (s.modBal f).pending = s.pending := rfl
@[simp] theorem State.modBal_regs (s : State) (f : BalState → BalState) : (s.modBal f).regs = s.regs := rfl
@[simp] theorem State.modBal_time (s : State) (f : BalState → BalState) : (s.modBal f).time = s.time := rfl
@[simp] theorem State.modBal_plan (s : State) (f : BalState → BalState) : (s.modBal f).plan = s.plan := rfl
@[simp] theorem State.modBal_hm (s : State) (f : BalState → BalState) : (s.modBal f).hm = s.hm := rfl
@[simp] theorem State.modBal_log (s : State) (f : BalState → BalState) : (s.modBal f).log = s.log := rfl
@[simp] theorem State.modBal_host (s : State) (f : BalState → BalState) : (s.modBal f).host = s.host := rfl
@[simp] theorem State.modBal_ep (s : State) (f : BalState → BalState) : (s.modBal f).ep = s.ep := rfl
@[simp] theorem State.modBal_dma (s : State) (f : BalState → BalState) : (s.modBal f).dma = s.dma := rfl
@[simp] theorem State.modBal_plc (s : State) (f : BalState → BalState) : (s.modBal f).plc = s.plc := rfl
@[simp] theorem State.modBal_radio (s : State) (f : BalState → BalState) : (s.modBal f).radio = s.radio := rfl
@[simp] theorem State.modBal_bond (s : State) (f : BalState → BalState) : (s.modBal f).bond = s.bond := rfl
@[simp] theorem State.modBal_upd (s : State) (f : BalState → BalState) : (s.modBal f).upd = s.upd := rfl
@[simp] theorem State.modBal_customs (s : State) (f : BalState → BalState) : (s.modBal f).customs = s.customs := rfl
@[simp] theorem State.modBal_bal (s : State) (f : BalState → BalState) : (s.modBal f).bal = f s.bal := rfl
@[simp] theorem State.modBal_craft (s : State) (f : BalState → BalState) : (s.modBal f).craft = s.craft := rfl
@[simp] theorem State.modBal_store (s : State) (f : BalState → BalState) : (s.modBal f).store = s.store := rfl
@[simp] theorem State.modBal_eth (s : State) (f : BalState → BalState) : (s.modBal f).eth = s.eth := rfl
@[simp] theorem State.modBal_wharf (s : State) (f : BalState → BalState) : (s.modBal f).wharf = s.wharf := rfl
@[simp] theorem State.modBal_pilot (s : State) (f : BalState → BalState) : (s.modBal f).pilot = s.pilot := rfl
@[simp] theorem State.modBal_panel (s : State) (f : BalState → BalState) : (s.modBal f).panel = s.panel := rfl
@[simp] theorem State.modBal_pwr (s : State) (f : BalState → BalState) : (s.modBal f).pwr = s.pwr := rfl
@[simp] theorem State.modBal_heldDown (s : State) (f : BalState → BalState) : (s.modBal f).heldDown = s.heldDown := rfl
@[simp] theorem State.modBal_free (s : State) (f : BalState → BalState) : (s.modBal f).free = s.free := rfl
@[simp] theorem State.modBal_get (s : State) (f : BalState → BalState) (r : Reg) (i j : Nat) : (s.modBal f).get r i j = s.get r i j := rfl
@[simp] theorem State.modBal_fld (s : State) (f : BalState → BalState) (r : Reg) (i j hi lo : Nat) : (s.modBal f).fld r i j hi lo = s.fld r i j hi lo := rfl
@[simp] theorem State.modBal_flag (s : State) (f : BalState → BalState) (r : Reg) (i j n : Nat) : (s.modBal f).flag r i j n = s.flag r i j n := rfl

@[simp] theorem State.modCraft_pending (s : State) (f : CraftState → CraftState) : (s.modCraft f).pending = s.pending := rfl
@[simp] theorem State.modCraft_regs (s : State) (f : CraftState → CraftState) : (s.modCraft f).regs = s.regs := rfl
@[simp] theorem State.modCraft_time (s : State) (f : CraftState → CraftState) : (s.modCraft f).time = s.time := rfl
@[simp] theorem State.modCraft_plan (s : State) (f : CraftState → CraftState) : (s.modCraft f).plan = s.plan := rfl
@[simp] theorem State.modCraft_hm (s : State) (f : CraftState → CraftState) : (s.modCraft f).hm = s.hm := rfl
@[simp] theorem State.modCraft_log (s : State) (f : CraftState → CraftState) : (s.modCraft f).log = s.log := rfl
@[simp] theorem State.modCraft_host (s : State) (f : CraftState → CraftState) : (s.modCraft f).host = s.host := rfl
@[simp] theorem State.modCraft_ep (s : State) (f : CraftState → CraftState) : (s.modCraft f).ep = s.ep := rfl
@[simp] theorem State.modCraft_dma (s : State) (f : CraftState → CraftState) : (s.modCraft f).dma = s.dma := rfl
@[simp] theorem State.modCraft_plc (s : State) (f : CraftState → CraftState) : (s.modCraft f).plc = s.plc := rfl
@[simp] theorem State.modCraft_radio (s : State) (f : CraftState → CraftState) : (s.modCraft f).radio = s.radio := rfl
@[simp] theorem State.modCraft_bond (s : State) (f : CraftState → CraftState) : (s.modCraft f).bond = s.bond := rfl
@[simp] theorem State.modCraft_upd (s : State) (f : CraftState → CraftState) : (s.modCraft f).upd = s.upd := rfl
@[simp] theorem State.modCraft_customs (s : State) (f : CraftState → CraftState) : (s.modCraft f).customs = s.customs := rfl
@[simp] theorem State.modCraft_bal (s : State) (f : CraftState → CraftState) : (s.modCraft f).bal = s.bal := rfl
@[simp] theorem State.modCraft_craft (s : State) (f : CraftState → CraftState) : (s.modCraft f).craft = f s.craft := rfl
@[simp] theorem State.modCraft_store (s : State) (f : CraftState → CraftState) : (s.modCraft f).store = s.store := rfl
@[simp] theorem State.modCraft_eth (s : State) (f : CraftState → CraftState) : (s.modCraft f).eth = s.eth := rfl
@[simp] theorem State.modCraft_wharf (s : State) (f : CraftState → CraftState) : (s.modCraft f).wharf = s.wharf := rfl
@[simp] theorem State.modCraft_pilot (s : State) (f : CraftState → CraftState) : (s.modCraft f).pilot = s.pilot := rfl
@[simp] theorem State.modCraft_panel (s : State) (f : CraftState → CraftState) : (s.modCraft f).panel = s.panel := rfl
@[simp] theorem State.modCraft_pwr (s : State) (f : CraftState → CraftState) : (s.modCraft f).pwr = s.pwr := rfl
@[simp] theorem State.modCraft_heldDown (s : State) (f : CraftState → CraftState) : (s.modCraft f).heldDown = s.heldDown := rfl
@[simp] theorem State.modCraft_free (s : State) (f : CraftState → CraftState) : (s.modCraft f).free = s.free := rfl
@[simp] theorem State.modCraft_get (s : State) (f : CraftState → CraftState) (r : Reg) (i j : Nat) : (s.modCraft f).get r i j = s.get r i j := rfl
@[simp] theorem State.modCraft_fld (s : State) (f : CraftState → CraftState) (r : Reg) (i j hi lo : Nat) : (s.modCraft f).fld r i j hi lo = s.fld r i j hi lo := rfl
@[simp] theorem State.modCraft_flag (s : State) (f : CraftState → CraftState) (r : Reg) (i j n : Nat) : (s.modCraft f).flag r i j n = s.flag r i j n := rfl

@[simp] theorem State.modStore_pending (s : State) (f : StoreState → StoreState) : (s.modStore f).pending = s.pending := rfl
@[simp] theorem State.modStore_regs (s : State) (f : StoreState → StoreState) : (s.modStore f).regs = s.regs := rfl
@[simp] theorem State.modStore_time (s : State) (f : StoreState → StoreState) : (s.modStore f).time = s.time := rfl
@[simp] theorem State.modStore_plan (s : State) (f : StoreState → StoreState) : (s.modStore f).plan = s.plan := rfl
@[simp] theorem State.modStore_hm (s : State) (f : StoreState → StoreState) : (s.modStore f).hm = s.hm := rfl
@[simp] theorem State.modStore_log (s : State) (f : StoreState → StoreState) : (s.modStore f).log = s.log := rfl
@[simp] theorem State.modStore_host (s : State) (f : StoreState → StoreState) : (s.modStore f).host = s.host := rfl
@[simp] theorem State.modStore_ep (s : State) (f : StoreState → StoreState) : (s.modStore f).ep = s.ep := rfl
@[simp] theorem State.modStore_dma (s : State) (f : StoreState → StoreState) : (s.modStore f).dma = s.dma := rfl
@[simp] theorem State.modStore_plc (s : State) (f : StoreState → StoreState) : (s.modStore f).plc = s.plc := rfl
@[simp] theorem State.modStore_radio (s : State) (f : StoreState → StoreState) : (s.modStore f).radio = s.radio := rfl
@[simp] theorem State.modStore_bond (s : State) (f : StoreState → StoreState) : (s.modStore f).bond = s.bond := rfl
@[simp] theorem State.modStore_upd (s : State) (f : StoreState → StoreState) : (s.modStore f).upd = s.upd := rfl
@[simp] theorem State.modStore_customs (s : State) (f : StoreState → StoreState) : (s.modStore f).customs = s.customs := rfl
@[simp] theorem State.modStore_bal (s : State) (f : StoreState → StoreState) : (s.modStore f).bal = s.bal := rfl
@[simp] theorem State.modStore_craft (s : State) (f : StoreState → StoreState) : (s.modStore f).craft = s.craft := rfl
@[simp] theorem State.modStore_store (s : State) (f : StoreState → StoreState) : (s.modStore f).store = f s.store := rfl
@[simp] theorem State.modStore_eth (s : State) (f : StoreState → StoreState) : (s.modStore f).eth = s.eth := rfl
@[simp] theorem State.modStore_wharf (s : State) (f : StoreState → StoreState) : (s.modStore f).wharf = s.wharf := rfl
@[simp] theorem State.modStore_pilot (s : State) (f : StoreState → StoreState) : (s.modStore f).pilot = s.pilot := rfl
@[simp] theorem State.modStore_panel (s : State) (f : StoreState → StoreState) : (s.modStore f).panel = s.panel := rfl
@[simp] theorem State.modStore_pwr (s : State) (f : StoreState → StoreState) : (s.modStore f).pwr = s.pwr := rfl
@[simp] theorem State.modStore_heldDown (s : State) (f : StoreState → StoreState) : (s.modStore f).heldDown = s.heldDown := rfl
@[simp] theorem State.modStore_free (s : State) (f : StoreState → StoreState) : (s.modStore f).free = s.free := rfl
@[simp] theorem State.modStore_get (s : State) (f : StoreState → StoreState) (r : Reg) (i j : Nat) : (s.modStore f).get r i j = s.get r i j := rfl
@[simp] theorem State.modStore_fld (s : State) (f : StoreState → StoreState) (r : Reg) (i j hi lo : Nat) : (s.modStore f).fld r i j hi lo = s.fld r i j hi lo := rfl
@[simp] theorem State.modStore_flag (s : State) (f : StoreState → StoreState) (r : Reg) (i j n : Nat) : (s.modStore f).flag r i j n = s.flag r i j n := rfl

@[simp] theorem State.modEth_pending (s : State) (f : EthState → EthState) : (s.modEth f).pending = s.pending := rfl
@[simp] theorem State.modEth_regs (s : State) (f : EthState → EthState) : (s.modEth f).regs = s.regs := rfl
@[simp] theorem State.modEth_time (s : State) (f : EthState → EthState) : (s.modEth f).time = s.time := rfl
@[simp] theorem State.modEth_plan (s : State) (f : EthState → EthState) : (s.modEth f).plan = s.plan := rfl
@[simp] theorem State.modEth_hm (s : State) (f : EthState → EthState) : (s.modEth f).hm = s.hm := rfl
@[simp] theorem State.modEth_log (s : State) (f : EthState → EthState) : (s.modEth f).log = s.log := rfl
@[simp] theorem State.modEth_host (s : State) (f : EthState → EthState) : (s.modEth f).host = s.host := rfl
@[simp] theorem State.modEth_ep (s : State) (f : EthState → EthState) : (s.modEth f).ep = s.ep := rfl
@[simp] theorem State.modEth_dma (s : State) (f : EthState → EthState) : (s.modEth f).dma = s.dma := rfl
@[simp] theorem State.modEth_plc (s : State) (f : EthState → EthState) : (s.modEth f).plc = s.plc := rfl
@[simp] theorem State.modEth_radio (s : State) (f : EthState → EthState) : (s.modEth f).radio = s.radio := rfl
@[simp] theorem State.modEth_bond (s : State) (f : EthState → EthState) : (s.modEth f).bond = s.bond := rfl
@[simp] theorem State.modEth_upd (s : State) (f : EthState → EthState) : (s.modEth f).upd = s.upd := rfl
@[simp] theorem State.modEth_customs (s : State) (f : EthState → EthState) : (s.modEth f).customs = s.customs := rfl
@[simp] theorem State.modEth_bal (s : State) (f : EthState → EthState) : (s.modEth f).bal = s.bal := rfl
@[simp] theorem State.modEth_craft (s : State) (f : EthState → EthState) : (s.modEth f).craft = s.craft := rfl
@[simp] theorem State.modEth_store (s : State) (f : EthState → EthState) : (s.modEth f).store = s.store := rfl
@[simp] theorem State.modEth_eth (s : State) (f : EthState → EthState) : (s.modEth f).eth = f s.eth := rfl
@[simp] theorem State.modEth_wharf (s : State) (f : EthState → EthState) : (s.modEth f).wharf = s.wharf := rfl
@[simp] theorem State.modEth_pilot (s : State) (f : EthState → EthState) : (s.modEth f).pilot = s.pilot := rfl
@[simp] theorem State.modEth_panel (s : State) (f : EthState → EthState) : (s.modEth f).panel = s.panel := rfl
@[simp] theorem State.modEth_pwr (s : State) (f : EthState → EthState) : (s.modEth f).pwr = s.pwr := rfl
@[simp] theorem State.modEth_heldDown (s : State) (f : EthState → EthState) : (s.modEth f).heldDown = s.heldDown := rfl
@[simp] theorem State.modEth_free (s : State) (f : EthState → EthState) : (s.modEth f).free = s.free := rfl
@[simp] theorem State.modEth_get (s : State) (f : EthState → EthState) (r : Reg) (i j : Nat) : (s.modEth f).get r i j = s.get r i j := rfl
@[simp] theorem State.modEth_fld (s : State) (f : EthState → EthState) (r : Reg) (i j hi lo : Nat) : (s.modEth f).fld r i j hi lo = s.fld r i j hi lo := rfl
@[simp] theorem State.modEth_flag (s : State) (f : EthState → EthState) (r : Reg) (i j n : Nat) : (s.modEth f).flag r i j n = s.flag r i j n := rfl

@[simp] theorem State.modWharf_pending (s : State) (f : WharfState → WharfState) : (s.modWharf f).pending = s.pending := rfl
@[simp] theorem State.modWharf_regs (s : State) (f : WharfState → WharfState) : (s.modWharf f).regs = s.regs := rfl
@[simp] theorem State.modWharf_time (s : State) (f : WharfState → WharfState) : (s.modWharf f).time = s.time := rfl
@[simp] theorem State.modWharf_plan (s : State) (f : WharfState → WharfState) : (s.modWharf f).plan = s.plan := rfl
@[simp] theorem State.modWharf_hm (s : State) (f : WharfState → WharfState) : (s.modWharf f).hm = s.hm := rfl
@[simp] theorem State.modWharf_log (s : State) (f : WharfState → WharfState) : (s.modWharf f).log = s.log := rfl
@[simp] theorem State.modWharf_host (s : State) (f : WharfState → WharfState) : (s.modWharf f).host = s.host := rfl
@[simp] theorem State.modWharf_ep (s : State) (f : WharfState → WharfState) : (s.modWharf f).ep = s.ep := rfl
@[simp] theorem State.modWharf_dma (s : State) (f : WharfState → WharfState) : (s.modWharf f).dma = s.dma := rfl
@[simp] theorem State.modWharf_plc (s : State) (f : WharfState → WharfState) : (s.modWharf f).plc = s.plc := rfl
@[simp] theorem State.modWharf_radio (s : State) (f : WharfState → WharfState) : (s.modWharf f).radio = s.radio := rfl
@[simp] theorem State.modWharf_bond (s : State) (f : WharfState → WharfState) : (s.modWharf f).bond = s.bond := rfl
@[simp] theorem State.modWharf_upd (s : State) (f : WharfState → WharfState) : (s.modWharf f).upd = s.upd := rfl
@[simp] theorem State.modWharf_customs (s : State) (f : WharfState → WharfState) : (s.modWharf f).customs = s.customs := rfl
@[simp] theorem State.modWharf_bal (s : State) (f : WharfState → WharfState) : (s.modWharf f).bal = s.bal := rfl
@[simp] theorem State.modWharf_craft (s : State) (f : WharfState → WharfState) : (s.modWharf f).craft = s.craft := rfl
@[simp] theorem State.modWharf_store (s : State) (f : WharfState → WharfState) : (s.modWharf f).store = s.store := rfl
@[simp] theorem State.modWharf_eth (s : State) (f : WharfState → WharfState) : (s.modWharf f).eth = s.eth := rfl
@[simp] theorem State.modWharf_wharf (s : State) (f : WharfState → WharfState) : (s.modWharf f).wharf = f s.wharf := rfl
@[simp] theorem State.modWharf_pilot (s : State) (f : WharfState → WharfState) : (s.modWharf f).pilot = s.pilot := rfl
@[simp] theorem State.modWharf_panel (s : State) (f : WharfState → WharfState) : (s.modWharf f).panel = s.panel := rfl
@[simp] theorem State.modWharf_pwr (s : State) (f : WharfState → WharfState) : (s.modWharf f).pwr = s.pwr := rfl
@[simp] theorem State.modWharf_heldDown (s : State) (f : WharfState → WharfState) : (s.modWharf f).heldDown = s.heldDown := rfl
@[simp] theorem State.modWharf_free (s : State) (f : WharfState → WharfState) : (s.modWharf f).free = s.free := rfl
@[simp] theorem State.modWharf_get (s : State) (f : WharfState → WharfState) (r : Reg) (i j : Nat) : (s.modWharf f).get r i j = s.get r i j := rfl
@[simp] theorem State.modWharf_fld (s : State) (f : WharfState → WharfState) (r : Reg) (i j hi lo : Nat) : (s.modWharf f).fld r i j hi lo = s.fld r i j hi lo := rfl
@[simp] theorem State.modWharf_flag (s : State) (f : WharfState → WharfState) (r : Reg) (i j n : Nat) : (s.modWharf f).flag r i j n = s.flag r i j n := rfl

@[simp] theorem State.modPilot_pending (s : State) (f : PilotState → PilotState) : (s.modPilot f).pending = s.pending := rfl
@[simp] theorem State.modPilot_regs (s : State) (f : PilotState → PilotState) : (s.modPilot f).regs = s.regs := rfl
@[simp] theorem State.modPilot_time (s : State) (f : PilotState → PilotState) : (s.modPilot f).time = s.time := rfl
@[simp] theorem State.modPilot_plan (s : State) (f : PilotState → PilotState) : (s.modPilot f).plan = s.plan := rfl
@[simp] theorem State.modPilot_hm (s : State) (f : PilotState → PilotState) : (s.modPilot f).hm = s.hm := rfl
@[simp] theorem State.modPilot_log (s : State) (f : PilotState → PilotState) : (s.modPilot f).log = s.log := rfl
@[simp] theorem State.modPilot_host (s : State) (f : PilotState → PilotState) : (s.modPilot f).host = s.host := rfl
@[simp] theorem State.modPilot_ep (s : State) (f : PilotState → PilotState) : (s.modPilot f).ep = s.ep := rfl
@[simp] theorem State.modPilot_dma (s : State) (f : PilotState → PilotState) : (s.modPilot f).dma = s.dma := rfl
@[simp] theorem State.modPilot_plc (s : State) (f : PilotState → PilotState) : (s.modPilot f).plc = s.plc := rfl
@[simp] theorem State.modPilot_radio (s : State) (f : PilotState → PilotState) : (s.modPilot f).radio = s.radio := rfl
@[simp] theorem State.modPilot_bond (s : State) (f : PilotState → PilotState) : (s.modPilot f).bond = s.bond := rfl
@[simp] theorem State.modPilot_upd (s : State) (f : PilotState → PilotState) : (s.modPilot f).upd = s.upd := rfl
@[simp] theorem State.modPilot_customs (s : State) (f : PilotState → PilotState) : (s.modPilot f).customs = s.customs := rfl
@[simp] theorem State.modPilot_bal (s : State) (f : PilotState → PilotState) : (s.modPilot f).bal = s.bal := rfl
@[simp] theorem State.modPilot_craft (s : State) (f : PilotState → PilotState) : (s.modPilot f).craft = s.craft := rfl
@[simp] theorem State.modPilot_store (s : State) (f : PilotState → PilotState) : (s.modPilot f).store = s.store := rfl
@[simp] theorem State.modPilot_eth (s : State) (f : PilotState → PilotState) : (s.modPilot f).eth = s.eth := rfl
@[simp] theorem State.modPilot_wharf (s : State) (f : PilotState → PilotState) : (s.modPilot f).wharf = s.wharf := rfl
@[simp] theorem State.modPilot_pilot (s : State) (f : PilotState → PilotState) : (s.modPilot f).pilot = f s.pilot := rfl
@[simp] theorem State.modPilot_panel (s : State) (f : PilotState → PilotState) : (s.modPilot f).panel = s.panel := rfl
@[simp] theorem State.modPilot_pwr (s : State) (f : PilotState → PilotState) : (s.modPilot f).pwr = s.pwr := rfl
@[simp] theorem State.modPilot_heldDown (s : State) (f : PilotState → PilotState) : (s.modPilot f).heldDown = s.heldDown := rfl
@[simp] theorem State.modPilot_free (s : State) (f : PilotState → PilotState) : (s.modPilot f).free = s.free := rfl
@[simp] theorem State.modPilot_get (s : State) (f : PilotState → PilotState) (r : Reg) (i j : Nat) : (s.modPilot f).get r i j = s.get r i j := rfl
@[simp] theorem State.modPilot_fld (s : State) (f : PilotState → PilotState) (r : Reg) (i j hi lo : Nat) : (s.modPilot f).fld r i j hi lo = s.fld r i j hi lo := rfl
@[simp] theorem State.modPilot_flag (s : State) (f : PilotState → PilotState) (r : Reg) (i j n : Nat) : (s.modPilot f).flag r i j n = s.flag r i j n := rfl

@[simp] theorem State.modPanel_pending (s : State) (f : PanelState → PanelState) : (s.modPanel f).pending = s.pending := rfl
@[simp] theorem State.modPanel_regs (s : State) (f : PanelState → PanelState) : (s.modPanel f).regs = s.regs := rfl
@[simp] theorem State.modPanel_time (s : State) (f : PanelState → PanelState) : (s.modPanel f).time = s.time := rfl
@[simp] theorem State.modPanel_plan (s : State) (f : PanelState → PanelState) : (s.modPanel f).plan = s.plan := rfl
@[simp] theorem State.modPanel_hm (s : State) (f : PanelState → PanelState) : (s.modPanel f).hm = s.hm := rfl
@[simp] theorem State.modPanel_log (s : State) (f : PanelState → PanelState) : (s.modPanel f).log = s.log := rfl
@[simp] theorem State.modPanel_host (s : State) (f : PanelState → PanelState) : (s.modPanel f).host = s.host := rfl
@[simp] theorem State.modPanel_ep (s : State) (f : PanelState → PanelState) : (s.modPanel f).ep = s.ep := rfl
@[simp] theorem State.modPanel_dma (s : State) (f : PanelState → PanelState) : (s.modPanel f).dma = s.dma := rfl
@[simp] theorem State.modPanel_plc (s : State) (f : PanelState → PanelState) : (s.modPanel f).plc = s.plc := rfl
@[simp] theorem State.modPanel_radio (s : State) (f : PanelState → PanelState) : (s.modPanel f).radio = s.radio := rfl
@[simp] theorem State.modPanel_bond (s : State) (f : PanelState → PanelState) : (s.modPanel f).bond = s.bond := rfl
@[simp] theorem State.modPanel_upd (s : State) (f : PanelState → PanelState) : (s.modPanel f).upd = s.upd := rfl
@[simp] theorem State.modPanel_customs (s : State) (f : PanelState → PanelState) : (s.modPanel f).customs = s.customs := rfl
@[simp] theorem State.modPanel_bal (s : State) (f : PanelState → PanelState) : (s.modPanel f).bal = s.bal := rfl
@[simp] theorem State.modPanel_craft (s : State) (f : PanelState → PanelState) : (s.modPanel f).craft = s.craft := rfl
@[simp] theorem State.modPanel_store (s : State) (f : PanelState → PanelState) : (s.modPanel f).store = s.store := rfl
@[simp] theorem State.modPanel_eth (s : State) (f : PanelState → PanelState) : (s.modPanel f).eth = s.eth := rfl
@[simp] theorem State.modPanel_wharf (s : State) (f : PanelState → PanelState) : (s.modPanel f).wharf = s.wharf := rfl
@[simp] theorem State.modPanel_pilot (s : State) (f : PanelState → PanelState) : (s.modPanel f).pilot = s.pilot := rfl
@[simp] theorem State.modPanel_panel (s : State) (f : PanelState → PanelState) : (s.modPanel f).panel = f s.panel := rfl
@[simp] theorem State.modPanel_pwr (s : State) (f : PanelState → PanelState) : (s.modPanel f).pwr = s.pwr := rfl
@[simp] theorem State.modPanel_heldDown (s : State) (f : PanelState → PanelState) : (s.modPanel f).heldDown = s.heldDown := rfl
@[simp] theorem State.modPanel_free (s : State) (f : PanelState → PanelState) : (s.modPanel f).free = s.free := rfl
@[simp] theorem State.modPanel_get (s : State) (f : PanelState → PanelState) (r : Reg) (i j : Nat) : (s.modPanel f).get r i j = s.get r i j := rfl
@[simp] theorem State.modPanel_fld (s : State) (f : PanelState → PanelState) (r : Reg) (i j hi lo : Nat) : (s.modPanel f).fld r i j hi lo = s.fld r i j hi lo := rfl
@[simp] theorem State.modPanel_flag (s : State) (f : PanelState → PanelState) (r : Reg) (i j n : Nat) : (s.modPanel f).flag r i j n = s.flag r i j n := rfl

@[simp] theorem State.modPwr_pending (s : State) (f : PowerState → PowerState) : (s.modPwr f).pending = s.pending := rfl
@[simp] theorem State.modPwr_regs (s : State) (f : PowerState → PowerState) : (s.modPwr f).regs = s.regs := rfl
@[simp] theorem State.modPwr_time (s : State) (f : PowerState → PowerState) : (s.modPwr f).time = s.time := rfl
@[simp] theorem State.modPwr_plan (s : State) (f : PowerState → PowerState) : (s.modPwr f).plan = s.plan := rfl
@[simp] theorem State.modPwr_hm (s : State) (f : PowerState → PowerState) : (s.modPwr f).hm = s.hm := rfl
@[simp] theorem State.modPwr_log (s : State) (f : PowerState → PowerState) : (s.modPwr f).log = s.log := rfl
@[simp] theorem State.modPwr_host (s : State) (f : PowerState → PowerState) : (s.modPwr f).host = s.host := rfl
@[simp] theorem State.modPwr_ep (s : State) (f : PowerState → PowerState) : (s.modPwr f).ep = s.ep := rfl
@[simp] theorem State.modPwr_dma (s : State) (f : PowerState → PowerState) : (s.modPwr f).dma = s.dma := rfl
@[simp] theorem State.modPwr_plc (s : State) (f : PowerState → PowerState) : (s.modPwr f).plc = s.plc := rfl
@[simp] theorem State.modPwr_radio (s : State) (f : PowerState → PowerState) : (s.modPwr f).radio = s.radio := rfl
@[simp] theorem State.modPwr_bond (s : State) (f : PowerState → PowerState) : (s.modPwr f).bond = s.bond := rfl
@[simp] theorem State.modPwr_upd (s : State) (f : PowerState → PowerState) : (s.modPwr f).upd = s.upd := rfl
@[simp] theorem State.modPwr_customs (s : State) (f : PowerState → PowerState) : (s.modPwr f).customs = s.customs := rfl
@[simp] theorem State.modPwr_bal (s : State) (f : PowerState → PowerState) : (s.modPwr f).bal = s.bal := rfl
@[simp] theorem State.modPwr_craft (s : State) (f : PowerState → PowerState) : (s.modPwr f).craft = s.craft := rfl
@[simp] theorem State.modPwr_store (s : State) (f : PowerState → PowerState) : (s.modPwr f).store = s.store := rfl
@[simp] theorem State.modPwr_eth (s : State) (f : PowerState → PowerState) : (s.modPwr f).eth = s.eth := rfl
@[simp] theorem State.modPwr_wharf (s : State) (f : PowerState → PowerState) : (s.modPwr f).wharf = s.wharf := rfl
@[simp] theorem State.modPwr_pilot (s : State) (f : PowerState → PowerState) : (s.modPwr f).pilot = s.pilot := rfl
@[simp] theorem State.modPwr_panel (s : State) (f : PowerState → PowerState) : (s.modPwr f).panel = s.panel := rfl
@[simp] theorem State.modPwr_pwr (s : State) (f : PowerState → PowerState) : (s.modPwr f).pwr = f s.pwr := rfl
@[simp] theorem State.modPwr_heldDown (s : State) (f : PowerState → PowerState) : (s.modPwr f).heldDown = s.heldDown := rfl
@[simp] theorem State.modPwr_free (s : State) (f : PowerState → PowerState) : (s.modPwr f).free = s.free := rfl
@[simp] theorem State.modPwr_get (s : State) (f : PowerState → PowerState) (r : Reg) (i j : Nat) : (s.modPwr f).get r i j = s.get r i j := rfl
@[simp] theorem State.modPwr_fld (s : State) (f : PowerState → PowerState) (r : Reg) (i j hi lo : Nat) : (s.modPwr f).fld r i j hi lo = s.fld r i j hi lo := rfl
@[simp] theorem State.modPwr_flag (s : State) (f : PowerState → PowerState) (r : Reg) (i j n : Nat) : (s.modPwr f).flag r i j n = s.flag r i j n := rfl

@[simp] theorem State.modUpd_pending (s : State) (f : UpdState → UpdState) : (s.modUpd f).pending = s.pending := rfl
@[simp] theorem State.modUpd_regs (s : State) (f : UpdState → UpdState) : (s.modUpd f).regs = s.regs := rfl
@[simp] theorem State.modUpd_time (s : State) (f : UpdState → UpdState) : (s.modUpd f).time = s.time := rfl
@[simp] theorem State.modUpd_plan (s : State) (f : UpdState → UpdState) : (s.modUpd f).plan = s.plan := rfl
@[simp] theorem State.modUpd_hm (s : State) (f : UpdState → UpdState) : (s.modUpd f).hm = s.hm := rfl
@[simp] theorem State.modUpd_log (s : State) (f : UpdState → UpdState) : (s.modUpd f).log = s.log := rfl
@[simp] theorem State.modUpd_host (s : State) (f : UpdState → UpdState) : (s.modUpd f).host = s.host := rfl
@[simp] theorem State.modUpd_ep (s : State) (f : UpdState → UpdState) : (s.modUpd f).ep = s.ep := rfl
@[simp] theorem State.modUpd_dma (s : State) (f : UpdState → UpdState) : (s.modUpd f).dma = s.dma := rfl
@[simp] theorem State.modUpd_plc (s : State) (f : UpdState → UpdState) : (s.modUpd f).plc = s.plc := rfl
@[simp] theorem State.modUpd_radio (s : State) (f : UpdState → UpdState) : (s.modUpd f).radio = s.radio := rfl
@[simp] theorem State.modUpd_bond (s : State) (f : UpdState → UpdState) : (s.modUpd f).bond = s.bond := rfl
@[simp] theorem State.modUpd_upd (s : State) (f : UpdState → UpdState) : (s.modUpd f).upd = f s.upd := rfl
@[simp] theorem State.modUpd_customs (s : State) (f : UpdState → UpdState) : (s.modUpd f).customs = s.customs := rfl
@[simp] theorem State.modUpd_bal (s : State) (f : UpdState → UpdState) : (s.modUpd f).bal = s.bal := rfl
@[simp] theorem State.modUpd_craft (s : State) (f : UpdState → UpdState) : (s.modUpd f).craft = s.craft := rfl
@[simp] theorem State.modUpd_store (s : State) (f : UpdState → UpdState) : (s.modUpd f).store = s.store := rfl
@[simp] theorem State.modUpd_eth (s : State) (f : UpdState → UpdState) : (s.modUpd f).eth = s.eth := rfl
@[simp] theorem State.modUpd_wharf (s : State) (f : UpdState → UpdState) : (s.modUpd f).wharf = s.wharf := rfl
@[simp] theorem State.modUpd_pilot (s : State) (f : UpdState → UpdState) : (s.modUpd f).pilot = s.pilot := rfl
@[simp] theorem State.modUpd_panel (s : State) (f : UpdState → UpdState) : (s.modUpd f).panel = s.panel := rfl
@[simp] theorem State.modUpd_pwr (s : State) (f : UpdState → UpdState) : (s.modUpd f).pwr = s.pwr := rfl
@[simp] theorem State.modUpd_heldDown (s : State) (f : UpdState → UpdState) : (s.modUpd f).heldDown = s.heldDown := rfl
@[simp] theorem State.modUpd_free (s : State) (f : UpdState → UpdState) : (s.modUpd f).free = s.free := rfl
@[simp] theorem State.modUpd_get (s : State) (f : UpdState → UpdState) (r : Reg) (i j : Nat) : (s.modUpd f).get r i j = s.get r i j := rfl
@[simp] theorem State.modUpd_fld (s : State) (f : UpdState → UpdState) (r : Reg) (i j hi lo : Nat) : (s.modUpd f).fld r i j hi lo = s.fld r i j hi lo := rfl
@[simp] theorem State.modUpd_flag (s : State) (f : UpdState → UpdState) (r : Reg) (i j n : Nat) : (s.modUpd f).flag r i j n = s.flag r i j n := rfl

@[simp] theorem State.modRadio_pending (s : State) (f : RadioState → RadioState) : (s.modRadio f).pending = s.pending := rfl
@[simp] theorem State.modRadio_regs (s : State) (f : RadioState → RadioState) : (s.modRadio f).regs = s.regs := rfl
@[simp] theorem State.modRadio_time (s : State) (f : RadioState → RadioState) : (s.modRadio f).time = s.time := rfl
@[simp] theorem State.modRadio_plan (s : State) (f : RadioState → RadioState) : (s.modRadio f).plan = s.plan := rfl
@[simp] theorem State.modRadio_hm (s : State) (f : RadioState → RadioState) : (s.modRadio f).hm = s.hm := rfl
@[simp] theorem State.modRadio_log (s : State) (f : RadioState → RadioState) : (s.modRadio f).log = s.log := rfl
@[simp] theorem State.modRadio_host (s : State) (f : RadioState → RadioState) : (s.modRadio f).host = s.host := rfl
@[simp] theorem State.modRadio_ep (s : State) (f : RadioState → RadioState) : (s.modRadio f).ep = s.ep := rfl
@[simp] theorem State.modRadio_dma (s : State) (f : RadioState → RadioState) : (s.modRadio f).dma = s.dma := rfl
@[simp] theorem State.modRadio_plc (s : State) (f : RadioState → RadioState) : (s.modRadio f).plc = s.plc := rfl
@[simp] theorem State.modRadio_radio (s : State) (f : RadioState → RadioState) : (s.modRadio f).radio = f s.radio := rfl
@[simp] theorem State.modRadio_bond (s : State) (f : RadioState → RadioState) : (s.modRadio f).bond = s.bond := rfl
@[simp] theorem State.modRadio_upd (s : State) (f : RadioState → RadioState) : (s.modRadio f).upd = s.upd := rfl
@[simp] theorem State.modRadio_customs (s : State) (f : RadioState → RadioState) : (s.modRadio f).customs = s.customs := rfl
@[simp] theorem State.modRadio_bal (s : State) (f : RadioState → RadioState) : (s.modRadio f).bal = s.bal := rfl
@[simp] theorem State.modRadio_craft (s : State) (f : RadioState → RadioState) : (s.modRadio f).craft = s.craft := rfl
@[simp] theorem State.modRadio_store (s : State) (f : RadioState → RadioState) : (s.modRadio f).store = s.store := rfl
@[simp] theorem State.modRadio_eth (s : State) (f : RadioState → RadioState) : (s.modRadio f).eth = s.eth := rfl
@[simp] theorem State.modRadio_wharf (s : State) (f : RadioState → RadioState) : (s.modRadio f).wharf = s.wharf := rfl
@[simp] theorem State.modRadio_pilot (s : State) (f : RadioState → RadioState) : (s.modRadio f).pilot = s.pilot := rfl
@[simp] theorem State.modRadio_panel (s : State) (f : RadioState → RadioState) : (s.modRadio f).panel = s.panel := rfl
@[simp] theorem State.modRadio_pwr (s : State) (f : RadioState → RadioState) : (s.modRadio f).pwr = s.pwr := rfl
@[simp] theorem State.modRadio_heldDown (s : State) (f : RadioState → RadioState) : (s.modRadio f).heldDown = s.heldDown := rfl
@[simp] theorem State.modRadio_free (s : State) (f : RadioState → RadioState) : (s.modRadio f).free = s.free := rfl
@[simp] theorem State.modRadio_get (s : State) (f : RadioState → RadioState) (r : Reg) (i j : Nat) : (s.modRadio f).get r i j = s.get r i j := rfl
@[simp] theorem State.modRadio_fld (s : State) (f : RadioState → RadioState) (r : Reg) (i j hi lo : Nat) : (s.modRadio f).fld r i j hi lo = s.fld r i j hi lo := rfl
@[simp] theorem State.modRadio_flag (s : State) (f : RadioState → RadioState) (r : Reg) (i j n : Nat) : (s.modRadio f).flag r i j n = s.flag r i j n := rfl

@[simp] theorem State.set_pending (s : State) (r : Reg) (i j v : Nat) : (s.set r i j v).pending = s.pending := rfl
@[simp] theorem State.set_time (s : State) (r : Reg) (i j v : Nat) : (s.set r i j v).time = s.time := rfl
@[simp] theorem State.set_plan (s : State) (r : Reg) (i j v : Nat) : (s.set r i j v).plan = s.plan := rfl
@[simp] theorem State.set_hm (s : State) (r : Reg) (i j v : Nat) : (s.set r i j v).hm = s.hm := rfl
@[simp] theorem State.set_log (s : State) (r : Reg) (i j v : Nat) : (s.set r i j v).log = s.log := rfl
@[simp] theorem State.set_host (s : State) (r : Reg) (i j v : Nat) : (s.set r i j v).host = s.host := rfl
@[simp] theorem State.set_ep (s : State) (r : Reg) (i j v : Nat) : (s.set r i j v).ep = s.ep := rfl
@[simp] theorem State.set_dma (s : State) (r : Reg) (i j v : Nat) : (s.set r i j v).dma = s.dma := rfl
@[simp] theorem State.set_plc (s : State) (r : Reg) (i j v : Nat) : (s.set r i j v).plc = s.plc := rfl
@[simp] theorem State.set_radio (s : State) (r : Reg) (i j v : Nat) : (s.set r i j v).radio = s.radio := rfl
@[simp] theorem State.set_bond (s : State) (r : Reg) (i j v : Nat) : (s.set r i j v).bond = s.bond := rfl
@[simp] theorem State.set_upd (s : State) (r : Reg) (i j v : Nat) : (s.set r i j v).upd = s.upd := rfl
@[simp] theorem State.set_customs (s : State) (r : Reg) (i j v : Nat) : (s.set r i j v).customs = s.customs := rfl
@[simp] theorem State.set_bal (s : State) (r : Reg) (i j v : Nat) : (s.set r i j v).bal = s.bal := rfl
@[simp] theorem State.set_craft (s : State) (r : Reg) (i j v : Nat) : (s.set r i j v).craft = s.craft := rfl
@[simp] theorem State.set_store (s : State) (r : Reg) (i j v : Nat) : (s.set r i j v).store = s.store := rfl
@[simp] theorem State.set_eth (s : State) (r : Reg) (i j v : Nat) : (s.set r i j v).eth = s.eth := rfl
@[simp] theorem State.set_wharf (s : State) (r : Reg) (i j v : Nat) : (s.set r i j v).wharf = s.wharf := rfl
@[simp] theorem State.set_pilot (s : State) (r : Reg) (i j v : Nat) : (s.set r i j v).pilot = s.pilot := rfl
@[simp] theorem State.set_panel (s : State) (r : Reg) (i j v : Nat) : (s.set r i j v).panel = s.panel := rfl
@[simp] theorem State.set_pwr (s : State) (r : Reg) (i j v : Nat) : (s.set r i j v).pwr = s.pwr := rfl
@[simp] theorem State.set_heldDown (s : State) (r : Reg) (i j v : Nat) : (s.set r i j v).heldDown = s.heldDown := rfl
@[simp] theorem State.set_free (s : State) (r : Reg) (i j v : Nat) : (s.set r i j v).free = s.free := rfl

@[simp] theorem State.setFld_pending (s : State) (r : Reg) (i j hi lo v : Nat) : (s.setFld r i j hi lo v).pending = s.pending := rfl
@[simp] theorem State.setFld_time (s : State) (r : Reg) (i j hi lo v : Nat) : (s.setFld r i j hi lo v).time = s.time := rfl
@[simp] theorem State.setFld_plan (s : State) (r : Reg) (i j hi lo v : Nat) : (s.setFld r i j hi lo v).plan = s.plan := rfl
@[simp] theorem State.setFld_hm (s : State) (r : Reg) (i j hi lo v : Nat) : (s.setFld r i j hi lo v).hm = s.hm := rfl
@[simp] theorem State.setFld_log (s : State) (r : Reg) (i j hi lo v : Nat) : (s.setFld r i j hi lo v).log = s.log := rfl
@[simp] theorem State.setFld_host (s : State) (r : Reg) (i j hi lo v : Nat) : (s.setFld r i j hi lo v).host = s.host := rfl
@[simp] theorem State.setFld_ep (s : State) (r : Reg) (i j hi lo v : Nat) : (s.setFld r i j hi lo v).ep = s.ep := rfl
@[simp] theorem State.setFld_dma (s : State) (r : Reg) (i j hi lo v : Nat) : (s.setFld r i j hi lo v).dma = s.dma := rfl
@[simp] theorem State.setFld_plc (s : State) (r : Reg) (i j hi lo v : Nat) : (s.setFld r i j hi lo v).plc = s.plc := rfl
@[simp] theorem State.setFld_radio (s : State) (r : Reg) (i j hi lo v : Nat) : (s.setFld r i j hi lo v).radio = s.radio := rfl
@[simp] theorem State.setFld_bond (s : State) (r : Reg) (i j hi lo v : Nat) : (s.setFld r i j hi lo v).bond = s.bond := rfl
@[simp] theorem State.setFld_upd (s : State) (r : Reg) (i j hi lo v : Nat) : (s.setFld r i j hi lo v).upd = s.upd := rfl
@[simp] theorem State.setFld_customs (s : State) (r : Reg) (i j hi lo v : Nat) : (s.setFld r i j hi lo v).customs = s.customs := rfl
@[simp] theorem State.setFld_bal (s : State) (r : Reg) (i j hi lo v : Nat) : (s.setFld r i j hi lo v).bal = s.bal := rfl
@[simp] theorem State.setFld_craft (s : State) (r : Reg) (i j hi lo v : Nat) : (s.setFld r i j hi lo v).craft = s.craft := rfl
@[simp] theorem State.setFld_store (s : State) (r : Reg) (i j hi lo v : Nat) : (s.setFld r i j hi lo v).store = s.store := rfl
@[simp] theorem State.setFld_eth (s : State) (r : Reg) (i j hi lo v : Nat) : (s.setFld r i j hi lo v).eth = s.eth := rfl
@[simp] theorem State.setFld_wharf (s : State) (r : Reg) (i j hi lo v : Nat) : (s.setFld r i j hi lo v).wharf = s.wharf := rfl
@[simp] theorem State.setFld_pilot (s : State) (r : Reg) (i j hi lo v : Nat) : (s.setFld r i j hi lo v).pilot = s.pilot := rfl
@[simp] theorem State.setFld_panel (s : State) (r : Reg) (i j hi lo v : Nat) : (s.setFld r i j hi lo v).panel = s.panel := rfl
@[simp] theorem State.setFld_pwr (s : State) (r : Reg) (i j hi lo v : Nat) : (s.setFld r i j hi lo v).pwr = s.pwr := rfl
@[simp] theorem State.setFld_heldDown (s : State) (r : Reg) (i j hi lo v : Nat) : (s.setFld r i j hi lo v).heldDown = s.heldDown := rfl
@[simp] theorem State.setFld_free (s : State) (r : Reg) (i j hi lo v : Nat) : (s.setFld r i j hi lo v).free = s.free := rfl

@[simp] theorem State.setFlag_pending (s : State) (r : Reg) (i j n : Nat) (b : Bool) : (s.setFlag r i j n b).pending = s.pending := rfl
@[simp] theorem State.setFlag_time (s : State) (r : Reg) (i j n : Nat) (b : Bool) : (s.setFlag r i j n b).time = s.time := rfl
@[simp] theorem State.setFlag_plan (s : State) (r : Reg) (i j n : Nat) (b : Bool) : (s.setFlag r i j n b).plan = s.plan := rfl
@[simp] theorem State.setFlag_hm (s : State) (r : Reg) (i j n : Nat) (b : Bool) : (s.setFlag r i j n b).hm = s.hm := rfl
@[simp] theorem State.setFlag_log (s : State) (r : Reg) (i j n : Nat) (b : Bool) : (s.setFlag r i j n b).log = s.log := rfl
@[simp] theorem State.setFlag_host (s : State) (r : Reg) (i j n : Nat) (b : Bool) : (s.setFlag r i j n b).host = s.host := rfl
@[simp] theorem State.setFlag_ep (s : State) (r : Reg) (i j n : Nat) (b : Bool) : (s.setFlag r i j n b).ep = s.ep := rfl
@[simp] theorem State.setFlag_dma (s : State) (r : Reg) (i j n : Nat) (b : Bool) : (s.setFlag r i j n b).dma = s.dma := rfl
@[simp] theorem State.setFlag_plc (s : State) (r : Reg) (i j n : Nat) (b : Bool) : (s.setFlag r i j n b).plc = s.plc := rfl
@[simp] theorem State.setFlag_radio (s : State) (r : Reg) (i j n : Nat) (b : Bool) : (s.setFlag r i j n b).radio = s.radio := rfl
@[simp] theorem State.setFlag_bond (s : State) (r : Reg) (i j n : Nat) (b : Bool) : (s.setFlag r i j n b).bond = s.bond := rfl
@[simp] theorem State.setFlag_upd (s : State) (r : Reg) (i j n : Nat) (b : Bool) : (s.setFlag r i j n b).upd = s.upd := rfl
@[simp] theorem State.setFlag_customs (s : State) (r : Reg) (i j n : Nat) (b : Bool) : (s.setFlag r i j n b).customs = s.customs := rfl
@[simp] theorem State.setFlag_bal (s : State) (r : Reg) (i j n : Nat) (b : Bool) : (s.setFlag r i j n b).bal = s.bal := rfl
@[simp] theorem State.setFlag_craft (s : State) (r : Reg) (i j n : Nat) (b : Bool) : (s.setFlag r i j n b).craft = s.craft := rfl
@[simp] theorem State.setFlag_store (s : State) (r : Reg) (i j n : Nat) (b : Bool) : (s.setFlag r i j n b).store = s.store := rfl
@[simp] theorem State.setFlag_eth (s : State) (r : Reg) (i j n : Nat) (b : Bool) : (s.setFlag r i j n b).eth = s.eth := rfl
@[simp] theorem State.setFlag_wharf (s : State) (r : Reg) (i j n : Nat) (b : Bool) : (s.setFlag r i j n b).wharf = s.wharf := rfl
@[simp] theorem State.setFlag_pilot (s : State) (r : Reg) (i j n : Nat) (b : Bool) : (s.setFlag r i j n b).pilot = s.pilot := rfl
@[simp] theorem State.setFlag_panel (s : State) (r : Reg) (i j n : Nat) (b : Bool) : (s.setFlag r i j n b).panel = s.panel := rfl
@[simp] theorem State.setFlag_pwr (s : State) (r : Reg) (i j n : Nat) (b : Bool) : (s.setFlag r i j n b).pwr = s.pwr := rfl
@[simp] theorem State.setFlag_heldDown (s : State) (r : Reg) (i j n : Nat) (b : Bool) : (s.setFlag r i j n b).heldDown = s.heldDown := rfl
@[simp] theorem State.setFlag_free (s : State) (r : Reg) (i j n : Nat) (b : Bool) : (s.setFlag r i j n b).free = s.free := rfl

@[simp] theorem State.count_pending (s : State) (r : Reg) (i j n : Nat) : (s.count r i j n).pending = s.pending := rfl
@[simp] theorem State.count_time (s : State) (r : Reg) (i j n : Nat) : (s.count r i j n).time = s.time := rfl
@[simp] theorem State.count_plan (s : State) (r : Reg) (i j n : Nat) : (s.count r i j n).plan = s.plan := rfl
@[simp] theorem State.count_hm (s : State) (r : Reg) (i j n : Nat) : (s.count r i j n).hm = s.hm := rfl
@[simp] theorem State.count_log (s : State) (r : Reg) (i j n : Nat) : (s.count r i j n).log = s.log := rfl
@[simp] theorem State.count_host (s : State) (r : Reg) (i j n : Nat) : (s.count r i j n).host = s.host := rfl
@[simp] theorem State.count_ep (s : State) (r : Reg) (i j n : Nat) : (s.count r i j n).ep = s.ep := rfl
@[simp] theorem State.count_dma (s : State) (r : Reg) (i j n : Nat) : (s.count r i j n).dma = s.dma := rfl
@[simp] theorem State.count_plc (s : State) (r : Reg) (i j n : Nat) : (s.count r i j n).plc = s.plc := rfl
@[simp] theorem State.count_radio (s : State) (r : Reg) (i j n : Nat) : (s.count r i j n).radio = s.radio := rfl
@[simp] theorem State.count_bond (s : State) (r : Reg) (i j n : Nat) : (s.count r i j n).bond = s.bond := rfl
@[simp] theorem State.count_upd (s : State) (r : Reg) (i j n : Nat) : (s.count r i j n).upd = s.upd := rfl
@[simp] theorem State.count_customs (s : State) (r : Reg) (i j n : Nat) : (s.count r i j n).customs = s.customs := rfl
@[simp] theorem State.count_bal (s : State) (r : Reg) (i j n : Nat) : (s.count r i j n).bal = s.bal := rfl
@[simp] theorem State.count_craft (s : State) (r : Reg) (i j n : Nat) : (s.count r i j n).craft = s.craft := rfl
@[simp] theorem State.count_store (s : State) (r : Reg) (i j n : Nat) : (s.count r i j n).store = s.store := rfl
@[simp] theorem State.count_eth (s : State) (r : Reg) (i j n : Nat) : (s.count r i j n).eth = s.eth := rfl
@[simp] theorem State.count_wharf (s : State) (r : Reg) (i j n : Nat) : (s.count r i j n).wharf = s.wharf := rfl
@[simp] theorem State.count_pilot (s : State) (r : Reg) (i j n : Nat) : (s.count r i j n).pilot = s.pilot := rfl
@[simp] theorem State.count_panel (s : State) (r : Reg) (i j n : Nat) : (s.count r i j n).panel = s.panel := rfl
@[simp] theorem State.count_pwr (s : State) (r : Reg) (i j n : Nat) : (s.count r i j n).pwr = s.pwr := rfl
@[simp] theorem State.count_heldDown (s : State) (r : Reg) (i j n : Nat) : (s.count r i j n).heldDown = s.heldDown := rfl
@[simp] theorem State.count_free (s : State) (r : Reg) (i j n : Nat) : (s.count r i j n).free = s.free := rfl

end Sys2Proof.Machine
end

