-- ==== Sys2Proof/Laws/Registers.lean ====
section
/-!
SUPPORT. Laws of the register file: a read after a write, and writes elsewhere (R11, R14).
-/
namespace Sys2Proof.Machine

/-- A register instance reads back what was written, as 32 bits. -/
@[simp] theorem State.get_set_same (s : State) (r : Reg) (i j v : Nat) : (s.set r i j v).get r i j = v % 2 ^ 32 := by
  have h := Map.get?_putD s.regs (r.addr i j) (BitVec.ofNat 32 v) (BitVec.ofNat 32 (r.resetVal i j))
  simp only [State.get, State.set]
  cases hg : Map.get? (Map.putD s.regs (r.addr i j) (BitVec.ofNat 32 v) (BitVec.ofNat 32 (r.resetVal i j))) (r.addr i j) with
  | none =>
    rw [hg] at h
    have := congrArg BitVec.toNat h
    simpa using this
  | some w =>
    rw [hg] at h
    simp only [Option.getD_some] at h
    simp [h]

/-- A write to a register instance leaves every other one alone. -/
theorem State.get_set_ne (s : State) (r r' : Reg) (i j i' j' v : Nat) (h : r.addr i j ≠ r'.addr i' j') :
    (s.set r i j v).get r' i' j' = s.get r' i' j' := by
  simp [State.get, State.set, Map.get?_putD_ne _ _ _ _ _ h]

/-- A register read is below 2 ^ 32. -/
theorem State.get_lt (s : State) (r : Reg) (i j : Nat) : s.get r i j < 2 ^ 32 := by
  unfold State.get
  split
  · exact BitVec.isLt _
  · exact Nat.mod_lt _ (by decide)

/-- A register write keeps the register file's canonical form. -/
theorem State.set_regs_wf (s : State) (r : Reg) (i j v : Nat) (h : Map.wf s.regs = true) :
    Map.wf (s.set r i j v).regs = true := Map.wf_putD _ _ _ _ h

/-- A stored field reads back what was written to it. -/
theorem State.fld_setFld_same (s : State) (r : Reg) (i j hi lo v : Nat) (h : lo ≤ hi) (hh : hi < 32) :
    (s.setFld r i j hi lo v).fld r i j hi lo = v % 2 ^ (hi + 1 - lo) := by
  simp only [State.fld, State.setFld, State.get_set_same,
    Nat.mod_eq_of_lt (putBits_lt _ _ _ v h hh (s.get_lt r i j)), bits_putBits_same _ _ _ _ h]

/-- A write to a field leaves the fields above it alone. -/
theorem State.fld_setFld_above (s : State) (r : Reg) (i j hi lo v hi' lo' : Nat) (h : lo ≤ hi) (hh : hi < 32)
    (h' : hi < lo') : (s.setFld r i j hi lo v).fld r i j hi' lo' = s.fld r i j hi' lo' := by
  simp only [State.fld, State.setFld, State.get_set_same,
    Nat.mod_eq_of_lt (putBits_lt _ _ _ v h hh (s.get_lt r i j)), bits_putBits_above _ _ _ _ _ _ h h']

/-- A write to a field leaves the fields below it alone. -/
theorem State.fld_setFld_below (s : State) (r : Reg) (i j hi lo v hi' lo' : Nat) (h : lo ≤ hi) (hh : hi < 32)
    (h' : hi' < lo) (h'' : lo' ≤ hi') : (s.setFld r i j hi lo v).fld r i j hi' lo' = s.fld r i j hi' lo' := by
  simp only [State.fld, State.setFld, State.get_set_same,
    Nat.mod_eq_of_lt (putBits_lt _ _ _ v h hh (s.get_lt r i j)), bits_putBits_below _ _ _ _ _ _ h h' h'']

/-- A write to a field leaves every other register instance alone. -/
theorem State.get_setFld_ne (s : State) (r r' : Reg) (i j i' j' hi lo v : Nat) (h : r.addr i j ≠ r'.addr i' j') :
    (s.setFld r i j hi lo v).get r' i' j' = s.get r' i' j' := s.get_set_ne r r' i j i' j' _ h

/-- A write to a flag leaves every other register instance alone. -/
theorem State.get_setFlag_ne (s : State) (r r' : Reg) (i j i' j' n : Nat) (b : Bool) (h : r.addr i j ≠ r'.addr i' j') :
    (s.setFlag r i j n b).get r' i' j' = s.get r' i' j' := s.get_set_ne r r' i j i' j' _ h

/-- A count leaves every other register instance alone. -/
theorem State.get_count_ne (s : State) (r r' : Reg) (i j i' j' n : Nat) (h : r.addr i j ≠ r'.addr i' j') :
    (s.count r i j n).get r' i' j' = s.get r' i' j' := s.get_set_ne r r' i j i' j' _ h

/-- A counter counts up to its largest value and stays there. -/
theorem State.get_count_same (s : State) (r : Reg) (i j n : Nat) :
    (s.count r i j n).get r i j = min 0xFFFFFFFF (s.get r i j + n) := by
  simp only [State.count, State.get_set_same, satAdd]
  omega

/-- A flag reads back what was written to it. -/
@[simp] theorem State.flag_setFlag_same (s : State) (r : Reg) (i j n : Nat) (b : Bool) (h : n < 32 := by decide) :
    (s.setFlag r i j n b).flag r i j n = b := by
  simp only [State.flag, State.setFlag, State.fld_setFld_same _ _ _ _ _ _ _ (Nat.le_refl n) h,
    show n + 1 - n = 1 by omega]
  cases b <;> rfl

/-- A write to a flag leaves the other flags of its register alone. -/
theorem State.flag_setFlag_ne (s : State) (r : Reg) (i j n m : Nat) (b : Bool) (h : n < 32) (hm : n ≠ m) :
    (s.setFlag r i j n b).flag r i j m = s.flag r i j m := by
  have e : (s.setFlag r i j n b).fld r i j m m = s.fld r i j m m := by
    rcases Nat.lt_or_gt_of_ne hm with h1 | h1
    · exact State.fld_setFld_above _ _ _ _ _ _ _ _ _ (Nat.le_refl n) h h1
    · exact State.fld_setFld_below _ _ _ _ _ _ _ _ _ (Nat.le_refl n) h h1 (Nat.le_refl m)
  simp only [State.flag, e]

/-- The register that an address names lies at that address. -/
theorem Reg.instAt_addr (r : Reg) (a i j : Nat) (h : r.instAt a = some (i, j)) : r.addr i j = a := by
  rw [Reg.instAt] at h
  dsimp only at h
  have key (o d : Nat) (hd : o % d = 0) : o / d * d = o := by
    have := Nat.div_add_mod o d
    rw [Nat.mul_comm]; omega
  rw [Reg.addr]
  split at h
  · cases h
  · split at h
    · split at h
      · cases h; omega
      · cases h
    · split at h
      · split at h
        · rename_i h0
          cases h
          have := key _ _ h0.1
          omega
        · cases h
      · split at h
        · rename_i h0
          cases h
          have h1 := key _ _ h0.2.1
          have h2 := Nat.div_add_mod (a - r.desc.base) r.desc.s1
          rw [Nat.mul_comm] at h2
          omega
        · cases h

theorem findReg_addr (a : Nat) (l : List Reg) (r : Reg) (i j : Nat) (h : findReg a l = some (r, i, j)) : r.addr i j = a := by
  induction l with
  | nil => cases h
  | cons x xs ih =>
    rw [findReg] at h
    split at h
    · rename_i h0
      cases h
      exact Reg.instAt_addr _ _ _ _ h0
    · exact ih h

/-- The register that `regAt` finds lies at the address. -/
theorem regAt_addr (a : Nat) (r : Reg) (i j : Nat) (h : regAt a = some (r, i, j)) : r.addr i j = a := findReg_addr a _ r i j h

/-- A register write changes its own address alone. -/
theorem State.get?_set_ne (s : State) (r : Reg) (i j v a : Nat) (h : r.addr i j ≠ a) :
    Map.get? (s.set r i j v).regs a = Map.get? s.regs a := by
  simp [State.set, Map.get?_putD_ne _ _ _ _ _ h]

/-- Bytes written to host memory keep its canonical form. -/
theorem memWrite_wf (m : Map Byte) (a : Nat) (bs : Bytes) (h : Map.wf m = true) : Map.wf (memWrite m a bs) = true := by
  induction bs generalizing m a with
  | nil => exact h
  | cons b bs ih => exact ih _ _ (Map.wf_put _ _ _ h)

end Sys2Proof.Machine
end

