-- ==== Sys2Proof/Laws/Keep.lean ====
section
/-!
SUPPORT. What leaves the queue, the life cycle and the timebase alone, for the forms every operation is made of: a choice, a
fold over a list, and the named updates of State.
-/
namespace Sys2Proof.Machine

/-- The queue, the life cycle and the timebase of two states agree. -/
abbrev K3 (a b : State) : Prop :=
  a.pending = b.pending ∧ a.bond.lifecycle = b.bond.lifecycle ∧ a.time.ns = b.time.ns

theorem K3.trans {a b c : State} (h : K3 a b) (g : K3 b c) : K3 a c :=
  ⟨h.1.trans g.1, h.2.1.trans g.2.1, h.2.2.trans g.2.2⟩

theorem ite_keeps (c : Prop) [Decidable c] (a b : State) :
    (if c then a else b).pending = (if c then a.pending else b.pending)
      ∧ (if c then a else b).bond.lifecycle = (if c then a.bond.lifecycle else b.bond.lifecycle)
      ∧ (if c then a else b).time.ns = (if c then a.time.ns else b.time.ns) := by
  split <;> exact ⟨rfl, rfl, rfl⟩

theorem ite_fst {γ : Type} (c : Prop) [Decidable c] (a b : State × γ) :
    (if c then a else b).1 = if c then a.1 else b.1 := by split <;> rfl

theorem State.modBond_keeps (s : State) (f : BondState → BondState) :
    (s.modBond f).pending = s.pending ∧ (s.modBond f).bond.lifecycle = (f s.bond).lifecycle
      ∧ (s.modBond f).time.ns = s.time.ns := ⟨rfl, rfl, rfl⟩

theorem State.modTime_keeps (s : State) (f : TimeState → TimeState) :
    (s.modTime f).pending = s.pending ∧ (s.modTime f).bond.lifecycle = s.bond.lifecycle
      ∧ (s.modTime f).time.ns = (f s.time).ns := ⟨rfl, rfl, rfl⟩

theorem foldl_keeps {α β : Type} (p : State → β) (g : State → α → State) (h : ∀ s a, p (g s a) = p s) (l : List α)
    (s : State) : p (l.foldl g s) = p s := by
  induction l generalizing s with
  | nil => rfl
  | cons a l ih => rw [List.foldl_cons, ih, h]

theorem foldl_pending {α : Type} (g : State → α → State) (l : List α) (s : State)
    (h : ∀ s a, (g s a).pending = s.pending) : (l.foldl g s).pending = s.pending :=
  foldl_keeps State.pending g h l s

theorem foldl_life {α : Type} (g : State → α → State) (l : List α) (s : State)
    (h : ∀ s a, (g s a).bond.lifecycle = s.bond.lifecycle) : (l.foldl g s).bond.lifecycle = s.bond.lifecycle :=
  foldl_keeps (fun s => s.bond.lifecycle) g h l s

theorem foldl_ns {α : Type} (g : State → α → State) (l : List α) (s : State)
    (h : ∀ s a, (g s a).time.ns = s.time.ns) : (l.foldl g s).time.ns = s.time.ns :=
  foldl_keeps (fun s => s.time.ns) g h l s

theorem K3.foldl {α : Type} (g : State → α → State) (h : ∀ s a, K3 (g s a) s) (l : List α) (s : State) :
    K3 (l.foldl g s) s :=
  ⟨foldl_pending g l s fun s a => (h s a).1, foldl_life g l s fun s a => (h s a).2.1, foldl_ns g l s fun s a => (h s a).2.2⟩

theorem foldl_fst_keeps {α β γ : Type} (p : State → β) (g : State × γ → α → State × γ)
    (h : ∀ x a, p (g x a).1 = p x.1) (l : List α) (x : State × γ) : p (l.foldl g x).1 = p x.1 := by
  induction l generalizing x with
  | nil => rfl
  | cons a l ih => rw [List.foldl_cons, ih, h]

theorem foldl_fst_pending {α γ : Type} (g : State × γ → α → State × γ) (l : List α) (x : State × γ)
    (h : ∀ x a, (g x a).1.pending = x.1.pending) : (l.foldl g x).1.pending = x.1.pending :=
  foldl_fst_keeps State.pending g h l x

theorem foldl_fst_life {α γ : Type} (g : State × γ → α → State × γ) (l : List α) (x : State × γ)
    (h : ∀ x a, (g x a).1.bond.lifecycle = x.1.bond.lifecycle) :
    (l.foldl g x).1.bond.lifecycle = x.1.bond.lifecycle :=
  foldl_fst_keeps (fun s => s.bond.lifecycle) g h l x

theorem foldl_fst_ns {α γ : Type} (g : State × γ → α → State × γ) (l : List α) (x : State × γ)
    (h : ∀ x a, (g x a).1.time.ns = x.1.time.ns) : (l.foldl g x).1.time.ns = x.1.time.ns :=
  foldl_fst_keeps (fun s => s.time.ns) g h l x

theorem out_ite {α : Type} {c : Prop} [Decidable c] {a b x : α} {P : Prop} (ha : a = x → P) (hb : b = x → P) :
    (if c then a else b) = x → P := by
  split
  · exact ha
  · exact hb

theorem out_next {P : State → Prop} {a t : State} (h : P a) :
    (Host.Outcome.next a : Host.Outcome State Fault Refusal) = .next t → P t := by
  intro e; cases e; exact h

theorem out_keeps {s a : State}
    (h : a.pending = s.pending ∧ a.bond.lifecycle = s.bond.lifecycle ∧ a.time.ns = s.time.ns) :
    ∀ t, (Host.Outcome.next a : Host.Outcome State Fault Refusal) = .next t →
      t.pending = s.pending ∧ t.bond.lifecycle = s.bond.lifecycle ∧ t.time.ns = s.time.ns := by
  intro t e; cases e; exact h

theorem out_both {c : Prop} [Decidable c] {a b : Host.Outcome State Fault Refusal} {P : State → Prop}
    (ha : ∀ t, a = .next t → P t) (hb : ∀ t, b = .next t → P t) : ∀ t, (if c then a else b) = .next t → P t := by
  split
  · exact ha
  · exact hb

theorem out_some {P : State → Prop} {a t : State} (h : P a) : some a = some t → P t := by
  intro e; cases e; exact h

theorem out_none {α : Type} {P : Prop} {t : α} : none = some t → P := by
  intro e; cases e

theorem out_ok {ε : Type} {P : State → Prop} {a t : State} (h : P a) : (Except.ok a : Except ε State) = .ok t → P t := by
  intro e; cases e; exact h

theorem out_error {ε : Type} {P : Prop} {e : ε} {t : State} : (Except.error e : Except ε State) = .ok t → P := by
  intro e; cases e

theorem out_pair {P : State → Prop} {k k' : Nat} {a t : State} (h : P a) : some (k', a) = some (k, t) → P t := by
  intro e; cases e; exact h

theorem foldl_snd_keeps {α β γ : Type} (p : State → β) (g : γ × State → α → γ × State)
    (h : ∀ x a, p (g x a).2 = p x.2) (l : List α) (x : γ × State) : p (l.foldl g x).2 = p x.2 := by
  induction l generalizing x with
  | nil => rfl
  | cons a l ih => rw [List.foldl_cons, ih, h]

end Sys2Proof.Machine
end

