-- ==== Sys2Proof/Laws/KeepLive.lean ====
section
/-!
SUPPORT. What the operations of Machine/Live.lean leave alone: the queue, the life cycle and the timebase.
-/
set_option linter.unusedSimpArgs false

namespace Sys2Proof.Machine

theorem State.set_keeps (s : State) (r : Reg) (i j v : Nat) :
    (State.set s r i j v).pending = s.pending ∧ (State.set s r i j v).bond.lifecycle = s.bond.lifecycle ∧ (State.set s r i j v).time.ns = s.time.ns := by
  with_reducible exact ⟨rfl, rfl, rfl⟩

theorem State.setFld_keeps (s : State) (r : Reg) (i j hi lo v : Nat) :
    (State.setFld s r i j hi lo v).pending = s.pending ∧ (State.setFld s r i j hi lo v).bond.lifecycle = s.bond.lifecycle ∧ (State.setFld s r i j hi lo v).time.ns = s.time.ns := by
  with_reducible exact ⟨rfl, rfl, rfl⟩

theorem State.setFlag_keeps (s : State) (r : Reg) (i j n : Nat) (b : Bool) :
    (State.setFlag s r i j n b).pending = s.pending ∧ (State.setFlag s r i j n b).bond.lifecycle = s.bond.lifecycle ∧ (State.setFlag s r i j n b).time.ns = s.time.ns := by
  with_reducible exact ⟨rfl, rfl, rfl⟩

theorem State.count_keeps (s : State) (r : Reg) (i j n : Nat) :
    (State.count s r i j n).pending = s.pending ∧ (State.count s r i j n).bond.lifecycle = s.bond.lifecycle ∧ (State.count s r i j n).time.ns = s.time.ns := by
  with_reducible exact ⟨rfl, rfl, rfl⟩

theorem State.modHm_keeps (s : State) (f : HmState Effect → HmState Effect) :
    (State.modHm s f).pending = s.pending ∧ (State.modHm s f).bond.lifecycle = s.bond.lifecycle ∧ (State.modHm s f).time.ns = s.time.ns := by
  with_reducible exact ⟨rfl, rfl, rfl⟩

theorem State.modLog_keeps (s : State) (f : LogState → LogState) :
    (State.modLog s f).pending = s.pending ∧ (State.modLog s f).bond.lifecycle = s.bond.lifecycle ∧ (State.modLog s f).time.ns = s.time.ns := by
  with_reducible exact ⟨rfl, rfl, rfl⟩

theorem State.modPlan_keeps (s : State) (f : PlanState → PlanState) :
    (State.modPlan s f).pending = s.pending ∧ (State.modPlan s f).bond.lifecycle = s.bond.lifecycle ∧ (State.modPlan s f).time.ns = s.time.ns := by
  with_reducible exact ⟨rfl, rfl, rfl⟩

theorem State.modHost_keeps (s : State) (f : HostState → HostState) :
    (State.modHost s f).pending = s.pending ∧ (State.modHost s f).bond.lifecycle = s.bond.lifecycle ∧ (State.modHost s f).time.ns = s.time.ns := by
  with_reducible exact ⟨rfl, rfl, rfl⟩

theorem State.modEp_keeps (s : State) (f : EpState → EpState) :
    (State.modEp s f).pending = s.pending ∧ (State.modEp s f).bond.lifecycle = s.bond.lifecycle ∧ (State.modEp s f).time.ns = s.time.ns := by
  with_reducible exact ⟨rfl, rfl, rfl⟩

theorem State.modDma_keeps (s : State) (f : DmaState → DmaState) :
    (State.modDma s f).pending = s.pending ∧ (State.modDma s f).bond.lifecycle = s.bond.lifecycle ∧ (State.modDma s f).time.ns = s.time.ns := by
  with_reducible exact ⟨rfl, rfl, rfl⟩

theorem State.modPlc_keeps (s : State) (n : Nat) (f : PlcSeg → PlcSeg) :
    (State.modPlc s n f).pending = s.pending ∧ (State.modPlc s n f).bond.lifecycle = s.bond.lifecycle ∧ (State.modPlc s n f).time.ns = s.time.ns := by
  with_reducible exact ⟨rfl, rfl, rfl⟩

theorem State.modCustoms_keeps (s : State) (f : CustomsState → CustomsState) :
    (State.modCustoms s f).pending = s.pending ∧ (State.modCustoms s f).bond.lifecycle = s.bond.lifecycle ∧ (State.modCustoms s f).time.ns = s.time.ns := by
  with_reducible exact ⟨rfl, rfl, rfl⟩

theorem State.modBal_keeps (s : State) (f : BalState → BalState) :
    (State.modBal s f).pending = s.pending ∧ (State.modBal s f).bond.lifecycle = s.bond.lifecycle ∧ (State.modBal s f).time.ns = s.time.ns := by
  with_reducible exact ⟨rfl, rfl, rfl⟩

theorem State.modCraft_keeps (s : State) (f : CraftState → CraftState) :
    (State.modCraft s f).pending = s.pending ∧ (State.modCraft s f).bond.lifecycle = s.bond.lifecycle ∧ (State.modCraft s f).time.ns = s.time.ns := by
  with_reducible exact ⟨rfl, rfl, rfl⟩

theorem State.modStore_keeps (s : State) (f : StoreState → StoreState) :
    (State.modStore s f).pending = s.pending ∧ (State.modStore s f).bond.lifecycle = s.bond.lifecycle ∧ (State.modStore s f).time.ns = s.time.ns := by
  with_reducible exact ⟨rfl, rfl, rfl⟩

theorem State.modEth_keeps (s : State) (f : EthState → EthState) :
    (State.modEth s f).pending = s.pending ∧ (State.modEth s f).bond.lifecycle = s.bond.lifecycle ∧ (State.modEth s f).time.ns = s.time.ns := by
  with_reducible exact ⟨rfl, rfl, rfl⟩

theorem State.modWharf_keeps (s : State) (f : WharfState → WharfState) :
    (State.modWharf s f).pending = s.pending ∧ (State.modWharf s f).bond.lifecycle = s.bond.lifecycle ∧ (State.modWharf s f).time.ns = s.time.ns := by
  with_reducible exact ⟨rfl, rfl, rfl⟩

theorem State.modPilot_keeps (s : State) (f : PilotState → PilotState) :
    (State.modPilot s f).pending = s.pending ∧ (State.modPilot s f).bond.lifecycle = s.bond.lifecycle ∧ (State.modPilot s f).time.ns = s.time.ns := by
  with_reducible exact ⟨rfl, rfl, rfl⟩

theorem State.modPanel_keeps (s : State) (f : PanelState → PanelState) :
    (State.modPanel s f).pending = s.pending ∧ (State.modPanel s f).bond.lifecycle = s.bond.lifecycle ∧ (State.modPanel s f).time.ns = s.time.ns := by
  with_reducible exact ⟨rfl, rfl, rfl⟩

theorem State.modPwr_keeps (s : State) (f : PowerState → PowerState) :
    (State.modPwr s f).pending = s.pending ∧ (State.modPwr s f).bond.lifecycle = s.bond.lifecycle ∧ (State.modPwr s f).time.ns = s.time.ns := by
  with_reducible exact ⟨rfl, rfl, rfl⟩

theorem State.modUpd_keeps (s : State) (f : UpdState → UpdState) :
    (State.modUpd s f).pending = s.pending ∧ (State.modUpd s f).bond.lifecycle = s.bond.lifecycle ∧ (State.modUpd s f).time.ns = s.time.ns := by
  with_reducible exact ⟨rfl, rfl, rfl⟩

theorem State.modRadio_keeps (s : State) (f : RadioState → RadioState) :
    (State.modRadio s f).pending = s.pending ∧ (State.modRadio s f).bond.lifecycle = s.bond.lifecycle ∧ (State.modRadio s f).time.ns = s.time.ns := by
  with_reducible exact ⟨rfl, rfl, rfl⟩

theorem State.modPort_keeps (s : State) (n : Nat) (f : RadioPort → RadioPort) :
    (State.modPort s n f).pending = s.pending ∧ (State.modPort s n f).bond.lifecycle = s.bond.lifecycle ∧ (State.modPort s n f).time.ns = s.time.ns := by
  with_reducible exact ⟨rfl, rfl, rfl⟩

theorem State.notePpm_keeps (s : State) :
    (State.notePpm s).pending = s.pending ∧ (State.notePpm s).bond.lifecycle = s.bond.lifecycle ∧ (State.notePpm s).time.ns = s.time.ns := by
  first | rw [State.notePpm] | rw [State.notePpm.eq_def]
  try dsimp only
  repeat' (first | (simp only [↓State.modRadio_keeps, and_self, ↓ite_fst, ↓ite_keeps, ↓State.modBond_keeps, ↓State.modTime_keeps, ↓foldl_pending, ↓foldl_life, ↓foldl_ns, ↓foldl_fst_pending, ↓foldl_fst_life, ↓foldl_fst_ns, ite_self, implies_true]; done) | with_reducible exact ⟨rfl, rfl, rfl⟩ | (grind only [State.modRadio_keeps, ite_keeps, State.modBond_keeps, State.modTime_keeps]; done) | refine ⟨((foldl_pending _ _ _ ?_).trans ?_), ((foldl_life _ _ _ ?_).trans ?_), ((foldl_ns _ _ _ ?_).trans ?_)⟩ | refine ⟨((foldl_fst_pending _ _ _ ?_).trans ?_), ((foldl_fst_life _ _ _ ?_).trans ?_), ((foldl_fst_ns _ _ _ ?_).trans ?_)⟩ | refine ((foldl_pending _ _ _ ?_).trans ?_) | refine ((foldl_life _ _ _ ?_).trans ?_) | refine ((foldl_ns _ _ _ ?_).trans ?_) | refine ((foldl_fst_pending _ _ _ ?_).trans ?_) | refine ((foldl_fst_life _ _ _ ?_).trans ?_) | refine ((foldl_fst_ns _ _ _ ?_).trans ?_) | split | intro _ | simp only [↓State.modRadio_keeps, and_self, ↓ite_fst, ↓ite_keeps, ↓State.modBond_keeps, ↓State.modTime_keeps, ↓foldl_pending, ↓foldl_life, ↓foldl_ns, ↓foldl_fst_pending, ↓foldl_fst_life, ↓foldl_fst_ns, ite_self, implies_true])

end Sys2Proof.Machine
end

