-- ==== Sys2Proof/Laws/KeepOps.lean ====
section
/-!
SUPPORT. What the operations of Machine/Ops.lean leave alone: the queue, the life cycle and the timebase.
-/
set_option linter.unusedSimpArgs false

namespace Sys2Proof.Machine

theorem State.fresh_keeps (s : State) :
    (State.fresh s).2.pending = s.pending ∧ (State.fresh s).2.bond.lifecycle = s.bond.lifecycle ∧ (State.fresh s).2.time.ns = s.time.ns := by
  with_reducible exact ⟨rfl, rfl, rfl⟩

theorem State.fresh_eq (s : State) (s' : State) (x' : Nat) (he : (State.fresh s) = (x', s')) :
    s'.pending = s.pending ∧ s'.bond.lifecycle = s.bond.lifecycle ∧ s'.time.ns = s.time.ns := by
  have hk := State.fresh_keeps s; rw [he] at hk; exact hk

theorem State.sendVector_keeps (s : State) (v : Nat) :
    (State.sendVector s v).pending = s.pending ∧ (State.sendVector s v).bond.lifecycle = s.bond.lifecycle ∧ (State.sendVector s v).time.ns = s.time.ns := by
  rw [State.sendVector]; simp only [↓State.modHost_keeps, ↓State.setFlag_keeps, and_self, ↓ite_keeps, ite_self, ↓State.modBond_keeps, ↓State.modTime_keeps]

theorem State.raise_keeps (s : State) (r : Reg) (i b : Nat) :
    (State.raise s r i b).pending = s.pending ∧ (State.raise s r i b).bond.lifecycle = s.bond.lifecycle ∧ (State.raise s r i b).time.ns = s.time.ns := by
  rw [State.raise.eq_def]; repeat' (first | (solve | simp only [↓State.sendVector_keeps, ↓State.setFlag_keeps, and_self, ↓ite_keeps, ite_self, ↓State.modBond_keeps, ↓State.modTime_keeps]) | with_reducible exact ⟨rfl, rfl, rfl⟩ | split)

theorem State.clearInts_keeps (s : State) (r : Reg) (i v : Nat) :
    (State.clearInts s r i v).pending = s.pending ∧ (State.clearInts s r i v).bond.lifecycle = s.bond.lifecycle ∧ (State.clearInts s r i v).time.ns = s.time.ns := by
  rw [State.clearInts.eq_def]; repeat' (first | (solve | simp only [↓State.sendVector_keeps, ↓State.set_keeps, and_self, ↓ite_keeps, ite_self, ↓State.modBond_keeps, ↓State.modTime_keeps]) | with_reducible exact ⟨rfl, rfl, rfl⟩ | split)

theorem State.bgRan_keeps (s : State) (k : Nat) :
    (State.bgRan s k).pending = s.pending ∧ (State.bgRan s k).bond.lifecycle = s.bond.lifecycle ∧ (State.bgRan s k).time.ns = s.time.ns := by
  first | rw [State.bgRan] | rw [State.bgRan.eq_def]
  try dsimp only
  repeat' (first | (simp only [↓State.modPwr_keeps, and_self, ↓ite_fst, ↓ite_keeps, ↓State.modBond_keeps, ↓State.modTime_keeps, ↓foldl_pending, ↓foldl_life, ↓foldl_ns, ↓foldl_fst_pending, ↓foldl_fst_life, ↓foldl_fst_ns, ite_self, implies_true]; done) | with_reducible exact ⟨rfl, rfl, rfl⟩ | (grind only [State.modPwr_keeps, ite_keeps, State.modBond_keeps, State.modTime_keeps]; done) | refine ⟨((foldl_pending _ _ _ ?_).trans ?_), ((foldl_life _ _ _ ?_).trans ?_), ((foldl_ns _ _ _ ?_).trans ?_)⟩ | refine ⟨((foldl_fst_pending _ _ _ ?_).trans ?_), ((foldl_fst_life _ _ _ ?_).trans ?_), ((foldl_fst_ns _ _ _ ?_).trans ?_)⟩ | refine ((foldl_pending _ _ _ ?_).trans ?_) | refine ((foldl_life _ _ _ ?_).trans ?_) | refine ((foldl_ns _ _ _ ?_).trans ?_) | refine ((foldl_fst_pending _ _ _ ?_).trans ?_) | refine ((foldl_fst_life _ _ _ ?_).trans ?_) | refine ((foldl_fst_ns _ _ _ ?_).trans ?_) | split | intro _ | simp only [↓State.modPwr_keeps, and_self, ↓ite_fst, ↓ite_keeps, ↓State.modBond_keeps, ↓State.modTime_keeps, ↓foldl_pending, ↓foldl_life, ↓foldl_ns, ↓foldl_fst_pending, ↓foldl_fst_life, ↓foldl_fst_ns, ite_self, implies_true])

theorem State.logPut_keeps (s : State) (staged : Bool) (code key detail : Nat) (list : Option Nat) :
    (State.logPut s staged code key detail list).pending = s.pending ∧ (State.logPut s staged code key detail list).bond.lifecycle = s.bond.lifecycle ∧ (State.logPut s staged code key detail list).time.ns = s.time.ns := by
  rw [State.logPut]; simp only [↓State.count_keeps, ↓State.modLog_keeps, ↓State.raise_keeps, and_self, ↓ite_keeps, ite_self, ↓State.modBond_keeps, ↓State.modTime_keeps]

theorem State.event_keeps (s : State) (code key detail : Nat) :
    (State.event s code key detail).pending = s.pending ∧ (State.event s code key detail).bond.lifecycle = s.bond.lifecycle ∧ (State.event s code key detail).time.ns = s.time.ns := by
  rw [State.event]; simp only [↓State.logPut_keeps, and_self]

theorem State.ringPut_keeps (s : State) (p kind flow : Nat) (body : Bytes) :
    (State.ringPut s p kind flow body).pending = s.pending ∧ (State.ringPut s p kind flow body).bond.lifecycle = s.bond.lifecycle ∧ (State.ringPut s p kind flow body).time.ns = s.time.ns := by
  rw [State.ringPut.eq_def]; repeat' (first | (solve | simp only [↓State.modHost_keeps, ↓State.sendVector_keeps, ↓State.set_keeps, and_self, ↓ite_keeps, ite_self, ↓State.modBond_keeps, ↓State.modTime_keeps]) | with_reducible exact ⟨rfl, rfl, rfl⟩ | split)

end Sys2Proof.Machine
end

