-- ==== Sys2Proof/Laws/KeepAllStop.lean ====
section
/-!
SUPPORT. What the operations of Machine/AllStop.lean leave alone: the queue, the life cycle and the timebase.
-/
set_option linter.unusedSimpArgs false

namespace Sys2Proof.Machine

theorem State.stopClear_keeps (s : State) :
    (State.stopClear s).pending = s.pending ∧ (State.stopClear s).bond.lifecycle = s.bond.lifecycle ∧ (State.stopClear s).time.ns = s.time.ns := by
  rw [State.stopClear]; simp only [↓State.event_keeps, ↓State.modCraft_keeps, ↓State.raise_keeps, and_self]

theorem State.stopEval_keeps (s : State) :
    (State.stopEval s).pending = s.pending ∧ (State.stopEval s).bond.lifecycle = s.bond.lifecycle ∧ (State.stopEval s).time.ns = s.time.ns := by
  rw [State.stopEval]; simp only [↓State.event_keeps, ↓State.modCraft_keeps, ↓State.raise_keeps, ↓State.stopClear_keeps, and_self, ↓ite_keeps, ite_self, ↓State.modBond_keeps, ↓State.modTime_keeps]

theorem execStopCmdRelease_keeps (s : State) :
    ∀ s', (execStopCmdRelease s) = .next s' → s'.pending = s.pending ∧ s'.bond.lifecycle = s.bond.lifecycle ∧ s'.time.ns = s.time.ns := by
  rw [execStopCmdRelease.eq_def]; repeat' (first | with_reducible exact out_keeps ⟨rfl, rfl, rfl⟩ | with_reducible refine out_keeps ?_ | with_reducible refine out_both ?_ ?_ | (solve | simp only [↓State.modCraft_keeps, ↓State.stopEval_keeps, and_self]) | split)

theorem execStopCmdClear_keeps (s : State) :
    ∀ s', (execStopCmdClear s) = .next s' → s'.pending = s.pending ∧ s'.bond.lifecycle = s.bond.lifecycle ∧ s'.time.ns = s.time.ns := by
  rw [execStopCmdClear.eq_def]; repeat' (first | with_reducible exact out_keeps ⟨rfl, rfl, rfl⟩ | with_reducible refine out_keeps ?_ | with_reducible refine out_both ?_ ?_ | (solve | simp only [↓State.stopClear_keeps, and_self]) | split)

end Sys2Proof.Machine
end

