-- ==== Sys2Proof/Laws/KeepHarbour.lean ====
section
/-!
SUPPORT. What the operations of Machine/Harbour.lean leave alone: the queue, the life cycle and the timebase.
-/
set_option linter.unusedSimpArgs false

namespace Sys2Proof.Machine

theorem State.setBerth_keeps (s : State) (n : Nat) (b : Berth) :
    (State.setBerth s n b).pending = s.pending ∧ (State.setBerth s n b).bond.lifecycle = s.bond.lifecycle ∧ (State.setBerth s n b).time.ns = s.time.ns := by
  with_reducible exact ⟨rfl, rfl, rfl⟩

theorem State.noteStarved_keeps (s : State) (k : Nat) :
    (State.noteStarved s k).pending = s.pending ∧ (State.noteStarved s k).bond.lifecycle = s.bond.lifecycle ∧ (State.noteStarved s k).time.ns = s.time.ns := by
  rw [State.noteStarved]; simp only [↓State.event_keeps, ↓State.modHm_keeps, ↓State.raise_keeps, and_self, ↓ite_keeps, ite_self, ↓State.modBond_keeps, ↓State.modTime_keeps]

theorem State.starveCheck_keeps (s : State) :
    (State.starveCheck s).pending = s.pending ∧ (State.starveCheck s).bond.lifecycle = s.bond.lifecycle ∧ (State.starveCheck s).time.ns = s.time.ns := by
  first | rw [State.starveCheck] | rw [State.starveCheck.eq_def]
  try dsimp only
  repeat' (first | (simp only [↓State.noteStarved_keeps, and_self, ↓ite_fst, ↓ite_keeps, ↓State.modBond_keeps, ↓State.modTime_keeps, ↓foldl_pending, ↓foldl_life, ↓foldl_ns, ↓foldl_fst_pending, ↓foldl_fst_life, ↓foldl_fst_ns, ite_self, implies_true]; done) | with_reducible exact ⟨rfl, rfl, rfl⟩ | (grind only [State.noteStarved_keeps, ite_keeps, State.modBond_keeps, State.modTime_keeps]; done) | refine ⟨((foldl_pending _ _ _ ?_).trans ?_), ((foldl_life _ _ _ ?_).trans ?_), ((foldl_ns _ _ _ ?_).trans ?_)⟩ | refine ⟨((foldl_fst_pending _ _ _ ?_).trans ?_), ((foldl_fst_life _ _ _ ?_).trans ?_), ((foldl_fst_ns _ _ _ ?_).trans ?_)⟩ | refine ((foldl_pending _ _ _ ?_).trans ?_) | refine ((foldl_life _ _ _ ?_).trans ?_) | refine ((foldl_ns _ _ _ ?_).trans ?_) | refine ((foldl_fst_pending _ _ _ ?_).trans ?_) | refine ((foldl_fst_life _ _ _ ?_).trans ?_) | refine ((foldl_fst_ns _ _ _ ?_).trans ?_) | split | intro _ | simp only [↓State.noteStarved_keeps, and_self, ↓ite_fst, ↓ite_keeps, ↓State.modBond_keeps, ↓State.modTime_keeps, ↓foldl_pending, ↓foldl_life, ↓foldl_ns, ↓foldl_fst_pending, ↓foldl_fst_life, ↓foldl_fst_ns, ite_self, implies_true])

theorem State.enterBerth_keeps (s : State) (n : Nat) (m : Manifest) :
    (State.enterBerth s n m).pending = s.pending ∧ (State.enterBerth s n m).bond.lifecycle = s.bond.lifecycle ∧ (State.enterBerth s n m).time.ns = s.time.ns := by
  first | rw [State.enterBerth] | rw [State.enterBerth.eq_def]
  try dsimp only
  repeat' (first | (simp only [↓State.count_keeps, ↓State.modHm_keeps, ↓State.noteStarved_keeps, and_self, ↓ite_fst, ↓ite_keeps, ↓State.modBond_keeps, ↓State.modTime_keeps, ↓foldl_pending, ↓foldl_life, ↓foldl_ns, ↓foldl_fst_pending, ↓foldl_fst_life, ↓foldl_fst_ns, ite_self, implies_true]; done) | with_reducible exact ⟨rfl, rfl, rfl⟩ | (grind only [State.count_keeps, State.modHm_keeps, State.noteStarved_keeps, ite_keeps, State.modBond_keeps, State.modTime_keeps]; done) | refine ⟨((foldl_pending _ _ _ ?_).trans ?_), ((foldl_life _ _ _ ?_).trans ?_), ((foldl_ns _ _ _ ?_).trans ?_)⟩ | refine ⟨((foldl_fst_pending _ _ _ ?_).trans ?_), ((foldl_fst_life _ _ _ ?_).trans ?_), ((foldl_fst_ns _ _ _ ?_).trans ?_)⟩ | refine ((foldl_pending _ _ _ ?_).trans ?_) | refine ((foldl_life _ _ _ ?_).trans ?_) | refine ((foldl_ns _ _ _ ?_).trans ?_) | refine ((foldl_fst_pending _ _ _ ?_).trans ?_) | refine ((foldl_fst_life _ _ _ ?_).trans ?_) | refine ((foldl_fst_ns _ _ _ ?_).trans ?_) | split | intro _ | simp only [↓State.count_keeps, ↓State.modHm_keeps, ↓State.noteStarved_keeps, and_self, ↓ite_fst, ↓ite_keeps, ↓State.modBond_keeps, ↓State.modTime_keeps, ↓foldl_pending, ↓foldl_life, ↓foldl_ns, ↓foldl_fst_pending, ↓foldl_fst_life, ↓foldl_fst_ns, ite_self, implies_true])

theorem State.countRefused_keeps (s : State) (n : Nat) :
    (State.countRefused s n).pending = s.pending ∧ (State.countRefused s n).bond.lifecycle = s.bond.lifecycle ∧ (State.countRefused s n).time.ns = s.time.ns := by
  first | rw [State.countRefused] | rw [State.countRefused.eq_def]
  try dsimp only
  repeat' (first | (simp only [↓State.raise_keeps, ↓State.setFld_keeps, and_self, ↓ite_fst, ↓ite_keeps, ↓State.modBond_keeps, ↓State.modTime_keeps, ↓foldl_pending, ↓foldl_life, ↓foldl_ns, ↓foldl_fst_pending, ↓foldl_fst_life, ↓foldl_fst_ns, ite_self, implies_true]; done) | with_reducible exact ⟨rfl, rfl, rfl⟩ | (grind only [State.raise_keeps, State.setFld_keeps, ite_keeps, State.modBond_keeps, State.modTime_keeps]; done) | refine ⟨((foldl_pending _ _ _ ?_).trans ?_), ((foldl_life _ _ _ ?_).trans ?_), ((foldl_ns _ _ _ ?_).trans ?_)⟩ | refine ⟨((foldl_fst_pending _ _ _ ?_).trans ?_), ((foldl_fst_life _ _ _ ?_).trans ?_), ((foldl_fst_ns _ _ _ ?_).trans ?_)⟩ | refine ((foldl_pending _ _ _ ?_).trans ?_) | refine ((foldl_life _ _ _ ?_).trans ?_) | refine ((foldl_ns _ _ _ ?_).trans ?_) | refine ((foldl_fst_pending _ _ _ ?_).trans ?_) | refine ((foldl_fst_life _ _ _ ?_).trans ?_) | refine ((foldl_fst_ns _ _ _ ?_).trans ?_) | split | intro _ | simp only [↓State.raise_keeps, ↓State.setFld_keeps, and_self, ↓ite_fst, ↓ite_keeps, ↓State.modBond_keeps, ↓State.modTime_keeps, ↓foldl_pending, ↓foldl_life, ↓foldl_ns, ↓foldl_fst_pending, ↓foldl_fst_life, ↓foldl_fst_ns, ite_self, implies_true])

theorem State.backPressure_keeps (s : State) (cls idx : Nat) :
    (State.backPressure s cls idx).pending = s.pending ∧ (State.backPressure s cls idx).bond.lifecycle = s.bond.lifecycle ∧ (State.backPressure s cls idx).time.ns = s.time.ns := by
  rw [State.backPressure]; simp only [↓State.modEp_keeps, and_self, ↓ite_keeps, ite_self, ↓State.modBond_keeps, ↓State.modTime_keeps]

theorem State.create_keeps (s : State) (m : Manifest) :
    (State.create s m).1.pending = s.pending ∧ (State.create s m).1.bond.lifecycle = s.bond.lifecycle ∧ (State.create s m).1.time.ns = s.time.ns := by
  rw [State.create.eq_def]; repeat' (first | (solve | simp only [↓State.backPressure_keeps, ↓State.count_keeps, ↓State.countRefused_keeps, ↓State.enterBerth_keeps, ↓State.raise_keeps, and_self, ↓ite_keeps, ite_self, ↓State.modBond_keeps, ↓State.modTime_keeps]) | with_reducible exact ⟨rfl, rfl, rfl⟩ | split)

theorem State.create_eq (s : State) (m : Manifest) (s' : State) (x' : Bool) (he : (State.create s m) = (s', x')) :
    s'.pending = s.pending ∧ s'.bond.lifecycle = s.bond.lifecycle ∧ s'.time.ns = s.time.ns := by
  have hk := State.create_keeps s m; rw [he] at hk; exact hk

theorem State.make_keeps (s : State) (kind kindArg flow cls idx : Nat) (epx : Option Nat) (buf : Bytes) :
    (State.make s kind kindArg flow cls idx epx buf).pending = s.pending ∧ (State.make s kind kindArg flow cls idx epx buf).bond.lifecycle = s.bond.lifecycle ∧ (State.make s kind kindArg flow cls idx epx buf).time.ns = s.time.ns := by
  first | rw [State.make] | rw [State.make.eq_def]
  try dsimp only
  repeat' (first | (simp only [↓State.create_keeps, ↓State.fresh_keeps, and_self, ↓ite_fst, ↓ite_keeps, ↓State.modBond_keeps, ↓State.modTime_keeps, ↓foldl_pending, ↓foldl_life, ↓foldl_ns, ↓foldl_fst_pending, ↓foldl_fst_life, ↓foldl_fst_ns, ite_self, implies_true]; done) | with_reducible exact ⟨rfl, rfl, rfl⟩ | (grind only [State.create_keeps, State.fresh_keeps, ite_keeps, State.modBond_keeps, State.modTime_keeps]; done) | (have hk := State.create_eq _ _ _ _ (by assumption); simp only [↓hk, ↓State.create_keeps, ↓State.fresh_keeps, and_self, ↓ite_fst, ↓ite_keeps, ↓State.modBond_keeps, ↓State.modTime_keeps, ↓foldl_pending, ↓foldl_life, ↓foldl_ns, ↓foldl_fst_pending, ↓foldl_fst_life, ↓foldl_fst_ns, ite_self, implies_true]; done) | (have hk := State.fresh_eq _ _ _ (by assumption); simp only [↓hk, ↓State.create_keeps, ↓State.fresh_keeps, and_self, ↓ite_fst, ↓ite_keeps, ↓State.modBond_keeps, ↓State.modTime_keeps, ↓foldl_pending, ↓foldl_life, ↓foldl_ns, ↓foldl_fst_pending, ↓foldl_fst_life, ↓foldl_fst_ns, ite_self, implies_true]; done) | (have hk := State.create_eq _ _ _ _ (by assumption); simp only [↓hk, ↓State.create_keeps, ↓State.fresh_keeps, and_self, ↓ite_fst, ↓ite_keeps, ↓State.modBond_keeps, ↓State.modTime_keeps, ↓foldl_pending, ↓foldl_life, ↓foldl_ns, ↓foldl_fst_pending, ↓foldl_fst_life, ↓foldl_fst_ns, ite_self, implies_true]) | (have hk := State.fresh_eq _ _ _ (by assumption); simp only [↓hk, ↓State.create_keeps, ↓State.fresh_keeps, and_self, ↓ite_fst, ↓ite_keeps, ↓State.modBond_keeps, ↓State.modTime_keeps, ↓foldl_pending, ↓foldl_life, ↓foldl_ns, ↓foldl_fst_pending, ↓foldl_fst_life, ↓foldl_fst_ns, ite_self, implies_true]) | refine ⟨((foldl_pending _ _ _ ?_).trans ?_), ((foldl_life _ _ _ ?_).trans ?_), ((foldl_ns _ _ _ ?_).trans ?_)⟩ | refine ⟨((foldl_fst_pending _ _ _ ?_).trans ?_), ((foldl_fst_life _ _ _ ?_).trans ?_), ((foldl_fst_ns _ _ _ ?_).trans ?_)⟩ | refine ((foldl_pending _ _ _ ?_).trans ?_) | refine ((foldl_life _ _ _ ?_).trans ?_) | refine ((foldl_ns _ _ _ ?_).trans ?_) | refine ((foldl_fst_pending _ _ _ ?_).trans ?_) | refine ((foldl_fst_life _ _ _ ?_).trans ?_) | refine ((foldl_fst_ns _ _ _ ?_).trans ?_) | split | intro _ | simp only [↓State.create_keeps, ↓State.fresh_keeps, and_self, ↓ite_fst, ↓ite_keeps, ↓State.modBond_keeps, ↓State.modTime_keeps, ↓foldl_pending, ↓foldl_life, ↓foldl_ns, ↓foldl_fst_pending, ↓foldl_fst_life, ↓foldl_fst_ns, ite_self, implies_true])

theorem State.modSlot_keeps (s : State) (n : Nat) (f : Slot Effect → Slot Effect) :
    (State.modSlot s n f).pending = s.pending ∧ (State.modSlot s n f).bond.lifecycle = s.bond.lifecycle ∧ (State.modSlot s n f).time.ns = s.time.ns := by
  with_reducible exact ⟨rfl, rfl, rfl⟩

theorem State.freeSlot_keeps (s : State) (n : Nat) :
    (State.freeSlot s n).pending = s.pending ∧ (State.freeSlot s n).bond.lifecycle = s.bond.lifecycle ∧ (State.freeSlot s n).time.ns = s.time.ns := by
  with_reducible exact ⟨rfl, rfl, rfl⟩

theorem State.complete_keeps (s : State) (n st : Nat) (loads : List RowKey) (fx : List Effect) :
    (State.complete s n st loads fx).pending = s.pending ∧ (State.complete s n st loads fx).bond.lifecycle = s.bond.lifecycle ∧ (State.complete s n st loads fx).time.ns = s.time.ns := by
  first | rw [State.complete] | rw [State.complete.eq_def]
  try dsimp only
  repeat' (first | (simp only [↓State.freeSlot_keeps, ↓State.modSlot_keeps, and_self, ↓ite_fst, ↓ite_keeps, ↓State.modBond_keeps, ↓State.modTime_keeps, ↓foldl_pending, ↓foldl_life, ↓foldl_ns, ↓foldl_fst_pending, ↓foldl_fst_life, ↓foldl_fst_ns, ite_self, implies_true]; done) | with_reducible exact ⟨rfl, rfl, rfl⟩ | (grind only [State.freeSlot_keeps, State.modSlot_keeps, ite_keeps, State.modBond_keeps, State.modTime_keeps]; done) | refine ⟨((foldl_pending _ _ _ ?_).trans ?_), ((foldl_life _ _ _ ?_).trans ?_), ((foldl_ns _ _ _ ?_).trans ?_)⟩ | refine ⟨((foldl_fst_pending _ _ _ ?_).trans ?_), ((foldl_fst_life _ _ _ ?_).trans ?_), ((foldl_fst_ns _ _ _ ?_).trans ?_)⟩ | refine ((foldl_pending _ _ _ ?_).trans ?_) | refine ((foldl_life _ _ _ ?_).trans ?_) | refine ((foldl_ns _ _ _ ?_).trans ?_) | refine ((foldl_fst_pending _ _ _ ?_).trans ?_) | refine ((foldl_fst_life _ _ _ ?_).trans ?_) | refine ((foldl_fst_ns _ _ _ ?_).trans ?_) | split | intro _ | simp only [↓State.freeSlot_keeps, ↓State.modSlot_keeps, and_self, ↓ite_fst, ↓ite_keeps, ↓State.modBond_keeps, ↓State.modTime_keeps, ↓foldl_pending, ↓foldl_life, ↓foldl_ns, ↓foldl_fst_pending, ↓foldl_fst_life, ↓foldl_fst_ns, ite_self, implies_true])

theorem State.dispatch_keeps (s : State) (t : Nat) :
    (State.dispatch s t).pending = s.pending ∧ (State.dispatch s t).bond.lifecycle = s.bond.lifecycle ∧ (State.dispatch s t).time.ns = s.time.ns := by
  rw [State.dispatch.eq_def]; repeat' (first | (solve | simp only [↓State.modHm_keeps, ↓State.setBerth_keeps, and_self, ↓ite_keeps, ite_self, ↓State.modBond_keeps, ↓State.modTime_keeps]) | with_reducible exact ⟨rfl, rfl, rfl⟩ | split)

theorem State.fenceTug_keeps (s : State) (t cause kind : Nat) :
    (State.fenceTug s t cause kind).pending = s.pending ∧ (State.fenceTug s t cause kind).bond.lifecycle = s.bond.lifecycle ∧ (State.fenceTug s t cause kind).time.ns = s.time.ns := by
  rw [State.fenceTug]; simp only [↓State.event_keeps, ↓State.raise_keeps, ↓State.set_keeps, ↓State.setFlag_keeps, ↓State.setFld_keeps, and_self, ↓ite_keeps, ite_self, ↓State.modBond_keeps, ↓State.modTime_keeps]

theorem State.poison_keeps (s : State) (n d : Nat) :
    (State.poison s n d).pending = s.pending ∧ (State.poison s n d).bond.lifecycle = s.bond.lifecycle ∧ (State.poison s n d).time.ns = s.time.ns := by
  rw [State.poison.eq_def]; repeat' (first | (solve | simp only [↓State.count_keeps, ↓State.event_keeps, ↓State.modHm_keeps, ↓State.modSlot_keeps, ↓State.raise_keeps, and_self, ↓ite_keeps, ite_self, ↓State.modBond_keeps, ↓State.modTime_keeps]) | with_reducible exact ⟨rfl, rfl, rfl⟩ | split)

theorem State.failManifest_keeps (s : State) (n d : Nat) :
    (State.failManifest s n d).pending = s.pending ∧ (State.failManifest s n d).bond.lifecycle = s.bond.lifecycle ∧ (State.failManifest s n d).time.ns = s.time.ns := by
  rw [State.failManifest.eq_def]; repeat' (first | (solve | simp only [↓State.freeSlot_keeps, ↓State.modHm_keeps, ↓State.poison_keeps, and_self, ↓ite_keeps, ite_self, ↓State.modBond_keeps, ↓State.modTime_keeps]) | with_reducible exact ⟨rfl, rfl, rfl⟩ | split)

theorem State.poisonHead_keeps (s : State) (n : Nat) :
    (State.poisonHead s n).pending = s.pending ∧ (State.poisonHead s n).bond.lifecycle = s.bond.lifecycle ∧ (State.poisonHead s n).time.ns = s.time.ns := by
  first | rw [State.poisonHead] | rw [State.poisonHead.eq_def]
  try dsimp only
  repeat' (first | (simp only [↓State.modHm_keeps, ↓State.poison_keeps, ↓State.setBerth_keeps, and_self, ↓ite_fst, ↓ite_keeps, ↓State.modBond_keeps, ↓State.modTime_keeps, ↓foldl_pending, ↓foldl_life, ↓foldl_ns, ↓foldl_fst_pending, ↓foldl_fst_life, ↓foldl_fst_ns, ite_self, implies_true]; done) | with_reducible exact ⟨rfl, rfl, rfl⟩ | (grind only [State.modHm_keeps, State.poison_keeps, State.setBerth_keeps, ite_keeps, State.modBond_keeps, State.modTime_keeps]; done) | refine ⟨((foldl_pending _ _ _ ?_).trans ?_), ((foldl_life _ _ _ ?_).trans ?_), ((foldl_ns _ _ _ ?_).trans ?_)⟩ | refine ⟨((foldl_fst_pending _ _ _ ?_).trans ?_), ((foldl_fst_life _ _ _ ?_).trans ?_), ((foldl_fst_ns _ _ _ ?_).trans ?_)⟩ | refine ((foldl_pending _ _ _ ?_).trans ?_) | refine ((foldl_life _ _ _ ?_).trans ?_) | refine ((foldl_ns _ _ _ ?_).trans ?_) | refine ((foldl_fst_pending _ _ _ ?_).trans ?_) | refine ((foldl_fst_life _ _ _ ?_).trans ?_) | refine ((foldl_fst_ns _ _ _ ?_).trans ?_) | split | intro _ | simp only [↓State.modHm_keeps, ↓State.poison_keeps, ↓State.setBerth_keeps, and_self, ↓ite_fst, ↓ite_keeps, ↓State.modBond_keeps, ↓State.modTime_keeps, ↓foldl_pending, ↓foldl_life, ↓foldl_ns, ↓foldl_fst_pending, ↓foldl_fst_life, ↓foldl_fst_ns, ite_self, implies_true])

theorem State.poisonHeads_keeps (s : State) :
    (State.poisonHeads s).pending = s.pending ∧ (State.poisonHeads s).bond.lifecycle = s.bond.lifecycle ∧ (State.poisonHeads s).time.ns = s.time.ns := by
  first | rw [State.poisonHeads] | rw [State.poisonHeads.eq_def]
  try dsimp only
  repeat' (first | (simp only [↓State.poisonHead_keeps, and_self, ↓ite_fst, ↓ite_keeps, ↓State.modBond_keeps, ↓State.modTime_keeps, ↓foldl_pending, ↓foldl_life, ↓foldl_ns, ↓foldl_fst_pending, ↓foldl_fst_life, ↓foldl_fst_ns, ite_self, implies_true]; done) | with_reducible exact ⟨rfl, rfl, rfl⟩ | (grind only [State.poisonHead_keeps, ite_keeps, State.modBond_keeps, State.modTime_keeps]; done) | refine ⟨((foldl_pending _ _ _ ?_).trans ?_), ((foldl_life _ _ _ ?_).trans ?_), ((foldl_ns _ _ _ ?_).trans ?_)⟩ | refine ⟨((foldl_fst_pending _ _ _ ?_).trans ?_), ((foldl_fst_life _ _ _ ?_).trans ?_), ((foldl_fst_ns _ _ _ ?_).trans ?_)⟩ | refine ((foldl_pending _ _ _ ?_).trans ?_) | refine ((foldl_life _ _ _ ?_).trans ?_) | refine ((foldl_ns _ _ _ ?_).trans ?_) | refine ((foldl_fst_pending _ _ _ ?_).trans ?_) | refine ((foldl_fst_life _ _ _ ?_).trans ?_) | refine ((foldl_fst_ns _ _ _ ?_).trans ?_) | split | intro _ | simp only [↓State.poisonHead_keeps, and_self, ↓ite_fst, ↓ite_keeps, ↓State.modBond_keeps, ↓State.modTime_keeps, ↓foldl_pending, ↓foldl_life, ↓foldl_ns, ↓foldl_fst_pending, ↓foldl_fst_life, ↓foldl_fst_ns, ite_self, implies_true])

theorem State.fleetChanged_keeps (s : State) :
    (State.fleetChanged s).pending = s.pending ∧ (State.fleetChanged s).bond.lifecycle = s.bond.lifecycle ∧ (State.fleetChanged s).time.ns = s.time.ns := by
  first | rw [State.fleetChanged] | rw [State.fleetChanged.eq_def]
  try dsimp only
  repeat' (first | (simp only [↓State.poisonHeads_keeps, ↓State.starveCheck_keeps, and_self, ↓ite_fst, ↓ite_keeps, ↓State.modBond_keeps, ↓State.modTime_keeps, ↓foldl_pending, ↓foldl_life, ↓foldl_ns, ↓foldl_fst_pending, ↓foldl_fst_life, ↓foldl_fst_ns, ite_self, implies_true]; done) | with_reducible exact ⟨rfl, rfl, rfl⟩ | (grind only [State.poisonHeads_keeps, State.starveCheck_keeps, ite_keeps, State.modBond_keeps, State.modTime_keeps]; done) | refine ⟨((foldl_pending _ _ _ ?_).trans ?_), ((foldl_life _ _ _ ?_).trans ?_), ((foldl_ns _ _ _ ?_).trans ?_)⟩ | refine ⟨((foldl_fst_pending _ _ _ ?_).trans ?_), ((foldl_fst_life _ _ _ ?_).trans ?_), ((foldl_fst_ns _ _ _ ?_).trans ?_)⟩ | refine ((foldl_pending _ _ _ ?_).trans ?_) | refine ((foldl_life _ _ _ ?_).trans ?_) | refine ((foldl_ns _ _ _ ?_).trans ?_) | refine ((foldl_fst_pending _ _ _ ?_).trans ?_) | refine ((foldl_fst_life _ _ _ ?_).trans ?_) | refine ((foldl_fst_ns _ _ _ ?_).trans ?_) | split | intro _ | simp only [↓State.poisonHeads_keeps, ↓State.starveCheck_keeps, and_self, ↓ite_fst, ↓ite_keeps, ↓State.modBond_keeps, ↓State.modTime_keeps, ↓foldl_pending, ↓foldl_life, ↓foldl_ns, ↓foldl_fst_pending, ↓foldl_fst_life, ↓foldl_fst_ns, ite_self, implies_true])

theorem State.tugFails_keeps (s : State) (t cause : Nat) :
    (State.tugFails s t cause).pending = s.pending ∧ (State.tugFails s t cause).bond.lifecycle = s.bond.lifecycle ∧ (State.tugFails s t cause).time.ns = s.time.ns := by
  rw [State.tugFails.eq_def]; repeat' (first | (solve | simp only [↓State.failManifest_keeps, ↓State.fenceTug_keeps, ↓State.starveCheck_keeps, and_self, ↓ite_keeps, ite_self, ↓State.modBond_keeps, ↓State.modTime_keeps]) | with_reducible exact ⟨rfl, rfl, rfl⟩ | split)

theorem State.retireLine_keeps (s : State) (d : Nat) :
    (State.retireLine s d).pending = s.pending ∧ (State.retireLine s d).bond.lifecycle = s.bond.lifecycle ∧ (State.retireLine s d).time.ns = s.time.ns := by
  rw [State.retireLine]; simp only [↓State.event_keeps, ↓State.fleetChanged_keeps, ↓State.raise_keeps, ↓State.setFlag_keeps, ↓State.setFld_keeps, ↓State.tugFails_keeps, and_self, ↓ite_fst, ↓ite_keeps, ↓State.modBond_keeps, ↓State.modTime_keeps, ↓foldl_pending, ↓foldl_life, ↓foldl_ns, ↓foldl_fst_pending, ↓foldl_fst_life, ↓foldl_fst_ns, ite_self, implies_true]

theorem State.scrubReport_keeps (s : State) (array : Nat) :
    (State.scrubReport s array).pending = s.pending ∧ (State.scrubReport s array).bond.lifecycle = s.bond.lifecycle ∧ (State.scrubReport s array).time.ns = s.time.ns := by
  rw [State.scrubReport]; simp only [↓State.make_keeps, and_self]

theorem State.scrubReportFree_keeps (s : State) :
    (State.scrubReportFree s).pending = s.pending ∧ (State.scrubReportFree s).bond.lifecycle = s.bond.lifecycle ∧ (State.scrubReportFree s).time.ns = s.time.ns := by
  rw [State.scrubReportFree]; simp only [↓State.fresh_keeps, ↓State.scrubReport_keeps, and_self]

theorem State.scrubCount_keeps (s : State) :
    (State.scrubCount s).pending = s.pending ∧ (State.scrubCount s).bond.lifecycle = s.bond.lifecycle ∧ (State.scrubCount s).time.ns = s.time.ns := by
  rw [State.scrubCount]; simp only [↓State.count_keeps, ↓State.raise_keeps, and_self]

theorem State.sweepOnce_keeps (s : State) :
    (State.sweepOnce s).pending = s.pending ∧ (State.sweepOnce s).bond.lifecycle = s.bond.lifecycle ∧ (State.sweepOnce s).time.ns = s.time.ns := by
  rw [State.sweepOnce]; simp only [↓State.modHm_keeps, ↓State.setBerth_keeps, and_self, ↓ite_fst, ↓ite_keeps, ↓State.modBond_keeps, ↓State.modTime_keeps, ↓foldl_pending, ↓foldl_life, ↓foldl_ns, ↓foldl_fst_pending, ↓foldl_fst_life, ↓foldl_fst_ns, ite_self, implies_true]

theorem State.sweep_keeps (s : State) :
    (State.sweep s).pending = s.pending ∧ (State.sweep s).bond.lifecycle = s.bond.lifecycle ∧ (State.sweep s).time.ns = s.time.ns := by
  rw [State.sweep]; simp only [↓State.sweepOnce_keeps, and_self, ↓ite_fst, ↓ite_keeps, ↓State.modBond_keeps, ↓State.modTime_keeps, ↓foldl_pending, ↓foldl_life, ↓foldl_ns, ↓foldl_fst_pending, ↓foldl_fst_life, ↓foldl_fst_ns, ite_self, implies_true]

theorem State.balCut_keeps (s : State) (ms : List Manifest) :
    (State.balCut s ms).pending = s.pending ∧ (State.balCut s ms).bond.lifecycle = s.bond.lifecycle ∧ (State.balCut s ms).time.ns = s.time.ns := by
  first | rw [State.balCut] | rw [State.balCut.eq_def]
  try dsimp only
  repeat' (first | (simp only [↓State.modBal_keeps, ↓State.set_keeps, and_self, ↓ite_fst, ↓ite_keeps, ↓State.modBond_keeps, ↓State.modTime_keeps, ↓foldl_pending, ↓foldl_life, ↓foldl_ns, ↓foldl_fst_pending, ↓foldl_fst_life, ↓foldl_fst_ns, ite_self, implies_true]; done) | with_reducible exact ⟨rfl, rfl, rfl⟩ | (grind only [State.modBal_keeps, State.set_keeps, ite_keeps, State.modBond_keeps, State.modTime_keeps]; done) | refine ⟨((foldl_pending _ _ _ ?_).trans ?_), ((foldl_life _ _ _ ?_).trans ?_), ((foldl_ns _ _ _ ?_).trans ?_)⟩ | refine ⟨((foldl_fst_pending _ _ _ ?_).trans ?_), ((foldl_fst_life _ _ _ ?_).trans ?_), ((foldl_fst_ns _ _ _ ?_).trans ?_)⟩ | refine ((foldl_pending _ _ _ ?_).trans ?_) | refine ((foldl_life _ _ _ ?_).trans ?_) | refine ((foldl_ns _ _ _ ?_).trans ?_) | refine ((foldl_fst_pending _ _ _ ?_).trans ?_) | refine ((foldl_fst_life _ _ _ ?_).trans ?_) | refine ((foldl_fst_ns _ _ _ ?_).trans ?_) | split | intro _ | simp only [↓State.modBal_keeps, ↓State.set_keeps, and_self, ↓ite_fst, ↓ite_keeps, ↓State.modBond_keeps, ↓State.modTime_keeps, ↓foldl_pending, ↓foldl_life, ↓foldl_ns, ↓foldl_fst_pending, ↓foldl_fst_life, ↓foldl_fst_ns, ite_self, implies_true])

theorem State.abandon_keeps (s : State) (f : Nat) :
    (State.abandon s f).pending = s.pending ∧ (State.abandon s f).bond.lifecycle = s.bond.lifecycle ∧ (State.abandon s f).time.ns = s.time.ns := by
  rw [State.abandon]; simp only [↓State.balCut_keeps, ↓State.modHm_keeps, ↓State.setFld_keeps, ↓State.sweep_keeps, and_self]

theorem State.disable_keeps (s : State) (f : Nat) :
    (State.disable s f).pending = s.pending ∧ (State.disable s f).bond.lifecycle = s.bond.lifecycle ∧ (State.disable s f).time.ns = s.time.ns := by
  rw [State.disable]; simp only [↓State.abandon_keeps, ↓State.modHm_keeps, ↓State.setFld_keeps, and_self, ↓ite_keeps, ite_self, ↓State.modBond_keeps, ↓State.modTime_keeps]

end Sys2Proof.Machine
end

