-- ==== Sys2Proof/Laws/KeepKeys.lean ====
section
/-!
SUPPORT. What the operations of Machine/Keys.lean leave alone: the queue, the life cycle and the timebase.
-/
set_option linter.unusedSimpArgs false

namespace Sys2Proof.Machine

theorem State.setSlot_keeps (s : State) (n : Nat) (k : KeySlot) :
    (State.setSlot s n k).pending = s.pending ∧ (State.setSlot s n k).bond.lifecycle = s.bond.lifecycle ∧ (State.setSlot s n k).time.ns = s.time.ns := by
  with_reducible exact ⟨rfl, rfl, rfl⟩

theorem State.tagFail_keeps (s : State) (n copy : Nat) :
    (State.tagFail s n copy).pending = s.pending ∧ (State.tagFail s n copy).bond.lifecycle = s.bond.lifecycle ∧ (State.tagFail s n copy).time.ns = s.time.ns := by
  rw [State.tagFail]; simp only [↓State.count_keeps, ↓State.event_keeps, ↓State.raise_keeps, ↓State.set_keeps, ↓State.setSlot_keeps, and_self, ↓ite_keeps, ite_self, ↓State.modBond_keeps, ↓State.modTime_keeps]

theorem State.useSlot_keeps (s : State) (n : Nat) :
    (State.useSlot s n).pending = s.pending ∧ (State.useSlot s n).bond.lifecycle = s.bond.lifecycle ∧ (State.useSlot s n).time.ns = s.time.ns := by
  first | rw [State.useSlot] | rw [State.useSlot.eq_def]
  try dsimp only
  repeat' (first | (simp only [↓State.tagFail_keeps, and_self, ↓ite_fst, ↓ite_keeps, ↓State.modBond_keeps, ↓State.modTime_keeps, ↓foldl_pending, ↓foldl_life, ↓foldl_ns, ↓foldl_fst_pending, ↓foldl_fst_life, ↓foldl_fst_ns, ite_self, implies_true]; done) | with_reducible exact ⟨rfl, rfl, rfl⟩ | (grind only [State.tagFail_keeps, ite_keeps, State.modBond_keeps, State.modTime_keeps]; done) | refine ⟨((foldl_pending _ _ _ ?_).trans ?_), ((foldl_life _ _ _ ?_).trans ?_), ((foldl_ns _ _ _ ?_).trans ?_)⟩ | refine ⟨((foldl_fst_pending _ _ _ ?_).trans ?_), ((foldl_fst_life _ _ _ ?_).trans ?_), ((foldl_fst_ns _ _ _ ?_).trans ?_)⟩ | refine ((foldl_pending _ _ _ ?_).trans ?_) | refine ((foldl_life _ _ _ ?_).trans ?_) | refine ((foldl_ns _ _ _ ?_).trans ?_) | refine ((foldl_fst_pending _ _ _ ?_).trans ?_) | refine ((foldl_fst_life _ _ _ ?_).trans ?_) | refine ((foldl_fst_ns _ _ _ ?_).trans ?_) | split | intro _ | simp only [↓State.tagFail_keeps, and_self, ↓ite_fst, ↓ite_keeps, ↓State.modBond_keeps, ↓State.modTime_keeps, ↓foldl_pending, ↓foldl_life, ↓foldl_ns, ↓foldl_fst_pending, ↓foldl_fst_life, ↓foldl_fst_ns, ite_self, implies_true])

theorem State.loadSlots_keeps (s : State) (hurt : List (Nat × Nat)) :
    (State.loadSlots s hurt).pending = s.pending ∧ (State.loadSlots s hurt).bond.lifecycle = s.bond.lifecycle ∧ (State.loadSlots s hurt).time.ns = s.time.ns := by
  first | rw [State.loadSlots] | rw [State.loadSlots.eq_def]
  try dsimp only
  repeat' (first | (simp only [↓State.tagFail_keeps, and_self, ↓ite_fst, ↓ite_keeps, ↓State.modBond_keeps, ↓State.modTime_keeps, ↓foldl_pending, ↓foldl_life, ↓foldl_ns, ↓foldl_fst_pending, ↓foldl_fst_life, ↓foldl_fst_ns, ite_self, implies_true]; done) | with_reducible exact ⟨rfl, rfl, rfl⟩ | (grind only [State.tagFail_keeps, ite_keeps, State.modBond_keeps, State.modTime_keeps]; done) | refine ⟨((foldl_pending _ _ _ ?_).trans ?_), ((foldl_life _ _ _ ?_).trans ?_), ((foldl_ns _ _ _ ?_).trans ?_)⟩ | refine ⟨((foldl_fst_pending _ _ _ ?_).trans ?_), ((foldl_fst_life _ _ _ ?_).trans ?_), ((foldl_fst_ns _ _ _ ?_).trans ?_)⟩ | refine ((foldl_pending _ _ _ ?_).trans ?_) | refine ((foldl_life _ _ _ ?_).trans ?_) | refine ((foldl_ns _ _ _ ?_).trans ?_) | refine ((foldl_fst_pending _ _ _ ?_).trans ?_) | refine ((foldl_fst_life _ _ _ ?_).trans ?_) | refine ((foldl_fst_ns _ _ _ ?_).trans ?_) | split | intro _ | simp only [↓State.tagFail_keeps, and_self, ↓ite_fst, ↓ite_keeps, ↓State.modBond_keeps, ↓State.modTime_keeps, ↓foldl_pending, ↓foldl_life, ↓foldl_ns, ↓foldl_fst_pending, ↓foldl_fst_life, ↓foldl_fst_ns, ite_self, implies_true])

theorem State.cacheKey_keeps (s : State) (p : KeyPath) (k : Bytes) :
    (State.cacheKey s p k).pending = s.pending ∧ (State.cacheKey s p k).bond.lifecycle = s.bond.lifecycle ∧ (State.cacheKey s p k).time.ns = s.time.ns := by
  first | rw [State.cacheKey] | rw [State.cacheKey.eq_def]
  try dsimp only
  repeat' (first | (simp only [and_self, ↓ite_fst, ↓ite_keeps, ↓State.modBond_keeps, ↓State.modTime_keeps, ↓foldl_pending, ↓foldl_life, ↓foldl_ns, ↓foldl_fst_pending, ↓foldl_fst_life, ↓foldl_fst_ns, ite_self, implies_true]; done) | with_reducible exact ⟨rfl, rfl, rfl⟩ | (grind only [ite_keeps, State.modBond_keeps, State.modTime_keeps]; done) | refine ⟨((foldl_pending _ _ _ ?_).trans ?_), ((foldl_life _ _ _ ?_).trans ?_), ((foldl_ns _ _ _ ?_).trans ?_)⟩ | refine ⟨((foldl_fst_pending _ _ _ ?_).trans ?_), ((foldl_fst_life _ _ _ ?_).trans ?_), ((foldl_fst_ns _ _ _ ?_).trans ?_)⟩ | refine ((foldl_pending _ _ _ ?_).trans ?_) | refine ((foldl_life _ _ _ ?_).trans ?_) | refine ((foldl_ns _ _ _ ?_).trans ?_) | refine ((foldl_fst_pending _ _ _ ?_).trans ?_) | refine ((foldl_fst_life _ _ _ ?_).trans ?_) | refine ((foldl_fst_ns _ _ _ ?_).trans ?_) | split | intro _ | simp only [and_self, ↓ite_fst, ↓ite_keeps, ↓State.modBond_keeps, ↓State.modTime_keeps, ↓foldl_pending, ↓foldl_life, ↓foldl_ns, ↓foldl_fst_pending, ↓foldl_fst_life, ↓foldl_fst_ns, ite_self, implies_true])

theorem State.touchKey_keeps (s : State) (e : KeyEntry) :
    (State.touchKey s e).pending = s.pending ∧ (State.touchKey s e).bond.lifecycle = s.bond.lifecycle ∧ (State.touchKey s e).time.ns = s.time.ns := by
  with_reducible exact ⟨rfl, rfl, rfl⟩

theorem State.keyAt_keeps (s : State) (p : KeyPath) (n : Nat) :
    (State.keyAt s p n).1.pending = s.pending ∧ (State.keyAt s p n).1.bond.lifecycle = s.bond.lifecycle ∧ (State.keyAt s p n).1.time.ns = s.time.ns := by
  induction n with
  | zero =>
    unfold State.keyAt; split
    · exact ⟨rfl, rfl, rfl⟩
    · exact State.useSlot_keeps ..
  | succ n ih =>
    unfold State.keyAt; try dsimp only
    split
    · simp only [↓State.cacheKey_keeps, ↓State.count_keeps, ↓State.touchKey_keeps, ↓State.useSlot_keeps, and_self, ↓ite_fst, ↓ite_keeps, ↓State.modBond_keeps, ↓State.modTime_keeps, ↓foldl_pending, ↓foldl_life, ↓foldl_ns, ↓foldl_fst_pending, ↓foldl_fst_life, ↓foldl_fst_ns, ite_self, implies_true]
    · split
      · rename_i heq
        rw [heq] at ih; exact ih
      · rename_i heq
        rw [heq] at ih; simpa only [↓State.cacheKey_keeps, ↓State.count_keeps, ↓State.touchKey_keeps, ↓State.useSlot_keeps, and_self, ↓ite_fst, ↓ite_keeps, ↓State.modBond_keeps, ↓State.modTime_keeps, ↓foldl_pending, ↓foldl_life, ↓foldl_ns, ↓foldl_fst_pending, ↓foldl_fst_life, ↓foldl_fst_ns, ite_self, implies_true] using ih

theorem State.keyAt_eq (s : State) (p : KeyPath) (n : Nat) (t : State) (x : Option Bytes)
    (h : State.keyAt s p n = (t, x)) : t.pending = s.pending ∧ t.bond.lifecycle = s.bond.lifecycle ∧ t.time.ns = s.time.ns := by
  have hk := State.keyAt_keeps s p n; rw [h] at hk; exact hk


theorem State.requestKey_keeps (s : State) (p : KeyPath) (n : Nat) :
    (State.requestKey s p n).1.pending = s.pending ∧ (State.requestKey s p n).1.bond.lifecycle = s.bond.lifecycle ∧ (State.requestKey s p n).1.time.ns = s.time.ns := by
  rw [State.requestKey]; simp only [↓State.count_keeps, ↓State.keyAt_keeps, and_self]

theorem State.requestKey_eq (s : State) (p : KeyPath) (n : Nat) (s' : State) (x' : Option Bytes) (he : (State.requestKey s p n) = (s', x')) :
    s'.pending = s.pending ∧ s'.bond.lifecycle = s.bond.lifecycle ∧ s'.time.ns = s.time.ns := by
  have hk := State.requestKey_keeps s p n; rw [he] at hk; exact hk

theorem State.epKey_keeps (s : State) (epx : Nat) (r : EpRec) (purpose epoch : Nat) :
    (State.epKey s epx r purpose epoch).1.pending = s.pending ∧ (State.epKey s epx r purpose epoch).1.bond.lifecycle = s.bond.lifecycle ∧ (State.epKey s epx r purpose epoch).1.time.ns = s.time.ns := by
  rw [State.epKey]; simp only [↓State.requestKey_keeps, and_self]

theorem State.epKey_eq (s : State) (epx : Nat) (r : EpRec) (purpose epoch : Nat) (s' : State) (x' : Option Bytes) (he : (State.epKey s epx r purpose epoch) = (s', x')) :
    s'.pending = s.pending ∧ s'.bond.lifecycle = s.bond.lifecycle ∧ s'.time.ns = s.time.ns := by
  have hk := State.epKey_keeps s epx r purpose epoch; rw [he] at hk; exact hk

end Sys2Proof.Machine
end

