-- ==== Sys2Proof/Laws/KeepEpCodec.lean ====
section
/-!
SUPPORT. What the operations of Machine/EpCodec.lean leave alone: the queue, the life cycle and the timebase.
-/
set_option linter.unusedSimpArgs false

namespace Sys2Proof.Machine

theorem State.loadRec_keeps (s : State) (epx : Nat) :
    (State.loadRec s epx).pending = s.pending ∧ (State.loadRec s epx).bond.lifecycle = s.bond.lifecycle ∧ (State.loadRec s epx).time.ns = s.time.ns := by
  with_reducible exact ⟨rfl, rfl, rfl⟩

theorem State.staleKey_keeps (s : State) (k : RowKey) :
    (State.staleKey s k).pending = s.pending ∧ (State.staleKey s k).bond.lifecycle = s.bond.lifecycle ∧ (State.staleKey s k).time.ns = s.time.ns := by
  with_reducible exact ⟨rfl, rfl, rfl⟩

theorem State.writeRec_keeps (s : State) (epx : Nat) (r : EpRec) :
    (State.writeRec s epx r).pending = s.pending ∧ (State.writeRec s epx r).bond.lifecycle = s.bond.lifecycle ∧ (State.writeRec s epx r).time.ns = s.time.ns := by
  with_reducible exact ⟨rfl, rfl, rfl⟩

theorem State.withRecs_keeps (s : State) (n epx : Nat) (more : List RowKey) (f : State → EpRec → State × Nat × List Effect) (hf : ∀ (s0 : State) (a0 : EpRec), (f s0 a0).1.pending = s0.pending ∧ (f s0 a0).1.bond.lifecycle = s0.bond.lifecycle ∧ (f s0 a0).1.time.ns = s0.time.ns) :
    (State.withRecs s n epx more f).pending = s.pending ∧ (State.withRecs s n epx more f).bond.lifecycle = s.bond.lifecycle ∧ (State.withRecs s n epx more f).time.ns = s.time.ns := by
  rw [State.withRecs.eq_def]; try dsimp only
  repeat' (first | (solve | simp only [↓State.complete_keeps, ↓State.loadRec_keeps, and_self, ↓ite_keeps, ite_self, ↓State.modBond_keeps, ↓State.modTime_keeps]) | with_reducible exact ⟨rfl, rfl, rfl⟩ | exact hf _ _ | (focus have hk := hf; simp only [↓hk, ↓State.complete_keeps, ↓State.loadRec_keeps, and_self, ↓ite_keeps, ite_self, ↓State.modBond_keeps, ↓State.modTime_keeps]; done) | split | intro _)

theorem State.withRec_keeps (s : State) (n epx : Nat) (f : State → EpRec → State × Nat × List Effect) (hf : ∀ (s0 : State) (a0 : EpRec), (f s0 a0).1.pending = s0.pending ∧ (f s0 a0).1.bond.lifecycle = s0.bond.lifecycle ∧ (f s0 a0).1.time.ns = s0.time.ns) :
    (State.withRec s n epx f).pending = s.pending ∧ (State.withRec s n epx f).bond.lifecycle = s.bond.lifecycle ∧ (State.withRec s n epx f).time.ns = s.time.ns := by
  rw [State.withRec.eq_def]; try dsimp only
  repeat' (first | (solve | simp only [↓State.withRecs_keeps, and_self, ↓ite_keeps, ite_self, ↓State.modBond_keeps, ↓State.modTime_keeps]) | with_reducible exact ⟨rfl, rfl, rfl⟩ | refine State.withRecs_keeps _ _ _ _ _ ?_ | exact hf _ _ | (focus have hk := hf; simp only [↓hk, ↓State.withRecs_keeps, and_self, ↓ite_keeps, ite_self, ↓State.modBond_keeps, ↓State.modTime_keeps]; done) | split | intro _)

theorem State.fifoPut_keeps (s : State) (n : Nat) (p : Packet) :
    (State.fifoPut s n p).1.pending = s.pending ∧ (State.fifoPut s n p).1.bond.lifecycle = s.bond.lifecycle ∧ (State.fifoPut s n p).1.time.ns = s.time.ns := by
  rw [State.fifoPut.eq_def]; try dsimp only
  repeat' (first | (solve | simp only [↓State.backPressure_keeps, ↓State.count_keeps, ↓State.countRefused_keeps, ↓State.modDma_keeps, and_self, ↓ite_fst, ↓ite_keeps, ↓State.modBond_keeps, ↓State.modTime_keeps, ↓foldl_pending, ↓foldl_life, ↓foldl_ns, ↓foldl_fst_pending, ↓foldl_fst_life, ↓foldl_fst_ns, ite_self, implies_true]) | with_reducible exact ⟨rfl, rfl, rfl⟩ | refine ⟨foldl_pending _ _ _ ?_, foldl_life _ _ _ ?_, foldl_ns _ _ _ ?_⟩ | split | intro _)

theorem State.fifoPut_eq (s : State) (n : Nat) (p : Packet) (s' : State) (x' : Bool) (he : (State.fifoPut s n p) = (s', x')) :
    s'.pending = s.pending ∧ s'.bond.lifecycle = s.bond.lifecycle ∧ s'.time.ns = s.time.ns := by
  have hk := State.fifoPut_keeps s n p; rw [he] at hk; exact hk

theorem State.arrive_keeps (s : State) (fifo : Nat) (env : Bytes) (a : Arrival) :
    (State.arrive s fifo env a).1.pending = s.pending ∧ (State.arrive s fifo env a).1.bond.lifecycle = s.bond.lifecycle ∧ (State.arrive s fifo env a).1.time.ns = s.time.ns := by
  rw [State.arrive.eq_def]; repeat' (first | (solve | simp only [↓State.count_keeps, ↓State.fifoPut_keeps, and_self, ↓ite_keeps, ite_self, ↓State.modBond_keeps, ↓State.modTime_keeps]) | with_reducible exact ⟨rfl, rfl, rfl⟩ | split)

theorem State.arrive_eq (s : State) (fifo : Nat) (env : Bytes) (a : Arrival) (s' : State) (x' : Bool) (he : (State.arrive s fifo env a) = (s', x')) :
    s'.pending = s.pending ∧ s'.bond.lifecycle = s.bond.lifecycle ∧ s'.time.ns = s.time.ns := by
  have hk := State.arrive_keeps s fifo env a; rw [he] at hk; exact hk

theorem State.noteGroupAck_keeps (s : State) (a : Arrival) (env : Bytes) :
    (State.noteGroupAck s a env).pending = s.pending ∧ (State.noteGroupAck s a env).bond.lifecycle = s.bond.lifecycle ∧ (State.noteGroupAck s a env).time.ns = s.time.ns := by
  rw [State.noteGroupAck]; simp only [↓State.modPort_keeps, and_self, ↓ite_keeps, ite_self, ↓State.modBond_keeps, ↓State.modTime_keeps]

theorem State.pulse_keeps (s : State) (p : Packet) :
    (State.pulse s p).pending = s.pending ∧ (State.pulse s p).bond.lifecycle = s.bond.lifecycle ∧ (State.pulse s p).time.ns = s.time.ns := by
  rw [State.pulse]; simp only [↓State.create_keeps, ↓State.fresh_keeps, ↓State.noteGroupAck_keeps, and_self, ↓ite_keeps, ite_self, ↓State.modBond_keeps, ↓State.modTime_keeps]

theorem State.takePacket_keeps (s : State) (n : Nat) :
    (State.takePacket s n).pending = s.pending ∧ (State.takePacket s n).bond.lifecycle = s.bond.lifecycle ∧ (State.takePacket s n).time.ns = s.time.ns := by
  rw [State.takePacket.eq_def]; try dsimp only
  repeat' (first | (solve | simp only [↓State.modDma_keeps, ↓State.pulse_keeps, and_self, ↓ite_fst, ↓ite_keeps, ↓State.modBond_keeps, ↓State.modTime_keeps, ↓foldl_pending, ↓foldl_life, ↓foldl_ns, ↓foldl_fst_pending, ↓foldl_fst_life, ↓foldl_fst_ns, ite_self, implies_true]) | with_reducible exact ⟨rfl, rfl, rfl⟩ | refine ⟨foldl_pending _ _ _ ?_, foldl_life _ _ _ ?_, foldl_ns _ _ _ ?_⟩ | split | intro _)

theorem State.downlink_keeps (s : State) (epx type : Nat) (loaded r : EpRec) (recs : List RRec) :
    (State.downlink s epx type loaded r recs).1.pending = s.pending ∧ (State.downlink s epx type loaded r recs).1.bond.lifecycle = s.bond.lifecycle ∧ (State.downlink s epx type loaded r recs).1.time.ns = s.time.ns := by
  rw [State.downlink.eq_def]; try dsimp only
  repeat' (first | (solve | simp only [↓State.epKey_keeps, and_self, ↓ite_keeps, ite_self, ↓State.modBond_keeps, ↓State.modTime_keeps]) | with_reducible exact ⟨rfl, rfl, rfl⟩ | (focus have hk := State.epKey_eq _ _ _ _ _ _ _ (by assumption); simp only [↓hk, ↓State.epKey_keeps, and_self, ↓ite_keeps, ite_self, ↓State.modBond_keeps, ↓State.modTime_keeps]; done) | split | intro _)

theorem State.downlink_eq (s : State) (epx type : Nat) (loaded r : EpRec) (recs : List RRec) (s' : State) (x' : Option (EpRec × Bytes)) (he : (State.downlink s epx type loaded r recs) = (s', x')) :
    s'.pending = s.pending ∧ s'.bond.lifecycle = s.bond.lifecycle ∧ s'.time.ns = s.time.ns := by
  have hk := State.downlink_keeps s epx type loaded r recs; rw [he] at hk; exact hk

end Sys2Proof.Machine
end

