-- ==== Sys2Proof/Laws/KeepEndpoint.lean ====
section
/-!
SUPPORT. What the operations of Machine/Endpoint.lean leave alone: the queue, the life cycle and the timebase.
-/
set_option linter.unusedSimpArgs false

namespace Sys2Proof.Machine

theorem State.onKind_keeps (s : State) (n k : Nat) (f : Manifest → State) (hf : ∀ (a0 : Manifest), (f a0).pending = s.pending ∧ (f a0).bond.lifecycle = s.bond.lifecycle ∧ (f a0).time.ns = s.time.ns) :
    ∀ s', (State.onKind s n k f) = .next s' → s'.pending = s.pending ∧ s'.bond.lifecycle = s.bond.lifecycle ∧ s'.time.ns = s.time.ns := by
  rw [State.onKind.eq_def]; try dsimp only
  repeat' (first | with_reducible exact out_keeps ⟨rfl, rfl, rfl⟩ | with_reducible refine out_keeps ?_ | with_reducible refine out_both ?_ ?_ | (solve | simp only [and_self, ↓ite_keeps, ite_self, ↓State.modBond_keeps, ↓State.modTime_keeps]) | with_reducible exact ⟨rfl, rfl, rfl⟩ | exact hf _ | (focus have hk := hf; simp only [↓hk, and_self, ↓ite_keeps, ite_self, ↓State.modBond_keeps, ↓State.modTime_keeps]; done) | split | intro _)

theorem execFrameIn_keeps (slot : Nat) (s : State) :
    ∀ s', (execFrameIn slot s) = .next s' → s'.pending = s.pending ∧ s'.bond.lifecycle = s.bond.lifecycle ∧ s'.time.ns = s.time.ns := by
  rw [execFrameIn.eq_def]; try dsimp only
  repeat' (first | with_reducible exact out_keeps ⟨rfl, rfl, rfl⟩ | with_reducible refine out_keeps ?_ | with_reducible refine out_both ?_ ?_ | (solve | simp only [↓State.complete_keeps, ↓State.withRec_keeps, and_self, ↓ite_keeps, ite_self, ↓State.modBond_keeps, ↓State.modTime_keeps]) | with_reducible exact ⟨rfl, rfl, rfl⟩ | refine State.withRec_keeps _ _ _ _ ?_ | refine State.onKind_keeps _ _ _ _ ?_ _ | split | intro _)

theorem execOpenEnv_keeps (slot : Nat) (s : State) :
    ∀ s', (execOpenEnv slot s) = .next s' → s'.pending = s.pending ∧ s'.bond.lifecycle = s.bond.lifecycle ∧ s'.time.ns = s.time.ns := by
  rw [execOpenEnv.eq_def]; try dsimp only
  repeat' (first | with_reducible exact out_keeps ⟨rfl, rfl, rfl⟩ | with_reducible refine out_keeps ?_ | with_reducible refine out_both ?_ ?_ | (solve | simp only [↓State.complete_keeps, ↓State.epKey_keeps, ↓State.withRec_keeps, and_self, ↓ite_keeps, ite_self, ↓State.modBond_keeps, ↓State.modTime_keeps]) | with_reducible exact ⟨rfl, rfl, rfl⟩ | refine State.withRec_keeps _ _ _ _ ?_ | refine State.onKind_keeps _ _ _ _ ?_ _ | (focus have hk := State.epKey_eq _ _ _ _ _ _ _ (by assumption); simp only [↓hk, ↓State.complete_keeps, ↓State.epKey_keeps, ↓State.withRec_keeps, and_self, ↓ite_keeps, ite_self, ↓State.modBond_keeps, ↓State.modTime_keeps]; done) | split | intro _)

theorem execReplay_keeps (slot : Nat) (s : State) :
    ∀ s', (execReplay slot s) = .next s' → s'.pending = s.pending ∧ s'.bond.lifecycle = s.bond.lifecycle ∧ s'.time.ns = s.time.ns := by
  rw [execReplay.eq_def]; try dsimp only
  repeat' (first | with_reducible exact out_keeps ⟨rfl, rfl, rfl⟩ | with_reducible refine out_keeps ?_ | with_reducible refine out_both ?_ ?_ | (solve | simp only [↓State.complete_keeps, ↓State.withRec_keeps, and_self, ↓ite_keeps, ite_self, ↓State.modBond_keeps, ↓State.modTime_keeps]) | with_reducible exact ⟨rfl, rfl, rfl⟩ | refine State.withRec_keeps _ _ _ _ ?_ | refine State.onKind_keeps _ _ _ _ ?_ _ | split | intro _)

theorem execRejoin_keeps (slot : Nat) (s : State) :
    ∀ s', (execRejoin slot s) = .next s' → s'.pending = s.pending ∧ s'.bond.lifecycle = s.bond.lifecycle ∧ s'.time.ns = s.time.ns := by
  intro s'; first | rw [execRejoin] | rw [execRejoin.eq_def]
  try dsimp only
  repeat' (first | (simp only [↓State.complete_keeps, ↓State.downlink_keeps, ↓State.epKey_keeps, ↓State.withRec_keeps, and_self, ↓ite_fst, ↓ite_keeps, ↓State.modBond_keeps, ↓State.modTime_keeps, ↓foldl_pending, ↓foldl_life, ↓foldl_ns, ↓foldl_fst_pending, ↓foldl_fst_life, ↓foldl_fst_ns, ite_self, implies_true]; done) | with_reducible exact ⟨rfl, rfl, rfl⟩ | (grind only [State.complete_keeps, State.downlink_keeps, State.epKey_keeps, State.withRec_keeps, ite_keeps, State.modBond_keeps, State.modTime_keeps]; done) | (have hk := State.epKey_eq _ _ _ _ _ _ _ (by assumption); simp only [↓hk, ↓State.complete_keeps, ↓State.downlink_keeps, ↓State.epKey_keeps, ↓State.withRec_keeps, and_self, ↓ite_fst, ↓ite_keeps, ↓State.modBond_keeps, ↓State.modTime_keeps, ↓foldl_pending, ↓foldl_life, ↓foldl_ns, ↓foldl_fst_pending, ↓foldl_fst_life, ↓foldl_fst_ns, ite_self, implies_true]; done) | (have hk := State.downlink_eq _ _ _ _ _ _ _ _ (by assumption); simp only [↓hk, ↓State.complete_keeps, ↓State.downlink_keeps, ↓State.epKey_keeps, ↓State.withRec_keeps, and_self, ↓ite_fst, ↓ite_keeps, ↓State.modBond_keeps, ↓State.modTime_keeps, ↓foldl_pending, ↓foldl_life, ↓foldl_ns, ↓foldl_fst_pending, ↓foldl_fst_life, ↓foldl_fst_ns, ite_self, implies_true]; done) | (with_reducible refine out_next (P := fun s' => s'.pending = s.pending ∧ s'.bond.lifecycle = s.bond.lifecycle ∧ s'.time.ns = s.time.ns) ?_) | with_reducible refine out_ite ?_ ?_ | refine State.withRec_keeps _ _ _ _ ?_ | refine State.onKind_keeps _ _ _ _ ?_ _ | (have hk := State.epKey_eq _ _ _ _ _ _ _ (by assumption); simp only [↓hk, ↓State.complete_keeps, ↓State.downlink_keeps, ↓State.epKey_keeps, ↓State.withRec_keeps, and_self, ↓ite_fst, ↓ite_keeps, ↓State.modBond_keeps, ↓State.modTime_keeps, ↓foldl_pending, ↓foldl_life, ↓foldl_ns, ↓foldl_fst_pending, ↓foldl_fst_life, ↓foldl_fst_ns, ite_self, implies_true]) | (have hk := State.downlink_eq _ _ _ _ _ _ _ _ (by assumption); simp only [↓hk, ↓State.complete_keeps, ↓State.downlink_keeps, ↓State.epKey_keeps, ↓State.withRec_keeps, and_self, ↓ite_fst, ↓ite_keeps, ↓State.modBond_keeps, ↓State.modTime_keeps, ↓foldl_pending, ↓foldl_life, ↓foldl_ns, ↓foldl_fst_pending, ↓foldl_fst_life, ↓foldl_fst_ns, ite_self, implies_true]) | refine ⟨((foldl_pending _ _ _ ?_).trans ?_), ((foldl_life _ _ _ ?_).trans ?_), ((foldl_ns _ _ _ ?_).trans ?_)⟩ | refine ⟨((foldl_fst_pending _ _ _ ?_).trans ?_), ((foldl_fst_life _ _ _ ?_).trans ?_), ((foldl_fst_ns _ _ _ ?_).trans ?_)⟩ | refine ((foldl_pending _ _ _ ?_).trans ?_) | refine ((foldl_life _ _ _ ?_).trans ?_) | refine ((foldl_ns _ _ _ ?_).trans ?_) | refine ((foldl_fst_pending _ _ _ ?_).trans ?_) | refine ((foldl_fst_life _ _ _ ?_).trans ?_) | refine ((foldl_fst_ns _ _ _ ?_).trans ?_) | split | intro _ | simp only [↓State.complete_keeps, ↓State.downlink_keeps, ↓State.epKey_keeps, ↓State.withRec_keeps, and_self, ↓ite_fst, ↓ite_keeps, ↓State.modBond_keeps, ↓State.modTime_keeps, ↓foldl_pending, ↓foldl_life, ↓foldl_ns, ↓foldl_fst_pending, ↓foldl_fst_life, ↓foldl_fst_ns, ite_self, implies_true])

theorem execTariff_keeps (slot : Nat) (s : State) :
    ∀ s', (execTariff slot s) = .next s' → s'.pending = s.pending ∧ s'.bond.lifecycle = s.bond.lifecycle ∧ s'.time.ns = s.time.ns := by
  rw [execTariff.eq_def]; try dsimp only
  repeat' (first | with_reducible exact out_keeps ⟨rfl, rfl, rfl⟩ | with_reducible refine out_keeps ?_ | with_reducible refine out_both ?_ ?_ | (solve | simp only [↓State.complete_keeps, and_self, ↓ite_keeps, ite_self, ↓State.modBond_keeps, ↓State.modTime_keeps]) | with_reducible exact ⟨rfl, rfl, rfl⟩ | refine State.onKind_keeps _ _ _ _ ?_ _ | split | intro _)

theorem execProfile_keeps (slot : Nat) (s : State) :
    ∀ s', (execProfile slot s) = .next s' → s'.pending = s.pending ∧ s'.bond.lifecycle = s.bond.lifecycle ∧ s'.time.ns = s.time.ns := by
  rw [execProfile.eq_def]; try dsimp only
  repeat' (first | with_reducible exact out_keeps ⟨rfl, rfl, rfl⟩ | with_reducible refine out_keeps ?_ | with_reducible refine out_both ?_ ?_ | (solve | simp only [↓State.complete_keeps, and_self, ↓ite_keeps, ite_self, ↓State.modBond_keeps, ↓State.modTime_keeps]) | with_reducible exact ⟨rfl, rfl, rfl⟩ | refine State.onKind_keeps _ _ _ _ ?_ _ | split | intro _)

theorem execAlarm_keeps (slot : Nat) (s : State) :
    ∀ s', (execAlarm slot s) = .next s' → s'.pending = s.pending ∧ s'.bond.lifecycle = s.bond.lifecycle ∧ s'.time.ns = s.time.ns := by
  rw [execAlarm.eq_def]; try dsimp only
  repeat' (first | with_reducible exact out_keeps ⟨rfl, rfl, rfl⟩ | with_reducible refine out_keeps ?_ | with_reducible refine out_both ?_ ?_ | (solve | simp only [↓State.complete_keeps, and_self, ↓ite_keeps, ite_self, ↓State.modBond_keeps, ↓State.modTime_keeps]) | with_reducible exact ⟨rfl, rfl, rfl⟩ | refine State.onKind_keeps _ _ _ _ ?_ _ | split | intro _)

theorem execHostMsg_keeps (slot : Nat) (s : State) :
    ∀ s', (execHostMsg slot s) = .next s' → s'.pending = s.pending ∧ s'.bond.lifecycle = s.bond.lifecycle ∧ s'.time.ns = s.time.ns := by
  rw [execHostMsg.eq_def]; try dsimp only
  repeat' (first | with_reducible exact out_keeps ⟨rfl, rfl, rfl⟩ | with_reducible refine out_keeps ?_ | with_reducible refine out_both ?_ ?_ | (solve | simp only [↓State.complete_keeps, and_self, ↓ite_keeps, ite_self, ↓State.modBond_keeps, ↓State.modTime_keeps]) | with_reducible exact ⟨rfl, rfl, rfl⟩ | refine State.onKind_keeps _ _ _ _ ?_ _ | split | intro _)

end Sys2Proof.Machine
end

