-- ==== Sys2Proof/Laws/KeepBalance.lean ====
section
/-!
SUPPORT. What the operations of Machine/Balance.lean leave alone: the queue, the life cycle and the timebase.
-/
set_option linter.unusedSimpArgs false

namespace Sys2Proof.Machine

theorem State.onBal_keeps (s : State) (n op : Nat) (f : Manifest → State) (hf : ∀ (a0 : Manifest), (f a0).pending = s.pending ∧ (f a0).bond.lifecycle = s.bond.lifecycle ∧ (f a0).time.ns = s.time.ns) :
    ∀ s', (State.onBal s n op f) = .next s' → s'.pending = s.pending ∧ s'.bond.lifecycle = s.bond.lifecycle ∧ s'.time.ns = s.time.ns := by
  rw [State.onBal.eq_def]; try dsimp only
  repeat' (first | with_reducible exact out_keeps ⟨rfl, rfl, rfl⟩ | with_reducible refine out_keeps ?_ | with_reducible refine out_both ?_ ?_ | (solve | simp only [↓State.complete_keeps, and_self, ↓ite_keeps, ite_self, ↓State.modBond_keeps, ↓State.modTime_keeps]) | with_reducible exact ⟨rfl, rfl, rfl⟩ | refine State.onKind_keeps _ _ _ _ ?_ _ | exact hf _ | (focus have hk := hf; simp only [↓hk, ↓State.complete_keeps, and_self, ↓ite_keeps, ite_self, ↓State.modBond_keeps, ↓State.modTime_keeps]; done) | split | intro _)

theorem execBalanceSeries_keeps (slot : Nat) (s : State) :
    ∀ s', (execBalanceSeries slot s) = .next s' → s'.pending = s.pending ∧ s'.bond.lifecycle = s.bond.lifecycle ∧ s'.time.ns = s.time.ns := by
  rw [execBalanceSeries.eq_def]; try dsimp only
  repeat' (first | with_reducible exact out_keeps ⟨rfl, rfl, rfl⟩ | with_reducible refine out_keeps ?_ | with_reducible refine out_both ?_ ?_ | (solve | simp only [↓State.withRecs_keeps, and_self, ↓ite_keeps, ite_self, ↓State.modBond_keeps, ↓State.modTime_keeps]) | with_reducible exact ⟨rfl, rfl, rfl⟩ | refine State.withRecs_keeps _ _ _ _ _ ?_ | refine State.onBal_keeps _ _ _ _ ?_ _ | split | intro _)

theorem execBalanceRef_keeps (slot : Nat) (s : State) :
    ∀ s', (execBalanceRef slot s) = .next s' → s'.pending = s.pending ∧ s'.bond.lifecycle = s.bond.lifecycle ∧ s'.time.ns = s.time.ns := by
  rw [execBalanceRef.eq_def]; try dsimp only
  repeat' (first | with_reducible exact out_keeps ⟨rfl, rfl, rfl⟩ | with_reducible refine out_keeps ?_ | with_reducible refine out_both ?_ ?_ | (solve | simp only [↓State.complete_keeps, and_self, ↓ite_keeps, ite_self, ↓State.modBond_keeps, ↓State.modTime_keeps]) | with_reducible exact ⟨rfl, rfl, rfl⟩ | refine State.onBal_keeps _ _ _ _ ?_ _ | split | intro _)

theorem State.evalHour_keeps (s : State) (x : Grp) (g : GBlock) (h bound complete : Nat) (sum : Int) :
    (State.evalHour s x g h bound complete sum).1.pending = s.pending ∧ (State.evalHour s x g h bound complete sum).1.bond.lifecycle = s.bond.lifecycle ∧ (State.evalHour s x g h bound complete sum).1.time.ns = s.time.ns := by
  rw [State.evalHour]; simp only [↓State.fresh_keeps, and_self, ↓ite_fst, ↓ite_keeps, ↓State.modBond_keeps, ↓State.modTime_keeps, ↓foldl_pending, ↓foldl_life, ↓foldl_ns, ↓foldl_fst_pending, ↓foldl_fst_life, ↓foldl_fst_ns, ite_self, implies_true]

theorem State.evalHour_eq (s : State) (x : Grp) (g : GBlock) (h bound complete : Nat) (sum : Int) (s' : State) (x' : GBlock × List Effect) (he : (State.evalHour s x g h bound complete sum) = (s', x')) :
    s'.pending = s.pending ∧ s'.bond.lifecycle = s.bond.lifecycle ∧ s'.time.ns = s.time.ns := by
  have hk := State.evalHour_keeps s x g h bound complete sum; rw [he] at hk; exact hk

theorem execBalanceHour_keeps (slot : Nat) (s : State) :
    ∀ s', (execBalanceHour slot s) = .next s' → s'.pending = s.pending ∧ s'.bond.lifecycle = s.bond.lifecycle ∧ s'.time.ns = s.time.ns := by
  rw [execBalanceHour.eq_def]; try dsimp only
  repeat' (first | with_reducible exact out_keeps ⟨rfl, rfl, rfl⟩ | with_reducible refine out_keeps ?_ | with_reducible refine out_both ?_ ?_ | (solve | simp only [↓State.complete_keeps, ↓State.evalHour_keeps, and_self, ↓ite_keeps, ite_self, ↓State.modBond_keeps, ↓State.modTime_keeps]) | with_reducible exact ⟨rfl, rfl, rfl⟩ | refine State.onBal_keeps _ _ _ _ ?_ _ | (focus have hk := State.evalHour_eq _ _ _ _ _ _ _ _ _ (by assumption); simp only [↓hk, ↓State.complete_keeps, ↓State.evalHour_keeps, and_self, ↓ite_keeps, ite_self, ↓State.modBond_keeps, ↓State.modTime_keeps]; done) | split | intro _)

theorem State.inferNone_keeps (s : State) (n d : Nat) :
    (State.inferNone s n d).1.pending = s.pending ∧ (State.inferNone s n d).1.bond.lifecycle = s.bond.lifecycle ∧ (State.inferNone s n d).1.time.ns = s.time.ns := by
  with_reducible exact ⟨rfl, rfl, rfl⟩

theorem State.inferNone_eq (s : State) (n d : Nat) (s' : State) (x' : TopoRes) (he : (State.inferNone s n d) = (s', x')) :
    s'.pending = s.pending ∧ s'.bond.lifecycle = s.bond.lifecycle ∧ s'.time.ns = s.time.ns := by
  have hk := State.inferNone_keeps s n d; rw [he] at hk; exact hk

theorem State.inferBest_keeps (s : State) (x : Grp) (cs : List (Nat × Nat)) (rs : List (Nat × (Int × Nat))) (k : Nat) (rb : Int × Nat) (n d : Nat) :
    (State.inferBest s x cs rs k rb n d).1.pending = s.pending ∧ (State.inferBest s x cs rs k rb n d).1.bond.lifecycle = s.bond.lifecycle ∧ (State.inferBest s x cs rs k rb n d).1.time.ns = s.time.ns := by
  rw [State.inferBest.eq_def]; try dsimp only
  repeat' (first | (solve | simp only [↓State.fresh_keeps, and_self, ↓ite_fst, ↓ite_keeps, ↓State.modBond_keeps, ↓State.modTime_keeps, ↓foldl_pending, ↓foldl_life, ↓foldl_ns, ↓foldl_fst_pending, ↓foldl_fst_life, ↓foldl_fst_ns, ite_self, implies_true]) | with_reducible exact ⟨rfl, rfl, rfl⟩ | refine ⟨foldl_pending _ _ _ ?_, foldl_life _ _ _ ?_, foldl_ns _ _ _ ?_⟩ | split | intro _)

theorem State.inferBest_eq (s : State) (x : Grp) (cs : List (Nat × Nat)) (rs : List (Nat × (Int × Nat))) (k : Nat) (rb : Int × Nat) (n d : Nat) (s' : State) (x' : TopoRes) (he : (State.inferBest s x cs rs k rb n d) = (s', x')) :
    s'.pending = s.pending ∧ s'.bond.lifecycle = s.bond.lifecycle ∧ s'.time.ns = s.time.ns := by
  have hk := State.inferBest_keeps s x cs rs k rb n d; rw [he] at hk; exact hk

theorem State.inferRow_keeps (s : State) (x : Grp) (d : Nat) (r : MRow) :
    (State.inferRow s x d r).1.pending = s.pending ∧ (State.inferRow s x d r).1.bond.lifecycle = s.bond.lifecycle ∧ (State.inferRow s x d r).1.time.ns = s.time.ns := by
  rw [State.inferRow.eq_def]; try dsimp only
  repeat' (first | (solve | simp only [↓State.inferBest_keeps, ↓State.inferNone_keeps, and_self, ↓ite_fst, ↓ite_keeps, ↓State.modBond_keeps, ↓State.modTime_keeps, ↓foldl_pending, ↓foldl_life, ↓foldl_ns, ↓foldl_fst_pending, ↓foldl_fst_life, ↓foldl_fst_ns, ite_self, implies_true]) | with_reducible exact ⟨rfl, rfl, rfl⟩ | refine ⟨foldl_pending _ _ _ ?_, foldl_life _ _ _ ?_, foldl_ns _ _ _ ?_⟩ | split | intro _)

theorem State.inferRow_eq (s : State) (x : Grp) (d : Nat) (r : MRow) (s' : State) (x' : TopoRes) (he : (State.inferRow s x d r) = (s', x')) :
    s'.pending = s.pending ∧ s'.bond.lifecycle = s.bond.lifecycle ∧ s'.time.ns = s.time.ns := by
  have hk := State.inferRow_keeps s x d r; rw [he] at hk; exact hk

theorem execBalanceTopo_keeps (slot : Nat) (s : State) :
    ∀ s', (execBalanceTopo slot s) = .next s' → s'.pending = s.pending ∧ s'.bond.lifecycle = s.bond.lifecycle ∧ s'.time.ns = s.time.ns := by
  intro s'; first | rw [execBalanceTopo] | rw [execBalanceTopo.eq_def]
  try dsimp only
  repeat' (first | (simp only [↓State.complete_keeps, ↓State.inferRow_keeps, and_self, ↓ite_fst, ↓ite_keeps, ↓State.modBond_keeps, ↓State.modTime_keeps, ↓foldl_pending, ↓foldl_life, ↓foldl_ns, ↓foldl_fst_pending, ↓foldl_fst_life, ↓foldl_fst_ns, ite_self, implies_true]; done) | with_reducible exact ⟨rfl, rfl, rfl⟩ | (grind only [State.complete_keeps, State.inferRow_keeps, ite_keeps, State.modBond_keeps, State.modTime_keeps]; done) | (have hk := State.inferRow_eq _ _ _ _ _ _ (by assumption); simp only [↓hk, ↓State.complete_keeps, ↓State.inferRow_keeps, and_self, ↓ite_fst, ↓ite_keeps, ↓State.modBond_keeps, ↓State.modTime_keeps, ↓foldl_pending, ↓foldl_life, ↓foldl_ns, ↓foldl_fst_pending, ↓foldl_fst_life, ↓foldl_fst_ns, ite_self, implies_true]; done) | (with_reducible refine out_next (P := fun s' => s'.pending = s.pending ∧ s'.bond.lifecycle = s.bond.lifecycle ∧ s'.time.ns = s.time.ns) ?_) | with_reducible refine out_ite ?_ ?_ | refine State.onBal_keeps _ _ _ _ ?_ _ | (have hk := State.inferRow_eq _ _ _ _ _ _ (by assumption); simp only [↓hk, ↓State.complete_keeps, ↓State.inferRow_keeps, and_self, ↓ite_fst, ↓ite_keeps, ↓State.modBond_keeps, ↓State.modTime_keeps, ↓foldl_pending, ↓foldl_life, ↓foldl_ns, ↓foldl_fst_pending, ↓foldl_fst_life, ↓foldl_fst_ns, ite_self, implies_true]) | refine ⟨((foldl_pending _ _ _ ?_).trans ?_), ((foldl_life _ _ _ ?_).trans ?_), ((foldl_ns _ _ _ ?_).trans ?_)⟩ | refine ⟨((foldl_fst_pending _ _ _ ?_).trans ?_), ((foldl_fst_life _ _ _ ?_).trans ?_), ((foldl_fst_ns _ _ _ ?_).trans ?_)⟩ | refine ((foldl_pending _ _ _ ?_).trans ?_) | refine ((foldl_life _ _ _ ?_).trans ?_) | refine ((foldl_ns _ _ _ ?_).trans ?_) | refine ((foldl_fst_pending _ _ _ ?_).trans ?_) | refine ((foldl_fst_life _ _ _ ?_).trans ?_) | refine ((foldl_fst_ns _ _ _ ?_).trans ?_) | split | intro _ | simp only [↓State.complete_keeps, ↓State.inferRow_keeps, and_self, ↓ite_fst, ↓ite_keeps, ↓State.modBond_keeps, ↓State.modTime_keeps, ↓foldl_pending, ↓foldl_life, ↓foldl_ns, ↓foldl_fst_pending, ↓foldl_fst_life, ↓foldl_fst_ns, ite_self, implies_true])

theorem execBalanceSet_keeps (slot : Nat) (s : State) :
    ∀ s', (execBalanceSet slot s) = .next s' → s'.pending = s.pending ∧ s'.bond.lifecycle = s.bond.lifecycle ∧ s'.time.ns = s.time.ns := by
  rw [execBalanceSet.eq_def]; try dsimp only
  repeat' (first | with_reducible exact out_keeps ⟨rfl, rfl, rfl⟩ | with_reducible refine out_keeps ?_ | with_reducible refine out_both ?_ ?_ | (solve | simp only [↓State.complete_keeps, and_self, ↓ite_keeps, ite_self, ↓State.modBond_keeps, ↓State.modTime_keeps]) | with_reducible exact ⟨rfl, rfl, rfl⟩ | refine State.onBal_keeps _ _ _ _ ?_ _ | split | intro _)

theorem State.endQuery_keeps (s : State) (result : Nat) :
    (State.endQuery s result).pending = s.pending ∧ (State.endQuery s result).bond.lifecycle = s.bond.lifecycle ∧ (State.endQuery s result).time.ns = s.time.ns := by
  with_reducible exact ⟨rfl, rfl, rfl⟩

theorem State.onQuery_keeps (s : State) (val : Word) (op : Nat) (f : Nat → State) (hf : ∀ (a0 : Nat), (f a0).pending = s.pending ∧ (f a0).bond.lifecycle = s.bond.lifecycle ∧ (f a0).time.ns = s.time.ns) :
    ∀ s', (State.onQuery s val op f) = .next s' → s'.pending = s.pending ∧ s'.bond.lifecycle = s.bond.lifecycle ∧ s'.time.ns = s.time.ns := by
  rw [State.onQuery.eq_def]; try dsimp only
  repeat' (first | with_reducible exact out_keeps ⟨rfl, rfl, rfl⟩ | with_reducible refine out_keeps ?_ | with_reducible refine out_both ?_ ?_ | (solve | simp only [and_self, ↓ite_keeps, ite_self, ↓State.modBond_keeps, ↓State.modTime_keeps]) | with_reducible exact ⟨rfl, rfl, rfl⟩ | exact hf _ | (focus have hk := hf; simp only [↓hk, and_self, ↓ite_keeps, ite_self, ↓State.modBond_keeps, ↓State.modTime_keeps]; done) | split | intro _)

theorem State.queryData_keeps (s : State) (ws : List Nat) :
    (State.queryData s ws).pending = s.pending ∧ (State.queryData s ws).bond.lifecycle = s.bond.lifecycle ∧ (State.queryData s ws).time.ns = s.time.ns := by
  with_reducible exact ⟨rfl, rfl, rfl⟩

theorem execBalQueryGroup_keeps (val : Word) (s : State) :
    ∀ s', (execBalQueryGroup val s) = .next s' → s'.pending = s.pending ∧ s'.bond.lifecycle = s.bond.lifecycle ∧ s'.time.ns = s.time.ns := by
  rw [execBalQueryGroup.eq_def]; try dsimp only
  repeat' (first | with_reducible exact out_keeps ⟨rfl, rfl, rfl⟩ | with_reducible refine out_keeps ?_ | with_reducible refine out_both ?_ ?_ | (solve | simp only [↓State.complete_keeps, ↓State.endQuery_keeps, ↓State.queryData_keeps, and_self, ↓ite_keeps, ite_self, ↓State.modBond_keeps, ↓State.modTime_keeps]) | with_reducible exact ⟨rfl, rfl, rfl⟩ | refine State.onQuery_keeps _ _ _ _ ?_ _ | split | intro _)

theorem execBalQueryMember_keeps (val : Word) (s : State) :
    ∀ s', (execBalQueryMember val s) = .next s' → s'.pending = s.pending ∧ s'.bond.lifecycle = s.bond.lifecycle ∧ s'.time.ns = s.time.ns := by
  rw [execBalQueryMember.eq_def]; try dsimp only
  repeat' (first | with_reducible exact out_keeps ⟨rfl, rfl, rfl⟩ | with_reducible refine out_keeps ?_ | with_reducible refine out_both ?_ ?_ | (solve | simp only [↓State.endQuery_keeps, ↓State.queryData_keeps, and_self, ↓ite_keeps, ite_self, ↓State.modBond_keeps, ↓State.modTime_keeps]) | with_reducible exact ⟨rfl, rfl, rfl⟩ | refine State.onQuery_keeps _ _ _ _ ?_ _ | split | intro _)

theorem State.makeBalSet_keeps (s : State) (op g target : Nat) :
    (State.makeBalSet s op g target).pending = s.pending ∧ (State.makeBalSet s op g target).bond.lifecycle = s.bond.lifecycle ∧ (State.makeBalSet s op g target).time.ns = s.time.ns := by
  rw [State.makeBalSet]; simp only [↓State.create_keeps, ↓State.endQuery_keeps, ↓State.set_keeps, and_self, ↓ite_keeps, ite_self, ↓State.modBond_keeps, ↓State.modTime_keeps]

theorem State.rowSet_keeps (s : State) (op epx : Nat) :
    (State.rowSet s op epx).pending = s.pending ∧ (State.rowSet s op epx).bond.lifecycle = s.bond.lifecycle ∧ (State.rowSet s op epx).time.ns = s.time.ns := by
  rw [State.rowSet.eq_def]; repeat' (first | (solve | simp only [↓State.endQuery_keeps, ↓State.makeBalSet_keeps, and_self, ↓ite_keeps, ite_self, ↓State.modBond_keeps, ↓State.modTime_keeps]) | with_reducible exact ⟨rfl, rfl, rfl⟩ | split)

theorem execBalSetFlags_keeps (val : Word) (s : State) :
    ∀ s', (execBalSetFlags val s) = .next s' → s'.pending = s.pending ∧ s'.bond.lifecycle = s.bond.lifecycle ∧ s'.time.ns = s.time.ns := by
  rw [execBalSetFlags.eq_def]; try dsimp only
  repeat' (first | with_reducible exact out_keeps ⟨rfl, rfl, rfl⟩ | with_reducible refine out_keeps ?_ | with_reducible refine out_both ?_ ?_ | (solve | simp only [↓State.rowSet_keeps, and_self, ↓ite_keeps, ite_self, ↓State.modBond_keeps, ↓State.modTime_keeps]) | with_reducible exact ⟨rfl, rfl, rfl⟩ | refine State.onQuery_keeps _ _ _ _ ?_ _ | split | intro _)

theorem execBalSetBase_keeps (val : Word) (s : State) :
    ∀ s', (execBalSetBase val s) = .next s' → s'.pending = s.pending ∧ s'.bond.lifecycle = s.bond.lifecycle ∧ s'.time.ns = s.time.ns := by
  rw [execBalSetBase.eq_def]; try dsimp only
  repeat' (first | with_reducible exact out_keeps ⟨rfl, rfl, rfl⟩ | with_reducible refine out_keeps ?_ | with_reducible refine out_both ?_ ?_ | (solve | simp only [↓State.endQuery_keeps, ↓State.makeBalSet_keeps, and_self, ↓ite_keeps, ite_self, ↓State.modBond_keeps, ↓State.modTime_keeps]) | with_reducible exact ⟨rfl, rfl, rfl⟩ | refine State.onQuery_keeps _ _ _ _ ?_ _ | split | intro _)

theorem execBalUnbind_keeps (val : Word) (s : State) :
    ∀ s', (execBalUnbind val s) = .next s' → s'.pending = s.pending ∧ s'.bond.lifecycle = s.bond.lifecycle ∧ s'.time.ns = s.time.ns := by
  rw [execBalUnbind.eq_def]; try dsimp only
  repeat' (first | with_reducible exact out_keeps ⟨rfl, rfl, rfl⟩ | with_reducible refine out_keeps ?_ | with_reducible refine out_both ?_ ?_ | (solve | simp only [↓State.rowSet_keeps, and_self, ↓ite_keeps, ite_self, ↓State.modBond_keeps, ↓State.modTime_keeps]) | with_reducible exact ⟨rfl, rfl, rfl⟩ | refine State.onQuery_keeps _ _ _ _ ?_ _ | split | intro _)

theorem execRefMinuteDue_keeps (s : State) :
    ∀ s', (execRefMinuteDue s) = .next s' → s'.pending = s.pending ∧ s'.bond.lifecycle = s.bond.lifecycle ∧ s'.time.ns = s.time.ns := by
  rw [execRefMinuteDue.eq_def]; repeat' (first | with_reducible exact out_keeps ⟨rfl, rfl, rfl⟩ | with_reducible refine out_keeps ?_ | with_reducible refine out_both ?_ ?_ | (solve | simp only [↓State.fifoPut_keeps, ↓State.modBal_keeps, and_self]) | split)

theorem State.makeHour_keeps (s : State) (h : Nat) :
    (State.makeHour s h).pending = s.pending ∧ (State.makeHour s h).bond.lifecycle = s.bond.lifecycle ∧ (State.makeHour s h).time.ns = s.time.ns := by
  rw [State.makeHour]; simp only [↓State.make_keeps, ↓State.modBal_keeps, ↓State.raise_keeps, ↓State.set_keeps, and_self, ↓ite_fst, ↓ite_keeps, ↓State.modBond_keeps, ↓State.modTime_keeps, ↓foldl_pending, ↓foldl_life, ↓foldl_ns, ↓foldl_fst_pending, ↓foldl_fst_life, ↓foldl_fst_ns, ite_self, implies_true]

theorem execHourDue_keeps (s : State) :
    ∀ s', (execHourDue s) = .next s' → s'.pending = s.pending ∧ s'.bond.lifecycle = s.bond.lifecycle ∧ s'.time.ns = s.time.ns := by
  intro s'; first | rw [execHourDue] | rw [execHourDue.eq_def]
  try dsimp only
  repeat' (first | (simp only [↓State.makeHour_keeps, and_self, ↓ite_fst, ↓ite_keeps, ↓State.modBond_keeps, ↓State.modTime_keeps, ↓foldl_pending, ↓foldl_life, ↓foldl_ns, ↓foldl_fst_pending, ↓foldl_fst_life, ↓foldl_fst_ns, ite_self, implies_true]; done) | with_reducible exact ⟨rfl, rfl, rfl⟩ | (grind only [State.makeHour_keeps, ite_keeps, State.modBond_keeps, State.modTime_keeps]; done) | (with_reducible refine out_next (P := fun s' => s'.pending = s.pending ∧ s'.bond.lifecycle = s.bond.lifecycle ∧ s'.time.ns = s.time.ns) ?_) | with_reducible refine out_ite ?_ ?_ | refine ⟨((foldl_pending _ _ _ ?_).trans ?_), ((foldl_life _ _ _ ?_).trans ?_), ((foldl_ns _ _ _ ?_).trans ?_)⟩ | refine ⟨((foldl_fst_pending _ _ _ ?_).trans ?_), ((foldl_fst_life _ _ _ ?_).trans ?_), ((foldl_fst_ns _ _ _ ?_).trans ?_)⟩ | refine ((foldl_pending _ _ _ ?_).trans ?_) | refine ((foldl_life _ _ _ ?_).trans ?_) | refine ((foldl_ns _ _ _ ?_).trans ?_) | refine ((foldl_fst_pending _ _ _ ?_).trans ?_) | refine ((foldl_fst_life _ _ _ ?_).trans ?_) | refine ((foldl_fst_ns _ _ _ ?_).trans ?_) | split | intro _ | simp only [↓State.makeHour_keeps, and_self, ↓ite_fst, ↓ite_keeps, ↓State.modBond_keeps, ↓State.modTime_keeps, ↓foldl_pending, ↓foldl_life, ↓foldl_ns, ↓foldl_fst_pending, ↓foldl_fst_life, ↓foldl_fst_ns, ite_self, implies_true])

theorem State.makeTopo_keeps (s : State) (d : Nat) :
    (State.makeTopo s d).pending = s.pending ∧ (State.makeTopo s d).bond.lifecycle = s.bond.lifecycle ∧ (State.makeTopo s d).time.ns = s.time.ns := by
  rw [State.makeTopo]; simp only [↓State.make_keeps, ↓State.modBal_keeps, ↓State.set_keeps, and_self, ↓ite_fst, ↓ite_keeps, ↓State.modBond_keeps, ↓State.modTime_keeps, ↓foldl_pending, ↓foldl_life, ↓foldl_ns, ↓foldl_fst_pending, ↓foldl_fst_life, ↓foldl_fst_ns, ite_self, implies_true]

theorem execTopoDue_keeps (s : State) :
    ∀ s', (execTopoDue s) = .next s' → s'.pending = s.pending ∧ s'.bond.lifecycle = s.bond.lifecycle ∧ s'.time.ns = s.time.ns := by
  rw [execTopoDue.eq_def]; repeat' (first | with_reducible exact out_keeps ⟨rfl, rfl, rfl⟩ | with_reducible refine out_keeps ?_ | with_reducible refine out_both ?_ ?_ | (solve | simp only [↓State.makeTopo_keeps, and_self, ↓ite_fst, ↓ite_keeps, ↓State.modBond_keeps, ↓State.modTime_keeps, ↓foldl_pending, ↓foldl_life, ↓foldl_ns, ↓foldl_fst_pending, ↓foldl_fst_life, ↓foldl_fst_ns, ite_self, implies_true]) | split)

theorem State.balReleased_keeps (s : State) (m : Manifest) (ok : Bool) :
    (State.balReleased s m ok).pending = s.pending ∧ (State.balReleased s m ok).bond.lifecycle = s.bond.lifecycle ∧ (State.balReleased s m ok).time.ns = s.time.ns := by
  rw [State.balReleased]; simp only [↓State.endQuery_keeps, ↓State.modBal_keeps, ↓State.raise_keeps, and_self, ↓ite_keeps, ite_self, ↓State.modBond_keeps, ↓State.modTime_keeps]

theorem State.balStart_keeps (s : State) :
    (State.balStart s).pending = s.pending ∧ (State.balStart s).bond.lifecycle = s.bond.lifecycle ∧ (State.balStart s).time.ns = s.time.ns := by
  first | rw [State.balStart] | rw [State.balStart.eq_def]
  try dsimp only
  repeat' (first | (simp only [↓State.modBal_keeps, and_self, ↓ite_fst, ↓ite_keeps, ↓State.modBond_keeps, ↓State.modTime_keeps, ↓foldl_pending, ↓foldl_life, ↓foldl_ns, ↓foldl_fst_pending, ↓foldl_fst_life, ↓foldl_fst_ns, ite_self, implies_true]; done) | with_reducible exact ⟨rfl, rfl, rfl⟩ | (grind only [State.modBal_keeps, ite_keeps, State.modBond_keeps, State.modTime_keeps]; done) | refine ⟨((foldl_pending _ _ _ ?_).trans ?_), ((foldl_life _ _ _ ?_).trans ?_), ((foldl_ns _ _ _ ?_).trans ?_)⟩ | refine ⟨((foldl_fst_pending _ _ _ ?_).trans ?_), ((foldl_fst_life _ _ _ ?_).trans ?_), ((foldl_fst_ns _ _ _ ?_).trans ?_)⟩ | refine ((foldl_pending _ _ _ ?_).trans ?_) | refine ((foldl_life _ _ _ ?_).trans ?_) | refine ((foldl_ns _ _ _ ?_).trans ?_) | refine ((foldl_fst_pending _ _ _ ?_).trans ?_) | refine ((foldl_fst_life _ _ _ ?_).trans ?_) | refine ((foldl_fst_ns _ _ _ ?_).trans ?_) | split | intro _ | simp only [↓State.modBal_keeps, and_self, ↓ite_fst, ↓ite_keeps, ↓State.modBond_keeps, ↓State.modTime_keeps, ↓foldl_pending, ↓foldl_life, ↓foldl_ns, ↓foldl_fst_pending, ↓foldl_fst_life, ↓foldl_fst_ns, ite_self, implies_true])

theorem State.balOff_keeps (s : State) :
    (State.balOff s).pending = s.pending ∧ (State.balOff s).bond.lifecycle = s.bond.lifecycle ∧ (State.balOff s).time.ns = s.time.ns := by
  rw [State.balOff]; simp only [↓State.endQuery_keeps, and_self, ↓ite_keeps, ite_self, ↓State.modBond_keeps, ↓State.modTime_keeps]

theorem State.balConfig_keeps (s : State) :
    (State.balConfig s).pending = s.pending ∧ (State.balConfig s).bond.lifecycle = s.bond.lifecycle ∧ (State.balConfig s).time.ns = s.time.ns := by
  rw [State.balConfig]; simp only [↓State.set_keeps, and_self]

theorem State.balDelta_keeps (old : State) (s : State) :
    (State.balDelta old s).pending = s.pending ∧ (State.balDelta old s).bond.lifecycle = s.bond.lifecycle ∧ (State.balDelta old s).time.ns = s.time.ns := by
  rw [State.balDelta.eq_def]; try dsimp only
  repeat' (first | (solve | simp only [↓State.modBal_keeps, and_self, ↓ite_fst, ↓ite_keeps, ↓State.modBond_keeps, ↓State.modTime_keeps, ↓foldl_pending, ↓foldl_life, ↓foldl_ns, ↓foldl_fst_pending, ↓foldl_fst_life, ↓foldl_fst_ns, ite_self, implies_true]) | with_reducible exact ⟨rfl, rfl, rfl⟩ | refine ⟨foldl_pending _ _ _ ?_, foldl_life _ _ _ ?_, foldl_ns _ _ _ ?_⟩ | split | intro _)

end Sys2Proof.Machine
end

