-- ==== Sys2Proof/Laws/KeepStoreBlocks.lean ====
section
/-!
SUPPORT. What the operations of Machine/StoreBlocks.lean leave alone: the queue, the life cycle and the timebase.
-/
set_option linter.unusedSimpArgs false

namespace Sys2Proof.Machine

theorem State.setStore_keeps (s : State) (v : Nat) :
    (State.setStore s v).pending = s.pending ∧ (State.setStore s v).bond.lifecycle = s.bond.lifecycle ∧ (State.setStore s v).time.ns = s.time.ns := by
  with_reducible exact ⟨rfl, rfl, rfl⟩

theorem State.modMap_keeps (s : State) (part : Nat) (f : StoreMap → StoreMap) :
    (State.modMap s part f).pending = s.pending ∧ (State.modMap s part f).bond.lifecycle = s.bond.lifecycle ∧ (State.modMap s part f).time.ns = s.time.ns := by
  first | rw [State.modMap] | rw [State.modMap.eq_def]
  try dsimp only
  repeat' (first | (simp only [↓State.modStore_keeps, and_self, ↓ite_fst, ↓ite_keeps, ↓State.modBond_keeps, ↓State.modTime_keeps, ↓foldl_pending, ↓foldl_life, ↓foldl_ns, ↓foldl_fst_pending, ↓foldl_fst_life, ↓foldl_fst_ns, ite_self, implies_true]; done) | with_reducible exact ⟨rfl, rfl, rfl⟩ | (grind only [State.modStore_keeps, ite_keeps, State.modBond_keeps, State.modTime_keeps]; done) | refine ⟨((foldl_pending _ _ _ ?_).trans ?_), ((foldl_life _ _ _ ?_).trans ?_), ((foldl_ns _ _ _ ?_).trans ?_)⟩ | refine ⟨((foldl_fst_pending _ _ _ ?_).trans ?_), ((foldl_fst_life _ _ _ ?_).trans ?_), ((foldl_fst_ns _ _ _ ?_).trans ?_)⟩ | refine ((foldl_pending _ _ _ ?_).trans ?_) | refine ((foldl_life _ _ _ ?_).trans ?_) | refine ((foldl_ns _ _ _ ?_).trans ?_) | refine ((foldl_fst_pending _ _ _ ?_).trans ?_) | refine ((foldl_fst_life _ _ _ ?_).trans ?_) | refine ((foldl_fst_ns _ _ _ ?_).trans ?_) | split | intro _ | simp only [↓State.modStore_keeps, and_self, ↓ite_fst, ↓ite_keeps, ↓State.modBond_keeps, ↓State.modTime_keeps, ↓foldl_pending, ↓foldl_life, ↓foldl_ns, ↓foldl_fst_pending, ↓foldl_fst_life, ↓foldl_fst_ns, ite_self, implies_true])

theorem State.mapNote_keeps (s : State) (e : MapEntry) :
    (State.mapNote s e).pending = s.pending ∧ (State.mapNote s e).bond.lifecycle = s.bond.lifecycle ∧ (State.mapNote s e).time.ns = s.time.ns := by
  first | rw [State.mapNote] | rw [State.mapNote.eq_def]
  try dsimp only
  repeat' (first | (simp only [↓State.modMap_keeps, ↓State.modStore_keeps, and_self, ↓ite_fst, ↓ite_keeps, ↓State.modBond_keeps, ↓State.modTime_keeps, ↓foldl_pending, ↓foldl_life, ↓foldl_ns, ↓foldl_fst_pending, ↓foldl_fst_life, ↓foldl_fst_ns, ite_self, implies_true]; done) | with_reducible exact ⟨rfl, rfl, rfl⟩ | (grind only [State.modMap_keeps, State.modStore_keeps, ite_keeps, State.modBond_keeps, State.modTime_keeps]; done) | refine ⟨((foldl_pending _ _ _ ?_).trans ?_), ((foldl_life _ _ _ ?_).trans ?_), ((foldl_ns _ _ _ ?_).trans ?_)⟩ | refine ⟨((foldl_fst_pending _ _ _ ?_).trans ?_), ((foldl_fst_life _ _ _ ?_).trans ?_), ((foldl_fst_ns _ _ _ ?_).trans ?_)⟩ | refine ((foldl_pending _ _ _ ?_).trans ?_) | refine ((foldl_life _ _ _ ?_).trans ?_) | refine ((foldl_ns _ _ _ ?_).trans ?_) | refine ((foldl_fst_pending _ _ _ ?_).trans ?_) | refine ((foldl_fst_life _ _ _ ?_).trans ?_) | refine ((foldl_fst_ns _ _ _ ?_).trans ?_) | split | intro _ | simp only [↓State.modMap_keeps, ↓State.modStore_keeps, and_self, ↓ite_fst, ↓ite_keeps, ↓State.modBond_keeps, ↓State.modTime_keeps, ↓foldl_pending, ↓foldl_life, ↓foldl_ns, ↓foldl_fst_pending, ↓foldl_fst_life, ↓foldl_fst_ns, ite_self, implies_true])

theorem State.mapAdvance_keeps (s : State) :
    (State.mapAdvance s).pending = s.pending ∧ (State.mapAdvance s).bond.lifecycle = s.bond.lifecycle ∧ (State.mapAdvance s).time.ns = s.time.ns := by
  first | rw [State.mapAdvance] | rw [State.mapAdvance.eq_def]
  try dsimp only
  repeat' (first | (simp only [↓State.modStore_keeps, and_self, ↓ite_fst, ↓ite_keeps, ↓State.modBond_keeps, ↓State.modTime_keeps, ↓foldl_pending, ↓foldl_life, ↓foldl_ns, ↓foldl_fst_pending, ↓foldl_fst_life, ↓foldl_fst_ns, ite_self, implies_true]; done) | with_reducible exact ⟨rfl, rfl, rfl⟩ | (grind only [State.modStore_keeps, ite_keeps, State.modBond_keeps, State.modTime_keeps]; done) | refine ⟨((foldl_pending _ _ _ ?_).trans ?_), ((foldl_life _ _ _ ?_).trans ?_), ((foldl_ns _ _ _ ?_).trans ?_)⟩ | refine ⟨((foldl_fst_pending _ _ _ ?_).trans ?_), ((foldl_fst_life _ _ _ ?_).trans ?_), ((foldl_fst_ns _ _ _ ?_).trans ?_)⟩ | refine ((foldl_pending _ _ _ ?_).trans ?_) | refine ((foldl_life _ _ _ ?_).trans ?_) | refine ((foldl_ns _ _ _ ?_).trans ?_) | refine ((foldl_fst_pending _ _ _ ?_).trans ?_) | refine ((foldl_fst_life _ _ _ ?_).trans ?_) | refine ((foldl_fst_ns _ _ _ ?_).trans ?_) | split | intro _ | simp only [↓State.modStore_keeps, and_self, ↓ite_fst, ↓ite_keeps, ↓State.modBond_keeps, ↓State.modTime_keeps, ↓foldl_pending, ↓foldl_life, ↓foldl_ns, ↓foldl_fst_pending, ↓foldl_fst_life, ↓foldl_fst_ns, ite_self, implies_true])

theorem State.putPage_keeps (s : State) (k : Nat) (x : NandPage) :
    (State.putPage s k x).pending = s.pending ∧ (State.putPage s k x).bond.lifecycle = s.bond.lifecycle ∧ (State.putPage s k x).time.ns = s.time.ns := by
  first | rw [State.putPage] | rw [State.putPage.eq_def]
  try dsimp only
  repeat' (first | (simp only [↓State.modStore_keeps, ↓State.programmed_keeps, and_self, ↓ite_fst, ↓ite_keeps, ↓State.modBond_keeps, ↓State.modTime_keeps, ↓foldl_pending, ↓foldl_life, ↓foldl_ns, ↓foldl_fst_pending, ↓foldl_fst_life, ↓foldl_fst_ns, ite_self, implies_true]; done) | with_reducible exact ⟨rfl, rfl, rfl⟩ | (grind only [State.modStore_keeps, State.programmed_keeps, ite_keeps, State.modBond_keeps, State.modTime_keeps]; done) | refine ⟨((foldl_pending _ _ _ ?_).trans ?_), ((foldl_life _ _ _ ?_).trans ?_), ((foldl_ns _ _ _ ?_).trans ?_)⟩ | refine ⟨((foldl_fst_pending _ _ _ ?_).trans ?_), ((foldl_fst_life _ _ _ ?_).trans ?_), ((foldl_fst_ns _ _ _ ?_).trans ?_)⟩ | refine ((foldl_pending _ _ _ ?_).trans ?_) | refine ((foldl_life _ _ _ ?_).trans ?_) | refine ((foldl_ns _ _ _ ?_).trans ?_) | refine ((foldl_fst_pending _ _ _ ?_).trans ?_) | refine ((foldl_fst_life _ _ _ ?_).trans ?_) | refine ((foldl_fst_ns _ _ _ ?_).trans ?_) | split | intro _ | simp only [↓State.modStore_keeps, ↓State.programmed_keeps, and_self, ↓ite_fst, ↓ite_keeps, ↓State.modBond_keeps, ↓State.modTime_keeps, ↓foldl_pending, ↓foldl_life, ↓foldl_ns, ↓foldl_fst_pending, ↓foldl_fst_life, ↓foldl_fst_ns, ite_self, implies_true])

theorem State.mapWrite_keeps (s : State) (kind n : Nat) (body : Bytes) :
    (State.mapWrite s kind n body).pending = s.pending ∧ (State.mapWrite s kind n body).bond.lifecycle = s.bond.lifecycle ∧ (State.mapWrite s kind n body).time.ns = s.time.ns := by
  first | rw [State.mapWrite] | rw [State.mapWrite.eq_def]
  try dsimp only
  repeat' (first | (simp only [↓State.mapAdvance_keeps, ↓State.modStore_keeps, ↓State.putPage_keeps, and_self, ↓ite_fst, ↓ite_keeps, ↓State.modBond_keeps, ↓State.modTime_keeps, ↓foldl_pending, ↓foldl_life, ↓foldl_ns, ↓foldl_fst_pending, ↓foldl_fst_life, ↓foldl_fst_ns, ite_self, implies_true]; done) | with_reducible exact ⟨rfl, rfl, rfl⟩ | (grind only [State.mapAdvance_keeps, State.modStore_keeps, State.putPage_keeps, ite_keeps, State.modBond_keeps, State.modTime_keeps]; done) | refine ⟨((foldl_pending _ _ _ ?_).trans ?_), ((foldl_life _ _ _ ?_).trans ?_), ((foldl_ns _ _ _ ?_).trans ?_)⟩ | refine ⟨((foldl_fst_pending _ _ _ ?_).trans ?_), ((foldl_fst_life _ _ _ ?_).trans ?_), ((foldl_fst_ns _ _ _ ?_).trans ?_)⟩ | refine ((foldl_pending _ _ _ ?_).trans ?_) | refine ((foldl_life _ _ _ ?_).trans ?_) | refine ((foldl_ns _ _ _ ?_).trans ?_) | refine ((foldl_fst_pending _ _ _ ?_).trans ?_) | refine ((foldl_fst_life _ _ _ ?_).trans ?_) | refine ((foldl_fst_ns _ _ _ ?_).trans ?_) | split | intro _ | simp only [↓State.mapAdvance_keeps, ↓State.modStore_keeps, ↓State.putPage_keeps, and_self, ↓ite_fst, ↓ite_keeps, ↓State.modBond_keeps, ↓State.modTime_keeps, ↓foldl_pending, ↓foldl_life, ↓foldl_ns, ↓foldl_fst_pending, ↓foldl_fst_life, ↓foldl_fst_ns, ite_self, implies_true])

theorem State.mapCheckpoint_keeps (s : State) :
    (State.mapCheckpoint s).pending = s.pending ∧ (State.mapCheckpoint s).bond.lifecycle = s.bond.lifecycle ∧ (State.mapCheckpoint s).time.ns = s.time.ns := by
  first | rw [State.mapCheckpoint] | rw [State.mapCheckpoint.eq_def]
  try dsimp only
  repeat' (first | (simp only [↓State.mapWrite_keeps, ↓State.modStore_keeps, and_self, ↓ite_fst, ↓ite_keeps, ↓State.modBond_keeps, ↓State.modTime_keeps, ↓foldl_pending, ↓foldl_life, ↓foldl_ns, ↓foldl_fst_pending, ↓foldl_fst_life, ↓foldl_fst_ns, ite_self, implies_true]; done) | with_reducible exact ⟨rfl, rfl, rfl⟩ | (grind only [State.mapWrite_keeps, State.modStore_keeps, ite_keeps, State.modBond_keeps, State.modTime_keeps]; done) | refine ⟨((foldl_pending _ _ _ ?_).trans ?_), ((foldl_life _ _ _ ?_).trans ?_), ((foldl_ns _ _ _ ?_).trans ?_)⟩ | refine ⟨((foldl_fst_pending _ _ _ ?_).trans ?_), ((foldl_fst_life _ _ _ ?_).trans ?_), ((foldl_fst_ns _ _ _ ?_).trans ?_)⟩ | refine ((foldl_pending _ _ _ ?_).trans ?_) | refine ((foldl_life _ _ _ ?_).trans ?_) | refine ((foldl_ns _ _ _ ?_).trans ?_) | refine ((foldl_fst_pending _ _ _ ?_).trans ?_) | refine ((foldl_fst_life _ _ _ ?_).trans ?_) | refine ((foldl_fst_ns _ _ _ ?_).trans ?_) | split | intro _ | simp only [↓State.mapWrite_keeps, ↓State.modStore_keeps, and_self, ↓ite_fst, ↓ite_keeps, ↓State.modBond_keeps, ↓State.modTime_keeps, ↓foldl_pending, ↓foldl_life, ↓foldl_ns, ↓foldl_fst_pending, ↓foldl_fst_life, ↓foldl_fst_ns, ite_self, implies_true])

theorem State.mapProgram_keeps (s : State) :
    (State.mapProgram s).pending = s.pending ∧ (State.mapProgram s).bond.lifecycle = s.bond.lifecycle ∧ (State.mapProgram s).time.ns = s.time.ns := by
  first | rw [State.mapProgram] | rw [State.mapProgram.eq_def]
  try dsimp only
  repeat' (first | (simp only [↓State.mapCheckpoint_keeps, ↓State.mapWrite_keeps, ↓State.modStore_keeps, and_self, ↓ite_fst, ↓ite_keeps, ↓State.modBond_keeps, ↓State.modTime_keeps, ↓foldl_pending, ↓foldl_life, ↓foldl_ns, ↓foldl_fst_pending, ↓foldl_fst_life, ↓foldl_fst_ns, ite_self, implies_true]; done) | with_reducible exact ⟨rfl, rfl, rfl⟩ | (grind only [State.mapCheckpoint_keeps, State.mapWrite_keeps, State.modStore_keeps, ite_keeps, State.modBond_keeps, State.modTime_keeps]; done) | refine ⟨((foldl_pending _ _ _ ?_).trans ?_), ((foldl_life _ _ _ ?_).trans ?_), ((foldl_ns _ _ _ ?_).trans ?_)⟩ | refine ⟨((foldl_fst_pending _ _ _ ?_).trans ?_), ((foldl_fst_life _ _ _ ?_).trans ?_), ((foldl_fst_ns _ _ _ ?_).trans ?_)⟩ | refine ((foldl_pending _ _ _ ?_).trans ?_) | refine ((foldl_life _ _ _ ?_).trans ?_) | refine ((foldl_ns _ _ _ ?_).trans ?_) | refine ((foldl_fst_pending _ _ _ ?_).trans ?_) | refine ((foldl_fst_life _ _ _ ?_).trans ?_) | refine ((foldl_fst_ns _ _ _ ?_).trans ?_) | split | intro _ | simp only [↓State.mapCheckpoint_keeps, ↓State.mapWrite_keeps, ↓State.modStore_keeps, and_self, ↓ite_fst, ↓ite_keeps, ↓State.modBond_keeps, ↓State.modTime_keeps, ↓foldl_pending, ↓foldl_life, ↓foldl_ns, ↓foldl_fst_pending, ↓foldl_fst_life, ↓foldl_fst_ns, ite_self, implies_true])

theorem State.mapSync_keeps (s : State) :
    (State.mapSync s).pending = s.pending ∧ (State.mapSync s).bond.lifecycle = s.bond.lifecycle ∧ (State.mapSync s).time.ns = s.time.ns := by
  first | rw [State.mapSync] | rw [State.mapSync.eq_def]
  try dsimp only
  repeat' (first | (simp only [↓State.mapProgram_keeps, and_self, ↓ite_fst, ↓ite_keeps, ↓State.modBond_keeps, ↓State.modTime_keeps, ↓foldl_pending, ↓foldl_life, ↓foldl_ns, ↓foldl_fst_pending, ↓foldl_fst_life, ↓foldl_fst_ns, ite_self, implies_true]; done) | with_reducible exact ⟨rfl, rfl, rfl⟩ | (grind only [State.mapProgram_keeps, ite_keeps, State.modBond_keeps, State.modTime_keeps]; done) | refine ⟨((foldl_pending _ _ _ ?_).trans ?_), ((foldl_life _ _ _ ?_).trans ?_), ((foldl_ns _ _ _ ?_).trans ?_)⟩ | refine ⟨((foldl_fst_pending _ _ _ ?_).trans ?_), ((foldl_fst_life _ _ _ ?_).trans ?_), ((foldl_fst_ns _ _ _ ?_).trans ?_)⟩ | refine ((foldl_pending _ _ _ ?_).trans ?_) | refine ((foldl_life _ _ _ ?_).trans ?_) | refine ((foldl_ns _ _ _ ?_).trans ?_) | refine ((foldl_fst_pending _ _ _ ?_).trans ?_) | refine ((foldl_fst_life _ _ _ ?_).trans ?_) | refine ((foldl_fst_ns _ _ _ ?_).trans ?_) | split | intro _ | simp only [↓State.mapProgram_keeps, and_self, ↓ite_fst, ↓ite_keeps, ↓State.modBond_keeps, ↓State.modTime_keeps, ↓foldl_pending, ↓foldl_life, ↓foldl_ns, ↓foldl_fst_pending, ↓foldl_fst_life, ↓foldl_fst_ns, ite_self, implies_true])

theorem State.spareCheck_keeps (s old : State) (lun : Nat) :
    (State.spareCheck s old lun).pending = s.pending ∧ (State.spareCheck s old lun).bond.lifecycle = s.bond.lifecycle ∧ (State.spareCheck s old lun).time.ns = s.time.ns := by
  rw [State.spareCheck]; simp only [↓State.event_keeps, ↓State.raise_keeps, ↓State.setStore_keeps, and_self, ↓ite_keeps, ite_self, ↓State.modBond_keeps, ↓State.modTime_keeps]

theorem State.retireNand_keeps (s : State) (part k cause : Nat) :
    (State.retireNand s part k cause).pending = s.pending ∧ (State.retireNand s part k cause).bond.lifecycle = s.bond.lifecycle ∧ (State.retireNand s part k cause).time.ns = s.time.ns := by
  first | rw [State.retireNand] | rw [State.retireNand.eq_def]
  try dsimp only
  repeat' (first | (simp only [↓State.count_keeps, ↓State.mapNote_keeps, ↓State.modStore_keeps, ↓State.spareCheck_keeps, and_self, ↓ite_fst, ↓ite_keeps, ↓State.modBond_keeps, ↓State.modTime_keeps, ↓foldl_pending, ↓foldl_life, ↓foldl_ns, ↓foldl_fst_pending, ↓foldl_fst_life, ↓foldl_fst_ns, ite_self, implies_true]; done) | with_reducible exact ⟨rfl, rfl, rfl⟩ | (grind only [State.count_keeps, State.mapNote_keeps, State.modStore_keeps, State.spareCheck_keeps, ite_keeps, State.modBond_keeps, State.modTime_keeps]; done) | refine ⟨((foldl_pending _ _ _ ?_).trans ?_), ((foldl_life _ _ _ ?_).trans ?_), ((foldl_ns _ _ _ ?_).trans ?_)⟩ | refine ⟨((foldl_fst_pending _ _ _ ?_).trans ?_), ((foldl_fst_life _ _ _ ?_).trans ?_), ((foldl_fst_ns _ _ _ ?_).trans ?_)⟩ | refine ((foldl_pending _ _ _ ?_).trans ?_) | refine ((foldl_life _ _ _ ?_).trans ?_) | refine ((foldl_ns _ _ _ ?_).trans ?_) | refine ((foldl_fst_pending _ _ _ ?_).trans ?_) | refine ((foldl_fst_life _ _ _ ?_).trans ?_) | refine ((foldl_fst_ns _ _ _ ?_).trans ?_) | split | intro _ | simp only [↓State.count_keeps, ↓State.mapNote_keeps, ↓State.modStore_keeps, ↓State.spareCheck_keeps, and_self, ↓ite_fst, ↓ite_keeps, ↓State.modBond_keeps, ↓State.modTime_keeps, ↓foldl_pending, ↓foldl_life, ↓foldl_ns, ↓foldl_fst_pending, ↓foldl_fst_life, ↓foldl_fst_ns, ite_self, implies_true])

theorem State.flushTarget_keeps (s : State) :
    ∀ k s', (State.flushTarget s) = some (k, s') → s'.pending = s.pending ∧ s'.bond.lifecycle = s.bond.lifecycle ∧ s'.time.ns = s.time.ns := by
  intro k s' h
  rw [State.flushTarget] at h
  obtain ⟨lun, -, hl⟩ := List.exists_of_findSome?_eq_some h
  split at hl
  · cases hl; exact ⟨rfl, rfl, rfl⟩
  · obtain ⟨k', -, he⟩ := Option.map_eq_some_iff.mp hl
    cases he; exact State.modMap_keeps ..

theorem State.programTarget_keeps (s : State) (part page : Nat) (flush : Bool) :
    ∀ k s', (State.programTarget s part page flush) = some (k, s') → s'.pending = s.pending ∧ s'.bond.lifecycle = s.bond.lifecycle ∧ s'.time.ns = s.time.ns := by
  intro k s' h
  rw [State.programTarget] at h
  split at h
  · exact State.flushTarget_keeps _ _ _ h
  · dsimp only at h
    generalize List.find? _ _ = o at h
    cases o with
    | some e => cases h; exact ⟨rfl, rfl, rfl⟩
    | none =>
      dsimp only at h
      generalize (if part = 1 then flush || _ else _) = c at h
      cases c
      · cases h
      · obtain ⟨k', -, he⟩ := Option.map_eq_some_iff.mp h
        cases he; exact State.mapNote_keeps ..

theorem State.programmed_keeps (s : State) (k part page : Nat) (data : Bytes) (fe : Bool) :
    (State.programmed s k part page data fe).pending = s.pending ∧ (State.programmed s k part page data fe).bond.lifecycle = s.bond.lifecycle ∧ (State.programmed s k part page data fe).time.ns = s.time.ns := by
  first | rw [State.programmed] | rw [State.programmed.eq_def]
  try dsimp only
  repeat' (first | (simp only [↓State.mapNote_keeps, ↓State.putPage_keeps, and_self, ↓ite_fst, ↓ite_keeps, ↓State.modBond_keeps, ↓State.modTime_keeps, ↓foldl_pending, ↓foldl_life, ↓foldl_ns, ↓foldl_fst_pending, ↓foldl_fst_life, ↓foldl_fst_ns, ite_self, implies_true]; done) | with_reducible exact ⟨rfl, rfl, rfl⟩ | (grind only [State.mapNote_keeps, State.putPage_keeps, ite_keeps, State.modBond_keeps, State.modTime_keeps]; done) | refine ⟨((foldl_pending _ _ _ ?_).trans ?_), ((foldl_life _ _ _ ?_).trans ?_), ((foldl_ns _ _ _ ?_).trans ?_)⟩ | refine ⟨((foldl_fst_pending _ _ _ ?_).trans ?_), ((foldl_fst_life _ _ _ ?_).trans ?_), ((foldl_fst_ns _ _ _ ?_).trans ?_)⟩ | refine ((foldl_pending _ _ _ ?_).trans ?_) | refine ((foldl_life _ _ _ ?_).trans ?_) | refine ((foldl_ns _ _ _ ?_).trans ?_) | refine ((foldl_fst_pending _ _ _ ?_).trans ?_) | refine ((foldl_fst_life _ _ _ ?_).trans ?_) | refine ((foldl_fst_ns _ _ _ ?_).trans ?_) | split | intro _ | simp only [↓State.mapNote_keeps, ↓State.putPage_keeps, and_self, ↓ite_fst, ↓ite_keeps, ↓State.modBond_keeps, ↓State.modTime_keeps, ↓foldl_pending, ↓foldl_life, ↓foldl_ns, ↓foldl_fst_pending, ↓foldl_fst_life, ↓foldl_fst_ns, ite_self, implies_true])

theorem State.foldInto_keeps (s : State) (part lblk : Nat) (bad : List Nat) (verify : Bool) :
    ∀ s', (State.foldInto s part lblk bad verify) = some s' → s'.pending = s.pending ∧ s'.bond.lifecycle = s.bond.lifecycle ∧ s'.time.ns = s.time.ns := by
  intro s'; first | rw [State.foldInto] | rw [State.foldInto.eq_def]
  try dsimp only
  repeat' (first | (simp only [↓State.mapNote_keeps, ↓State.mapSync_keeps, ↓State.modStore_keeps, ↓State.programmed_keeps, ↓State.retireNand_keeps, and_self, ↓ite_fst, ↓ite_keeps, ↓State.modBond_keeps, ↓State.modTime_keeps, ↓foldl_pending, ↓foldl_life, ↓foldl_ns, ↓foldl_fst_pending, ↓foldl_fst_life, ↓foldl_fst_ns, ite_self, implies_true]; done) | with_reducible exact ⟨rfl, rfl, rfl⟩ | (grind only [State.mapNote_keeps, State.mapSync_keeps, State.modStore_keeps, State.programmed_keeps, State.retireNand_keeps, ite_keeps, State.modBond_keeps, State.modTime_keeps]; done) | with_reducible exact out_none | (with_reducible refine out_some (P := fun s' => s'.pending = s.pending ∧ s'.bond.lifecycle = s.bond.lifecycle ∧ s'.time.ns = s.time.ns) ?_) | with_reducible refine out_ite ?_ ?_ | refine ⟨((foldl_pending _ _ _ ?_).trans ?_), ((foldl_life _ _ _ ?_).trans ?_), ((foldl_ns _ _ _ ?_).trans ?_)⟩ | refine ⟨((foldl_fst_pending _ _ _ ?_).trans ?_), ((foldl_fst_life _ _ _ ?_).trans ?_), ((foldl_fst_ns _ _ _ ?_).trans ?_)⟩ | refine ((foldl_pending _ _ _ ?_).trans ?_) | refine ((foldl_life _ _ _ ?_).trans ?_) | refine ((foldl_ns _ _ _ ?_).trans ?_) | refine ((foldl_fst_pending _ _ _ ?_).trans ?_) | refine ((foldl_fst_life _ _ _ ?_).trans ?_) | refine ((foldl_fst_ns _ _ _ ?_).trans ?_) | split | intro _ | simp only [↓State.mapNote_keeps, ↓State.mapSync_keeps, ↓State.modStore_keeps, ↓State.programmed_keeps, ↓State.retireNand_keeps, and_self, ↓ite_fst, ↓ite_keeps, ↓State.modBond_keeps, ↓State.modTime_keeps, ↓foldl_pending, ↓foldl_life, ↓foldl_ns, ↓foldl_fst_pending, ↓foldl_fst_life, ↓foldl_fst_ns, ite_self, implies_true])

theorem State.noteCorrected_keeps (s : State) (n : Nat) :
    (State.noteCorrected s n).pending = s.pending ∧ (State.noteCorrected s n).bond.lifecycle = s.bond.lifecycle ∧ (State.noteCorrected s n).time.ns = s.time.ns := by
  with_reducible exact ⟨rfl, rfl, rfl⟩

theorem State.noteUncorrectable_keeps (s : State) (lun part page : Nat) :
    (State.noteUncorrectable s lun part page).pending = s.pending ∧ (State.noteUncorrectable s lun part page).bond.lifecycle = s.bond.lifecycle ∧ (State.noteUncorrectable s lun part page).time.ns = s.time.ns := by
  rw [State.noteUncorrectable]; simp only [↓State.count_keeps, ↓State.event_keeps, ↓State.modStore_keeps, ↓State.raise_keeps, and_self]

theorem State.cusLoses_keeps (s : State) (pages : List Nat) :
    (State.cusLoses s pages).pending = s.pending ∧ (State.cusLoses s pages).bond.lifecycle = s.bond.lifecycle ∧ (State.cusLoses s pages).time.ns = s.time.ns := by
  first | rw [State.cusLoses] | rw [State.cusLoses.eq_def]
  try dsimp only
  repeat' (first | (simp only [↓State.modCustoms_keeps, and_self, ↓ite_fst, ↓ite_keeps, ↓State.modBond_keeps, ↓State.modTime_keeps, ↓foldl_pending, ↓foldl_life, ↓foldl_ns, ↓foldl_fst_pending, ↓foldl_fst_life, ↓foldl_fst_ns, ite_self, implies_true]; done) | with_reducible exact ⟨rfl, rfl, rfl⟩ | (grind only [State.modCustoms_keeps, ite_keeps, State.modBond_keeps, State.modTime_keeps]; done) | refine ⟨((foldl_pending _ _ _ ?_).trans ?_), ((foldl_life _ _ _ ?_).trans ?_), ((foldl_ns _ _ _ ?_).trans ?_)⟩ | refine ⟨((foldl_fst_pending _ _ _ ?_).trans ?_), ((foldl_fst_life _ _ _ ?_).trans ?_), ((foldl_fst_ns _ _ _ ?_).trans ?_)⟩ | refine ((foldl_pending _ _ _ ?_).trans ?_) | refine ((foldl_life _ _ _ ?_).trans ?_) | refine ((foldl_ns _ _ _ ?_).trans ?_) | refine ((foldl_fst_pending _ _ _ ?_).trans ?_) | refine ((foldl_fst_life _ _ _ ?_).trans ?_) | refine ((foldl_fst_ns _ _ _ ?_).trans ?_) | split | intro _ | simp only [↓State.modCustoms_keeps, and_self, ↓ite_fst, ↓ite_keeps, ↓State.modBond_keeps, ↓State.modTime_keeps, ↓foldl_pending, ↓foldl_life, ↓foldl_ns, ↓foldl_fst_pending, ↓foldl_fst_life, ↓foldl_fst_ns, ite_self, implies_true])

theorem State.refresh_keeps (s : State) (part k worst : Nat) (bad : List Nat) :
    (State.refresh s part k worst bad).pending = s.pending ∧ (State.refresh s part k worst bad).bond.lifecycle = s.bond.lifecycle ∧ (State.refresh s part k worst bad).time.ns = s.time.ns := by
  rw [State.refresh]; dsimp only
  split
  · have hf (u : State) (b : Nat × Nat) : K3 ((u.foldInto b.1 b.2 (if b.1 = part then bad else []) true).getD u) u := by
      cases h : u.foldInto b.1 b.2 (if b.1 = part then bad else []) true with
      | none => exact ⟨rfl, rfl, rfl⟩
      | some t => exact State.foldInto_keeps _ _ _ _ _ _ h
    exact K3.trans (State.modStore_keeps ..) (K3.trans (State.count_keeps ..) (K3.foldl _ hf _ _))
  · exact ⟨rfl, rfl, rfl⟩

end Sys2Proof.Machine
end

