-- ==== Sys2Proof/Laws/KeepStore.lean ====
section
/-!
SUPPORT. What the operations of Machine/Store.lean leave alone: the queue, the life cycle and the timebase.
-/
set_option linter.unusedSimpArgs false

namespace Sys2Proof.Machine

theorem State.profDiscard_keeps (s : State) :
    (State.profDiscard s).pending = s.pending ∧ (State.profDiscard s).bond.lifecycle = s.bond.lifecycle ∧ (State.profDiscard s).time.ns = s.time.ns := by
  rw [State.profDiscard]; simp only [↓State.event_keeps, ↓State.mapNote_keeps, ↓State.modStore_keeps, ↓State.raise_keeps, and_self, ↓ite_keeps, ite_self, ↓State.modBond_keeps, ↓State.modTime_keeps]

theorem State.logDiscard_keeps (s : State) :
    (State.logDiscard s).pending = s.pending ∧ (State.logDiscard s).bond.lifecycle = s.bond.lifecycle ∧ (State.logDiscard s).time.ns = s.time.ns := by
  with_reducible exact ⟨rfl, rfl, rfl⟩

theorem State.logProgram_keeps (s : State) (data : Bytes) (fe flush : Bool) :
    ∀ s', (State.logProgram s data fe flush) = some s' → s'.pending = s.pending ∧ s'.bond.lifecycle = s.bond.lifecycle ∧ s'.time.ns = s.time.ns := by
  intro s' h
  rw [State.logProgram] at h
  obtain ⟨⟨k, t⟩, ht, he⟩ := Option.map_eq_some_iff.mp h
  cases he
  refine K3.trans (State.programmed_keeps ..) (K3.trans (State.programTarget_keeps _ _ _ _ _ _ ht) ?_)
  split
  · exact State.logDiscard_keeps ..
  · exact ⟨rfl, rfl, rfl⟩

theorem State.storeAppend_keeps (s : State) (part key : Nat) (data : Bytes) :
    (State.storeAppend s part key data).pending = s.pending ∧ (State.storeAppend s part key data).bond.lifecycle = s.bond.lifecycle ∧ (State.storeAppend s part key data).time.ns = s.time.ns := by
  rw [State.storeAppend.eq_def]; try dsimp only
  repeat' (first | (solve | simp only [↓State.count_keeps, ↓State.modStore_keeps, and_self, ↓ite_fst, ↓ite_keeps, ↓State.modBond_keeps, ↓State.modTime_keeps, ↓foldl_pending, ↓foldl_life, ↓foldl_ns, ↓foldl_fst_pending, ↓foldl_fst_life, ↓foldl_fst_ns, ite_self, implies_true]) | with_reducible exact ⟨rfl, rfl, rfl⟩ | refine ⟨foldl_pending _ _ _ ?_, foldl_life _ _ _ ?_, foldl_ns _ _ _ ?_⟩ | split | intro _)

theorem State.aidSave_keeps (s : State) (page : Nat) (data : Bytes) :
    (State.aidSave s page data).pending = s.pending ∧ (State.aidSave s page data).bond.lifecycle = s.bond.lifecycle ∧ (State.aidSave s page data).time.ns = s.time.ns := by
  first | rw [State.aidSave] | rw [State.aidSave.eq_def]
  try dsimp only
  repeat' (first | (simp only [↓State.count_keeps, ↓State.modStore_keeps, ↓State.storeAppend_keeps, and_self, ↓ite_fst, ↓ite_keeps, ↓State.modBond_keeps, ↓State.modTime_keeps, ↓foldl_pending, ↓foldl_life, ↓foldl_ns, ↓foldl_fst_pending, ↓foldl_fst_life, ↓foldl_fst_ns, ite_self, implies_true]; done) | with_reducible exact ⟨rfl, rfl, rfl⟩ | (grind only [State.count_keeps, State.modStore_keeps, State.storeAppend_keeps, ite_keeps, State.modBond_keeps, State.modTime_keeps]; done) | refine ⟨((foldl_pending _ _ _ ?_).trans ?_), ((foldl_life _ _ _ ?_).trans ?_), ((foldl_ns _ _ _ ?_).trans ?_)⟩ | refine ⟨((foldl_fst_pending _ _ _ ?_).trans ?_), ((foldl_fst_life _ _ _ ?_).trans ?_), ((foldl_fst_ns _ _ _ ?_).trans ?_)⟩ | refine ((foldl_pending _ _ _ ?_).trans ?_) | refine ((foldl_life _ _ _ ?_).trans ?_) | refine ((foldl_ns _ _ _ ?_).trans ?_) | refine ((foldl_fst_pending _ _ _ ?_).trans ?_) | refine ((foldl_fst_life _ _ _ ?_).trans ?_) | refine ((foldl_fst_ns _ _ _ ?_).trans ?_) | split | intro _ | simp only [↓State.count_keeps, ↓State.modStore_keeps, ↓State.storeAppend_keeps, and_self, ↓ite_fst, ↓ite_keeps, ↓State.modBond_keeps, ↓State.modTime_keeps, ↓foldl_pending, ↓foldl_life, ↓foldl_ns, ↓foldl_fst_pending, ↓foldl_fst_life, ↓foldl_fst_ns, ite_self, implies_true])

theorem State.aidDrain_keeps (s : State) :
    (State.aidDrain s).pending = s.pending ∧ (State.aidDrain s).bond.lifecycle = s.bond.lifecycle ∧ (State.aidDrain s).time.ns = s.time.ns := by
  first | rw [State.aidDrain] | rw [State.aidDrain.eq_def]
  try dsimp only
  repeat' (first | (simp only [↓State.modStore_keeps, ↓State.storeAppend_keeps, and_self, ↓ite_fst, ↓ite_keeps, ↓State.modBond_keeps, ↓State.modTime_keeps, ↓foldl_pending, ↓foldl_life, ↓foldl_ns, ↓foldl_fst_pending, ↓foldl_fst_life, ↓foldl_fst_ns, ite_self, implies_true]; done) | with_reducible exact ⟨rfl, rfl, rfl⟩ | (grind only [State.modStore_keeps, State.storeAppend_keeps, ite_keeps, State.modBond_keeps, State.modTime_keeps]; done) | refine ⟨((foldl_pending _ _ _ ?_).trans ?_), ((foldl_life _ _ _ ?_).trans ?_), ((foldl_ns _ _ _ ?_).trans ?_)⟩ | refine ⟨((foldl_fst_pending _ _ _ ?_).trans ?_), ((foldl_fst_life _ _ _ ?_).trans ?_), ((foldl_fst_ns _ _ _ ?_).trans ?_)⟩ | refine ((foldl_pending _ _ _ ?_).trans ?_) | refine ((foldl_life _ _ _ ?_).trans ?_) | refine ((foldl_ns _ _ _ ?_).trans ?_) | refine ((foldl_fst_pending _ _ _ ?_).trans ?_) | refine ((foldl_fst_life _ _ _ ?_).trans ?_) | refine ((foldl_fst_ns _ _ _ ?_).trans ?_) | split | intro _ | simp only [↓State.modStore_keeps, ↓State.storeAppend_keeps, and_self, ↓ite_fst, ↓ite_keeps, ↓State.modBond_keeps, ↓State.modTime_keeps, ↓foldl_pending, ↓foldl_life, ↓foldl_ns, ↓foldl_fst_pending, ↓foldl_fst_life, ↓foldl_fst_ns, ite_self, implies_true])

theorem execWriteCachePageTimeout_keeps (part page : Nat) (s : State) :
    ∀ s', (execWriteCachePageTimeout part page s) = .next s' → s'.pending = s.pending ∧ s'.bond.lifecycle = s.bond.lifecycle ∧ s'.time.ns = s.time.ns := by
  rw [execWriteCachePageTimeout]; with_reducible exact out_keeps ⟨rfl, rfl, rfl⟩

theorem State.cachePlace_keeps (s : State) (part : Nat) (c : CachePage) :
    (State.cachePlace s part c).1.pending = s.pending ∧ (State.cachePlace s part c).1.bond.lifecycle = s.bond.lifecycle ∧ (State.cachePlace s part c).1.time.ns = s.time.ns := by
  rw [State.cachePlace]; simp only [↓State.profDiscard_keeps, and_self, ↓ite_fst, ↓ite_keeps, ↓State.modBond_keeps, ↓State.modTime_keeps, ↓foldl_pending, ↓foldl_life, ↓foldl_ns, ↓foldl_fst_pending, ↓foldl_fst_life, ↓foldl_fst_ns, ite_self, implies_true]

theorem State.cachePlace_eq (s : State) (part : Nat) (c : CachePage) (s' : State) (x' : Nat) (he : (State.cachePlace s part c) = (s', x')) :
    s'.pending = s.pending ∧ s'.bond.lifecycle = s.bond.lifecycle ∧ s'.time.ns = s.time.ns := by
  have hk := State.cachePlace_keeps s part c; rw [he] at hk; exact hk

theorem State.cacheProgram_keeps (s : State) (part : Nat) (ok flush : Bool) :
    (State.cacheProgram s part ok flush).pending = s.pending ∧ (State.cacheProgram s part ok flush).bond.lifecycle = s.bond.lifecycle ∧ (State.cacheProgram s part ok flush).time.ns = s.time.ns := by
  rw [State.cacheProgram.eq_def]; try dsimp only
  repeat' (first | (solve | simp only [↓State.aidDrain_keeps, ↓State.cachePlace_keeps, ↓State.modStore_keeps, ↓State.programmed_keeps, ↓State.retireNand_keeps, and_self, ↓ite_keeps, ite_self, ↓State.modBond_keeps, ↓State.modTime_keeps]) | with_reducible exact ⟨rfl, rfl, rfl⟩ | (focus have hk := State.cachePlace_eq _ _ _ _ _ (by assumption); simp only [↓hk, ↓State.aidDrain_keeps, ↓State.cachePlace_keeps, ↓State.modStore_keeps, ↓State.programmed_keeps, ↓State.retireNand_keeps, and_self, ↓ite_keeps, ite_self, ↓State.modBond_keeps, ↓State.modTime_keeps]; done) | (focus have hk := State.programTarget_keeps _ _ _ _ _ _ (by assumption); simp only [↓hk, ↓State.aidDrain_keeps, ↓State.cachePlace_keeps, ↓State.modStore_keeps, ↓State.programmed_keeps, ↓State.retireNand_keeps, and_self, ↓ite_keeps, ite_self, ↓State.modBond_keeps, ↓State.modTime_keeps]; done) | split | intro _)

theorem State.closeCache_keeps (s : State) :
    (State.closeCache s).pending = s.pending ∧ (State.closeCache s).bond.lifecycle = s.bond.lifecycle ∧ (State.closeCache s).time.ns = s.time.ns := by
  first | rw [State.closeCache] | rw [State.closeCache.eq_def]
  try dsimp only
  repeat' (first | (simp only [↓State.modStore_keeps, and_self, ↓ite_fst, ↓ite_keeps, ↓State.modBond_keeps, ↓State.modTime_keeps, ↓foldl_pending, ↓foldl_life, ↓foldl_ns, ↓foldl_fst_pending, ↓foldl_fst_life, ↓foldl_fst_ns, ite_self, implies_true]; done) | with_reducible exact ⟨rfl, rfl, rfl⟩ | (grind only [State.modStore_keeps, ite_keeps, State.modBond_keeps, State.modTime_keeps]; done) | refine ⟨((foldl_pending _ _ _ ?_).trans ?_), ((foldl_life _ _ _ ?_).trans ?_), ((foldl_ns _ _ _ ?_).trans ?_)⟩ | refine ⟨((foldl_fst_pending _ _ _ ?_).trans ?_), ((foldl_fst_life _ _ _ ?_).trans ?_), ((foldl_fst_ns _ _ _ ?_).trans ?_)⟩ | refine ((foldl_pending _ _ _ ?_).trans ?_) | refine ((foldl_life _ _ _ ?_).trans ?_) | refine ((foldl_ns _ _ _ ?_).trans ?_) | refine ((foldl_fst_pending _ _ _ ?_).trans ?_) | refine ((foldl_fst_life _ _ _ ?_).trans ?_) | refine ((foldl_fst_ns _ _ _ ?_).trans ?_) | split | intro _ | simp only [↓State.modStore_keeps, and_self, ↓ite_fst, ↓ite_keeps, ↓State.modBond_keeps, ↓State.modTime_keeps, ↓foldl_pending, ↓foldl_life, ↓foldl_ns, ↓foldl_fst_pending, ↓foldl_fst_life, ↓foldl_fst_ns, ite_self, implies_true])

theorem State.flushCache_keeps (s : State) :
    (State.flushCache s).pending = s.pending ∧ (State.flushCache s).bond.lifecycle = s.bond.lifecycle ∧ (State.flushCache s).time.ns = s.time.ns := by
  rw [State.flushCache.eq_def]; try dsimp only
  repeat' (first | (solve | simp only [↓State.cacheProgram_keeps, ↓State.closeCache_keeps, ↓State.modStore_keeps, and_self, ↓ite_fst, ↓ite_keeps, ↓State.modBond_keeps, ↓State.modTime_keeps, ↓foldl_pending, ↓foldl_life, ↓foldl_ns, ↓foldl_fst_pending, ↓foldl_fst_life, ↓foldl_fst_ns, ite_self, implies_true]) | with_reducible exact ⟨rfl, rfl, rfl⟩ | refine ⟨foldl_pending _ _ _ ?_, foldl_life _ _ _ ?_, foldl_ns _ _ _ ?_⟩ | split | intro _)

theorem execFoldCommit_keeps (part : Nat) (f : FoldRead) (s : State) :
    ∀ s', (execFoldCommit part f s) = .next s' → s'.pending = s.pending ∧ s'.bond.lifecycle = s.bond.lifecycle ∧ s'.time.ns = s.time.ns := by
  intro s'; first | rw [execFoldCommit] | rw [execFoldCommit.eq_def]
  try dsimp only
  repeat' (first | (simp only [↓State.count_keeps, ↓State.cusLoses_keeps, ↓State.noteUncorrectable_keeps, and_self, ↓ite_fst, ↓ite_keeps, ↓State.modBond_keeps, ↓State.modTime_keeps, ↓foldl_pending, ↓foldl_life, ↓foldl_ns, ↓foldl_fst_pending, ↓foldl_fst_life, ↓foldl_fst_ns, ite_self, implies_true]; done) | with_reducible exact ⟨rfl, rfl, rfl⟩ | (grind only [State.count_keeps, State.cusLoses_keeps, State.noteUncorrectable_keeps, ite_keeps, State.modBond_keeps, State.modTime_keeps]; done) | (have hk := State.foldInto_keeps _ _ _ _ _ _ (by assumption); simp only [↓hk, ↓State.count_keeps, ↓State.cusLoses_keeps, ↓State.noteUncorrectable_keeps, and_self, ↓ite_fst, ↓ite_keeps, ↓State.modBond_keeps, ↓State.modTime_keeps, ↓foldl_pending, ↓foldl_life, ↓foldl_ns, ↓foldl_fst_pending, ↓foldl_fst_life, ↓foldl_fst_ns, ite_self, implies_true]; done) | (with_reducible refine out_next (P := fun s' => s'.pending = s.pending ∧ s'.bond.lifecycle = s.bond.lifecycle ∧ s'.time.ns = s.time.ns) ?_) | with_reducible refine out_ite ?_ ?_ | (have hk := State.foldInto_keeps _ _ _ _ _ _ (by assumption); simp only [↓hk, ↓State.count_keeps, ↓State.cusLoses_keeps, ↓State.noteUncorrectable_keeps, and_self, ↓ite_fst, ↓ite_keeps, ↓State.modBond_keeps, ↓State.modTime_keeps, ↓foldl_pending, ↓foldl_life, ↓foldl_ns, ↓foldl_fst_pending, ↓foldl_fst_life, ↓foldl_fst_ns, ite_self, implies_true]) | refine ⟨((foldl_pending _ _ _ ?_).trans ?_), ((foldl_life _ _ _ ?_).trans ?_), ((foldl_ns _ _ _ ?_).trans ?_)⟩ | refine ⟨((foldl_fst_pending _ _ _ ?_).trans ?_), ((foldl_fst_life _ _ _ ?_).trans ?_), ((foldl_fst_ns _ _ _ ?_).trans ?_)⟩ | refine ((foldl_pending _ _ _ ?_).trans ?_) | refine ((foldl_life _ _ _ ?_).trans ?_) | refine ((foldl_ns _ _ _ ?_).trans ?_) | refine ((foldl_fst_pending _ _ _ ?_).trans ?_) | refine ((foldl_fst_life _ _ _ ?_).trans ?_) | refine ((foldl_fst_ns _ _ _ ?_).trans ?_) | split | intro _ | simp only [↓State.count_keeps, ↓State.cusLoses_keeps, ↓State.noteUncorrectable_keeps, and_self, ↓ite_fst, ↓ite_keeps, ↓State.modBond_keeps, ↓State.modTime_keeps, ↓foldl_pending, ↓foldl_life, ↓foldl_ns, ↓foldl_fst_pending, ↓foldl_fst_life, ↓foldl_fst_ns, ite_self, implies_true])

theorem execStaticWearLevel_keeps (lun : Nat) (s : State) :
    ∀ s', (execStaticWearLevel lun s) = .next s' → s'.pending = s.pending ∧ s'.bond.lifecycle = s.bond.lifecycle ∧ s'.time.ns = s.time.ns := by
  rw [execStaticWearLevel.eq_def]; try dsimp only
  repeat' (first | with_reducible exact out_keeps ⟨rfl, rfl, rfl⟩ | with_reducible refine out_keeps ?_ | with_reducible refine out_both ?_ ?_ | (solve | simp only [↓State.modStore_keeps, and_self, ↓ite_keeps, ite_self, ↓State.modBond_keeps, ↓State.modTime_keeps]) | with_reducible exact ⟨rfl, rfl, rfl⟩ | (focus have hk := State.foldInto_keeps _ _ _ _ _ _ (by assumption); simp only [↓hk, ↓State.modStore_keeps, and_self, ↓ite_keeps, ite_self, ↓State.modBond_keeps, ↓State.modTime_keeps]; done) | split | intro _)

theorem State.formatEnds_keeps (s : State) :
    (State.formatEnds s).pending = s.pending ∧ (State.formatEnds s).bond.lifecycle = s.bond.lifecycle ∧ (State.formatEnds s).time.ns = s.time.ns := by
  first | rw [State.formatEnds] | rw [State.formatEnds.eq_def]
  try dsimp only
  repeat' (first | (simp only [↓State.modMap_keeps, and_self, ↓ite_fst, ↓ite_keeps, ↓State.modBond_keeps, ↓State.modTime_keeps, ↓foldl_pending, ↓foldl_life, ↓foldl_ns, ↓foldl_fst_pending, ↓foldl_fst_life, ↓foldl_fst_ns, ite_self, implies_true]; done) | with_reducible exact ⟨rfl, rfl, rfl⟩ | (grind only [State.modMap_keeps, ite_keeps, State.modBond_keeps, State.modTime_keeps]; done) | refine ⟨((foldl_pending _ _ _ ?_).trans ?_), ((foldl_life _ _ _ ?_).trans ?_), ((foldl_ns _ _ _ ?_).trans ?_)⟩ | refine ⟨((foldl_fst_pending _ _ _ ?_).trans ?_), ((foldl_fst_life _ _ _ ?_).trans ?_), ((foldl_fst_ns _ _ _ ?_).trans ?_)⟩ | refine ((foldl_pending _ _ _ ?_).trans ?_) | refine ((foldl_life _ _ _ ?_).trans ?_) | refine ((foldl_ns _ _ _ ?_).trans ?_) | refine ((foldl_fst_pending _ _ _ ?_).trans ?_) | refine ((foldl_fst_life _ _ _ ?_).trans ?_) | refine ((foldl_fst_ns _ _ _ ?_).trans ?_) | split | intro _ | simp only [↓State.modMap_keeps, and_self, ↓ite_fst, ↓ite_keeps, ↓State.modBond_keeps, ↓State.modTime_keeps, ↓foldl_pending, ↓foldl_life, ↓foldl_ns, ↓foldl_fst_pending, ↓foldl_fst_life, ↓foldl_fst_ns, ite_self, implies_true])

theorem State.storeReady_keeps (s : State) :
    (State.storeReady s).pending = s.pending ∧ (State.storeReady s).bond.lifecycle = s.bond.lifecycle ∧ (State.storeReady s).time.ns = s.time.ns := by
  first | rw [State.storeReady] | rw [State.storeReady.eq_def]
  try dsimp only
  repeat' (first | (simp only [↓State.raise_keeps, ↓State.setStore_keeps, and_self, ↓ite_fst, ↓ite_keeps, ↓State.modBond_keeps, ↓State.modTime_keeps, ↓foldl_pending, ↓foldl_life, ↓foldl_ns, ↓foldl_fst_pending, ↓foldl_fst_life, ↓foldl_fst_ns, ite_self, implies_true]; done) | with_reducible exact ⟨rfl, rfl, rfl⟩ | (grind only [State.raise_keeps, State.setStore_keeps, ite_keeps, State.modBond_keeps, State.modTime_keeps]; done) | refine ⟨((foldl_pending _ _ _ ?_).trans ?_), ((foldl_life _ _ _ ?_).trans ?_), ((foldl_ns _ _ _ ?_).trans ?_)⟩ | refine ⟨((foldl_fst_pending _ _ _ ?_).trans ?_), ((foldl_fst_life _ _ _ ?_).trans ?_), ((foldl_fst_ns _ _ _ ?_).trans ?_)⟩ | refine ((foldl_pending _ _ _ ?_).trans ?_) | refine ((foldl_life _ _ _ ?_).trans ?_) | refine ((foldl_ns _ _ _ ?_).trans ?_) | refine ((foldl_fst_pending _ _ _ ?_).trans ?_) | refine ((foldl_fst_life _ _ _ ?_).trans ?_) | refine ((foldl_fst_ns _ _ _ ?_).trans ?_) | split | intro _ | simp only [↓State.raise_keeps, ↓State.setStore_keeps, and_self, ↓ite_fst, ↓ite_keeps, ↓State.modBond_keeps, ↓State.modTime_keeps, ↓foldl_pending, ↓foldl_life, ↓foldl_ns, ↓foldl_fst_pending, ↓foldl_fst_life, ↓foldl_fst_ns, ite_self, implies_true])

theorem execBlockEraseDone_keeps (lun blk : Nat) (ok : Bool) (s : State) :
    ∀ s', (execBlockEraseDone lun blk ok s) = .next s' → s'.pending = s.pending ∧ s'.bond.lifecycle = s.bond.lifecycle ∧ s'.time.ns = s.time.ns := by
  rw [execBlockEraseDone.eq_def]; repeat' (first | with_reducible exact out_keeps ⟨rfl, rfl, rfl⟩ | with_reducible refine out_keeps ?_ | with_reducible refine out_both ?_ ?_ | (solve | simp only [↓State.formatEnds_keeps, ↓State.mapNote_keeps, ↓State.modStore_keeps, ↓State.retireNand_keeps, ↓State.storeReady_keeps, and_self]) | split)

theorem State.patrolStart_keeps (s : State) :
    (State.patrolStart s).pending = s.pending ∧ (State.patrolStart s).bond.lifecycle = s.bond.lifecycle ∧ (State.patrolStart s).time.ns = s.time.ns := by
  first | rw [State.patrolStart] | rw [State.patrolStart.eq_def]
  try dsimp only
  repeat' (first | (simp only [↓State.modStore_keeps, and_self, ↓ite_fst, ↓ite_keeps, ↓State.modBond_keeps, ↓State.modTime_keeps, ↓foldl_pending, ↓foldl_life, ↓foldl_ns, ↓foldl_fst_pending, ↓foldl_fst_life, ↓foldl_fst_ns, ite_self, implies_true]; done) | with_reducible exact ⟨rfl, rfl, rfl⟩ | (grind only [State.modStore_keeps, ite_keeps, State.modBond_keeps, State.modTime_keeps]; done) | refine ⟨((foldl_pending _ _ _ ?_).trans ?_), ((foldl_life _ _ _ ?_).trans ?_), ((foldl_ns _ _ _ ?_).trans ?_)⟩ | refine ⟨((foldl_fst_pending _ _ _ ?_).trans ?_), ((foldl_fst_life _ _ _ ?_).trans ?_), ((foldl_fst_ns _ _ _ ?_).trans ?_)⟩ | refine ((foldl_pending _ _ _ ?_).trans ?_) | refine ((foldl_life _ _ _ ?_).trans ?_) | refine ((foldl_ns _ _ _ ?_).trans ?_) | refine ((foldl_fst_pending _ _ _ ?_).trans ?_) | refine ((foldl_fst_life _ _ _ ?_).trans ?_) | refine ((foldl_fst_ns _ _ _ ?_).trans ?_) | split | intro _ | simp only [↓State.modStore_keeps, and_self, ↓ite_fst, ↓ite_keeps, ↓State.modBond_keeps, ↓State.modTime_keeps, ↓foldl_pending, ↓foldl_life, ↓foldl_ns, ↓foldl_fst_pending, ↓foldl_fst_life, ↓foldl_fst_ns, ite_self, implies_true])

theorem State.patrolled_keeps (s : State) (lun blk : Nat) :
    (State.patrolled s lun blk).pending = s.pending ∧ (State.patrolled s lun blk).bond.lifecycle = s.bond.lifecycle ∧ (State.patrolled s lun blk).time.ns = s.time.ns := by
  rw [State.patrolled]; simp only [↓State.count_keeps, ↓State.modPwr_keeps, ↓State.modStore_keeps, ↓State.scrubReportFree_keeps, and_self, ↓ite_keeps, ite_self, ↓State.modBond_keeps, ↓State.modTime_keeps]

theorem execNandPatrol_keeps (lun blk worst corrected : Nat) (bad : List Nat) (s : State) :
    ∀ s', (execNandPatrol lun blk worst corrected bad s) = .next s' → s'.pending = s.pending ∧ s'.bond.lifecycle = s.bond.lifecycle ∧ s'.time.ns = s.time.ns := by
  rw [execNandPatrol.eq_def]; repeat' (first | with_reducible exact out_keeps ⟨rfl, rfl, rfl⟩ | with_reducible refine out_keeps ?_ | with_reducible refine out_both ?_ ?_ | (solve | simp only [↓State.cusLoses_keeps, ↓State.noteCorrected_keeps, ↓State.noteUncorrectable_keeps, ↓State.patrolStart_keeps, ↓State.patrolled_keeps, ↓State.refresh_keeps, ↓State.scrubCount_keeps, ↓State.scrubReportFree_keeps, and_self, ↓ite_fst, ↓ite_keeps, ↓State.modBond_keeps, ↓State.modTime_keeps, ↓foldl_pending, ↓foldl_life, ↓foldl_ns, ↓foldl_fst_pending, ↓foldl_fst_life, ↓foldl_fst_ns, ite_self, implies_true]) | split)

theorem State.storeDone_keeps (s : State) (result : Nat) :
    (State.storeDone s result).pending = s.pending ∧ (State.storeDone s result).bond.lifecycle = s.bond.lifecycle ∧ (State.storeDone s result).time.ns = s.time.ns := by
  rw [State.storeDone]; simp only [↓State.raise_keeps, ↓State.set_keeps, and_self]

theorem execStoreRead_keeps (part worst corrected : Nat) (bad : List Nat) (s : State) :
    ∀ s', (execStoreRead part worst corrected bad s) = .next s' → s'.pending = s.pending ∧ s'.bond.lifecycle = s.bond.lifecycle ∧ s'.time.ns = s.time.ns := by
  rw [execStoreRead.eq_def]; repeat' (first | with_reducible exact out_keeps ⟨rfl, rfl, rfl⟩ | with_reducible refine out_keeps ?_ | with_reducible refine out_both ?_ ?_ | (solve | simp only [↓State.modHost_keeps, ↓State.noteCorrected_keeps, ↓State.noteUncorrectable_keeps, ↓State.refresh_keeps, ↓State.storeDone_keeps, and_self, ↓ite_fst, ↓ite_keeps, ↓State.modBond_keeps, ↓State.modTime_keeps, ↓foldl_pending, ↓foldl_life, ↓foldl_ns, ↓foldl_fst_pending, ↓foldl_fst_life, ↓foldl_fst_ns, ite_self, implies_true]) | split)

theorem execStoreDiscard_keeps (part count : Nat) (s : State) :
    ∀ s', (execStoreDiscard part count s) = .next s' → s'.pending = s.pending ∧ s'.bond.lifecycle = s.bond.lifecycle ∧ s'.time.ns = s.time.ns := by
  rw [execStoreDiscard.eq_def]; repeat' (first | with_reducible exact out_keeps ⟨rfl, rfl, rfl⟩ | with_reducible refine out_keeps ?_ | with_reducible refine out_both ?_ ?_ | (solve | simp only [↓State.mapNote_keeps, ↓State.modStore_keeps, ↓State.storeDone_keeps, and_self]) | split)

theorem execStoreHealth_keeps (s : State) :
    ∀ s', (execStoreHealth s) = .next s' → s'.pending = s.pending ∧ s'.bond.lifecycle = s.bond.lifecycle ∧ s'.time.ns = s.time.ns := by
  rw [execStoreHealth.eq_def]; repeat' (first | with_reducible exact out_keeps ⟨rfl, rfl, rfl⟩ | with_reducible refine out_keeps ?_ | with_reducible refine out_both ?_ ?_ | (solve | simp only [↓State.modHost_keeps, ↓State.storeDone_keeps, and_self]) | split)

theorem State.storeTemp_keeps (s : State) (tj : Int) :
    (State.storeTemp s tj).pending = s.pending ∧ (State.storeTemp s tj).bond.lifecycle = s.bond.lifecycle ∧ (State.storeTemp s tj).time.ns = s.time.ns := by
  first | rw [State.storeTemp] | rw [State.storeTemp.eq_def]
  try dsimp only
  repeat' (first | (simp only [↓State.modStore_keeps, and_self, ↓ite_fst, ↓ite_keeps, ↓State.modBond_keeps, ↓State.modTime_keeps, ↓foldl_pending, ↓foldl_life, ↓foldl_ns, ↓foldl_fst_pending, ↓foldl_fst_life, ↓foldl_fst_ns, ite_self, implies_true]; done) | with_reducible exact ⟨rfl, rfl, rfl⟩ | (grind only [State.modStore_keeps, ite_keeps, State.modBond_keeps, State.modTime_keeps]; done) | refine ⟨((foldl_pending _ _ _ ?_).trans ?_), ((foldl_life _ _ _ ?_).trans ?_), ((foldl_ns _ _ _ ?_).trans ?_)⟩ | refine ⟨((foldl_fst_pending _ _ _ ?_).trans ?_), ((foldl_fst_life _ _ _ ?_).trans ?_), ((foldl_fst_ns _ _ _ ?_).trans ?_)⟩ | refine ((foldl_pending _ _ _ ?_).trans ?_) | refine ((foldl_life _ _ _ ?_).trans ?_) | refine ((foldl_ns _ _ _ ?_).trans ?_) | refine ((foldl_fst_pending _ _ _ ?_).trans ?_) | refine ((foldl_fst_life _ _ _ ?_).trans ?_) | refine ((foldl_fst_ns _ _ _ ?_).trans ?_) | split | intro _ | simp only [↓State.modStore_keeps, and_self, ↓ite_fst, ↓ite_keeps, ↓State.modBond_keeps, ↓State.modTime_keeps, ↓foldl_pending, ↓foldl_life, ↓foldl_ns, ↓foldl_fst_pending, ↓foldl_fst_life, ↓foldl_fst_ns, ite_self, implies_true])

theorem State.storeRegs_keeps (s : State) :
    (State.storeRegs s).pending = s.pending ∧ (State.storeRegs s).bond.lifecycle = s.bond.lifecycle ∧ (State.storeRegs s).time.ns = s.time.ns := by
  first | rw [State.storeRegs] | rw [State.storeRegs.eq_def]
  try dsimp only
  repeat' (first | (simp only [↓State.set_keeps, ↓State.setFlag_keeps, and_self, ↓ite_fst, ↓ite_keeps, ↓State.modBond_keeps, ↓State.modTime_keeps, ↓foldl_pending, ↓foldl_life, ↓foldl_ns, ↓foldl_fst_pending, ↓foldl_fst_life, ↓foldl_fst_ns, ite_self, implies_true]; done) | with_reducible exact ⟨rfl, rfl, rfl⟩ | (grind only [State.set_keeps, State.setFlag_keeps, ite_keeps, State.modBond_keeps, State.modTime_keeps]; done) | refine ⟨((foldl_pending _ _ _ ?_).trans ?_), ((foldl_life _ _ _ ?_).trans ?_), ((foldl_ns _ _ _ ?_).trans ?_)⟩ | refine ⟨((foldl_fst_pending _ _ _ ?_).trans ?_), ((foldl_fst_life _ _ _ ?_).trans ?_), ((foldl_fst_ns _ _ _ ?_).trans ?_)⟩ | refine ((foldl_pending _ _ _ ?_).trans ?_) | refine ((foldl_life _ _ _ ?_).trans ?_) | refine ((foldl_ns _ _ _ ?_).trans ?_) | refine ((foldl_fst_pending _ _ _ ?_).trans ?_) | refine ((foldl_fst_life _ _ _ ?_).trans ?_) | refine ((foldl_fst_ns _ _ _ ?_).trans ?_) | split | intro _ | simp only [↓State.set_keeps, ↓State.setFlag_keeps, and_self, ↓ite_fst, ↓ite_keeps, ↓State.modBond_keeps, ↓State.modTime_keeps, ↓foldl_pending, ↓foldl_life, ↓foldl_ns, ↓foldl_fst_pending, ↓foldl_fst_life, ↓foldl_fst_ns, ite_self, implies_true])

theorem State.storeConfig_keeps (s : State) :
    (State.storeConfig s).pending = s.pending ∧ (State.storeConfig s).bond.lifecycle = s.bond.lifecycle ∧ (State.storeConfig s).time.ns = s.time.ns := by
  rw [State.storeConfig]; simp only [↓State.setStore_keeps, ↓State.storeRegs_keeps, and_self]

theorem State.storeFormat_keeps (s : State) :
    (State.storeFormat s).pending = s.pending ∧ (State.storeFormat s).bond.lifecycle = s.bond.lifecycle ∧ (State.storeFormat s).time.ns = s.time.ns := by
  first | rw [State.storeFormat] | rw [State.storeFormat.eq_def]
  try dsimp only
  repeat' (first | (simp only [↓State.event_keeps, ↓State.mapAdvance_keeps, ↓State.mapCheckpoint_keeps, ↓State.modStore_keeps, ↓State.raise_keeps, ↓State.retireNand_keeps, and_self, ↓ite_fst, ↓ite_keeps, ↓State.modBond_keeps, ↓State.modTime_keeps, ↓foldl_pending, ↓foldl_life, ↓foldl_ns, ↓foldl_fst_pending, ↓foldl_fst_life, ↓foldl_fst_ns, ite_self, implies_true]; done) | with_reducible exact ⟨rfl, rfl, rfl⟩ | (grind only [State.event_keeps, State.mapAdvance_keeps, State.mapCheckpoint_keeps, State.modStore_keeps, State.raise_keeps, State.retireNand_keeps, ite_keeps, State.modBond_keeps, State.modTime_keeps]; done) | refine ⟨((foldl_pending _ _ _ ?_).trans ?_), ((foldl_life _ _ _ ?_).trans ?_), ((foldl_ns _ _ _ ?_).trans ?_)⟩ | refine ⟨((foldl_fst_pending _ _ _ ?_).trans ?_), ((foldl_fst_life _ _ _ ?_).trans ?_), ((foldl_fst_ns _ _ _ ?_).trans ?_)⟩ | refine ((foldl_pending _ _ _ ?_).trans ?_) | refine ((foldl_life _ _ _ ?_).trans ?_) | refine ((foldl_ns _ _ _ ?_).trans ?_) | refine ((foldl_fst_pending _ _ _ ?_).trans ?_) | refine ((foldl_fst_life _ _ _ ?_).trans ?_) | refine ((foldl_fst_ns _ _ _ ?_).trans ?_) | split | intro _ | simp only [↓State.event_keeps, ↓State.mapAdvance_keeps, ↓State.mapCheckpoint_keeps, ↓State.modStore_keeps, ↓State.raise_keeps, ↓State.retireNand_keeps, and_self, ↓ite_fst, ↓ite_keeps, ↓State.modBond_keeps, ↓State.modTime_keeps, ↓foldl_pending, ↓foldl_life, ↓foldl_ns, ↓foldl_fst_pending, ↓foldl_fst_life, ↓foldl_fst_ns, ite_self, implies_true])

theorem State.headerScan_keeps (s : State) :
    (State.headerScan s).pending = s.pending ∧ (State.headerScan s).bond.lifecycle = s.bond.lifecycle ∧ (State.headerScan s).time.ns = s.time.ns := by
  first | rw [State.headerScan] | rw [State.headerScan.eq_def]
  try dsimp only
  repeat' (first | (simp only [↓State.mapNote_keeps, ↓State.modMap_keeps, and_self, ↓ite_fst, ↓ite_keeps, ↓State.modBond_keeps, ↓State.modTime_keeps, ↓foldl_pending, ↓foldl_life, ↓foldl_ns, ↓foldl_fst_pending, ↓foldl_fst_life, ↓foldl_fst_ns, ite_self, implies_true]; done) | with_reducible exact ⟨rfl, rfl, rfl⟩ | (grind only [State.mapNote_keeps, State.modMap_keeps, ite_keeps, State.modBond_keeps, State.modTime_keeps]; done) | refine ⟨((foldl_pending _ _ _ ?_).trans ?_), ((foldl_life _ _ _ ?_).trans ?_), ((foldl_ns _ _ _ ?_).trans ?_)⟩ | refine ⟨((foldl_fst_pending _ _ _ ?_).trans ?_), ((foldl_fst_life _ _ _ ?_).trans ?_), ((foldl_fst_ns _ _ _ ?_).trans ?_)⟩ | refine ((foldl_pending _ _ _ ?_).trans ?_) | refine ((foldl_life _ _ _ ?_).trans ?_) | refine ((foldl_ns _ _ _ ?_).trans ?_) | refine ((foldl_fst_pending _ _ _ ?_).trans ?_) | refine ((foldl_fst_life _ _ _ ?_).trans ?_) | refine ((foldl_fst_ns _ _ _ ?_).trans ?_) | split | intro _ | simp only [↓State.mapNote_keeps, ↓State.modMap_keeps, and_self, ↓ite_fst, ↓ite_keeps, ↓State.modBond_keeps, ↓State.modTime_keeps, ↓foldl_pending, ↓foldl_life, ↓foldl_ns, ↓foldl_fst_pending, ↓foldl_fst_life, ↓foldl_fst_ns, ite_self, implies_true])

theorem State.mapLoad_keeps (s : State) :
    (State.mapLoad s).pending = s.pending ∧ (State.mapLoad s).bond.lifecycle = s.bond.lifecycle ∧ (State.mapLoad s).time.ns = s.time.ns := by
  first | rw [State.mapLoad] | rw [State.mapLoad.eq_def]
  try dsimp only
  repeat' (first | (simp only [↓State.headerScan_keeps, ↓State.mapCheckpoint_keeps, ↓State.modStore_keeps, and_self, ↓ite_fst, ↓ite_keeps, ↓State.modBond_keeps, ↓State.modTime_keeps, ↓foldl_pending, ↓foldl_life, ↓foldl_ns, ↓foldl_fst_pending, ↓foldl_fst_life, ↓foldl_fst_ns, ite_self, implies_true]; done) | with_reducible exact ⟨rfl, rfl, rfl⟩ | (grind only [State.headerScan_keeps, State.mapCheckpoint_keeps, State.modStore_keeps, ite_keeps, State.modBond_keeps, State.modTime_keeps]; done) | refine ⟨((foldl_pending _ _ _ ?_).trans ?_), ((foldl_life _ _ _ ?_).trans ?_), ((foldl_ns _ _ _ ?_).trans ?_)⟩ | refine ⟨((foldl_fst_pending _ _ _ ?_).trans ?_), ((foldl_fst_life _ _ _ ?_).trans ?_), ((foldl_fst_ns _ _ _ ?_).trans ?_)⟩ | refine ((foldl_pending _ _ _ ?_).trans ?_) | refine ((foldl_life _ _ _ ?_).trans ?_) | refine ((foldl_ns _ _ _ ?_).trans ?_) | refine ((foldl_fst_pending _ _ _ ?_).trans ?_) | refine ((foldl_fst_life _ _ _ ?_).trans ?_) | refine ((foldl_fst_ns _ _ _ ?_).trans ?_) | split | intro _ | simp only [↓State.headerScan_keeps, ↓State.mapCheckpoint_keeps, ↓State.modStore_keeps, and_self, ↓ite_fst, ↓ite_keeps, ↓State.modBond_keeps, ↓State.modTime_keeps, ↓foldl_pending, ↓foldl_life, ↓foldl_ns, ↓foldl_fst_pending, ↓foldl_fst_life, ↓foldl_fst_ns, ite_self, implies_true])

theorem State.flushReport_keeps (s : State) :
    (State.flushReport s).pending = s.pending ∧ (State.flushReport s).bond.lifecycle = s.bond.lifecycle ∧ (State.flushReport s).time.ns = s.time.ns := by
  first | rw [State.flushReport] | rw [State.flushReport.eq_def]
  try dsimp only
  repeat' (first | (simp only [↓State.event_keeps, ↓State.modStore_keeps, ↓State.raise_keeps, and_self, ↓ite_fst, ↓ite_keeps, ↓State.modBond_keeps, ↓State.modTime_keeps, ↓foldl_pending, ↓foldl_life, ↓foldl_ns, ↓foldl_fst_pending, ↓foldl_fst_life, ↓foldl_fst_ns, ite_self, implies_true]; done) | with_reducible exact ⟨rfl, rfl, rfl⟩ | (grind only [State.event_keeps, State.modStore_keeps, State.raise_keeps, ite_keeps, State.modBond_keeps, State.modTime_keeps]; done) | refine ⟨((foldl_pending _ _ _ ?_).trans ?_), ((foldl_life _ _ _ ?_).trans ?_), ((foldl_ns _ _ _ ?_).trans ?_)⟩ | refine ⟨((foldl_fst_pending _ _ _ ?_).trans ?_), ((foldl_fst_life _ _ _ ?_).trans ?_), ((foldl_fst_ns _ _ _ ?_).trans ?_)⟩ | refine ((foldl_pending _ _ _ ?_).trans ?_) | refine ((foldl_life _ _ _ ?_).trans ?_) | refine ((foldl_ns _ _ _ ?_).trans ?_) | refine ((foldl_fst_pending _ _ _ ?_).trans ?_) | refine ((foldl_fst_life _ _ _ ?_).trans ?_) | refine ((foldl_fst_ns _ _ _ ?_).trans ?_) | split | intro _ | simp only [↓State.event_keeps, ↓State.modStore_keeps, ↓State.raise_keeps, and_self, ↓ite_fst, ↓ite_keeps, ↓State.modBond_keeps, ↓State.modTime_keeps, ↓foldl_pending, ↓foldl_life, ↓foldl_ns, ↓foldl_fst_pending, ↓foldl_fst_life, ↓foldl_fst_ns, ite_self, implies_true])

theorem execStoreStart_keeps (s : State) :
    ∀ s', (execStoreStart s) = .next s' → s'.pending = s.pending ∧ s'.bond.lifecycle = s.bond.lifecycle ∧ s'.time.ns = s.time.ns := by
  intro s'; first | rw [execStoreStart] | rw [execStoreStart.eq_def]
  try dsimp only
  repeat' (first | (simp only [↓State.aidDrain_keeps, ↓State.flushReport_keeps, ↓State.mapLoad_keeps, ↓State.setFlag_keeps, ↓State.setStore_keeps, ↓State.storeFormat_keeps, ↓State.storeReady_keeps, ↓State.useSlot_keeps, and_self, ↓ite_fst, ↓ite_keeps, ↓State.modBond_keeps, ↓State.modTime_keeps, ↓foldl_pending, ↓foldl_life, ↓foldl_ns, ↓foldl_fst_pending, ↓foldl_fst_life, ↓foldl_fst_ns, ite_self, implies_true]; done) | with_reducible exact ⟨rfl, rfl, rfl⟩ | (grind only [State.aidDrain_keeps, State.flushReport_keeps, State.mapLoad_keeps, State.setFlag_keeps, State.setStore_keeps, State.storeFormat_keeps, State.storeReady_keeps, State.useSlot_keeps, ite_keeps, State.modBond_keeps, State.modTime_keeps]; done) | (with_reducible refine out_next (P := fun s' => s'.pending = s.pending ∧ s'.bond.lifecycle = s.bond.lifecycle ∧ s'.time.ns = s.time.ns) ?_) | with_reducible refine out_ite ?_ ?_ | refine ⟨((foldl_pending _ _ _ ?_).trans ?_), ((foldl_life _ _ _ ?_).trans ?_), ((foldl_ns _ _ _ ?_).trans ?_)⟩ | refine ⟨((foldl_fst_pending _ _ _ ?_).trans ?_), ((foldl_fst_life _ _ _ ?_).trans ?_), ((foldl_fst_ns _ _ _ ?_).trans ?_)⟩ | refine ((foldl_pending _ _ _ ?_).trans ?_) | refine ((foldl_life _ _ _ ?_).trans ?_) | refine ((foldl_ns _ _ _ ?_).trans ?_) | refine ((foldl_fst_pending _ _ _ ?_).trans ?_) | refine ((foldl_fst_life _ _ _ ?_).trans ?_) | refine ((foldl_fst_ns _ _ _ ?_).trans ?_) | split | intro _ | simp only [↓State.aidDrain_keeps, ↓State.flushReport_keeps, ↓State.mapLoad_keeps, ↓State.setFlag_keeps, ↓State.setStore_keeps, ↓State.storeFormat_keeps, ↓State.storeReady_keeps, ↓State.useSlot_keeps, and_self, ↓ite_fst, ↓ite_keeps, ↓State.modBond_keeps, ↓State.modTime_keeps, ↓foldl_pending, ↓foldl_life, ↓foldl_ns, ↓foldl_fst_pending, ↓foldl_fst_life, ↓foldl_fst_ns, ite_self, implies_true])

theorem execGnssAidingSave_keeps (s : State) :
    ∀ s', (execGnssAidingSave s) = .next s' → s'.pending = s.pending ∧ s'.bond.lifecycle = s.bond.lifecycle ∧ s'.time.ns = s.time.ns := by
  intro s'; first | rw [execGnssAidingSave] | rw [execGnssAidingSave.eq_def]
  try dsimp only
  repeat' (first | (simp only [↓State.aidSave_keeps, ↓State.bgRan_keeps, and_self, ↓ite_fst, ↓ite_keeps, ↓State.modBond_keeps, ↓State.modTime_keeps, ↓foldl_pending, ↓foldl_life, ↓foldl_ns, ↓foldl_fst_pending, ↓foldl_fst_life, ↓foldl_fst_ns, ite_self, implies_true]; done) | with_reducible exact ⟨rfl, rfl, rfl⟩ | (grind only [State.aidSave_keeps, State.bgRan_keeps, ite_keeps, State.modBond_keeps, State.modTime_keeps]; done) | (with_reducible refine out_next (P := fun s' => s'.pending = s.pending ∧ s'.bond.lifecycle = s.bond.lifecycle ∧ s'.time.ns = s.time.ns) ?_) | with_reducible refine out_ite ?_ ?_ | refine ⟨((foldl_pending _ _ _ ?_).trans ?_), ((foldl_life _ _ _ ?_).trans ?_), ((foldl_ns _ _ _ ?_).trans ?_)⟩ | refine ⟨((foldl_fst_pending _ _ _ ?_).trans ?_), ((foldl_fst_life _ _ _ ?_).trans ?_), ((foldl_fst_ns _ _ _ ?_).trans ?_)⟩ | refine ((foldl_pending _ _ _ ?_).trans ?_) | refine ((foldl_life _ _ _ ?_).trans ?_) | refine ((foldl_ns _ _ _ ?_).trans ?_) | refine ((foldl_fst_pending _ _ _ ?_).trans ?_) | refine ((foldl_fst_life _ _ _ ?_).trans ?_) | refine ((foldl_fst_ns _ _ _ ?_).trans ?_) | split | intro _ | simp only [↓State.aidSave_keeps, ↓State.bgRan_keeps, and_self, ↓ite_fst, ↓ite_keeps, ↓State.modBond_keeps, ↓State.modTime_keeps, ↓foldl_pending, ↓foldl_life, ↓foldl_ns, ↓foldl_fst_pending, ↓foldl_fst_life, ↓foldl_fst_ns, ite_self, implies_true])

end Sys2Proof.Machine
end

