-- ==== Sys2Proof/Laws/KeepTime.lean ====
section
/-!
SUPPORT. What the operations of Machine/Time.lean leave alone: the queue, the life cycle and the timebase.
-/
set_option linter.unusedSimpArgs false

namespace Sys2Proof.Machine

theorem State.showRate_keeps (s : State) :
    (State.showRate s).pending = s.pending ∧ (State.showRate s).bond.lifecycle = s.bond.lifecycle ∧ (State.showRate s).time.ns = s.time.ns := by
  rw [State.showRate]; simp only [↓State.notePpm_keeps, ↓State.set_keeps, ↓State.setFlag_keeps, and_self]

theorem State.absorb_keeps (s : State) (inc : Nat) :
    (State.absorb s inc).pending = s.pending ∧ (State.absorb s inc).bond.lifecycle = s.bond.lifecycle ∧ (State.absorb s inc).time.ns = s.time.ns := by
  rw [State.absorb]; exact ⟨rfl, rfl, rfl⟩

theorem State.leapDiffers_keeps (s : State) (src utc : Nat) :
    (State.leapDiffers s src utc).pending = s.pending ∧ (State.leapDiffers s src utc).bond.lifecycle = s.bond.lifecycle ∧ (State.leapDiffers s src utc).time.ns = s.time.ns := by
  first | rw [State.leapDiffers] | rw [State.leapDiffers.eq_def]
  try dsimp only
  repeat' (first | (simp only [↓State.event_keeps, ↓State.raise_keeps, ↓State.setFlag_keeps, and_self, ↓ite_fst, ↓ite_keeps, ↓State.modBond_keeps, ↓State.modTime_keeps, ↓foldl_pending, ↓foldl_life, ↓foldl_ns, ↓foldl_fst_pending, ↓foldl_fst_life, ↓foldl_fst_ns, ite_self, implies_true]; done) | with_reducible exact ⟨rfl, rfl, rfl⟩ | (grind only [State.event_keeps, State.raise_keeps, State.setFlag_keeps, ite_keeps, State.modBond_keeps, State.modTime_keeps]; done) | refine ⟨((foldl_pending _ _ _ ?_).trans ?_), ((foldl_life _ _ _ ?_).trans ?_), ((foldl_ns _ _ _ ?_).trans ?_)⟩ | refine ⟨((foldl_fst_pending _ _ _ ?_).trans ?_), ((foldl_fst_life _ _ _ ?_).trans ?_), ((foldl_fst_ns _ _ _ ?_).trans ?_)⟩ | refine ((foldl_pending _ _ _ ?_).trans ?_) | refine ((foldl_life _ _ _ ?_).trans ?_) | refine ((foldl_ns _ _ _ ?_).trans ?_) | refine ((foldl_fst_pending _ _ _ ?_).trans ?_) | refine ((foldl_fst_life _ _ _ ?_).trans ?_) | refine ((foldl_fst_ns _ _ _ ?_).trans ?_) | split | intro _ | simp only [↓State.event_keeps, ↓State.raise_keeps, ↓State.setFlag_keeps, and_self, ↓ite_fst, ↓ite_keeps, ↓State.modBond_keeps, ↓State.modTime_keeps, ↓foldl_pending, ↓foldl_life, ↓foldl_ns, ↓foldl_fst_pending, ↓foldl_fst_life, ↓foldl_fst_ns, ite_self, implies_true])

theorem State.noteUtc_keeps (s : State) (src utc : Nat) :
    (State.noteUtc s src utc).pending = s.pending ∧ (State.noteUtc s src utc).bond.lifecycle = s.bond.lifecycle ∧ (State.noteUtc s src utc).time.ns = s.time.ns := by
  rw [State.noteUtc]; simp only [↓State.leapDiffers_keeps, and_self, ↓ite_keeps, ite_self, ↓State.modBond_keeps, ↓State.modTime_keeps]

theorem State.noteLeap_keeps (s : State) (src : Nat) (leap : Nat × Nat) :
    (State.noteLeap s src leap).pending = s.pending ∧ (State.noteLeap s src leap).bond.lifecycle = s.bond.lifecycle ∧ (State.noteLeap s src leap).time.ns = s.time.ns := by
  first | rw [State.noteLeap] | rw [State.noteLeap.eq_def]
  try dsimp only
  repeat' (first | (simp only [↓State.leapDiffers_keeps, and_self, ↓ite_fst, ↓ite_keeps, ↓State.modBond_keeps, ↓State.modTime_keeps, ↓foldl_pending, ↓foldl_life, ↓foldl_ns, ↓foldl_fst_pending, ↓foldl_fst_life, ↓foldl_fst_ns, ite_self, implies_true]; done) | with_reducible exact ⟨rfl, rfl, rfl⟩ | (grind only [State.leapDiffers_keeps, ite_keeps, State.modBond_keeps, State.modTime_keeps]; done) | refine ⟨((foldl_pending _ _ _ ?_).trans ?_), ((foldl_life _ _ _ ?_).trans ?_), ((foldl_ns _ _ _ ?_).trans ?_)⟩ | refine ⟨((foldl_fst_pending _ _ _ ?_).trans ?_), ((foldl_fst_life _ _ _ ?_).trans ?_), ((foldl_fst_ns _ _ _ ?_).trans ?_)⟩ | refine ((foldl_pending _ _ _ ?_).trans ?_) | refine ((foldl_life _ _ _ ?_).trans ?_) | refine ((foldl_ns _ _ _ ?_).trans ?_) | refine ((foldl_fst_pending _ _ _ ?_).trans ?_) | refine ((foldl_fst_life _ _ _ ?_).trans ?_) | refine ((foldl_fst_ns _ _ _ ?_).trans ?_) | split | intro _ | simp only [↓State.leapDiffers_keeps, and_self, ↓ite_fst, ↓ite_keeps, ↓State.modBond_keeps, ↓State.modTime_keeps, ↓foldl_pending, ↓foldl_life, ↓foldl_ns, ↓foldl_fst_pending, ↓foldl_fst_life, ↓foldl_fst_ns, ite_self, implies_true])

theorem State.noteReturn_keeps (s : State) (q t : Nat) :
    (State.noteReturn s q t).pending = s.pending ∧ (State.noteReturn s q t).bond.lifecycle = s.bond.lifecycle ∧ (State.noteReturn s q t).time.ns = s.time.ns := by
  first | rw [State.noteReturn] | rw [State.noteReturn.eq_def]
  try dsimp only
  repeat' (first | (simp only [↓State.modBal_keeps, and_self, ↓ite_fst, ↓ite_keeps, ↓State.modBond_keeps, ↓State.modTime_keeps, ↓foldl_pending, ↓foldl_life, ↓foldl_ns, ↓foldl_fst_pending, ↓foldl_fst_life, ↓foldl_fst_ns, ite_self, implies_true]; done) | with_reducible exact ⟨rfl, rfl, rfl⟩ | (grind only [State.modBal_keeps, ite_keeps, State.modBond_keeps, State.modTime_keeps]; done) | refine ⟨((foldl_pending _ _ _ ?_).trans ?_), ((foldl_life _ _ _ ?_).trans ?_), ((foldl_ns _ _ _ ?_).trans ?_)⟩ | refine ⟨((foldl_fst_pending _ _ _ ?_).trans ?_), ((foldl_fst_life _ _ _ ?_).trans ?_), ((foldl_fst_ns _ _ _ ?_).trans ?_)⟩ | refine ((foldl_pending _ _ _ ?_).trans ?_) | refine ((foldl_life _ _ _ ?_).trans ?_) | refine ((foldl_ns _ _ _ ?_).trans ?_) | refine ((foldl_fst_pending _ _ _ ?_).trans ?_) | refine ((foldl_fst_life _ _ _ ?_).trans ?_) | refine ((foldl_fst_ns _ _ _ ?_).trans ?_) | split | intro _ | simp only [↓State.modBal_keeps, and_self, ↓ite_fst, ↓ite_keeps, ↓State.modBond_keeps, ↓State.modTime_keeps, ↓foldl_pending, ↓foldl_life, ↓foldl_ns, ↓foldl_fst_pending, ↓foldl_fst_life, ↓foldl_fst_ns, ite_self, implies_true])

theorem State.setQuality_keeps (s : State) (q : Nat) :
    (State.setQuality s q).pending = s.pending ∧ (State.setQuality s q).bond.lifecycle = s.bond.lifecycle ∧ (State.setQuality s q).time.ns = s.time.ns := by
  rw [State.setQuality]; simp only [↓State.noteReturn_keeps, ↓State.raise_keeps, ↓State.setFld_keeps, and_self, ↓ite_keeps, ite_self, ↓State.modBond_keeps, ↓State.modTime_keeps]

theorem State.setDiscipline_keeps (s : State) (st src : Nat) :
    (State.setDiscipline s st src).pending = s.pending ∧ (State.setDiscipline s st src).bond.lifecycle = s.bond.lifecycle ∧ (State.setDiscipline s st src).time.ns = s.time.ns := by
  rw [State.setDiscipline]; simp only [↓State.raise_keeps, ↓State.setFld_keeps, and_self, ↓ite_keeps, ite_self, ↓State.modBond_keeps, ↓State.modTime_keeps]

theorem State.publish_keeps (s : State) :
    (State.publish s).pending = s.pending ∧ (State.publish s).bond.lifecycle = s.bond.lifecycle ∧ (State.publish s).time.ns = s.time.ns := by
  rw [State.publish]; simp only [↓State.notePpm_keeps, ↓State.set_keeps, ↓State.setQuality_keeps, and_self, ↓ite_keeps, ite_self, ↓State.modBond_keeps, ↓State.modTime_keeps]

theorem State.setSource_keeps (s : State) (c : Nat) (x : TimeSource) :
    (State.setSource s c x).pending = s.pending ∧ (State.setSource s c x).bond.lifecycle = s.bond.lifecycle ∧ (State.setSource s c x).time.ns = s.time.ns := by
  with_reducible exact ⟨rfl, rfl, rfl⟩

theorem State.enterLocked_keeps (s : State) :
    (State.enterLocked s).pending = s.pending ∧ (State.enterLocked s).bond.lifecycle = s.bond.lifecycle ∧ (State.enterLocked s).time.ns = s.time.ns := by
  rw [State.enterLocked]; simp only [↓State.raise_keeps, ↓State.setDiscipline_keeps, ↓State.setQuality_keeps, and_self, ↓ite_keeps, ite_self, ↓State.modBond_keeps, ↓State.modTime_keeps]

theorem State.settle_keeps (s : State) :
    (State.settle s).pending = s.pending ∧ (State.settle s).bond.lifecycle = s.bond.lifecycle ∧ (State.settle s).time.ns = s.time.ns := by
  rw [State.settle]; simp only [↓State.enterLocked_keeps, and_self, ↓ite_keeps, ite_self, ↓State.modBond_keeps, ↓State.modTime_keeps]

theorem State.tick_keeps (s : State) :
    (State.tick s).pending = s.pending ∧ (State.tick s).bond.lifecycle = s.bond.lifecycle := by
  rw [State.tick]
  simp only [↓State.settle_keeps, ↓State.showRate_keeps, ↓State.absorb_keeps, ↓State.modTime_keeps, and_self]

theorem State.advance16_keeps (s : State) (at16 : Nat) :
    (State.advance16 s at16).pending = s.pending ∧ (State.advance16 s at16).bond.lifecycle = s.bond.lifecycle := by
  rw [State.advance16]; dsimp only
  split
  · split <;>
      simp only [↓State.settle_keeps, ↓State.showRate_keeps, ↓State.absorb_keeps, ↓State.modTime_keeps, and_self]
  · exact ⟨rfl, rfl⟩

theorem State.advanceTo_keeps (s : State) (ns : Nat) :
    (State.advanceTo s ns).pending = s.pending ∧ (State.advanceTo s ns).bond.lifecycle = s.bond.lifecycle := by
  exact State.advance16_keeps ..

theorem State.correct_keeps (s : State) (e : Int) :
    (State.correct s e).pending = s.pending ∧ (State.correct s e).bond.lifecycle = s.bond.lifecycle ∧ (State.correct s e).time.ns = s.time.ns := by
  rw [State.correct.eq_def]; repeat' (first | (solve | simp only [↓State.set_keeps, ↓State.settle_keeps, ↓State.showRate_keeps, and_self, ↓ite_keeps, ite_self, ↓State.modBond_keeps, ↓State.modTime_keeps]) | with_reducible exact ⟨rfl, rfl, rfl⟩ | split)

theorem State.lockOn_keeps (s : State) (c : Nat) :
    (State.lockOn s c).pending = s.pending ∧ (State.lockOn s c).bond.lifecycle = s.bond.lifecycle ∧ (State.lockOn s c).time.ns = s.time.ns := by
  rw [State.lockOn]; simp only [↓State.correct_keeps, ↓State.setDiscipline_keeps, and_self]

theorem State.enterHoldover_keeps (s : State) :
    (State.enterHoldover s).pending = s.pending ∧ (State.enterHoldover s).bond.lifecycle = s.bond.lifecycle ∧ (State.enterHoldover s).time.ns = s.time.ns := by
  rw [State.enterHoldover]; simp only [↓State.event_keeps, ↓State.publish_keeps, ↓State.raise_keeps, ↓State.setDiscipline_keeps, ↓State.setQuality_keeps, ↓State.showRate_keeps, and_self, ↓ite_keeps, ite_self, ↓State.modBond_keeps, ↓State.modTime_keeps]

theorem State.sourceLocked_keeps (s : State) (c : Nat) :
    (State.sourceLocked s c).pending = s.pending ∧ (State.sourceLocked s c).bond.lifecycle = s.bond.lifecycle ∧ (State.sourceLocked s c).time.ns = s.time.ns := by
  rw [State.sourceLocked]; simp only [↓State.lockOn_keeps, and_self, ↓ite_keeps, ite_self, ↓State.modBond_keeps, ↓State.modTime_keeps]

theorem State.sourceLost_keeps (s : State) (c : Nat) :
    (State.sourceLost s c).pending = s.pending ∧ (State.sourceLost s c).bond.lifecycle = s.bond.lifecycle ∧ (State.sourceLost s c).time.ns = s.time.ns := by
  rw [State.sourceLost.eq_def]; repeat' (first | (solve | simp only [↓State.enterHoldover_keeps, ↓State.lockOn_keeps, ↓State.setDiscipline_keeps, and_self, ↓ite_keeps, ite_self, ↓State.modBond_keeps, ↓State.modTime_keeps]) | with_reducible exact ⟨rfl, rfl, rfl⟩ | split)

theorem State.observeSource_keeps (s : State) (c n m : Nat) (ok : Bool) (err : Int) (measure : Bool) :
    (State.observeSource s c n m ok err measure).pending = s.pending ∧ (State.observeSource s c n m ok err measure).bond.lifecycle = s.bond.lifecycle ∧ (State.observeSource s c n m ok err measure).time.ns = s.time.ns := by
  rw [State.observeSource]; simp only [↓State.correct_keeps, ↓State.setSource_keeps, ↓State.sourceLocked_keeps, ↓State.sourceLost_keeps, and_self, ↓ite_keeps, ite_self, ↓State.modBond_keeps, ↓State.modTime_keeps]

theorem State.loseSource_keeps (s : State) (c : Nat) :
    (State.loseSource s c).pending = s.pending ∧ (State.loseSource s c).bond.lifecycle = s.bond.lifecycle ∧ (State.loseSource s c).time.ns = s.time.ns := by
  rw [State.loseSource]; simp only [↓State.setSource_keeps, ↓State.sourceLost_keeps, and_self, ↓ite_keeps, ite_self, ↓State.modBond_keeps, ↓State.modTime_keeps]

theorem State.noteGnss_keeps (old : State) (s : State) :
    (State.noteGnss old s).pending = s.pending ∧ (State.noteGnss old s).bond.lifecycle = s.bond.lifecycle ∧ (State.noteGnss old s).time.ns = s.time.ns := by
  rw [State.noteGnss]; simp only [↓State.count_keeps, ↓State.raise_keeps, and_self, ↓ite_keeps, ite_self, ↓State.modBond_keeps, ↓State.modTime_keeps]

theorem State.gnssWords_keeps (s : State) (g : GnssSol) :
    (State.gnssWords s g).pending = s.pending ∧ (State.gnssWords s g).bond.lifecycle = s.bond.lifecycle ∧ (State.gnssWords s g).time.ns = s.time.ns := by
  rw [State.gnssWords]; simp only [↓State.count_keeps, ↓State.set_keeps, and_self, ↓ite_keeps, ite_self, ↓State.modBond_keeps, ↓State.modTime_keeps]

theorem State.gnssStatus_keeps (s : State) (g : GnssSol) (kind : Nat) :
    (State.gnssStatus s g kind).pending = s.pending ∧ (State.gnssStatus s g kind).bond.lifecycle = s.bond.lifecycle ∧ (State.gnssStatus s g kind).time.ns = s.time.ns := by
  with_reducible exact ⟨rfl, rfl, rfl⟩

theorem State.surveyTake_keeps (s : State) (g : GnssSol) :
    (State.surveyTake s g).pending = s.pending ∧ (State.surveyTake s g).bond.lifecycle = s.bond.lifecycle ∧ (State.surveyTake s g).time.ns = s.time.ns := by
  rw [State.surveyTake]; simp only [↓State.modCraft_keeps, and_self, ↓ite_keeps, ite_self, ↓State.modBond_keeps, ↓State.modTime_keeps]

theorem execGnssSolution_keeps (g : GnssSol) (s : State) :
    ∀ s', (execGnssSolution g s) = .next s' → s'.pending = s.pending ∧ s'.bond.lifecycle = s.bond.lifecycle ∧ s'.time.ns = s.time.ns := by
  intro s'; first | rw [execGnssSolution] | rw [execGnssSolution.eq_def]
  try dsimp only
  repeat' (first | (simp only [↓State.enterLocked_keeps, ↓State.gnssStatus_keeps, ↓State.gnssWords_keeps, ↓State.noteGnss_keeps, ↓State.noteLeap_keeps, ↓State.noteUtc_keeps, ↓State.observeSource_keeps, ↓State.raise_keeps, ↓State.setSource_keeps, ↓State.surveyTake_keeps, and_self, ↓ite_fst, ↓ite_keeps, ↓State.modBond_keeps, ↓State.modTime_keeps, ↓foldl_pending, ↓foldl_life, ↓foldl_ns, ↓foldl_fst_pending, ↓foldl_fst_life, ↓foldl_fst_ns, ite_self, implies_true]; done) | with_reducible exact ⟨rfl, rfl, rfl⟩ | (grind only [State.enterLocked_keeps, State.gnssStatus_keeps, State.gnssWords_keeps, State.noteGnss_keeps, State.noteLeap_keeps, State.noteUtc_keeps, State.observeSource_keeps, State.raise_keeps, State.setSource_keeps, State.surveyTake_keeps, ite_keeps, State.modBond_keeps, State.modTime_keeps]; done) | (with_reducible refine out_next (P := fun s' => s'.pending = s.pending ∧ s'.bond.lifecycle = s.bond.lifecycle ∧ s'.time.ns = s.time.ns) ?_) | with_reducible refine out_ite ?_ ?_ | refine ⟨((foldl_pending _ _ _ ?_).trans ?_), ((foldl_life _ _ _ ?_).trans ?_), ((foldl_ns _ _ _ ?_).trans ?_)⟩ | refine ⟨((foldl_fst_pending _ _ _ ?_).trans ?_), ((foldl_fst_life _ _ _ ?_).trans ?_), ((foldl_fst_ns _ _ _ ?_).trans ?_)⟩ | refine ((foldl_pending _ _ _ ?_).trans ?_) | refine ((foldl_life _ _ _ ?_).trans ?_) | refine ((foldl_ns _ _ _ ?_).trans ?_) | refine ((foldl_fst_pending _ _ _ ?_).trans ?_) | refine ((foldl_fst_life _ _ _ ?_).trans ?_) | refine ((foldl_fst_ns _ _ _ ?_).trans ?_) | split | intro _ | simp only [↓State.enterLocked_keeps, ↓State.gnssStatus_keeps, ↓State.gnssWords_keeps, ↓State.noteGnss_keeps, ↓State.noteLeap_keeps, ↓State.noteUtc_keeps, ↓State.observeSource_keeps, ↓State.raise_keeps, ↓State.setSource_keeps, ↓State.surveyTake_keeps, and_self, ↓ite_fst, ↓ite_keeps, ↓State.modBond_keeps, ↓State.modTime_keeps, ↓foldl_pending, ↓foldl_life, ↓foldl_ns, ↓foldl_fst_pending, ↓foldl_fst_life, ↓foldl_fst_ns, ite_self, implies_true])

theorem execGnssAntFault_keeps (fault : Bool) (s : State) :
    ∀ s', (execGnssAntFault fault s) = .next s' → s'.pending = s.pending ∧ s'.bond.lifecycle = s.bond.lifecycle ∧ s'.time.ns = s.time.ns := by
  intro s'; first | rw [execGnssAntFault] | rw [execGnssAntFault.eq_def]
  try dsimp only
  repeat' (first | (simp only [↓State.loseSource_keeps, ↓State.noteGnss_keeps, ↓State.raise_keeps, ↓State.setFlag_keeps, ↓State.setFld_keeps, and_self, ↓ite_fst, ↓ite_keeps, ↓State.modBond_keeps, ↓State.modTime_keeps, ↓foldl_pending, ↓foldl_life, ↓foldl_ns, ↓foldl_fst_pending, ↓foldl_fst_life, ↓foldl_fst_ns, ite_self, implies_true]; done) | with_reducible exact ⟨rfl, rfl, rfl⟩ | (grind only [State.loseSource_keeps, State.noteGnss_keeps, State.raise_keeps, State.setFlag_keeps, State.setFld_keeps, ite_keeps, State.modBond_keeps, State.modTime_keeps]; done) | (with_reducible refine out_next (P := fun s' => s'.pending = s.pending ∧ s'.bond.lifecycle = s.bond.lifecycle ∧ s'.time.ns = s.time.ns) ?_) | with_reducible refine out_ite ?_ ?_ | refine ⟨((foldl_pending _ _ _ ?_).trans ?_), ((foldl_life _ _ _ ?_).trans ?_), ((foldl_ns _ _ _ ?_).trans ?_)⟩ | refine ⟨((foldl_fst_pending _ _ _ ?_).trans ?_), ((foldl_fst_life _ _ _ ?_).trans ?_), ((foldl_fst_ns _ _ _ ?_).trans ?_)⟩ | refine ((foldl_pending _ _ _ ?_).trans ?_) | refine ((foldl_life _ _ _ ?_).trans ?_) | refine ((foldl_ns _ _ _ ?_).trans ?_) | refine ((foldl_fst_pending _ _ _ ?_).trans ?_) | refine ((foldl_fst_life _ _ _ ?_).trans ?_) | refine ((foldl_fst_ns _ _ _ ?_).trans ?_) | split | intro _ | simp only [↓State.loseSource_keeps, ↓State.noteGnss_keeps, ↓State.raise_keeps, ↓State.setFlag_keeps, ↓State.setFld_keeps, and_self, ↓ite_fst, ↓ite_keeps, ↓State.modBond_keeps, ↓State.modTime_keeps, ↓foldl_pending, ↓foldl_life, ↓foldl_ns, ↓foldl_fst_pending, ↓foldl_fst_life, ↓foldl_fst_ns, ite_self, implies_true])

theorem execGnssGroupDelayCal_keeps (s : State) :
    ∀ s', (execGnssGroupDelayCal s) = .next s' → s'.pending = s.pending ∧ s'.bond.lifecycle = s.bond.lifecycle ∧ s'.time.ns = s.time.ns := by
  intro s'; first | rw [execGnssGroupDelayCal] | rw [execGnssGroupDelayCal.eq_def]
  try dsimp only
  repeat' (first | (simp only [↓State.bgRan_keeps, ↓State.setFld_keeps, and_self, ↓ite_fst, ↓ite_keeps, ↓State.modBond_keeps, ↓State.modTime_keeps, ↓foldl_pending, ↓foldl_life, ↓foldl_ns, ↓foldl_fst_pending, ↓foldl_fst_life, ↓foldl_fst_ns, ite_self, implies_true]; done) | with_reducible exact ⟨rfl, rfl, rfl⟩ | (grind only [State.bgRan_keeps, State.setFld_keeps, ite_keeps, State.modBond_keeps, State.modTime_keeps]; done) | (with_reducible refine out_next (P := fun s' => s'.pending = s.pending ∧ s'.bond.lifecycle = s.bond.lifecycle ∧ s'.time.ns = s.time.ns) ?_) | with_reducible refine out_ite ?_ ?_ | refine ⟨((foldl_pending _ _ _ ?_).trans ?_), ((foldl_life _ _ _ ?_).trans ?_), ((foldl_ns _ _ _ ?_).trans ?_)⟩ | refine ⟨((foldl_fst_pending _ _ _ ?_).trans ?_), ((foldl_fst_life _ _ _ ?_).trans ?_), ((foldl_fst_ns _ _ _ ?_).trans ?_)⟩ | refine ((foldl_pending _ _ _ ?_).trans ?_) | refine ((foldl_life _ _ _ ?_).trans ?_) | refine ((foldl_ns _ _ _ ?_).trans ?_) | refine ((foldl_fst_pending _ _ _ ?_).trans ?_) | refine ((foldl_fst_life _ _ _ ?_).trans ?_) | refine ((foldl_fst_ns _ _ _ ?_).trans ?_) | split | intro _ | simp only [↓State.bgRan_keeps, ↓State.setFld_keeps, and_self, ↓ite_fst, ↓ite_keeps, ↓State.modBond_keeps, ↓State.modTime_keeps, ↓foldl_pending, ↓foldl_life, ↓foldl_ns, ↓foldl_fst_pending, ↓foldl_fst_life, ↓foldl_fst_ns, ite_self, implies_true])

theorem State.capture_keeps (s : State) (n ns frac edge : Nat) :
    (State.capture s n ns frac edge).pending = s.pending ∧ (State.capture s n ns frac edge).bond.lifecycle = s.bond.lifecycle ∧ (State.capture s n ns frac edge).time.ns = s.time.ns := by
  rw [State.capture.eq_def]; repeat' (first | (solve | simp only [↓State.raise_keeps, and_self, ↓ite_keeps, ite_self, ↓State.modBond_keeps, ↓State.modTime_keeps]) | with_reducible exact ⟨rfl, rfl, rfl⟩ | split)

theorem execCaptureEdge_keeps (input ns frac edge : Nat) (s : State) :
    ∀ s', (execCaptureEdge input ns frac edge s) = .next s' → s'.pending = s.pending ∧ s'.bond.lifecycle = s.bond.lifecycle ∧ s'.time.ns = s.time.ns := by
  rw [execCaptureEdge.eq_def]; repeat' (first | with_reducible exact out_keeps ⟨rfl, rfl, rfl⟩ | with_reducible refine out_keeps ?_ | with_reducible refine out_both ?_ ?_ | (solve | simp only [↓State.capture_keeps, and_self]) | split)

theorem execCaptPop_keeps (val : Word) (s : State) :
    ∀ s', (execCaptPop val s) = .next s' → s'.pending = s.pending ∧ s'.bond.lifecycle = s.bond.lifecycle ∧ s'.time.ns = s.time.ns := by
  rw [execCaptPop.eq_def]; repeat' (first | with_reducible exact out_keeps ⟨rfl, rfl, rfl⟩ | with_reducible refine out_keeps ?_ | with_reducible refine out_both ?_ ?_ | (solve | simp only [and_self, ↓ite_fst, ↓ite_keeps, ↓State.modBond_keeps, ↓State.modTime_keeps, ↓foldl_pending, ↓foldl_life, ↓foldl_ns, ↓foldl_fst_pending, ↓foldl_fst_life, ↓foldl_fst_ns, ite_self, implies_true]) | split)

theorem execPpsInEdge_keeps (ns frac edge : Nat) (s : State) :
    ∀ s', (execPpsInEdge ns frac edge s) = .next s' → s'.pending = s.pending ∧ s'.bond.lifecycle = s.bond.lifecycle ∧ s'.time.ns = s.time.ns := by
  rw [execPpsInEdge.eq_def]; repeat' (first | with_reducible exact out_keeps ⟨rfl, rfl, rfl⟩ | with_reducible refine out_keeps ?_ | with_reducible refine out_both ?_ ?_ | (solve | simp only [↓State.capture_keeps, ↓State.setSource_keeps, ↓State.sourceLocked_keeps, and_self]) | split)

theorem execExtLost_keeps (s : State) :
    ∀ s', (execExtLost s) = .next s' → s'.pending = s.pending ∧ s'.bond.lifecycle = s.bond.lifecycle ∧ s'.time.ns = s.time.ns := by
  rw [execExtLost.eq_def]; repeat' (first | with_reducible exact out_keeps ⟨rfl, rfl, rfl⟩ | with_reducible refine out_keeps ?_ | with_reducible refine out_both ?_ ?_ | (solve | simp only [↓State.loseSource_keeps, and_self]) | split)

theorem execHoldOffExpire_keeps (s : State) :
    ∀ s', (execHoldOffExpire s) = .next s' → s'.pending = s.pending ∧ s'.bond.lifecycle = s.bond.lifecycle ∧ s'.time.ns = s.time.ns := by
  rw [execHoldOffExpire.eq_def]; try dsimp only
  repeat' (first | with_reducible exact out_keeps ⟨rfl, rfl, rfl⟩ | with_reducible refine out_keeps ?_ | with_reducible refine out_both ?_ ?_ | (solve | simp only [↓State.lockOn_keeps, and_self, ↓ite_keeps, ite_self, ↓State.modBond_keeps, ↓State.modTime_keeps]) | with_reducible exact ⟨rfl, rfl, rfl⟩ | split | intro _)

theorem execSetTime_keeps (s : State) :
    ∀ s', (execSetTime s) = .next s' → s'.pending = s.pending ∧ s'.bond.lifecycle = s.bond.lifecycle := by
  intro s'; first | rw [execSetTime] | rw [execSetTime.eq_def]
  try dsimp only
  repeat' (first | (simp only [↓State.correct_keeps, ↓State.modBal_keeps, ↓State.setDiscipline_keeps, ↓State.setFld_keeps, ↓State.setQuality_keeps, and_self, ↓ite_fst, ↓ite_keeps, ↓State.modBond_keeps, ↓State.modTime_keeps, ↓foldl_pending, ↓foldl_life, ↓foldl_ns, ↓foldl_fst_pending, ↓foldl_fst_life, ↓foldl_fst_ns, ite_self, implies_true]; done) | with_reducible exact ⟨rfl, rfl⟩ | (grind only [State.correct_keeps, State.modBal_keeps, State.setDiscipline_keeps, State.setFld_keeps, State.setQuality_keeps, ite_keeps, State.modBond_keeps, State.modTime_keeps]; done) | (with_reducible refine out_next (P := fun s' => s'.pending = s.pending ∧ s'.bond.lifecycle = s.bond.lifecycle) ?_) | with_reducible refine out_ite ?_ ?_ | refine ⟨((foldl_pending _ _ _ ?_).trans ?_), ((foldl_life _ _ _ ?_).trans ?_)⟩ | refine ((foldl_pending _ _ _ ?_).trans ?_) | refine ((foldl_life _ _ _ ?_).trans ?_) | refine ((foldl_ns _ _ _ ?_).trans ?_) | refine ((foldl_fst_pending _ _ _ ?_).trans ?_) | refine ((foldl_fst_life _ _ _ ?_).trans ?_) | refine ((foldl_fst_ns _ _ _ ?_).trans ?_) | split | intro _ | simp only [↓State.correct_keeps, ↓State.modBal_keeps, ↓State.setDiscipline_keeps, ↓State.setFld_keeps, ↓State.setQuality_keeps, and_self, ↓ite_fst, ↓ite_keeps, ↓State.modBond_keeps, ↓State.modTime_keeps, ↓foldl_pending, ↓foldl_life, ↓foldl_ns, ↓foldl_fst_pending, ↓foldl_fst_life, ↓foldl_fst_ns, ite_self, implies_true])

theorem execSlewComplete_keeps (s : State) :
    ∀ s', (execSlewComplete s) = .next s' → s'.pending = s.pending ∧ s'.bond.lifecycle = s.bond.lifecycle := by
  intro s'; first | rw [execSlewComplete] | rw [execSlewComplete.eq_def]
  try dsimp only
  repeat' (first | (simp only [↓State.advanceTo_keeps, ↓State.settle_keeps, ↓State.showRate_keeps, and_self, ↓ite_fst, ↓ite_keeps, ↓State.modBond_keeps, ↓State.modTime_keeps, ↓foldl_pending, ↓foldl_life, ↓foldl_ns, ↓foldl_fst_pending, ↓foldl_fst_life, ↓foldl_fst_ns, ite_self, implies_true]; done) | with_reducible exact ⟨rfl, rfl⟩ | (grind only [State.advanceTo_keeps, State.settle_keeps, State.showRate_keeps, ite_keeps, State.modBond_keeps, State.modTime_keeps]; done) | (with_reducible refine out_next (P := fun s' => s'.pending = s.pending ∧ s'.bond.lifecycle = s.bond.lifecycle) ?_) | with_reducible refine out_ite ?_ ?_ | refine ⟨((foldl_pending _ _ _ ?_).trans ?_), ((foldl_life _ _ _ ?_).trans ?_)⟩ | refine ((foldl_pending _ _ _ ?_).trans ?_) | refine ((foldl_life _ _ _ ?_).trans ?_) | refine ((foldl_ns _ _ _ ?_).trans ?_) | refine ((foldl_fst_pending _ _ _ ?_).trans ?_) | refine ((foldl_fst_life _ _ _ ?_).trans ?_) | refine ((foldl_fst_ns _ _ _ ?_).trans ?_) | split | intro _ | simp only [↓State.advanceTo_keeps, ↓State.settle_keeps, ↓State.showRate_keeps, and_self, ↓ite_fst, ↓ite_keeps, ↓State.modBond_keeps, ↓State.modTime_keeps, ↓foldl_pending, ↓foldl_life, ↓foldl_ns, ↓foldl_fst_pending, ↓foldl_fst_life, ↓foldl_fst_ns, ite_self, implies_true])

theorem execOscAgeingUpdate_keeps (s : State) :
    ∀ s', (execOscAgeingUpdate s) = .next s' → s'.pending = s.pending ∧ s'.bond.lifecycle = s.bond.lifecycle ∧ s'.time.ns = s.time.ns := by
  intro s'; first | rw [execOscAgeingUpdate] | rw [execOscAgeingUpdate.eq_def]
  try dsimp only
  repeat' (first | (simp only [↓State.bgRan_keeps, and_self, ↓ite_fst, ↓ite_keeps, ↓State.modBond_keeps, ↓State.modTime_keeps, ↓foldl_pending, ↓foldl_life, ↓foldl_ns, ↓foldl_fst_pending, ↓foldl_fst_life, ↓foldl_fst_ns, ite_self, implies_true]; done) | with_reducible exact ⟨rfl, rfl, rfl⟩ | (grind only [State.bgRan_keeps, ite_keeps, State.modBond_keeps, State.modTime_keeps]; done) | (with_reducible refine out_next (P := fun s' => s'.pending = s.pending ∧ s'.bond.lifecycle = s.bond.lifecycle ∧ s'.time.ns = s.time.ns) ?_) | with_reducible refine out_ite ?_ ?_ | refine ⟨((foldl_pending _ _ _ ?_).trans ?_), ((foldl_life _ _ _ ?_).trans ?_), ((foldl_ns _ _ _ ?_).trans ?_)⟩ | refine ⟨((foldl_fst_pending _ _ _ ?_).trans ?_), ((foldl_fst_life _ _ _ ?_).trans ?_), ((foldl_fst_ns _ _ _ ?_).trans ?_)⟩ | refine ((foldl_pending _ _ _ ?_).trans ?_) | refine ((foldl_life _ _ _ ?_).trans ?_) | refine ((foldl_ns _ _ _ ?_).trans ?_) | refine ((foldl_fst_pending _ _ _ ?_).trans ?_) | refine ((foldl_fst_life _ _ _ ?_).trans ?_) | refine ((foldl_fst_ns _ _ _ ?_).trans ?_) | split | intro _ | simp only [↓State.bgRan_keeps, and_self, ↓ite_fst, ↓ite_keeps, ↓State.modBond_keeps, ↓State.modTime_keeps, ↓foldl_pending, ↓foldl_life, ↓foldl_ns, ↓foldl_fst_pending, ↓foldl_fst_life, ↓foldl_fst_ns, ite_self, implies_true])

theorem execPpsOutEdge_keeps (s : State) :
    ∀ s', (execPpsOutEdge s) = .next s' → s'.pending = s.pending ∧ s'.bond.lifecycle = s.bond.lifecycle := by
  intro s'; first | rw [execPpsOutEdge] | rw [execPpsOutEdge.eq_def]
  try dsimp only
  repeat' (first | (simp only [↓State.advance16_keeps, and_self, ↓ite_fst, ↓ite_keeps, ↓State.modBond_keeps, ↓State.modTime_keeps, ↓foldl_pending, ↓foldl_life, ↓foldl_ns, ↓foldl_fst_pending, ↓foldl_fst_life, ↓foldl_fst_ns, ite_self, implies_true]; done) | with_reducible exact ⟨rfl, rfl⟩ | (grind only [State.advance16_keeps, ite_keeps, State.modBond_keeps, State.modTime_keeps]; done) | (with_reducible refine out_next (P := fun s' => s'.pending = s.pending ∧ s'.bond.lifecycle = s.bond.lifecycle) ?_) | with_reducible refine out_ite ?_ ?_ | refine ⟨((foldl_pending _ _ _ ?_).trans ?_), ((foldl_life _ _ _ ?_).trans ?_)⟩ | refine ((foldl_pending _ _ _ ?_).trans ?_) | refine ((foldl_life _ _ _ ?_).trans ?_) | refine ((foldl_ns _ _ _ ?_).trans ?_) | refine ((foldl_fst_pending _ _ _ ?_).trans ?_) | refine ((foldl_fst_life _ _ _ ?_).trans ?_) | refine ((foldl_fst_ns _ _ _ ?_).trans ?_) | split | intro _ | simp only [↓State.advance16_keeps, and_self, ↓ite_fst, ↓ite_keeps, ↓State.modBond_keeps, ↓State.modTime_keeps, ↓foldl_pending, ↓foldl_life, ↓foldl_ns, ↓foldl_fst_pending, ↓foldl_fst_life, ↓foldl_fst_ns, ite_self, implies_true])

theorem State.trigManifest_keeps (s : State) (i : Nat) (v : Bytes) :
    (State.trigManifest s i v).pending = s.pending ∧ (State.trigManifest s i v).bond.lifecycle = s.bond.lifecycle ∧ (State.trigManifest s i v).time.ns = s.time.ns := by
  rw [State.trigManifest]; simp only [↓State.make_keeps, and_self]

theorem State.trigActs_keeps (s : State) (sched : Nat) (v : Bytes) (t : Nat) :
    (State.trigActs s sched v t).pending = s.pending ∧ (State.trigActs s sched v t).bond.lifecycle = s.bond.lifecycle ∧ (State.trigActs s sched v t).time.ns = s.time.ns := by
  rw [State.trigActs]; simp only [↓State.trigManifest_keeps, and_self, ↓ite_keeps, ite_self, ↓State.modBond_keeps, ↓State.modTime_keeps]

theorem execTriggerInstant_keeps (sched : Nat) (s : State) :
    ∀ s', (execTriggerInstant sched s) = .next s' → s'.pending = s.pending ∧ s'.bond.lifecycle = s.bond.lifecycle := by
  intro s'; first | rw [execTriggerInstant] | rw [execTriggerInstant.eq_def]
  try dsimp only
  repeat' (first | (simp only [↓State.advanceTo_keeps, ↓State.trigActs_keeps, and_self, ↓ite_fst, ↓ite_keeps, ↓State.modBond_keeps, ↓State.modTime_keeps, ↓foldl_pending, ↓foldl_life, ↓foldl_ns, ↓foldl_fst_pending, ↓foldl_fst_life, ↓foldl_fst_ns, ite_self, implies_true]; done) | with_reducible exact ⟨rfl, rfl⟩ | (grind only [State.advanceTo_keeps, State.trigActs_keeps, ite_keeps, State.modBond_keeps, State.modTime_keeps]; done) | (with_reducible refine out_next (P := fun s' => s'.pending = s.pending ∧ s'.bond.lifecycle = s.bond.lifecycle) ?_) | with_reducible refine out_ite ?_ ?_ | refine ⟨((foldl_pending _ _ _ ?_).trans ?_), ((foldl_life _ _ _ ?_).trans ?_)⟩ | refine ((foldl_pending _ _ _ ?_).trans ?_) | refine ((foldl_life _ _ _ ?_).trans ?_) | refine ((foldl_ns _ _ _ ?_).trans ?_) | refine ((foldl_fst_pending _ _ _ ?_).trans ?_) | refine ((foldl_fst_life _ _ _ ?_).trans ?_) | refine ((foldl_fst_ns _ _ _ ?_).trans ?_) | split | intro _ | simp only [↓State.advanceTo_keeps, ↓State.trigActs_keeps, and_self, ↓ite_fst, ↓ite_keeps, ↓State.modBond_keeps, ↓State.modTime_keeps, ↓foldl_pending, ↓foldl_life, ↓foldl_ns, ↓foldl_fst_pending, ↓foldl_fst_life, ↓foldl_fst_ns, ite_self, implies_true])

theorem State.skipRun_keeps (s : State) (i : Nat) (v : Bytes) (last n : Nat) :
    (State.skipRun s i v last n).pending = s.pending ∧ (State.skipRun s i v last n).bond.lifecycle = s.bond.lifecycle ∧ (State.skipRun s i v last n).time.ns = s.time.ns := by
  rw [State.skipRun]; simp only [↓State.count_keeps, ↓State.raise_keeps, ↓State.trigManifest_keeps, and_self, ↓ite_fst, ↓ite_keeps, ↓State.modBond_keeps, ↓State.modTime_keeps, ↓foldl_pending, ↓foldl_life, ↓foldl_ns, ↓foldl_fst_pending, ↓foldl_fst_life, ↓foldl_fst_ns, ite_self, implies_true]

theorem State.skipInstants_keeps (s : State) (i : Nat) (v : Bytes) (from' upTo : Nat) :
    (State.skipInstants s i v from' upTo).pending = s.pending ∧ (State.skipInstants s i v from' upTo).bond.lifecycle = s.bond.lifecycle ∧ (State.skipInstants s i v from' upTo).time.ns = s.time.ns := by
  rw [State.skipInstants.eq_def]; repeat' (first | (solve | simp only [↓State.skipRun_keeps, and_self, ↓ite_keeps, ite_self, ↓State.modBond_keeps, ↓State.modTime_keeps]) | with_reducible exact ⟨rfl, rfl, rfl⟩ | split)

end Sys2Proof.Machine
end

