-- ==== Sys2Proof/Laws/KeepCustoms.lean ====
section
/-!
SUPPORT. What the operations of Machine/Customs.lean leave alone: the queue, the life cycle and the timebase.
-/
set_option linter.unusedSimpArgs false

namespace Sys2Proof.Machine

theorem State.setBill_keeps (s : State) (epx : Nat) (r : BillRec) :
    (State.setBill s epx r).pending = s.pending ∧ (State.setBill s epx r).bond.lifecycle = s.bond.lifecycle ∧ (State.setBill s epx r).time.ns = s.time.ns := by
  with_reducible exact ⟨rfl, rfl, rfl⟩

theorem State.changeBill_keeps (s : State) (epx : Nat) (r : BillRec) :
    (State.changeBill s epx r).pending = s.pending ∧ (State.changeBill s epx r).bond.lifecycle = s.bond.lifecycle ∧ (State.changeBill s epx r).time.ns = s.time.ns := by
  with_reducible exact ⟨rfl, rfl, rfl⟩

theorem State.cusRelease_keeps (s : State) (copy : Bool) :
    (State.cusRelease s copy).pending = s.pending ∧ (State.cusRelease s copy).bond.lifecycle = s.bond.lifecycle ∧ (State.cusRelease s copy).time.ns = s.time.ns := by
  first | rw [State.cusRelease] | rw [State.cusRelease.eq_def]
  try dsimp only
  repeat' (first | (simp only [↓State.mapNote_keeps, ↓State.modCustoms_keeps, and_self, ↓ite_fst, ↓ite_keeps, ↓State.modBond_keeps, ↓State.modTime_keeps, ↓foldl_pending, ↓foldl_life, ↓foldl_ns, ↓foldl_fst_pending, ↓foldl_fst_life, ↓foldl_fst_ns, ite_self, implies_true]; done) | with_reducible exact ⟨rfl, rfl, rfl⟩ | (grind only [State.mapNote_keeps, State.modCustoms_keeps, ite_keeps, State.modBond_keeps, State.modTime_keeps]; done) | refine ⟨((foldl_pending _ _ _ ?_).trans ?_), ((foldl_life _ _ _ ?_).trans ?_), ((foldl_ns _ _ _ ?_).trans ?_)⟩ | refine ⟨((foldl_fst_pending _ _ _ ?_).trans ?_), ((foldl_fst_life _ _ _ ?_).trans ?_), ((foldl_fst_ns _ _ _ ?_).trans ?_)⟩ | refine ((foldl_pending _ _ _ ?_).trans ?_) | refine ((foldl_life _ _ _ ?_).trans ?_) | refine ((foldl_ns _ _ _ ?_).trans ?_) | refine ((foldl_fst_pending _ _ _ ?_).trans ?_) | refine ((foldl_fst_life _ _ _ ?_).trans ?_) | refine ((foldl_fst_ns _ _ _ ?_).trans ?_) | split | intro _ | simp only [↓State.mapNote_keeps, ↓State.modCustoms_keeps, and_self, ↓ite_fst, ↓ite_keeps, ↓State.modBond_keeps, ↓State.modTime_keeps, ↓foldl_pending, ↓foldl_life, ↓foldl_ns, ↓foldl_fst_pending, ↓foldl_fst_life, ↓foldl_fst_ns, ite_self, implies_true])

theorem State.cusProgram_keeps (s : State) (ok flush : Bool) :
    (State.cusProgram s ok flush).pending = s.pending ∧ (State.cusProgram s ok flush).bond.lifecycle = s.bond.lifecycle ∧ (State.cusProgram s ok flush).time.ns = s.time.ns := by
  first | rw [State.cusProgram] | rw [State.cusProgram.eq_def]
  try dsimp only
  repeat' (first | (simp only [↓State.cusRelease_keeps, ↓State.modCustoms_keeps, ↓State.programmed_keeps, ↓State.retireNand_keeps, and_self, ↓ite_fst, ↓ite_keeps, ↓State.modBond_keeps, ↓State.modTime_keeps, ↓foldl_pending, ↓foldl_life, ↓foldl_ns, ↓foldl_fst_pending, ↓foldl_fst_life, ↓foldl_fst_ns, ite_self, implies_true]; done) | with_reducible exact ⟨rfl, rfl, rfl⟩ | (grind only [State.cusRelease_keeps, State.modCustoms_keeps, State.programmed_keeps, State.retireNand_keeps, ite_keeps, State.modBond_keeps, State.modTime_keeps]; done) | (have hk := State.programTarget_keeps _ _ _ _ _ _ (by assumption); simp only [↓hk, ↓State.cusRelease_keeps, ↓State.modCustoms_keeps, ↓State.programmed_keeps, ↓State.retireNand_keeps, and_self, ↓ite_fst, ↓ite_keeps, ↓State.modBond_keeps, ↓State.modTime_keeps, ↓foldl_pending, ↓foldl_life, ↓foldl_ns, ↓foldl_fst_pending, ↓foldl_fst_life, ↓foldl_fst_ns, ite_self, implies_true]; done) | (have hk := State.programTarget_keeps _ _ _ _ _ _ (by assumption); simp only [↓hk, ↓State.cusRelease_keeps, ↓State.modCustoms_keeps, ↓State.programmed_keeps, ↓State.retireNand_keeps, and_self, ↓ite_fst, ↓ite_keeps, ↓State.modBond_keeps, ↓State.modTime_keeps, ↓foldl_pending, ↓foldl_life, ↓foldl_ns, ↓foldl_fst_pending, ↓foldl_fst_life, ↓foldl_fst_ns, ite_self, implies_true]) | refine ⟨((foldl_pending _ _ _ ?_).trans ?_), ((foldl_life _ _ _ ?_).trans ?_), ((foldl_ns _ _ _ ?_).trans ?_)⟩ | refine ⟨((foldl_fst_pending _ _ _ ?_).trans ?_), ((foldl_fst_life _ _ _ ?_).trans ?_), ((foldl_fst_ns _ _ _ ?_).trans ?_)⟩ | refine ((foldl_pending _ _ _ ?_).trans ?_) | refine ((foldl_life _ _ _ ?_).trans ?_) | refine ((foldl_ns _ _ _ ?_).trans ?_) | refine ((foldl_fst_pending _ _ _ ?_).trans ?_) | refine ((foldl_fst_life _ _ _ ?_).trans ?_) | refine ((foldl_fst_ns _ _ _ ?_).trans ?_) | split | intro _ | simp only [↓State.cusRelease_keeps, ↓State.modCustoms_keeps, ↓State.programmed_keeps, ↓State.retireNand_keeps, and_self, ↓ite_fst, ↓ite_keeps, ↓State.modBond_keeps, ↓State.modTime_keeps, ↓foldl_pending, ↓foldl_life, ↓foldl_ns, ↓foldl_fst_pending, ↓foldl_fst_life, ↓foldl_fst_ns, ite_self, implies_true])

theorem State.cusSpill_keeps (n : Nat) (s : State) :
    (State.cusSpill n s).pending = s.pending ∧ (State.cusSpill n s).bond.lifecycle = s.bond.lifecycle ∧ (State.cusSpill n s).time.ns = s.time.ns := by
  induction n generalizing s with
  | zero => rw [State.cusSpill]; exact ⟨rfl, rfl, rfl⟩
  | succ n ih =>
    rw [State.cusSpill]; repeat' (first | (simp only [↓ih, ↓State.cusProgram_keeps, and_self, ↓ite_fst, ↓ite_keeps, ↓State.modBond_keeps, ↓State.modTime_keeps, ↓foldl_pending, ↓foldl_life, ↓foldl_ns, ↓foldl_fst_pending, ↓foldl_fst_life, ↓foldl_fst_ns, ite_self, implies_true]; done) | split)


theorem State.cusFlush_keeps (s : State) :
    (State.cusFlush s).pending = s.pending ∧ (State.cusFlush s).bond.lifecycle = s.bond.lifecycle ∧ (State.cusFlush s).time.ns = s.time.ns := by
  first | rw [State.cusFlush] | rw [State.cusFlush.eq_def]
  try dsimp only
  repeat' (first | (simp only [↓State.cusProgram_keeps, and_self, ↓ite_fst, ↓ite_keeps, ↓State.modBond_keeps, ↓State.modTime_keeps, ↓foldl_pending, ↓foldl_life, ↓foldl_ns, ↓foldl_fst_pending, ↓foldl_fst_life, ↓foldl_fst_ns, ite_self, implies_true]; done) | with_reducible exact ⟨rfl, rfl, rfl⟩ | (grind only [State.cusProgram_keeps, ite_keeps, State.modBond_keeps, State.modTime_keeps]; done) | refine ⟨((foldl_pending _ _ _ ?_).trans ?_), ((foldl_life _ _ _ ?_).trans ?_), ((foldl_ns _ _ _ ?_).trans ?_)⟩ | refine ⟨((foldl_fst_pending _ _ _ ?_).trans ?_), ((foldl_fst_life _ _ _ ?_).trans ?_), ((foldl_fst_ns _ _ _ ?_).trans ?_)⟩ | refine ((foldl_pending _ _ _ ?_).trans ?_) | refine ((foldl_life _ _ _ ?_).trans ?_) | refine ((foldl_ns _ _ _ ?_).trans ?_) | refine ((foldl_fst_pending _ _ _ ?_).trans ?_) | refine ((foldl_fst_life _ _ _ ?_).trans ?_) | refine ((foldl_fst_ns _ _ _ ?_).trans ?_) | split | intro _ | simp only [↓State.cusProgram_keeps, and_self, ↓ite_fst, ↓ite_keeps, ↓State.modBond_keeps, ↓State.modTime_keeps, ↓foldl_pending, ↓foldl_life, ↓foldl_ns, ↓foldl_fst_pending, ↓foldl_fst_life, ↓foldl_fst_ns, ite_self, implies_true])

theorem State.journal_keeps (s : State) (type epx : Nat) (content : Bytes) :
    (State.journal s type epx content).pending = s.pending ∧ (State.journal s type epx content).bond.lifecycle = s.bond.lifecycle ∧ (State.journal s type epx content).time.ns = s.time.ns := by
  first | rw [State.journal] | rw [State.journal.eq_def]
  try dsimp only
  repeat' (first | (simp only [↓State.cusSpill_keeps, ↓State.modCustoms_keeps, and_self, ↓ite_fst, ↓ite_keeps, ↓State.modBond_keeps, ↓State.modTime_keeps, ↓foldl_pending, ↓foldl_life, ↓foldl_ns, ↓foldl_fst_pending, ↓foldl_fst_life, ↓foldl_fst_ns, ite_self, implies_true]; done) | with_reducible exact ⟨rfl, rfl, rfl⟩ | (grind only [State.cusSpill_keeps, State.modCustoms_keeps, ite_keeps, State.modBond_keeps, State.modTime_keeps]; done) | refine ⟨((foldl_pending _ _ _ ?_).trans ?_), ((foldl_life _ _ _ ?_).trans ?_), ((foldl_ns _ _ _ ?_).trans ?_)⟩ | refine ⟨((foldl_fst_pending _ _ _ ?_).trans ?_), ((foldl_fst_life _ _ _ ?_).trans ?_), ((foldl_fst_ns _ _ _ ?_).trans ?_)⟩ | refine ((foldl_pending _ _ _ ?_).trans ?_) | refine ((foldl_life _ _ _ ?_).trans ?_) | refine ((foldl_ns _ _ _ ?_).trans ?_) | refine ((foldl_fst_pending _ _ _ ?_).trans ?_) | refine ((foldl_fst_life _ _ _ ?_).trans ?_) | refine ((foldl_fst_ns _ _ _ ?_).trans ?_) | split | intro _ | simp only [↓State.cusSpill_keeps, ↓State.modCustoms_keeps, and_self, ↓ite_fst, ↓ite_keeps, ↓State.modBond_keeps, ↓State.modTime_keeps, ↓foldl_pending, ↓foldl_life, ↓foldl_ns, ↓foldl_fst_pending, ↓foldl_fst_life, ↓foldl_fst_ns, ite_self, implies_true])

theorem State.profile_keeps (s : State) (epx chan start quality seq : Nat) (es : List (Nat × Nat × Nat)) :
    (State.profile s epx chan start quality seq es).pending = s.pending ∧ (State.profile s epx chan start quality seq es).bond.lifecycle = s.bond.lifecycle ∧ (State.profile s epx chan start quality seq es).time.ns = s.time.ns := by
  first | rw [State.profile] | rw [State.profile.eq_def]
  try dsimp only
  repeat' (first | (simp only [↓State.cusRelease_keeps, ↓State.event_keeps, ↓State.journal_keeps, ↓State.modCustoms_keeps, ↓State.raise_keeps, ↓State.setFlag_keeps, and_self, ↓ite_fst, ↓ite_keeps, ↓State.modBond_keeps, ↓State.modTime_keeps, ↓foldl_pending, ↓foldl_life, ↓foldl_ns, ↓foldl_fst_pending, ↓foldl_fst_life, ↓foldl_fst_ns, ite_self, implies_true]; done) | with_reducible exact ⟨rfl, rfl, rfl⟩ | (grind only [State.cusRelease_keeps, State.event_keeps, State.journal_keeps, State.modCustoms_keeps, State.raise_keeps, State.setFlag_keeps, ite_keeps, State.modBond_keeps, State.modTime_keeps]; done) | refine ⟨((foldl_pending _ _ _ ?_).trans ?_), ((foldl_life _ _ _ ?_).trans ?_), ((foldl_ns _ _ _ ?_).trans ?_)⟩ | refine ⟨((foldl_fst_pending _ _ _ ?_).trans ?_), ((foldl_fst_life _ _ _ ?_).trans ?_), ((foldl_fst_ns _ _ _ ?_).trans ?_)⟩ | refine ((foldl_pending _ _ _ ?_).trans ?_) | refine ((foldl_life _ _ _ ?_).trans ?_) | refine ((foldl_ns _ _ _ ?_).trans ?_) | refine ((foldl_fst_pending _ _ _ ?_).trans ?_) | refine ((foldl_fst_life _ _ _ ?_).trans ?_) | refine ((foldl_fst_ns _ _ _ ?_).trans ?_) | split | intro _ | simp only [↓State.cusRelease_keeps, ↓State.event_keeps, ↓State.journal_keeps, ↓State.modCustoms_keeps, ↓State.raise_keeps, ↓State.setFlag_keeps, and_self, ↓ite_fst, ↓ite_keeps, ↓State.modBond_keeps, ↓State.modTime_keeps, ↓foldl_pending, ↓foldl_life, ↓foldl_ns, ↓foldl_fst_pending, ↓foldl_fst_life, ↓foldl_fst_ns, ite_self, implies_true])

theorem State.periodRec_keeps (s : State) (epx period close : Nat) (r : BillRec) :
    (State.periodRec s epx period close r).pending = s.pending ∧ (State.periodRec s epx period close r).bond.lifecycle = s.bond.lifecycle ∧ (State.periodRec s epx period close r).time.ns = s.time.ns := by
  first | rw [State.periodRec] | rw [State.periodRec.eq_def]
  try dsimp only
  repeat' (first | (simp only [↓State.journal_keeps, and_self, ↓ite_fst, ↓ite_keeps, ↓State.modBond_keeps, ↓State.modTime_keeps, ↓foldl_pending, ↓foldl_life, ↓foldl_ns, ↓foldl_fst_pending, ↓foldl_fst_life, ↓foldl_fst_ns, ite_self, implies_true]; done) | with_reducible exact ⟨rfl, rfl, rfl⟩ | (grind only [State.journal_keeps, ite_keeps, State.modBond_keeps, State.modTime_keeps]; done) | refine ⟨((foldl_pending _ _ _ ?_).trans ?_), ((foldl_life _ _ _ ?_).trans ?_), ((foldl_ns _ _ _ ?_).trans ?_)⟩ | refine ⟨((foldl_fst_pending _ _ _ ?_).trans ?_), ((foldl_fst_life _ _ _ ?_).trans ?_), ((foldl_fst_ns _ _ _ ?_).trans ?_)⟩ | refine ((foldl_pending _ _ _ ?_).trans ?_) | refine ((foldl_life _ _ _ ?_).trans ?_) | refine ((foldl_ns _ _ _ ?_).trans ?_) | refine ((foldl_fst_pending _ _ _ ?_).trans ?_) | refine ((foldl_fst_life _ _ _ ?_).trans ?_) | refine ((foldl_fst_ns _ _ _ ?_).trans ?_) | split | intro _ | simp only [↓State.journal_keeps, and_self, ↓ite_fst, ↓ite_keeps, ↓State.modBond_keeps, ↓State.modTime_keeps, ↓foldl_pending, ↓foldl_life, ↓foldl_ns, ↓foldl_fst_pending, ↓foldl_fst_life, ↓foldl_fst_ns, ite_self, implies_true])

theorem State.notice_keeps (s : State) (code : Nat) (alarm : Bool) (arg : Nat) :
    (State.notice s code alarm arg).pending = s.pending ∧ (State.notice s code alarm arg).bond.lifecycle = s.bond.lifecycle ∧ (State.notice s code alarm arg).time.ns = s.time.ns := by
  rw [State.notice]; simp only [↓State.make_keeps, and_self]

theorem State.verifyBill_keeps (s : State) (epx : Nat) :
    (State.verifyBill s epx).pending = s.pending ∧ (State.verifyBill s epx).bond.lifecycle = s.bond.lifecycle ∧ (State.verifyBill s epx).time.ns = s.time.ns := by
  rw [State.verifyBill]; simp only [↓State.count_keeps, ↓State.modCustoms_keeps, ↓State.notice_keeps, ↓State.raise_keeps, ↓State.setBill_keeps, and_self, ↓ite_keeps, ite_self, ↓State.modBond_keeps, ↓State.modTime_keeps]

theorem State.metroTake_keeps (s : State) (m : MetroSums) :
    (State.metroTake s m).pending = s.pending ∧ (State.metroTake s m).bond.lifecycle = s.bond.lifecycle ∧ (State.metroTake s m).time.ns = s.time.ns := by
  with_reducible exact ⟨rfl, rfl, rfl⟩

theorem State.minuteTake_keeps (s : State) (m : MetroSums) :
    (State.minuteTake s m).pending = s.pending ∧ (State.minuteTake s m).bond.lifecycle = s.bond.lifecycle ∧ (State.minuteTake s m).time.ns = s.time.ns := by
  with_reducible exact ⟨rfl, rfl, rfl⟩

theorem State.metroPublish_keeps (s : State) (m : MetroSums) :
    (State.metroPublish s m).pending = s.pending ∧ (State.metroPublish s m).bond.lifecycle = s.bond.lifecycle ∧ (State.metroPublish s m).time.ns = s.time.ns := by
  rw [State.metroPublish]; simp only [↓State.minuteTake_keeps, ↓State.set_keeps, and_self, ↓ite_fst, ↓ite_keeps, ↓State.modBond_keeps, ↓State.modTime_keeps, ↓foldl_pending, ↓foldl_life, ↓foldl_ns, ↓foldl_fst_pending, ↓foldl_fst_life, ↓foldl_fst_ns, ite_self, implies_true]

theorem State.siteTamper_keeps (s : State) (kind : Nat) :
    (State.siteTamper s kind).pending = s.pending ∧ (State.siteTamper s kind).bond.lifecycle = s.bond.lifecycle ∧ (State.siteTamper s kind).time.ns = s.time.ns := by
  rw [State.siteTamper]; simp only [↓State.changeBill_keeps, ↓State.journal_keeps, ↓State.modCustoms_keeps, ↓State.notice_keeps, ↓State.raise_keeps, ↓State.verifyBill_keeps, and_self]

theorem State.noteTamper_keeps (s : State) (kind : Nat) :
    (State.noteTamper s kind).pending = s.pending ∧ (State.noteTamper s kind).bond.lifecycle = s.bond.lifecycle ∧ (State.noteTamper s kind).time.ns = s.time.ns := by
  first | rw [State.noteTamper] | rw [State.noteTamper.eq_def]
  try dsimp only
  repeat' (first | (simp only [↓State.modCustoms_keeps, ↓State.siteTamper_keeps, and_self, ↓ite_fst, ↓ite_keeps, ↓State.modBond_keeps, ↓State.modTime_keeps, ↓foldl_pending, ↓foldl_life, ↓foldl_ns, ↓foldl_fst_pending, ↓foldl_fst_life, ↓foldl_fst_ns, ite_self, implies_true]; done) | with_reducible exact ⟨rfl, rfl, rfl⟩ | (grind only [State.modCustoms_keeps, State.siteTamper_keeps, ite_keeps, State.modBond_keeps, State.modTime_keeps]; done) | refine ⟨((foldl_pending _ _ _ ?_).trans ?_), ((foldl_life _ _ _ ?_).trans ?_), ((foldl_ns _ _ _ ?_).trans ?_)⟩ | refine ⟨((foldl_fst_pending _ _ _ ?_).trans ?_), ((foldl_fst_life _ _ _ ?_).trans ?_), ((foldl_fst_ns _ _ _ ?_).trans ?_)⟩ | refine ((foldl_pending _ _ _ ?_).trans ?_) | refine ((foldl_life _ _ _ ?_).trans ?_) | refine ((foldl_ns _ _ _ ?_).trans ?_) | refine ((foldl_fst_pending _ _ _ ?_).trans ?_) | refine ((foldl_fst_life _ _ _ ?_).trans ?_) | refine ((foldl_fst_ns _ _ _ ?_).trans ?_) | split | intro _ | simp only [↓State.modCustoms_keeps, ↓State.siteTamper_keeps, and_self, ↓ite_fst, ↓ite_keeps, ↓State.modBond_keeps, ↓State.modTime_keeps, ↓foldl_pending, ↓foldl_life, ↓foldl_ns, ↓foldl_fst_pending, ↓foldl_fst_life, ↓foldl_fst_ns, ite_self, implies_true])

theorem State.metroTampers_keeps (s : State) (m : MetroSums) :
    (State.metroTampers s m).pending = s.pending ∧ (State.metroTampers s m).bond.lifecycle = s.bond.lifecycle ∧ (State.metroTampers s m).time.ns = s.time.ns := by
  first | rw [State.metroTampers] | rw [State.metroTampers.eq_def]
  try dsimp only
  repeat' (first | (simp only [↓State.modCustoms_keeps, ↓State.noteTamper_keeps, and_self, ↓ite_fst, ↓ite_keeps, ↓State.modBond_keeps, ↓State.modTime_keeps, ↓foldl_pending, ↓foldl_life, ↓foldl_ns, ↓foldl_fst_pending, ↓foldl_fst_life, ↓foldl_fst_ns, ite_self, implies_true]; done) | with_reducible exact ⟨rfl, rfl, rfl⟩ | (grind only [State.modCustoms_keeps, State.noteTamper_keeps, ite_keeps, State.modBond_keeps, State.modTime_keeps]; done) | refine ⟨((foldl_pending _ _ _ ?_).trans ?_), ((foldl_life _ _ _ ?_).trans ?_), ((foldl_ns _ _ _ ?_).trans ?_)⟩ | refine ⟨((foldl_fst_pending _ _ _ ?_).trans ?_), ((foldl_fst_life _ _ _ ?_).trans ?_), ((foldl_fst_ns _ _ _ ?_).trans ?_)⟩ | refine ((foldl_pending _ _ _ ?_).trans ?_) | refine ((foldl_life _ _ _ ?_).trans ?_) | refine ((foldl_ns _ _ _ ?_).trans ?_) | refine ((foldl_fst_pending _ _ _ ?_).trans ?_) | refine ((foldl_fst_life _ _ _ ?_).trans ?_) | refine ((foldl_fst_ns _ _ _ ?_).trans ?_) | split | intro _ | simp only [↓State.modCustoms_keeps, ↓State.noteTamper_keeps, and_self, ↓ite_fst, ↓ite_keeps, ↓State.modBond_keeps, ↓State.modTime_keeps, ↓foldl_pending, ↓foldl_life, ↓foldl_ns, ↓foldl_fst_pending, ↓foldl_fst_life, ↓foldl_fst_ns, ite_self, implies_true])

theorem execMetroSecond_keeps (m : MetroSec) (s : State) :
    ∀ s', (execMetroSecond m s) = .next s' → s'.pending = s.pending ∧ s'.bond.lifecycle = s.bond.lifecycle ∧ s'.time.ns = s.time.ns := by
  intro s'; first | rw [execMetroSecond] | rw [execMetroSecond.eq_def]
  try dsimp only
  repeat' (first | (simp only [↓State.metroPublish_keeps, ↓State.metroTake_keeps, ↓State.metroTampers_keeps, ↓State.modCustoms_keeps, and_self, ↓ite_fst, ↓ite_keeps, ↓State.modBond_keeps, ↓State.modTime_keeps, ↓foldl_pending, ↓foldl_life, ↓foldl_ns, ↓foldl_fst_pending, ↓foldl_fst_life, ↓foldl_fst_ns, ite_self, implies_true]; done) | with_reducible exact ⟨rfl, rfl, rfl⟩ | (grind only [State.metroPublish_keeps, State.metroTake_keeps, State.metroTampers_keeps, State.modCustoms_keeps, ite_keeps, State.modBond_keeps, State.modTime_keeps]; done) | (with_reducible refine out_next (P := fun s' => s'.pending = s.pending ∧ s'.bond.lifecycle = s.bond.lifecycle ∧ s'.time.ns = s.time.ns) ?_) | with_reducible refine out_ite ?_ ?_ | refine ⟨((foldl_pending _ _ _ ?_).trans ?_), ((foldl_life _ _ _ ?_).trans ?_), ((foldl_ns _ _ _ ?_).trans ?_)⟩ | refine ⟨((foldl_fst_pending _ _ _ ?_).trans ?_), ((foldl_fst_life _ _ _ ?_).trans ?_), ((foldl_fst_ns _ _ _ ?_).trans ?_)⟩ | refine ((foldl_pending _ _ _ ?_).trans ?_) | refine ((foldl_life _ _ _ ?_).trans ?_) | refine ((foldl_ns _ _ _ ?_).trans ?_) | refine ((foldl_fst_pending _ _ _ ?_).trans ?_) | refine ((foldl_fst_life _ _ _ ?_).trans ?_) | refine ((foldl_fst_ns _ _ _ ?_).trans ?_) | split | intro _ | simp only [↓State.metroPublish_keeps, ↓State.metroTake_keeps, ↓State.metroTampers_keeps, ↓State.modCustoms_keeps, and_self, ↓ite_fst, ↓ite_keeps, ↓State.modBond_keeps, ↓State.modTime_keeps, ↓foldl_pending, ↓foldl_life, ↓foldl_ns, ↓foldl_fst_pending, ↓foldl_fst_life, ↓foldl_fst_ns, ite_self, implies_true])

theorem State.openInterval_keeps (s : State) (start status : Nat) :
    (State.openInterval s start status).pending = s.pending ∧ (State.openInterval s start status).bond.lifecycle = s.bond.lifecycle ∧ (State.openInterval s start status).time.ns = s.time.ns := by
  with_reducible exact ⟨rfl, rfl, rfl⟩

theorem State.closeInterval_keeps (s : State) (ending more : Nat) :
    (State.closeInterval s ending more).pending = s.pending ∧ (State.closeInterval s ending more).bond.lifecycle = s.bond.lifecycle ∧ (State.closeInterval s ending more).time.ns = s.time.ns := by
  first | rw [State.closeInterval] | rw [State.closeInterval.eq_def]
  try dsimp only
  repeat' (first | (simp only [↓State.changeBill_keeps, ↓State.modCustoms_keeps, ↓State.profile_keeps, ↓State.verifyBill_keeps, and_self, ↓ite_fst, ↓ite_keeps, ↓State.modBond_keeps, ↓State.modTime_keeps, ↓foldl_pending, ↓foldl_life, ↓foldl_ns, ↓foldl_fst_pending, ↓foldl_fst_life, ↓foldl_fst_ns, ite_self, implies_true]; done) | with_reducible exact ⟨rfl, rfl, rfl⟩ | (grind only [State.changeBill_keeps, State.modCustoms_keeps, State.profile_keeps, State.verifyBill_keeps, ite_keeps, State.modBond_keeps, State.modTime_keeps]; done) | refine ⟨((foldl_pending _ _ _ ?_).trans ?_), ((foldl_life _ _ _ ?_).trans ?_), ((foldl_ns _ _ _ ?_).trans ?_)⟩ | refine ⟨((foldl_fst_pending _ _ _ ?_).trans ?_), ((foldl_fst_life _ _ _ ?_).trans ?_), ((foldl_fst_ns _ _ _ ?_).trans ?_)⟩ | refine ((foldl_pending _ _ _ ?_).trans ?_) | refine ((foldl_life _ _ _ ?_).trans ?_) | refine ((foldl_ns _ _ _ ?_).trans ?_) | refine ((foldl_fst_pending _ _ _ ?_).trans ?_) | refine ((foldl_fst_life _ _ _ ?_).trans ?_) | refine ((foldl_fst_ns _ _ _ ?_).trans ?_) | split | intro _ | simp only [↓State.changeBill_keeps, ↓State.modCustoms_keeps, ↓State.profile_keeps, ↓State.verifyBill_keeps, and_self, ↓ite_fst, ↓ite_keeps, ↓State.modBond_keeps, ↓State.modTime_keeps, ↓foldl_pending, ↓foldl_life, ↓foldl_ns, ↓foldl_fst_pending, ↓foldl_fst_life, ↓foldl_fst_ns, ite_self, implies_true])

theorem State.subInterval_keeps (s : State) (b : Nat) :
    (State.subInterval s b).pending = s.pending ∧ (State.subInterval s b).bond.lifecycle = s.bond.lifecycle ∧ (State.subInterval s b).time.ns = s.time.ns := by
  rw [State.subInterval]; simp only [↓State.changeBill_keeps, ↓State.modCustoms_keeps, ↓State.verifyBill_keeps, and_self, ↓ite_keeps, ite_self, ↓State.modBond_keeps, ↓State.modTime_keeps]

theorem execDemandSubintervalEnd_keeps (s : State) :
    ∀ s', (execDemandSubintervalEnd s) = .next s' → s'.pending = s.pending ∧ s'.bond.lifecycle = s.bond.lifecycle ∧ s'.time.ns = s.time.ns := by
  rw [execDemandSubintervalEnd.eq_def]; repeat' (first | with_reducible exact out_keeps ⟨rfl, rfl, rfl⟩ | with_reducible refine out_keeps ?_ | with_reducible refine out_both ?_ ?_ | (solve | simp only [↓State.subInterval_keeps, and_self]) | split)

theorem State.restartWindow_keeps (s : State) (at' : Nat) :
    (State.restartWindow s at').pending = s.pending ∧ (State.restartWindow s at').bond.lifecycle = s.bond.lifecycle ∧ (State.restartWindow s at').time.ns = s.time.ns := by
  with_reducible exact ⟨rfl, rfl, rfl⟩

theorem State.closePeriod_keeps (s : State) (b target : Nat) :
    (State.closePeriod s b target).pending = s.pending ∧ (State.closePeriod s b target).bond.lifecycle = s.bond.lifecycle ∧ (State.closePeriod s b target).time.ns = s.time.ns := by
  rw [State.closePeriod]; simp only [↓State.changeBill_keeps, ↓State.modCustoms_keeps, ↓State.periodRec_keeps, ↓State.raise_keeps, ↓State.restartWindow_keeps, and_self]

theorem State.activate_keeps (s : State) (b slot : Nat) :
    (State.activate s b slot).pending = s.pending ∧ (State.activate s b slot).bond.lifecycle = s.bond.lifecycle ∧ (State.activate s b slot).time.ns = s.time.ns := by
  rw [State.activate]; simp only [↓State.modCustoms_keeps, ↓State.raise_keeps, and_self]

theorem State.copySite_keeps (s : State) :
    (State.copySite s).pending = s.pending ∧ (State.copySite s).bond.lifecycle = s.bond.lifecycle ∧ (State.copySite s).time.ns = s.time.ns := by
  first | rw [State.copySite] | rw [State.copySite.eq_def]
  try dsimp only
  repeat' (first | (simp only [↓State.journal_keeps, and_self, ↓ite_fst, ↓ite_keeps, ↓State.modBond_keeps, ↓State.modTime_keeps, ↓foldl_pending, ↓foldl_life, ↓foldl_ns, ↓foldl_fst_pending, ↓foldl_fst_life, ↓foldl_fst_ns, ite_self, implies_true]; done) | with_reducible exact ⟨rfl, rfl, rfl⟩ | (grind only [State.journal_keeps, ite_keeps, State.modBond_keeps, State.modTime_keeps]; done) | refine ⟨((foldl_pending _ _ _ ?_).trans ?_), ((foldl_life _ _ _ ?_).trans ?_), ((foldl_ns _ _ _ ?_).trans ?_)⟩ | refine ⟨((foldl_fst_pending _ _ _ ?_).trans ?_), ((foldl_fst_life _ _ _ ?_).trans ?_), ((foldl_fst_ns _ _ _ ?_).trans ?_)⟩ | refine ((foldl_pending _ _ _ ?_).trans ?_) | refine ((foldl_life _ _ _ ?_).trans ?_) | refine ((foldl_ns _ _ _ ?_).trans ?_) | refine ((foldl_fst_pending _ _ _ ?_).trans ?_) | refine ((foldl_fst_life _ _ _ ?_).trans ?_) | refine ((foldl_fst_ns _ _ _ ?_).trans ?_) | split | intro _ | simp only [↓State.journal_keeps, and_self, ↓ite_fst, ↓ite_keeps, ↓State.modBond_keeps, ↓State.modTime_keeps, ↓foldl_pending, ↓foldl_life, ↓foldl_ns, ↓foldl_fst_pending, ↓foldl_fst_life, ↓foldl_fst_ns, ite_self, implies_true])

theorem State.processBoundary_keeps (s : State) (b more : Nat) (reopen : Nat) :
    (State.processBoundary s b more reopen).pending = s.pending ∧ (State.processBoundary s b more reopen).bond.lifecycle = s.bond.lifecycle ∧ (State.processBoundary s b more reopen).time.ns = s.time.ns := by
  rw [State.processBoundary]
  have h2 : K3 (s.closeInterval (1000000000 * b) more) s := State.closeInterval_keeps ..
  generalize s.closeInterval (1000000000 * b) more = t at h2 ⊢
  generalize t.closeTarget b = c
  rcases c with _ | x <;> dsimp only
  case' some =>
    have h2 : K3 (t.closePeriod b x) s := K3.trans (State.closePeriod_keeps ..) h2
    generalize t.closePeriod b x = t at h2 ⊢
  all_goals
    generalize t.activations b = l
    have h4 : K3 (l.foldl (fun s n => s.activate b n) t) s := K3.trans (K3.foldl _ (fun _ _ => State.activate_keeps ..) _ _) h2
    generalize l.foldl (fun s n => s.activate b n) t = t at h4 ⊢
    have h5 : K3 (t.openInterval (1000000000 * b) reopen) s := K3.trans (State.openInterval_keeps ..) h4
    generalize t.openInterval (1000000000 * b) reopen = t at h5 ⊢
    have h6 : K3 (t.modCustoms (fun c => { c with hwm := b })) s := K3.trans (State.modCustoms_keeps ..) h5
    generalize t.modCustoms (fun c => { c with hwm := b }) = t at h6 ⊢
    refine K3.trans (b := t) ?_ h6
    have h9 (c : Option Nat) (u : State) : K3 (if c.isSome = true then u.notice 1 false u.customs.period else u) u := by
      split
      · exact State.notice_keeps ..
      · exact ⟨rfl, rfl, rfl⟩
    exact K3.trans (K3.foldl _ (fun _ _ => State.notice_keeps ..) _ _) (K3.trans (h9 _ _) (K3.trans (State.copySite_keeps ..) (State.journal_keeps ..)))

theorem State.boundaryWith_keeps (s : State) (b more reopen : Nat) :
    (State.boundaryWith s b more reopen).pending = s.pending ∧ (State.boundaryWith s b more reopen).bond.lifecycle = s.bond.lifecycle ∧ (State.boundaryWith s b more reopen).time.ns = s.time.ns := by
  first | rw [State.boundaryWith] | rw [State.boundaryWith.eq_def]
  try dsimp only
  repeat' (first | (simp only [↓State.closeInterval_keeps, ↓State.copySite_keeps, ↓State.openInterval_keeps, ↓State.processBoundary_keeps, and_self, ↓ite_fst, ↓ite_keeps, ↓State.modBond_keeps, ↓State.modTime_keeps, ↓foldl_pending, ↓foldl_life, ↓foldl_ns, ↓foldl_fst_pending, ↓foldl_fst_life, ↓foldl_fst_ns, ite_self, implies_true]; done) | with_reducible exact ⟨rfl, rfl, rfl⟩ | (grind only [State.closeInterval_keeps, State.copySite_keeps, State.openInterval_keeps, State.processBoundary_keeps, ite_keeps, State.modBond_keeps, State.modTime_keeps]; done) | refine ⟨((foldl_pending _ _ _ ?_).trans ?_), ((foldl_life _ _ _ ?_).trans ?_), ((foldl_ns _ _ _ ?_).trans ?_)⟩ | refine ⟨((foldl_fst_pending _ _ _ ?_).trans ?_), ((foldl_fst_life _ _ _ ?_).trans ?_), ((foldl_fst_ns _ _ _ ?_).trans ?_)⟩ | refine ((foldl_pending _ _ _ ?_).trans ?_) | refine ((foldl_life _ _ _ ?_).trans ?_) | refine ((foldl_ns _ _ _ ?_).trans ?_) | refine ((foldl_fst_pending _ _ _ ?_).trans ?_) | refine ((foldl_fst_life _ _ _ ?_).trans ?_) | refine ((foldl_fst_ns _ _ _ ?_).trans ?_) | split | intro _ | simp only [↓State.closeInterval_keeps, ↓State.copySite_keeps, ↓State.openInterval_keeps, ↓State.processBoundary_keeps, and_self, ↓ite_fst, ↓ite_keeps, ↓State.modBond_keeps, ↓State.modTime_keeps, ↓foldl_pending, ↓foldl_life, ↓foldl_ns, ↓foldl_fst_pending, ↓foldl_fst_life, ↓foldl_fst_ns, ite_self, implies_true])

theorem State.boundary_keeps (s : State) (b : Nat) :
    (State.boundary s b).pending = s.pending ∧ (State.boundary s b).bond.lifecycle = s.bond.lifecycle ∧ (State.boundary s b).time.ns = s.time.ns := by
  rw [State.boundary]; simp only [↓State.boundaryWith_keeps, ↓State.subInterval_keeps, and_self, ↓ite_keeps, ite_self, ↓State.modBond_keeps, ↓State.modTime_keeps]

theorem execGridBoundary_keeps (s : State) :
    ∀ s', (execGridBoundary s) = .next s' → s'.pending = s.pending ∧ s'.bond.lifecycle = s.bond.lifecycle ∧ s'.time.ns = s.time.ns := by
  rw [execGridBoundary.eq_def]; repeat' (first | with_reducible exact out_keeps ⟨rfl, rfl, rfl⟩ | with_reducible refine out_keeps ?_ | with_reducible refine out_both ?_ ?_ | (solve | simp only [↓State.boundary_keeps, and_self]) | split)

theorem State.passBoundaries_keeps (s : State) (first mid last : Nat) (l : List Nat) :
    (State.passBoundaries s first mid last l).pending = s.pending ∧ (State.passBoundaries s first mid last l).bond.lifecycle = s.bond.lifecycle ∧ (State.passBoundaries s first mid last l).time.ns = s.time.ns := by
  induction l generalizing s first with
  | nil => rw [State.passBoundaries]; exact ⟨rfl, rfl, rfl⟩
  | cons b bs ih =>
    cases bs with
    | nil => rw [State.passBoundaries]; simp only [↓State.boundaryWith_keeps, and_self, ↓ite_fst, ↓ite_keeps, ↓State.modBond_keeps, ↓State.modTime_keeps, ↓foldl_pending, ↓foldl_life, ↓foldl_ns, ↓foldl_fst_pending, ↓foldl_fst_life, ↓foldl_fst_ns, ite_self, implies_true]
    | cons c cs =>
      rw [State.passBoundaries]
      · simp only [↓ih, ↓State.boundaryWith_keeps, and_self, ↓ite_fst, ↓ite_keeps, ↓State.modBond_keeps, ↓State.modTime_keeps, ↓foldl_pending, ↓foldl_life, ↓foldl_ns, ↓foldl_fst_pending, ↓foldl_fst_life, ↓foldl_fst_ns, ite_self, implies_true]
      · intro e; cases e


theorem State.customsJump_keeps (s : State) (jump : Int) (old : Nat) :
    (State.customsJump s jump old).pending = s.pending ∧ (State.customsJump s jump old).bond.lifecycle = s.bond.lifecycle ∧ (State.customsJump s jump old).time.ns = s.time.ns := by
  rw [State.customsJump.eq_def]; try dsimp only
  repeat' (first | (solve | simp only [↓State.count_keeps, ↓State.event_keeps, ↓State.journal_keeps, ↓State.modCustoms_keeps, ↓State.notice_keeps, ↓State.openInterval_keeps, ↓State.passBoundaries_keeps, ↓State.raise_keeps, ↓State.restartWindow_keeps, and_self, ↓ite_fst, ↓ite_keeps, ↓State.modBond_keeps, ↓State.modTime_keeps, ↓foldl_pending, ↓foldl_life, ↓foldl_ns, ↓foldl_fst_pending, ↓foldl_fst_life, ↓foldl_fst_ns, ite_self, implies_true]) | with_reducible exact ⟨rfl, rfl, rfl⟩ | refine ⟨foldl_pending _ _ _ ?_, foldl_life _ _ _ ?_, foldl_ns _ _ _ ?_⟩ | split | intro _)

theorem State.customsStep_keeps (s : State) (e : Int) :
    (State.customsStep s e).pending = s.pending ∧ (State.customsStep s e).bond.lifecycle = s.bond.lifecycle ∧ (State.customsStep s e).time.ns = s.time.ns := by
  rw [State.customsStep.eq_def]; try dsimp only
  repeat' (first | (solve | simp only [↓State.closeInterval_keeps, ↓State.customsJump_keeps, ↓State.modCustoms_keeps, and_self, ↓ite_fst, ↓ite_keeps, ↓State.modBond_keeps, ↓State.modTime_keeps, ↓foldl_pending, ↓foldl_life, ↓foldl_ns, ↓foldl_fst_pending, ↓foldl_fst_life, ↓foldl_fst_ns, ite_self, implies_true]) | with_reducible exact ⟨rfl, rfl, rfl⟩ | refine ⟨foldl_pending _ _ _ ?_, foldl_life _ _ _ ?_, foldl_ns _ _ _ ?_⟩ | split | intro _)

theorem execCustomsSlewDone_keeps (s : State) :
    ∀ s', (execCustomsSlewDone s) = .next s' → s'.pending = s.pending ∧ s'.bond.lifecycle = s.bond.lifecycle := by
  intro s'; first | rw [execCustomsSlewDone] | rw [execCustomsSlewDone.eq_def]
  try dsimp only
  repeat' (first | (simp only [↓State.advanceTo_keeps, ↓State.modCustoms_keeps, and_self, ↓ite_fst, ↓ite_keeps, ↓State.modBond_keeps, ↓State.modTime_keeps, ↓foldl_pending, ↓foldl_life, ↓foldl_ns, ↓foldl_fst_pending, ↓foldl_fst_life, ↓foldl_fst_ns, ite_self, implies_true]; done) | with_reducible exact ⟨rfl, rfl⟩ | (grind only [State.advanceTo_keeps, State.modCustoms_keeps, ite_keeps, State.modBond_keeps, State.modTime_keeps]; done) | (with_reducible refine out_next (P := fun s' => s'.pending = s.pending ∧ s'.bond.lifecycle = s.bond.lifecycle) ?_) | with_reducible refine out_ite ?_ ?_ | refine ⟨((foldl_pending _ _ _ ?_).trans ?_), ((foldl_life _ _ _ ?_).trans ?_)⟩ | refine ((foldl_pending _ _ _ ?_).trans ?_) | refine ((foldl_life _ _ _ ?_).trans ?_) | refine ((foldl_ns _ _ _ ?_).trans ?_) | refine ((foldl_fst_pending _ _ _ ?_).trans ?_) | refine ((foldl_fst_life _ _ _ ?_).trans ?_) | refine ((foldl_fst_ns _ _ _ ?_).trans ?_) | split | intro _ | simp only [↓State.advanceTo_keeps, ↓State.modCustoms_keeps, and_self, ↓ite_fst, ↓ite_keeps, ↓State.modBond_keeps, ↓State.modTime_keeps, ↓foldl_pending, ↓foldl_life, ↓foldl_ns, ↓foldl_fst_pending, ↓foldl_fst_life, ↓foldl_fst_ns, ite_self, implies_true])

theorem State.snapshotBill_keeps (s : State) (epx : Nat) :
    (State.snapshotBill s epx).pending = s.pending ∧ (State.snapshotBill s epx).bond.lifecycle = s.bond.lifecycle ∧ (State.snapshotBill s epx).time.ns = s.time.ns := by
  rw [State.snapshotBill]; simp only [↓State.changeBill_keeps, ↓State.periodRec_keeps, and_self, ↓ite_keeps, ite_self, ↓State.modBond_keeps, ↓State.modTime_keeps]

theorem State.applyInterval_keeps (s : State) (q : Nat) (electric : Bool) (events : List Nat) (x : BillRec × List (Nat × Nat × Nat)) (start v f : Nat) :
    (State.applyInterval s q electric events x start v f).1.pending = s.pending ∧ (State.applyInterval s q electric events x start v f).1.bond.lifecycle = s.bond.lifecycle ∧ (State.applyInterval s q electric events x start v f).1.time.ns = s.time.ns := by
  rw [State.applyInterval]; simp only [↓State.count_keeps, and_self, ↓ite_keeps, ite_self, ↓State.modBond_keeps, ↓State.modTime_keeps]

theorem State.applyInterval_eq (s : State) (q : Nat) (electric : Bool) (events : List Nat) (x : BillRec × List (Nat × Nat × Nat)) (start v f : Nat) (s' : State) (x' : BillRec × List (Nat × Nat × Nat)) (he : (State.applyInterval s q electric events x start v f) = (s', x')) :
    s'.pending = s.pending ∧ s'.bond.lifecycle = s.bond.lifecycle ∧ s'.time.ns = s.time.ns := by
  have hk := State.applyInterval_keeps s q electric events x start v f; rw [he] at hk; exact hk

theorem State.applyChannel_keeps (s : State) (q e start : Nat) (electric : Bool) (events : List Nat) (r : BillRec) (i : Nat) (l : List (Nat × Nat)) :
    (State.applyChannel s q e start electric events r i l).1.pending = s.pending ∧ (State.applyChannel s q e start electric events r i l).1.bond.lifecycle = s.bond.lifecycle ∧ (State.applyChannel s q e start electric events r i l).1.time.ns = s.time.ns := by
  induction l generalizing s r i with
  | nil => rw [State.applyChannel]; exact ⟨rfl, rfl, rfl⟩
  | cons x rest ih =>
    obtain ⟨v, f⟩ := x
    rw [State.applyChannel]; try dsimp only
    repeat' (first | (simp only [↓ih, ↓State.count_keeps, ↓State.applyInterval_keeps, and_self, ↓ite_fst, ↓ite_keeps, ↓State.modBond_keeps, ↓State.modTime_keeps, ↓foldl_pending, ↓foldl_life, ↓foldl_ns, ↓foldl_fst_pending, ↓foldl_fst_life, ↓foldl_fst_ns, ite_self, implies_true]; done) | split)

theorem State.applyChannel_eq (s : State) (q e start : Nat) (electric : Bool) (events : List Nat) (r : BillRec) (i : Nat) (l : List (Nat × Nat))
    (t : State) (x : BillRec × List (Nat × Nat × Nat) × Nat)
    (h : State.applyChannel s q e start electric events r i l = (t, x)) : t.pending = s.pending ∧ t.bond.lifecycle = s.bond.lifecycle ∧ t.time.ns = s.time.ns := by
  have hk := State.applyChannel_keeps s q e start electric events r i l; rw [h] at hk; exact hk


theorem State.popMailbox_keeps (s : State) :
    (State.popMailbox s).pending = s.pending ∧ (State.popMailbox s).bond.lifecycle = s.bond.lifecycle ∧ (State.popMailbox s).time.ns = s.time.ns := by
  with_reducible exact ⟨rfl, rfl, rfl⟩

theorem State.applyReadings_keeps (s : State) (h : Handoff) :
    (State.applyReadings s h).pending = s.pending ∧ (State.applyReadings s h).bond.lifecycle = s.bond.lifecycle ∧ (State.applyReadings s h).time.ns = s.time.ns := by
  first | rw [State.applyReadings] | rw [State.applyReadings.eq_def]
  try dsimp only
  repeat' (first | (simp only [↓State.applyChannel_keeps, ↓State.changeBill_keeps, ↓State.count_keeps, ↓State.modCustoms_keeps, ↓State.notice_keeps, ↓State.popMailbox_keeps, ↓State.profile_keeps, ↓State.set_keeps, ↓State.snapshotBill_keeps, ↓State.verifyBill_keeps, and_self, ↓ite_fst, ↓ite_keeps, ↓State.modBond_keeps, ↓State.modTime_keeps, ↓foldl_pending, ↓foldl_life, ↓foldl_ns, ↓foldl_fst_pending, ↓foldl_fst_life, ↓foldl_fst_ns, ite_self, implies_true]; done) | with_reducible exact ⟨rfl, rfl, rfl⟩ | (grind only [State.applyChannel_keeps, State.changeBill_keeps, State.count_keeps, State.modCustoms_keeps, State.notice_keeps, State.popMailbox_keeps, State.profile_keeps, State.set_keeps, State.snapshotBill_keeps, State.verifyBill_keeps, ite_keeps, State.modBond_keeps, State.modTime_keeps]; done) | (have hk := State.applyChannel_eq _ _ _ _ _ _ _ _ _ _ _ (by assumption); simp only [↓hk, ↓State.applyChannel_keeps, ↓State.changeBill_keeps, ↓State.count_keeps, ↓State.modCustoms_keeps, ↓State.notice_keeps, ↓State.popMailbox_keeps, ↓State.profile_keeps, ↓State.set_keeps, ↓State.snapshotBill_keeps, ↓State.verifyBill_keeps, and_self, ↓ite_fst, ↓ite_keeps, ↓State.modBond_keeps, ↓State.modTime_keeps, ↓foldl_pending, ↓foldl_life, ↓foldl_ns, ↓foldl_fst_pending, ↓foldl_fst_life, ↓foldl_fst_ns, ite_self, implies_true]; done) | (have hk := State.applyChannel_eq _ _ _ _ _ _ _ _ _ _ _ (by assumption); simp only [↓hk, ↓State.applyChannel_keeps, ↓State.changeBill_keeps, ↓State.count_keeps, ↓State.modCustoms_keeps, ↓State.notice_keeps, ↓State.popMailbox_keeps, ↓State.profile_keeps, ↓State.set_keeps, ↓State.snapshotBill_keeps, ↓State.verifyBill_keeps, and_self, ↓ite_fst, ↓ite_keeps, ↓State.modBond_keeps, ↓State.modTime_keeps, ↓foldl_pending, ↓foldl_life, ↓foldl_ns, ↓foldl_fst_pending, ↓foldl_fst_life, ↓foldl_fst_ns, ite_self, implies_true]) | refine ⟨((foldl_pending _ _ _ ?_).trans ?_), ((foldl_life _ _ _ ?_).trans ?_), ((foldl_ns _ _ _ ?_).trans ?_)⟩ | refine ⟨((foldl_fst_pending _ _ _ ?_).trans ?_), ((foldl_fst_life _ _ _ ?_).trans ?_), ((foldl_fst_ns _ _ _ ?_).trans ?_)⟩ | refine ((foldl_pending _ _ _ ?_).trans ?_) | refine ((foldl_life _ _ _ ?_).trans ?_) | refine ((foldl_ns _ _ _ ?_).trans ?_) | refine ((foldl_fst_pending _ _ _ ?_).trans ?_) | refine ((foldl_fst_life _ _ _ ?_).trans ?_) | refine ((foldl_fst_ns _ _ _ ?_).trans ?_) | split | intro _ | simp only [↓State.applyChannel_keeps, ↓State.changeBill_keeps, ↓State.count_keeps, ↓State.modCustoms_keeps, ↓State.notice_keeps, ↓State.popMailbox_keeps, ↓State.profile_keeps, ↓State.set_keeps, ↓State.snapshotBill_keeps, ↓State.verifyBill_keeps, and_self, ↓ite_fst, ↓ite_keeps, ↓State.modBond_keeps, ↓State.modTime_keeps, ↓foldl_pending, ↓foldl_life, ↓foldl_ns, ↓foldl_fst_pending, ↓foldl_fst_life, ↓foldl_fst_ns, ite_self, implies_true])

theorem State.onHandoff_keeps (s : State) (ok : Nat → Bool) (f : Handoff → State) (hf : ∀ (a0 : Handoff), (f a0).pending = s.pending ∧ (f a0).bond.lifecycle = s.bond.lifecycle ∧ (f a0).time.ns = s.time.ns) :
    ∀ s', (State.onHandoff s ok f) = .next s' → s'.pending = s.pending ∧ s'.bond.lifecycle = s.bond.lifecycle ∧ s'.time.ns = s.time.ns := by
  rw [State.onHandoff.eq_def]; try dsimp only
  repeat' (first | with_reducible exact out_keeps ⟨rfl, rfl, rfl⟩ | with_reducible refine out_keeps ?_ | with_reducible refine out_both ?_ ?_ | (solve | simp only [and_self, ↓ite_keeps, ite_self, ↓State.modBond_keeps, ↓State.modTime_keeps]) | with_reducible exact ⟨rfl, rfl, rfl⟩ | exact hf _ | (focus have hk := hf; simp only [↓hk, and_self, ↓ite_keeps, ite_self, ↓State.modBond_keeps, ↓State.modTime_keeps]; done) | split | intro _)

theorem execCustomsApplyReadings_keeps (s : State) :
    ∀ s', (execCustomsApplyReadings s) = .next s' → s'.pending = s.pending ∧ s'.bond.lifecycle = s.bond.lifecycle ∧ s'.time.ns = s.time.ns := by
  intro s'; first | rw [execCustomsApplyReadings] | rw [execCustomsApplyReadings.eq_def]
  try dsimp only
  repeat' (first | (simp only [↓State.applyReadings_keeps, and_self, ↓ite_fst, ↓ite_keeps, ↓State.modBond_keeps, ↓State.modTime_keeps, ↓foldl_pending, ↓foldl_life, ↓foldl_ns, ↓foldl_fst_pending, ↓foldl_fst_life, ↓foldl_fst_ns, ite_self, implies_true]; done) | with_reducible exact ⟨rfl, rfl, rfl⟩ | (grind only [State.applyReadings_keeps, ite_keeps, State.modBond_keeps, State.modTime_keeps]; done) | (with_reducible refine out_next (P := fun s' => s'.pending = s.pending ∧ s'.bond.lifecycle = s.bond.lifecycle ∧ s'.time.ns = s.time.ns) ?_) | with_reducible refine out_ite ?_ ?_ | refine State.onHandoff_keeps _ _ _ ?_ _ | refine ⟨((foldl_pending _ _ _ ?_).trans ?_), ((foldl_life _ _ _ ?_).trans ?_), ((foldl_ns _ _ _ ?_).trans ?_)⟩ | refine ⟨((foldl_fst_pending _ _ _ ?_).trans ?_), ((foldl_fst_life _ _ _ ?_).trans ?_), ((foldl_fst_ns _ _ _ ?_).trans ?_)⟩ | refine ((foldl_pending _ _ _ ?_).trans ?_) | refine ((foldl_life _ _ _ ?_).trans ?_) | refine ((foldl_ns _ _ _ ?_).trans ?_) | refine ((foldl_fst_pending _ _ _ ?_).trans ?_) | refine ((foldl_fst_life _ _ _ ?_).trans ?_) | refine ((foldl_fst_ns _ _ _ ?_).trans ?_) | split | intro _ | simp only [↓State.applyReadings_keeps, and_self, ↓ite_fst, ↓ite_keeps, ↓State.modBond_keeps, ↓State.modTime_keeps, ↓foldl_pending, ↓foldl_life, ↓foldl_ns, ↓foldl_fst_pending, ↓foldl_fst_life, ↓foldl_fst_ns, ite_self, implies_true])

theorem State.closeHandoff_keeps (s : State) (epx stamp : Nat) (r : BillRec) :
    (State.closeHandoff s epx stamp r).pending = s.pending ∧ (State.closeHandoff s epx stamp r).bond.lifecycle = s.bond.lifecycle ∧ (State.closeHandoff s epx stamp r).time.ns = s.time.ns := by
  first | rw [State.closeHandoff] | rw [State.closeHandoff.eq_def]
  try dsimp only
  repeat' (first | (simp only [↓State.changeBill_keeps, ↓State.count_keeps, ↓State.modCustoms_keeps, ↓State.profile_keeps, and_self, ↓ite_fst, ↓ite_keeps, ↓State.modBond_keeps, ↓State.modTime_keeps, ↓foldl_pending, ↓foldl_life, ↓foldl_ns, ↓foldl_fst_pending, ↓foldl_fst_life, ↓foldl_fst_ns, ite_self, implies_true]; done) | with_reducible exact ⟨rfl, rfl, rfl⟩ | (grind only [State.changeBill_keeps, State.count_keeps, State.modCustoms_keeps, State.profile_keeps, ite_keeps, State.modBond_keeps, State.modTime_keeps]; done) | refine ⟨((foldl_pending _ _ _ ?_).trans ?_), ((foldl_life _ _ _ ?_).trans ?_), ((foldl_ns _ _ _ ?_).trans ?_)⟩ | refine ⟨((foldl_fst_pending _ _ _ ?_).trans ?_), ((foldl_fst_life _ _ _ ?_).trans ?_), ((foldl_fst_ns _ _ _ ?_).trans ?_)⟩ | refine ((foldl_pending _ _ _ ?_).trans ?_) | refine ((foldl_life _ _ _ ?_).trans ?_) | refine ((foldl_ns _ _ _ ?_).trans ?_) | refine ((foldl_fst_pending _ _ _ ?_).trans ?_) | refine ((foldl_fst_life _ _ _ ?_).trans ?_) | refine ((foldl_fst_ns _ _ _ ?_).trans ?_) | split | intro _ | simp only [↓State.changeBill_keeps, ↓State.count_keeps, ↓State.modCustoms_keeps, ↓State.profile_keeps, and_self, ↓ite_fst, ↓ite_keeps, ↓State.modBond_keeps, ↓State.modTime_keeps, ↓foldl_pending, ↓foldl_life, ↓foldl_ns, ↓foldl_fst_pending, ↓foldl_fst_life, ↓foldl_fst_ns, ite_self, implies_true])

theorem State.readyBill_keeps (s : State) (epx : Nat) :
    (State.readyBill s epx).pending = s.pending ∧ (State.readyBill s epx).bond.lifecycle = s.bond.lifecycle ∧ (State.readyBill s epx).time.ns = s.time.ns := by
  first | rw [State.readyBill] | rw [State.readyBill.eq_def]
  try dsimp only
  repeat' (first | (simp only [↓State.popMailbox_keeps, ↓State.snapshotBill_keeps, ↓State.verifyBill_keeps, and_self, ↓ite_fst, ↓ite_keeps, ↓State.modBond_keeps, ↓State.modTime_keeps, ↓foldl_pending, ↓foldl_life, ↓foldl_ns, ↓foldl_fst_pending, ↓foldl_fst_life, ↓foldl_fst_ns, ite_self, implies_true]; done) | with_reducible exact ⟨rfl, rfl, rfl⟩ | (grind only [State.popMailbox_keeps, State.snapshotBill_keeps, State.verifyBill_keeps, ite_keeps, State.modBond_keeps, State.modTime_keeps]; done) | refine ⟨((foldl_pending _ _ _ ?_).trans ?_), ((foldl_life _ _ _ ?_).trans ?_), ((foldl_ns _ _ _ ?_).trans ?_)⟩ | refine ⟨((foldl_fst_pending _ _ _ ?_).trans ?_), ((foldl_fst_life _ _ _ ?_).trans ?_), ((foldl_fst_ns _ _ _ ?_).trans ?_)⟩ | refine ((foldl_pending _ _ _ ?_).trans ?_) | refine ((foldl_life _ _ _ ?_).trans ?_) | refine ((foldl_ns _ _ _ ?_).trans ?_) | refine ((foldl_fst_pending _ _ _ ?_).trans ?_) | refine ((foldl_fst_life _ _ _ ?_).trans ?_) | refine ((foldl_fst_ns _ _ _ ?_).trans ?_) | split | intro _ | simp only [↓State.popMailbox_keeps, ↓State.snapshotBill_keeps, ↓State.verifyBill_keeps, and_self, ↓ite_fst, ↓ite_keeps, ↓State.modBond_keeps, ↓State.modTime_keeps, ↓foldl_pending, ↓foldl_life, ↓foldl_ns, ↓foldl_fst_pending, ↓foldl_fst_life, ↓foldl_fst_ns, ite_self, implies_true])

theorem State.applyOpen_keeps (s : State) (h : Handoff) :
    (State.applyOpen s h).pending = s.pending ∧ (State.applyOpen s h).bond.lifecycle = s.bond.lifecycle ∧ (State.applyOpen s h).time.ns = s.time.ns := by
  rw [State.applyOpen]; simp only [↓State.closeHandoff_keeps, ↓State.periodRec_keeps, ↓State.readyBill_keeps, and_self, ↓ite_keeps, ite_self, ↓State.modBond_keeps, ↓State.modTime_keeps]

theorem execCustomsApplyOpen_keeps (s : State) :
    ∀ s', (execCustomsApplyOpen s) = .next s' → s'.pending = s.pending ∧ s'.bond.lifecycle = s.bond.lifecycle ∧ s'.time.ns = s.time.ns := by
  rw [execCustomsApplyOpen.eq_def]; try dsimp only
  repeat' (first | with_reducible exact out_keeps ⟨rfl, rfl, rfl⟩ | with_reducible refine out_keeps ?_ | with_reducible refine out_both ?_ ?_ | (solve | simp only [↓State.applyOpen_keeps, and_self, ↓ite_keeps, ite_self, ↓State.modBond_keeps, ↓State.modTime_keeps]) | with_reducible exact ⟨rfl, rfl, rfl⟩ | refine State.onHandoff_keeps _ _ _ ?_ _ | split | intro _)

theorem State.applyClose_keeps (s : State) (h : Handoff) :
    (State.applyClose s h).pending = s.pending ∧ (State.applyClose s h).bond.lifecycle = s.bond.lifecycle ∧ (State.applyClose s h).time.ns = s.time.ns := by
  rw [State.applyClose]; simp only [↓State.closeHandoff_keeps, ↓State.periodRec_keeps, ↓State.readyBill_keeps, and_self, ↓ite_keeps, ite_self, ↓State.modBond_keeps, ↓State.modTime_keeps]

theorem execCustomsApplyClose_keeps (s : State) :
    ∀ s', (execCustomsApplyClose s) = .next s' → s'.pending = s.pending ∧ s'.bond.lifecycle = s.bond.lifecycle ∧ s'.time.ns = s.time.ns := by
  rw [execCustomsApplyClose.eq_def]; try dsimp only
  repeat' (first | with_reducible exact out_keeps ⟨rfl, rfl, rfl⟩ | with_reducible refine out_keeps ?_ | with_reducible refine out_both ?_ ?_ | (solve | simp only [↓State.applyClose_keeps, and_self, ↓ite_keeps, ite_self, ↓State.modBond_keeps, ↓State.modTime_keeps]) | with_reducible exact ⟨rfl, rfl, rfl⟩ | refine State.onHandoff_keeps _ _ _ ?_ _ | split | intro _)

theorem State.journalDown_keeps (s : State) :
    (State.journalDown s).pending = s.pending ∧ (State.journalDown s).bond.lifecycle = s.bond.lifecycle ∧ (State.journalDown s).time.ns = s.time.ns := by
  first | rw [State.journalDown] | rw [State.journalDown.eq_def]
  try dsimp only
  repeat' (first | (simp only [↓State.journal_keeps, ↓State.modCustoms_keeps, and_self, ↓ite_fst, ↓ite_keeps, ↓State.modBond_keeps, ↓State.modTime_keeps, ↓foldl_pending, ↓foldl_life, ↓foldl_ns, ↓foldl_fst_pending, ↓foldl_fst_life, ↓foldl_fst_ns, ite_self, implies_true]; done) | with_reducible exact ⟨rfl, rfl, rfl⟩ | (grind only [State.journal_keeps, State.modCustoms_keeps, ite_keeps, State.modBond_keeps, State.modTime_keeps]; done) | refine ⟨((foldl_pending _ _ _ ?_).trans ?_), ((foldl_life _ _ _ ?_).trans ?_), ((foldl_ns _ _ _ ?_).trans ?_)⟩ | refine ⟨((foldl_fst_pending _ _ _ ?_).trans ?_), ((foldl_fst_life _ _ _ ?_).trans ?_), ((foldl_fst_ns _ _ _ ?_).trans ?_)⟩ | refine ((foldl_pending _ _ _ ?_).trans ?_) | refine ((foldl_life _ _ _ ?_).trans ?_) | refine ((foldl_ns _ _ _ ?_).trans ?_) | refine ((foldl_fst_pending _ _ _ ?_).trans ?_) | refine ((foldl_fst_life _ _ _ ?_).trans ?_) | refine ((foldl_fst_ns _ _ _ ?_).trans ?_) | split | intro _ | simp only [↓State.journal_keeps, ↓State.modCustoms_keeps, and_self, ↓ite_fst, ↓ite_keeps, ↓State.modBond_keeps, ↓State.modTime_keeps, ↓foldl_pending, ↓foldl_life, ↓foldl_ns, ↓foldl_fst_pending, ↓foldl_fst_life, ↓foldl_fst_ns, ite_self, implies_true])

theorem State.drainQueue_keeps (s : State) :
    (State.drainQueue s).pending = s.pending ∧ (State.drainQueue s).bond.lifecycle = s.bond.lifecycle ∧ (State.drainQueue s).time.ns = s.time.ns := by
  first | rw [State.drainQueue] | rw [State.drainQueue.eq_def]
  try dsimp only
  repeat' (first | (simp only [↓State.metroTake_keeps, ↓State.modCustoms_keeps, and_self, ↓ite_fst, ↓ite_keeps, ↓State.modBond_keeps, ↓State.modTime_keeps, ↓foldl_pending, ↓foldl_life, ↓foldl_ns, ↓foldl_fst_pending, ↓foldl_fst_life, ↓foldl_fst_ns, ite_self, implies_true]; done) | with_reducible exact ⟨rfl, rfl, rfl⟩ | (grind only [State.metroTake_keeps, State.modCustoms_keeps, ite_keeps, State.modBond_keeps, State.modTime_keeps]; done) | refine ⟨((foldl_pending _ _ _ ?_).trans ?_), ((foldl_life _ _ _ ?_).trans ?_), ((foldl_ns _ _ _ ?_).trans ?_)⟩ | refine ⟨((foldl_fst_pending _ _ _ ?_).trans ?_), ((foldl_fst_life _ _ _ ?_).trans ?_), ((foldl_fst_ns _ _ _ ?_).trans ?_)⟩ | refine ((foldl_pending _ _ _ ?_).trans ?_) | refine ((foldl_life _ _ _ ?_).trans ?_) | refine ((foldl_ns _ _ _ ?_).trans ?_) | refine ((foldl_fst_pending _ _ _ ?_).trans ?_) | refine ((foldl_fst_life _ _ _ ?_).trans ?_) | refine ((foldl_fst_ns _ _ _ ?_).trans ?_) | split | intro _ | simp only [↓State.metroTake_keeps, ↓State.modCustoms_keeps, and_self, ↓ite_fst, ↓ite_keeps, ↓State.modBond_keeps, ↓State.modTime_keeps, ↓foldl_pending, ↓foldl_life, ↓foldl_ns, ↓foldl_fst_pending, ↓foldl_fst_life, ↓foldl_fst_ns, ite_self, implies_true])

theorem execLockstepMismatch_keeps (s : State) :
    ∀ s', (execLockstepMismatch s) = .next s' → s'.pending = s.pending ∧ s'.bond.lifecycle = s.bond.lifecycle ∧ s'.time.ns = s.time.ns := by
  intro s'; first | rw [execLockstepMismatch] | rw [execLockstepMismatch.eq_def]
  try dsimp only
  repeat' (first | (simp only [↓State.drainQueue_keeps, ↓State.event_keeps, ↓State.journalDown_keeps, ↓State.modCustoms_keeps, ↓State.notice_keeps, ↓State.raise_keeps, and_self, ↓ite_fst, ↓ite_keeps, ↓State.modBond_keeps, ↓State.modTime_keeps, ↓foldl_pending, ↓foldl_life, ↓foldl_ns, ↓foldl_fst_pending, ↓foldl_fst_life, ↓foldl_fst_ns, ite_self, implies_true]; done) | with_reducible exact ⟨rfl, rfl, rfl⟩ | (grind only [State.drainQueue_keeps, State.event_keeps, State.journalDown_keeps, State.modCustoms_keeps, State.notice_keeps, State.raise_keeps, ite_keeps, State.modBond_keeps, State.modTime_keeps]; done) | (with_reducible refine out_next (P := fun s' => s'.pending = s.pending ∧ s'.bond.lifecycle = s.bond.lifecycle ∧ s'.time.ns = s.time.ns) ?_) | with_reducible refine out_ite ?_ ?_ | refine ⟨((foldl_pending _ _ _ ?_).trans ?_), ((foldl_life _ _ _ ?_).trans ?_), ((foldl_ns _ _ _ ?_).trans ?_)⟩ | refine ⟨((foldl_fst_pending _ _ _ ?_).trans ?_), ((foldl_fst_life _ _ _ ?_).trans ?_), ((foldl_fst_ns _ _ _ ?_).trans ?_)⟩ | refine ((foldl_pending _ _ _ ?_).trans ?_) | refine ((foldl_life _ _ _ ?_).trans ?_) | refine ((foldl_ns _ _ _ ?_).trans ?_) | refine ((foldl_fst_pending _ _ _ ?_).trans ?_) | refine ((foldl_fst_life _ _ _ ?_).trans ?_) | refine ((foldl_fst_ns _ _ _ ?_).trans ?_) | split | intro _ | simp only [↓State.drainQueue_keeps, ↓State.event_keeps, ↓State.journalDown_keeps, ↓State.modCustoms_keeps, ↓State.notice_keeps, ↓State.raise_keeps, and_self, ↓ite_fst, ↓ite_keeps, ↓State.modBond_keeps, ↓State.modTime_keeps, ↓foldl_pending, ↓foldl_life, ↓foldl_ns, ↓foldl_fst_pending, ↓foldl_fst_life, ↓foldl_fst_ns, ite_self, implies_true])

theorem execCustomsRomRestart_keeps (s : State) :
    ∀ s', (execCustomsRomRestart s) = .next s' → s'.pending = s.pending ∧ s'.bond.lifecycle = s.bond.lifecycle ∧ s'.time.ns = s.time.ns := by
  rw [execCustomsRomRestart.eq_def]; repeat' (first | with_reducible exact out_keeps ⟨rfl, rfl, rfl⟩ | with_reducible refine out_keeps ?_ | with_reducible refine out_both ?_ ?_ | (solve | simp only [↓State.drainQueue_keeps, ↓State.modCustoms_keeps, ↓State.siteTamper_keeps, and_self, ↓ite_fst, ↓ite_keeps, ↓State.modBond_keeps, ↓State.modTime_keeps, ↓foldl_pending, ↓foldl_life, ↓foldl_ns, ↓foldl_fst_pending, ↓foldl_fst_life, ↓foldl_fst_ns, ite_self, implies_true]) | split)

theorem execSiteTamperEvent_keeps (kind : Nat) (s : State) :
    ∀ s', (execSiteTamperEvent kind s) = .next s' → s'.pending = s.pending ∧ s'.bond.lifecycle = s.bond.lifecycle ∧ s'.time.ns = s.time.ns := by
  rw [execSiteTamperEvent.eq_def]; repeat' (first | with_reducible exact out_keeps ⟨rfl, rfl, rfl⟩ | with_reducible refine out_keeps ?_ | with_reducible refine out_both ?_ ?_ | (solve | simp only [↓State.noteTamper_keeps, and_self]) | split)

theorem execMetroOffsetCalibration_keeps (s : State) :
    ∀ s', (execMetroOffsetCalibration s) = .next s' → s'.pending = s.pending ∧ s'.bond.lifecycle = s.bond.lifecycle ∧ s'.time.ns = s.time.ns := by
  rw [execMetroOffsetCalibration.eq_def]; repeat' (first | with_reducible exact out_keeps ⟨rfl, rfl, rfl⟩ | with_reducible refine out_keeps ?_ | with_reducible refine out_both ?_ ?_ | (solve | simp only [↓State.bgRan_keeps, ↓State.modCustoms_keeps, and_self]) | split)

theorem State.sweepBill_keeps (s : State) (epx : Nat) :
    (State.sweepBill s epx).pending = s.pending ∧ (State.sweepBill s epx).bond.lifecycle = s.bond.lifecycle ∧ (State.sweepBill s epx).time.ns = s.time.ns := by
  rw [State.sweepBill]; simp only [↓State.journal_keeps, ↓State.modCustoms_keeps, ↓State.snapshotBill_keeps, ↓State.verifyBill_keeps, and_self, ↓ite_keeps, ite_self, ↓State.modBond_keeps, ↓State.modTime_keeps]

theorem State.recopy_keeps (s : State) (epxs : List Nat) :
    (State.recopy s epxs).pending = s.pending ∧ (State.recopy s epxs).bond.lifecycle = s.bond.lifecycle ∧ (State.recopy s epxs).time.ns = s.time.ns := by
  first | rw [State.recopy] | rw [State.recopy.eq_def]
  try dsimp only
  repeat' (first | (simp only [↓State.cusRelease_keeps, ↓State.modCustoms_keeps, ↓State.sweepBill_keeps, and_self, ↓ite_fst, ↓ite_keeps, ↓State.modBond_keeps, ↓State.modTime_keeps, ↓foldl_pending, ↓foldl_life, ↓foldl_ns, ↓foldl_fst_pending, ↓foldl_fst_life, ↓foldl_fst_ns, ite_self, implies_true]; done) | with_reducible exact ⟨rfl, rfl, rfl⟩ | (grind only [State.cusRelease_keeps, State.modCustoms_keeps, State.sweepBill_keeps, ite_keeps, State.modBond_keeps, State.modTime_keeps]; done) | refine ⟨((foldl_pending _ _ _ ?_).trans ?_), ((foldl_life _ _ _ ?_).trans ?_), ((foldl_ns _ _ _ ?_).trans ?_)⟩ | refine ⟨((foldl_fst_pending _ _ _ ?_).trans ?_), ((foldl_fst_life _ _ _ ?_).trans ?_), ((foldl_fst_ns _ _ _ ?_).trans ?_)⟩ | refine ((foldl_pending _ _ _ ?_).trans ?_) | refine ((foldl_life _ _ _ ?_).trans ?_) | refine ((foldl_ns _ _ _ ?_).trans ?_) | refine ((foldl_fst_pending _ _ _ ?_).trans ?_) | refine ((foldl_fst_life _ _ _ ?_).trans ?_) | refine ((foldl_fst_ns _ _ _ ?_).trans ?_) | split | intro _ | simp only [↓State.cusRelease_keeps, ↓State.modCustoms_keeps, ↓State.sweepBill_keeps, and_self, ↓ite_fst, ↓ite_keeps, ↓State.modBond_keeps, ↓State.modTime_keeps, ↓foldl_pending, ↓foldl_life, ↓foldl_ns, ↓foldl_fst_pending, ↓foldl_fst_life, ↓foldl_fst_ns, ite_self, implies_true])

theorem execBillingSweep_keeps (s : State) :
    ∀ s', (execBillingSweep s) = .next s' → s'.pending = s.pending ∧ s'.bond.lifecycle = s.bond.lifecycle ∧ s'.time.ns = s.time.ns := by
  rw [execBillingSweep.eq_def]; repeat' (first | with_reducible exact out_keeps ⟨rfl, rfl, rfl⟩ | with_reducible refine out_keeps ?_ | with_reducible refine out_both ?_ ?_ | (solve | simp only [↓State.bgRan_keeps, ↓State.recopy_keeps, ↓State.sweepBill_keeps, and_self, ↓ite_fst, ↓ite_keeps, ↓State.modBond_keeps, ↓State.modTime_keeps, ↓foldl_pending, ↓foldl_life, ↓foldl_ns, ↓foldl_fst_pending, ↓foldl_fst_life, ↓foldl_fst_ns, ite_self, implies_true]) | split)

end Sys2Proof.Machine
end

