-- ==== Sys2Proof/Laws/KeepLogbook.lean ====
section
/-!
SUPPORT. What the operations of Machine/Logbook.lean leave alone: the queue, the life cycle and the timebase.
-/
set_option linter.unusedSimpArgs false

namespace Sys2Proof.Machine

theorem State.logWrite_keeps (s : State) (e : LogEvent) :
    (State.logWrite s e).pending = s.pending ∧ (State.logWrite s e).bond.lifecycle = s.bond.lifecycle ∧ (State.logWrite s e).time.ns = s.time.ns := by
  rw [State.logWrite.eq_def]; repeat' (first | (solve | simp only [↓State.modLog_keeps, ↓State.modStore_keeps, ↓State.raise_keeps, and_self, ↓ite_keeps, ite_self, ↓State.modBond_keeps, ↓State.modTime_keeps]) | with_reducible exact ⟨rfl, rfl, rfl⟩ | split)

theorem State.drainOne_keeps (s : State) :
    (State.drainOne s).pending = s.pending ∧ (State.drainOne s).bond.lifecycle = s.bond.lifecycle ∧ (State.drainOne s).time.ns = s.time.ns := by
  rw [State.drainOne.eq_def]; repeat' (first | (solve | simp only [↓State.event_keeps, ↓State.logWrite_keeps, ↓State.modLog_keeps, and_self, ↓ite_keeps, ite_self, ↓State.modBond_keeps, ↓State.modTime_keeps]) | with_reducible exact ⟨rfl, rfl, rfl⟩ | split)

theorem execLogRecordWrite_keeps (s : State) :
    ∀ s', (execLogRecordWrite s) = .next s' → s'.pending = s.pending ∧ s'.bond.lifecycle = s.bond.lifecycle ∧ s'.time.ns = s.time.ns := by
  rw [execLogRecordWrite]; with_reducible refine out_keeps ?_; simp only [↓State.drainOne_keeps, and_self]

theorem State.drainLog_keeps (s : State) :
    (State.drainLog s).pending = s.pending ∧ (State.drainLog s).bond.lifecycle = s.bond.lifecycle ∧ (State.drainLog s).time.ns = s.time.ns := by
  rw [State.drainLog]; simp only [↓State.drainOne_keeps, and_self, ↓ite_fst, ↓ite_keeps, ↓State.modBond_keeps, ↓State.modTime_keeps, ↓foldl_pending, ↓foldl_life, ↓foldl_ns, ↓foldl_fst_pending, ↓foldl_fst_life, ↓foldl_fst_ns, ite_self, implies_true]

theorem execOpSecSave_keeps (s : State) :
    ∀ s', (execOpSecSave s) = .next s' → s'.pending = s.pending ∧ s'.bond.lifecycle = s.bond.lifecycle ∧ s'.time.ns = s.time.ns := by
  intro s'; first | rw [execOpSecSave] | rw [execOpSecSave.eq_def]
  try dsimp only
  repeat' (first | (simp only [↓State.modLog_keeps, and_self, ↓ite_fst, ↓ite_keeps, ↓State.modBond_keeps, ↓State.modTime_keeps, ↓foldl_pending, ↓foldl_life, ↓foldl_ns, ↓foldl_fst_pending, ↓foldl_fst_life, ↓foldl_fst_ns, ite_self, implies_true]; done) | with_reducible exact ⟨rfl, rfl, rfl⟩ | (grind only [State.modLog_keeps, ite_keeps, State.modBond_keeps, State.modTime_keeps]; done) | (with_reducible refine out_next (P := fun s' => s'.pending = s.pending ∧ s'.bond.lifecycle = s.bond.lifecycle ∧ s'.time.ns = s.time.ns) ?_) | with_reducible refine out_ite ?_ ?_ | refine ⟨((foldl_pending _ _ _ ?_).trans ?_), ((foldl_life _ _ _ ?_).trans ?_), ((foldl_ns _ _ _ ?_).trans ?_)⟩ | refine ⟨((foldl_fst_pending _ _ _ ?_).trans ?_), ((foldl_fst_life _ _ _ ?_).trans ?_), ((foldl_fst_ns _ _ _ ?_).trans ?_)⟩ | refine ((foldl_pending _ _ _ ?_).trans ?_) | refine ((foldl_life _ _ _ ?_).trans ?_) | refine ((foldl_ns _ _ _ ?_).trans ?_) | refine ((foldl_fst_pending _ _ _ ?_).trans ?_) | refine ((foldl_fst_life _ _ _ ?_).trans ?_) | refine ((foldl_fst_ns _ _ _ ?_).trans ?_) | split | intro _ | simp only [↓State.modLog_keeps, and_self, ↓ite_fst, ↓ite_keeps, ↓State.modBond_keeps, ↓State.modTime_keeps, ↓foldl_pending, ↓foldl_life, ↓foldl_ns, ↓foldl_fst_pending, ↓foldl_fst_life, ↓foldl_fst_ns, ite_self, implies_true])

theorem State.setRdData_keeps (s : State) (b : Bytes) :
    (State.setRdData s b).pending = s.pending ∧ (State.setRdData s b).bond.lifecycle = s.bond.lifecycle ∧ (State.setRdData s b).time.ns = s.time.ns := by
  rw [State.setRdData]; simp only [↓State.set_keeps, and_self, ↓ite_fst, ↓ite_keeps, ↓State.modBond_keeps, ↓State.modTime_keeps, ↓foldl_pending, ↓foldl_life, ↓foldl_ns, ↓foldl_fst_pending, ↓foldl_fst_life, ↓foldl_fst_ns, ite_self, implies_true]

theorem execLogRead_keeps (s : State) :
    ∀ s', (execLogRead s) = .next s' → s'.pending = s.pending ∧ s'.bond.lifecycle = s.bond.lifecycle ∧ s'.time.ns = s.time.ns := by
  rw [execLogRead.eq_def]; repeat' (first | with_reducible exact out_keeps ⟨rfl, rfl, rfl⟩ | with_reducible refine out_keeps ?_ | with_reducible refine out_both ?_ ?_ | (solve | simp only [↓State.raise_keeps, ↓State.set_keeps, ↓State.setRdData_keeps, and_self]) | split)

theorem State.logRewrite_keeps (l : List Bytes) (s : State) :
    ∀ s', s.logRewrite l = some s' → K3 s' s := by
  induction l generalizing s with
  | nil => intro s' h; rw [State.logRewrite] at h; cases h; exact ⟨rfl, rfl, rfl⟩
  | cons p ps ih =>
    intro s' h; rw [State.logRewrite] at h
    obtain ⟨t, ht, hs⟩ := Option.bind_eq_some_iff.mp h
    exact K3.trans (ih t s' hs) (State.logProgram_keeps _ _ _ _ _ ht)

theorem State.logClear_keeps (s : State) (clearTo slot : Nat) :
    (State.logClear s clearTo slot).pending = s.pending ∧ (State.logClear s clearTo slot).bond.lifecycle = s.bond.lifecycle ∧ (State.logClear s clearTo slot).time.ns = s.time.ns := by
  rw [State.logClear]; dsimp only
  refine K3.trans (State.logWrite_keeps ..) (K3.trans (State.raise_keeps ..) (K3.trans (State.modLog_keeps ..) ?_))
  split
  · rename_i t h
    refine K3.trans (State.mapSync_keeps ..) (K3.trans (State.mapNote_keeps ..) ?_)
    split at h
    · exact State.logRewrite_keeps _ _ _ h
    · cases h
  · exact ⟨rfl, rfl, rfl⟩


theorem State.permFails_keeps (s : State) :
    (State.permFails s).pending = s.pending ∧ (State.permFails s).bond.lifecycle = s.bond.lifecycle ∧ (State.permFails s).time.ns = s.time.ns := by
  first | rw [State.permFails] | rw [State.permFails.eq_def]
  try dsimp only
  repeat' (first | (simp only [↓State.modLog_keeps, and_self, ↓ite_fst, ↓ite_keeps, ↓State.modBond_keeps, ↓State.modTime_keeps, ↓foldl_pending, ↓foldl_life, ↓foldl_ns, ↓foldl_fst_pending, ↓foldl_fst_life, ↓foldl_fst_ns, ite_self, implies_true]; done) | with_reducible exact ⟨rfl, rfl, rfl⟩ | (grind only [State.modLog_keeps, ite_keeps, State.modBond_keeps, State.modTime_keeps]; done) | refine ⟨((foldl_pending _ _ _ ?_).trans ?_), ((foldl_life _ _ _ ?_).trans ?_), ((foldl_ns _ _ _ ?_).trans ?_)⟩ | refine ⟨((foldl_fst_pending _ _ _ ?_).trans ?_), ((foldl_fst_life _ _ _ ?_).trans ?_), ((foldl_fst_ns _ _ _ ?_).trans ?_)⟩ | refine ((foldl_pending _ _ _ ?_).trans ?_) | refine ((foldl_life _ _ _ ?_).trans ?_) | refine ((foldl_ns _ _ _ ?_).trans ?_) | refine ((foldl_fst_pending _ _ _ ?_).trans ?_) | refine ((foldl_fst_life _ _ _ ?_).trans ?_) | refine ((foldl_fst_ns _ _ _ ?_).trans ?_) | split | intro _ | simp only [↓State.modLog_keeps, and_self, ↓ite_fst, ↓ite_keeps, ↓State.modBond_keeps, ↓State.modTime_keeps, ↓foldl_pending, ↓foldl_life, ↓foldl_ns, ↓foldl_fst_pending, ↓foldl_fst_life, ↓foldl_fst_ns, ite_self, implies_true])

theorem State.permMark_keeps (s : State) :
    (State.permMark s).pending = s.pending ∧ (State.permMark s).bond.lifecycle = s.bond.lifecycle ∧ (State.permMark s).time.ns = s.time.ns := by
  first | rw [State.permMark] | rw [State.permMark.eq_def]
  try dsimp only
  repeat' (first | (simp only [↓State.modLog_keeps, ↓State.raise_keeps, and_self, ↓ite_fst, ↓ite_keeps, ↓State.modBond_keeps, ↓State.modTime_keeps, ↓foldl_pending, ↓foldl_life, ↓foldl_ns, ↓foldl_fst_pending, ↓foldl_fst_life, ↓foldl_fst_ns, ite_self, implies_true]; done) | with_reducible exact ⟨rfl, rfl, rfl⟩ | (grind only [State.modLog_keeps, State.raise_keeps, ite_keeps, State.modBond_keeps, State.modTime_keeps]; done) | refine ⟨((foldl_pending _ _ _ ?_).trans ?_), ((foldl_life _ _ _ ?_).trans ?_), ((foldl_ns _ _ _ ?_).trans ?_)⟩ | refine ⟨((foldl_fst_pending _ _ _ ?_).trans ?_), ((foldl_fst_life _ _ _ ?_).trans ?_), ((foldl_fst_ns _ _ _ ?_).trans ?_)⟩ | refine ((foldl_pending _ _ _ ?_).trans ?_) | refine ((foldl_life _ _ _ ?_).trans ?_) | refine ((foldl_ns _ _ _ ?_).trans ?_) | refine ((foldl_fst_pending _ _ _ ?_).trans ?_) | refine ((foldl_fst_life _ _ _ ?_).trans ?_) | refine ((foldl_fst_ns _ _ _ ?_).trans ?_) | split | intro _ | simp only [↓State.modLog_keeps, ↓State.raise_keeps, and_self, ↓ite_fst, ↓ite_keeps, ↓State.modBond_keeps, ↓State.modTime_keeps, ↓foldl_pending, ↓foldl_life, ↓foldl_ns, ↓foldl_fst_pending, ↓foldl_fst_life, ↓foldl_fst_ns, ite_self, implies_true])

theorem State.logStart_keeps (s : State) :
    (State.logStart s).pending = s.pending ∧ (State.logStart s).bond.lifecycle = s.bond.lifecycle ∧ (State.logStart s).time.ns = s.time.ns := by
  with_reducible exact ⟨rfl, rfl, rfl⟩

theorem State.logConfig_keeps (s : State) :
    (State.logConfig s).pending = s.pending ∧ (State.logConfig s).bond.lifecycle = s.bond.lifecycle ∧ (State.logConfig s).time.ns = s.time.ns := by
  with_reducible exact ⟨rfl, rfl, rfl⟩

end Sys2Proof.Machine
end

