-- ==== Sys2Proof/Laws/KeepBond.lean ====
section
/-!
SUPPORT. What the operations of Machine/Bond.lean leave alone: the queue, the life cycle and the timebase.
-/
set_option linter.unusedSimpArgs false

namespace Sys2Proof.Machine

theorem State.bondDone_keeps (s : State) (result outLen : Nat) :
    (State.bondDone s result outLen).pending = s.pending ∧ (State.bondDone s result outLen).bond.lifecycle = s.bond.lifecycle ∧ (State.bondDone s result outLen).time.ns = s.time.ns := by
  rw [State.bondDone]; simp only [↓State.raise_keeps, ↓State.set_keeps, and_self]

theorem State.bondData_keeps (s : State) (res : Bytes) :
    (State.bondData s res).pending = s.pending ∧ (State.bondData s res).bond.lifecycle = s.bond.lifecycle ∧ (State.bondData s res).time.ns = s.time.ns := by
  rw [State.bondData]; simp only [↓State.set_keeps, and_self, ↓ite_fst, ↓ite_keeps, ↓State.modBond_keeps, ↓State.modTime_keeps, ↓foldl_pending, ↓foldl_life, ↓foldl_ns, ↓foldl_fst_pending, ↓foldl_fst_life, ↓foldl_fst_ns, ite_self, implies_true]

theorem State.writeSlot_keeps (s : State) (n attr : Nat) (key : Bytes) :
    (State.writeSlot s n attr key).pending = s.pending ∧ (State.writeSlot s n attr key).bond.lifecycle = s.bond.lifecycle ∧ (State.writeSlot s n attr key).time.ns = s.time.ns := by
  with_reducible exact ⟨rfl, rfl, rfl⟩

theorem State.eraseSlot_keeps (s : State) (n : Nat) :
    (State.eraseSlot s n).pending = s.pending ∧ (State.eraseSlot s n).bond.lifecycle = s.bond.lifecycle ∧ (State.eraseSlot s n).time.ns = s.time.ns := by
  rw [State.eraseSlot]; simp only [↓State.bondDone_keeps, ↓State.writeSlot_keeps, and_self, ↓ite_keeps, ite_self, ↓State.modBond_keeps, ↓State.modTime_keeps]

theorem execBondLoadPlain_keeps (slot : Nat) (buf : Bytes) (s : State) :
    ∀ s', (execBondLoadPlain slot buf s) = .next s' → s'.pending = s.pending ∧ s'.bond.lifecycle = s.bond.lifecycle ∧ s'.time.ns = s.time.ns := by
  rw [execBondLoadPlain.eq_def]; repeat' (first | with_reducible exact out_keeps ⟨rfl, rfl, rfl⟩ | with_reducible refine out_keeps ?_ | with_reducible refine out_both ?_ ?_ | (solve | simp only [↓State.bondDone_keeps, ↓State.writeSlot_keeps, and_self]) | split)

theorem execBondGenerate_keeps (slot : Nat) (s : State) :
    ∀ s', (execBondGenerate slot s) = .next s' → s'.pending = s.pending ∧ s'.bond.lifecycle = s.bond.lifecycle ∧ s'.time.ns = s.time.ns := by
  rw [execBondGenerate.eq_def]; repeat' (first | with_reducible exact out_keeps ⟨rfl, rfl, rfl⟩ | with_reducible refine out_keeps ?_ | with_reducible refine out_both ?_ ?_ | (solve | simp only [↓State.bondData_keeps, ↓State.bondDone_keeps, ↓State.writeSlot_keeps, and_self, ↓ite_keeps, ite_self, ↓State.modBond_keeps, ↓State.modTime_keeps]) | split)

theorem execBondErasePlain_keeps (slot : Nat) (s : State) :
    ∀ s', (execBondErasePlain slot s) = .next s' → s'.pending = s.pending ∧ s'.bond.lifecycle = s.bond.lifecycle ∧ s'.time.ns = s.time.ns := by
  rw [execBondErasePlain.eq_def]; repeat' (first | with_reducible exact out_keeps ⟨rfl, rfl, rfl⟩ | with_reducible refine out_keeps ?_ | with_reducible refine out_both ?_ ?_ | (solve | simp only [↓State.bondDone_keeps, ↓State.eraseSlot_keeps, and_self]) | split)

theorem execBondChallenge_keeps (s : State) :
    ∀ s', (execBondChallenge s) = .next s' → s'.pending = s.pending ∧ s'.bond.lifecycle = s.bond.lifecycle ∧ s'.time.ns = s.time.ns := by
  rw [execBondChallenge.eq_def]; repeat' (first | with_reducible exact out_keeps ⟨rfl, rfl, rfl⟩ | with_reducible refine out_keeps ?_ | with_reducible refine out_both ?_ ?_ | (solve | simp only [↓State.bondDone_keeps, and_self, ↓ite_keeps, ite_self, ↓State.modBond_keeps, ↓State.modTime_keeps]) | split)

theorem execNonceExpire_keeps (s : State) :
    ∀ s', (execNonceExpire s) = .next s' → s'.pending = s.pending ∧ s'.bond.lifecycle = s.bond.lifecycle ∧ s'.time.ns = s.time.ns := by
  intro s'; first | rw [execNonceExpire] | rw [execNonceExpire.eq_def]
  try dsimp only
  repeat' (first | (simp only [and_self, ↓ite_fst, ↓ite_keeps, ↓State.modBond_keeps, ↓State.modTime_keeps, ↓foldl_pending, ↓foldl_life, ↓foldl_ns, ↓foldl_fst_pending, ↓foldl_fst_life, ↓foldl_fst_ns, ite_self, implies_true]; done) | with_reducible exact ⟨rfl, rfl, rfl⟩ | (grind only [ite_keeps, State.modBond_keeps, State.modTime_keeps]; done) | (with_reducible refine out_next (P := fun s' => s'.pending = s.pending ∧ s'.bond.lifecycle = s.bond.lifecycle ∧ s'.time.ns = s.time.ns) ?_) | with_reducible refine out_ite ?_ ?_ | refine ⟨((foldl_pending _ _ _ ?_).trans ?_), ((foldl_life _ _ _ ?_).trans ?_), ((foldl_ns _ _ _ ?_).trans ?_)⟩ | refine ⟨((foldl_fst_pending _ _ _ ?_).trans ?_), ((foldl_fst_life _ _ _ ?_).trans ?_), ((foldl_fst_ns _ _ _ ?_).trans ?_)⟩ | refine ((foldl_pending _ _ _ ?_).trans ?_) | refine ((foldl_life _ _ _ ?_).trans ?_) | refine ((foldl_ns _ _ _ ?_).trans ?_) | refine ((foldl_fst_pending _ _ _ ?_).trans ?_) | refine ((foldl_fst_life _ _ _ ?_).trans ?_) | refine ((foldl_fst_ns _ _ _ ?_).trans ?_) | split | intro _ | simp only [and_self, ↓ite_fst, ↓ite_keeps, ↓State.modBond_keeps, ↓State.modTime_keeps, ↓foldl_pending, ↓foldl_life, ↓foldl_ns, ↓foldl_fst_pending, ↓foldl_fst_life, ↓foldl_fst_ns, ite_self, implies_true])

theorem State.signed_keeps (s : State) (code : Nat) (blob : Bytes) (states : List Nat) (argLen : Nat) (act : State → Bytes → State) (hact : ∀ (s0 : State) (a0 : Bytes), (act s0 a0).pending = s0.pending ∧ (act s0 a0).bond.lifecycle = s0.bond.lifecycle ∧ (act s0 a0).time.ns = s0.time.ns) :
    (State.signed s code blob states argLen act).pending = s.pending ∧ (State.signed s code blob states argLen act).bond.lifecycle = s.bond.lifecycle ∧ (State.signed s code blob states argLen act).time.ns = s.time.ns := by
  rw [State.signed.eq_def]; try dsimp only
  repeat' (first | (solve | simp only [↓State.bondDone_keeps, ↓State.useSlot_keeps, and_self, ↓ite_keeps, ite_self, ↓State.modBond_keeps, ↓State.modTime_keeps]) | with_reducible exact ⟨rfl, rfl, rfl⟩ | exact hact _ _ | (focus have hk := hact; simp only [↓hk, ↓State.bondDone_keeps, ↓State.useSlot_keeps, and_self, ↓ite_keeps, ite_self, ↓State.modBond_keeps, ↓State.modTime_keeps]; done) | split | intro _)

theorem State.writeLock_keeps (s : State) (v : Bool) :
    (State.writeLock s v).pending = s.pending ∧ (State.writeLock s v).bond.lifecycle = s.bond.lifecycle ∧ (State.writeLock s v).time.ns = s.time.ns := by
  rw [State.writeLock]; simp only [↓State.bondDone_keeps, ↓State.event_keeps, ↓State.raise_keeps, and_self, ↓ite_keeps, ite_self, ↓State.modBond_keeps, ↓State.modTime_keeps]

theorem execOwnerLockSet_keeps (blob : Bytes) (s : State) :
    ∀ s', (execOwnerLockSet blob s) = .next s' → s'.pending = s.pending ∧ s'.bond.lifecycle = s.bond.lifecycle ∧ s'.time.ns = s.time.ns := by
  rw [execOwnerLockSet.eq_def]; repeat' (first | with_reducible exact out_keeps ⟨rfl, rfl, rfl⟩ | with_reducible refine out_keeps ?_ | with_reducible refine out_both ?_ ?_ | (solve | simp only [↓State.signed_keeps, ↓State.writeLock_keeps, and_self, ↓ite_fst, ↓ite_keeps, ↓State.modBond_keeps, ↓State.modTime_keeps, ↓foldl_pending, ↓foldl_life, ↓foldl_ns, ↓foldl_fst_pending, ↓foldl_fst_life, ↓foldl_fst_ns, ite_self, implies_true]) | split)

theorem execOwnerLockClear_keeps (blob : Bytes) (s : State) :
    ∀ s', (execOwnerLockClear blob s) = .next s' → s'.pending = s.pending ∧ s'.bond.lifecycle = s.bond.lifecycle ∧ s'.time.ns = s.time.ns := by
  rw [execOwnerLockClear.eq_def]; repeat' (first | with_reducible exact out_keeps ⟨rfl, rfl, rfl⟩ | with_reducible refine out_keeps ?_ | with_reducible refine out_both ?_ ?_ | (solve | simp only [↓State.signed_keeps, ↓State.writeLock_keeps, and_self, ↓ite_fst, ↓ite_keeps, ↓State.modBond_keeps, ↓State.modTime_keeps, ↓foldl_pending, ↓foldl_life, ↓foldl_ns, ↓foldl_fst_pending, ↓foldl_fst_life, ↓foldl_fst_ns, ite_self, implies_true]) | split)

theorem State.loadWrapped_keeps (s : State) (nonce : Bytes) (a : Bytes) :
    (State.loadWrapped s nonce a).pending = s.pending ∧ (State.loadWrapped s nonce a).bond.lifecycle = s.bond.lifecycle ∧ (State.loadWrapped s nonce a).time.ns = s.time.ns := by
  rw [State.loadWrapped.eq_def]; try dsimp only
  repeat' (first | (solve | simp only [↓State.bondDone_keeps, ↓State.useSlot_keeps, ↓State.writeSlot_keeps, and_self, ↓ite_fst, ↓ite_keeps, ↓State.modBond_keeps, ↓State.modTime_keeps, ↓foldl_pending, ↓foldl_life, ↓foldl_ns, ↓foldl_fst_pending, ↓foldl_fst_life, ↓foldl_fst_ns, ite_self, implies_true]) | with_reducible exact ⟨rfl, rfl, rfl⟩ | refine ⟨foldl_pending _ _ _ ?_, foldl_life _ _ _ ?_, foldl_ns _ _ _ ?_⟩ | split | intro _)

theorem execOwnerLoadWrapped_keeps (blob : Bytes) (s : State) :
    ∀ s', (execOwnerLoadWrapped blob s) = .next s' → s'.pending = s.pending ∧ s'.bond.lifecycle = s.bond.lifecycle ∧ s'.time.ns = s.time.ns := by
  rw [execOwnerLoadWrapped.eq_def]; repeat' (first | with_reducible exact out_keeps ⟨rfl, rfl, rfl⟩ | with_reducible refine out_keeps ?_ | with_reducible refine out_both ?_ ?_ | (solve | simp only [↓State.loadWrapped_keeps, ↓State.signed_keeps, and_self, ↓ite_fst, ↓ite_keeps, ↓State.modBond_keeps, ↓State.modTime_keeps, ↓foldl_pending, ↓foldl_life, ↓foldl_ns, ↓foldl_fst_pending, ↓foldl_fst_life, ↓foldl_fst_ns, ite_self, implies_true]) | split)

theorem execOwnerEraseSlot_keeps (blob : Bytes) (s : State) :
    ∀ s', (execOwnerEraseSlot blob s) = .next s' → s'.pending = s.pending ∧ s'.bond.lifecycle = s.bond.lifecycle ∧ s'.time.ns = s.time.ns := by
  rw [execOwnerEraseSlot.eq_def]; repeat' (first | with_reducible exact out_keeps ⟨rfl, rfl, rfl⟩ | with_reducible refine out_keeps ?_ | with_reducible refine out_both ?_ ?_ | (solve | simp only [↓State.bondDone_keeps, ↓State.eraseSlot_keeps, ↓State.signed_keeps, and_self, ↓ite_fst, ↓ite_keeps, ↓State.modBond_keeps, ↓State.modTime_keeps, ↓foldl_pending, ↓foldl_life, ↓foldl_ns, ↓foldl_fst_pending, ↓foldl_fst_life, ↓foldl_fst_ns, ite_self, implies_true]) | split)

theorem execOwnerLogClear_keeps (blob : Bytes) (s : State) :
    ∀ s', (execOwnerLogClear blob s) = .next s' → s'.pending = s.pending ∧ s'.bond.lifecycle = s.bond.lifecycle ∧ s'.time.ns = s.time.ns := by
  rw [execOwnerLogClear.eq_def]; repeat' (first | with_reducible exact out_keeps ⟨rfl, rfl, rfl⟩ | with_reducible refine out_keeps ?_ | with_reducible refine out_both ?_ ?_ | (solve | simp only [↓State.bondDone_keeps, ↓State.logClear_keeps, ↓State.signed_keeps, and_self, ↓ite_fst, ↓ite_keeps, ↓State.modBond_keeps, ↓State.modTime_keeps, ↓foldl_pending, ↓foldl_life, ↓foldl_ns, ↓foldl_fst_pending, ↓foldl_fst_life, ↓foldl_fst_ns, ite_self, implies_true]) | split)

theorem execBondAttest_keeps (slot flags : Nat) (s : State) :
    ∀ s', (execBondAttest slot flags s) = .next s' → s'.pending = s.pending ∧ s'.bond.lifecycle = s.bond.lifecycle ∧ s'.time.ns = s.time.ns := by
  intro s' h
  rw [execBondAttest] at h
  have hd (t : State) (r len : Nat) : K3 ((t.bondData []).bondDone r len) t := K3.trans (State.bondDone_keeps ..) (State.bondData_keeps ..)
  split at h
  · cases h; exact ⟨rfl, rfl, rfl⟩
  · dsimp only at h
    split at h
    · cases h; exact hd ..
    · split at h
      · cases h; exact hd ..
      · have hu := K3.trans (State.useSlot_keeps (s.useSlot 0) slot) (State.useSlot_keeps s 0)
        generalize (s.useSlot 0).useSlot slot = u at h hu
        generalize u.coseSign1 _ = out at h
        cases h
        split
        · exact K3.trans (hd ..) hu
        · have hm : K3 (u.modHost (fun h => { h with mem := memWrite h.mem u.bondAddr out })) u := ⟨rfl, rfl, rfl⟩
          generalize u.modHost (fun h => { h with mem := memWrite h.mem u.bondAddr out }) = v at hm ⊢
          exact K3.trans (hd ..) (K3.trans hm hu)

theorem execBondSign_keeps (slot : Nat) (s : State) :
    ∀ s', (execBondSign slot s) = .next s' → s'.pending = s.pending ∧ s'.bond.lifecycle = s.bond.lifecycle ∧ s'.time.ns = s.time.ns := by
  rw [execBondSign.eq_def]; repeat' (first | with_reducible exact out_keeps ⟨rfl, rfl, rfl⟩ | with_reducible refine out_keeps ?_ | with_reducible refine out_both ?_ ?_ | (solve | simp only [↓State.bondData_keeps, ↓State.bondDone_keeps, ↓State.useSlot_keeps, and_self]) | split)

theorem State.raiseFloor_keeps (s : State) (e : Nat) :
    (State.raiseFloor s e).pending = s.pending ∧ (State.raiseFloor s e).bond.lifecycle = s.bond.lifecycle ∧ (State.raiseFloor s e).time.ns = s.time.ns := by
  rw [State.raiseFloor]; simp only [↓State.event_keeps, ↓State.raise_keeps, and_self, ↓ite_keeps, ite_self, ↓State.modBond_keeps, ↓State.modTime_keeps]

theorem State.raiseGate_keeps (s : State) (code version : Nat) :
    (State.raiseGate s code version).pending = s.pending ∧ (State.raiseGate s code version).bond.lifecycle = s.bond.lifecycle ∧ (State.raiseGate s code version).time.ns = s.time.ns := by
  rw [State.raiseGate]; simp only [↓State.event_keeps, ↓State.raise_keeps, ↓State.set_keeps, and_self, ↓ite_keeps, ite_self, ↓State.modBond_keeps, ↓State.modTime_keeps]

theorem execCommitEpoch_keeps (s : State) :
    ∀ s', (execCommitEpoch s) = .next s' → s'.pending = s.pending ∧ s'.bond.lifecycle = s.bond.lifecycle ∧ s'.time.ns = s.time.ns := by
  rw [execCommitEpoch.eq_def]; repeat' (first | with_reducible exact out_keeps ⟨rfl, rfl, rfl⟩ | with_reducible refine out_keeps ?_ | with_reducible refine out_both ?_ ?_ | (solve | simp only [↓State.raiseFloor_keeps, and_self]) | split)

end Sys2Proof.Machine
end

