-- ==== Sys2Proof/Laws/KeepBootRecord.lean ====
section
/-!
SUPPORT. What the operations of Machine/BootRecord.lean leave alone: the queue, the life cycle and the timebase.
-/
set_option linter.unusedSimpArgs false

namespace Sys2Proof.Machine

theorem State.showBoot_keeps (s : State) (atStart : Bool) :
    (State.showBoot s atStart).pending = s.pending ∧ (State.showBoot s atStart).bond.lifecycle = s.bond.lifecycle ∧ (State.showBoot s atStart).time.ns = s.time.ns := by
  rw [State.showBoot]; simp only [↓State.set_keeps, ↓State.setFld_keeps, and_self, ↓ite_fst, ↓ite_keeps, ↓State.modBond_keeps, ↓State.modTime_keeps, ↓foldl_pending, ↓foldl_life, ↓foldl_ns, ↓foldl_fst_pending, ↓foldl_fst_life, ↓foldl_fst_ns, ite_self, implies_true]

theorem State.putBoot_keeps (s : State) (f : BootRec → BootRec) :
    (State.putBoot s f).pending = s.pending ∧ (State.putBoot s f).bond.lifecycle = s.bond.lifecycle ∧ (State.putBoot s f).time.ns = s.time.ns := by
  rw [State.putBoot]; simp only [↓State.modUpd_keeps, ↓State.set_keeps, ↓State.showBoot_keeps, and_self]

end Sys2Proof.Machine
end

