-- ==== Sys2Proof/Laws/KeepPlc.lean ====
section
/-!
SUPPORT. What the operations of Machine/Plc.lean leave alone: the queue, the life cycle and the timebase.
-/
set_option linter.unusedSimpArgs false

namespace Sys2Proof.Machine

theorem State.modNode_keeps (s : State) (n p : Nat) (f : PlcNode → PlcNode) :
    (State.modNode s n p f).pending = s.pending ∧ (State.modNode s n p f).bond.lifecycle = s.bond.lifecycle ∧ (State.modNode s n p f).time.ns = s.time.ns := by
  with_reducible exact ⟨rfl, rfl, rfl⟩

theorem State.plcDrop_keeps (s : State) (n epx : Nat) :
    (State.plcDrop s n epx).pending = s.pending ∧ (State.plcDrop s n epx).bond.lifecycle = s.bond.lifecycle ∧ (State.plcDrop s n epx).time.ns = s.time.ns := by
  rw [State.plcDrop]; simp only [↓State.count_keeps, ↓State.event_keeps, ↓State.raise_keeps, and_self]

theorem State.plcQueue_keeps (s : State) (n p epx : Nat) (env : Bytes) :
    (State.plcQueue s n p epx env).pending = s.pending ∧ (State.plcQueue s n p epx env).bond.lifecycle = s.bond.lifecycle ∧ (State.plcQueue s n p epx env).time.ns = s.time.ns := by
  rw [State.plcQueue.eq_def]; repeat' (first | (solve | simp only [↓State.count_keeps, ↓State.modNode_keeps, ↓State.plcDrop_keeps, and_self, ↓ite_keeps, ite_self, ↓State.modBond_keeps, ↓State.modTime_keeps]) | with_reducible exact ⟨rfl, rfl, rfl⟩ | split)

theorem State.plcCommit_keeps (s : State) (n p : Nat) (it : LinkItem) :
    (State.plcCommit s n p it).pending = s.pending ∧ (State.plcCommit s n p it).bond.lifecycle = s.bond.lifecycle ∧ (State.plcCommit s n p it).time.ns = s.time.ns := by
  rw [State.plcCommit.eq_def]; repeat' (first | (solve | simp only [↓State.create_keeps, ↓State.event_keeps, ↓State.modNode_keeps, ↓State.modPlc_keeps, ↓State.plcQueue_keeps, and_self, ↓ite_keeps, ite_self, ↓State.modBond_keeps, ↓State.modTime_keeps]) | with_reducible exact ⟨rfl, rfl, rfl⟩ | split)

theorem State.plcOff_keeps (s : State) (n : Nat) :
    (State.plcOff s n).pending = s.pending ∧ (State.plcOff s n).bond.lifecycle = s.bond.lifecycle ∧ (State.plcOff s n).time.ns = s.time.ns := by
  with_reducible exact ⟨rfl, rfl, rfl⟩

theorem State.computeRoutes_keeps (s : State) (n : Nat) :
    (State.computeRoutes s n).pending = s.pending ∧ (State.computeRoutes s n).bond.lifecycle = s.bond.lifecycle ∧ (State.computeRoutes s n).time.ns = s.time.ns := by
  rw [State.computeRoutes.eq_def]; try dsimp only
  repeat' (first | (solve | simp only [↓State.event_keeps, ↓State.modNode_keeps, ↓State.raise_keeps, and_self, ↓ite_fst, ↓ite_keeps, ↓State.modBond_keeps, ↓State.modTime_keeps, ↓foldl_pending, ↓foldl_life, ↓foldl_ns, ↓foldl_fst_pending, ↓foldl_fst_life, ↓foldl_fst_ns, ite_self, implies_true]) | with_reducible exact ⟨rfl, rfl, rfl⟩ | refine ⟨foldl_pending _ _ _ ?_, foldl_life _ _ _ ?_, foldl_ns _ _ _ ?_⟩ | split | intro _)

theorem State.evalMode_keeps (s : State) (n : Nat) :
    (State.evalMode s n).pending = s.pending ∧ (State.evalMode s n).bond.lifecycle = s.bond.lifecycle ∧ (State.evalMode s n).time.ns = s.time.ns := by
  rw [State.evalMode]; simp only [↓State.computeRoutes_keeps, ↓State.modPlc_keeps, ↓State.raise_keeps, ↓State.setFlag_keeps, and_self, ↓ite_keeps, ite_self, ↓State.modBond_keeps, ↓State.modTime_keeps]

theorem State.plcSend_keeps (s : State) (n : Nat) (f : PlcTx) :
    (State.plcSend s n f).pending = s.pending ∧ (State.plcSend s n f).bond.lifecycle = s.bond.lifecycle ∧ (State.plcSend s n f).time.ns = s.time.ns := by
  first | rw [State.plcSend] | rw [State.plcSend.eq_def]
  try dsimp only
  repeat' (first | (simp only [↓State.modPlc_keeps, and_self, ↓ite_fst, ↓ite_keeps, ↓State.modBond_keeps, ↓State.modTime_keeps, ↓foldl_pending, ↓foldl_life, ↓foldl_ns, ↓foldl_fst_pending, ↓foldl_fst_life, ↓foldl_fst_ns, ite_self, implies_true]; done) | with_reducible exact ⟨rfl, rfl, rfl⟩ | (grind only [State.modPlc_keeps, ite_keeps, State.modBond_keeps, State.modTime_keeps]; done) | refine ⟨((foldl_pending _ _ _ ?_).trans ?_), ((foldl_life _ _ _ ?_).trans ?_), ((foldl_ns _ _ _ ?_).trans ?_)⟩ | refine ⟨((foldl_fst_pending _ _ _ ?_).trans ?_), ((foldl_fst_life _ _ _ ?_).trans ?_), ((foldl_fst_ns _ _ _ ?_).trans ?_)⟩ | refine ((foldl_pending _ _ _ ?_).trans ?_) | refine ((foldl_life _ _ _ ?_).trans ?_) | refine ((foldl_ns _ _ _ ?_).trans ?_) | refine ((foldl_fst_pending _ _ _ ?_).trans ?_) | refine ((foldl_fst_life _ _ _ ?_).trans ?_) | refine ((foldl_fst_ns _ _ _ ?_).trans ?_) | split | intro _ | simp only [↓State.modPlc_keeps, and_self, ↓ite_fst, ↓ite_keeps, ↓State.modBond_keeps, ↓State.modTime_keeps, ↓foldl_pending, ↓foldl_life, ↓foldl_ns, ↓foldl_fst_pending, ↓foldl_fst_life, ↓foldl_fst_ns, ite_self, implies_true])

theorem State.beacon_keeps (s : State) (n : Nat) (lastgasp : Bool) :
    (State.beacon s n lastgasp).pending = s.pending ∧ (State.beacon s n lastgasp).bond.lifecycle = s.bond.lifecycle ∧ (State.beacon s n lastgasp).time.ns = s.time.ns := by
  with_reducible exact ⟨rfl, rfl, rfl⟩

theorem State.plcLoad_keeps (s : State) (n : Nat) :
    (State.plcLoad s n).pending = s.pending ∧ (State.plcLoad s n).bond.lifecycle = s.bond.lifecycle ∧ (State.plcLoad s n).time.ns = s.time.ns := by
  first | rw [State.plcLoad] | rw [State.plcLoad.eq_def]
  try dsimp only
  repeat' (first | (simp only [↓State.modPlc_keeps, and_self, ↓ite_fst, ↓ite_keeps, ↓State.modBond_keeps, ↓State.modTime_keeps, ↓foldl_pending, ↓foldl_life, ↓foldl_ns, ↓foldl_fst_pending, ↓foldl_fst_life, ↓foldl_fst_ns, ite_self, implies_true]; done) | with_reducible exact ⟨rfl, rfl, rfl⟩ | (grind only [State.modPlc_keeps, ite_keeps, State.modBond_keeps, State.modTime_keeps]; done) | refine ⟨((foldl_pending _ _ _ ?_).trans ?_), ((foldl_life _ _ _ ?_).trans ?_), ((foldl_ns _ _ _ ?_).trans ?_)⟩ | refine ⟨((foldl_fst_pending _ _ _ ?_).trans ?_), ((foldl_fst_life _ _ _ ?_).trans ?_), ((foldl_fst_ns _ _ _ ?_).trans ?_)⟩ | refine ((foldl_pending _ _ _ ?_).trans ?_) | refine ((foldl_life _ _ _ ?_).trans ?_) | refine ((foldl_ns _ _ _ ?_).trans ?_) | refine ((foldl_fst_pending _ _ _ ?_).trans ?_) | refine ((foldl_fst_life _ _ _ ?_).trans ?_) | refine ((foldl_fst_ns _ _ _ ?_).trans ?_) | split | intro _ | simp only [↓State.modPlc_keeps, and_self, ↓ite_fst, ↓ite_keeps, ↓State.modBond_keeps, ↓State.modTime_keeps, ↓foldl_pending, ↓foldl_life, ↓foldl_ns, ↓foldl_fst_pending, ↓foldl_fst_life, ↓foldl_fst_ns, ite_self, implies_true])

theorem State.plcBegin_keeps (s : State) (n : Nat) :
    (State.plcBegin s n).pending = s.pending ∧ (State.plcBegin s n).bond.lifecycle = s.bond.lifecycle ∧ (State.plcBegin s n).time.ns = s.time.ns := by
  rw [State.plcBegin]; simp only [↓State.beacon_keeps, ↓State.evalMode_keeps, ↓State.make_keeps, ↓State.modPlc_keeps, ↓State.set_keeps, ↓State.setFlag_keeps, and_self, ↓ite_keeps, ite_self, ↓State.modBond_keeps, ↓State.modTime_keeps]

theorem execPlcCycleStart_keeps (seg : Nat) (s : State) :
    ∀ s', (execPlcCycleStart seg s) = .next s' → s'.pending = s.pending ∧ s'.bond.lifecycle = s.bond.lifecycle ∧ s'.time.ns = s.time.ns := by
  rw [execPlcCycleStart.eq_def]; repeat' (first | with_reducible exact out_keeps ⟨rfl, rfl, rfl⟩ | with_reducible refine out_keeps ?_ | with_reducible refine out_both ?_ ?_ | (solve | simp only [↓State.modPlc_keeps, ↓State.plcBegin_keeps, ↓State.raise_keeps, ↓State.setFlag_keeps, and_self]) | split)

theorem State.plcAfter_keeps (s : State) (n : Nat) :
    (State.plcAfter s n).pending = s.pending ∧ (State.plcAfter s n).bond.lifecycle = s.bond.lifecycle ∧ (State.plcAfter s n).time.ns = s.time.ns := by
  rw [State.plcAfter]; simp only [↓State.plcBegin_keeps, and_self, ↓ite_keeps, ite_self, ↓State.modBond_keeps, ↓State.modTime_keeps]

theorem State.plcIssue_keeps (s : State) (n p : Nat) :
    (State.plcIssue s n p).pending = s.pending ∧ (State.plcIssue s n p).bond.lifecycle = s.bond.lifecycle ∧ (State.plcIssue s n p).time.ns = s.time.ns := by
  rw [State.plcIssue.eq_def]; repeat' (first | (solve | simp only [↓State.make_keeps, and_self, ↓ite_keeps, ite_self, ↓State.modBond_keeps, ↓State.modTime_keeps]) | with_reducible exact ⟨rfl, rfl, rfl⟩ | split)

theorem State.pollFrame_keeps (s : State) (n p : Nat) (d : PlcNode) :
    (State.pollFrame s n p d).pending = s.pending ∧ (State.pollFrame s n p d).bond.lifecycle = s.bond.lifecycle ∧ (State.pollFrame s n p d).time.ns = s.time.ns := by
  with_reducible exact ⟨rfl, rfl, rfl⟩

theorem State.soundFrame_keeps (s : State) (n p : Nat) (d : PlcNode) :
    (State.soundFrame s n p d).pending = s.pending ∧ (State.soundFrame s n p d).bond.lifecycle = s.bond.lifecycle ∧ (State.soundFrame s n p d).time.ns = s.time.ns := by
  rw [State.soundFrame]; simp only [↓State.modPlc_keeps, ↓State.plcSend_keeps, and_self, ↓ite_keeps, ite_self, ↓State.modBond_keeps, ↓State.modTime_keeps]

theorem execPlcPollExchange_keeps (seg : Nat) (s : State) :
    ∀ s', (execPlcPollExchange seg s) = .next s' → s'.pending = s.pending ∧ s'.bond.lifecycle = s.bond.lifecycle ∧ s'.time.ns = s.time.ns := by
  rw [execPlcPollExchange.eq_def]; try dsimp only
  repeat' (first | with_reducible exact out_keeps ⟨rfl, rfl, rfl⟩ | with_reducible refine out_keeps ?_ | with_reducible refine out_both ?_ ?_ | (solve | simp only [↓State.plcAfter_keeps, ↓State.plcIssue_keeps, ↓State.plcLoad_keeps, ↓State.pollFrame_keeps, ↓State.soundFrame_keeps, and_self, ↓ite_keeps, ite_self, ↓State.modBond_keeps, ↓State.modTime_keeps]) | with_reducible exact ⟨rfl, rfl, rfl⟩ | split | intro _)

theorem State.linkAttempt_keeps (s : State) (n p : Nat) (ok : Bool) :
    (State.linkAttempt s n p ok).pending = s.pending ∧ (State.linkAttempt s n p ok).bond.lifecycle = s.bond.lifecycle ∧ (State.linkAttempt s n p ok).time.ns = s.time.ns := by
  first | rw [State.linkAttempt] | rw [State.linkAttempt.eq_def]
  try dsimp only
  repeat' (first | (simp only [↓State.modNode_keeps, and_self, ↓ite_fst, ↓ite_keeps, ↓State.modBond_keeps, ↓State.modTime_keeps, ↓foldl_pending, ↓foldl_life, ↓foldl_ns, ↓foldl_fst_pending, ↓foldl_fst_life, ↓foldl_fst_ns, ite_self, implies_true]; done) | with_reducible exact ⟨rfl, rfl, rfl⟩ | (grind only [State.modNode_keeps, ite_keeps, State.modBond_keeps, State.modTime_keeps]; done) | refine ⟨((foldl_pending _ _ _ ?_).trans ?_), ((foldl_life _ _ _ ?_).trans ?_), ((foldl_ns _ _ _ ?_).trans ?_)⟩ | refine ⟨((foldl_fst_pending _ _ _ ?_).trans ?_), ((foldl_fst_life _ _ _ ?_).trans ?_), ((foldl_fst_ns _ _ _ ?_).trans ?_)⟩ | refine ((foldl_pending _ _ _ ?_).trans ?_) | refine ((foldl_life _ _ _ ?_).trans ?_) | refine ((foldl_ns _ _ _ ?_).trans ?_) | refine ((foldl_fst_pending _ _ _ ?_).trans ?_) | refine ((foldl_fst_life _ _ _ ?_).trans ?_) | refine ((foldl_fst_ns _ _ _ ?_).trans ?_) | split | intro _ | simp only [↓State.modNode_keeps, and_self, ↓ite_fst, ↓ite_keeps, ↓State.modBond_keeps, ↓State.modTime_keeps, ↓foldl_pending, ↓foldl_life, ↓foldl_ns, ↓foldl_fst_pending, ↓foldl_fst_life, ↓foldl_fst_ns, ite_self, implies_true])

theorem State.plcAttempt_keeps (s : State) (n : Nat) (e : Exchange) (reply ok : Bool) :
    (State.plcAttempt s n e reply ok).pending = s.pending ∧ (State.plcAttempt s n e reply ok).bond.lifecycle = s.bond.lifecycle ∧ (State.plcAttempt s n e reply ok).time.ns = s.time.ns := by
  first | rw [State.plcAttempt] | rw [State.plcAttempt.eq_def]
  try dsimp only
  repeat' (first | (simp only [↓State.linkAttempt_keeps, ↓State.modNode_keeps, and_self, ↓ite_fst, ↓ite_keeps, ↓State.modBond_keeps, ↓State.modTime_keeps, ↓foldl_pending, ↓foldl_life, ↓foldl_ns, ↓foldl_fst_pending, ↓foldl_fst_life, ↓foldl_fst_ns, ite_self, implies_true]; done) | with_reducible exact ⟨rfl, rfl, rfl⟩ | (grind only [State.linkAttempt_keeps, State.modNode_keeps, ite_keeps, State.modBond_keeps, State.modTime_keeps]; done) | refine ⟨((foldl_pending _ _ _ ?_).trans ?_), ((foldl_life _ _ _ ?_).trans ?_), ((foldl_ns _ _ _ ?_).trans ?_)⟩ | refine ⟨((foldl_fst_pending _ _ _ ?_).trans ?_), ((foldl_fst_life _ _ _ ?_).trans ?_), ((foldl_fst_ns _ _ _ ?_).trans ?_)⟩ | refine ((foldl_pending _ _ _ ?_).trans ?_) | refine ((foldl_life _ _ _ ?_).trans ?_) | refine ((foldl_ns _ _ _ ?_).trans ?_) | refine ((foldl_fst_pending _ _ _ ?_).trans ?_) | refine ((foldl_fst_life _ _ _ ?_).trans ?_) | refine ((foldl_fst_ns _ _ _ ?_).trans ?_) | split | intro _ | simp only [↓State.linkAttempt_keeps, ↓State.modNode_keeps, and_self, ↓ite_fst, ↓ite_keeps, ↓State.modBond_keeps, ↓State.modTime_keeps, ↓foldl_pending, ↓foldl_life, ↓foldl_ns, ↓foldl_fst_pending, ↓foldl_fst_life, ↓foldl_fst_ns, ite_self, implies_true])

theorem State.plcUndelivered_keeps (s : State) (n p : Nat) :
    (State.plcUndelivered s n p).pending = s.pending ∧ (State.plcUndelivered s n p).bond.lifecycle = s.bond.lifecycle ∧ (State.plcUndelivered s n p).time.ns = s.time.ns := by
  rw [State.plcUndelivered.eq_def]; repeat' (first | (solve | simp only [↓State.modNode_keeps, ↓State.plcDrop_keeps, and_self, ↓ite_fst, ↓ite_keeps, ↓State.modBond_keeps, ↓State.modTime_keeps, ↓foldl_pending, ↓foldl_life, ↓foldl_ns, ↓foldl_fst_pending, ↓foldl_fst_life, ↓foldl_fst_ns, ite_self, implies_true]) | with_reducible exact ⟨rfl, rfl, rfl⟩ | split)

theorem State.plcEnd_keeps (s : State) (n p : Nat) :
    (State.plcEnd s n p).pending = s.pending ∧ (State.plcEnd s n p).bond.lifecycle = s.bond.lifecycle ∧ (State.plcEnd s n p).time.ns = s.time.ns := by
  rw [State.plcEnd]; simp only [↓State.modPlc_keeps, ↓State.plcAfter_keeps, ↓State.plcUndelivered_keeps, and_self]

theorem State.plcTake_keeps (s : State) (n p : Nat) (d : PlcNode) (items : List (Nat × Bytes)) :
    (State.plcTake s n p d items).pending = s.pending ∧ (State.plcTake s n p d items).bond.lifecycle = s.bond.lifecycle ∧ (State.plcTake s n p d items).time.ns = s.time.ns := by
  rw [State.plcTake.eq_def]; try dsimp only
  repeat' (first | (solve | simp only [↓State.arrive_keeps, ↓State.modNode_keeps, and_self, ↓ite_fst, ↓ite_keeps, ↓State.modBond_keeps, ↓State.modTime_keeps, ↓foldl_pending, ↓foldl_life, ↓foldl_ns, ↓foldl_fst_pending, ↓foldl_fst_life, ↓foldl_fst_ns, ite_self, implies_true]) | with_reducible exact ⟨rfl, rfl, rfl⟩ | refine ⟨foldl_pending _ _ _ ?_, foldl_life _ _ _ ?_, foldl_ns _ _ _ ?_⟩ | split | intro _)

theorem State.plcListen_keeps (s : State) (n : Nat) (h : PlcHeard) :
    (State.plcListen s n h).pending = s.pending ∧ (State.plcListen s n h).bond.lifecycle = s.bond.lifecycle ∧ (State.plcListen s n h).time.ns = s.time.ns := by
  first | rw [State.plcListen] | rw [State.plcListen.eq_def]
  try dsimp only
  repeat' (first | (simp only [↓State.count_keeps, ↓State.modPlc_keeps, and_self, ↓ite_fst, ↓ite_keeps, ↓State.modBond_keeps, ↓State.modTime_keeps, ↓foldl_pending, ↓foldl_life, ↓foldl_ns, ↓foldl_fst_pending, ↓foldl_fst_life, ↓foldl_fst_ns, ite_self, implies_true]; done) | with_reducible exact ⟨rfl, rfl, rfl⟩ | (grind only [State.count_keeps, State.modPlc_keeps, ite_keeps, State.modBond_keeps, State.modTime_keeps]; done) | refine ⟨((foldl_pending _ _ _ ?_).trans ?_), ((foldl_life _ _ _ ?_).trans ?_), ((foldl_ns _ _ _ ?_).trans ?_)⟩ | refine ⟨((foldl_fst_pending _ _ _ ?_).trans ?_), ((foldl_fst_life _ _ _ ?_).trans ?_), ((foldl_fst_ns _ _ _ ?_).trans ?_)⟩ | refine ((foldl_pending _ _ _ ?_).trans ?_) | refine ((foldl_life _ _ _ ?_).trans ?_) | refine ((foldl_ns _ _ _ ?_).trans ?_) | refine ((foldl_fst_pending _ _ _ ?_).trans ?_) | refine ((foldl_fst_life _ _ _ ?_).trans ?_) | refine ((foldl_fst_ns _ _ _ ?_).trans ?_) | split | intro _ | simp only [↓State.count_keeps, ↓State.modPlc_keeps, and_self, ↓ite_fst, ↓ite_keeps, ↓State.modBond_keeps, ↓State.modTime_keeps, ↓foldl_pending, ↓foldl_life, ↓foldl_ns, ↓foldl_fst_pending, ↓foldl_fst_life, ↓foldl_fst_ns, ite_self, implies_true])

theorem State.plcObserve_keeps (s : State) (n p : Nat) (h : PlcHeard) (decoded : Bool) :
    (State.plcObserve s n p h decoded).pending = s.pending ∧ (State.plcObserve s n p h decoded).bond.lifecycle = s.bond.lifecycle ∧ (State.plcObserve s n p h decoded).time.ns = s.time.ns := by
  with_reducible exact ⟨rfl, rfl, rfl⟩

theorem State.plcFailed_keeps (s : State) (n pos link : Nat) (h : PlcHeard) :
    (State.plcFailed s n pos link h).pending = s.pending ∧ (State.plcFailed s n pos link h).bond.lifecycle = s.bond.lifecycle ∧ (State.plcFailed s n pos link h).time.ns = s.time.ns := by
  first | rw [State.plcFailed] | rw [State.plcFailed.eq_def]
  try dsimp only
  repeat' (first | (simp only [↓State.count_keeps, ↓State.modNode_keeps, ↓State.modPlc_keeps, ↓State.plcObserve_keeps, and_self, ↓ite_fst, ↓ite_keeps, ↓State.modBond_keeps, ↓State.modTime_keeps, ↓foldl_pending, ↓foldl_life, ↓foldl_ns, ↓foldl_fst_pending, ↓foldl_fst_life, ↓foldl_fst_ns, ite_self, implies_true]; done) | with_reducible exact ⟨rfl, rfl, rfl⟩ | (grind only [State.count_keeps, State.modNode_keeps, State.modPlc_keeps, State.plcObserve_keeps, ite_keeps, State.modBond_keeps, State.modTime_keeps]; done) | refine ⟨((foldl_pending _ _ _ ?_).trans ?_), ((foldl_life _ _ _ ?_).trans ?_), ((foldl_ns _ _ _ ?_).trans ?_)⟩ | refine ⟨((foldl_fst_pending _ _ _ ?_).trans ?_), ((foldl_fst_life _ _ _ ?_).trans ?_), ((foldl_fst_ns _ _ _ ?_).trans ?_)⟩ | refine ((foldl_pending _ _ _ ?_).trans ?_) | refine ((foldl_life _ _ _ ?_).trans ?_) | refine ((foldl_ns _ _ _ ?_).trans ?_) | refine ((foldl_fst_pending _ _ _ ?_).trans ?_) | refine ((foldl_fst_life _ _ _ ?_).trans ?_) | refine ((foldl_fst_ns _ _ _ ?_).trans ?_) | split | intro _ | simp only [↓State.count_keeps, ↓State.modNode_keeps, ↓State.modPlc_keeps, ↓State.plcObserve_keeps, and_self, ↓ite_fst, ↓ite_keeps, ↓State.modBond_keeps, ↓State.modTime_keeps, ↓foldl_pending, ↓foldl_life, ↓foldl_ns, ↓foldl_fst_pending, ↓foldl_fst_life, ↓foldl_fst_ns, ite_self, implies_true])

theorem State.plcAck_keeps (s : State) (n addr : Nat) (h : PlcHeard) :
    (State.plcAck s n addr h).pending = s.pending ∧ (State.plcAck s n addr h).bond.lifecycle = s.bond.lifecycle ∧ (State.plcAck s n addr h).time.ns = s.time.ns := by
  first | rw [State.plcAck] | rw [State.plcAck.eq_def]
  try dsimp only
  repeat' (first | (simp only [↓State.modNode_keeps, ↓State.plcSend_keeps, and_self, ↓ite_fst, ↓ite_keeps, ↓State.modBond_keeps, ↓State.modTime_keeps, ↓foldl_pending, ↓foldl_life, ↓foldl_ns, ↓foldl_fst_pending, ↓foldl_fst_life, ↓foldl_fst_ns, ite_self, implies_true]; done) | with_reducible exact ⟨rfl, rfl, rfl⟩ | (grind only [State.modNode_keeps, State.plcSend_keeps, ite_keeps, State.modBond_keeps, State.modTime_keeps]; done) | refine ⟨((foldl_pending _ _ _ ?_).trans ?_), ((foldl_life _ _ _ ?_).trans ?_), ((foldl_ns _ _ _ ?_).trans ?_)⟩ | refine ⟨((foldl_fst_pending _ _ _ ?_).trans ?_), ((foldl_fst_life _ _ _ ?_).trans ?_), ((foldl_fst_ns _ _ _ ?_).trans ?_)⟩ | refine ((foldl_pending _ _ _ ?_).trans ?_) | refine ((foldl_life _ _ _ ?_).trans ?_) | refine ((foldl_ns _ _ _ ?_).trans ?_) | refine ((foldl_fst_pending _ _ _ ?_).trans ?_) | refine ((foldl_fst_life _ _ _ ?_).trans ?_) | refine ((foldl_fst_ns _ _ _ ?_).trans ?_) | split | intro _ | simp only [↓State.modNode_keeps, ↓State.plcSend_keeps, and_self, ↓ite_fst, ↓ite_keeps, ↓State.modBond_keeps, ↓State.modTime_keeps, ↓foldl_pending, ↓foldl_life, ↓foldl_ns, ↓foldl_fst_pending, ↓foldl_fst_life, ↓foldl_fst_ns, ite_self, implies_true])

theorem State.plcTakeUp_keeps (s : State) (n : Nat) (e : Exchange) (h : PlcHeard) (body : Bytes) :
    (State.plcTakeUp s n e h body).pending = s.pending ∧ (State.plcTakeUp s n e h body).bond.lifecycle = s.bond.lifecycle ∧ (State.plcTakeUp s n e h body).time.ns = s.time.ns := by
  first | rw [State.plcTakeUp] | rw [State.plcTakeUp.eq_def]
  try dsimp only
  repeat' (first | (simp only [↓State.count_keeps, ↓State.modNode_keeps, ↓State.plcAck_keeps, ↓State.plcAttempt_keeps, ↓State.plcEnd_keeps, ↓State.plcObserve_keeps, ↓State.plcTake_keeps, and_self, ↓ite_fst, ↓ite_keeps, ↓State.modBond_keeps, ↓State.modTime_keeps, ↓foldl_pending, ↓foldl_life, ↓foldl_ns, ↓foldl_fst_pending, ↓foldl_fst_life, ↓foldl_fst_ns, ite_self, implies_true]; done) | with_reducible exact ⟨rfl, rfl, rfl⟩ | (grind only [State.count_keeps, State.modNode_keeps, State.plcAck_keeps, State.plcAttempt_keeps, State.plcEnd_keeps, State.plcObserve_keeps, State.plcTake_keeps, ite_keeps, State.modBond_keeps, State.modTime_keeps]; done) | refine ⟨((foldl_pending _ _ _ ?_).trans ?_), ((foldl_life _ _ _ ?_).trans ?_), ((foldl_ns _ _ _ ?_).trans ?_)⟩ | refine ⟨((foldl_fst_pending _ _ _ ?_).trans ?_), ((foldl_fst_life _ _ _ ?_).trans ?_), ((foldl_fst_ns _ _ _ ?_).trans ?_)⟩ | refine ((foldl_pending _ _ _ ?_).trans ?_) | refine ((foldl_life _ _ _ ?_).trans ?_) | refine ((foldl_ns _ _ _ ?_).trans ?_) | refine ((foldl_fst_pending _ _ _ ?_).trans ?_) | refine ((foldl_fst_life _ _ _ ?_).trans ?_) | refine ((foldl_fst_ns _ _ _ ?_).trans ?_) | split | intro _ | simp only [↓State.count_keeps, ↓State.modNode_keeps, ↓State.plcAck_keeps, ↓State.plcAttempt_keeps, ↓State.plcEnd_keeps, ↓State.plcObserve_keeps, ↓State.plcTake_keeps, and_self, ↓ite_fst, ↓ite_keeps, ↓State.modBond_keeps, ↓State.modTime_keeps, ↓foldl_pending, ↓foldl_life, ↓foldl_ns, ↓foldl_fst_pending, ↓foldl_fst_life, ↓foldl_fst_ns, ite_self, implies_true])

theorem State.plcReply_keeps (s : State) (n : Nat) (e : Exchange) (h : PlcHeard) :
    (State.plcReply s n e h).pending = s.pending ∧ (State.plcReply s n e h).bond.lifecycle = s.bond.lifecycle ∧ (State.plcReply s n e h).time.ns = s.time.ns := by
  first | rw [State.plcReply] | rw [State.plcReply.eq_def]
  try dsimp only
  repeat' (first | (simp only [↓State.modNode_keeps, ↓State.plcAttempt_keeps, ↓State.plcEnd_keeps, ↓State.plcFailed_keeps, ↓State.plcObserve_keeps, ↓State.plcTakeUp_keeps, and_self, ↓ite_fst, ↓ite_keeps, ↓State.modBond_keeps, ↓State.modTime_keeps, ↓foldl_pending, ↓foldl_life, ↓foldl_ns, ↓foldl_fst_pending, ↓foldl_fst_life, ↓foldl_fst_ns, ite_self, implies_true]; done) | with_reducible exact ⟨rfl, rfl, rfl⟩ | (grind only [State.modNode_keeps, State.plcAttempt_keeps, State.plcEnd_keeps, State.plcFailed_keeps, State.plcObserve_keeps, State.plcTakeUp_keeps, ite_keeps, State.modBond_keeps, State.modTime_keeps]; done) | refine ⟨((foldl_pending _ _ _ ?_).trans ?_), ((foldl_life _ _ _ ?_).trans ?_), ((foldl_ns _ _ _ ?_).trans ?_)⟩ | refine ⟨((foldl_fst_pending _ _ _ ?_).trans ?_), ((foldl_fst_life _ _ _ ?_).trans ?_), ((foldl_fst_ns _ _ _ ?_).trans ?_)⟩ | refine ((foldl_pending _ _ _ ?_).trans ?_) | refine ((foldl_life _ _ _ ?_).trans ?_) | refine ((foldl_ns _ _ _ ?_).trans ?_) | refine ((foldl_fst_pending _ _ _ ?_).trans ?_) | refine ((foldl_fst_life _ _ _ ?_).trans ?_) | refine ((foldl_fst_ns _ _ _ ?_).trans ?_) | split | intro _ | simp only [↓State.modNode_keeps, ↓State.plcAttempt_keeps, ↓State.plcEnd_keeps, ↓State.plcFailed_keeps, ↓State.plcObserve_keeps, ↓State.plcTakeUp_keeps, and_self, ↓ite_fst, ↓ite_keeps, ↓State.modBond_keeps, ↓State.modTime_keeps, ↓foldl_pending, ↓foldl_life, ↓foldl_ns, ↓foldl_fst_pending, ↓foldl_fst_life, ↓foldl_fst_ns, ite_self, implies_true])

theorem State.onExch_keeps (s : State) (n : Nat) (f : Exchange → State) (hf : ∀ (a0 : Exchange), (f a0).pending = s.pending ∧ (f a0).bond.lifecycle = s.bond.lifecycle ∧ (f a0).time.ns = s.time.ns) :
    ∀ s', (State.onExch s n f) = .next s' → s'.pending = s.pending ∧ s'.bond.lifecycle = s.bond.lifecycle ∧ s'.time.ns = s.time.ns := by
  rw [State.onExch.eq_def]; try dsimp only
  repeat' (first | with_reducible exact out_keeps ⟨rfl, rfl, rfl⟩ | with_reducible refine out_keeps ?_ | with_reducible refine out_both ?_ ?_ | (solve | simp only [↓State.modPlc_keeps, and_self, ↓ite_keeps, ite_self, ↓State.modBond_keeps, ↓State.modTime_keeps]) | with_reducible exact ⟨rfl, rfl, rfl⟩ | exact hf _ | (focus have hk := hf; simp only [↓hk, ↓State.modPlc_keeps, and_self, ↓ite_keeps, ite_self, ↓State.modBond_keeps, ↓State.modTime_keeps]; done) | split | intro _)

theorem execPlcReplyReceived_keeps (seg : Nat) (rx : PlcRx) (s : State) :
    ∀ s', (execPlcReplyReceived seg rx s) = .next s' → s'.pending = s.pending ∧ s'.bond.lifecycle = s.bond.lifecycle ∧ s'.time.ns = s.time.ns := by
  rw [execPlcReplyReceived]
  have hl := State.plcListen_keeps s seg (s.plcHear seg rx)
  generalize s.plcListen seg (s.plcHear seg rx) = u at hl ⊢
  intro s' h
  exact K3.trans (State.onExch_keeps u seg _ (fun _ => State.plcReply_keeps ..) s' h) hl

theorem execPlcNullUpReceived_keeps (seg : Nat) (rx : PlcRx) (s : State) :
    ∀ s', (execPlcNullUpReceived seg rx s) = .next s' → s'.pending = s.pending ∧ s'.bond.lifecycle = s.bond.lifecycle ∧ s'.time.ns = s.time.ns := by
  rw [execPlcNullUpReceived]
  have hl := State.plcListen_keeps s seg (s.plcHear seg rx)
  generalize s.plcListen seg (s.plcHear seg rx) = u at hl ⊢
  intro s' h
  refine K3.trans (State.onExch_keeps u seg _ (fun e => ?_) s' h) hl
  split
  · exact ⟨rfl, rfl, rfl⟩
  · split
    · exact ⟨rfl, rfl, rfl⟩
    · exact K3.trans (State.plcEnd_keeps ..) (K3.trans (State.plcAttempt_keeps ..) (State.plcObserve_keeps ..))

theorem execPlcReplyMissing_keeps (seg : Nat) (s : State) :
    ∀ s', (execPlcReplyMissing seg s) = .next s' → s'.pending = s.pending ∧ s'.bond.lifecycle = s.bond.lifecycle ∧ s'.time.ns = s.time.ns := by
  rw [execPlcReplyMissing.eq_def]; try dsimp only
  repeat' (first | with_reducible exact out_keeps ⟨rfl, rfl, rfl⟩ | with_reducible refine out_keeps ?_ | with_reducible refine out_both ?_ ?_ | (solve | simp only [↓State.count_keeps, ↓State.plcAttempt_keeps, ↓State.plcEnd_keeps, and_self, ↓ite_keeps, ite_self, ↓State.modBond_keeps, ↓State.modTime_keeps]) | with_reducible exact ⟨rfl, rfl, rfl⟩ | refine State.onExch_keeps _ _ _ ?_ _ | split | intro _)

theorem State.contendItem_keeps (s : State) (n addr : Nat) (it : Nat × Bytes) :
    (State.contendItem s n addr it).pending = s.pending ∧ (State.contendItem s n addr it).bond.lifecycle = s.bond.lifecycle ∧ (State.contendItem s n addr it).time.ns = s.time.ns := by
  first | rw [State.contendItem] | rw [State.contendItem.eq_def]
  try dsimp only
  repeat' (first | (simp only [↓State.arrive_keeps, ↓State.modPlc_keeps, and_self, ↓ite_fst, ↓ite_keeps, ↓State.modBond_keeps, ↓State.modTime_keeps, ↓foldl_pending, ↓foldl_life, ↓foldl_ns, ↓foldl_fst_pending, ↓foldl_fst_life, ↓foldl_fst_ns, ite_self, implies_true]; done) | with_reducible exact ⟨rfl, rfl, rfl⟩ | (grind only [State.arrive_keeps, State.modPlc_keeps, ite_keeps, State.modBond_keeps, State.modTime_keeps]; done) | (have hk := State.arrive_eq _ _ _ _ _ _ (by assumption); simp only [↓hk, ↓State.arrive_keeps, ↓State.modPlc_keeps, and_self, ↓ite_fst, ↓ite_keeps, ↓State.modBond_keeps, ↓State.modTime_keeps, ↓foldl_pending, ↓foldl_life, ↓foldl_ns, ↓foldl_fst_pending, ↓foldl_fst_life, ↓foldl_fst_ns, ite_self, implies_true]; done) | (have hk := State.arrive_eq _ _ _ _ _ _ (by assumption); simp only [↓hk, ↓State.arrive_keeps, ↓State.modPlc_keeps, and_self, ↓ite_fst, ↓ite_keeps, ↓State.modBond_keeps, ↓State.modTime_keeps, ↓foldl_pending, ↓foldl_life, ↓foldl_ns, ↓foldl_fst_pending, ↓foldl_fst_life, ↓foldl_fst_ns, ite_self, implies_true]) | refine ⟨((foldl_pending _ _ _ ?_).trans ?_), ((foldl_life _ _ _ ?_).trans ?_), ((foldl_ns _ _ _ ?_).trans ?_)⟩ | refine ⟨((foldl_fst_pending _ _ _ ?_).trans ?_), ((foldl_fst_life _ _ _ ?_).trans ?_), ((foldl_fst_ns _ _ _ ?_).trans ?_)⟩ | refine ((foldl_pending _ _ _ ?_).trans ?_) | refine ((foldl_life _ _ _ ?_).trans ?_) | refine ((foldl_ns _ _ _ ?_).trans ?_) | refine ((foldl_fst_pending _ _ _ ?_).trans ?_) | refine ((foldl_fst_life _ _ _ ?_).trans ?_) | refine ((foldl_fst_ns _ _ _ ?_).trans ?_) | split | intro _ | simp only [↓State.arrive_keeps, ↓State.modPlc_keeps, and_self, ↓ite_fst, ↓ite_keeps, ↓State.modBond_keeps, ↓State.modTime_keeps, ↓foldl_pending, ↓foldl_life, ↓foldl_ns, ↓foldl_fst_pending, ↓foldl_fst_life, ↓foldl_fst_ns, ite_self, implies_true])

theorem execPlcContendReceived_keeps (seg : Nat) (sig : PlcSig) (fc : Nat) (llr : List Int) (s : State) :
    ∀ s', (execPlcContendReceived seg sig fc llr s) = .next s' → s'.pending = s.pending ∧ s'.bond.lifecycle = s.bond.lifecycle ∧ s'.time.ns = s.time.ns := by
  intro s'; first | rw [execPlcContendReceived] | rw [execPlcContendReceived.eq_def]
  try dsimp only
  repeat' (first | (simp only [↓State.contendItem_keeps, ↓State.count_keeps, ↓State.linkAttempt_keeps, ↓State.plcAck_keeps, ↓State.plcFailed_keeps, ↓State.plcListen_keeps, ↓State.plcObserve_keeps, and_self, ↓ite_fst, ↓ite_keeps, ↓State.modBond_keeps, ↓State.modTime_keeps, ↓foldl_pending, ↓foldl_life, ↓foldl_ns, ↓foldl_fst_pending, ↓foldl_fst_life, ↓foldl_fst_ns, ite_self, implies_true]; done) | with_reducible exact ⟨rfl, rfl, rfl⟩ | (grind only [State.contendItem_keeps, State.count_keeps, State.linkAttempt_keeps, State.plcAck_keeps, State.plcFailed_keeps, State.plcListen_keeps, State.plcObserve_keeps, ite_keeps, State.modBond_keeps, State.modTime_keeps]; done) | (with_reducible refine out_next (P := fun s' => s'.pending = s.pending ∧ s'.bond.lifecycle = s.bond.lifecycle ∧ s'.time.ns = s.time.ns) ?_) | with_reducible refine out_ite ?_ ?_ | refine ⟨((foldl_pending _ _ _ ?_).trans ?_), ((foldl_life _ _ _ ?_).trans ?_), ((foldl_ns _ _ _ ?_).trans ?_)⟩ | refine ⟨((foldl_fst_pending _ _ _ ?_).trans ?_), ((foldl_fst_life _ _ _ ?_).trans ?_), ((foldl_fst_ns _ _ _ ?_).trans ?_)⟩ | refine ((foldl_pending _ _ _ ?_).trans ?_) | refine ((foldl_life _ _ _ ?_).trans ?_) | refine ((foldl_ns _ _ _ ?_).trans ?_) | refine ((foldl_fst_pending _ _ _ ?_).trans ?_) | refine ((foldl_fst_life _ _ _ ?_).trans ?_) | refine ((foldl_fst_ns _ _ _ ?_).trans ?_) | split | intro _ | simp only [↓State.contendItem_keeps, ↓State.count_keeps, ↓State.linkAttempt_keeps, ↓State.plcAck_keeps, ↓State.plcFailed_keeps, ↓State.plcListen_keeps, ↓State.plcObserve_keeps, and_self, ↓ite_fst, ↓ite_keeps, ↓State.modBond_keeps, ↓State.modTime_keeps, ↓foldl_pending, ↓foldl_life, ↓foldl_ns, ↓foldl_fst_pending, ↓foldl_fst_life, ↓foldl_fst_ns, ite_self, implies_true])

theorem execPlcContentionWindow_keeps (seg : Nat) (opens : Bool) (s : State) :
    ∀ s', (execPlcContentionWindow seg opens s) = .next s' → s'.pending = s.pending ∧ s'.bond.lifecycle = s.bond.lifecycle ∧ s'.time.ns = s.time.ns := by
  rw [execPlcContentionWindow.eq_def]; repeat' (first | with_reducible exact out_keeps ⟨rfl, rfl, rfl⟩ | with_reducible refine out_keeps ?_ | with_reducible refine out_both ?_ ?_ | (solve | simp only [↓State.modPlc_keeps, and_self]) | split)

theorem execZeroCrossing_keeps (phase t : Nat) (s : State) :
    ∀ s', (execZeroCrossing phase t s) = .next s' → s'.pending = s.pending ∧ s'.bond.lifecycle = s.bond.lifecycle ∧ s'.time.ns = s.time.ns := by
  rw [execZeroCrossing.eq_def]; repeat' (first | with_reducible exact out_keeps ⟨rfl, rfl, rfl⟩ | with_reducible refine out_keeps ?_ | with_reducible refine out_both ?_ ?_ | (solve | simp only [↓State.modPlc_keeps, ↓State.setFlag_keeps, and_self, ↓ite_fst, ↓ite_keeps, ↓State.modBond_keeps, ↓State.modTime_keeps, ↓foldl_pending, ↓foldl_life, ↓foldl_ns, ↓foldl_fst_pending, ↓foldl_fst_life, ↓foldl_fst_ns, ite_self, implies_true]) | split)

theorem execPlcZcLost_keeps (seg : Nat) (s : State) :
    ∀ s', (execPlcZcLost seg s) = .next s' → s'.pending = s.pending ∧ s'.bond.lifecycle = s.bond.lifecycle ∧ s'.time.ns = s.time.ns := by
  rw [execPlcZcLost.eq_def]; repeat' (first | with_reducible exact out_keeps ⟨rfl, rfl, rfl⟩ | with_reducible refine out_keeps ?_ | with_reducible refine out_both ?_ ?_ | (solve | simp only [↓State.event_keeps, ↓State.raise_keeps, ↓State.setFlag_keeps, and_self]) | split)

theorem execPlcLinkDown_keeps (link : PlcLink) (s : State) :
    ∀ s', (execPlcLinkDown link s) = .next s' → s'.pending = s.pending ∧ s'.bond.lifecycle = s.bond.lifecycle ∧ s'.time.ns = s.time.ns := by
  rw [execPlcLinkDown.eq_def]; repeat' (first | with_reducible exact out_keeps ⟨rfl, rfl, rfl⟩ | with_reducible refine out_keeps ?_ | with_reducible refine out_both ?_ ?_ | (solve | simp only [↓State.event_keeps, ↓State.modPlc_keeps, ↓State.plcUndelivered_keeps, ↓State.raise_keeps, ↓State.setFlag_keeps, and_self]) | split)

theorem execPlcLinkRetry_keeps (seg : Nat) (up : Bool) (s : State) :
    ∀ s', (execPlcLinkRetry seg up s) = .next s' → s'.pending = s.pending ∧ s'.bond.lifecycle = s.bond.lifecycle ∧ s'.time.ns = s.time.ns := by
  rw [execPlcLinkRetry.eq_def]; repeat' (first | with_reducible exact out_keeps ⟨rfl, rfl, rfl⟩ | with_reducible refine out_keeps ?_ | with_reducible refine out_both ?_ ?_ | (solve | simp only [↓State.setFlag_keeps, and_self]) | split)

theorem execPlcEntryRead_keeps (seg : Nat) (val : Word) (s : State) :
    ∀ s', (execPlcEntryRead seg val s) = .next s' → s'.pending = s.pending ∧ s'.bond.lifecycle = s.bond.lifecycle ∧ s'.time.ns = s.time.ns := by
  rw [execPlcEntryRead.eq_def]; repeat' (first | with_reducible exact out_keeps ⟨rfl, rfl, rfl⟩ | with_reducible refine out_keeps ?_ | with_reducible refine out_both ?_ ?_ | (solve | simp only [↓State.set_keeps, and_self]) | split)

theorem execPlcEntrySet_keeps (seg : Nat) (val : Word) (s : State) :
    ∀ s', (execPlcEntrySet seg val s) = .next s' → s'.pending = s.pending ∧ s'.bond.lifecycle = s.bond.lifecycle ∧ s'.time.ns = s.time.ns := by
  rw [execPlcEntrySet.eq_def]; repeat' (first | with_reducible exact out_keeps ⟨rfl, rfl, rfl⟩ | with_reducible refine out_keeps ?_ | with_reducible refine out_both ?_ ?_ | (solve | simp only [↓State.modNode_keeps, ↓State.set_keeps, and_self]) | split)

theorem execPlcSoundNow_keeps (seg : Nat) (s : State) :
    ∀ s', (execPlcSoundNow seg s) = .next s' → s'.pending = s.pending ∧ s'.bond.lifecycle = s.bond.lifecycle ∧ s'.time.ns = s.time.ns := by
  rw [execPlcSoundNow.eq_def]; repeat' (first | with_reducible exact out_keeps ⟨rfl, rfl, rfl⟩ | with_reducible refine out_keeps ?_ | with_reducible refine out_both ?_ ?_ | (solve | simp only [↓State.modPlc_keeps, and_self]) | split)

end Sys2Proof.Machine
end

