-- ==== Sys2Proof/Laws/KeepRadio.lean ====
section
/-!
SUPPORT. What the operations of Machine/Radio.lean leave alone: the queue, the life cycle and the timebase.
-/
set_option linter.unusedSimpArgs false

namespace Sys2Proof.Machine

theorem State.charge_keeps (s : State) (b cls t : Nat) :
    (State.charge s b cls t).pending = s.pending ∧ (State.charge s b cls t).bond.lifecycle = s.bond.lifecycle ∧ (State.charge s b cls t).time.ns = s.time.ns := by
  with_reducible exact ⟨rfl, rfl, rfl⟩

theorem State.transmit_keeps (s : State) (n t air : Nat) (f : Nat → Nat → RadioTx) :
    (State.transmit s n t air f).pending = s.pending ∧ (State.transmit s n t air f).bond.lifecycle = s.bond.lifecycle ∧ (State.transmit s n t air f).time.ns = s.time.ns := by
  first | rw [State.transmit] | rw [State.transmit.eq_def]
  try dsimp only
  repeat' (first | (simp only [↓State.modPort_keeps, and_self, ↓ite_fst, ↓ite_keeps, ↓State.modBond_keeps, ↓State.modTime_keeps, ↓foldl_pending, ↓foldl_life, ↓foldl_ns, ↓foldl_fst_pending, ↓foldl_fst_life, ↓foldl_fst_ns, ite_self, implies_true]; done) | with_reducible exact ⟨rfl, rfl, rfl⟩ | (grind only [State.modPort_keeps, ite_keeps, State.modBond_keeps, State.modTime_keeps]; done) | refine ⟨((foldl_pending _ _ _ ?_).trans ?_), ((foldl_life _ _ _ ?_).trans ?_), ((foldl_ns _ _ _ ?_).trans ?_)⟩ | refine ⟨((foldl_fst_pending _ _ _ ?_).trans ?_), ((foldl_fst_life _ _ _ ?_).trans ?_), ((foldl_fst_ns _ _ _ ?_).trans ?_)⟩ | refine ((foldl_pending _ _ _ ?_).trans ?_) | refine ((foldl_life _ _ _ ?_).trans ?_) | refine ((foldl_ns _ _ _ ?_).trans ?_) | refine ((foldl_fst_pending _ _ _ ?_).trans ?_) | refine ((foldl_fst_life _ _ _ ?_).trans ?_) | refine ((foldl_fst_ns _ _ _ ?_).trans ?_) | split | intro _ | simp only [↓State.modPort_keeps, and_self, ↓ite_fst, ↓ite_keeps, ↓State.modBond_keeps, ↓State.modTime_keeps, ↓foldl_pending, ↓foldl_life, ↓foldl_ns, ↓foldl_fst_pending, ↓foldl_fst_life, ↓foldl_fst_ns, ite_self, implies_true])

theorem State.dutySend_keeps (s : State) (n : Nat) (band : Option Nat) (cls t : Nat) :
    (State.dutySend s n band cls t).1.pending = s.pending ∧ (State.dutySend s n band cls t).1.bond.lifecycle = s.bond.lifecycle ∧ (State.dutySend s n band cls t).1.time.ns = s.time.ns := by
  rw [State.dutySend.eq_def]; repeat' (first | (solve | simp only [↓State.charge_keeps, ↓State.count_keeps, ↓State.raise_keeps, and_self, ↓ite_keeps, ite_self, ↓State.modBond_keeps, ↓State.modTime_keeps]) | with_reducible exact ⟨rfl, rfl, rfl⟩ | split)

theorem State.dutySend_eq (s : State) (n : Nat) (band : Option Nat) (cls t : Nat) (s' : State) (x' : Bool) (he : (State.dutySend s n band cls t) = (s', x')) :
    s'.pending = s.pending ∧ s'.bond.lifecycle = s.bond.lifecycle ∧ s'.time.ns = s.time.ns := by
  have hk := State.dutySend_keeps s n band cls t; rw [he] at hk; exact hk

theorem State.preload_keeps (s : State) (b : Nat) :
    (State.preload s b).pending = s.pending ∧ (State.preload s b).bond.lifecycle = s.bond.lifecycle ∧ (State.preload s b).time.ns = s.time.ns := by
  rw [State.preload]; simp only [↓State.modRadio_keeps, ↓State.raise_keeps, and_self, ↓ite_fst, ↓ite_keeps, ↓State.modBond_keeps, ↓State.modTime_keeps, ↓foldl_pending, ↓foldl_life, ↓foldl_ns, ↓foldl_fst_pending, ↓foldl_fst_life, ↓foldl_fst_ns, ite_self, implies_true]

theorem State.checkDuty_keeps (s : State) :
    (State.checkDuty s).pending = s.pending ∧ (State.checkDuty s).bond.lifecycle = s.bond.lifecycle ∧ (State.checkDuty s).time.ns = s.time.ns := by
  rw [State.checkDuty]
  refine ⟨foldl_pending _ _ _ (fun s b => ?_), foldl_life _ _ _ (fun s b => ?_), foldl_ns _ _ _ (fun s b => ?_)⟩ <;>
    (split <;> (try split) <;> first | rfl | simp only [↓State.preload_keeps, and_self, ↓ite_fst, ↓ite_keeps, ↓State.modBond_keeps, ↓State.modTime_keeps, ↓foldl_pending, ↓foldl_life, ↓foldl_ns, ↓foldl_fst_pending, ↓foldl_fst_life, ↓foldl_fst_ns, ite_self, implies_true])

theorem State.addEntry_keeps (s : State) (n epx serial chan slot : Nat) (c : Sched) :
    (State.addEntry s n epx serial chan slot c).pending = s.pending ∧ (State.addEntry s n epx serial chan slot c).bond.lifecycle = s.bond.lifecycle ∧ (State.addEntry s n epx serial chan slot c).time.ns = s.time.ns := by
  with_reducible exact ⟨rfl, rfl, rfl⟩

theorem State.modEntry_keeps (s : State) (n epx chan slot : Nat) (f : RadioEntry → RadioEntry) :
    (State.modEntry s n epx chan slot f).pending = s.pending ∧ (State.modEntry s n epx chan slot f).bond.lifecycle = s.bond.lifecycle ∧ (State.modEntry s n epx chan slot f).time.ns = s.time.ns := by
  with_reducible exact ⟨rfl, rfl, rfl⟩

theorem State.linkEvent_keeps (s : State) (n ev : Nat) (e : RadioEntry) (extra : Bytes) :
    (State.linkEvent s n ev e extra).pending = s.pending ∧ (State.linkEvent s n ev e extra).bond.lifecycle = s.bond.lifecycle ∧ (State.linkEvent s n ev e extra).time.ns = s.time.ns := by
  rw [State.linkEvent]; simp only [↓State.make_keeps, and_self]

theorem State.radioDrop_keeps (s : State) (n epx : Nat) :
    (State.radioDrop s n epx).pending = s.pending ∧ (State.radioDrop s n epx).bond.lifecycle = s.bond.lifecycle ∧ (State.radioDrop s n epx).time.ns = s.time.ns := by
  rw [State.radioDrop]; simp only [↓State.count_keeps, ↓State.event_keeps, and_self]

theorem State.radioQueue_keeps (s : State) (n epx chan slot : Nat) (env : Bytes) (sched : Option Sched) :
    (State.radioQueue s n epx chan slot env sched).pending = s.pending ∧ (State.radioQueue s n epx chan slot env sched).bond.lifecycle = s.bond.lifecycle ∧ (State.radioQueue s n epx chan slot env sched).time.ns = s.time.ns := by
  rw [State.radioQueue.eq_def]; repeat' (first | (solve | simp only [↓State.count_keeps, ↓State.modEntry_keeps, ↓State.radioDrop_keeps, and_self, ↓ite_keeps, ite_self, ↓State.modBond_keeps, ↓State.modTime_keeps]) | with_reducible exact ⟨rfl, rfl, rfl⟩ | split)

theorem State.radioCommit_keeps (s : State) (n slot chan : Nat) (it : LinkItem) :
    (State.radioCommit s n slot chan it).pending = s.pending ∧ (State.radioCommit s n slot chan it).bond.lifecycle = s.bond.lifecycle ∧ (State.radioCommit s n slot chan it).time.ns = s.time.ns := by
  rw [State.radioCommit.eq_def]; repeat' (first | (solve | simp only [↓State.addEntry_keeps, ↓State.count_keeps, ↓State.create_keeps, ↓State.event_keeps, ↓State.modEntry_keeps, ↓State.modPort_keeps, ↓State.radioDrop_keeps, ↓State.radioQueue_keeps, and_self, ↓ite_fst, ↓ite_keeps, ↓State.modBond_keeps, ↓State.modTime_keeps, ↓foldl_pending, ↓foldl_life, ↓foldl_ns, ↓foldl_fst_pending, ↓foldl_fst_life, ↓foldl_fst_ns, ite_self, implies_true]) | with_reducible exact ⟨rfl, rfl, rfl⟩ | split)

theorem State.radioOff_keeps (s : State) (n : Nat) :
    (State.radioOff s n).pending = s.pending ∧ (State.radioOff s n).bond.lifecycle = s.bond.lifecycle ∧ (State.radioOff s n).time.ns = s.time.ns := by
  with_reducible exact ⟨rfl, rfl, rfl⟩

theorem execRadioSuperframeStart_keeps (port : Nat) (s : State) :
    ∀ s', (execRadioSuperframeStart port s) = .next s' → s'.pending = s.pending ∧ s'.bond.lifecycle = s.bond.lifecycle ∧ s'.time.ns = s.time.ns := by
  rw [execRadioSuperframeStart.eq_def]; repeat' (first | with_reducible exact out_keeps ⟨rfl, rfl, rfl⟩ | with_reducible refine out_keeps ?_ | with_reducible refine out_both ?_ ?_ | (solve | simp only [↓State.modPort_keeps, ↓State.raise_keeps, ↓State.set_keeps, and_self]) | split)

theorem State.beaconSend_keeps (s : State) (n c t : Nat) (body : Bytes) (call : Option RadioEntry) :
    (State.beaconSend s n c t body call).1.pending = s.pending ∧ (State.beaconSend s n c t body call).1.bond.lifecycle = s.bond.lifecycle ∧ (State.beaconSend s n c t body call).1.time.ns = s.time.ns := by
  rw [State.beaconSend]; simp only [↓State.dutySend_keeps, ↓State.modPort_keeps, ↓State.transmit_keeps, and_self, ↓ite_fst, ↓ite_keeps, ↓State.modBond_keeps, ↓State.modTime_keeps, ↓foldl_pending, ↓foldl_life, ↓foldl_ns, ↓foldl_fst_pending, ↓foldl_fst_life, ↓foldl_fst_ns, ite_self, implies_true]

theorem State.beaconSend_eq (s : State) (n c t : Nat) (body : Bytes) (call : Option RadioEntry) (s' : State) (x' : Bool) (he : (State.beaconSend s n c t body call) = (s', x')) :
    s'.pending = s.pending ∧ s'.bond.lifecycle = s.bond.lifecycle ∧ s'.time.ns = s.time.ns := by
  have hk := State.beaconSend_keeps s n c t body call; rw [he] at hk; exact hk

theorem State.beaconOn_keeps (s : State) (n c k : Nat) (assign : Option Assign) (lastgasp : Bool) :
    (State.beaconOn s n c k assign lastgasp).1.pending = s.pending ∧ (State.beaconOn s n c k assign lastgasp).1.bond.lifecycle = s.bond.lifecycle ∧ (State.beaconOn s n c k assign lastgasp).1.time.ns = s.time.ns := by
  have h (t : Nat) (x : Bytes) (y : Option RadioEntry) := State.beaconSend_keeps s n c t x y
  delta State.beaconOn; dsimp only; exact h _ _ _

theorem State.beaconOn_eq (s : State) (n c k : Nat) (assign : Option Assign) (lastgasp : Bool) (s' : State) (x' : Bool) (he : (State.beaconOn s n c k assign lastgasp) = (s', x')) :
    s'.pending = s.pending ∧ s'.bond.lifecycle = s.bond.lifecycle ∧ s'.time.ns = s.time.ns := by
  have hk := State.beaconOn_keeps s n c k assign lastgasp; rw [he] at hk; exact hk

theorem State.noteBeacon_keeps (s : State) (n : Nat) (sent counts : Bool) :
    (State.noteBeacon s n sent counts).pending = s.pending ∧ (State.noteBeacon s n sent counts).bond.lifecycle = s.bond.lifecycle ∧ (State.noteBeacon s n sent counts).time.ns = s.time.ns := by
  rw [State.noteBeacon]; simp only [↓State.count_keeps, ↓State.event_keeps, ↓State.modPort_keeps, ↓State.raise_keeps, ↓State.setFlag_keeps, and_self, ↓ite_keeps, ite_self, ↓State.modBond_keeps, ↓State.modTime_keeps]

theorem State.beaconGroup_keeps (s : State) (n k : Nat) (lastgasp : Bool) :
    (State.beaconGroup s n k lastgasp).1.pending = s.pending ∧ (State.beaconGroup s n k lastgasp).1.bond.lifecycle = s.bond.lifecycle ∧ (State.beaconGroup s n k lastgasp).1.time.ns = s.time.ns := by
  rw [State.beaconGroup]; simp only [↓State.beaconOn_keeps, ↓State.modPort_keeps, and_self, ↓ite_fst, ↓ite_keeps, ↓State.modBond_keeps, ↓State.modTime_keeps, ↓foldl_pending, ↓foldl_life, ↓foldl_ns, ↓foldl_fst_pending, ↓foldl_fst_life, ↓foldl_fst_ns, ite_self, implies_true]

theorem State.beaconGroup_eq (s : State) (n k : Nat) (lastgasp : Bool) (s' : State) (x' : Bool) (he : (State.beaconGroup s n k lastgasp) = (s', x')) :
    s'.pending = s.pending ∧ s'.bond.lifecycle = s.bond.lifecycle ∧ s'.time.ns = s.time.ns := by
  have hk := State.beaconGroup_keeps s n k lastgasp; rw [he] at hk; exact hk

theorem execRadioBeaconSlot_keeps (port group : Nat) (s : State) :
    ∀ s', (execRadioBeaconSlot port group s) = .next s' → s'.pending = s.pending ∧ s'.bond.lifecycle = s.bond.lifecycle ∧ s'.time.ns = s.time.ns := by
  rw [execRadioBeaconSlot.eq_def]; repeat' (first | with_reducible exact out_keeps ⟨rfl, rfl, rfl⟩ | with_reducible refine out_keeps ?_ | with_reducible refine out_both ?_ ?_ | (solve | simp only [↓State.beaconGroup_keeps, ↓State.modPort_keeps, ↓State.noteBeacon_keeps, and_self]) | split)

theorem State.radioIssue_keeps (s : State) (n sf : Nat) (e : RadioEntry) :
    (State.radioIssue s n sf e).pending = s.pending ∧ (State.radioIssue s n sf e).bond.lifecycle = s.bond.lifecycle ∧ (State.radioIssue s n sf e).time.ns = s.time.ns := by
  rw [State.radioIssue]; simp only [↓State.make_keeps, ↓State.modEntry_keeps, and_self, ↓ite_keeps, ite_self, ↓State.modBond_keeps, ↓State.modTime_keeps]

theorem State.fwOffer_keeps (s : State) (cls idx epx : Nat) (free : Bool) :
    (State.fwOffer s cls idx epx free).pending = s.pending ∧ (State.fwOffer s cls idx epx free).bond.lifecycle = s.bond.lifecycle ∧ (State.fwOffer s cls idx epx free).time.ns = s.time.ns := by
  rw [State.fwOffer]; simp only [↓State.make_keeps, and_self, ↓ite_keeps, ite_self, ↓State.modBond_keeps, ↓State.modTime_keeps]

theorem State.applySched_keeps (s : State) (n epx chan slot : Nat) :
    (State.applySched s n epx chan slot).pending = s.pending ∧ (State.applySched s n epx chan slot).bond.lifecycle = s.bond.lifecycle ∧ (State.applySched s n epx chan slot).time.ns = s.time.ns := by
  first | rw [State.applySched] | rw [State.applySched.eq_def]
  try dsimp only
  repeat' (first | (simp only [↓State.modPort_keeps, and_self, ↓ite_fst, ↓ite_keeps, ↓State.modBond_keeps, ↓State.modTime_keeps, ↓foldl_pending, ↓foldl_life, ↓foldl_ns, ↓foldl_fst_pending, ↓foldl_fst_life, ↓foldl_fst_ns, ite_self, implies_true]; done) | with_reducible exact ⟨rfl, rfl, rfl⟩ | (grind only [State.modPort_keeps, ite_keeps, State.modBond_keeps, State.modTime_keeps]; done) | refine ⟨((foldl_pending _ _ _ ?_).trans ?_), ((foldl_life _ _ _ ?_).trans ?_), ((foldl_ns _ _ _ ?_).trans ?_)⟩ | refine ⟨((foldl_fst_pending _ _ _ ?_).trans ?_), ((foldl_fst_life _ _ _ ?_).trans ?_), ((foldl_fst_ns _ _ _ ?_).trans ?_)⟩ | refine ((foldl_pending _ _ _ ?_).trans ?_) | refine ((foldl_life _ _ _ ?_).trans ?_) | refine ((foldl_ns _ _ _ ?_).trans ?_) | refine ((foldl_fst_pending _ _ _ ?_).trans ?_) | refine ((foldl_fst_life _ _ _ ?_).trans ?_) | refine ((foldl_fst_ns _ _ _ ?_).trans ?_) | split | intro _ | simp only [↓State.modPort_keeps, and_self, ↓ite_fst, ↓ite_keeps, ↓State.modBond_keeps, ↓State.modTime_keeps, ↓foldl_pending, ↓foldl_life, ↓foldl_ns, ↓foldl_fst_pending, ↓foldl_fst_life, ↓foldl_fst_ns, ite_self, implies_true])

theorem State.radioMatched_keeps (s : State) (n : Nat) (rx : RadioHeard) (e : RadioEntry) (delta : Int) (g sf : Nat) :
    (State.radioMatched s n rx e delta g sf).pending = s.pending ∧ (State.radioMatched s n rx e delta g sf).bond.lifecycle = s.bond.lifecycle ∧ (State.radioMatched s n rx e delta g sf).time.ns = s.time.ns := by
  rw [State.radioMatched]; simp only [↓State.applySched_keeps, ↓State.arrive_keeps, ↓State.count_keeps, ↓State.fwOffer_keeps, ↓State.linkEvent_keeps, ↓State.modEntry_keeps, ↓State.modPort_keeps, ↓State.radioIssue_keeps, and_self, ↓ite_keeps, ite_self, ↓State.modBond_keeps, ↓State.modTime_keeps]

theorem State.radioHear_keeps (s : State) (n : Nat) (rx : RadioRx) :
    (State.radioHear s n rx).1.pending = s.pending ∧ (State.radioHear s n rx).1.bond.lifecycle = s.bond.lifecycle ∧ (State.radioHear s n rx).1.time.ns = s.time.ns := by
  first | rw [State.radioHear] | rw [State.radioHear.eq_def]
  try dsimp only
  repeat' (first | (simp only [↓State.count_keeps, and_self, ↓ite_fst, ↓ite_keeps, ↓State.modBond_keeps, ↓State.modTime_keeps, ↓foldl_pending, ↓foldl_life, ↓foldl_ns, ↓foldl_fst_pending, ↓foldl_fst_life, ↓foldl_fst_ns, ite_self, implies_true]; done) | with_reducible exact ⟨rfl, rfl, rfl⟩ | (grind only [State.count_keeps, ite_keeps, State.modBond_keeps, State.modTime_keeps]; done) | refine ⟨((foldl_pending _ _ _ ?_).trans ?_), ((foldl_life _ _ _ ?_).trans ?_), ((foldl_ns _ _ _ ?_).trans ?_)⟩ | refine ⟨((foldl_fst_pending _ _ _ ?_).trans ?_), ((foldl_fst_life _ _ _ ?_).trans ?_), ((foldl_fst_ns _ _ _ ?_).trans ?_)⟩ | refine ((foldl_pending _ _ _ ?_).trans ?_) | refine ((foldl_life _ _ _ ?_).trans ?_) | refine ((foldl_ns _ _ _ ?_).trans ?_) | refine ((foldl_fst_pending _ _ _ ?_).trans ?_) | refine ((foldl_fst_life _ _ _ ?_).trans ?_) | refine ((foldl_fst_ns _ _ _ ?_).trans ?_) | split | intro _ | simp only [↓State.count_keeps, and_self, ↓ite_fst, ↓ite_keeps, ↓State.modBond_keeps, ↓State.modTime_keeps, ↓foldl_pending, ↓foldl_life, ↓foldl_ns, ↓foldl_fst_pending, ↓foldl_fst_life, ↓foldl_fst_ns, ite_self, implies_true])

theorem State.radioHear_eq (s : State) (n : Nat) (rx : RadioRx) (s' : State) (x' : Option RadioHeard) (he : (State.radioHear s n rx) = (s', x')) :
    s'.pending = s.pending ∧ s'.bond.lifecycle = s.bond.lifecycle ∧ s'.time.ns = s.time.ns := by
  have hk := State.radioHear_keeps s n rx; rw [he] at hk; exact hk

theorem State.unslotted_keeps (s : State) (n : Nat) :
    (State.unslotted s n).pending = s.pending ∧ (State.unslotted s n).bond.lifecycle = s.bond.lifecycle ∧ (State.unslotted s n).time.ns = s.time.ns := by
  first | rw [State.unslotted] | rw [State.unslotted.eq_def]
  try dsimp only
  repeat' (first | (simp only [↓State.count_keeps, and_self, ↓ite_fst, ↓ite_keeps, ↓State.modBond_keeps, ↓State.modTime_keeps, ↓foldl_pending, ↓foldl_life, ↓foldl_ns, ↓foldl_fst_pending, ↓foldl_fst_life, ↓foldl_fst_ns, ite_self, implies_true]; done) | with_reducible exact ⟨rfl, rfl, rfl⟩ | (grind only [State.count_keeps, ite_keeps, State.modBond_keeps, State.modTime_keeps]; done) | refine ⟨((foldl_pending _ _ _ ?_).trans ?_), ((foldl_life _ _ _ ?_).trans ?_), ((foldl_ns _ _ _ ?_).trans ?_)⟩ | refine ⟨((foldl_fst_pending _ _ _ ?_).trans ?_), ((foldl_fst_life _ _ _ ?_).trans ?_), ((foldl_fst_ns _ _ _ ?_).trans ?_)⟩ | refine ((foldl_pending _ _ _ ?_).trans ?_) | refine ((foldl_life _ _ _ ?_).trans ?_) | refine ((foldl_ns _ _ _ ?_).trans ?_) | refine ((foldl_fst_pending _ _ _ ?_).trans ?_) | refine ((foldl_fst_life _ _ _ ?_).trans ?_) | refine ((foldl_fst_ns _ _ _ ?_).trans ?_) | split | intro _ | simp only [↓State.count_keeps, and_self, ↓ite_fst, ↓ite_keeps, ↓State.modBond_keeps, ↓State.modTime_keeps, ↓foldl_pending, ↓foldl_life, ↓foldl_ns, ↓foldl_fst_pending, ↓foldl_fst_life, ↓foldl_fst_ns, ite_self, implies_true])

theorem State.radioInstall_keeps (s : State) (n c slot : Nat) (rx : RadioHeard) :
    (State.radioInstall s n c slot rx).pending = s.pending ∧ (State.radioInstall s n c slot rx).bond.lifecycle = s.bond.lifecycle ∧ (State.radioInstall s n c slot rx).time.ns = s.time.ns := by
  first | rw [State.radioInstall] | rw [State.radioInstall.eq_def]
  try dsimp only
  repeat' (first | (simp only [↓State.arrive_keeps, ↓State.modPort_keeps, and_self, ↓ite_fst, ↓ite_keeps, ↓State.modBond_keeps, ↓State.modTime_keeps, ↓foldl_pending, ↓foldl_life, ↓foldl_ns, ↓foldl_fst_pending, ↓foldl_fst_life, ↓foldl_fst_ns, ite_self, implies_true]; done) | with_reducible exact ⟨rfl, rfl, rfl⟩ | (grind only [State.arrive_keeps, State.modPort_keeps, ite_keeps, State.modBond_keeps, State.modTime_keeps]; done) | (have hk := State.arrive_eq _ _ _ _ _ _ (by assumption); simp only [↓hk, ↓State.arrive_keeps, ↓State.modPort_keeps, and_self, ↓ite_fst, ↓ite_keeps, ↓State.modBond_keeps, ↓State.modTime_keeps, ↓foldl_pending, ↓foldl_life, ↓foldl_ns, ↓foldl_fst_pending, ↓foldl_fst_life, ↓foldl_fst_ns, ite_self, implies_true]; done) | (have hk := State.arrive_eq _ _ _ _ _ _ (by assumption); simp only [↓hk, ↓State.arrive_keeps, ↓State.modPort_keeps, and_self, ↓ite_fst, ↓ite_keeps, ↓State.modBond_keeps, ↓State.modTime_keeps, ↓foldl_pending, ↓foldl_life, ↓foldl_ns, ↓foldl_fst_pending, ↓foldl_fst_life, ↓foldl_fst_ns, ite_self, implies_true]) | refine ⟨((foldl_pending _ _ _ ?_).trans ?_), ((foldl_life _ _ _ ?_).trans ?_), ((foldl_ns _ _ _ ?_).trans ?_)⟩ | refine ⟨((foldl_fst_pending _ _ _ ?_).trans ?_), ((foldl_fst_life _ _ _ ?_).trans ?_), ((foldl_fst_ns _ _ _ ?_).trans ?_)⟩ | refine ((foldl_pending _ _ _ ?_).trans ?_) | refine ((foldl_life _ _ _ ?_).trans ?_) | refine ((foldl_ns _ _ _ ?_).trans ?_) | refine ((foldl_fst_pending _ _ _ ?_).trans ?_) | refine ((foldl_fst_life _ _ _ ?_).trans ?_) | refine ((foldl_fst_ns _ _ _ ?_).trans ?_) | split | intro _ | simp only [↓State.arrive_keeps, ↓State.modPort_keeps, and_self, ↓ite_fst, ↓ite_keeps, ↓State.modBond_keeps, ↓State.modTime_keeps, ↓foldl_pending, ↓foldl_life, ↓foldl_ns, ↓foldl_fst_pending, ↓foldl_fst_life, ↓foldl_fst_ns, ite_self, implies_true])

theorem execRadioFrameReceived_keeps (port chan : Nat) (rx : RadioRx) (s : State) :
    ∀ s', (execRadioFrameReceived port chan rx s) = .next s' → s'.pending = s.pending ∧ s'.bond.lifecycle = s.bond.lifecycle ∧ s'.time.ns = s.time.ns := by
  intro s'; first | rw [execRadioFrameReceived] | rw [execRadioFrameReceived.eq_def]
  try dsimp only
  repeat' (first | (simp only [↓State.radioHear_keeps, ↓State.radioInstall_keeps, ↓State.radioMatched_keeps, ↓State.unslotted_keeps, and_self, ↓ite_fst, ↓ite_keeps, ↓State.modBond_keeps, ↓State.modTime_keeps, ↓foldl_pending, ↓foldl_life, ↓foldl_ns, ↓foldl_fst_pending, ↓foldl_fst_life, ↓foldl_fst_ns, ite_self, implies_true]; done) | with_reducible exact ⟨rfl, rfl, rfl⟩ | (grind only [State.radioHear_keeps, State.radioInstall_keeps, State.radioMatched_keeps, State.unslotted_keeps, ite_keeps, State.modBond_keeps, State.modTime_keeps]; done) | (have hk := State.radioHear_eq _ _ _ _ _ (by assumption); simp only [↓hk, ↓State.radioHear_keeps, ↓State.radioInstall_keeps, ↓State.radioMatched_keeps, ↓State.unslotted_keeps, and_self, ↓ite_fst, ↓ite_keeps, ↓State.modBond_keeps, ↓State.modTime_keeps, ↓foldl_pending, ↓foldl_life, ↓foldl_ns, ↓foldl_fst_pending, ↓foldl_fst_life, ↓foldl_fst_ns, ite_self, implies_true]; done) | (with_reducible refine out_next (P := fun s' => s'.pending = s.pending ∧ s'.bond.lifecycle = s.bond.lifecycle ∧ s'.time.ns = s.time.ns) ?_) | with_reducible refine out_ite ?_ ?_ | (have hk := State.radioHear_eq _ _ _ _ _ (by assumption); simp only [↓hk, ↓State.radioHear_keeps, ↓State.radioInstall_keeps, ↓State.radioMatched_keeps, ↓State.unslotted_keeps, and_self, ↓ite_fst, ↓ite_keeps, ↓State.modBond_keeps, ↓State.modTime_keeps, ↓foldl_pending, ↓foldl_life, ↓foldl_ns, ↓foldl_fst_pending, ↓foldl_fst_life, ↓foldl_fst_ns, ite_self, implies_true]) | refine ⟨((foldl_pending _ _ _ ?_).trans ?_), ((foldl_life _ _ _ ?_).trans ?_), ((foldl_ns _ _ _ ?_).trans ?_)⟩ | refine ⟨((foldl_fst_pending _ _ _ ?_).trans ?_), ((foldl_fst_life _ _ _ ?_).trans ?_), ((foldl_fst_ns _ _ _ ?_).trans ?_)⟩ | refine ((foldl_pending _ _ _ ?_).trans ?_) | refine ((foldl_life _ _ _ ?_).trans ?_) | refine ((foldl_ns _ _ _ ?_).trans ?_) | refine ((foldl_fst_pending _ _ _ ?_).trans ?_) | refine ((foldl_fst_life _ _ _ ?_).trans ?_) | refine ((foldl_fst_ns _ _ _ ?_).trans ?_) | split | intro _ | simp only [↓State.radioHear_keeps, ↓State.radioInstall_keeps, ↓State.radioMatched_keeps, ↓State.unslotted_keeps, and_self, ↓ite_fst, ↓ite_keeps, ↓State.modBond_keeps, ↓State.modTime_keeps, ↓foldl_pending, ↓foldl_life, ↓foldl_ns, ↓foldl_fst_pending, ↓foldl_fst_life, ↓foldl_fst_ns, ite_self, implies_true])

theorem State.radioGiveUp_keeps (s : State) (n : Nat) (e : RadioEntry) :
    (State.radioGiveUp s n e).pending = s.pending ∧ (State.radioGiveUp s n e).bond.lifecycle = s.bond.lifecycle ∧ (State.radioGiveUp s n e).time.ns = s.time.ns := by
  rw [State.radioGiveUp.eq_def]; repeat' (first | (solve | simp only [↓State.modEntry_keeps, ↓State.radioDrop_keeps, ↓State.raise_keeps, and_self, ↓ite_keeps, ite_self, ↓State.modBond_keeps, ↓State.modTime_keeps]) | with_reducible exact ⟨rfl, rfl, rfl⟩ | split)

theorem State.radioSend_keeps (s : State) (n cls t c : Nat) (f : Nat → Nat → RadioTx) :
    (State.radioSend s n cls t c f).1.pending = s.pending ∧ (State.radioSend s n cls t c f).1.bond.lifecycle = s.bond.lifecycle ∧ (State.radioSend s n cls t c f).1.time.ns = s.time.ns := by
  rw [State.radioSend]; simp only [↓State.dutySend_keeps, ↓State.modPort_keeps, ↓State.transmit_keeps, and_self, ↓ite_fst, ↓ite_keeps, ↓State.modBond_keeps, ↓State.modTime_keeps, ↓foldl_pending, ↓foldl_life, ↓foldl_ns, ↓foldl_fst_pending, ↓foldl_fst_life, ↓foldl_fst_ns, ite_self, implies_true]

theorem State.radioSend_eq (s : State) (n cls t c : Nat) (f : Nat → Nat → RadioTx) (s' : State) (x' : Bool) (he : (State.radioSend s n cls t c f) = (s', x')) :
    s'.pending = s.pending ∧ s'.bond.lifecycle = s.bond.lifecycle ∧ s'.time.ns = s.time.ns := by
  have hk := State.radioSend_keeps s n cls t c f; rw [he] at hk; exact hk

theorem State.sendAck_keeps (s : State) (n c cls : Nat) (d : RespDue) (pending : Bool) :
    (State.sendAck s n c cls d pending).pending = s.pending ∧ (State.sendAck s n c cls d pending).bond.lifecycle = s.bond.lifecycle ∧ (State.sendAck s n c cls d pending).time.ns = s.time.ns := by
  first | rw [State.sendAck] | rw [State.sendAck.eq_def]
  try dsimp only
  repeat' (first | (simp only [↓State.count_keeps, ↓State.modEntry_keeps, ↓State.modPort_keeps, ↓State.radioSend_keeps, and_self, ↓ite_fst, ↓ite_keeps, ↓State.modBond_keeps, ↓State.modTime_keeps, ↓foldl_pending, ↓foldl_life, ↓foldl_ns, ↓foldl_fst_pending, ↓foldl_fst_life, ↓foldl_fst_ns, ite_self, implies_true]; done) | with_reducible exact ⟨rfl, rfl, rfl⟩ | (grind only [State.count_keeps, State.modEntry_keeps, State.modPort_keeps, State.radioSend_keeps, ite_keeps, State.modBond_keeps, State.modTime_keeps]; done) | (have hk := State.radioSend_eq _ _ _ _ _ _ _ _ (by assumption); simp only [↓hk, ↓State.count_keeps, ↓State.modEntry_keeps, ↓State.modPort_keeps, ↓State.radioSend_keeps, and_self, ↓ite_fst, ↓ite_keeps, ↓State.modBond_keeps, ↓State.modTime_keeps, ↓foldl_pending, ↓foldl_life, ↓foldl_ns, ↓foldl_fst_pending, ↓foldl_fst_life, ↓foldl_fst_ns, ite_self, implies_true]; done) | (have hk := State.radioSend_eq _ _ _ _ _ _ _ _ (by assumption); simp only [↓hk, ↓State.count_keeps, ↓State.modEntry_keeps, ↓State.modPort_keeps, ↓State.radioSend_keeps, and_self, ↓ite_fst, ↓ite_keeps, ↓State.modBond_keeps, ↓State.modTime_keeps, ↓foldl_pending, ↓foldl_life, ↓foldl_ns, ↓foldl_fst_pending, ↓foldl_fst_life, ↓foldl_fst_ns, ite_self, implies_true]) | refine ⟨((foldl_pending _ _ _ ?_).trans ?_), ((foldl_life _ _ _ ?_).trans ?_), ((foldl_ns _ _ _ ?_).trans ?_)⟩ | refine ⟨((foldl_fst_pending _ _ _ ?_).trans ?_), ((foldl_fst_life _ _ _ ?_).trans ?_), ((foldl_fst_ns _ _ _ ?_).trans ?_)⟩ | refine ((foldl_pending _ _ _ ?_).trans ?_) | refine ((foldl_life _ _ _ ?_).trans ?_) | refine ((foldl_ns _ _ _ ?_).trans ?_) | refine ((foldl_fst_pending _ _ _ ?_).trans ?_) | refine ((foldl_fst_life _ _ _ ?_).trans ?_) | refine ((foldl_fst_ns _ _ _ ?_).trans ?_) | split | intro _ | simp only [↓State.count_keeps, ↓State.modEntry_keeps, ↓State.modPort_keeps, ↓State.radioSend_keeps, and_self, ↓ite_fst, ↓ite_keeps, ↓State.modBond_keeps, ↓State.modTime_keeps, ↓foldl_pending, ↓foldl_life, ↓foldl_ns, ↓foldl_fst_pending, ↓foldl_fst_life, ↓foldl_fst_ns, ite_self, implies_true])

theorem State.respond_keeps (s : State) (n c : Nat) (d : RespDue) :
    (State.respond s n c d).pending = s.pending ∧ (State.respond s n c d).bond.lifecycle = s.bond.lifecycle ∧ (State.respond s n c d).time.ns = s.time.ns := by
  rw [State.respond.eq_def]; try dsimp only
  repeat' (first | (solve | simp only [↓State.count_keeps, ↓State.modEntry_keeps, ↓State.modPort_keeps, ↓State.radioGiveUp_keeps, ↓State.radioSend_keeps, ↓State.sendAck_keeps, and_self, ↓ite_fst, ↓ite_keeps, ↓State.modBond_keeps, ↓State.modTime_keeps, ↓foldl_pending, ↓foldl_life, ↓foldl_ns, ↓foldl_fst_pending, ↓foldl_fst_life, ↓foldl_fst_ns, ite_self, implies_true]) | with_reducible exact ⟨rfl, rfl, rfl⟩ | refine ⟨foldl_pending _ _ _ ?_, foldl_life _ _ _ ?_, foldl_ns _ _ _ ?_⟩ | split | intro _)

theorem execRadioResponse_keeps (port chan : Nat) (s : State) :
    ∀ s', (execRadioResponse port chan s) = .next s' → s'.pending = s.pending ∧ s'.bond.lifecycle = s.bond.lifecycle ∧ s'.time.ns = s.time.ns := by
  rw [execRadioResponse.eq_def]; repeat' (first | with_reducible exact out_keeps ⟨rfl, rfl, rfl⟩ | with_reducible refine out_keeps ?_ | with_reducible refine out_both ?_ ?_ | (solve | simp only [↓State.modPort_keeps, ↓State.respond_keeps, and_self]) | split)

theorem execRadioOccurrenceMissed_keeps (port chan slot phase : Nat) (s : State) :
    ∀ s', (execRadioOccurrenceMissed port chan slot phase s) = .next s' → s'.pending = s.pending ∧ s'.bond.lifecycle = s.bond.lifecycle ∧ s'.time.ns = s.time.ns := by
  rw [execRadioOccurrenceMissed.eq_def]; repeat' (first | with_reducible exact out_keeps ⟨rfl, rfl, rfl⟩ | with_reducible refine out_keeps ?_ | with_reducible refine out_both ?_ ?_ | (solve | simp only [↓State.applySched_keeps, ↓State.count_keeps, ↓State.linkEvent_keeps, ↓State.modEntry_keeps, ↓State.radioCommit_keeps, ↓State.radioIssue_keeps, ↓State.raise_keeps, and_self]) | split)

theorem State.setEntryStatus_keeps (s : State) (n result : Nat) (e : Option RadioEntry) :
    (State.setEntryStatus s n result e).pending = s.pending ∧ (State.setEntryStatus s n result e).bond.lifecycle = s.bond.lifecycle ∧ (State.setEntryStatus s n result e).time.ns = s.time.ns := by
  with_reducible exact ⟨rfl, rfl, rfl⟩

theorem execRadioEntryRead_keeps (port : Nat) (val : Word) (s : State) :
    ∀ s', (execRadioEntryRead port val s) = .next s' → s'.pending = s.pending ∧ s'.bond.lifecycle = s.bond.lifecycle ∧ s'.time.ns = s.time.ns := by
  rw [execRadioEntryRead.eq_def]; repeat' (first | with_reducible exact out_keeps ⟨rfl, rfl, rfl⟩ | with_reducible refine out_keeps ?_ | with_reducible refine out_both ?_ ?_ | (solve | simp only [↓State.setEntryStatus_keeps, and_self]) | split)

theorem State.entryPlace_keeps (s : State) (port : Nat) (val : Word) :
    (State.entryPlace s port val).pending = s.pending ∧ (State.entryPlace s port val).bond.lifecycle = s.bond.lifecycle ∧ (State.entryPlace s port val).time.ns = s.time.ns := by
  rw [State.entryPlace.eq_def]; try dsimp only
  repeat' (first | (solve | simp only [↓State.addEntry_keeps, ↓State.linkEvent_keeps, ↓State.setEntryStatus_keeps, and_self, ↓ite_fst, ↓ite_keeps, ↓State.modBond_keeps, ↓State.modTime_keeps, ↓foldl_pending, ↓foldl_life, ↓foldl_ns, ↓foldl_fst_pending, ↓foldl_fst_life, ↓foldl_fst_ns, ite_self, implies_true]) | with_reducible exact ⟨rfl, rfl, rfl⟩ | refine ⟨foldl_pending _ _ _ ?_, foldl_life _ _ _ ?_, foldl_ns _ _ _ ?_⟩ | split | intro _)

theorem execRadioEntrySched_keeps (port : Nat) (val : Word) (s : State) :
    ∀ s', (execRadioEntrySched port val s) = .next s' → s'.pending = s.pending ∧ s'.bond.lifecycle = s.bond.lifecycle ∧ s'.time.ns = s.time.ns := by
  rw [execRadioEntrySched.eq_def]; try dsimp only
  repeat' (first | with_reducible exact out_keeps ⟨rfl, rfl, rfl⟩ | with_reducible refine out_keeps ?_ | with_reducible refine out_both ?_ ?_ | (solve | simp only [↓State.linkEvent_keeps, ↓State.modEntry_keeps, ↓State.setEntryStatus_keeps, and_self, ↓ite_keeps, ite_self, ↓State.modBond_keeps, ↓State.modTime_keeps]) | with_reducible exact ⟨rfl, rfl, rfl⟩ | split | intro _)

end Sys2Proof.Machine
end

