-- ==== Sys2Proof/Laws/KeepFwPush.lean ====
section
/-!
SUPPORT. What the operations of Machine/FwPush.lean leave alone: the queue, the life cycle and the timebase.
-/
set_option linter.unusedSimpArgs false

namespace Sys2Proof.Machine

theorem State.setJob_keeps (s : State) (j : Nat) (x : FwJob) :
    (State.setJob s j x).pending = s.pending ∧ (State.setJob s j x).bond.lifecycle = s.bond.lifecycle ∧ (State.setJob s j x).time.ns = s.time.ns := by
  rw [State.setJob]; simp only [↓State.event_keeps, ↓State.modUpd_keeps, ↓State.raise_keeps, and_self]

theorem execJobCreate_keeps (val : Word) (image : Bytes) (s : State) :
    ∀ s', (execJobCreate val image s) = .next s' → s'.pending = s.pending ∧ s'.bond.lifecycle = s.bond.lifecycle ∧ s'.time.ns = s.time.ns := by
  rw [execJobCreate.eq_def]; repeat' (first | with_reducible exact out_keeps ⟨rfl, rfl, rfl⟩ | with_reducible refine out_keeps ?_ | with_reducible refine out_both ?_ ?_ | (solve | simp only [↓State.fresh_keeps, ↓State.raise_keeps, ↓State.set_keeps, ↓State.setFlag_keeps, ↓State.setJob_keeps, and_self]) | split)

theorem execJobReady_keeps (s : State) :
    ∀ s', (execJobReady s) = .next s' → s'.pending = s.pending ∧ s'.bond.lifecycle = s.bond.lifecycle ∧ s'.time.ns = s.time.ns := by
  rw [execJobReady.eq_def]; repeat' (first | with_reducible exact out_keeps ⟨rfl, rfl, rfl⟩ | with_reducible refine out_keeps ?_ | with_reducible refine out_both ?_ ?_ | (solve | simp only [↓State.setFlag_keeps, ↓State.setJob_keeps, and_self]) | split)

theorem State.makeSet_keeps (s : State) (epx j res : Nat) :
    (State.makeSet s epx j res).pending = s.pending ∧ (State.makeSet s epx j res).bond.lifecycle = s.bond.lifecycle ∧ (State.makeSet s epx j res).time.ns = s.time.ns := by
  rw [State.makeSet]; simp only [↓State.make_keeps, and_self]

theorem execJobCancel_keeps (val : Word) (s : State) :
    ∀ s', (execJobCancel val s) = .next s' → s'.pending = s.pending ∧ s'.bond.lifecycle = s.bond.lifecycle ∧ s'.time.ns = s.time.ns := by
  rw [execJobCancel.eq_def]; repeat' (first | with_reducible exact out_keeps ⟨rfl, rfl, rfl⟩ | with_reducible refine out_keeps ?_ | with_reducible refine out_both ?_ ?_ | (solve | simp only [↓State.makeSet_keeps, ↓State.setJob_keeps, and_self, ↓ite_fst, ↓ite_keeps, ↓State.modBond_keeps, ↓State.modTime_keeps, ↓foldl_pending, ↓foldl_life, ↓foldl_ns, ↓foldl_fst_pending, ↓foldl_fst_life, ↓foldl_fst_ns, ite_self, implies_true]) | split)

theorem State.commitTarget_keeps (s : State) (epx : Nat) (t : Option FwTarget) :
    (State.commitTarget s epx t).pending = s.pending ∧ (State.commitTarget s epx t).bond.lifecycle = s.bond.lifecycle ∧ (State.commitTarget s epx t).time.ns = s.time.ns := by
  unfold State.commitTarget; dsimp only
  cases t with
  | some x => exact ⟨rfl, rfl, rfl⟩
  | none =>
    cases Map.get? s.upd.targets epx with
    | none => exact ⟨rfl, rfl, rfl⟩
    | some o => dsimp only; split <;> simp only [↓State.modUpd_keeps, ↓State.setJob_keeps, and_self, ↓ite_fst, ↓ite_keeps, ↓State.modBond_keeps, ↓State.modTime_keeps, ↓foldl_pending, ↓foldl_life, ↓foldl_ns, ↓foldl_fst_pending, ↓foldl_fst_life, ↓foldl_fst_ns, ite_self, implies_true]

theorem State.onPush_keeps (s : State) (n set : Nat) (f : State → Manifest → EpRec → State × Nat × List Effect) (hf : ∀ (s0 : State) (a0 : Manifest) (a1 : EpRec), (f s0 a0 a1).1.pending = s0.pending ∧ (f s0 a0 a1).1.bond.lifecycle = s0.bond.lifecycle ∧ (f s0 a0 a1).1.time.ns = s0.time.ns) :
    ∀ s', (State.onPush s n set f) = .next s' → s'.pending = s.pending ∧ s'.bond.lifecycle = s.bond.lifecycle ∧ s'.time.ns = s.time.ns := by
  rw [State.onPush.eq_def]; try dsimp only
  repeat' (first | with_reducible exact out_keeps ⟨rfl, rfl, rfl⟩ | with_reducible refine out_keeps ?_ | with_reducible refine out_both ?_ ?_ | (solve | simp only [↓State.complete_keeps, ↓State.withRecs_keeps, and_self, ↓ite_keeps, ite_self, ↓State.modBond_keeps, ↓State.modTime_keeps]) | with_reducible exact ⟨rfl, rfl, rfl⟩ | refine State.withRecs_keeps _ _ _ _ _ ?_ | exact hf _ _ _ | (focus have hk := hf; simp only [↓hk, ↓State.complete_keeps, ↓State.withRecs_keeps, and_self, ↓ite_keeps, ite_self, ↓State.modBond_keeps, ↓State.modTime_keeps]; done) | split | intro _)

theorem State.fwAdmit_keeps (s : State) (m : Manifest) (r : EpRec) :
    (State.fwAdmit s m r).1.pending = s.pending ∧ (State.fwAdmit s m r).1.bond.lifecycle = s.bond.lifecycle ∧ (State.fwAdmit s m r).1.time.ns = s.time.ns := by
  first | rw [State.fwAdmit] | rw [State.fwAdmit.eq_def]
  try dsimp only
  repeat' (first | (simp only [↓State.downlink_keeps, ↓State.epKey_keeps, and_self, ↓ite_fst, ↓ite_keeps, ↓State.modBond_keeps, ↓State.modTime_keeps, ↓foldl_pending, ↓foldl_life, ↓foldl_ns, ↓foldl_fst_pending, ↓foldl_fst_life, ↓foldl_fst_ns, ite_self, implies_true]; done) | with_reducible exact ⟨rfl, rfl, rfl⟩ | (grind only [State.downlink_keeps, State.epKey_keeps, ite_keeps, State.modBond_keeps, State.modTime_keeps]; done) | (have hk := State.epKey_eq _ _ _ _ _ _ _ (by assumption); simp only [↓hk, ↓State.downlink_keeps, ↓State.epKey_keeps, and_self, ↓ite_fst, ↓ite_keeps, ↓State.modBond_keeps, ↓State.modTime_keeps, ↓foldl_pending, ↓foldl_life, ↓foldl_ns, ↓foldl_fst_pending, ↓foldl_fst_life, ↓foldl_fst_ns, ite_self, implies_true]; done) | (have hk := State.downlink_eq _ _ _ _ _ _ _ _ (by assumption); simp only [↓hk, ↓State.downlink_keeps, ↓State.epKey_keeps, and_self, ↓ite_fst, ↓ite_keeps, ↓State.modBond_keeps, ↓State.modTime_keeps, ↓foldl_pending, ↓foldl_life, ↓foldl_ns, ↓foldl_fst_pending, ↓foldl_fst_life, ↓foldl_fst_ns, ite_self, implies_true]; done) | (have hk := State.epKey_eq _ _ _ _ _ _ _ (by assumption); simp only [↓hk, ↓State.downlink_keeps, ↓State.epKey_keeps, and_self, ↓ite_fst, ↓ite_keeps, ↓State.modBond_keeps, ↓State.modTime_keeps, ↓foldl_pending, ↓foldl_life, ↓foldl_ns, ↓foldl_fst_pending, ↓foldl_fst_life, ↓foldl_fst_ns, ite_self, implies_true]) | (have hk := State.downlink_eq _ _ _ _ _ _ _ _ (by assumption); simp only [↓hk, ↓State.downlink_keeps, ↓State.epKey_keeps, and_self, ↓ite_fst, ↓ite_keeps, ↓State.modBond_keeps, ↓State.modTime_keeps, ↓foldl_pending, ↓foldl_life, ↓foldl_ns, ↓foldl_fst_pending, ↓foldl_fst_life, ↓foldl_fst_ns, ite_self, implies_true]) | refine ⟨((foldl_pending _ _ _ ?_).trans ?_), ((foldl_life _ _ _ ?_).trans ?_), ((foldl_ns _ _ _ ?_).trans ?_)⟩ | refine ⟨((foldl_fst_pending _ _ _ ?_).trans ?_), ((foldl_fst_life _ _ _ ?_).trans ?_), ((foldl_fst_ns _ _ _ ?_).trans ?_)⟩ | refine ((foldl_pending _ _ _ ?_).trans ?_) | refine ((foldl_life _ _ _ ?_).trans ?_) | refine ((foldl_ns _ _ _ ?_).trans ?_) | refine ((foldl_fst_pending _ _ _ ?_).trans ?_) | refine ((foldl_fst_life _ _ _ ?_).trans ?_) | refine ((foldl_fst_ns _ _ _ ?_).trans ?_) | split | intro _ | simp only [↓State.downlink_keeps, ↓State.epKey_keeps, and_self, ↓ite_fst, ↓ite_keeps, ↓State.modBond_keeps, ↓State.modTime_keeps, ↓foldl_pending, ↓foldl_life, ↓foldl_ns, ↓foldl_fst_pending, ↓foldl_fst_life, ↓foldl_fst_ns, ite_self, implies_true])

theorem State.fwAdmit_eq (s : State) (m : Manifest) (r : EpRec) (s' : State) (x' : Nat × List Effect) (he : (State.fwAdmit s m r) = (s', x')) :
    s'.pending = s.pending ∧ s'.bond.lifecycle = s.bond.lifecycle ∧ s'.time.ns = s.time.ns := by
  have hk := State.fwAdmit_keeps s m r; rw [he] at hk; exact hk

theorem execFwPushTarget_keeps (slot : Nat) (s : State) :
    ∀ s', (execFwPushTarget slot s) = .next s' → s'.pending = s.pending ∧ s'.bond.lifecycle = s.bond.lifecycle ∧ s'.time.ns = s.time.ns := by
  rw [execFwPushTarget.eq_def]; try dsimp only
  repeat' (first | with_reducible exact out_keeps ⟨rfl, rfl, rfl⟩ | with_reducible refine out_keeps ?_ | with_reducible refine out_both ?_ ?_ | (solve | simp only [↓State.fwAdmit_keeps, and_self, ↓ite_keeps, ite_self, ↓State.modBond_keeps, ↓State.modTime_keeps]) | with_reducible exact ⟨rfl, rfl, rfl⟩ | refine State.onPush_keeps _ _ _ _ ?_ _ | (focus have hk := State.fwAdmit_eq _ _ _ _ _ (by assumption); simp only [↓hk, ↓State.fwAdmit_keeps, and_self, ↓ite_keeps, ite_self, ↓State.modBond_keeps, ↓State.modTime_keeps]; done) | split | intro _)

theorem State.fwStatus_keeps (s : State) (m : Manifest) (r : EpRec) :
    (State.fwStatus s m r).1.pending = s.pending ∧ (State.fwStatus s m r).1.bond.lifecycle = s.bond.lifecycle ∧ (State.fwStatus s m r).1.time.ns = s.time.ns := by
  rw [State.fwStatus.eq_def]; try dsimp only
  repeat' (first | (solve | simp only [↓State.downlink_keeps, and_self, ↓ite_keeps, ite_self, ↓State.modBond_keeps, ↓State.modTime_keeps]) | with_reducible exact ⟨rfl, rfl, rfl⟩ | (focus have hk := State.downlink_eq _ _ _ _ _ _ _ _ (by assumption); simp only [↓hk, ↓State.downlink_keeps, and_self, ↓ite_keeps, ite_self, ↓State.modBond_keeps, ↓State.modTime_keeps]; done) | split | intro _)

theorem State.fwStatus_eq (s : State) (m : Manifest) (r : EpRec) (s' : State) (x' : Nat × List Effect) (he : (State.fwStatus s m r) = (s', x')) :
    s'.pending = s.pending ∧ s'.bond.lifecycle = s.bond.lifecycle ∧ s'.time.ns = s.time.ns := by
  have hk := State.fwStatus_keeps s m r; rw [he] at hk; exact hk

theorem execFwPushStatus_keeps (slot : Nat) (s : State) :
    ∀ s', (execFwPushStatus slot s) = .next s' → s'.pending = s.pending ∧ s'.bond.lifecycle = s.bond.lifecycle ∧ s'.time.ns = s.time.ns := by
  rw [execFwPushStatus.eq_def]; try dsimp only
  repeat' (first | with_reducible exact out_keeps ⟨rfl, rfl, rfl⟩ | with_reducible refine out_keeps ?_ | with_reducible refine out_both ?_ ?_ | (solve | simp only [↓State.fwStatus_keeps, and_self, ↓ite_keeps, ite_self, ↓State.modBond_keeps, ↓State.modTime_keeps]) | with_reducible exact ⟨rfl, rfl, rfl⟩ | refine State.onPush_keeps _ _ _ _ ?_ _ | (focus have hk := State.fwStatus_eq _ _ _ _ _ (by assumption); simp only [↓hk, ↓State.fwStatus_keeps, and_self, ↓ite_keeps, ite_self, ↓State.modBond_keeps, ↓State.modTime_keeps]; done) | split | intro _)

theorem execFwPushRound_keeps (slot : Nat) (s : State) :
    ∀ s', (execFwPushRound slot s) = .next s' → s'.pending = s.pending ∧ s'.bond.lifecycle = s.bond.lifecycle ∧ s'.time.ns = s.time.ns := by
  rw [execFwPushRound.eq_def]; try dsimp only
  repeat' (first | with_reducible exact out_keeps ⟨rfl, rfl, rfl⟩ | with_reducible refine out_keeps ?_ | with_reducible refine out_both ?_ ?_ | (solve | simp only [↓State.complete_keeps, and_self, ↓ite_keeps, ite_self, ↓State.modBond_keeps, ↓State.modTime_keeps]) | with_reducible exact ⟨rfl, rfl, rfl⟩ | refine State.onKind_keeps _ _ _ _ ?_ _ | split | intro _)

theorem State.fwSend_keeps (s : State) (m : Manifest) (r : EpRec) :
    (State.fwSend s m r).1.pending = s.pending ∧ (State.fwSend s m r).1.bond.lifecycle = s.bond.lifecycle ∧ (State.fwSend s m r).1.time.ns = s.time.ns := by
  rw [State.fwSend.eq_def]; try dsimp only
  repeat' (first | (solve | simp only [↓State.count_keeps, ↓State.downlink_keeps, and_self, ↓ite_keeps, ite_self, ↓State.modBond_keeps, ↓State.modTime_keeps]) | with_reducible exact ⟨rfl, rfl, rfl⟩ | (focus have hk := State.downlink_eq _ _ _ _ _ _ _ _ (by assumption); simp only [↓hk, ↓State.count_keeps, ↓State.downlink_keeps, and_self, ↓ite_keeps, ite_self, ↓State.modBond_keeps, ↓State.modTime_keeps]; done) | split | intro _)

theorem State.fwSend_eq (s : State) (m : Manifest) (r : EpRec) (s' : State) (x' : Nat × List Effect) (he : (State.fwSend s m r) = (s', x')) :
    s'.pending = s.pending ∧ s'.bond.lifecycle = s.bond.lifecycle ∧ s'.time.ns = s.time.ns := by
  have hk := State.fwSend_keeps s m r; rw [he] at hk; exact hk

theorem execFwPushSend_keeps (slot : Nat) (s : State) :
    ∀ s', (execFwPushSend slot s) = .next s' → s'.pending = s.pending ∧ s'.bond.lifecycle = s.bond.lifecycle ∧ s'.time.ns = s.time.ns := by
  rw [execFwPushSend.eq_def]; try dsimp only
  repeat' (first | with_reducible exact out_keeps ⟨rfl, rfl, rfl⟩ | with_reducible refine out_keeps ?_ | with_reducible refine out_both ?_ ?_ | (solve | simp only [↓State.fwSend_keeps, and_self, ↓ite_keeps, ite_self, ↓State.modBond_keeps, ↓State.modTime_keeps]) | with_reducible exact ⟨rfl, rfl, rfl⟩ | refine State.onPush_keeps _ _ _ _ ?_ _ | (focus have hk := State.fwSend_eq _ _ _ _ _ (by assumption); simp only [↓hk, ↓State.fwSend_keeps, and_self, ↓ite_keeps, ite_self, ↓State.modBond_keeps, ↓State.modTime_keeps]; done) | split | intro _)

theorem State.fwSet_keeps (s : State) (m : Manifest) (r : EpRec) :
    (State.fwSet s m r).1.pending = s.pending ∧ (State.fwSet s m r).1.bond.lifecycle = s.bond.lifecycle ∧ (State.fwSet s m r).1.time.ns = s.time.ns := by
  rw [State.fwSet.eq_def]; repeat' (first | (solve | simp only [and_self, ↓ite_keeps, ite_self, ↓State.modBond_keeps, ↓State.modTime_keeps]) | with_reducible exact ⟨rfl, rfl, rfl⟩ | split)

theorem State.fwSet_eq (s : State) (m : Manifest) (r : EpRec) (s' : State) (x' : Nat × List Effect) (he : (State.fwSet s m r) = (s', x')) :
    s'.pending = s.pending ∧ s'.bond.lifecycle = s.bond.lifecycle ∧ s'.time.ns = s.time.ns := by
  have hk := State.fwSet_keeps s m r; rw [he] at hk; exact hk

theorem execFwPushSet_keeps (slot : Nat) (s : State) :
    ∀ s', (execFwPushSet slot s) = .next s' → s'.pending = s.pending ∧ s'.bond.lifecycle = s.bond.lifecycle ∧ s'.time.ns = s.time.ns := by
  rw [execFwPushSet.eq_def]; try dsimp only
  repeat' (first | with_reducible exact out_keeps ⟨rfl, rfl, rfl⟩ | with_reducible refine out_keeps ?_ | with_reducible refine out_both ?_ ?_ | (solve | simp only [↓State.fwSet_keeps, and_self, ↓ite_keeps, ite_self, ↓State.modBond_keeps, ↓State.modTime_keeps]) | with_reducible exact ⟨rfl, rfl, rfl⟩ | refine State.onPush_keeps _ _ _ _ ?_ _ | (focus have hk := State.fwSet_eq _ _ _ _ _ (by assumption); simp only [↓hk, ↓State.fwSet_keeps, and_self, ↓ite_keeps, ite_self, ↓State.modBond_keeps, ↓State.modTime_keeps]; done) | split | intro _)

theorem execFwPushStall_keeps (epx : Nat) (s : State) :
    ∀ s', (execFwPushStall epx s) = .next s' → s'.pending = s.pending ∧ s'.bond.lifecycle = s.bond.lifecycle ∧ s'.time.ns = s.time.ns := by
  rw [execFwPushStall.eq_def]; repeat' (first | with_reducible exact out_keeps ⟨rfl, rfl, rfl⟩ | with_reducible refine out_keeps ?_ | with_reducible refine out_both ?_ ?_ | (solve | simp only [↓State.makeSet_keeps, and_self]) | split)

end Sys2Proof.Machine
end

