-- ==== Sys2Proof/Laws/KeepCraft.lean ====
section
/-!
SUPPORT. What the operations of Machine/Craft.lean leave alone: the queue, the life cycle and the timebase.
-/
set_option linter.unusedSimpArgs false

namespace Sys2Proof.Machine

theorem State.orderReport_keeps (s : State) (id c res lane : Nat) :
    (State.orderReport s id c res lane).pending = s.pending ∧ (State.orderReport s id c res lane).bond.lifecycle = s.bond.lifecycle ∧ (State.orderReport s id c res lane).time.ns = s.time.ns := by
  rw [State.orderReport]; simp only [↓State.make_keeps, and_self]

theorem State.dropOrder_keeps (s : State) (x : CraftTx) :
    (State.dropOrder s x).pending = s.pending ∧ (State.dropOrder s x).bond.lifecycle = s.bond.lifecycle ∧ (State.dropOrder s x).time.ns = s.time.ns := by
  rw [State.dropOrder]; simp only [↓State.count_keeps, ↓State.event_keeps, ↓State.orderReport_keeps, ↓State.raise_keeps, and_self, ↓ite_fst, ↓ite_keeps, ↓State.modBond_keeps, ↓State.modTime_keeps, ↓foldl_pending, ↓foldl_life, ↓foldl_ns, ↓foldl_fst_pending, ↓foldl_fst_life, ↓foldl_fst_ns, ite_self, implies_true]

theorem State.craftQueue_keeps (s : State) (c : Nat) (body : Bytes) (orders : List (Nat × Nat)) :
    (State.craftQueue s c body orders).pending = s.pending ∧ (State.craftQueue s c body orders).bond.lifecycle = s.bond.lifecycle ∧ (State.craftQueue s c body orders).time.ns = s.time.ns := by
  rw [State.craftQueue.eq_def]; try dsimp only
  repeat' (first | (solve | simp only [↓State.dropOrder_keeps, ↓State.modCraft_keeps, and_self, ↓ite_fst, ↓ite_keeps, ↓State.modBond_keeps, ↓State.modTime_keeps, ↓foldl_pending, ↓foldl_life, ↓foldl_ns, ↓foldl_fst_pending, ↓foldl_fst_life, ↓foldl_fst_ns, ite_self, implies_true]) | with_reducible exact ⟨rfl, rfl, rfl⟩ | refine ⟨foldl_pending _ _ _ ?_, foldl_life _ _ _ ?_, foldl_ns _ _ _ ?_⟩ | split | intro _)

theorem State.onLane_keeps (s : State) (n op : Nat) (f : Manifest → State) (hf : ∀ (a0 : Manifest), (f a0).pending = s.pending ∧ (f a0).bond.lifecycle = s.bond.lifecycle ∧ (f a0).time.ns = s.time.ns) :
    ∀ s', (State.onLane s n op f) = .next s' → s'.pending = s.pending ∧ s'.bond.lifecycle = s.bond.lifecycle ∧ s'.time.ns = s.time.ns := by
  rw [State.onLane.eq_def]; try dsimp only
  repeat' (first | with_reducible exact out_keeps ⟨rfl, rfl, rfl⟩ | with_reducible refine out_keeps ?_ | with_reducible refine out_both ?_ ?_ | (solve | simp only [↓State.complete_keeps, and_self, ↓ite_keeps, ite_self, ↓State.modBond_keeps, ↓State.modTime_keeps]) | with_reducible exact ⟨rfl, rfl, rfl⟩ | refine State.onKind_keeps _ _ _ _ ?_ _ | exact hf _ | (focus have hk := hf; simp only [↓hk, ↓State.complete_keeps, and_self, ↓ite_keeps, ite_self, ↓State.modBond_keeps, ↓State.modTime_keeps]; done) | split | intro _)

theorem execLaneStatus_keeps (slot : Nat) (s : State) :
    ∀ s', (execLaneStatus slot s) = .next s' → s'.pending = s.pending ∧ s'.bond.lifecycle = s.bond.lifecycle ∧ s'.time.ns = s.time.ns := by
  rw [execLaneStatus.eq_def]; try dsimp only
  repeat' (first | with_reducible exact out_keeps ⟨rfl, rfl, rfl⟩ | with_reducible refine out_keeps ?_ | with_reducible refine out_both ?_ ?_ | (solve | simp only [↓State.complete_keeps, and_self, ↓ite_keeps, ite_self, ↓State.modBond_keeps, ↓State.modTime_keeps]) | with_reducible exact ⟨rfl, rfl, rfl⟩ | refine State.onLane_keeps _ _ _ _ ?_ _ | split | intro _)

theorem execLaneOrder_keeps (slot : Nat) (s : State) :
    ∀ s', (execLaneOrder slot s) = .next s' → s'.pending = s.pending ∧ s'.bond.lifecycle = s.bond.lifecycle ∧ s'.time.ns = s.time.ns := by
  rw [execLaneOrder.eq_def]; try dsimp only
  repeat' (first | with_reducible exact out_keeps ⟨rfl, rfl, rfl⟩ | with_reducible refine out_keeps ?_ | with_reducible refine out_both ?_ ?_ | (solve | simp only [↓State.complete_keeps, and_self, ↓ite_keeps, ite_self, ↓State.modBond_keeps, ↓State.modTime_keeps]) | with_reducible exact ⟨rfl, rfl, rfl⟩ | refine State.onLane_keeps _ _ _ _ ?_ _ | split | intro _)

theorem execLaneIssue_keeps (slot : Nat) (s : State) :
    ∀ s', (execLaneIssue slot s) = .next s' → s'.pending = s.pending ∧ s'.bond.lifecycle = s.bond.lifecycle ∧ s'.time.ns = s.time.ns := by
  rw [execLaneIssue.eq_def]; try dsimp only
  repeat' (first | with_reducible exact out_keeps ⟨rfl, rfl, rfl⟩ | with_reducible refine out_keeps ?_ | with_reducible refine out_both ?_ ?_ | (solve | simp only [↓State.complete_keeps, and_self, ↓ite_keeps, ite_self, ↓State.modBond_keeps, ↓State.modTime_keeps]) | with_reducible exact ⟨rfl, rfl, rfl⟩ | refine State.onLane_keeps _ _ _ _ ?_ _ | split | intro _)

theorem execLaneTask_keeps (slot : Nat) (s : State) :
    ∀ s', (execLaneTask slot s) = .next s' → s'.pending = s.pending ∧ s'.bond.lifecycle = s.bond.lifecycle ∧ s'.time.ns = s.time.ns := by
  rw [execLaneTask.eq_def]; try dsimp only
  repeat' (first | with_reducible exact out_keeps ⟨rfl, rfl, rfl⟩ | with_reducible refine out_keeps ?_ | with_reducible refine out_both ?_ ?_ | (solve | simp only [↓State.complete_keeps, and_self, ↓ite_keeps, ite_self, ↓State.modBond_keeps, ↓State.modTime_keeps]) | with_reducible exact ⟨rfl, rfl, rfl⟩ | refine State.onLane_keeps _ _ _ _ ?_ _ | split | intro _)

theorem execLaneAllot_keeps (slot : Nat) (s : State) :
    ∀ s', (execLaneAllot slot s) = .next s' → s'.pending = s.pending ∧ s'.bond.lifecycle = s.bond.lifecycle ∧ s'.time.ns = s.time.ns := by
  rw [execLaneAllot.eq_def]; try dsimp only
  repeat' (first | with_reducible exact out_keeps ⟨rfl, rfl, rfl⟩ | with_reducible refine out_keeps ?_ | with_reducible refine out_both ?_ ?_ | (solve | simp only [↓State.complete_keeps, and_self, ↓ite_keeps, ite_self, ↓State.modBond_keeps, ↓State.modTime_keeps]) | with_reducible exact ⟨rfl, rfl, rfl⟩ | refine State.onLane_keeps _ _ _ _ ?_ _ | split | intro _)

theorem State.setBase_keeps (s : State) (p : List Int) :
    (State.setBase s p).pending = s.pending ∧ (State.setBase s p).bond.lifecycle = s.bond.lifecycle ∧ (State.setBase s p).time.ns = s.time.ns := by
  rw [State.setBase]; simp only [↓State.modCraft_keeps, ↓State.raise_keeps, ↓State.set_keeps, ↓State.setFld_keeps, and_self]

theorem State.baseStart_keeps (s : State) :
    (State.baseStart s).pending = s.pending ∧ (State.baseStart s).bond.lifecycle = s.bond.lifecycle ∧ (State.baseStart s).time.ns = s.time.ns := by
  rw [State.baseStart.eq_def]; repeat' (first | (solve | simp only [↓State.setBase_keeps, ↓State.setFld_keeps, and_self, ↓ite_keeps, ite_self, ↓State.modBond_keeps, ↓State.modTime_keeps]) | with_reducible exact ⟨rfl, rfl, rfl⟩ | split)

theorem execBaseSurveyDone_keeps (s : State) :
    ∀ s', (execBaseSurveyDone s) = .next s' → s'.pending = s.pending ∧ s'.bond.lifecycle = s.bond.lifecycle ∧ s'.time.ns = s.time.ns := by
  rw [execBaseSurveyDone.eq_def]; repeat' (first | with_reducible exact out_keeps ⟨rfl, rfl, rfl⟩ | with_reducible refine out_keeps ?_ | with_reducible refine out_both ?_ ?_ | (solve | simp only [↓State.modCraft_keeps, ↓State.setBase_keeps, and_self]) | split)

theorem execGnssEpochObservations_keeps (obs : Bytes) (s : State) :
    ∀ s', (execGnssEpochObservations obs s) = .next s' → s'.pending = s.pending ∧ s'.bond.lifecycle = s.bond.lifecycle ∧ s'.time.ns = s.time.ns := by
  rw [execGnssEpochObservations.eq_def]; repeat' (first | with_reducible exact out_keeps ⟨rfl, rfl, rfl⟩ | with_reducible refine out_keeps ?_ | with_reducible refine out_both ?_ ?_ | (solve | simp only [↓State.fifoPut_keeps, and_self]) | split)

theorem execRtkEpoch_keeps (slot : Nat) (s : State) :
    ∀ s', (execRtkEpoch slot s) = .next s' → s'.pending = s.pending ∧ s'.bond.lifecycle = s.bond.lifecycle ∧ s'.time.ns = s.time.ns := by
  rw [execRtkEpoch.eq_def]; try dsimp only
  repeat' (first | with_reducible exact out_keeps ⟨rfl, rfl, rfl⟩ | with_reducible refine out_keeps ?_ | with_reducible refine out_both ?_ ?_ | (solve | simp only [↓State.complete_keeps, and_self, ↓ite_keeps, ite_self, ↓State.modBond_keeps, ↓State.modTime_keeps]) | with_reducible exact ⟨rfl, rfl, rfl⟩ | refine State.onKind_keeps _ _ _ _ ?_ _ | split | intro _)

theorem State.commitCorr_keeps (s : State) (epoch ne : Nat) (data : Bytes) :
    (State.commitCorr s epoch ne data).pending = s.pending ∧ (State.commitCorr s epoch ne data).bond.lifecycle = s.bond.lifecycle ∧ (State.commitCorr s epoch ne data).time.ns = s.time.ns := by
  rw [State.commitCorr]; simp only [↓State.count_keeps, ↓State.modCraft_keeps, and_self, ↓ite_keeps, ite_self, ↓State.modBond_keeps, ↓State.modTime_keeps]

theorem State.wideSend_keeps (s : State) (p cls t ftype : Nat) (seq : Option Nat) (ack : Option Nat) (body : Bytes) :
    (State.wideSend s p cls t ftype seq ack body).1.pending = s.pending ∧ (State.wideSend s p cls t ftype seq ack body).1.bond.lifecycle = s.bond.lifecycle ∧ (State.wideSend s p cls t ftype seq ack body).1.time.ns = s.time.ns := by
  rw [State.wideSend]; simp only [↓State.dutySend_keeps, ↓State.modPort_keeps, ↓State.transmit_keeps, and_self, ↓ite_fst, ↓ite_keeps, ↓State.modBond_keeps, ↓State.modTime_keeps, ↓foldl_pending, ↓foldl_life, ↓foldl_ns, ↓foldl_fst_pending, ↓foldl_fst_life, ↓foldl_fst_ns, ite_self, implies_true]

theorem State.wideSend_eq (s : State) (p cls t ftype : Nat) (seq : Option Nat) (ack : Option Nat) (body : Bytes) (s' : State) (x' : Bool) (he : (State.wideSend s p cls t ftype seq ack body) = (s', x')) :
    s'.pending = s.pending ∧ s'.bond.lifecycle = s.bond.lifecycle ∧ s'.time.ns = s.time.ns := by
  have hk := State.wideSend_keeps s p cls t ftype seq ack body; rw [he] at hk; exact hk

theorem State.dlSend_keeps (s : State) (p t ftype : Nat) (seq : Option Nat) (body : Bytes) (what : DlWhat) :
    (State.dlSend s p t ftype seq body what).1.pending = s.pending ∧ (State.dlSend s p t ftype seq body what).1.bond.lifecycle = s.bond.lifecycle ∧ (State.dlSend s p t ftype seq body what).1.time.ns = s.time.ns := by
  first | rw [State.dlSend] | rw [State.dlSend.eq_def]
  try dsimp only
  repeat' (first | (simp only [↓State.modCraft_keeps, ↓State.wideSend_keeps, and_self, ↓ite_fst, ↓ite_keeps, ↓State.modBond_keeps, ↓State.modTime_keeps, ↓foldl_pending, ↓foldl_life, ↓foldl_ns, ↓foldl_fst_pending, ↓foldl_fst_life, ↓foldl_fst_ns, ite_self, implies_true]; done) | with_reducible exact ⟨rfl, rfl, rfl⟩ | (grind only [State.modCraft_keeps, State.wideSend_keeps, ite_keeps, State.modBond_keeps, State.modTime_keeps]; done) | (have hk := State.wideSend_eq _ _ _ _ _ _ _ _ _ _ (by assumption); simp only [↓hk, ↓State.modCraft_keeps, ↓State.wideSend_keeps, and_self, ↓ite_fst, ↓ite_keeps, ↓State.modBond_keeps, ↓State.modTime_keeps, ↓foldl_pending, ↓foldl_life, ↓foldl_ns, ↓foldl_fst_pending, ↓foldl_fst_life, ↓foldl_fst_ns, ite_self, implies_true]; done) | (have hk := State.wideSend_eq _ _ _ _ _ _ _ _ _ _ (by assumption); simp only [↓hk, ↓State.modCraft_keeps, ↓State.wideSend_keeps, and_self, ↓ite_fst, ↓ite_keeps, ↓State.modBond_keeps, ↓State.modTime_keeps, ↓foldl_pending, ↓foldl_life, ↓foldl_ns, ↓foldl_fst_pending, ↓foldl_fst_life, ↓foldl_fst_ns, ite_self, implies_true]) | refine ⟨((foldl_pending _ _ _ ?_).trans ?_), ((foldl_life _ _ _ ?_).trans ?_), ((foldl_ns _ _ _ ?_).trans ?_)⟩ | refine ⟨((foldl_fst_pending _ _ _ ?_).trans ?_), ((foldl_fst_life _ _ _ ?_).trans ?_), ((foldl_fst_ns _ _ _ ?_).trans ?_)⟩ | refine ((foldl_pending _ _ _ ?_).trans ?_) | refine ((foldl_life _ _ _ ?_).trans ?_) | refine ((foldl_ns _ _ _ ?_).trans ?_) | refine ((foldl_fst_pending _ _ _ ?_).trans ?_) | refine ((foldl_fst_life _ _ _ ?_).trans ?_) | refine ((foldl_fst_ns _ _ _ ?_).trans ?_) | split | intro _ | simp only [↓State.modCraft_keeps, ↓State.wideSend_keeps, and_self, ↓ite_fst, ↓ite_keeps, ↓State.modBond_keeps, ↓State.modTime_keeps, ↓foldl_pending, ↓foldl_life, ↓foldl_ns, ↓foldl_fst_pending, ↓foldl_fst_life, ↓foldl_fst_ns, ite_self, implies_true])

theorem State.dlSend_eq (s : State) (p t ftype : Nat) (seq : Option Nat) (body : Bytes) (what : DlWhat) (s' : State) (x' : Bool) (he : (State.dlSend s p t ftype seq body what) = (s', x')) :
    s'.pending = s.pending ∧ s'.bond.lifecycle = s.bond.lifecycle ∧ s'.time.ns = s.time.ns := by
  have hk := State.dlSend_keeps s p t ftype seq body what; rw [he] at hk; exact hk

theorem State.judgeAge_keeps (s : State) :
    (State.judgeAge s).pending = s.pending ∧ (State.judgeAge s).bond.lifecycle = s.bond.lifecycle ∧ (State.judgeAge s).time.ns = s.time.ns := by
  rw [State.judgeAge]; simp only [↓State.modCraft_keeps, ↓State.raise_keeps, and_self, ↓ite_keeps, ite_self, ↓State.modBond_keeps, ↓State.modTime_keeps]

theorem State.craftManifests_keeps (s : State) (p n : Nat) :
    (State.craftManifests s p n).pending = s.pending ∧ (State.craftManifests s p n).bond.lifecycle = s.bond.lifecycle ∧ (State.craftManifests s p n).time.ns = s.time.ns := by
  rw [State.craftManifests]; simp only [↓State.make_keeps, and_self, ↓ite_fst, ↓ite_keeps, ↓State.modBond_keeps, ↓State.modTime_keeps, ↓foldl_pending, ↓foldl_life, ↓foldl_ns, ↓foldl_fst_pending, ↓foldl_fst_life, ↓foldl_fst_ns, ite_self, implies_true]

theorem execCraftSuperframeStart_keeps (s : State) :
    ∀ s', (execCraftSuperframeStart s) = .next s' → s'.pending = s.pending ∧ s'.bond.lifecycle = s.bond.lifecycle ∧ s'.time.ns = s.time.ns := by
  rw [execCraftSuperframeStart.eq_def]; repeat' (first | with_reducible exact out_keeps ⟨rfl, rfl, rfl⟩ | with_reducible refine out_keeps ?_ | with_reducible refine out_both ?_ ?_ | (solve | simp only [↓State.craftManifests_keeps, ↓State.judgeAge_keeps, ↓State.modCraft_keeps, ↓State.modPort_keeps, ↓State.noteBeacon_keeps, ↓State.raise_keeps, ↓State.set_keeps, ↓State.stopEval_keeps, ↓State.wideSend_keeps, and_self]) | split)

theorem State.sendQueue_keeps (s : State) (p t : Nat) (l : List CraftTx) :
    (State.sendQueue s p t l).1.pending = s.pending ∧ (State.sendQueue s p t l).1.bond.lifecycle = s.bond.lifecycle ∧ (State.sendQueue s p t l).1.time.ns = s.time.ns := by
  induction l generalizing s t with
  | nil => rw [State.sendQueue]; exact ⟨rfl, rfl, rfl⟩
  | cons x rest ih =>
    rw [State.sendQueue]; try dsimp only
    split
    · exact K3.trans (ih _ _) (State.dropOrder_keeps ..)
    · split
      · exact ih _ _
      · have hd := State.dlSend_keeps s p t (if x.ack then 0xE else 0xB) x.seq x.body (.cell x)
        generalize s.dlSend p t (if x.ack then 0xE else 0xB) x.seq x.body (.cell x) = o at hd ⊢
        have hr := K3.trans (ih o.1 (if o.2 then t + wideAirtime x.body.length + 40 else t)) hd
        split
        · exact hr
        · split <;> exact hr

theorem State.sendQueue_eq (s : State) (p t : Nat) (l : List CraftTx) (s' : State) (x : List CraftTx)
    (h : State.sendQueue s p t l = (s', x)) : s'.pending = s.pending ∧ s'.bond.lifecycle = s.bond.lifecycle ∧ s'.time.ns = s.time.ns := by
  have hk := State.sendQueue_keeps s p t l; rw [h] at hk; exact hk


theorem State.sendCorr_keeps (s : State) (p t : Nat) :
    (State.sendCorr s p t).1.pending = s.pending ∧ (State.sendCorr s p t).1.bond.lifecycle = s.bond.lifecycle ∧ (State.sendCorr s p t).1.time.ns = s.time.ns := by
  rw [State.sendCorr.eq_def]; repeat' (first | (solve | simp only [↓State.count_keeps, ↓State.dlSend_keeps, ↓State.modCraft_keeps, and_self, ↓ite_fst, ↓ite_keeps, ↓State.modBond_keeps, ↓State.modTime_keeps, ↓foldl_pending, ↓foldl_life, ↓foldl_ns, ↓foldl_fst_pending, ↓foldl_fst_life, ↓foldl_fst_ns, ite_self, implies_true]) | with_reducible exact ⟨rfl, rfl, rfl⟩ | split)

theorem State.sendCorr_eq (s : State) (p t : Nat) (s' : State) (x' : Nat) (he : (State.sendCorr s p t) = (s', x')) :
    s'.pending = s.pending ∧ s'.bond.lifecycle = s.bond.lifecycle ∧ s'.time.ns = s.time.ns := by
  have hk := State.sendCorr_keeps s p t; rw [he] at hk; exact hk

theorem State.sendStop_keeps (s : State) (p t : Nat) :
    (State.sendStop s p t).1.pending = s.pending ∧ (State.sendStop s p t).1.bond.lifecycle = s.bond.lifecycle ∧ (State.sendStop s p t).1.time.ns = s.time.ns := by
  rw [State.sendStop]; simp only [↓State.count_keeps, ↓State.wideSend_keeps, and_self, ↓ite_keeps, ite_self, ↓State.modBond_keeps, ↓State.modTime_keeps]

theorem State.sendStop_eq (s : State) (p t : Nat) (s' : State) (x' : Bool) (he : (State.sendStop s p t) = (s', x')) :
    s'.pending = s.pending ∧ s'.bond.lifecycle = s.bond.lifecycle ∧ s'.time.ns = s.time.ns := by
  have hk := State.sendStop_keeps s p t; rw [he] at hk; exact hk

theorem execCraftDownlink_keeps (s : State) :
    ∀ s', (execCraftDownlink s) = .next s' → s'.pending = s.pending ∧ s'.bond.lifecycle = s.bond.lifecycle ∧ s'.time.ns = s.time.ns := by
  rw [execCraftDownlink.eq_def]; repeat' (first | with_reducible exact out_keeps ⟨rfl, rfl, rfl⟩ | with_reducible refine out_keeps ?_ | with_reducible refine out_both ?_ ?_ | (solve | simp only [↓State.modCraft_keeps, ↓State.modPort_keeps, ↓State.sendCorr_keeps, ↓State.sendQueue_keeps, ↓State.sendStop_keeps, and_self]) | split)

theorem State.uncharge_keeps (s : State) (b sec t : Nat) :
    (State.uncharge s b sec t).pending = s.pending ∧ (State.uncharge s b sec t).bond.lifecycle = s.bond.lifecycle ∧ (State.uncharge s b sec t).time.ns = s.time.ns := by
  first | rw [State.uncharge] | rw [State.uncharge.eq_def]
  try dsimp only
  repeat' (first | (simp only [↓State.modRadio_keeps, and_self, ↓ite_fst, ↓ite_keeps, ↓State.modBond_keeps, ↓State.modTime_keeps, ↓foldl_pending, ↓foldl_life, ↓foldl_ns, ↓foldl_fst_pending, ↓foldl_fst_life, ↓foldl_fst_ns, ite_self, implies_true]; done) | with_reducible exact ⟨rfl, rfl, rfl⟩ | (grind only [State.modRadio_keeps, ite_keeps, State.modBond_keeps, State.modTime_keeps]; done) | refine ⟨((foldl_pending _ _ _ ?_).trans ?_), ((foldl_life _ _ _ ?_).trans ?_), ((foldl_ns _ _ _ ?_).trans ?_)⟩ | refine ⟨((foldl_fst_pending _ _ _ ?_).trans ?_), ((foldl_fst_life _ _ _ ?_).trans ?_), ((foldl_fst_ns _ _ _ ?_).trans ?_)⟩ | refine ((foldl_pending _ _ _ ?_).trans ?_) | refine ((foldl_life _ _ _ ?_).trans ?_) | refine ((foldl_ns _ _ _ ?_).trans ?_) | refine ((foldl_fst_pending _ _ _ ?_).trans ?_) | refine ((foldl_fst_life _ _ _ ?_).trans ?_) | refine ((foldl_fst_ns _ _ _ ?_).trans ?_) | split | intro _ | simp only [↓State.modRadio_keeps, and_self, ↓ite_fst, ↓ite_keeps, ↓State.modBond_keeps, ↓State.modTime_keeps, ↓foldl_pending, ↓foldl_life, ↓foldl_ns, ↓foldl_fst_pending, ↓foldl_fst_life, ↓foldl_fst_ns, ite_self, implies_true])

theorem State.withdraw_keeps (s : State) (p : Nat) (f : DlFrame) :
    (State.withdraw s p f).pending = s.pending ∧ (State.withdraw s p f).bond.lifecycle = s.bond.lifecycle ∧ (State.withdraw s p f).time.ns = s.time.ns := by
  first | rw [State.withdraw] | rw [State.withdraw.eq_def]
  try dsimp only
  repeat' (first | (simp only [↓State.modCraft_keeps, ↓State.modPort_keeps, ↓State.set_keeps, ↓State.uncharge_keeps, and_self, ↓ite_fst, ↓ite_keeps, ↓State.modBond_keeps, ↓State.modTime_keeps, ↓foldl_pending, ↓foldl_life, ↓foldl_ns, ↓foldl_fst_pending, ↓foldl_fst_life, ↓foldl_fst_ns, ite_self, implies_true]; done) | with_reducible exact ⟨rfl, rfl, rfl⟩ | (grind only [State.modCraft_keeps, State.modPort_keeps, State.set_keeps, State.uncharge_keeps, ite_keeps, State.modBond_keeps, State.modTime_keeps]; done) | refine ⟨((foldl_pending _ _ _ ?_).trans ?_), ((foldl_life _ _ _ ?_).trans ?_), ((foldl_ns _ _ _ ?_).trans ?_)⟩ | refine ⟨((foldl_fst_pending _ _ _ ?_).trans ?_), ((foldl_fst_life _ _ _ ?_).trans ?_), ((foldl_fst_ns _ _ _ ?_).trans ?_)⟩ | refine ((foldl_pending _ _ _ ?_).trans ?_) | refine ((foldl_life _ _ _ ?_).trans ?_) | refine ((foldl_ns _ _ _ ?_).trans ?_) | refine ((foldl_fst_pending _ _ _ ?_).trans ?_) | refine ((foldl_fst_life _ _ _ ?_).trans ?_) | refine ((foldl_fst_ns _ _ _ ?_).trans ?_) | split | intro _ | simp only [↓State.modCraft_keeps, ↓State.modPort_keeps, ↓State.set_keeps, ↓State.uncharge_keeps, and_self, ↓ite_fst, ↓ite_keeps, ↓State.modBond_keeps, ↓State.modTime_keeps, ↓foldl_pending, ↓foldl_life, ↓foldl_ns, ↓foldl_fst_pending, ↓foldl_fst_life, ↓foldl_fst_ns, ite_self, implies_true])

theorem State.withdrawRest_keeps (s : State) (p : Nat) :
    (State.withdrawRest s p).pending = s.pending ∧ (State.withdrawRest s p).bond.lifecycle = s.bond.lifecycle ∧ (State.withdrawRest s p).time.ns = s.time.ns := by
  first | rw [State.withdrawRest] | rw [State.withdrawRest.eq_def]
  try dsimp only
  repeat' (first | (simp only [↓State.modCraft_keeps, ↓State.withdraw_keeps, and_self, ↓ite_fst, ↓ite_keeps, ↓State.modBond_keeps, ↓State.modTime_keeps, ↓foldl_pending, ↓foldl_life, ↓foldl_ns, ↓foldl_fst_pending, ↓foldl_fst_life, ↓foldl_fst_ns, ite_self, implies_true]; done) | with_reducible exact ⟨rfl, rfl, rfl⟩ | (grind only [State.modCraft_keeps, State.withdraw_keeps, ite_keeps, State.modBond_keeps, State.modTime_keeps]; done) | refine ⟨((foldl_pending _ _ _ ?_).trans ?_), ((foldl_life _ _ _ ?_).trans ?_), ((foldl_ns _ _ _ ?_).trans ?_)⟩ | refine ⟨((foldl_fst_pending _ _ _ ?_).trans ?_), ((foldl_fst_life _ _ _ ?_).trans ?_), ((foldl_fst_ns _ _ _ ?_).trans ?_)⟩ | refine ((foldl_pending _ _ _ ?_).trans ?_) | refine ((foldl_life _ _ _ ?_).trans ?_) | refine ((foldl_ns _ _ _ ?_).trans ?_) | refine ((foldl_fst_pending _ _ _ ?_).trans ?_) | refine ((foldl_fst_life _ _ _ ?_).trans ?_) | refine ((foldl_fst_ns _ _ _ ?_).trans ?_) | split | intro _ | simp only [↓State.modCraft_keeps, ↓State.withdraw_keeps, and_self, ↓ite_fst, ↓ite_keeps, ↓State.modBond_keeps, ↓State.modTime_keeps, ↓foldl_pending, ↓foldl_life, ↓foldl_ns, ↓foldl_fst_pending, ↓foldl_fst_life, ↓foldl_fst_ns, ite_self, implies_true])

theorem State.stopInDownlink_keeps (old s : State) :
    (State.stopInDownlink old s).pending = s.pending ∧ (State.stopInDownlink old s).bond.lifecycle = s.bond.lifecycle ∧ (State.stopInDownlink old s).time.ns = s.time.ns := by
  first | rw [State.stopInDownlink] | rw [State.stopInDownlink.eq_def]
  try dsimp only
  repeat' (first | (simp only [↓State.modCraft_keeps, ↓State.modPort_keeps, ↓State.sendCorr_keeps, ↓State.sendQueue_keeps, ↓State.sendStop_keeps, ↓State.withdrawRest_keeps, and_self, ↓ite_fst, ↓ite_keeps, ↓State.modBond_keeps, ↓State.modTime_keeps, ↓foldl_pending, ↓foldl_life, ↓foldl_ns, ↓foldl_fst_pending, ↓foldl_fst_life, ↓foldl_fst_ns, ite_self, implies_true]; done) | with_reducible exact ⟨rfl, rfl, rfl⟩ | (grind only [State.modCraft_keeps, State.modPort_keeps, State.sendCorr_keeps, State.sendQueue_keeps, State.sendStop_keeps, State.withdrawRest_keeps, ite_keeps, State.modBond_keeps, State.modTime_keeps]; done) | (have hk := State.sendQueue_eq _ _ _ _ _ _ (by assumption); simp only [↓hk, ↓State.modCraft_keeps, ↓State.modPort_keeps, ↓State.sendCorr_keeps, ↓State.sendQueue_keeps, ↓State.sendStop_keeps, ↓State.withdrawRest_keeps, and_self, ↓ite_fst, ↓ite_keeps, ↓State.modBond_keeps, ↓State.modTime_keeps, ↓foldl_pending, ↓foldl_life, ↓foldl_ns, ↓foldl_fst_pending, ↓foldl_fst_life, ↓foldl_fst_ns, ite_self, implies_true]; done) | (have hk := State.sendCorr_eq _ _ _ _ _ (by assumption); simp only [↓hk, ↓State.modCraft_keeps, ↓State.modPort_keeps, ↓State.sendCorr_keeps, ↓State.sendQueue_keeps, ↓State.sendStop_keeps, ↓State.withdrawRest_keeps, and_self, ↓ite_fst, ↓ite_keeps, ↓State.modBond_keeps, ↓State.modTime_keeps, ↓foldl_pending, ↓foldl_life, ↓foldl_ns, ↓foldl_fst_pending, ↓foldl_fst_life, ↓foldl_fst_ns, ite_self, implies_true]; done) | (have hk := State.sendStop_eq _ _ _ _ _ (by assumption); simp only [↓hk, ↓State.modCraft_keeps, ↓State.modPort_keeps, ↓State.sendCorr_keeps, ↓State.sendQueue_keeps, ↓State.sendStop_keeps, ↓State.withdrawRest_keeps, and_self, ↓ite_fst, ↓ite_keeps, ↓State.modBond_keeps, ↓State.modTime_keeps, ↓foldl_pending, ↓foldl_life, ↓foldl_ns, ↓foldl_fst_pending, ↓foldl_fst_life, ↓foldl_fst_ns, ite_self, implies_true]; done) | (have hk := State.sendQueue_eq _ _ _ _ _ _ (by assumption); simp only [↓hk, ↓State.modCraft_keeps, ↓State.modPort_keeps, ↓State.sendCorr_keeps, ↓State.sendQueue_keeps, ↓State.sendStop_keeps, ↓State.withdrawRest_keeps, and_self, ↓ite_fst, ↓ite_keeps, ↓State.modBond_keeps, ↓State.modTime_keeps, ↓foldl_pending, ↓foldl_life, ↓foldl_ns, ↓foldl_fst_pending, ↓foldl_fst_life, ↓foldl_fst_ns, ite_self, implies_true]) | (have hk := State.sendCorr_eq _ _ _ _ _ (by assumption); simp only [↓hk, ↓State.modCraft_keeps, ↓State.modPort_keeps, ↓State.sendCorr_keeps, ↓State.sendQueue_keeps, ↓State.sendStop_keeps, ↓State.withdrawRest_keeps, and_self, ↓ite_fst, ↓ite_keeps, ↓State.modBond_keeps, ↓State.modTime_keeps, ↓foldl_pending, ↓foldl_life, ↓foldl_ns, ↓foldl_fst_pending, ↓foldl_fst_life, ↓foldl_fst_ns, ite_self, implies_true]) | (have hk := State.sendStop_eq _ _ _ _ _ (by assumption); simp only [↓hk, ↓State.modCraft_keeps, ↓State.modPort_keeps, ↓State.sendCorr_keeps, ↓State.sendQueue_keeps, ↓State.sendStop_keeps, ↓State.withdrawRest_keeps, and_self, ↓ite_fst, ↓ite_keeps, ↓State.modBond_keeps, ↓State.modTime_keeps, ↓foldl_pending, ↓foldl_life, ↓foldl_ns, ↓foldl_fst_pending, ↓foldl_fst_life, ↓foldl_fst_ns, ite_self, implies_true]) | refine ⟨((foldl_pending _ _ _ ?_).trans ?_), ((foldl_life _ _ _ ?_).trans ?_), ((foldl_ns _ _ _ ?_).trans ?_)⟩ | refine ⟨((foldl_fst_pending _ _ _ ?_).trans ?_), ((foldl_fst_life _ _ _ ?_).trans ?_), ((foldl_fst_ns _ _ _ ?_).trans ?_)⟩ | refine ((foldl_pending _ _ _ ?_).trans ?_) | refine ((foldl_life _ _ _ ?_).trans ?_) | refine ((foldl_ns _ _ _ ?_).trans ?_) | refine ((foldl_fst_pending _ _ _ ?_).trans ?_) | refine ((foldl_fst_life _ _ _ ?_).trans ?_) | refine ((foldl_fst_ns _ _ _ ?_).trans ?_) | split | intro _ | simp only [↓State.modCraft_keeps, ↓State.modPort_keeps, ↓State.sendCorr_keeps, ↓State.sendQueue_keeps, ↓State.sendStop_keeps, ↓State.withdrawRest_keeps, and_self, ↓ite_fst, ↓ite_keeps, ↓State.modBond_keeps, ↓State.modTime_keeps, ↓foldl_pending, ↓foldl_life, ↓foldl_ns, ↓foldl_fst_pending, ↓foldl_fst_life, ↓foldl_fst_ns, ite_self, implies_true])

theorem execStopInChange_keeps (low : Bool) (s : State) :
    ∀ s', (execStopInChange low s) = .next s' → s'.pending = s.pending ∧ s'.bond.lifecycle = s.bond.lifecycle ∧ s'.time.ns = s.time.ns := by
  rw [execStopInChange]; with_reducible refine out_keeps ?_; simp only [↓State.modCraft_keeps, ↓State.stopEval_keeps, ↓State.stopInDownlink_keeps, and_self]

theorem execStopCmdStop_keeps (s : State) :
    ∀ s', (execStopCmdStop s) = .next s' → s'.pending = s.pending ∧ s'.bond.lifecycle = s.bond.lifecycle ∧ s'.time.ns = s.time.ns := by
  rw [execStopCmdStop.eq_def]; repeat' (first | with_reducible exact out_keeps ⟨rfl, rfl, rfl⟩ | with_reducible refine out_keeps ?_ | with_reducible refine out_both ?_ ?_ | (solve | simp only [↓State.modCraft_keeps, ↓State.stopEval_keeps, ↓State.stopInDownlink_keeps, and_self]) | split)

theorem State.craftAcked_keeps (s : State) (c seq : Nat) :
    (State.craftAcked s c seq).pending = s.pending ∧ (State.craftAcked s c seq).bond.lifecycle = s.bond.lifecycle ∧ (State.craftAcked s c seq).time.ns = s.time.ns := by
  rw [State.craftAcked.eq_def]; repeat' (first | (solve | simp only [↓State.modCraft_keeps, ↓State.orderReport_keeps, and_self, ↓ite_fst, ↓ite_keeps, ↓State.modBond_keeps, ↓State.modTime_keeps, ↓foldl_pending, ↓foldl_life, ↓foldl_ns, ↓foldl_fst_pending, ↓foldl_fst_life, ↓foldl_fst_ns, ite_self, implies_true]) | with_reducible exact ⟨rfl, rfl, rfl⟩ | split)

theorem State.craftFrame_keeps (s : State) (rx : RadioRx) (ftype : Nat) :
    (State.craftFrame s rx ftype).1.pending = s.pending ∧ (State.craftFrame s rx ftype).1.bond.lifecycle = s.bond.lifecycle ∧ (State.craftFrame s rx ftype).1.time.ns = s.time.ns := by
  first | rw [State.craftFrame] | rw [State.craftFrame.eq_def]
  try dsimp only
  repeat' (first | (simp only [↓State.radioHear_keeps, ↓State.unslotted_keeps, and_self, ↓ite_fst, ↓ite_keeps, ↓State.modBond_keeps, ↓State.modTime_keeps, ↓foldl_pending, ↓foldl_life, ↓foldl_ns, ↓foldl_fst_pending, ↓foldl_fst_life, ↓foldl_fst_ns, ite_self, implies_true]; done) | with_reducible exact ⟨rfl, rfl, rfl⟩ | (grind only [State.radioHear_keeps, State.unslotted_keeps, ite_keeps, State.modBond_keeps, State.modTime_keeps]; done) | (have hk := State.radioHear_eq _ _ _ _ _ (by assumption); simp only [↓hk, ↓State.radioHear_keeps, ↓State.unslotted_keeps, and_self, ↓ite_fst, ↓ite_keeps, ↓State.modBond_keeps, ↓State.modTime_keeps, ↓foldl_pending, ↓foldl_life, ↓foldl_ns, ↓foldl_fst_pending, ↓foldl_fst_life, ↓foldl_fst_ns, ite_self, implies_true]; done) | (have hk := State.radioHear_eq _ _ _ _ _ (by assumption); simp only [↓hk, ↓State.radioHear_keeps, ↓State.unslotted_keeps, and_self, ↓ite_fst, ↓ite_keeps, ↓State.modBond_keeps, ↓State.modTime_keeps, ↓foldl_pending, ↓foldl_life, ↓foldl_ns, ↓foldl_fst_pending, ↓foldl_fst_life, ↓foldl_fst_ns, ite_self, implies_true]) | refine ⟨((foldl_pending _ _ _ ?_).trans ?_), ((foldl_life _ _ _ ?_).trans ?_), ((foldl_ns _ _ _ ?_).trans ?_)⟩ | refine ⟨((foldl_fst_pending _ _ _ ?_).trans ?_), ((foldl_fst_life _ _ _ ?_).trans ?_), ((foldl_fst_ns _ _ _ ?_).trans ?_)⟩ | refine ((foldl_pending _ _ _ ?_).trans ?_) | refine ((foldl_life _ _ _ ?_).trans ?_) | refine ((foldl_ns _ _ _ ?_).trans ?_) | refine ((foldl_fst_pending _ _ _ ?_).trans ?_) | refine ((foldl_fst_life _ _ _ ?_).trans ?_) | refine ((foldl_fst_ns _ _ _ ?_).trans ?_) | split | intro _ | simp only [↓State.radioHear_keeps, ↓State.unslotted_keeps, and_self, ↓ite_fst, ↓ite_keeps, ↓State.modBond_keeps, ↓State.modTime_keeps, ↓foldl_pending, ↓foldl_life, ↓foldl_ns, ↓foldl_fst_pending, ↓foldl_fst_life, ↓foldl_fst_ns, ite_self, implies_true])

theorem State.craftFrame_eq (s : State) (rx : RadioRx) (ftype : Nat) (s' : State) (x' : Option (Nat × RadioHeard)) (he : (State.craftFrame s rx ftype) = (s', x')) :
    s'.pending = s.pending ∧ s'.bond.lifecycle = s.bond.lifecycle ∧ s'.time.ns = s.time.ns := by
  have hk := State.craftFrame_keeps s rx ftype; rw [he] at hk; exact hk

theorem execCStatusReceived_keeps (k : Nat) (rx : RadioRx) (s : State) :
    ∀ s', (execCStatusReceived k rx s) = .next s' → s'.pending = s.pending ∧ s'.bond.lifecycle = s.bond.lifecycle ∧ s'.time.ns = s.time.ns := by
  rw [execCStatusReceived.eq_def]; try dsimp only
  repeat' (first | with_reducible exact out_keeps ⟨rfl, rfl, rfl⟩ | with_reducible refine out_keeps ?_ | with_reducible refine out_both ?_ ?_ | (solve | simp only [↓State.count_keeps, ↓State.craftAcked_keeps, ↓State.craftFrame_keeps, ↓State.fifoPut_keeps, ↓State.modCraft_keeps, ↓State.unslotted_keeps, and_self, ↓ite_keeps, ite_self, ↓State.modBond_keeps, ↓State.modTime_keeps]) | with_reducible exact ⟨rfl, rfl, rfl⟩ | (focus have hk := State.fifoPut_eq _ _ _ _ _ (by assumption); simp only [↓hk, ↓State.count_keeps, ↓State.craftAcked_keeps, ↓State.craftFrame_keeps, ↓State.fifoPut_keeps, ↓State.modCraft_keeps, ↓State.unslotted_keeps, and_self, ↓ite_keeps, ite_self, ↓State.modBond_keeps, ↓State.modTime_keeps]; done) | (focus have hk := State.craftFrame_eq _ _ _ _ _ (by assumption); simp only [↓hk, ↓State.count_keeps, ↓State.craftAcked_keeps, ↓State.craftFrame_keeps, ↓State.fifoPut_keeps, ↓State.modCraft_keeps, ↓State.unslotted_keeps, and_self, ↓ite_keeps, ite_self, ↓State.modBond_keeps, ↓State.modTime_keeps]; done) | split | intro _)

theorem execCAlarmReceived_keeps (rx : RadioRx) (s : State) :
    ∀ s', (execCAlarmReceived rx s) = .next s' → s'.pending = s.pending ∧ s'.bond.lifecycle = s.bond.lifecycle ∧ s'.time.ns = s.time.ns := by
  rw [execCAlarmReceived.eq_def]; try dsimp only
  repeat' (first | with_reducible exact out_keeps ⟨rfl, rfl, rfl⟩ | with_reducible refine out_keeps ?_ | with_reducible refine out_both ?_ ?_ | (solve | simp only [↓State.count_keeps, ↓State.craftFrame_keeps, ↓State.fifoPut_keeps, ↓State.modCraft_keeps, ↓State.modPort_keeps, ↓State.raise_keeps, ↓State.unslotted_keeps, ↓State.wideSend_keeps, and_self, ↓ite_keeps, ite_self, ↓State.modBond_keeps, ↓State.modTime_keeps]) | with_reducible exact ⟨rfl, rfl, rfl⟩ | (focus have hk := State.fifoPut_eq _ _ _ _ _ (by assumption); simp only [↓hk, ↓State.count_keeps, ↓State.craftFrame_keeps, ↓State.fifoPut_keeps, ↓State.modCraft_keeps, ↓State.modPort_keeps, ↓State.raise_keeps, ↓State.unslotted_keeps, ↓State.wideSend_keeps, and_self, ↓ite_keeps, ite_self, ↓State.modBond_keeps, ↓State.modTime_keeps]; done) | (focus have hk := State.wideSend_eq _ _ _ _ _ _ _ _ _ _ (by assumption); simp only [↓hk, ↓State.count_keeps, ↓State.craftFrame_keeps, ↓State.fifoPut_keeps, ↓State.modCraft_keeps, ↓State.modPort_keeps, ↓State.raise_keeps, ↓State.unslotted_keeps, ↓State.wideSend_keeps, and_self, ↓ite_keeps, ite_self, ↓State.modBond_keeps, ↓State.modTime_keeps]; done) | (focus have hk := State.craftFrame_eq _ _ _ _ _ (by assumption); simp only [↓hk, ↓State.count_keeps, ↓State.craftFrame_keeps, ↓State.fifoPut_keeps, ↓State.modCraft_keeps, ↓State.modPort_keeps, ↓State.raise_keeps, ↓State.unslotted_keeps, ↓State.wideSend_keeps, and_self, ↓ite_keeps, ite_self, ↓State.modBond_keeps, ↓State.modTime_keeps]; done) | split | intro _)

theorem execCraftLost_keeps (craft : Nat) (s : State) :
    ∀ s', (execCraftLost craft s) = .next s' → s'.pending = s.pending ∧ s'.bond.lifecycle = s.bond.lifecycle ∧ s'.time.ns = s.time.ns := by
  rw [execCraftLost.eq_def]; repeat' (first | with_reducible exact out_keeps ⟨rfl, rfl, rfl⟩ | with_reducible refine out_keeps ?_ | with_reducible refine out_both ?_ ?_ | (solve | simp only [↓State.make_keeps, and_self]) | split)

theorem execCraftQuery_keeps (val : Word) (s : State) :
    ∀ s', (execCraftQuery val s) = .next s' → s'.pending = s.pending ∧ s'.bond.lifecycle = s.bond.lifecycle ∧ s'.time.ns = s.time.ns := by
  rw [execCraftQuery.eq_def]; repeat' (first | with_reducible exact out_keeps ⟨rfl, rfl, rfl⟩ | with_reducible refine out_keeps ?_ | with_reducible refine out_both ?_ ?_ | (solve | simp only [↓State.set_keeps, and_self]) | split)

theorem State.craftConfig_keeps (s : State) :
    (State.craftConfig s).pending = s.pending ∧ (State.craftConfig s).bond.lifecycle = s.bond.lifecycle ∧ (State.craftConfig s).time.ns = s.time.ns := by
  rw [State.craftConfig]; simp only [↓State.set_keeps, and_self]

theorem State.craftRestart_keeps (old : State) (s : State) :
    (State.craftRestart old s).pending = s.pending ∧ (State.craftRestart old s).bond.lifecycle = s.bond.lifecycle ∧ (State.craftRestart old s).time.ns = s.time.ns := by
  first | rw [State.craftRestart] | rw [State.craftRestart.eq_def]
  try dsimp only
  repeat' (first | (simp only [↓State.baseStart_keeps, ↓State.modCraft_keeps, ↓State.setFld_keeps, ↓State.stopEval_keeps, and_self, ↓ite_fst, ↓ite_keeps, ↓State.modBond_keeps, ↓State.modTime_keeps, ↓foldl_pending, ↓foldl_life, ↓foldl_ns, ↓foldl_fst_pending, ↓foldl_fst_life, ↓foldl_fst_ns, ite_self, implies_true]; done) | with_reducible exact ⟨rfl, rfl, rfl⟩ | (grind only [State.baseStart_keeps, State.modCraft_keeps, State.setFld_keeps, State.stopEval_keeps, ite_keeps, State.modBond_keeps, State.modTime_keeps]; done) | refine ⟨((foldl_pending _ _ _ ?_).trans ?_), ((foldl_life _ _ _ ?_).trans ?_), ((foldl_ns _ _ _ ?_).trans ?_)⟩ | refine ⟨((foldl_fst_pending _ _ _ ?_).trans ?_), ((foldl_fst_life _ _ _ ?_).trans ?_), ((foldl_fst_ns _ _ _ ?_).trans ?_)⟩ | refine ((foldl_pending _ _ _ ?_).trans ?_) | refine ((foldl_life _ _ _ ?_).trans ?_) | refine ((foldl_ns _ _ _ ?_).trans ?_) | refine ((foldl_fst_pending _ _ _ ?_).trans ?_) | refine ((foldl_fst_life _ _ _ ?_).trans ?_) | refine ((foldl_fst_ns _ _ _ ?_).trans ?_) | split | intro _ | simp only [↓State.baseStart_keeps, ↓State.modCraft_keeps, ↓State.setFld_keeps, ↓State.stopEval_keeps, and_self, ↓ite_fst, ↓ite_keeps, ↓State.modBond_keeps, ↓State.modTime_keeps, ↓foldl_pending, ↓foldl_life, ↓foldl_ns, ↓foldl_fst_pending, ↓foldl_fst_life, ↓foldl_fst_ns, ite_self, implies_true])

theorem State.craftDelta_keeps (old : State) (s : State) :
    (State.craftDelta old s).pending = s.pending ∧ (State.craftDelta old s).bond.lifecycle = s.bond.lifecycle ∧ (State.craftDelta old s).time.ns = s.time.ns := by
  first | rw [State.craftDelta] | rw [State.craftDelta.eq_def]
  try dsimp only
  repeat' (first | (simp only [↓State.craftQueue_keeps, ↓State.craftRestart_keeps, ↓State.modCraft_keeps, ↓State.orderReport_keeps, and_self, ↓ite_fst, ↓ite_keeps, ↓State.modBond_keeps, ↓State.modTime_keeps, ↓foldl_pending, ↓foldl_life, ↓foldl_ns, ↓foldl_fst_pending, ↓foldl_fst_life, ↓foldl_fst_ns, ite_self, implies_true]; done) | with_reducible exact ⟨rfl, rfl, rfl⟩ | (grind only [State.craftQueue_keeps, State.craftRestart_keeps, State.modCraft_keeps, State.orderReport_keeps, ite_keeps, State.modBond_keeps, State.modTime_keeps]; done) | refine ⟨((foldl_pending _ _ _ ?_).trans ?_), ((foldl_life _ _ _ ?_).trans ?_), ((foldl_ns _ _ _ ?_).trans ?_)⟩ | refine ⟨((foldl_fst_pending _ _ _ ?_).trans ?_), ((foldl_fst_life _ _ _ ?_).trans ?_), ((foldl_fst_ns _ _ _ ?_).trans ?_)⟩ | refine ((foldl_pending _ _ _ ?_).trans ?_) | refine ((foldl_life _ _ _ ?_).trans ?_) | refine ((foldl_ns _ _ _ ?_).trans ?_) | refine ((foldl_fst_pending _ _ _ ?_).trans ?_) | refine ((foldl_fst_life _ _ _ ?_).trans ?_) | refine ((foldl_fst_ns _ _ _ ?_).trans ?_) | split | intro _ | simp only [↓State.craftQueue_keeps, ↓State.craftRestart_keeps, ↓State.modCraft_keeps, ↓State.orderReport_keeps, and_self, ↓ite_fst, ↓ite_keeps, ↓State.modBond_keeps, ↓State.modTime_keeps, ↓foldl_pending, ↓foldl_life, ↓foldl_ns, ↓foldl_fst_pending, ↓foldl_fst_life, ↓foldl_fst_ns, ite_self, implies_true])

end Sys2Proof.Machine
end

