-- ==== Sys2Proof/Laws/KeepCustomsCmd.lean ====
section
/-!
SUPPORT. What the operations of Machine/CustomsCmd.lean leave alone: the queue, the life cycle and the timebase.
-/
set_option linter.unusedSimpArgs false

namespace Sys2Proof.Machine

theorem State.resume_keeps (s : State) (d : CusDown) :
    (State.resume s d).pending = s.pending ∧ (State.resume s d).bond.lifecycle = s.bond.lifecycle ∧ (State.resume s d).time.ns = s.time.ns := by
  rw [State.resume.eq_def]; try dsimp only
  repeat' (first | (solve | simp only [↓State.modCustoms_keeps, ↓State.openInterval_keeps, ↓State.passBoundaries_keeps, and_self, ↓ite_fst, ↓ite_keeps, ↓State.modBond_keeps, ↓State.modTime_keeps, ↓foldl_pending, ↓foldl_life, ↓foldl_ns, ↓foldl_fst_pending, ↓foldl_fst_life, ↓foldl_fst_ns, ite_self, implies_true]) | with_reducible exact ⟨rfl, rfl, rfl⟩ | refine ⟨foldl_pending _ _ _ ?_, foldl_life _ _ _ ?_, foldl_ns _ _ _ ?_⟩ | split | intro _)

theorem execCustomsRestore_keeps (s : State) :
    ∀ s', (execCustomsRestore s) = .next s' → s'.pending = s.pending ∧ s'.bond.lifecycle = s.bond.lifecycle ∧ s'.time.ns = s.time.ns := by
  rw [execCustomsRestore.eq_def]; repeat' (first | with_reducible exact out_keeps ⟨rfl, rfl, rfl⟩ | with_reducible refine out_keeps ?_ | with_reducible refine out_both ?_ ?_ | (solve | simp only [↓State.modCustoms_keeps, ↓State.notice_keeps, ↓State.openInterval_keeps, ↓State.restartWindow_keeps, ↓State.resume_keeps, ↓State.useSlot_keeps, and_self]) | split)

theorem execCustomsRestoreDone_keeps (s : State) :
    ∀ s', (execCustomsRestoreDone s) = .next s' → s'.pending = s.pending ∧ s'.bond.lifecycle = s.bond.lifecycle ∧ s'.time.ns = s.time.ns := by
  rw [execCustomsRestoreDone.eq_def]; repeat' (first | with_reducible exact out_keeps ⟨rfl, rfl, rfl⟩ | with_reducible refine out_keeps ?_ | with_reducible refine out_both ?_ ?_ | (solve | simp only [↓State.modCustoms_keeps, ↓State.raise_keeps, and_self]) | split)

theorem State.catchUp_keeps (s : State) :
    (State.catchUp s).pending = s.pending ∧ (State.catchUp s).bond.lifecycle = s.bond.lifecycle ∧ (State.catchUp s).time.ns = s.time.ns := by
  first | rw [State.catchUp] | rw [State.catchUp.eq_def]
  try dsimp only
  repeat' (first | (simp only [↓State.boundary_keeps, and_self, ↓ite_fst, ↓ite_keeps, ↓State.modBond_keeps, ↓State.modTime_keeps, ↓foldl_pending, ↓foldl_life, ↓foldl_ns, ↓foldl_fst_pending, ↓foldl_fst_life, ↓foldl_fst_ns, ite_self, implies_true]; done) | with_reducible exact ⟨rfl, rfl, rfl⟩ | (grind only [State.boundary_keeps, ite_keeps, State.modBond_keeps, State.modTime_keeps]; done) | refine ⟨((foldl_pending _ _ _ ?_).trans ?_), ((foldl_life _ _ _ ?_).trans ?_), ((foldl_ns _ _ _ ?_).trans ?_)⟩ | refine ⟨((foldl_fst_pending _ _ _ ?_).trans ?_), ((foldl_fst_life _ _ _ ?_).trans ?_), ((foldl_fst_ns _ _ _ ?_).trans ?_)⟩ | refine ((foldl_pending _ _ _ ?_).trans ?_) | refine ((foldl_life _ _ _ ?_).trans ?_) | refine ((foldl_ns _ _ _ ?_).trans ?_) | refine ((foldl_fst_pending _ _ _ ?_).trans ?_) | refine ((foldl_fst_life _ _ _ ?_).trans ?_) | refine ((foldl_fst_ns _ _ _ ?_).trans ?_) | split | intro _ | simp only [↓State.boundary_keeps, and_self, ↓ite_fst, ↓ite_keeps, ↓State.modBond_keeps, ↓State.modTime_keeps, ↓foldl_pending, ↓foldl_life, ↓foldl_ns, ↓foldl_fst_pending, ↓foldl_fst_life, ↓foldl_fst_ns, ite_self, implies_true])

theorem State.customsPowerDown_keeps (s : State) :
    (State.customsPowerDown s).pending = s.pending ∧ (State.customsPowerDown s).bond.lifecycle = s.bond.lifecycle ∧ (State.customsPowerDown s).time.ns = s.time.ns := by
  rw [State.customsPowerDown]; simp only [↓State.catchUp_keeps, ↓State.drainQueue_keeps, ↓State.journal_keeps, ↓State.journalDown_keeps, ↓State.modCustoms_keeps, and_self, ↓ite_keeps, ite_self, ↓State.modBond_keeps, ↓State.modTime_keeps]

theorem State.acceptPlain_keeps (s : State) (delta : Bool) (i : Item) :
    (State.acceptPlain s delta i).1.pending = s.pending ∧ (State.acceptPlain s delta i).1.bond.lifecycle = s.bond.lifecycle ∧ (State.acceptPlain s delta i).1.time.ns = s.time.ns := by
  rw [State.acceptPlain]; simp only [↓State.modCustoms_keeps, and_self, ↓ite_fst, ↓ite_keeps, ↓State.modBond_keeps, ↓State.modTime_keeps, ↓foldl_pending, ↓foldl_life, ↓foldl_ns, ↓foldl_fst_pending, ↓foldl_fst_life, ↓foldl_fst_ns, ite_self, implies_true]

theorem State.acceptPlain_eq (s : State) (delta : Bool) (i : Item) (s' : State) (x' : Nat × Bool) (he : (State.acceptPlain s delta i) = (s', x')) :
    s'.pending = s.pending ∧ s'.bond.lifecycle = s.bond.lifecycle ∧ s'.time.ns = s.time.ns := by
  have hk := State.acceptPlain_keeps s delta i; rw [he] at hk; exact hk

theorem State.acceptCal_keeps (s : State) (delta : Bool) (items : List Item) (i : Item) :
    (State.acceptCal s delta items i).1.pending = s.pending ∧ (State.acceptCal s delta items i).1.bond.lifecycle = s.bond.lifecycle ∧ (State.acceptCal s delta items i).1.time.ns = s.time.ns := by
  rw [State.acceptCal]; simp only [↓State.modCustoms_keeps, ↓State.set_keeps, and_self, ↓ite_fst, ↓ite_keeps, ↓State.modBond_keeps, ↓State.modTime_keeps, ↓foldl_pending, ↓foldl_life, ↓foldl_ns, ↓foldl_fst_pending, ↓foldl_fst_life, ↓foldl_fst_ns, ite_self, implies_true]

theorem State.acceptCal_eq (s : State) (delta : Bool) (items : List Item) (i : Item) (s' : State) (x' : Nat × Bool) (he : (State.acceptCal s delta items i) = (s', x')) :
    s'.pending = s.pending ∧ s'.bond.lifecycle = s.bond.lifecycle ∧ s'.time.ns = s.time.ns := by
  have hk := State.acceptCal_keeps s delta items i; rw [he] at hk; exact hk

theorem State.acceptItems_keeps (s : State) (delta : Bool) (all l : List Item) :
    (State.acceptItems s delta all l).1.pending = s.pending ∧ (State.acceptItems s delta all l).1.bond.lifecycle = s.bond.lifecycle ∧ (State.acceptItems s delta all l).1.time.ns = s.time.ns := by
  induction l generalizing s with
  | nil => rw [State.acceptItems]; exact ⟨rfl, rfl, rfl⟩
  | cons x rest ih =>
    rw [State.acceptItems]
    have hr : K3 (if (x.type = 1 || x.type = 6 || x.type = 7) = true then s.acceptPlain delta x
        else if x.type = 2 then s.acceptCal delta all x else (s, 0, false)).1 s := by
      split
      · exact State.acceptPlain_keeps ..
      · split
        · exact State.acceptCal_keeps ..
        · exact ⟨rfl, rfl, rfl⟩
    generalize (if (x.type = 1 || x.type = 6 || x.type = 7) = true then s.acceptPlain delta x
      else if x.type = 2 then s.acceptCal delta all x else (s, 0, false)) = r at hr ⊢
    dsimp only
    split
    · exact K3.trans (ih r.1) hr
    · exact ⟨rfl, rfl, rfl⟩

theorem State.acceptItems_eq (s : State) (delta : Bool) (all l : List Item) (t : State) (x : Nat × Nat × List Item)
    (h : State.acceptItems s delta all l = (t, x)) : t.pending = s.pending ∧ t.bond.lifecycle = s.bond.lifecycle ∧ t.time.ns = s.time.ns := by
  have hk := State.acceptItems_keeps s delta all l; rw [h] at hk; exact hk


theorem State.journalSet_keeps (s : State) (scope : Nat) (took auths : List Item) :
    (State.journalSet s scope took auths).pending = s.pending ∧ (State.journalSet s scope took auths).bond.lifecycle = s.bond.lifecycle ∧ (State.journalSet s scope took auths).time.ns = s.time.ns := by
  first | rw [State.journalSet] | rw [State.journalSet.eq_def]
  try dsimp only
  repeat' (first | (simp only [↓State.journal_keeps, and_self, ↓ite_fst, ↓ite_keeps, ↓State.modBond_keeps, ↓State.modTime_keeps, ↓foldl_pending, ↓foldl_life, ↓foldl_ns, ↓foldl_fst_pending, ↓foldl_fst_life, ↓foldl_fst_ns, ite_self, implies_true]; done) | with_reducible exact ⟨rfl, rfl, rfl⟩ | (grind only [State.journal_keeps, ite_keeps, State.modBond_keeps, State.modTime_keeps]; done) | refine ⟨((foldl_pending _ _ _ ?_).trans ?_), ((foldl_life _ _ _ ?_).trans ?_), ((foldl_ns _ _ _ ?_).trans ?_)⟩ | refine ⟨((foldl_fst_pending _ _ _ ?_).trans ?_), ((foldl_fst_life _ _ _ ?_).trans ?_), ((foldl_fst_ns _ _ _ ?_).trans ?_)⟩ | refine ((foldl_pending _ _ _ ?_).trans ?_) | refine ((foldl_life _ _ _ ?_).trans ?_) | refine ((foldl_ns _ _ _ ?_).trans ?_) | refine ((foldl_fst_pending _ _ _ ?_).trans ?_) | refine ((foldl_fst_life _ _ _ ?_).trans ?_) | refine ((foldl_fst_ns _ _ _ ?_).trans ?_) | split | intro _ | simp only [↓State.journal_keeps, and_self, ↓ite_fst, ↓ite_keeps, ↓State.modBond_keeps, ↓State.modTime_keeps, ↓foldl_pending, ↓foldl_life, ↓foldl_ns, ↓foldl_fst_pending, ↓foldl_fst_life, ↓foldl_fst_ns, ite_self, implies_true])

theorem State.customsSection_keeps (s : State) (delta : Bool) (target : Bytes) (items : List Item) :
    (State.customsSection s delta target items).1.pending = s.pending ∧ (State.customsSection s delta target items).1.bond.lifecycle = s.bond.lifecycle ∧ (State.customsSection s delta target items).1.time.ns = s.time.ns := by
  rw [State.customsSection]; simp only [↓State.acceptItems_keeps, ↓State.journalSet_keeps, ↓State.set_keeps, and_self, ↓ite_fst, ↓ite_keeps, ↓State.modBond_keeps, ↓State.modTime_keeps, ↓foldl_pending, ↓foldl_life, ↓foldl_ns, ↓foldl_fst_pending, ↓foldl_fst_life, ↓foldl_fst_ns, ite_self, implies_true]

theorem State.customsSection_eq (s : State) (delta : Bool) (target : Bytes) (items : List Item) (s' : State) (x' : Bool) (he : (State.customsSection s delta target items) = (s', x')) :
    s'.pending = s.pending ∧ s'.bond.lifecycle = s.bond.lifecycle ∧ s'.time.ns = s.time.ns := by
  have hk := State.customsSection_keeps s delta target items; rw [he] at hk; exact hk

theorem State.mbxAnswer_keeps (s : State) (result : Nat) (data : Bytes) :
    (State.mbxAnswer s result data).pending = s.pending ∧ (State.mbxAnswer s result data).bond.lifecycle = s.bond.lifecycle ∧ (State.mbxAnswer s result data).time.ns = s.time.ns := by
  rw [State.mbxAnswer]; simp only [↓State.raise_keeps, ↓State.set_keeps, and_self, ↓ite_fst, ↓ite_keeps, ↓State.modBond_keeps, ↓State.modTime_keeps, ↓foldl_pending, ↓foldl_life, ↓foldl_ns, ↓foldl_fst_pending, ↓foldl_fst_life, ↓foldl_fst_ns, ite_self, implies_true]

theorem State.onMailbox_keeps (s : State) (always : Bool) (f : State → State) (hf : ∀ (s0 : State), (f s0).pending = s0.pending ∧ (f s0).bond.lifecycle = s0.bond.lifecycle ∧ (f s0).time.ns = s0.time.ns) :
    ∀ s', (State.onMailbox s always f) = .next s' → s'.pending = s.pending ∧ s'.bond.lifecycle = s.bond.lifecycle ∧ s'.time.ns = s.time.ns := by
  rw [State.onMailbox.eq_def]; try dsimp only
  repeat' (first | with_reducible exact out_keeps ⟨rfl, rfl, rfl⟩ | with_reducible refine out_keeps ?_ | with_reducible refine out_both ?_ ?_ | (solve | simp only [↓State.mbxAnswer_keeps, and_self, ↓ite_keeps, ite_self, ↓State.modBond_keeps, ↓State.modTime_keeps]) | with_reducible exact ⟨rfl, rfl, rfl⟩ | exact hf _ | (focus have hk := hf; simp only [↓hk, ↓State.mbxAnswer_keeps, and_self, ↓ite_keeps, ite_self, ↓State.modBond_keeps, ↓State.modTime_keeps]; done) | split | intro _)

theorem execMbxReadBilling_keeps (s : State) :
    ∀ s', (execMbxReadBilling s) = .next s' → s'.pending = s.pending ∧ s'.bond.lifecycle = s.bond.lifecycle ∧ s'.time.ns = s.time.ns := by
  rw [execMbxReadBilling.eq_def]; try dsimp only
  repeat' (first | with_reducible exact out_keeps ⟨rfl, rfl, rfl⟩ | with_reducible refine out_keeps ?_ | with_reducible refine out_both ?_ ?_ | (solve | simp only [↓State.mbxAnswer_keeps, ↓State.verifyBill_keeps, and_self, ↓ite_keeps, ite_self, ↓State.modBond_keeps, ↓State.modTime_keeps]) | with_reducible exact ⟨rfl, rfl, rfl⟩ | refine State.onMailbox_keeps _ _ _ ?_ _ | split | intro _)

theorem execMbxReadPeriod_keeps (s : State) :
    ∀ s', (execMbxReadPeriod s) = .next s' → s'.pending = s.pending ∧ s'.bond.lifecycle = s.bond.lifecycle ∧ s'.time.ns = s.time.ns := by
  rw [execMbxReadPeriod.eq_def]; try dsimp only
  repeat' (first | with_reducible exact out_keeps ⟨rfl, rfl, rfl⟩ | with_reducible refine out_keeps ?_ | with_reducible refine out_both ?_ ?_ | (solve | simp only [↓State.mbxAnswer_keeps, and_self, ↓ite_keeps, ite_self, ↓State.modBond_keeps, ↓State.modTime_keeps]) | with_reducible exact ⟨rfl, rfl, rfl⟩ | refine State.onMailbox_keeps _ _ _ ?_ _ | split | intro _)

theorem execMbxReadProfile_keeps (s : State) :
    ∀ s', (execMbxReadProfile s) = .next s' → s'.pending = s.pending ∧ s'.bond.lifecycle = s.bond.lifecycle ∧ s'.time.ns = s.time.ns := by
  rw [execMbxReadProfile.eq_def]; try dsimp only
  repeat' (first | with_reducible exact out_keeps ⟨rfl, rfl, rfl⟩ | with_reducible refine out_keeps ?_ | with_reducible refine out_both ?_ ?_ | (solve | simp only [↓State.mbxAnswer_keeps, and_self, ↓ite_keeps, ite_self, ↓State.modBond_keeps, ↓State.modTime_keeps]) | with_reducible exact ⟨rfl, rfl, rfl⟩ | refine State.onMailbox_keeps _ _ _ ?_ _ | split | intro _)

theorem execMbxCalUser_keeps (blob : Bytes) (s : State) :
    ∀ s', (execMbxCalUser blob s) = .next s' → s'.pending = s.pending ∧ s'.bond.lifecycle = s.bond.lifecycle ∧ s'.time.ns = s.time.ns := by
  rw [execMbxCalUser.eq_def]; try dsimp only
  repeat' (first | with_reducible exact out_keeps ⟨rfl, rfl, rfl⟩ | with_reducible refine out_keeps ?_ | with_reducible refine out_both ?_ ?_ | (solve | simp only [↓State.journal_keeps, ↓State.mbxAnswer_keeps, ↓State.modCustoms_keeps, ↓State.siteTamper_keeps, ↓State.useSlot_keeps, and_self, ↓ite_keeps, ite_self, ↓State.modBond_keeps, ↓State.modTime_keeps]) | with_reducible exact ⟨rfl, rfl, rfl⟩ | refine State.onMailbox_keeps _ _ _ ?_ _ | split | intro _)

end Sys2Proof.Machine
end

