-- ==== Sys2Proof/Laws/KeepEth.lean ====
section
/-!
SUPPORT. What the operations of Machine/Eth.lean leave alone: the queue, the life cycle and the timebase.
-/
set_option linter.unusedSimpArgs false

namespace Sys2Proof.Machine

theorem State.modEthPort_keeps (s : State) (n : Nat) (f : EthPort → EthPort) :
    (State.modEthPort s n f).pending = s.pending ∧ (State.modEthPort s n f).bond.lifecycle = s.bond.lifecycle ∧ (State.modEthPort s n f).time.ns = s.time.ns := by
  with_reducible exact ⟨rfl, rfl, rfl⟩

theorem State.ethQueue_keeps (s : State) (n q : Nat) (f : TxFrame) :
    (State.ethQueue s n q f).pending = s.pending ∧ (State.ethQueue s n q f).bond.lifecycle = s.bond.lifecycle ∧ (State.ethQueue s n q f).time.ns = s.time.ns := by
  rw [State.ethQueue]; simp only [↓State.count_keeps, ↓State.modEthPort_keeps, and_self, ↓ite_keeps, ite_self, ↓State.modBond_keeps, ↓State.modTime_keeps]

theorem State.modPtp_keeps (s : State) (n : Nat) (f : PtpPort → PtpPort) :
    (State.modPtp s n f).pending = s.pending ∧ (State.modPtp s n f).bond.lifecycle = s.bond.lifecycle ∧ (State.modPtp s n f).time.ns = s.time.ns := by
  with_reducible exact ⟨rfl, rfl, rfl⟩

theorem State.ptpSend_keeps (s : State) (x : PtpTx) :
    (State.ptpSend s x).pending = s.pending ∧ (State.ptpSend s x).bond.lifecycle = s.bond.lifecycle ∧ (State.ptpSend s x).time.ns = s.time.ns := by
  first | rw [State.ptpSend] | rw [State.ptpSend.eq_def]
  try dsimp only
  repeat' (first | (simp only [↓State.ethQueue_keeps, and_self, ↓ite_fst, ↓ite_keeps, ↓State.modBond_keeps, ↓State.modTime_keeps, ↓foldl_pending, ↓foldl_life, ↓foldl_ns, ↓foldl_fst_pending, ↓foldl_fst_life, ↓foldl_fst_ns, ite_self, implies_true]; done) | with_reducible exact ⟨rfl, rfl, rfl⟩ | (grind only [State.ethQueue_keeps, ite_keeps, State.modBond_keeps, State.modTime_keeps]; done) | refine ⟨((foldl_pending _ _ _ ?_).trans ?_), ((foldl_life _ _ _ ?_).trans ?_), ((foldl_ns _ _ _ ?_).trans ?_)⟩ | refine ⟨((foldl_fst_pending _ _ _ ?_).trans ?_), ((foldl_fst_life _ _ _ ?_).trans ?_), ((foldl_fst_ns _ _ _ ?_).trans ?_)⟩ | refine ((foldl_pending _ _ _ ?_).trans ?_) | refine ((foldl_life _ _ _ ?_).trans ?_) | refine ((foldl_ns _ _ _ ?_).trans ?_) | refine ((foldl_fst_pending _ _ _ ?_).trans ?_) | refine ((foldl_fst_life _ _ _ ?_).trans ?_) | refine ((foldl_fst_ns _ _ _ ?_).trans ?_) | split | intro _ | simp only [↓State.ethQueue_keeps, and_self, ↓ite_fst, ↓ite_keeps, ↓State.modBond_keeps, ↓State.modTime_keeps, ↓foldl_pending, ↓foldl_life, ↓foldl_ns, ↓foldl_fst_pending, ↓foldl_fst_life, ↓foldl_fst_ns, ite_self, implies_true])

theorem State.ptpLeave_keeps (s : State) (n : Nat) (x : PtpTx) :
    (State.ptpLeave s n x).1.pending = s.pending ∧ (State.ptpLeave s n x).1.bond.lifecycle = s.bond.lifecycle ∧ (State.ptpLeave s n x).1.time.ns = s.time.ns := by
  first | rw [State.ptpLeave] | rw [State.ptpLeave.eq_def]
  try dsimp only
  repeat' (first | (simp only [↓State.modPtp_keeps, and_self, ↓ite_fst, ↓ite_keeps, ↓State.modBond_keeps, ↓State.modTime_keeps, ↓foldl_pending, ↓foldl_life, ↓foldl_ns, ↓foldl_fst_pending, ↓foldl_fst_life, ↓foldl_fst_ns, ite_self, implies_true]; done) | with_reducible exact ⟨rfl, rfl, rfl⟩ | (grind only [State.modPtp_keeps, ite_keeps, State.modBond_keeps, State.modTime_keeps]; done) | refine ⟨((foldl_pending _ _ _ ?_).trans ?_), ((foldl_life _ _ _ ?_).trans ?_), ((foldl_ns _ _ _ ?_).trans ?_)⟩ | refine ⟨((foldl_fst_pending _ _ _ ?_).trans ?_), ((foldl_fst_life _ _ _ ?_).trans ?_), ((foldl_fst_ns _ _ _ ?_).trans ?_)⟩ | refine ((foldl_pending _ _ _ ?_).trans ?_) | refine ((foldl_life _ _ _ ?_).trans ?_) | refine ((foldl_ns _ _ _ ?_).trans ?_) | refine ((foldl_fst_pending _ _ _ ?_).trans ?_) | refine ((foldl_fst_life _ _ _ ?_).trans ?_) | refine ((foldl_fst_ns _ _ _ ?_).trans ?_) | split | intro _ | simp only [↓State.modPtp_keeps, and_self, ↓ite_fst, ↓ite_keeps, ↓State.modBond_keeps, ↓State.modTime_keeps, ↓foldl_pending, ↓foldl_life, ↓foldl_ns, ↓foldl_fst_pending, ↓foldl_fst_life, ↓foldl_fst_ns, ite_self, implies_true])

theorem State.ptpLeave_eq (s : State) (n : Nat) (x : PtpTx) (s' : State) (x' : PtpTx) (he : (State.ptpLeave s n x) = (s', x')) :
    s'.pending = s.pending ∧ s'.bond.lifecycle = s.bond.lifecycle ∧ s'.time.ns = s.time.ns := by
  have hk := State.ptpLeave_keeps s n x; rw [he] at hk; exact hk

theorem State.udpSend_keeps (s : State) (q dst sport dport : Nat) (payload : Bytes) :
    (State.udpSend s q dst sport dport payload).pending = s.pending ∧ (State.udpSend s q dst sport dport payload).bond.lifecycle = s.bond.lifecycle ∧ (State.udpSend s q dst sport dport payload).time.ns = s.time.ns := by
  rw [State.udpSend]; simp only [↓State.ethQueue_keeps, and_self, ↓ite_keeps, ite_self, ↓State.modBond_keeps, ↓State.modTime_keeps]

theorem State.ethSend_keeps (s : State) (n : Nat) :
    (State.ethSend s n).pending = s.pending ∧ (State.ethSend s n).bond.lifecycle = s.bond.lifecycle ∧ (State.ethSend s n).time.ns = s.time.ns := by
  rw [State.ethSend.eq_def]; repeat' (first | (solve | simp only [↓State.count_keeps, ↓State.modEth_keeps, ↓State.modEthPort_keeps, ↓State.ptpLeave_keeps, and_self, ↓ite_keeps, ite_self, ↓State.modBond_keeps, ↓State.modTime_keeps]) | with_reducible exact ⟨rfl, rfl, rfl⟩ | split)

theorem State.pause_keeps (s : State) (n quanta : Nat) :
    (State.pause s n quanta).pending = s.pending ∧ (State.pause s n quanta).bond.lifecycle = s.bond.lifecycle ∧ (State.pause s n quanta).time.ns = s.time.ns := by
  rw [State.pause]; simp only [↓State.count_keeps, ↓State.modEthPort_keeps, and_self, ↓ite_keeps, ite_self, ↓State.modBond_keeps, ↓State.modTime_keeps]

theorem execPauseWatchdog_keeps (port : Nat) (s : State) :
    ∀ s', (execPauseWatchdog port s) = .next s' → s'.pending = s.pending ∧ s'.bond.lifecycle = s.bond.lifecycle ∧ s'.time.ns = s.time.ns := by
  rw [execPauseWatchdog.eq_def]; repeat' (first | with_reducible exact out_keeps ⟨rfl, rfl, rfl⟩ | with_reducible refine out_keeps ?_ | with_reducible refine out_both ?_ ?_ | (solve | simp only [↓State.count_keeps, ↓State.modEthPort_keeps, ↓State.raise_keeps, and_self]) | split)

theorem execEthLinkChange_keeps (port : Nat) (up full : Bool) (speed : Nat) (s : State) :
    ∀ s', (execEthLinkChange port up full speed s) = .next s' → s'.pending = s.pending ∧ s'.bond.lifecycle = s.bond.lifecycle ∧ s'.time.ns = s.time.ns := by
  rw [execEthLinkChange.eq_def]; repeat' (first | with_reducible exact out_keeps ⟨rfl, rfl, rfl⟩ | with_reducible refine out_keeps ?_ | with_reducible refine out_both ?_ ?_ | (solve | simp only [↓State.count_keeps, ↓State.modEthPort_keeps, ↓State.raise_keeps, ↓State.set_keeps, and_self]) | split)

end Sys2Proof.Machine
end

