-- ==== Sys2Proof/Laws/KeepPanel.lean ====
section
/-!
SUPPORT. What the operations of Machine/Panel.lean leave alone: the queue, the life cycle and the timebase.
-/
set_option linter.unusedSimpArgs false

namespace Sys2Proof.Machine

theorem State.readBand_keeps (s : State) :
    (State.readBand s).pending = s.pending ∧ (State.readBand s).bond.lifecycle = s.bond.lifecycle ∧ (State.readBand s).time.ns = s.time.ns := by
  with_reducible exact ⟨rfl, rfl, rfl⟩

theorem State.panelCharge_keeps (s : State) (f : Nat → Int) (frames : Nat) :
    (State.panelCharge s f frames).pending = s.pending ∧ (State.panelCharge s f frames).bond.lifecycle = s.bond.lifecycle ∧ (State.panelCharge s f frames).time.ns = s.time.ns := by
  rw [State.panelCharge]; simp only [↓State.event_keeps, ↓State.modPanel_keeps, ↓State.raise_keeps, and_self, ↓ite_keeps, ite_self, ↓State.modBond_keeps, ↓State.modTime_keeps]

theorem State.startRun_keeps (s : State) (driven old target : Nat) :
    (State.startRun s driven old target).pending = s.pending ∧ (State.startRun s driven old target).bond.lifecycle = s.bond.lifecycle ∧ (State.startRun s driven old target).time.ns = s.time.ns := by
  with_reducible exact ⟨rfl, rfl, rfl⟩

theorem State.startPending_keeps (s : State) :
    (State.startPending s).pending = s.pending ∧ (State.startPending s).bond.lifecycle = s.bond.lifecycle ∧ (State.startPending s).time.ns = s.time.ns := by
  rw [State.startPending.eq_def]; repeat' (first | (solve | simp only [↓State.modPanel_keeps, ↓State.setFlag_keeps, ↓State.startRun_keeps, and_self, ↓ite_keeps, ite_self, ↓State.modBond_keeps, ↓State.modTime_keeps]) | with_reducible exact ⟨rfl, rfl, rfl⟩ | split)

theorem State.discharge_keeps (s : State) :
    (State.discharge s).pending = s.pending ∧ (State.discharge s).bond.lifecycle = s.bond.lifecycle ∧ (State.discharge s).time.ns = s.time.ns := by
  first | rw [State.discharge] | rw [State.discharge.eq_def]
  try dsimp only
  repeat' (first | (simp only [↓State.modPanel_keeps, and_self, ↓ite_fst, ↓ite_keeps, ↓State.modBond_keeps, ↓State.modTime_keeps, ↓foldl_pending, ↓foldl_life, ↓foldl_ns, ↓foldl_fst_pending, ↓foldl_fst_life, ↓foldl_fst_ns, ite_self, implies_true]; done) | with_reducible exact ⟨rfl, rfl, rfl⟩ | (grind only [State.modPanel_keeps, ite_keeps, State.modBond_keeps, State.modTime_keeps]; done) | refine ⟨((foldl_pending _ _ _ ?_).trans ?_), ((foldl_life _ _ _ ?_).trans ?_), ((foldl_ns _ _ _ ?_).trans ?_)⟩ | refine ⟨((foldl_fst_pending _ _ _ ?_).trans ?_), ((foldl_fst_life _ _ _ ?_).trans ?_), ((foldl_fst_ns _ _ _ ?_).trans ?_)⟩ | refine ((foldl_pending _ _ _ ?_).trans ?_) | refine ((foldl_life _ _ _ ?_).trans ?_) | refine ((foldl_ns _ _ _ ?_).trans ?_) | refine ((foldl_fst_pending _ _ _ ?_).trans ?_) | refine ((foldl_fst_life _ _ _ ?_).trans ?_) | refine ((foldl_fst_ns _ _ _ ?_).trans ?_) | split | intro _ | simp only [↓State.modPanel_keeps, and_self, ↓ite_fst, ↓ite_keeps, ↓State.modBond_keeps, ↓State.modTime_keeps, ↓foldl_pending, ↓foldl_life, ↓foldl_ns, ↓foldl_fst_pending, ↓foldl_fst_life, ↓foldl_fst_ns, ite_self, implies_true])

theorem State.panelGo_keeps (s : State) :
    (State.panelGo s).pending = s.pending ∧ (State.panelGo s).bond.lifecycle = s.bond.lifecycle ∧ (State.panelGo s).time.ns = s.time.ns := by
  rw [State.panelGo.eq_def]; try dsimp only
  repeat' (first | (solve | simp only [↓State.discharge_keeps, ↓State.modPanel_keeps, ↓State.startPending_keeps, ↓State.startRun_keeps, and_self, ↓ite_fst, ↓ite_keeps, ↓State.modBond_keeps, ↓State.modTime_keeps, ↓foldl_pending, ↓foldl_life, ↓foldl_ns, ↓foldl_fst_pending, ↓foldl_fst_life, ↓foldl_fst_ns, ite_self, implies_true]) | with_reducible exact ⟨rfl, rfl, rfl⟩ | refine ⟨foldl_pending _ _ _ ?_, foldl_life _ _ _ ?_, foldl_ns _ _ _ ?_⟩ | split | intro _)

theorem State.compensate_keeps (s : State) (n : Nat) :
    (State.compensate s n).pending = s.pending ∧ (State.compensate s n).bond.lifecycle = s.bond.lifecycle ∧ (State.compensate s n).time.ns = s.time.ns := by
  rw [State.compensate]; simp only [↓State.event_keeps, ↓State.modPanel_keeps, ↓State.panelGo_keeps, ↓State.raise_keeps, and_self, ↓ite_keeps, ite_self, ↓State.modBond_keeps, ↓State.modTime_keeps]

theorem State.runEnds_keeps (s : State) :
    (State.runEnds s).pending = s.pending ∧ (State.runEnds s).bond.lifecycle = s.bond.lifecycle ∧ (State.runEnds s).time.ns = s.time.ns := by
  rw [State.runEnds]; simp only [↓State.compensate_keeps, ↓State.count_keeps, ↓State.modPanel_keeps, ↓State.raise_keeps, and_self]

theorem State.runAborts_keeps (s : State) :
    (State.runAborts s).pending = s.pending ∧ (State.runAborts s).bond.lifecycle = s.bond.lifecycle ∧ (State.runAborts s).time.ns = s.time.ns := by
  rw [State.runAborts]; simp only [↓State.compensate_keeps, ↓State.count_keeps, ↓State.event_keeps, ↓State.modPanel_keeps, ↓State.raise_keeps, and_self]

theorem execPanelFrameBoundary_keeps (s : State) :
    ∀ s', (execPanelFrameBoundary s) = .next s' → s'.pending = s.pending ∧ s'.bond.lifecycle = s.bond.lifecycle ∧ s'.time.ns = s.time.ns := by
  intro s'; first | rw [execPanelFrameBoundary] | rw [execPanelFrameBoundary.eq_def]
  try dsimp only
  repeat' (first | (simp only [↓State.compensate_keeps, ↓State.count_keeps, ↓State.discharge_keeps, ↓State.modPanel_keeps, ↓State.panelCharge_keeps, ↓State.readBand_keeps, ↓State.runAborts_keeps, ↓State.runEnds_keeps, ↓State.startPending_keeps, and_self, ↓ite_fst, ↓ite_keeps, ↓State.modBond_keeps, ↓State.modTime_keeps, ↓foldl_pending, ↓foldl_life, ↓foldl_ns, ↓foldl_fst_pending, ↓foldl_fst_life, ↓foldl_fst_ns, ite_self, implies_true]; done) | with_reducible exact ⟨rfl, rfl, rfl⟩ | (grind only [State.compensate_keeps, State.count_keeps, State.discharge_keeps, State.modPanel_keeps, State.panelCharge_keeps, State.readBand_keeps, State.runAborts_keeps, State.runEnds_keeps, State.startPending_keeps, ite_keeps, State.modBond_keeps, State.modTime_keeps]; done) | (with_reducible refine out_next (P := fun s' => s'.pending = s.pending ∧ s'.bond.lifecycle = s.bond.lifecycle ∧ s'.time.ns = s.time.ns) ?_) | with_reducible refine out_ite ?_ ?_ | refine ⟨((foldl_pending _ _ _ ?_).trans ?_), ((foldl_life _ _ _ ?_).trans ?_), ((foldl_ns _ _ _ ?_).trans ?_)⟩ | refine ⟨((foldl_fst_pending _ _ _ ?_).trans ?_), ((foldl_fst_life _ _ _ ?_).trans ?_), ((foldl_fst_ns _ _ _ ?_).trans ?_)⟩ | refine ((foldl_pending _ _ _ ?_).trans ?_) | refine ((foldl_life _ _ _ ?_).trans ?_) | refine ((foldl_ns _ _ _ ?_).trans ?_) | refine ((foldl_fst_pending _ _ _ ?_).trans ?_) | refine ((foldl_fst_life _ _ _ ?_).trans ?_) | refine ((foldl_fst_ns _ _ _ ?_).trans ?_) | split | intro _ | simp only [↓State.compensate_keeps, ↓State.count_keeps, ↓State.discharge_keeps, ↓State.modPanel_keeps, ↓State.panelCharge_keeps, ↓State.readBand_keeps, ↓State.runAborts_keeps, ↓State.runEnds_keeps, ↓State.startPending_keeps, and_self, ↓ite_fst, ↓ite_keeps, ↓State.modBond_keeps, ↓State.modTime_keeps, ↓foldl_pending, ↓foldl_life, ↓foldl_ns, ↓foldl_fst_pending, ↓foldl_fst_life, ↓foldl_fst_ns, ite_self, implies_true])

theorem execPanelSlotStart_keeps (s : State) :
    ∀ s', (execPanelSlotStart s) = .next s' → s'.pending = s.pending ∧ s'.bond.lifecycle = s.bond.lifecycle ∧ s'.time.ns = s.time.ns := by
  rw [execPanelSlotStart.eq_def]; repeat' (first | with_reducible exact out_keeps ⟨rfl, rfl, rfl⟩ | with_reducible refine out_keeps ?_ | with_reducible refine out_both ?_ ?_ | (solve | simp only [↓State.discharge_keeps, ↓State.modPanel_keeps, and_self]) | split)

theorem State.retarget_keeps (s : State) :
    (State.retarget s).pending = s.pending ∧ (State.retarget s).bond.lifecycle = s.bond.lifecycle ∧ (State.retarget s).time.ns = s.time.ns := by
  with_reducible exact ⟨rfl, rfl, rfl⟩

theorem State.panelRow_keeps (s : State) (img : Option Nat) :
    (State.panelRow s img).pending = s.pending ∧ (State.panelRow s img).bond.lifecycle = s.bond.lifecycle ∧ (State.panelRow s img).time.ns = s.time.ns := by
  with_reducible exact ⟨rfl, rfl, rfl⟩

theorem execPanelUpdate_keeps (slot : Nat) (s : State) :
    ∀ s', (execPanelUpdate slot s) = .next s' → s'.pending = s.pending ∧ s'.bond.lifecycle = s.bond.lifecycle ∧ s'.time.ns = s.time.ns := by
  rw [execPanelUpdate.eq_def]; try dsimp only
  repeat' (first | with_reducible exact out_keeps ⟨rfl, rfl, rfl⟩ | with_reducible refine out_keeps ?_ | with_reducible refine out_both ?_ ?_ | (solve | simp only [↓State.complete_keeps, and_self, ↓ite_keeps, ite_self, ↓State.modBond_keeps, ↓State.modTime_keeps]) | with_reducible exact ⟨rfl, rfl, rfl⟩ | refine State.onKind_keeps _ _ _ _ ?_ _ | split | intro _)

theorem execPanelBlinkEdge_keeps (group : Nat) (s : State) :
    ∀ s', (execPanelBlinkEdge group s) = .next s' → s'.pending = s.pending ∧ s'.bond.lifecycle = s.bond.lifecycle ∧ s'.time.ns = s.time.ns := by
  rw [execPanelBlinkEdge.eq_def]; repeat' (first | with_reducible exact out_keeps ⟨rfl, rfl, rfl⟩ | with_reducible refine out_keeps ?_ | with_reducible refine out_both ?_ ?_ | (solve | simp only [↓State.modPanel_keeps, ↓State.retarget_keeps, and_self]) | split)

theorem execReadoutPageAdvance_keeps (s : State) :
    ∀ s', (execReadoutPageAdvance s) = .next s' → s'.pending = s.pending ∧ s'.bond.lifecycle = s.bond.lifecycle ∧ s'.time.ns = s.time.ns := by
  rw [execReadoutPageAdvance.eq_def]; repeat' (first | with_reducible exact out_keeps ⟨rfl, rfl, rfl⟩ | with_reducible refine out_keeps ?_ | with_reducible refine out_both ?_ ?_ | (solve | simp only [↓State.modPanel_keeps, ↓State.retarget_keeps, and_self]) | split)

theorem execPanelRedraw_keeps (s : State) :
    ∀ s', (execPanelRedraw s) = .next s' → s'.pending = s.pending ∧ s'.bond.lifecycle = s.bond.lifecycle ∧ s'.time.ns = s.time.ns := by
  rw [execPanelRedraw.eq_def]; repeat' (first | with_reducible exact out_keeps ⟨rfl, rfl, rfl⟩ | with_reducible refine out_keeps ?_ | with_reducible refine out_both ?_ ?_ | (solve | simp only [↓State.setFlag_keeps, and_self]) | split)

theorem execPanelTempStale_keeps (s : State) :
    ∀ s', (execPanelTempStale s) = .next s' → s'.pending = s.pending ∧ s'.bond.lifecycle = s.bond.lifecycle ∧ s'.time.ns = s.time.ns := by
  rw [execPanelTempStale.eq_def]; repeat' (first | with_reducible exact out_keeps ⟨rfl, rfl, rfl⟩ | with_reducible refine out_keeps ?_ | with_reducible refine out_both ?_ ?_ | (solve | simp only [↓State.event_keeps, ↓State.modPanel_keeps, ↓State.raise_keeps, and_self]) | split)

theorem State.panelUp_keeps (s : State) :
    (State.panelUp s).pending = s.pending ∧ (State.panelUp s).bond.lifecycle = s.bond.lifecycle ∧ (State.panelUp s).time.ns = s.time.ns := by
  with_reducible exact ⟨rfl, rfl, rfl⟩

theorem execPanelHvSettled_keeps (s : State) :
    ∀ s', (execPanelHvSettled s) = .next s' → s'.pending = s.pending ∧ s'.bond.lifecycle = s.bond.lifecycle ∧ s'.time.ns = s.time.ns := by
  intro s'; first | rw [execPanelHvSettled] | rw [execPanelHvSettled.eq_def]
  try dsimp only
  repeat' (first | (simp only [↓State.compensate_keeps, ↓State.event_keeps, ↓State.modPanel_keeps, ↓State.raise_keeps, ↓State.readBand_keeps, and_self, ↓ite_fst, ↓ite_keeps, ↓State.modBond_keeps, ↓State.modTime_keeps, ↓foldl_pending, ↓foldl_life, ↓foldl_ns, ↓foldl_fst_pending, ↓foldl_fst_life, ↓foldl_fst_ns, ite_self, implies_true]; done) | with_reducible exact ⟨rfl, rfl, rfl⟩ | (grind only [State.compensate_keeps, State.event_keeps, State.modPanel_keeps, State.raise_keeps, State.readBand_keeps, ite_keeps, State.modBond_keeps, State.modTime_keeps]; done) | (with_reducible refine out_next (P := fun s' => s'.pending = s.pending ∧ s'.bond.lifecycle = s.bond.lifecycle ∧ s'.time.ns = s.time.ns) ?_) | with_reducible refine out_ite ?_ ?_ | refine ⟨((foldl_pending _ _ _ ?_).trans ?_), ((foldl_life _ _ _ ?_).trans ?_), ((foldl_ns _ _ _ ?_).trans ?_)⟩ | refine ⟨((foldl_fst_pending _ _ _ ?_).trans ?_), ((foldl_fst_life _ _ _ ?_).trans ?_), ((foldl_fst_ns _ _ _ ?_).trans ?_)⟩ | refine ((foldl_pending _ _ _ ?_).trans ?_) | refine ((foldl_life _ _ _ ?_).trans ?_) | refine ((foldl_ns _ _ _ ?_).trans ?_) | refine ((foldl_fst_pending _ _ _ ?_).trans ?_) | refine ((foldl_fst_life _ _ _ ?_).trans ?_) | refine ((foldl_fst_ns _ _ _ ?_).trans ?_) | split | intro _ | simp only [↓State.compensate_keeps, ↓State.event_keeps, ↓State.modPanel_keeps, ↓State.raise_keeps, ↓State.readBand_keeps, and_self, ↓ite_fst, ↓ite_keeps, ↓State.modBond_keeps, ↓State.modTime_keeps, ↓foldl_pending, ↓foldl_life, ↓foldl_ns, ↓foldl_fst_pending, ↓foldl_fst_life, ↓foldl_fst_ns, ite_self, implies_true])

theorem State.panelDown_keeps (s : State) :
    (State.panelDown s).pending = s.pending ∧ (State.panelDown s).bond.lifecycle = s.bond.lifecycle ∧ (State.panelDown s).time.ns = s.time.ns := by
  rw [State.panelDown.eq_def]; try dsimp only
  repeat' (first | (solve | simp only [↓State.discharge_keeps, ↓State.modPanel_keeps, and_self, ↓ite_fst, ↓ite_keeps, ↓State.modBond_keeps, ↓State.modTime_keeps, ↓foldl_pending, ↓foldl_life, ↓foldl_ns, ↓foldl_fst_pending, ↓foldl_fst_life, ↓foldl_fst_ns, ite_self, implies_true]) | with_reducible exact ⟨rfl, rfl, rfl⟩ | refine ⟨foldl_pending _ _ _ ?_, foldl_life _ _ _ ?_, foldl_ns _ _ _ ?_⟩ | split | intro _)

theorem execPanelHvDischarged_keeps (s : State) :
    ∀ s', (execPanelHvDischarged s) = .next s' → s'.pending = s.pending ∧ s'.bond.lifecycle = s.bond.lifecycle ∧ s'.time.ns = s.time.ns := by
  rw [execPanelHvDischarged.eq_def]; repeat' (first | with_reducible exact out_keeps ⟨rfl, rfl, rfl⟩ | with_reducible refine out_keeps ?_ | with_reducible refine out_both ?_ ?_ | (solve | simp only [↓State.discharge_keeps, ↓State.modPanel_keeps, and_self]) | split)

theorem State.panelCut_keeps (s : State) :
    (State.panelCut s).pending = s.pending ∧ (State.panelCut s).bond.lifecycle = s.bond.lifecycle ∧ (State.panelCut s).time.ns = s.time.ns := by
  with_reducible exact ⟨rfl, rfl, rfl⟩

theorem State.panelFail_keeps (s : State) :
    (State.panelFail s).pending = s.pending ∧ (State.panelFail s).bond.lifecycle = s.bond.lifecycle ∧ (State.panelFail s).time.ns = s.time.ns := by
  rw [State.panelFail]; simp only [↓State.panelCharge_keeps, ↓State.panelCut_keeps, and_self]

end Sys2Proof.Machine
end

