-- ==== Sys2Proof/Laws/KeepWharf.lean ====
section
/-!
SUPPORT. What the operations of Machine/Wharf.lean leave alone: the queue, the life cycle and the timebase.
-/
set_option linter.unusedSimpArgs false

namespace Sys2Proof.Machine

theorem State.saveFloor_keeps (s : State) (a seq : Nat) :
    (State.saveFloor s a seq).pending = s.pending ∧ (State.saveFloor s a seq).bond.lifecycle = s.bond.lifecycle ∧ (State.saveFloor s a seq).time.ns = s.time.ns := by
  rw [State.saveFloor]; simp only [↓State.aidSave_keeps, and_self]

theorem State.wharfSendTo_keeps (s : State) (a dst port type : Nat) (body : Bytes) :
    (State.wharfSendTo s a dst port type body).pending = s.pending ∧ (State.wharfSendTo s a dst port type body).bond.lifecycle = s.bond.lifecycle ∧ (State.wharfSendTo s a dst port type body).time.ns = s.time.ns := by
  rw [State.wharfSendTo.eq_def]; repeat' (first | (solve | simp only [↓State.count_keeps, ↓State.modWharf_keeps, ↓State.saveFloor_keeps, ↓State.udpSend_keeps, and_self, ↓ite_keeps, ite_self, ↓State.modBond_keeps, ↓State.modTime_keeps]) | with_reducible exact ⟨rfl, rfl, rfl⟩ | split)

theorem State.toWorker_keeps (s : State) (w type : Nat) (body : Bytes) :
    (State.toWorker s w type body).pending = s.pending ∧ (State.toWorker s w type body).bond.lifecycle = s.bond.lifecycle ∧ (State.toWorker s w type body).time.ns = s.time.ns := by
  rw [State.toWorker.eq_def]; repeat' (first | (solve | simp only [↓State.wharfSendTo_keeps, and_self, ↓ite_keeps, ite_self, ↓State.modBond_keeps, ↓State.modTime_keeps]) | with_reducible exact ⟨rfl, rfl, rfl⟩ | split)

theorem State.toPartner_keeps (s : State) (type : Nat) (body : Bytes) :
    (State.toPartner s type body).pending = s.pending ∧ (State.toPartner s type body).bond.lifecycle = s.bond.lifecycle ∧ (State.toPartner s type body).time.ns = s.time.ns := by
  rw [State.toPartner.eq_def]; repeat' (first | (solve | simp only [↓State.wharfSendTo_keeps, and_self, ↓ite_keeps, ite_self, ↓State.modBond_keeps, ↓State.modTime_keeps]) | with_reducible exact ⟨rfl, rfl, rfl⟩ | split)

theorem State.toMgr_keeps (s : State) (i type : Nat) (body : Bytes) :
    (State.toMgr s i type body).pending = s.pending ∧ (State.toMgr s i type body).bond.lifecycle = s.bond.lifecycle ∧ (State.toMgr s i type body).time.ns = s.time.ns := by
  rw [State.toMgr]; simp only [↓State.wharfSendTo_keeps, and_self, ↓ite_keeps, ite_self, ↓State.modBond_keeps, ↓State.modTime_keeps]

theorem State.noteSeq_keeps (s : State) (q : Nat) :
    (State.noteSeq s q).pending = s.pending ∧ (State.noteSeq s q).bond.lifecycle = s.bond.lifecycle ∧ (State.noteSeq s q).time.ns = s.time.ns := by
  with_reducible exact ⟨rfl, rfl, rfl⟩

theorem State.wharfTake_keeps (s : State) (port : Nat) (p : Bytes) :
    (State.wharfTake s port p).pending = s.pending ∧ (State.wharfTake s port p).bond.lifecycle = s.bond.lifecycle ∧ (State.wharfTake s port p).time.ns = s.time.ns := by
  rw [State.wharfTake.eq_def]; try dsimp only
  repeat' (first | (solve | simp only [↓State.count_keeps, ↓State.modWharf_keeps, ↓State.noteSeq_keeps, ↓State.raise_keeps, and_self, ↓ite_fst, ↓ite_keeps, ↓State.modBond_keeps, ↓State.modTime_keeps, ↓foldl_pending, ↓foldl_life, ↓foldl_ns, ↓foldl_fst_pending, ↓foldl_fst_life, ↓foldl_fst_ns, ite_self, implies_true]) | with_reducible exact ⟨rfl, rfl, rfl⟩ | refine ⟨foldl_pending _ _ _ ?_, foldl_life _ _ _ ?_, foldl_ns _ _ _ ?_⟩ | split | intro _)

theorem execEthFrameReceived_keeps (port : Nat) (frame : Bytes) (fcsOk : Bool) (s : State) :
    ∀ s', (execEthFrameReceived port frame fcsOk s) = .next s' → s'.pending = s.pending ∧ s'.bond.lifecycle = s.bond.lifecycle ∧ s'.time.ns = s.time.ns := by
  intro s'; first | rw [execEthFrameReceived] | rw [execEthFrameReceived.eq_def]
  try dsimp only
  repeat' (first | (simp only [↓State.count_keeps, ↓State.ethQueue_keeps, ↓State.modEth_keeps, ↓State.pause_keeps, ↓State.raise_keeps, ↓State.wharfTake_keeps, and_self, ↓ite_fst, ↓ite_keeps, ↓State.modBond_keeps, ↓State.modTime_keeps, ↓foldl_pending, ↓foldl_life, ↓foldl_ns, ↓foldl_fst_pending, ↓foldl_fst_life, ↓foldl_fst_ns, ite_self, implies_true]; done) | with_reducible exact ⟨rfl, rfl, rfl⟩ | (grind only [State.count_keeps, State.ethQueue_keeps, State.modEth_keeps, State.pause_keeps, State.raise_keeps, State.wharfTake_keeps, ite_keeps, State.modBond_keeps, State.modTime_keeps]; done) | (with_reducible refine out_next (P := fun s' => s'.pending = s.pending ∧ s'.bond.lifecycle = s.bond.lifecycle ∧ s'.time.ns = s.time.ns) ?_) | with_reducible refine out_ite ?_ ?_ | refine ⟨((foldl_pending _ _ _ ?_).trans ?_), ((foldl_life _ _ _ ?_).trans ?_), ((foldl_ns _ _ _ ?_).trans ?_)⟩ | refine ⟨((foldl_fst_pending _ _ _ ?_).trans ?_), ((foldl_fst_life _ _ _ ?_).trans ?_), ((foldl_fst_ns _ _ _ ?_).trans ?_)⟩ | refine ((foldl_pending _ _ _ ?_).trans ?_) | refine ((foldl_life _ _ _ ?_).trans ?_) | refine ((foldl_ns _ _ _ ?_).trans ?_) | refine ((foldl_fst_pending _ _ _ ?_).trans ?_) | refine ((foldl_fst_life _ _ _ ?_).trans ?_) | refine ((foldl_fst_ns _ _ _ ?_).trans ?_) | split | intro _ | simp only [↓State.count_keeps, ↓State.ethQueue_keeps, ↓State.modEth_keeps, ↓State.pause_keeps, ↓State.raise_keeps, ↓State.wharfTake_keeps, and_self, ↓ite_fst, ↓ite_keeps, ↓State.modBond_keeps, ↓State.modTime_keeps, ↓foldl_pending, ↓foldl_life, ↓foldl_ns, ↓foldl_fst_pending, ↓foldl_fst_life, ↓foldl_fst_ns, ite_self, implies_true])

theorem State.takeDgram_keeps (s : State) (type : Nat) (f : State → WDgram → State) (hf : ∀ (s0 : State) (a0 : WDgram), (f s0 a0).pending = s0.pending ∧ (f s0 a0).bond.lifecycle = s0.bond.lifecycle ∧ (f s0 a0).time.ns = s0.time.ns) :
    ∀ s', (State.takeDgram s type f) = .next s' → s'.pending = s.pending ∧ s'.bond.lifecycle = s.bond.lifecycle ∧ s'.time.ns = s.time.ns := by
  rw [State.takeDgram.eq_def]; try dsimp only
  repeat' (first | with_reducible exact out_keeps ⟨rfl, rfl, rfl⟩ | with_reducible refine out_keeps ?_ | with_reducible refine out_both ?_ ?_ | (solve | simp only [↓State.modWharf_keeps, and_self, ↓ite_keeps, ite_self, ↓State.modBond_keeps, ↓State.modTime_keeps]) | with_reducible exact ⟨rfl, rfl, rfl⟩ | exact hf _ _ | (focus have hk := hf; simp only [↓hk, ↓State.modWharf_keeps, and_self, ↓ite_keeps, ite_self, ↓State.modBond_keeps, ↓State.modTime_keeps]; done) | split | intro _)

theorem State.setWorker_keeps (s : State) (w : Nat) (x : WWorker) :
    (State.setWorker s w x).pending = s.pending ∧ (State.setWorker s w x).bond.lifecycle = s.bond.lifecycle ∧ (State.setWorker s w x).time.ns = s.time.ns := by
  with_reducible exact ⟨rfl, rfl, rfl⟩

theorem State.workerNotices_keeps (s : State) (w ev : Nat) :
    (State.workerNotices s w ev).pending = s.pending ∧ (State.workerNotices s w ev).bond.lifecycle = s.bond.lifecycle ∧ (State.workerNotices s w ev).time.ns = s.time.ns := by
  with_reducible exact ⟨rfl, rfl, rfl⟩

theorem State.workerUp_keeps (s : State) (w : Nat) (x : WWorker) :
    (State.workerUp s w x).pending = s.pending ∧ (State.workerUp s w x).bond.lifecycle = s.bond.lifecycle ∧ (State.workerUp s w x).time.ns = s.time.ns := by
  rw [State.workerUp]; simp only [↓State.raise_keeps, ↓State.setWorker_keeps, ↓State.workerNotices_keeps, and_self, ↓ite_keeps, ite_self, ↓State.modBond_keeps, ↓State.modTime_keeps]

theorem execWharfHello_keeps (s : State) :
    ∀ s', (execWharfHello s) = .next s' → s'.pending = s.pending ∧ s'.bond.lifecycle = s.bond.lifecycle ∧ s'.time.ns = s.time.ns := by
  rw [execWharfHello.eq_def]; try dsimp only
  repeat' (first | with_reducible exact out_keeps ⟨rfl, rfl, rfl⟩ | with_reducible refine out_keeps ?_ | with_reducible refine out_both ?_ ?_ | (solve | simp only [↓State.toWorker_keeps, ↓State.workerUp_keeps, and_self, ↓ite_keeps, ite_self, ↓State.modBond_keeps, ↓State.modTime_keeps]) | with_reducible exact ⟨rfl, rfl, rfl⟩ | refine State.takeDgram_keeps _ _ _ ?_ _ | split | intro _)

theorem execWharfHelloAck_keeps (s : State) :
    ∀ s', (execWharfHelloAck s) = .next s' → s'.pending = s.pending ∧ s'.bond.lifecycle = s.bond.lifecycle ∧ s'.time.ns = s.time.ns := by
  rw [execWharfHelloAck.eq_def]; try dsimp only
  repeat' (first | with_reducible exact out_keeps ⟨rfl, rfl, rfl⟩ | with_reducible refine out_keeps ?_ | with_reducible refine out_both ?_ ?_ | (solve | simp only [↓State.modWharf_keeps, ↓State.raise_keeps, and_self, ↓ite_keeps, ite_self, ↓State.modBond_keeps, ↓State.modTime_keeps]) | with_reducible exact ⟨rfl, rfl, rfl⟩ | refine State.takeDgram_keeps _ _ _ ?_ _ | split | intro _)

theorem State.upFlush_keeps (s : State) :
    (State.upFlush s).pending = s.pending ∧ (State.upFlush s).bond.lifecycle = s.bond.lifecycle ∧ (State.upFlush s).time.ns = s.time.ns := by
  rw [State.upFlush]; simp only [↓State.modWharf_keeps, ↓State.toMgr_keeps, and_self, ↓ite_keeps, ite_self, ↓State.modBond_keeps, ↓State.modTime_keeps]

theorem State.upPump_keeps (n : Nat) (s : State) :
    (State.upPump n s).pending = s.pending ∧ (State.upPump n s).bond.lifecycle = s.bond.lifecycle ∧ (State.upPump n s).time.ns = s.time.ns := by
  induction n generalizing s with
  | zero => rw [State.upPump]; exact ⟨rfl, rfl, rfl⟩
  | succ n ih =>
    rw [State.upPump]; try dsimp only
    repeat' (first | (simp only [↓ih, ↓State.upFlush_keeps, ↓State.modWharf_keeps, and_self, ↓ite_fst, ↓ite_keeps, ↓State.modBond_keeps, ↓State.modTime_keeps, ↓foldl_pending, ↓foldl_life, ↓foldl_ns, ↓foldl_fst_pending, ↓foldl_fst_life, ↓foldl_fst_ns, ite_self, implies_true]; done) | split)


theorem State.pumpUp_keeps (s : State) :
    (State.pumpUp s).pending = s.pending ∧ (State.pumpUp s).bond.lifecycle = s.bond.lifecycle ∧ (State.pumpUp s).time.ns = s.time.ns := by
  rw [State.pumpUp]; simp only [↓State.upPump_keeps, and_self]

theorem execWharfDgramFlush_keeps (s : State) :
    ∀ s', (execWharfDgramFlush s) = .next s' → s'.pending = s.pending ∧ s'.bond.lifecycle = s.bond.lifecycle ∧ s'.time.ns = s.time.ns := by
  rw [execWharfDgramFlush]; with_reducible refine out_keeps ?_; simp only [↓State.upFlush_keeps, and_self]

theorem State.chooseMgr_keeps (s : State) :
    (State.chooseMgr s).pending = s.pending ∧ (State.chooseMgr s).bond.lifecycle = s.bond.lifecycle ∧ (State.chooseMgr s).time.ns = s.time.ns := by
  with_reducible exact ⟨rfl, rfl, rfl⟩

theorem State.heartbeatTake_keeps (s : State) (d : WDgram) (judge : State → Nat → State) (hjudge : ∀ (s0 : State) (a0 : Nat), (judge s0 a0).pending = s0.pending ∧ (judge s0 a0).bond.lifecycle = s0.bond.lifecycle ∧ (judge s0 a0).time.ns = s0.time.ns) :
    (State.heartbeatTake s d judge).pending = s.pending ∧ (State.heartbeatTake s d judge).bond.lifecycle = s.bond.lifecycle ∧ (State.heartbeatTake s d judge).time.ns = s.time.ns := by
  rw [State.heartbeatTake.eq_def]; try dsimp only
  repeat' (first | (solve | simp only [↓State.chooseMgr_keeps, ↓State.modWharf_keeps, ↓State.pumpUp_keeps, ↓State.workerUp_keeps, and_self, ↓ite_keeps, ite_self, ↓State.modBond_keeps, ↓State.modTime_keeps]) | with_reducible exact ⟨rfl, rfl, rfl⟩ | exact hjudge _ _ | (focus have hk := hjudge; simp only [↓hk, ↓State.chooseMgr_keeps, ↓State.modWharf_keeps, ↓State.pumpUp_keeps, ↓State.workerUp_keeps, and_self, ↓ite_keeps, ite_self, ↓State.modBond_keeps, ↓State.modTime_keeps]; done) | split | intro _)

theorem execWharfCredit_keeps (s : State) :
    ∀ s', (execWharfCredit s) = .next s' → s'.pending = s.pending ∧ s'.bond.lifecycle = s.bond.lifecycle ∧ s'.time.ns = s.time.ns := by
  rw [execWharfCredit.eq_def]; try dsimp only
  repeat' (first | with_reducible exact out_keeps ⟨rfl, rfl, rfl⟩ | with_reducible refine out_keeps ?_ | with_reducible refine out_both ?_ ?_ | (solve | simp only [↓State.modWharf_keeps, ↓State.pumpUp_keeps, and_self, ↓ite_keeps, ite_self, ↓State.modBond_keeps, ↓State.modTime_keeps]) | with_reducible exact ⟨rfl, rfl, rfl⟩ | refine State.takeDgram_keeps _ _ _ ?_ _ | split | intro _)

theorem State.creditNow_keeps (s : State) (w : Nat) :
    (State.creditNow s w).pending = s.pending ∧ (State.creditNow s w).bond.lifecycle = s.bond.lifecycle ∧ (State.creditNow s w).time.ns = s.time.ns := by
  rw [State.creditNow]; simp only [↓State.setWorker_keeps, ↓State.toWorker_keeps, and_self, ↓ite_keeps, ite_self, ↓State.modBond_keeps, ↓State.modTime_keeps]

theorem State.workerIssue_keeps (s : State) (w epx : Nat) (data : Bool) :
    (State.workerIssue s w epx data).pending = s.pending ∧ (State.workerIssue s w epx data).bond.lifecycle = s.bond.lifecycle ∧ (State.workerIssue s w epx data).time.ns = s.time.ns := by
  rw [State.workerIssue]; simp only [↓State.make_keeps, ↓State.modWharf_keeps, and_self, ↓ite_keeps, ite_self, ↓State.modBond_keeps, ↓State.modTime_keeps]

theorem State.upEnv_keeps (s : State) (w : Nat) (qual ns word : Nat) (env : Bytes) :
    (State.upEnv s w qual ns word env).pending = s.pending ∧ (State.upEnv s w qual ns word env).bond.lifecycle = s.bond.lifecycle ∧ (State.upEnv s w qual ns word env).time.ns = s.time.ns := by
  rw [State.upEnv]; simp only [↓State.arrive_keeps, ↓State.count_keeps, ↓State.raise_keeps, ↓State.setWorker_keeps, ↓State.workerIssue_keeps, and_self, ↓ite_keeps, ite_self, ↓State.modBond_keeps, ↓State.modTime_keeps]

theorem State.upItems_keeps (k w : Nat) (b : Bytes) (s : State) :
    (State.upItems k w b s).pending = s.pending ∧ (State.upItems k w b s).bond.lifecycle = s.bond.lifecycle ∧ (State.upItems k w b s).time.ns = s.time.ns := by
  induction k generalizing s b with
  | zero => rw [State.upItems]; exact ⟨rfl, rfl, rfl⟩
  | succ n ih =>
    rw [State.upItems]; try dsimp only
    repeat' (first | (simp only [↓ih, ↓State.upEnv_keeps, and_self, ↓ite_fst, ↓ite_keeps, ↓State.modBond_keeps, ↓State.modTime_keeps, ↓foldl_pending, ↓foldl_life, ↓foldl_ns, ↓foldl_fst_pending, ↓foldl_fst_life, ↓foldl_fst_ns, ite_self, implies_true]; done) | split)


theorem execWharfUpEnv_keeps (s : State) :
    ∀ s', (execWharfUpEnv s) = .next s' → s'.pending = s.pending ∧ s'.bond.lifecycle = s.bond.lifecycle ∧ s'.time.ns = s.time.ns := by
  rw [execWharfUpEnv.eq_def]; try dsimp only
  repeat' (first | with_reducible exact out_keeps ⟨rfl, rfl, rfl⟩ | with_reducible refine out_keeps ?_ | with_reducible refine out_both ?_ ?_ | (solve | simp only [↓State.creditNow_keeps, ↓State.upItems_keeps, and_self, ↓ite_keeps, ite_self, ↓State.modBond_keeps, ↓State.modTime_keeps]) | with_reducible exact ⟨rfl, rfl, rfl⟩ | refine State.takeDgram_keeps _ _ _ ?_ _ | split | intro _)

theorem State.downItems_keeps (k w : Nat) (b : Bytes) (s : State) :
    (State.downItems k w b s).pending = s.pending ∧ (State.downItems k w b s).bond.lifecycle = s.bond.lifecycle ∧ (State.downItems k w b s).time.ns = s.time.ns := by
  induction k generalizing s b with
  | zero => rw [State.downItems]; exact ⟨rfl, rfl, rfl⟩
  | succ n ih =>
    rw [State.downItems]; try dsimp only
    repeat' (first | (simp only [↓ih, ↓State.make_keeps, and_self, ↓ite_fst, ↓ite_keeps, ↓State.modBond_keeps, ↓State.modTime_keeps, ↓foldl_pending, ↓foldl_life, ↓foldl_ns, ↓foldl_fst_pending, ↓foldl_fst_life, ↓foldl_fst_ns, ite_self, implies_true]; done) | split)


theorem execWharfDownEnv_keeps (s : State) :
    ∀ s', (execWharfDownEnv s) = .next s' → s'.pending = s.pending ∧ s'.bond.lifecycle = s.bond.lifecycle ∧ s'.time.ns = s.time.ns := by
  rw [execWharfDownEnv.eq_def]; try dsimp only
  repeat' (first | with_reducible exact out_keeps ⟨rfl, rfl, rfl⟩ | with_reducible refine out_keeps ?_ | with_reducible refine out_both ?_ ?_ | (solve | simp only [↓State.downItems_keeps, and_self, ↓ite_keeps, ite_self, ↓State.modBond_keeps, ↓State.modTime_keeps]) | with_reducible exact ⟨rfl, rfl, rfl⟩ | refine State.takeDgram_keeps _ _ _ ?_ _ | split | intro _)

theorem execWharfKeyReq_keeps (s : State) :
    ∀ s', (execWharfKeyReq s) = .next s' → s'.pending = s.pending ∧ s'.bond.lifecycle = s.bond.lifecycle ∧ s'.time.ns = s.time.ns := by
  rw [execWharfKeyReq.eq_def]; try dsimp only
  repeat' (first | with_reducible exact out_keeps ⟨rfl, rfl, rfl⟩ | with_reducible refine out_keeps ?_ | with_reducible refine out_both ?_ ?_ | (solve | simp only [↓State.make_keeps, and_self, ↓ite_keeps, ite_self, ↓State.modBond_keeps, ↓State.modTime_keeps]) | with_reducible exact ⟨rfl, rfl, rfl⟩ | refine State.takeDgram_keeps _ _ _ ?_ _ | split | intro _)

theorem State.switchWorker_keeps (s : State) (w : Nat) :
    (State.switchWorker s w).pending = s.pending ∧ (State.switchWorker s w).bond.lifecycle = s.bond.lifecycle ∧ (State.switchWorker s w).time.ns = s.time.ns := by
  first | rw [State.switchWorker] | rw [State.switchWorker.eq_def]
  try dsimp only
  repeat' (first | (simp only [↓State.modWharf_keeps, ↓State.useSlot_keeps, and_self, ↓ite_fst, ↓ite_keeps, ↓State.modBond_keeps, ↓State.modTime_keeps, ↓foldl_pending, ↓foldl_life, ↓foldl_ns, ↓foldl_fst_pending, ↓foldl_fst_life, ↓foldl_fst_ns, ite_self, implies_true]; done) | with_reducible exact ⟨rfl, rfl, rfl⟩ | (grind only [State.modWharf_keeps, State.useSlot_keeps, ite_keeps, State.modBond_keeps, State.modTime_keeps]; done) | refine ⟨((foldl_pending _ _ _ ?_).trans ?_), ((foldl_life _ _ _ ?_).trans ?_), ((foldl_ns _ _ _ ?_).trans ?_)⟩ | refine ⟨((foldl_fst_pending _ _ _ ?_).trans ?_), ((foldl_fst_life _ _ _ ?_).trans ?_), ((foldl_fst_ns _ _ _ ?_).trans ?_)⟩ | refine ((foldl_pending _ _ _ ?_).trans ?_) | refine ((foldl_life _ _ _ ?_).trans ?_) | refine ((foldl_ns _ _ _ ?_).trans ?_) | refine ((foldl_fst_pending _ _ _ ?_).trans ?_) | refine ((foldl_fst_life _ _ _ ?_).trans ?_) | refine ((foldl_fst_ns _ _ _ ?_).trans ?_) | split | intro _ | simp only [↓State.modWharf_keeps, ↓State.useSlot_keeps, and_self, ↓ite_fst, ↓ite_keeps, ↓State.modBond_keeps, ↓State.modTime_keeps, ↓foldl_pending, ↓foldl_life, ↓foldl_ns, ↓foldl_fst_pending, ↓foldl_fst_life, ↓foldl_fst_ns, ite_self, implies_true])

theorem State.beatWorker_keeps (s : State) (w : Nat) :
    (State.beatWorker s w).pending = s.pending ∧ (State.beatWorker s w).bond.lifecycle = s.bond.lifecycle ∧ (State.beatWorker s w).time.ns = s.time.ns := by
  rw [State.beatWorker]; simp only [↓State.setWorker_keeps, ↓State.switchWorker_keeps, ↓State.toWorker_keeps, and_self, ↓ite_keeps, ite_self, ↓State.modBond_keeps, ↓State.modTime_keeps]

theorem State.payNotices_keeps (n : Nat) (s : State) :
    (State.payNotices n s).pending = s.pending ∧ (State.payNotices n s).bond.lifecycle = s.bond.lifecycle ∧ (State.payNotices n s).time.ns = s.time.ns := by
  induction n generalizing s with
  | zero => rw [State.payNotices]; exact ⟨rfl, rfl, rfl⟩
  | succ n ih =>
    rw [State.payNotices]
    repeat' (first | (simp only [↓ih, ↓State.make_keeps, ↓State.modWharf_keeps, and_self, ↓ite_fst, ↓ite_keeps, ↓State.modBond_keeps, ↓State.modTime_keeps, ↓foldl_pending, ↓foldl_life, ↓foldl_ns, ↓foldl_fst_pending, ↓foldl_fst_life, ↓foldl_fst_ns, ite_self, implies_true]; done) | split)


theorem execWharfHeartbeatSend_keeps (s : State) :
    ∀ s', (execWharfHeartbeatSend s) = .next s' → s'.pending = s.pending ∧ s'.bond.lifecycle = s.bond.lifecycle ∧ s'.time.ns = s.time.ns := by
  rw [execWharfHeartbeatSend.eq_def]; repeat' (first | with_reducible exact out_keeps ⟨rfl, rfl, rfl⟩ | with_reducible refine out_keeps ?_ | with_reducible refine out_both ?_ ?_ | (solve | simp only [↓State.beatWorker_keeps, ↓State.payNotices_keeps, ↓State.toMgr_keeps, ↓State.toPartner_keeps, and_self, ↓ite_fst, ↓ite_keeps, ↓State.modBond_keeps, ↓State.modTime_keeps, ↓foldl_pending, ↓foldl_life, ↓foldl_ns, ↓foldl_fst_pending, ↓foldl_fst_life, ↓foldl_fst_ns, ite_self, implies_true]) | split)

theorem execWorkerLost_keeps (worker : Nat) (s : State) :
    ∀ s', (execWorkerLost worker s) = .next s' → s'.pending = s.pending ∧ s'.bond.lifecycle = s.bond.lifecycle ∧ s'.time.ns = s.time.ns := by
  intro s'; first | rw [execWorkerLost] | rw [execWorkerLost.eq_def]
  try dsimp only
  repeat' (first | (simp only [↓State.count_keeps, ↓State.event_keeps, ↓State.make_keeps, ↓State.raise_keeps, ↓State.setWorker_keeps, ↓State.workerNotices_keeps, and_self, ↓ite_fst, ↓ite_keeps, ↓State.modBond_keeps, ↓State.modTime_keeps, ↓foldl_pending, ↓foldl_life, ↓foldl_ns, ↓foldl_fst_pending, ↓foldl_fst_life, ↓foldl_fst_ns, ite_self, implies_true]; done) | with_reducible exact ⟨rfl, rfl, rfl⟩ | (grind only [State.count_keeps, State.event_keeps, State.make_keeps, State.raise_keeps, State.setWorker_keeps, State.workerNotices_keeps, ite_keeps, State.modBond_keeps, State.modTime_keeps]; done) | (with_reducible refine out_next (P := fun s' => s'.pending = s.pending ∧ s'.bond.lifecycle = s.bond.lifecycle ∧ s'.time.ns = s.time.ns) ?_) | with_reducible refine out_ite ?_ ?_ | refine ⟨((foldl_pending _ _ _ ?_).trans ?_), ((foldl_life _ _ _ ?_).trans ?_), ((foldl_ns _ _ _ ?_).trans ?_)⟩ | refine ⟨((foldl_fst_pending _ _ _ ?_).trans ?_), ((foldl_fst_life _ _ _ ?_).trans ?_), ((foldl_fst_ns _ _ _ ?_).trans ?_)⟩ | refine ((foldl_pending _ _ _ ?_).trans ?_) | refine ((foldl_life _ _ _ ?_).trans ?_) | refine ((foldl_ns _ _ _ ?_).trans ?_) | refine ((foldl_fst_pending _ _ _ ?_).trans ?_) | refine ((foldl_fst_life _ _ _ ?_).trans ?_) | refine ((foldl_fst_ns _ _ _ ?_).trans ?_) | split | intro _ | simp only [↓State.count_keeps, ↓State.event_keeps, ↓State.make_keeps, ↓State.raise_keeps, ↓State.setWorker_keeps, ↓State.workerNotices_keeps, and_self, ↓ite_fst, ↓ite_keeps, ↓State.modBond_keeps, ↓State.modTime_keeps, ↓foldl_pending, ↓foldl_life, ↓foldl_ns, ↓foldl_fst_pending, ↓foldl_fst_life, ↓foldl_fst_ns, ite_self, implies_true])

theorem execWorkerRoleHelloSend_keeps (s : State) :
    ∀ s', (execWorkerRoleHelloSend s) = .next s' → s'.pending = s.pending ∧ s'.bond.lifecycle = s.bond.lifecycle ∧ s'.time.ns = s.time.ns := by
  rw [execWorkerRoleHelloSend.eq_def]; repeat' (first | with_reducible exact out_keeps ⟨rfl, rfl, rfl⟩ | with_reducible refine out_keeps ?_ | with_reducible refine out_both ?_ ?_ | (solve | simp only [↓State.toMgr_keeps, and_self]) | split)

theorem execManagerLost_keeps (mgr : Nat) (s : State) :
    ∀ s', (execManagerLost mgr s) = .next s' → s'.pending = s.pending ∧ s'.bond.lifecycle = s.bond.lifecycle ∧ s'.time.ns = s.time.ns := by
  rw [execManagerLost.eq_def]; repeat' (first | with_reducible exact out_keeps ⟨rfl, rfl, rfl⟩ | with_reducible refine out_keeps ?_ | with_reducible refine out_both ?_ ?_ | (solve | simp only [↓State.chooseMgr_keeps, ↓State.count_keeps, ↓State.modWharf_keeps, ↓State.raise_keeps, and_self]) | split)

theorem execWharfFwdKeyReq_keeps (slot : Nat) (s : State) :
    ∀ s', (execWharfFwdKeyReq slot s) = .next s' → s'.pending = s.pending ∧ s'.bond.lifecycle = s.bond.lifecycle ∧ s'.time.ns = s.time.ns := by
  rw [execWharfFwdKeyReq.eq_def]; try dsimp only
  repeat' (first | with_reducible exact out_keeps ⟨rfl, rfl, rfl⟩ | with_reducible refine out_keeps ?_ | with_reducible refine out_both ?_ ?_ | (solve | simp only [↓State.complete_keeps, ↓State.requestKey_keeps, ↓State.useSlot_keeps, and_self, ↓ite_keeps, ite_self, ↓State.modBond_keeps, ↓State.modTime_keeps]) | with_reducible exact ⟨rfl, rfl, rfl⟩ | refine State.onKind_keeps _ _ _ _ ?_ _ | (focus have hk := State.requestKey_eq _ _ _ _ _ (by assumption); simp only [↓hk, ↓State.complete_keeps, ↓State.requestKey_keeps, ↓State.useSlot_keeps, and_self, ↓ite_keeps, ite_self, ↓State.modBond_keeps, ↓State.modTime_keeps]; done) | split | intro _)

theorem execWharfFwdDownEnv_keeps (slot : Nat) (s : State) :
    ∀ s', (execWharfFwdDownEnv slot s) = .next s' → s'.pending = s.pending ∧ s'.bond.lifecycle = s.bond.lifecycle ∧ s'.time.ns = s.time.ns := by
  rw [execWharfFwdDownEnv.eq_def]; try dsimp only
  repeat' (first | with_reducible exact out_keeps ⟨rfl, rfl, rfl⟩ | with_reducible refine out_keeps ?_ | with_reducible refine out_both ?_ ?_ | (solve | simp only [↓State.complete_keeps, ↓State.withRec_keeps, and_self, ↓ite_keeps, ite_self, ↓State.modBond_keeps, ↓State.modTime_keeps]) | with_reducible exact ⟨rfl, rfl, rfl⟩ | refine State.withRec_keeps _ _ _ _ ?_ | refine State.onKind_keeps _ _ _ _ ?_ _ | split | intro _)

theorem State.wharfCommit_keeps (s : State) (w type : Nat) (body : Bytes) :
    (State.wharfCommit s w type body).pending = s.pending ∧ (State.wharfCommit s w type body).bond.lifecycle = s.bond.lifecycle ∧ (State.wharfCommit s w type body).time.ns = s.time.ns := by
  rw [State.wharfCommit]; simp only [↓State.modWharf_keeps, ↓State.pumpUp_keeps, ↓State.toWorker_keeps, and_self, ↓ite_keeps, ite_self, ↓State.modBond_keeps, ↓State.modTime_keeps]

theorem State.wharfConfig_keeps (s : State) :
    (State.wharfConfig s).pending = s.pending ∧ (State.wharfConfig s).bond.lifecycle = s.bond.lifecycle ∧ (State.wharfConfig s).time.ns = s.time.ns := by
  rw [State.wharfConfig.eq_def]; repeat' (first | (solve | simp only [↓State.modWharf_keeps, ↓State.set_keeps, ↓State.setFlag_keeps, ↓State.useSlot_keeps, and_self, ↓ite_keeps, ite_self, ↓State.modBond_keeps, ↓State.modTime_keeps]) | with_reducible exact ⟨rfl, rfl, rfl⟩ | split)

theorem State.wharfDelta_keeps (s old : State) :
    (State.wharfDelta s old).pending = s.pending ∧ (State.wharfDelta s old).bond.lifecycle = s.bond.lifecycle ∧ (State.wharfDelta s old).time.ns = s.time.ns := by
  rw [State.wharfDelta]; simp only [↓State.modWharf_keeps, ↓State.wharfConfig_keeps, and_self, ↓ite_keeps, ite_self, ↓State.modBond_keeps, ↓State.modTime_keeps]

end Sys2Proof.Machine
end

