-- ==== Sys2Proof/Laws/KeepFunctions.lean ====
section
/-!
SUPPORT. What the operations of Machine/Functions.lean leave alone: the queue, the life cycle and the timebase.
-/
set_option linter.unusedSimpArgs false

namespace Sys2Proof.Machine

theorem State.fnOn_keeps (s : State) (f : Nat) :
    (State.fnOn s f).pending = s.pending ∧ (State.fnOn s f).bond.lifecycle = s.bond.lifecycle ∧ (State.fnOn s f).time.ns = s.time.ns := by
  rw [State.fnOn]; simp only [↓State.balStart_keeps, ↓State.panelUp_keeps, ↓State.setFlag_keeps, ↓State.setFld_keeps, and_self, ↓ite_keeps, ite_self, ↓State.modBond_keeps, ↓State.modTime_keeps]

theorem State.fnOff_keeps (s : State) (f : Nat) :
    (State.fnOff s f).pending = s.pending ∧ (State.fnOff s f).bond.lifecycle = s.bond.lifecycle ∧ (State.fnOff s f).time.ns = s.time.ns := by
  rw [State.fnOff]; simp only [↓State.balOff_keeps, ↓State.panelDown_keeps, ↓State.plcOff_keeps, ↓State.radioOff_keeps, ↓State.setFlag_keeps, ↓State.setFld_keeps, and_self, ↓ite_keeps, ite_self, ↓State.modBond_keeps, ↓State.modTime_keeps]

theorem State.noteService_keeps (s : State) :
    (State.noteService s).pending = s.pending ∧ (State.noteService s).bond.lifecycle = s.bond.lifecycle ∧ (State.noteService s).time.ns = s.time.ns := by
  rw [State.noteService]; simp only [↓State.raise_keeps, ↓State.set_keeps, ↓State.setFlag_keeps, and_self, ↓ite_keeps, ite_self, ↓State.modBond_keeps, ↓State.modTime_keeps]

theorem State.startFns_keeps (s : State) :
    (State.startFns s).pending = s.pending ∧ (State.startFns s).bond.lifecycle = s.bond.lifecycle ∧ (State.startFns s).time.ns = s.time.ns := by
  rw [State.startFns]; simp only [↓State.fnOn_keeps, ↓State.modHm_keeps, ↓State.noteService_keeps, and_self, ↓ite_fst, ↓ite_keeps, ↓State.modBond_keeps, ↓State.modTime_keeps, ↓foldl_pending, ↓foldl_life, ↓foldl_ns, ↓foldl_fst_pending, ↓foldl_fst_life, ↓foldl_fst_ns, ite_self, implies_true]

theorem State.restartFn_keeps (s : State) (f : Nat) :
    (State.restartFn s f).pending = s.pending ∧ (State.restartFn s f).bond.lifecycle = s.bond.lifecycle ∧ (State.restartFn s f).time.ns = s.time.ns := by
  first | rw [State.restartFn] | rw [State.restartFn.eq_def]
  try dsimp only
  repeat' (first | (simp only [↓State.fnOn_keeps, ↓State.modHm_keeps, and_self, ↓ite_fst, ↓ite_keeps, ↓State.modBond_keeps, ↓State.modTime_keeps, ↓foldl_pending, ↓foldl_life, ↓foldl_ns, ↓foldl_fst_pending, ↓foldl_fst_life, ↓foldl_fst_ns, ite_self, implies_true]; done) | with_reducible exact ⟨rfl, rfl, rfl⟩ | (grind only [State.fnOn_keeps, State.modHm_keeps, ite_keeps, State.modBond_keeps, State.modTime_keeps]; done) | refine ⟨((foldl_pending _ _ _ ?_).trans ?_), ((foldl_life _ _ _ ?_).trans ?_), ((foldl_ns _ _ _ ?_).trans ?_)⟩ | refine ⟨((foldl_fst_pending _ _ _ ?_).trans ?_), ((foldl_fst_life _ _ _ ?_).trans ?_), ((foldl_fst_ns _ _ _ ?_).trans ?_)⟩ | refine ((foldl_pending _ _ _ ?_).trans ?_) | refine ((foldl_life _ _ _ ?_).trans ?_) | refine ((foldl_ns _ _ _ ?_).trans ?_) | refine ((foldl_fst_pending _ _ _ ?_).trans ?_) | refine ((foldl_fst_life _ _ _ ?_).trans ?_) | refine ((foldl_fst_ns _ _ _ ?_).trans ?_) | split | intro _ | simp only [↓State.fnOn_keeps, ↓State.modHm_keeps, and_self, ↓ite_fst, ↓ite_keeps, ↓State.modBond_keeps, ↓State.modTime_keeps, ↓foldl_pending, ↓foldl_life, ↓foldl_ns, ↓foldl_fst_pending, ↓foldl_fst_life, ↓foldl_fst_ns, ite_self, implies_true])

theorem execFunctionEnable_keeps (fn : Nat) (s : State) :
    ∀ s', (execFunctionEnable fn s) = .next s' → s'.pending = s.pending ∧ s'.bond.lifecycle = s.bond.lifecycle ∧ s'.time.ns = s.time.ns := by
  rw [execFunctionEnable.eq_def]; repeat' (first | with_reducible exact out_keeps ⟨rfl, rfl, rfl⟩ | with_reducible refine out_keeps ?_ | with_reducible refine out_both ?_ ?_ | (solve | simp only [↓State.fnOn_keeps, and_self]) | split)

theorem State.signalBack_keeps (s : State) :
    (State.signalBack s).pending = s.pending ∧ (State.signalBack s).bond.lifecycle = s.bond.lifecycle ∧ (State.signalBack s).time.ns = s.time.ns := by
  rw [State.signalBack]; simp only [↓State.fnOn_keeps, ↓State.modUpd_keeps, and_self, ↓ite_fst, ↓ite_keeps, ↓State.modBond_keeps, ↓State.modTime_keeps, ↓foldl_pending, ↓foldl_life, ↓foldl_ns, ↓foldl_fst_pending, ↓foldl_fst_life, ↓foldl_fst_ns, ite_self, implies_true]

theorem execFunctionOff_keeps (fn : Nat) (s : State) :
    ∀ s', (execFunctionOff fn s) = .next s' → s'.pending = s.pending ∧ s'.bond.lifecycle = s.bond.lifecycle ∧ s'.time.ns = s.time.ns := by
  rw [execFunctionOff.eq_def]; repeat' (first | with_reducible exact out_keeps ⟨rfl, rfl, rfl⟩ | with_reducible refine out_keeps ?_ | with_reducible refine out_both ?_ ?_ | (solve | simp only [↓State.fnOff_keeps, ↓State.restartFn_keeps, ↓State.signalBack_keeps, and_self]) | split)

end Sys2Proof.Machine
end

