-- ==== Sys2Proof/Laws/KeepPilot.lean ====
section
/-!
SUPPORT. What the operations of Machine/Pilot.lean leave alone: the queue, the life cycle and the timebase.
-/
set_option linter.unusedSimpArgs false

namespace Sys2Proof.Machine

theorem State.setClaim_keeps (s : State) (rank epoch : Nat) :
    (State.setClaim s rank epoch).pending = s.pending ∧ (State.setClaim s rank epoch).bond.lifecycle = s.bond.lifecycle ∧ (State.setClaim s rank epoch).time.ns = s.time.ns := by
  rw [State.setClaim]; simp only [↓State.modPilot_keeps, ↓State.set_keeps, ↓State.setFld_keeps, and_self]

theorem State.setPermit_keeps (s : State) :
    (State.setPermit s).pending = s.pending ∧ (State.setPermit s).bond.lifecycle = s.bond.lifecycle ∧ (State.setPermit s).time.ns = s.time.ns := by
  rw [State.setPermit]; simp only [↓State.setFlag_keeps, ↓State.stopEval_keeps, and_self]

theorem State.pilotConfig_keeps (s : State) :
    (State.pilotConfig s).pending = s.pending ∧ (State.pilotConfig s).bond.lifecycle = s.bond.lifecycle ∧ (State.pilotConfig s).time.ns = s.time.ns := by
  rw [State.pilotConfig.eq_def]; repeat' (first | (solve | simp only [↓State.set_keeps, ↓State.setFlag_keeps, and_self, ↓ite_keeps, ite_self, ↓State.modBond_keeps, ↓State.modTime_keeps]) | with_reducible exact ⟨rfl, rfl, rfl⟩ | split)

theorem State.pilotStart_keeps (s : State) :
    (State.pilotStart s).pending = s.pending ∧ (State.pilotStart s).bond.lifecycle = s.bond.lifecycle ∧ (State.pilotStart s).time.ns = s.time.ns := by
  rw [State.pilotStart]; simp only [↓State.modPilot_keeps, ↓State.setClaim_keeps, and_self, ↓ite_keeps, ite_self, ↓State.modBond_keeps, ↓State.modTime_keeps]

theorem State.pairForget_keeps (s : State) :
    (State.pairForget s).pending = s.pending ∧ (State.pairForget s).bond.lifecycle = s.bond.lifecycle ∧ (State.pairForget s).time.ns = s.time.ns := by
  rw [State.pairForget]; with_reducible exact ⟨rfl, rfl, rfl⟩

theorem State.drainFns_keeps (s : State) :
    (State.drainFns s).pending = s.pending ∧ (State.drainFns s).bond.lifecycle = s.bond.lifecycle ∧ (State.drainFns s).time.ns = s.time.ns := by
  first | rw [State.drainFns] | rw [State.drainFns.eq_def]
  try dsimp only
  repeat' (first | (simp only [↓State.disableFn_keeps, and_self, ↓ite_fst, ↓ite_keeps, ↓State.modBond_keeps, ↓State.modTime_keeps, ↓foldl_pending, ↓foldl_life, ↓foldl_ns, ↓foldl_fst_pending, ↓foldl_fst_life, ↓foldl_fst_ns, ite_self, implies_true]; done) | with_reducible exact ⟨rfl, rfl, rfl⟩ | (grind only [State.disableFn_keeps, ite_keeps, State.modBond_keeps, State.modTime_keeps]; done) | refine ⟨((foldl_pending _ _ _ ?_).trans ?_), ((foldl_life _ _ _ ?_).trans ?_), ((foldl_ns _ _ _ ?_).trans ?_)⟩ | refine ⟨((foldl_fst_pending _ _ _ ?_).trans ?_), ((foldl_fst_life _ _ _ ?_).trans ?_), ((foldl_fst_ns _ _ _ ?_).trans ?_)⟩ | refine ((foldl_pending _ _ _ ?_).trans ?_) | refine ((foldl_life _ _ _ ?_).trans ?_) | refine ((foldl_ns _ _ _ ?_).trans ?_) | refine ((foldl_fst_pending _ _ _ ?_).trans ?_) | refine ((foldl_fst_life _ _ _ ?_).trans ?_) | refine ((foldl_fst_ns _ _ _ ?_).trans ?_) | split | intro _ | simp only [↓State.disableFn_keeps, and_self, ↓ite_fst, ↓ite_keeps, ↓State.modBond_keeps, ↓State.modTime_keeps, ↓foldl_pending, ↓foldl_life, ↓foldl_ns, ↓foldl_fst_pending, ↓foldl_fst_life, ↓foldl_fst_ns, ite_self, implies_true])

theorem State.takeStandby_keeps (s : State) (epoch : Nat) :
    (State.takeStandby s epoch).pending = s.pending ∧ (State.takeStandby s epoch).bond.lifecycle = s.bond.lifecycle ∧ (State.takeStandby s epoch).time.ns = s.time.ns := by
  rw [State.takeStandby]; simp only [↓State.drainFns_keeps, ↓State.modPilot_keeps, ↓State.pairForget_keeps, ↓State.setClaim_keeps, ↓State.setPermit_keeps, and_self]

theorem State.drillOver_keeps (s : State) :
    (State.drillOver s).pending = s.pending ∧ (State.drillOver s).bond.lifecycle = s.bond.lifecycle ∧ (State.drillOver s).time.ns = s.time.ns := by
  first | rw [State.drillOver] | rw [State.drillOver.eq_def]
  try dsimp only
  repeat' (first | (simp only [↓State.modPilot_keeps, and_self, ↓ite_fst, ↓ite_keeps, ↓State.modBond_keeps, ↓State.modTime_keeps, ↓foldl_pending, ↓foldl_life, ↓foldl_ns, ↓foldl_fst_pending, ↓foldl_fst_life, ↓foldl_fst_ns, ite_self, implies_true]; done) | with_reducible exact ⟨rfl, rfl, rfl⟩ | (grind only [State.modPilot_keeps, ite_keeps, State.modBond_keeps, State.modTime_keeps]; done) | refine ⟨((foldl_pending _ _ _ ?_).trans ?_), ((foldl_life _ _ _ ?_).trans ?_), ((foldl_ns _ _ _ ?_).trans ?_)⟩ | refine ⟨((foldl_fst_pending _ _ _ ?_).trans ?_), ((foldl_fst_life _ _ _ ?_).trans ?_), ((foldl_fst_ns _ _ _ ?_).trans ?_)⟩ | refine ((foldl_pending _ _ _ ?_).trans ?_) | refine ((foldl_life _ _ _ ?_).trans ?_) | refine ((foldl_ns _ _ _ ?_).trans ?_) | refine ((foldl_fst_pending _ _ _ ?_).trans ?_) | refine ((foldl_fst_life _ _ _ ?_).trans ?_) | refine ((foldl_fst_ns _ _ _ ?_).trans ?_) | split | intro _ | simp only [↓State.modPilot_keeps, and_self, ↓ite_fst, ↓ite_keeps, ↓State.modBond_keeps, ↓State.modTime_keeps, ↓foldl_pending, ↓foldl_life, ↓foldl_ns, ↓foldl_fst_pending, ↓foldl_fst_life, ↓foldl_fst_ns, ite_self, implies_true])

theorem State.standDown_keeps (s : State) (c : Nat) :
    (State.standDown s c).pending = s.pending ∧ (State.standDown s c).bond.lifecycle = s.bond.lifecycle ∧ (State.standDown s c).time.ns = s.time.ns := by
  rw [State.standDown]; simp only [↓State.drillOver_keeps, ↓State.event_keeps, ↓State.raise_keeps, ↓State.takeStandby_keeps, and_self]

theorem State.commitLink_keeps (s : State) (e : Effect) :
    (State.commitLink s e).pending = s.pending ∧ (State.commitLink s e).bond.lifecycle = s.bond.lifecycle ∧ (State.commitLink s e).time.ns = s.time.ns := by
  rw [State.commitLink.eq_def]
  repeat' (first | (simp only [↓State.craftQueue_keeps, ↓State.plcCommit_keeps, ↓State.radioCommit_keeps, ↓State.wharfCommit_keeps, and_self, ↓ite_fst, ↓ite_keeps, ↓State.modBond_keeps, ↓State.modTime_keeps, ↓foldl_pending, ↓foldl_life, ↓foldl_ns, ↓foldl_fst_pending, ↓foldl_fst_life, ↓foldl_fst_ns, ite_self, implies_true]; done) | with_reducible exact ⟨rfl, rfl, rfl⟩ | (grind only [State.craftQueue_keeps, State.plcCommit_keeps, State.radioCommit_keeps, State.wharfCommit_keeps, ite_keeps, State.modBond_keeps, State.modTime_keeps]; done) | refine ⟨((foldl_pending _ _ _ ?_).trans ?_), ((foldl_life _ _ _ ?_).trans ?_), ((foldl_ns _ _ _ ?_).trans ?_)⟩ | refine ⟨((foldl_fst_pending _ _ _ ?_).trans ?_), ((foldl_fst_life _ _ _ ?_).trans ?_), ((foldl_fst_ns _ _ _ ?_).trans ?_)⟩ | refine ((foldl_pending _ _ _ ?_).trans ?_) | refine ((foldl_life _ _ _ ?_).trans ?_) | refine ((foldl_ns _ _ _ ?_).trans ?_) | refine ((foldl_fst_pending _ _ _ ?_).trans ?_) | refine ((foldl_fst_life _ _ _ ?_).trans ?_) | refine ((foldl_fst_ns _ _ _ ?_).trans ?_) | split | intro _ | simp only [↓State.craftQueue_keeps, ↓State.plcCommit_keeps, ↓State.radioCommit_keeps, ↓State.wharfCommit_keeps, and_self, ↓ite_fst, ↓ite_keeps, ↓State.modBond_keeps, ↓State.modTime_keeps, ↓foldl_pending, ↓foldl_life, ↓foldl_ns, ↓foldl_fst_pending, ↓foldl_fst_life, ↓foldl_fst_ns, ite_self, implies_true])

theorem State.releaseHeld_keeps (s : State) (upTo : Nat) :
    (State.releaseHeld s upTo).pending = s.pending ∧ (State.releaseHeld s upTo).bond.lifecycle = s.bond.lifecycle ∧ (State.releaseHeld s upTo).time.ns = s.time.ns := by
  rw [State.releaseHeld]; simp only [↓State.commitLink_keeps, and_self, ↓ite_fst, ↓ite_keeps, ↓State.modBond_keeps, ↓State.modTime_keeps, ↓foldl_pending, ↓foldl_life, ↓foldl_ns, ↓foldl_fst_pending, ↓foldl_fst_life, ↓foldl_fst_ns, ite_self, implies_true]

theorem State.checkGap_keeps (s : State) :
    (State.checkGap s).pending = s.pending ∧ (State.checkGap s).bond.lifecycle = s.bond.lifecycle ∧ (State.checkGap s).time.ns = s.time.ns := by
  rw [State.checkGap]; simp only [↓State.commitLink_keeps, ↓State.event_keeps, ↓State.modWharf_keeps, ↓State.raise_keeps, ↓State.setFlag_keeps, and_self, ↓ite_fst, ↓ite_keeps, ↓State.modBond_keeps, ↓State.modTime_keeps, ↓foldl_pending, ↓foldl_life, ↓foldl_ns, ↓foldl_fst_pending, ↓foldl_fst_life, ↓foldl_fst_ns, ite_self, implies_true]

theorem State.pairJournal_keeps (s : State) (type : Nat) (content : Bytes) :
    (State.pairJournal s type content).pending = s.pending ∧ (State.pairJournal s type content).bond.lifecycle = s.bond.lifecycle ∧ (State.pairJournal s type content).time.ns = s.time.ns := by
  rw [State.pairJournal]; simp only [↓State.checkGap_keeps, ↓State.toPartner_keeps, and_self, ↓ite_keeps, ite_self, ↓State.modBond_keeps, ↓State.modTime_keeps]

theorem State.journalSlots_keeps (s old : State) :
    (State.journalSlots s old).pending = s.pending ∧ (State.journalSlots s old).bond.lifecycle = s.bond.lifecycle ∧ (State.journalSlots s old).time.ns = s.time.ns := by
  rw [State.journalSlots]; simp only [↓State.pairJournal_keeps, and_self, ↓ite_fst, ↓ite_keeps, ↓State.modBond_keeps, ↓State.modTime_keeps, ↓foldl_pending, ↓foldl_life, ↓foldl_ns, ↓foldl_fst_pending, ↓foldl_fst_life, ↓foldl_fst_ns, ite_self, implies_true]

theorem State.journalRec_keeps (s : State) (epx : Nat) (old new : EpRec) :
    (State.journalRec s epx old new).pending = s.pending ∧ (State.journalRec s epx old new).bond.lifecycle = s.bond.lifecycle ∧ (State.journalRec s epx old new).time.ns = s.time.ns := by
  rw [State.journalRec]; simp only [↓State.pairJournal_keeps, and_self, ↓ite_keeps, ite_self, ↓State.modBond_keeps, ↓State.modTime_keeps]

theorem execRadioEntryPlace_keeps (port : Nat) (val : Word) (s : State) :
    ∀ s', (execRadioEntryPlace port val s) = .next s' → s'.pending = s.pending ∧ s'.bond.lifecycle = s.bond.lifecycle ∧ s'.time.ns = s.time.ns := by
  intro s'; first | rw [execRadioEntryPlace] | rw [execRadioEntryPlace.eq_def]
  try dsimp only
  repeat' (first | (simp only [↓State.entryPlace_keeps, ↓State.journalSlots_keeps, and_self, ↓ite_fst, ↓ite_keeps, ↓State.modBond_keeps, ↓State.modTime_keeps, ↓foldl_pending, ↓foldl_life, ↓foldl_ns, ↓foldl_fst_pending, ↓foldl_fst_life, ↓foldl_fst_ns, ite_self, implies_true]; done) | with_reducible exact ⟨rfl, rfl, rfl⟩ | (grind only [State.entryPlace_keeps, State.journalSlots_keeps, ite_keeps, State.modBond_keeps, State.modTime_keeps]; done) | (with_reducible refine out_next (P := fun s' => s'.pending = s.pending ∧ s'.bond.lifecycle = s.bond.lifecycle ∧ s'.time.ns = s.time.ns) ?_) | with_reducible refine out_ite ?_ ?_ | refine ⟨((foldl_pending _ _ _ ?_).trans ?_), ((foldl_life _ _ _ ?_).trans ?_), ((foldl_ns _ _ _ ?_).trans ?_)⟩ | refine ⟨((foldl_fst_pending _ _ _ ?_).trans ?_), ((foldl_fst_life _ _ _ ?_).trans ?_), ((foldl_fst_ns _ _ _ ?_).trans ?_)⟩ | refine ((foldl_pending _ _ _ ?_).trans ?_) | refine ((foldl_life _ _ _ ?_).trans ?_) | refine ((foldl_ns _ _ _ ?_).trans ?_) | refine ((foldl_fst_pending _ _ _ ?_).trans ?_) | refine ((foldl_fst_life _ _ _ ?_).trans ?_) | refine ((foldl_fst_ns _ _ _ ?_).trans ?_) | split | intro _ | simp only [↓State.entryPlace_keeps, ↓State.journalSlots_keeps, and_self, ↓ite_fst, ↓ite_keeps, ↓State.modBond_keeps, ↓State.modTime_keeps, ↓foldl_pending, ↓foldl_life, ↓foldl_ns, ↓foldl_fst_pending, ↓foldl_fst_life, ↓foldl_fst_ns, ite_self, implies_true])

theorem State.ckptNext_keeps (s : State) :
    (State.ckptNext s).pending = s.pending ∧ (State.ckptNext s).bond.lifecycle = s.bond.lifecycle ∧ (State.ckptNext s).time.ns = s.time.ns := by
  rw [State.ckptNext]; simp only [↓State.modWharf_keeps, ↓State.toPartner_keeps, and_self, ↓ite_keeps, ite_self, ↓State.modBond_keeps, ↓State.modTime_keeps]

theorem execCheckpointPassStart_keeps (s : State) :
    ∀ s', (execCheckpointPassStart s) = .next s' → s'.pending = s.pending ∧ s'.bond.lifecycle = s.bond.lifecycle ∧ s'.time.ns = s.time.ns := by
  intro s'; first | rw [execCheckpointPassStart] | rw [execCheckpointPassStart.eq_def]
  try dsimp only
  repeat' (first | (simp only [↓State.modWharf_keeps, ↓State.setFlag_keeps, and_self, ↓ite_fst, ↓ite_keeps, ↓State.modBond_keeps, ↓State.modTime_keeps, ↓foldl_pending, ↓foldl_life, ↓foldl_ns, ↓foldl_fst_pending, ↓foldl_fst_life, ↓foldl_fst_ns, ite_self, implies_true]; done) | with_reducible exact ⟨rfl, rfl, rfl⟩ | (grind only [State.modWharf_keeps, State.setFlag_keeps, ite_keeps, State.modBond_keeps, State.modTime_keeps]; done) | (with_reducible refine out_next (P := fun s' => s'.pending = s.pending ∧ s'.bond.lifecycle = s.bond.lifecycle ∧ s'.time.ns = s.time.ns) ?_) | with_reducible refine out_ite ?_ ?_ | refine ⟨((foldl_pending _ _ _ ?_).trans ?_), ((foldl_life _ _ _ ?_).trans ?_), ((foldl_ns _ _ _ ?_).trans ?_)⟩ | refine ⟨((foldl_fst_pending _ _ _ ?_).trans ?_), ((foldl_fst_life _ _ _ ?_).trans ?_), ((foldl_fst_ns _ _ _ ?_).trans ?_)⟩ | refine ((foldl_pending _ _ _ ?_).trans ?_) | refine ((foldl_life _ _ _ ?_).trans ?_) | refine ((foldl_ns _ _ _ ?_).trans ?_) | refine ((foldl_fst_pending _ _ _ ?_).trans ?_) | refine ((foldl_fst_life _ _ _ ?_).trans ?_) | refine ((foldl_fst_ns _ _ _ ?_).trans ?_) | split | intro _ | simp only [↓State.modWharf_keeps, ↓State.setFlag_keeps, and_self, ↓ite_fst, ↓ite_keeps, ↓State.modBond_keeps, ↓State.modTime_keeps, ↓foldl_pending, ↓foldl_life, ↓foldl_ns, ↓foldl_fst_pending, ↓foldl_fst_life, ↓foldl_fst_ns, ite_self, implies_true])

theorem execEthFrameTransmit_keeps (port : Nat) (s : State) :
    ∀ s', (execEthFrameTransmit port s) = .next s' → s'.pending = s.pending ∧ s'.bond.lifecycle = s.bond.lifecycle ∧ s'.time.ns = s.time.ns := by
  rw [execEthFrameTransmit]; with_reducible refine out_keeps ?_; simp only [↓State.ckptNext_keeps, ↓State.ethSend_keeps, and_self, ↓ite_keeps, ite_self, ↓State.modBond_keeps, ↓State.modTime_keeps]

theorem execJournalResend_keeps (s : State) :
    ∀ s', (execJournalResend s) = .next s' → s'.pending = s.pending ∧ s'.bond.lifecycle = s.bond.lifecycle ∧ s'.time.ns = s.time.ns := by
  rw [execJournalResend.eq_def]; repeat' (first | with_reducible exact out_keeps ⟨rfl, rfl, rfl⟩ | with_reducible refine out_keeps ?_ | with_reducible refine out_both ?_ ?_ | (solve | simp only [↓State.checkGap_keeps, ↓State.count_keeps, ↓State.modWharf_keeps, ↓State.udpSend_keeps, and_self, ↓ite_fst, ↓ite_keeps, ↓State.modBond_keeps, ↓State.modTime_keeps, ↓foldl_pending, ↓foldl_life, ↓foldl_ns, ↓foldl_fst_pending, ↓foldl_fst_life, ↓foldl_fst_ns, ite_self, implies_true]) | split)

theorem execJackSend_keeps (s : State) :
    ∀ s', (execJackSend s) = .next s' → s'.pending = s.pending ∧ s'.bond.lifecycle = s.bond.lifecycle ∧ s'.time.ns = s.time.ns := by
  rw [execJackSend.eq_def]; repeat' (first | with_reducible exact out_keeps ⟨rfl, rfl, rfl⟩ | with_reducible refine out_keeps ?_ | with_reducible refine out_both ?_ ?_ | (solve | simp only [↓State.toPartner_keeps, and_self]) | split)

theorem execWharfJack_keeps (s : State) :
    ∀ s', (execWharfJack s) = .next s' → s'.pending = s.pending ∧ s'.bond.lifecycle = s.bond.lifecycle ∧ s'.time.ns = s.time.ns := by
  rw [execWharfJack.eq_def]; try dsimp only
  repeat' (first | with_reducible exact out_keeps ⟨rfl, rfl, rfl⟩ | with_reducible refine out_keeps ?_ | with_reducible refine out_both ?_ ?_ | (solve | simp only [↓State.modPilot_keeps, ↓State.modWharf_keeps, ↓State.raise_keeps, ↓State.releaseHeld_keeps, ↓State.setFlag_keeps, ↓State.takeStandby_keeps, and_self, ↓ite_keeps, ite_self, ↓State.modBond_keeps, ↓State.modTime_keeps]) | with_reducible exact ⟨rfl, rfl, rfl⟩ | refine State.takeDgram_keeps _ _ _ ?_ _ | split | intro _)

theorem State.imageCheck_keeps (s : State) :
    (State.imageCheck s).pending = s.pending ∧ (State.imageCheck s).bond.lifecycle = s.bond.lifecycle ∧ (State.imageCheck s).time.ns = s.time.ns := by
  rw [State.imageCheck.eq_def]; repeat' (first | (solve | simp only [↓State.modWharf_keeps, ↓State.setFlag_keeps, and_self, ↓ite_keeps, ite_self, ↓State.modBond_keeps, ↓State.modTime_keeps]) | with_reducible exact ⟨rfl, rfl, rfl⟩ | split)

theorem execWharfCkpt_keeps (s : State) :
    ∀ s', (execWharfCkpt s) = .next s' → s'.pending = s.pending ∧ s'.bond.lifecycle = s.bond.lifecycle ∧ s'.time.ns = s.time.ns := by
  intro s'; first | rw [execWharfCkpt] | rw [execWharfCkpt.eq_def]
  try dsimp only
  repeat' (first | (simp only [↓State.imageCheck_keeps, ↓State.modWharf_keeps, ↓State.setFlag_keeps, and_self, ↓ite_fst, ↓ite_keeps, ↓State.modBond_keeps, ↓State.modTime_keeps, ↓foldl_pending, ↓foldl_life, ↓foldl_ns, ↓foldl_fst_pending, ↓foldl_fst_life, ↓foldl_fst_ns, ite_self, implies_true]; done) | with_reducible exact ⟨rfl, rfl, rfl⟩ | (grind only [State.imageCheck_keeps, State.modWharf_keeps, State.setFlag_keeps, ite_keeps, State.modBond_keeps, State.modTime_keeps]; done) | (with_reducible refine out_next (P := fun s' => s'.pending = s.pending ∧ s'.bond.lifecycle = s.bond.lifecycle ∧ s'.time.ns = s.time.ns) ?_) | with_reducible refine out_ite ?_ ?_ | refine State.takeDgram_keeps _ _ _ ?_ _ | refine ⟨((foldl_pending _ _ _ ?_).trans ?_), ((foldl_life _ _ _ ?_).trans ?_), ((foldl_ns _ _ _ ?_).trans ?_)⟩ | refine ⟨((foldl_fst_pending _ _ _ ?_).trans ?_), ((foldl_fst_life _ _ _ ?_).trans ?_), ((foldl_fst_ns _ _ _ ?_).trans ?_)⟩ | refine ((foldl_pending _ _ _ ?_).trans ?_) | refine ((foldl_life _ _ _ ?_).trans ?_) | refine ((foldl_ns _ _ _ ?_).trans ?_) | refine ((foldl_fst_pending _ _ _ ?_).trans ?_) | refine ((foldl_fst_life _ _ _ ?_).trans ?_) | refine ((foldl_fst_ns _ _ _ ?_).trans ?_) | split | intro _ | simp only [↓State.imageCheck_keeps, ↓State.modWharf_keeps, ↓State.setFlag_keeps, and_self, ↓ite_fst, ↓ite_keeps, ↓State.modBond_keeps, ↓State.modTime_keeps, ↓foldl_pending, ↓foldl_life, ↓foldl_ns, ↓foldl_fst_pending, ↓foldl_fst_life, ↓foldl_fst_ns, ite_self, implies_true])

theorem State.journalItem_keeps (s : State) (q : Nat) (it : Nat × Bytes) :
    (State.journalItem s q it).pending = s.pending ∧ (State.journalItem s q it).bond.lifecycle = s.bond.lifecycle ∧ (State.journalItem s q it).time.ns = s.time.ns := by
  rw [State.journalItem]; simp only [↓State.count_keeps, ↓State.modCustoms_keeps, ↓State.modPilot_keeps, ↓State.modWharf_keeps, and_self, ↓ite_keeps, ite_self, ↓State.modBond_keeps, ↓State.modTime_keeps]

theorem execWharfJournal_keeps (s : State) :
    ∀ s', (execWharfJournal s) = .next s' → s'.pending = s.pending ∧ s'.bond.lifecycle = s.bond.lifecycle ∧ s'.time.ns = s.time.ns := by
  rw [execWharfJournal.eq_def]; repeat' (first | with_reducible exact out_keeps ⟨rfl, rfl, rfl⟩ | with_reducible refine out_keeps ?_ | with_reducible refine out_both ?_ ?_ | (solve | simp only [↓State.imageCheck_keeps, ↓State.journalItem_keeps, ↓State.modWharf_keeps, and_self, ↓ite_fst, ↓ite_keeps, ↓State.modBond_keeps, ↓State.modTime_keeps, ↓foldl_pending, ↓foldl_life, ↓foldl_ns, ↓foldl_fst_pending, ↓foldl_fst_life, ↓foldl_fst_ns, ite_self, implies_true]) | split)

theorem execWharfHeartbeat_keeps (s : State) :
    ∀ s', (execWharfHeartbeat s) = .next s' → s'.pending = s.pending ∧ s'.bond.lifecycle = s.bond.lifecycle ∧ s'.time.ns = s.time.ns := by
  rw [execWharfHeartbeat.eq_def]; try dsimp only
  repeat' (first | with_reducible exact out_keeps ⟨rfl, rfl, rfl⟩ | with_reducible refine out_keeps ?_ | with_reducible refine out_both ?_ ?_ | (solve | simp only [↓State.heartbeatTake_keeps, ↓State.modPilot_keeps, ↓State.standDown_keeps, and_self, ↓ite_keeps, ite_self, ↓State.modBond_keeps, ↓State.modTime_keeps]) | with_reducible exact ⟨rfl, rfl, rfl⟩ | refine State.takeDgram_keeps _ _ _ ?_ _ | refine State.heartbeatTake_keeps _ _ _ ?_ | split | intro _)

theorem State.drillStep_keeps (s : State) :
    (State.drillStep s).pending = s.pending ∧ (State.drillStep s).bond.lifecycle = s.bond.lifecycle ∧ (State.drillStep s).time.ns = s.time.ns := by
  rw [State.drillStep]; simp only [↓State.modPilot_keeps, ↓State.pairJournal_keeps, and_self, ↓ite_keeps, ite_self, ↓State.modBond_keeps, ↓State.modTime_keeps]

theorem execClaimFrameSend_keeps (s : State) :
    ∀ s', (execClaimFrameSend s) = .next s' → s'.pending = s.pending ∧ s'.bond.lifecycle = s.bond.lifecycle ∧ s'.time.ns = s.time.ns := by
  rw [execClaimFrameSend.eq_def]; repeat' (first | with_reducible exact out_keeps ⟨rfl, rfl, rfl⟩ | with_reducible refine out_keeps ?_ | with_reducible refine out_both ?_ ?_ | (solve | simp only [↓State.drillStep_keeps, ↓State.modPilot_keeps, ↓State.raise_keeps, ↓State.setFlag_keeps, ↓State.setPermit_keeps, and_self]) | split)

theorem State.drillEnd_keeps (s : State) (result ms : Nat) :
    (State.drillEnd s result ms).pending = s.pending ∧ (State.drillEnd s result ms).bond.lifecycle = s.bond.lifecycle ∧ (State.drillEnd s result ms).time.ns = s.time.ns := by
  rw [State.drillEnd]; simp only [↓State.event_keeps, ↓State.modPilot_keeps, ↓State.raise_keeps, ↓State.set_keeps, ↓State.setFlag_keeps, and_self]

theorem execClaimFrameReceived_keeps (body : Bytes) (s : State) :
    ∀ s', (execClaimFrameReceived body s) = .next s' → s'.pending = s.pending ∧ s'.bond.lifecycle = s.bond.lifecycle ∧ s'.time.ns = s.time.ns := by
  rw [execClaimFrameReceived.eq_def]; repeat' (first | with_reducible exact out_keeps ⟨rfl, rfl, rfl⟩ | with_reducible refine out_keeps ?_ | with_reducible refine out_both ?_ ?_ | (solve | simp only [↓State.count_keeps, ↓State.drillEnd_keeps, ↓State.modPilot_keeps, ↓State.raise_keeps, ↓State.set_keeps, ↓State.setFlag_keeps, ↓State.setFld_keeps, ↓State.setPermit_keeps, ↓State.standDown_keeps, ↓State.takeStandby_keeps, and_self, ↓ite_keeps, ite_self, ↓State.modBond_keeps, ↓State.modTime_keeps]) | split)

theorem execClaimStartupDecision_keeps (s : State) :
    ∀ s', (execClaimStartupDecision s) = .next s' → s'.pending = s.pending ∧ s'.bond.lifecycle = s.bond.lifecycle ∧ s'.time.ns = s.time.ns := by
  rw [execClaimStartupDecision.eq_def]; repeat' (first | with_reducible exact out_keeps ⟨rfl, rfl, rfl⟩ | with_reducible refine out_keeps ?_ | with_reducible refine out_both ?_ ?_ | (solve | simp only [↓State.setClaim_keeps, ↓State.setPermit_keeps, and_self]) | split)

theorem execTakeover_keeps (s : State) :
    ∀ s', (execTakeover s) = .next s' → s'.pending = s.pending ∧ s'.bond.lifecycle = s.bond.lifecycle ∧ s'.time.ns = s.time.ns := by
  rw [execTakeover.eq_def]; repeat' (first | with_reducible exact out_keeps ⟨rfl, rfl, rfl⟩ | with_reducible refine out_keeps ?_ | with_reducible refine out_both ?_ ?_ | (solve | simp only [↓State.count_keeps, ↓State.event_keeps, ↓State.modPilot_keeps, ↓State.raise_keeps, ↓State.setClaim_keeps, ↓State.setPermit_keeps, and_self]) | split)

theorem State.copyImage_keeps (s : State) (i : Image) :
    (State.copyImage s i).pending = s.pending ∧ (State.copyImage s i).bond.lifecycle = s.bond.lifecycle ∧ (State.copyImage s i).time.ns = s.time.ns := by
  rw [State.copyImage]; simp only [↓State.modCraft_keeps, ↓State.modEp_keeps, ↓State.modPlc_keeps, ↓State.modPort_keeps, ↓State.set_keeps, and_self, ↓ite_fst, ↓ite_keeps, ↓State.modBond_keeps, ↓State.modTime_keeps, ↓foldl_pending, ↓foldl_life, ↓foldl_ns, ↓foldl_fst_pending, ↓foldl_fst_life, ↓foldl_fst_ns, ite_self, implies_true]

theorem State.applyItem_keeps (s : State) (i : Image) (x : Bytes) :
    (State.applyItem s i x).pending = s.pending ∧ (State.applyItem s i x).bond.lifecycle = s.bond.lifecycle ∧ (State.applyItem s i x).time.ns = s.time.ns := by
  rw [State.applyItem.eq_def]; repeat' (first | (solve | simp only [↓State.modEp_keeps, ↓State.modPort_keeps, ↓State.set_keeps, and_self, ↓ite_keeps, ite_self, ↓State.modBond_keeps, ↓State.modTime_keeps]) | with_reducible exact ⟨rfl, rfl, rfl⟩ | split)

theorem execTakeoverResume_keeps (s : State) :
    ∀ s', (execTakeoverResume s) = .next s' → s'.pending = s.pending ∧ s'.bond.lifecycle = s.bond.lifecycle ∧ s'.time.ns = s.time.ns := by
  rw [execTakeoverResume.eq_def]; repeat' (first | with_reducible exact out_keeps ⟨rfl, rfl, rfl⟩ | with_reducible refine out_keeps ?_ | with_reducible refine out_both ?_ ?_ | (solve | simp only [↓State.applyItem_keeps, ↓State.beatWorker_keeps, ↓State.copyImage_keeps, ↓State.event_keeps, ↓State.modCraft_keeps, ↓State.modPilot_keeps, ↓State.modWharf_keeps, ↓State.pairForget_keeps, ↓State.setPermit_keeps, ↓State.startFns_keeps, ↓State.stopEval_keeps, and_self, ↓ite_fst, ↓ite_keeps, ↓State.modBond_keeps, ↓State.modTime_keeps, ↓foldl_pending, ↓foldl_life, ↓foldl_ns, ↓foldl_fst_pending, ↓foldl_fst_life, ↓foldl_fst_ns, ite_self, implies_true]) | split)

theorem execPilotDrill_keeps (force : Bool) (s : State) :
    ∀ s', (execPilotDrill force s) = .next s' → s'.pending = s.pending ∧ s'.bond.lifecycle = s.bond.lifecycle ∧ s'.time.ns = s.time.ns := by
  rw [execPilotDrill.eq_def]; repeat' (first | with_reducible exact out_keeps ⟨rfl, rfl, rfl⟩ | with_reducible refine out_keeps ?_ | with_reducible refine out_both ?_ ?_ | (solve | simp only [↓State.drainFns_keeps, ↓State.modPilot_keeps, ↓State.raise_keeps, ↓State.set_keeps, ↓State.setFlag_keeps, and_self, ↓ite_fst, ↓ite_keeps, ↓State.modBond_keeps, ↓State.modTime_keeps, ↓foldl_pending, ↓foldl_life, ↓foldl_ns, ↓foldl_fst_pending, ↓foldl_fst_life, ↓foldl_fst_ns, ite_self, implies_true]) | split)

theorem execDrillTimeout_keeps (s : State) :
    ∀ s', (execDrillTimeout s) = .next s' → s'.pending = s.pending ∧ s'.bond.lifecycle = s.bond.lifecycle ∧ s'.time.ns = s.time.ns := by
  rw [execDrillTimeout.eq_def]; repeat' (first | with_reducible exact out_keeps ⟨rfl, rfl, rfl⟩ | with_reducible refine out_keeps ?_ | with_reducible refine out_both ?_ ?_ | (solve | simp only [↓State.drillEnd_keeps, ↓State.event_keeps, ↓State.modPilot_keeps, ↓State.setClaim_keeps, ↓State.startFns_keeps, and_self]) | split)

end Sys2Proof.Machine
end

