-- ==== Sys2Proof/Laws/KeepPtp.lean ====
section
/-!
SUPPORT. What the operations of Machine/Ptp.lean leave alone: the queue, the life cycle and the timebase.
-/
set_option linter.unusedSimpArgs false

namespace Sys2Proof.Machine

theorem State.showPtp_keeps (s : State) (n : Nat) :
    (State.showPtp s n).pending = s.pending ∧ (State.showPtp s n).bond.lifecycle = s.bond.lifecycle ∧ (State.showPtp s n).time.ns = s.time.ns := by
  with_reducible exact ⟨rfl, rfl, rfl⟩

theorem State.bmca_keeps (s : State) :
    (State.bmca s).pending = s.pending ∧ (State.bmca s).bond.lifecycle = s.bond.lifecycle ∧ (State.bmca s).time.ns = s.time.ns := by
  rw [State.bmca]; simp only [↓State.loseSource_keeps, ↓State.modPtp_keeps, ↓State.setFld_keeps, ↓State.setSource_keeps, ↓State.showPtp_keeps, and_self, ↓ite_fst, ↓ite_keeps, ↓State.modBond_keeps, ↓State.modTime_keeps, ↓foldl_pending, ↓foldl_life, ↓foldl_ns, ↓foldl_fst_pending, ↓foldl_fst_life, ↓foldl_fst_ns, ite_self, implies_true]

theorem State.ptpOffset_keeps (s : State) (n : Nat) (off : Int) :
    (State.ptpOffset s n off).pending = s.pending ∧ (State.ptpOffset s n off).bond.lifecycle = s.bond.lifecycle ∧ (State.ptpOffset s n off).time.ns = s.time.ns := by
  rw [State.ptpOffset]; simp only [↓State.observeSource_keeps, ↓State.setSource_keeps, and_self, ↓ite_keeps, ite_self, ↓State.modBond_keeps, ↓State.modTime_keeps]

theorem State.ptpSync_keeps (s : State) (n : Nat) (d : Int) :
    (State.ptpSync s n d).pending = s.pending ∧ (State.ptpSync s n d).bond.lifecycle = s.bond.lifecycle ∧ (State.ptpSync s n d).time.ns = s.time.ns := by
  rw [State.ptpSync]; simp only [↓State.modPtp_keeps, ↓State.ptpOffset_keeps, and_self]

theorem State.ptpAnnounce_keeps (s : State) (n : Nat) (rx : PtpRx) :
    (State.ptpAnnounce s n rx).pending = s.pending ∧ (State.ptpAnnounce s n rx).bond.lifecycle = s.bond.lifecycle ∧ (State.ptpAnnounce s n rx).time.ns = s.time.ns := by
  rw [State.ptpAnnounce]; simp only [↓State.bmca_keeps, ↓State.count_keeps, ↓State.enterLocked_keeps, ↓State.loseSource_keeps, ↓State.modPtp_keeps, ↓State.noteUtc_keeps, and_self, ↓ite_keeps, ite_self, ↓State.modBond_keeps, ↓State.modTime_keeps]

theorem State.ptpForward_keeps (s : State) (n t : Nat) (rx : PtpRx) :
    (State.ptpForward s n t rx).pending = s.pending ∧ (State.ptpForward s n t rx).bond.lifecycle = s.bond.lifecycle ∧ (State.ptpForward s n t rx).time.ns = s.time.ns := by
  rw [State.ptpForward]; simp only [↓State.ptpSend_keeps, and_self, ↓ite_fst, ↓ite_keeps, ↓State.modBond_keeps, ↓State.modTime_keeps, ↓foldl_pending, ↓foldl_life, ↓foldl_ns, ↓foldl_fst_pending, ↓foldl_fst_life, ↓foldl_fst_ns, ite_self, implies_true]

theorem State.ptpTake_keeps (s : State) (n t : Nat) (rx : PtpRx) :
    (State.ptpTake s n t rx).pending = s.pending ∧ (State.ptpTake s n t rx).bond.lifecycle = s.bond.lifecycle ∧ (State.ptpTake s n t rx).time.ns = s.time.ns := by
  rw [State.ptpTake.eq_def]; try dsimp only
  repeat' (first | (solve | simp only [↓State.modPtp_keeps, ↓State.ptpAnnounce_keeps, ↓State.ptpSend_keeps, ↓State.ptpSync_keeps, and_self, ↓ite_fst, ↓ite_keeps, ↓State.modBond_keeps, ↓State.modTime_keeps, ↓foldl_pending, ↓foldl_life, ↓foldl_ns, ↓foldl_fst_pending, ↓foldl_fst_life, ↓foldl_fst_ns, ite_self, implies_true]) | with_reducible exact ⟨rfl, rfl, rfl⟩ | refine ⟨foldl_pending _ _ _ ?_, foldl_life _ _ _ ?_, foldl_ns _ _ _ ?_⟩ | split | intro _)

theorem execPtpMessageReceived_keeps (port : Nat) (rx : PtpRx) (s : State) :
    ∀ s', (execPtpMessageReceived port rx s) = .next s' → s'.pending = s.pending ∧ s'.bond.lifecycle = s.bond.lifecycle ∧ s'.time.ns = s.time.ns := by
  rw [execPtpMessageReceived.eq_def]; repeat' (first | with_reducible exact out_keeps ⟨rfl, rfl, rfl⟩ | with_reducible refine out_keeps ?_ | with_reducible refine out_both ?_ ?_ | (solve | simp only [↓State.count_keeps, ↓State.ptpForward_keeps, ↓State.ptpTake_keeps, and_self]) | split)

theorem execPtpMessageSend_keeps (port mtype : Nat) (s : State) :
    ∀ s', (execPtpMessageSend port mtype s) = .next s' → s'.pending = s.pending ∧ s'.bond.lifecycle = s.bond.lifecycle ∧ s'.time.ns = s.time.ns := by
  rw [execPtpMessageSend.eq_def]; repeat' (first | with_reducible exact out_keeps ⟨rfl, rfl, rfl⟩ | with_reducible refine out_keeps ?_ | with_reducible refine out_both ?_ ?_ | (solve | simp only [↓State.modPtp_keeps, ↓State.ptpSend_keeps, and_self]) | split)

theorem execPtpAnnounceTimeout_keeps (port : Nat) (s : State) :
    ∀ s', (execPtpAnnounceTimeout port s) = .next s' → s'.pending = s.pending ∧ s'.bond.lifecycle = s.bond.lifecycle ∧ s'.time.ns = s.time.ns := by
  intro s'; first | rw [execPtpAnnounceTimeout] | rw [execPtpAnnounceTimeout.eq_def]
  try dsimp only
  repeat' (first | (simp only [↓State.bmca_keeps, ↓State.loseSource_keeps, ↓State.modPtp_keeps, and_self, ↓ite_fst, ↓ite_keeps, ↓State.modBond_keeps, ↓State.modTime_keeps, ↓foldl_pending, ↓foldl_life, ↓foldl_ns, ↓foldl_fst_pending, ↓foldl_fst_life, ↓foldl_fst_ns, ite_self, implies_true]; done) | with_reducible exact ⟨rfl, rfl, rfl⟩ | (grind only [State.bmca_keeps, State.loseSource_keeps, State.modPtp_keeps, ite_keeps, State.modBond_keeps, State.modTime_keeps]; done) | (with_reducible refine out_next (P := fun s' => s'.pending = s.pending ∧ s'.bond.lifecycle = s.bond.lifecycle ∧ s'.time.ns = s.time.ns) ?_) | with_reducible refine out_ite ?_ ?_ | refine ⟨((foldl_pending _ _ _ ?_).trans ?_), ((foldl_life _ _ _ ?_).trans ?_), ((foldl_ns _ _ _ ?_).trans ?_)⟩ | refine ⟨((foldl_fst_pending _ _ _ ?_).trans ?_), ((foldl_fst_life _ _ _ ?_).trans ?_), ((foldl_fst_ns _ _ _ ?_).trans ?_)⟩ | refine ((foldl_pending _ _ _ ?_).trans ?_) | refine ((foldl_life _ _ _ ?_).trans ?_) | refine ((foldl_ns _ _ _ ?_).trans ?_) | refine ((foldl_fst_pending _ _ _ ?_).trans ?_) | refine ((foldl_fst_life _ _ _ ?_).trans ?_) | refine ((foldl_fst_ns _ _ _ ?_).trans ?_) | split | intro _ | simp only [↓State.bmca_keeps, ↓State.loseSource_keeps, ↓State.modPtp_keeps, and_self, ↓ite_fst, ↓ite_keeps, ↓State.modBond_keeps, ↓State.modTime_keeps, ↓foldl_pending, ↓foldl_life, ↓foldl_ns, ↓foldl_fst_pending, ↓foldl_fst_life, ↓foldl_fst_ns, ite_self, implies_true])

end Sys2Proof.Machine
end

