-- ==== Sys2Proof/Laws/KeepPlanApply.lean ====
section
/-!
SUPPORT. What the operations of Machine/PlanApply.lean leave alone: the queue, the life cycle and the timebase.
-/
set_option linter.unusedSimpArgs false

namespace Sys2Proof.Machine

theorem State.atReset_keeps (s : State) (r : Reg) (i j : Nat) :
    (State.atReset s r i j).pending = s.pending ∧ (State.atReset s r i j).bond.lifecycle = s.bond.lifecycle ∧ (State.atReset s r i j).time.ns = s.time.ns := by
  with_reducible exact ⟨rfl, rfl, rfl⟩

theorem State.clocksConfig_keeps (s : State) :
    (State.clocksConfig s).pending = s.pending ∧ (State.clocksConfig s).bond.lifecycle = s.bond.lifecycle ∧ (State.clocksConfig s).time.ns = s.time.ns := by
  rw [State.clocksConfig]; simp only [↓State.set_keeps, ↓State.setFlag_keeps, ↓State.setFld_keeps, and_self]

theorem State.docksConfig_keeps (s : State) :
    (State.docksConfig s).pending = s.pending ∧ (State.docksConfig s).bond.lifecycle = s.bond.lifecycle ∧ (State.docksConfig s).time.ns = s.time.ns := by
  rw [State.docksConfig]; simp only [↓State.set_keeps, ↓State.setFld_keeps, and_self, ↓ite_fst, ↓ite_keeps, ↓State.modBond_keeps, ↓State.modTime_keeps, ↓foldl_pending, ↓foldl_life, ↓foldl_ns, ↓foldl_fst_pending, ↓foldl_fst_life, ↓foldl_fst_ns, ite_self, implies_true]

theorem State.berthsConfig_keeps (s : State) :
    (State.berthsConfig s).pending = s.pending ∧ (State.berthsConfig s).bond.lifecycle = s.bond.lifecycle ∧ (State.berthsConfig s).time.ns = s.time.ns := by
  rw [State.berthsConfig]; simp only [↓State.set_keeps, ↓State.setFlag_keeps, ↓State.setFld_keeps, and_self, ↓ite_fst, ↓ite_keeps, ↓State.modBond_keeps, ↓State.modTime_keeps, ↓foldl_pending, ↓foldl_life, ↓foldl_ns, ↓foldl_fst_pending, ↓foldl_fst_life, ↓foldl_fst_ns, ite_self, implies_true]

theorem State.plcConfig_keeps (s : State) :
    (State.plcConfig s).pending = s.pending ∧ (State.plcConfig s).bond.lifecycle = s.bond.lifecycle ∧ (State.plcConfig s).time.ns = s.time.ns := by
  rw [State.plcConfig]
  refine ⟨foldl_pending _ _ _ (fun s n => ?_), foldl_life _ _ _ (fun s n => ?_), foldl_ns _ _ _ (fun s n => ?_)⟩ <;> dsimp only <;>
    refine (by first | exact foldl_pending _ _ _ (fun _ _ => (State.set_keeps ..).1) | exact foldl_life _ _ _ (fun _ _ => (State.set_keeps ..).2.1) | exact foldl_ns _ _ _ (fun _ _ => (State.set_keeps ..).2.2) : _ = _).trans ?_ <;>
    cases (s.items 0x60 1).find? (fun v => leAt v 0 1 = n) <;> dsimp only <;>
    simp only [↓State.set_keeps, ↓State.atReset_keeps]

theorem State.plcDelta_keeps (old s : State) :
    (State.plcDelta old s).pending = s.pending ∧ (State.plcDelta old s).bond.lifecycle = s.bond.lifecycle ∧ (State.plcDelta old s).time.ns = s.time.ns := by
  rw [State.plcDelta]; simp only [↓State.modPlc_keeps, and_self, ↓ite_fst, ↓ite_keeps, ↓State.modBond_keeps, ↓State.modTime_keeps, ↓foldl_pending, ↓foldl_life, ↓foldl_ns, ↓foldl_fst_pending, ↓foldl_fst_life, ↓foldl_fst_ns, ite_self, implies_true]

theorem State.radioConfig_keeps (s : State) :
    (State.radioConfig s).pending = s.pending ∧ (State.radioConfig s).bond.lifecycle = s.bond.lifecycle ∧ (State.radioConfig s).time.ns = s.time.ns := by
  rw [State.radioConfig]; dsimp only
  refine ⟨(foldl_pending _ _ _ (fun s n => ?_)).trans (foldl_pending _ _ _ (fun s n => ?_)), (foldl_life _ _ _ (fun s n => ?_)).trans (foldl_life _ _ _ (fun s n => ?_)), (foldl_ns _ _ _ (fun s n => ?_)).trans (foldl_ns _ _ _ (fun s n => ?_))⟩ <;>
  split <;>
    simp only [↓State.set_keeps, ↓State.atReset_keeps]

theorem State.radioDelta_keeps (s : State) :
    (State.radioDelta s).pending = s.pending ∧ (State.radioDelta s).bond.lifecycle = s.bond.lifecycle ∧ (State.radioDelta s).time.ns = s.time.ns := by
  rw [State.radioDelta]; simp only [↓State.linkEvent_keeps, ↓State.modPort_keeps, and_self, ↓ite_fst, ↓ite_keeps, ↓State.modBond_keeps, ↓State.modTime_keeps, ↓foldl_pending, ↓foldl_life, ↓foldl_ns, ↓foldl_fst_pending, ↓foldl_fst_life, ↓foldl_fst_ns, ite_self, implies_true]

theorem State.veeConfig_keeps (s : State) :
    (State.veeConfig s).pending = s.pending ∧ (State.veeConfig s).bond.lifecycle = s.bond.lifecycle ∧ (State.veeConfig s).time.ns = s.time.ns := by
  with_reducible exact ⟨rfl, rfl, rfl⟩

theorem State.timeConfig_keeps (old s : State) :
    (State.timeConfig old s).pending = s.pending ∧ (State.timeConfig old s).bond.lifecycle = s.bond.lifecycle ∧ (State.timeConfig old s).time.ns = s.time.ns := by
  rw [State.timeConfig]; simp only [↓State.bmca_keeps, ↓State.publish_keeps, ↓State.set_keeps, ↓State.setFlag_keeps, and_self, ↓ite_fst, ↓ite_keeps, ↓State.modBond_keeps, ↓State.modTime_keeps, ↓foldl_pending, ↓foldl_life, ↓foldl_ns, ↓foldl_fst_pending, ↓foldl_fst_life, ↓foldl_fst_ns, ite_self, implies_true]

theorem State.reselect_keeps (s : State) :
    (State.reselect s).pending = s.pending ∧ (State.reselect s).bond.lifecycle = s.bond.lifecycle ∧ (State.reselect s).time.ns = s.time.ns := by
  rw [State.reselect.eq_def]; repeat' (first | (solve | simp only [↓State.lockOn_keeps, ↓State.sourceLost_keeps, and_self, ↓ite_keeps, ite_self, ↓State.modBond_keeps, ↓State.modTime_keeps]) | with_reducible exact ⟨rfl, rfl, rfl⟩ | split)

theorem State.panelConfig_keeps (s : State) :
    (State.panelConfig s).pending = s.pending ∧ (State.panelConfig s).bond.lifecycle = s.bond.lifecycle ∧ (State.panelConfig s).time.ns = s.time.ns := by
  rw [State.panelConfig]; simp only [↓State.set_keeps, and_self, ↓ite_fst, ↓ite_keeps, ↓State.modBond_keeps, ↓State.modTime_keeps, ↓foldl_pending, ↓foldl_life, ↓foldl_ns, ↓foldl_fst_pending, ↓foldl_fst_life, ↓foldl_fst_ns, ite_self, implies_true]

theorem State.pinsConfig_keeps (s : State) :
    (State.pinsConfig s).pending = s.pending ∧ (State.pinsConfig s).bond.lifecycle = s.bond.lifecycle ∧ (State.pinsConfig s).time.ns = s.time.ns := by
  rw [State.pinsConfig]; dsimp only
  refine ⟨(foldl_pending _ _ _ (fun s n => ?_)).trans (foldl_pending _ _ _ (fun s n => ?_)), (foldl_life _ _ _ (fun s n => ?_)).trans (foldl_life _ _ _ (fun s n => ?_)), (foldl_ns _ _ _ (fun s n => ?_)).trans (foldl_ns _ _ _ (fun s n => ?_))⟩ <;>
  (try cases (s.items 0x130 1).find? (fun v => leAt v 0 1 = n)) <;> (try dsimp only) <;>
    simp only [↓State.set_keeps, ↓State.setFlag_keeps, ↓State.setFld_keeps, ↓State.atReset_keeps]

theorem State.applySection_keeps (old s : State) (delta : Bool) (tag : Nat) :
    (State.applySection old s delta tag).pending = s.pending ∧ (State.applySection old s delta tag).bond.lifecycle = s.bond.lifecycle ∧ (State.applySection old s delta tag).time.ns = s.time.ns := by
  rw [State.applySection.eq_def]
  repeat' (first | (simp only [↓State.balConfig_keeps, ↓State.balDelta_keeps, ↓State.berthsConfig_keeps, ↓State.checkDuty_keeps, ↓State.clocksConfig_keeps, ↓State.craftConfig_keeps, ↓State.craftDelta_keeps, ↓State.docksConfig_keeps, ↓State.fleetChanged_keeps, ↓State.logConfig_keeps, ↓State.panelConfig_keeps, ↓State.pilotConfig_keeps, ↓State.pinsConfig_keeps, ↓State.plcConfig_keeps, ↓State.plcDelta_keeps, ↓State.radioConfig_keeps, ↓State.reselect_keeps, ↓State.storeConfig_keeps, ↓State.timeConfig_keeps, ↓State.veeConfig_keeps, ↓State.wharfConfig_keeps, ↓State.wharfDelta_keeps, and_self, ↓ite_fst, ↓ite_keeps, ↓State.modBond_keeps, ↓State.modTime_keeps, ↓foldl_pending, ↓foldl_life, ↓foldl_ns, ↓foldl_fst_pending, ↓foldl_fst_life, ↓foldl_fst_ns, ite_self, implies_true]; done) | with_reducible exact ⟨rfl, rfl, rfl⟩ | split)

end Sys2Proof.Machine
end

