-- ==== Sys2Proof/Laws/KeepLoader.lean ====
section
/-!
SUPPORT. What the operations of Machine/Loader.lean leave alone: the queue, the life cycle and the timebase.
-/
set_option linter.unusedSimpArgs false

namespace Sys2Proof.Machine

theorem State.usePlanKeys_keeps (s : State) (limit : Nat) (b : Bytes) :
    (State.usePlanKeys s limit b).pending = s.pending ∧ (State.usePlanKeys s limit b).bond.lifecycle = s.bond.lifecycle ∧ (State.usePlanKeys s limit b).time.ns = s.time.ns := by
  first | rw [State.usePlanKeys] | rw [State.usePlanKeys.eq_def]
  try dsimp only
  repeat' (first | (simp only [↓State.useSlot_keeps, and_self, ↓ite_fst, ↓ite_keeps, ↓State.modBond_keeps, ↓State.modTime_keeps, ↓foldl_pending, ↓foldl_life, ↓foldl_ns, ↓foldl_fst_pending, ↓foldl_fst_life, ↓foldl_fst_ns, ite_self, implies_true]; done) | with_reducible exact ⟨rfl, rfl, rfl⟩ | (grind only [State.useSlot_keeps, ite_keeps, State.modBond_keeps, State.modTime_keeps]; done) | refine ⟨((foldl_pending _ _ _ ?_).trans ?_), ((foldl_life _ _ _ ?_).trans ?_), ((foldl_ns _ _ _ ?_).trans ?_)⟩ | refine ⟨((foldl_fst_pending _ _ _ ?_).trans ?_), ((foldl_fst_life _ _ _ ?_).trans ?_), ((foldl_fst_ns _ _ _ ?_).trans ?_)⟩ | refine ((foldl_pending _ _ _ ?_).trans ?_) | refine ((foldl_life _ _ _ ?_).trans ?_) | refine ((foldl_ns _ _ _ ?_).trans ?_) | refine ((foldl_fst_pending _ _ _ ?_).trans ?_) | refine ((foldl_fst_life _ _ _ ?_).trans ?_) | refine ((foldl_fst_ns _ _ _ ?_).trans ?_) | split | intro _ | simp only [↓State.useSlot_keeps, and_self, ↓ite_fst, ↓ite_keeps, ↓State.modBond_keeps, ↓State.modTime_keeps, ↓foldl_pending, ↓foldl_life, ↓foldl_ns, ↓foldl_fst_pending, ↓foldl_fst_life, ↓foldl_fst_ns, ite_self, implies_true])

theorem State.setLoader_keeps (s : State) (v : Nat) :
    (State.setLoader s v).pending = s.pending ∧ (State.setLoader s v).bond.lifecycle = s.bond.lifecycle ∧ (State.setLoader s v).time.ns = s.time.ns := by
  with_reducible exact ⟨rfl, rfl, rfl⟩

theorem State.setSerial_keeps (s : State) (n : Nat) :
    (State.setSerial s n).pending = s.pending ∧ (State.setSerial s n).bond.lifecycle = s.bond.lifecycle ∧ (State.setSerial s n).time.ns = s.time.ns := by
  with_reducible exact ⟨rfl, rfl, rfl⟩

theorem State.applyPlan_keeps (s : State) (xs : List Section) (fault : Option Nat) :
    (State.applyPlan s xs fault).1.pending = s.pending ∧ (State.applyPlan s xs fault).1.bond.lifecycle = s.bond.lifecycle ∧ (State.applyPlan s xs fault).1.time.ns = s.time.ns := by
  rw [State.applyPlan.eq_def]; try dsimp only
  repeat' (first | (solve | simp only [↓State.applySection_keeps, ↓State.customsSection_keeps, ↓State.modPlan_keeps, and_self, ↓ite_fst, ↓ite_keeps, ↓State.modBond_keeps, ↓State.modTime_keeps, ↓foldl_pending, ↓foldl_life, ↓foldl_ns, ↓foldl_fst_pending, ↓foldl_fst_life, ↓foldl_fst_ns, ite_self, implies_true]) | with_reducible exact ⟨rfl, rfl, rfl⟩ | refine ⟨foldl_pending _ _ _ ?_, foldl_life _ _ _ ?_, foldl_ns _ _ _ ?_⟩ | split | intro _)

theorem State.applyPlan_eq (s : State) (xs : List Section) (fault : Option Nat) (s' : State) (x' : PlanErr) (he : (State.applyPlan s xs fault) = (s', x')) :
    s'.pending = s.pending ∧ s'.bond.lifecycle = s.bond.lifecycle ∧ s'.time.ns = s.time.ns := by
  have hk := State.applyPlan_keeps s xs fault; rw [he] at hk; exact hk

theorem State.seal_keeps (s : State) (copy : Nat) (xs : List Section) :
    (State.seal s copy xs).pending = s.pending ∧ (State.seal s copy xs).bond.lifecycle = s.bond.lifecycle ∧ (State.seal s copy xs).time.ns = s.time.ns := by
  with_reducible exact ⟨rfl, rfl, rfl⟩

theorem State.tryCopy_keeps (s : State) (copy : Nat) (b : Bytes) (fault : Option Nat) :
    (State.tryCopy s copy b fault).1.pending = s.pending ∧ (State.tryCopy s copy b fault).1.bond.lifecycle = s.bond.lifecycle ∧ (State.tryCopy s copy b fault).1.time.ns = s.time.ns := by
  rw [State.tryCopy]; simp only [↓State.applyPlan_keeps, ↓State.modPlan_keeps, ↓State.seal_keeps, ↓State.set_keeps, ↓State.usePlanKeys_keeps, and_self, ↓ite_fst, ↓ite_keeps, ↓State.modBond_keeps, ↓State.modTime_keeps, ↓foldl_pending, ↓foldl_life, ↓foldl_ns, ↓foldl_fst_pending, ↓foldl_fst_life, ↓foldl_fst_ns, ite_self, implies_true]

theorem State.tryCopy_eq (s : State) (copy : Nat) (b : Bytes) (fault : Option Nat) (s' : State) (x' : PlanErr) (he : (State.tryCopy s copy b fault) = (s', x')) :
    s'.pending = s.pending ∧ s'.bond.lifecycle = s.bond.lifecycle ∧ s'.time.ns = s.time.ns := by
  have hk := State.tryCopy_keeps s copy b fault; rw [he] at hk; exact hk

theorem State.loaderFails_keeps (s : State) :
    (State.loaderFails s).pending = s.pending ∧ (State.loaderFails s).bond.lifecycle = s.bond.lifecycle ∧ (State.loaderFails s).time.ns = s.time.ns := by
  rw [State.loaderFails]; simp only [↓State.raise_keeps, ↓State.setLoader_keeps, and_self]

theorem State.runLoader_keeps (s : State) (primary fallback : Bytes) (fault0 fault1 : Option Nat) :
    (State.runLoader s primary fallback fault0 fault1).pending = s.pending ∧ (State.runLoader s primary fallback fault0 fault1).bond.lifecycle = s.bond.lifecycle ∧ (State.runLoader s primary fallback fault0 fault1).time.ns = s.time.ns := by
  rw [State.runLoader]; simp only [↓State.event_keeps, ↓State.loaderFails_keeps, ↓State.raise_keeps, ↓State.set_keeps, ↓State.tryCopy_keeps, and_self, ↓ite_keeps, ite_self, ↓State.modBond_keeps, ↓State.modTime_keeps]

theorem State.checkDelta_keeps (s : State) (b : Bytes) :
    (State.checkDelta s b).1.pending = s.pending ∧ (State.checkDelta s b).1.bond.lifecycle = s.bond.lifecycle ∧ (State.checkDelta s b).1.time.ns = s.time.ns := by
  rw [State.checkDelta]
  generalize frames 1048576 b = f
  dsimp only
  split
  · exact ⟨rfl, rfl, rfl⟩
  · split
    · try dsimp only
      split
      · exact ⟨rfl, rfl, rfl⟩
      · split
        · exact ⟨rfl, rfl, rfl⟩
        · try dsimp only
          split
          · exact State.customsSection_keeps ..
          · exact ⟨rfl, rfl, rfl⟩
    · exact ⟨rfl, rfl, rfl⟩

theorem State.checkDelta_eq (s : State) (b : Bytes) (s' : State) (x' : List Section × Nat × PlanErr) (he : (State.checkDelta s b) = (s', x')) :
    s'.pending = s.pending ∧ s'.bond.lifecycle = s.bond.lifecycle ∧ s'.time.ns = s.time.ns := by
  have hk := State.checkDelta_keeps s b; rw [he] at hk; exact hk

theorem State.holdNext_keeps (s : State) :
    (State.holdNext s).pending = s.pending ∧ (State.holdNext s).bond.lifecycle = s.bond.lifecycle ∧ (State.holdNext s).time.ns = s.time.ns := by
  rw [State.holdNext.eq_def]; repeat' (first | (solve | simp only [↓State.disableFn_keeps, ↓State.modHm_keeps, ↓State.modPlan_keeps, and_self, ↓ite_fst, ↓ite_keeps, ↓State.modBond_keeps, ↓State.modTime_keeps, ↓foldl_pending, ↓foldl_life, ↓foldl_ns, ↓foldl_fst_pending, ↓foldl_fst_life, ↓foldl_fst_ns, ite_self, implies_true]) | with_reducible exact ⟨rfl, rfl, rfl⟩ | split)

theorem State.refuseDelta_keeps (s : State) (e : PlanErr) :
    (State.refuseDelta s e).pending = s.pending ∧ (State.refuseDelta s e).bond.lifecycle = s.bond.lifecycle ∧ (State.refuseDelta s e).time.ns = s.time.ns := by
  rw [State.refuseDelta]; simp only [↓State.raise_keeps, ↓State.set_keeps, and_self]

theorem execApplyDelta_keeps (data : Bytes) (s : State) :
    ∀ s', (execApplyDelta data s) = .next s' → s'.pending = s.pending ∧ s'.bond.lifecycle = s.bond.lifecycle ∧ s'.time.ns = s.time.ns := by
  rw [execApplyDelta.eq_def]; repeat' (first | with_reducible exact out_keeps ⟨rfl, rfl, rfl⟩ | with_reducible refine out_keeps ?_ | with_reducible refine out_both ?_ ?_ | (solve | simp only [↓State.checkDelta_keeps, ↓State.holdNext_keeps, ↓State.modPlan_keeps, ↓State.modPwr_keeps, ↓State.refuseDelta_keeps, ↓State.set_keeps, ↓State.setLoader_keeps, ↓State.usePlanKeys_keeps, and_self]) | split)

theorem State.applyDelta_keeps (s : State) (x : Section) :
    (State.applyDelta s x).pending = s.pending ∧ (State.applyDelta s x).bond.lifecycle = s.bond.lifecycle ∧ (State.applyDelta s x).time.ns = s.time.ns := by
  rw [State.applyDelta]; simp only [↓State.applySection_keeps, ↓State.fnOff_keeps, ↓State.modHm_keeps, ↓State.modPlan_keeps, ↓State.radioDelta_keeps, ↓State.setFlag_keeps, ↓State.setFld_keeps, and_self, ↓ite_fst, ↓ite_keeps, ↓State.modBond_keeps, ↓State.modTime_keeps, ↓foldl_pending, ↓foldl_life, ↓foldl_ns, ↓foldl_fst_pending, ↓foldl_fst_life, ↓foldl_fst_ns, ite_self, implies_true]

theorem State.deltaDone_keeps (s : State) :
    (State.deltaDone s).pending = s.pending ∧ (State.deltaDone s).bond.lifecycle = s.bond.lifecycle ∧ (State.deltaDone s).time.ns = s.time.ns := by
  rw [State.deltaDone]; simp only [↓State.event_keeps, ↓State.modPwr_keeps, ↓State.raise_keeps, ↓State.setFld_keeps, ↓State.setLoader_keeps, ↓State.setSerial_keeps, and_self]

theorem execDeltaSectionApply_keeps (s : State) :
    ∀ s', (execDeltaSectionApply s) = .next s' → s'.pending = s.pending ∧ s'.bond.lifecycle = s.bond.lifecycle ∧ s'.time.ns = s.time.ns := by
  rw [execDeltaSectionApply.eq_def]; repeat' (first | with_reducible exact out_keeps ⟨rfl, rfl, rfl⟩ | with_reducible refine out_keeps ?_ | with_reducible refine out_both ?_ ?_ | (solve | simp only [↓State.applyDelta_keeps, ↓State.deltaDone_keeps, ↓State.holdNext_keeps, and_self]) | split)

theorem State.deltaCutShort_keeps (s : State) :
    (State.deltaCutShort s).pending = s.pending ∧ (State.deltaCutShort s).bond.lifecycle = s.bond.lifecycle ∧ (State.deltaCutShort s).time.ns = s.time.ns := by
  rw [State.deltaCutShort.eq_def]; repeat' (first | (solve | simp only [↓State.applyDelta_keeps, ↓State.modPlan_keeps, ↓State.setFlag_keeps, ↓State.setLoader_keeps, and_self, ↓ite_keeps, ite_self, ↓State.modBond_keeps, ↓State.modTime_keeps]) | with_reducible exact ⟨rfl, rfl, rfl⟩ | split)

end Sys2Proof.Machine
end

