-- ==== Sys2Proof/Laws/KeepReset.lean ====
section
/-!
SUPPORT. What the operations of Machine/Reset.lean leave alone: the queue, the life cycle and the timebase.
-/
set_option linter.unusedSimpArgs false

namespace Sys2Proof.Machine

theorem State.resetRegs_keeps (s : State) (keep : List Reg) :
    (State.resetRegs s keep).pending = s.pending ∧ (State.resetRegs s keep).bond.lifecycle = s.bond.lifecycle ∧ (State.resetRegs s keep).time.ns = s.time.ns := by
  with_reducible exact ⟨rfl, rfl, rfl⟩

theorem State.keepDocks_keeps (s old : State) :
    (State.keepDocks s old).pending = s.pending ∧ (State.keepDocks s old).bond.lifecycle = s.bond.lifecycle ∧ (State.keepDocks s old).time.ns = s.time.ns := by
  rw [State.keepDocks]; simp only [↓State.set_keeps, and_self, ↓ite_fst, ↓ite_keeps, ↓State.modBond_keeps, ↓State.modTime_keeps, ↓foldl_pending, ↓foldl_life, ↓foldl_ns, ↓foldl_fst_pending, ↓foldl_fst_life, ↓foldl_fst_ns, ite_self, implies_true]

theorem State.noteStart_keeps (s : State) (cause : Nat) (more : List (Nat × Nat × Nat)) :
    (State.noteStart s cause more).pending = s.pending ∧ (State.noteStart s cause more).bond.lifecycle = s.bond.lifecycle ∧ (State.noteStart s cause more).time.ns = s.time.ns := by
  with_reducible exact ⟨rfl, rfl, rfl⟩

theorem State.wipe_keeps (s : State) (cause : Nat) (fencingKept : Bool) :
    (State.wipe s cause fencingKept).pending = s.pending ∧ (State.wipe s cause fencingKept).bond.lifecycle = s.bond.lifecycle ∧ (State.wipe s cause fencingKept).time.ns = s.time.ns := by
  rw [State.wipe]; simp only [↓State.keepDocks_keeps, ↓State.modBal_keeps, ↓State.modCraft_keeps, ↓State.modDma_keeps, ↓State.modEp_keeps, ↓State.modEth_keeps, ↓State.modHm_keeps, ↓State.modHost_keeps, ↓State.modPilot_keeps, ↓State.modPlan_keeps, ↓State.modPwr_keeps, ↓State.modRadio_keeps, ↓State.modStore_keeps, ↓State.modUpd_keeps, ↓State.modWharf_keeps, ↓State.panelCut_keeps, ↓State.resetRegs_keeps, ↓State.set_keeps, ↓State.setFlag_keeps, and_self, ↓ite_keeps, ite_self, ↓State.modBond_keeps, ↓State.modTime_keeps]

theorem State.customsLoses_keeps (s : State) (refclk : Bool) :
    (State.customsLoses s refclk).pending = s.pending ∧ (State.customsLoses s refclk).bond.lifecycle = s.bond.lifecycle ∧ (State.customsLoses s refclk).time.ns = s.time.ns := by
  first | rw [State.customsLoses] | rw [State.customsLoses.eq_def]
  try dsimp only
  repeat' (first | (simp only [↓State.cusFlush_keeps, ↓State.customsPowerDown_keeps, ↓State.modCustoms_keeps, and_self, ↓ite_fst, ↓ite_keeps, ↓State.modBond_keeps, ↓State.modTime_keeps, ↓foldl_pending, ↓foldl_life, ↓foldl_ns, ↓foldl_fst_pending, ↓foldl_fst_life, ↓foldl_fst_ns, ite_self, implies_true]; done) | with_reducible exact ⟨rfl, rfl, rfl⟩ | (grind only [State.cusFlush_keeps, State.customsPowerDown_keeps, State.modCustoms_keeps, ite_keeps, State.modBond_keeps, State.modTime_keeps]; done) | refine ⟨((foldl_pending _ _ _ ?_).trans ?_), ((foldl_life _ _ _ ?_).trans ?_), ((foldl_ns _ _ _ ?_).trans ?_)⟩ | refine ⟨((foldl_fst_pending _ _ _ ?_).trans ?_), ((foldl_fst_life _ _ _ ?_).trans ?_), ((foldl_fst_ns _ _ _ ?_).trans ?_)⟩ | refine ((foldl_pending _ _ _ ?_).trans ?_) | refine ((foldl_life _ _ _ ?_).trans ?_) | refine ((foldl_ns _ _ _ ?_).trans ?_) | refine ((foldl_fst_pending _ _ _ ?_).trans ?_) | refine ((foldl_fst_life _ _ _ ?_).trans ?_) | refine ((foldl_fst_ns _ _ _ ?_).trans ?_) | split | intro _ | simp only [↓State.cusFlush_keeps, ↓State.customsPowerDown_keeps, ↓State.modCustoms_keeps, and_self, ↓ite_fst, ↓ite_keeps, ↓State.modBond_keeps, ↓State.modTime_keeps, ↓foldl_pending, ↓foldl_life, ↓foldl_ns, ↓foldl_fst_pending, ↓foldl_fst_life, ↓foldl_fst_ns, ite_self, implies_true])

theorem State.takeReset_keeps (s : State) (cause : Nat) (fencingKept : Bool) :
    (State.takeReset s cause fencingKept).pending = s.pending ∧ (State.takeReset s cause fencingKept).bond.lifecycle = s.bond.lifecycle ∧ (State.takeReset s cause fencingKept).time.ns = s.time.ns := by
  rw [State.takeReset]; simp only [↓State.customsLoses_keeps, ↓State.flushCache_keeps, ↓State.noteStart_keeps, ↓State.wipe_keeps, and_self, ↓ite_keeps, ite_self, ↓State.modBond_keeps, ↓State.modTime_keeps]

theorem State.sysReset_keeps (s : State) :
    (State.sysReset s).pending = s.pending ∧ (State.sysReset s).bond.lifecycle = s.bond.lifecycle ∧ (State.sysReset s).time.ns = s.time.ns := by
  rw [State.sysReset]; simp only [↓State.takeReset_keeps, and_self]

theorem State.reloadTime_keeps (s : State) (off : Option Nat) :
    (State.reloadTime s off).pending = s.pending ∧ (State.reloadTime s off).bond.lifecycle = s.bond.lifecycle := by
  rw [State.reloadTime]
  simp only [↓State.publish_keeps, ↓State.set_keeps, and_self, ↓ite_fst, ↓ite_keeps, ↓State.modBond_keeps, ↓State.modTime_keeps, ↓foldl_pending, ↓foldl_life, ↓foldl_ns, ↓foldl_fst_pending, ↓foldl_fst_life, ↓foldl_fst_ns, ite_self, implies_true]

theorem State.loseDdr_keeps (s : State) :
    (State.loseDdr s).pending = s.pending ∧ (State.loseDdr s).bond.lifecycle = s.bond.lifecycle ∧ (State.loseDdr s).time.ns = s.time.ns := by
  rw [State.loseDdr]; simp only [↓State.modCraft_keeps, ↓State.modEp_keeps, ↓State.modPanel_keeps, ↓State.modPwr_keeps, ↓State.modRadio_keeps, ↓State.modUpd_keeps, and_self]

theorem State.loseRegion_keeps (k : Nat) (s : State) :
    (State.loseRegion k s).pending = s.pending ∧ (State.loseRegion k s).bond.lifecycle = s.bond.lifecycle ∧ (State.loseRegion k s).time.ns = s.time.ns := by
  rw [State.loseRegion.eq_def]
  split <;> exact ⟨rfl, rfl, rfl⟩

theorem State.loseRegions_keeps (s : State) (bad : List Nat) :
    (State.loseRegions s bad).pending = s.pending ∧ (State.loseRegions s bad).bond.lifecycle = s.bond.lifecycle ∧ (State.loseRegions s bad).time.ns = s.time.ns := by
  first | rw [State.loseRegions] | rw [State.loseRegions.eq_def]
  try dsimp only
  repeat' (first | (simp only [↓State.loseRegion_keeps, and_self, ↓ite_fst, ↓ite_keeps, ↓State.modBond_keeps, ↓State.modTime_keeps, ↓foldl_pending, ↓foldl_life, ↓foldl_ns, ↓foldl_fst_pending, ↓foldl_fst_life, ↓foldl_fst_ns, ite_self, implies_true]; done) | with_reducible exact ⟨rfl, rfl, rfl⟩ | (grind only [State.loseRegion_keeps, ite_keeps, State.modBond_keeps, State.modTime_keeps]; done) | refine ⟨((foldl_pending _ _ _ ?_).trans ?_), ((foldl_life _ _ _ ?_).trans ?_), ((foldl_ns _ _ _ ?_).trans ?_)⟩ | refine ⟨((foldl_fst_pending _ _ _ ?_).trans ?_), ((foldl_fst_life _ _ _ ?_).trans ?_), ((foldl_fst_ns _ _ _ ?_).trans ?_)⟩ | refine ((foldl_pending _ _ _ ?_).trans ?_) | refine ((foldl_life _ _ _ ?_).trans ?_) | refine ((foldl_ns _ _ _ ?_).trans ?_) | refine ((foldl_fst_pending _ _ _ ?_).trans ?_) | refine ((foldl_fst_life _ _ _ ?_).trans ?_) | refine ((foldl_fst_ns _ _ _ ?_).trans ?_) | split | intro _ | simp only [↓State.loseRegion_keeps, and_self, ↓ite_fst, ↓ite_keeps, ↓State.modBond_keeps, ↓State.modTime_keeps, ↓foldl_pending, ↓foldl_life, ↓foldl_ns, ↓foldl_fst_pending, ↓foldl_fst_life, ↓foldl_fst_ns, ite_self, implies_true])

theorem State.loseKeepalive_keeps (s : State) :
    (State.loseKeepalive s).pending = s.pending ∧ (State.loseKeepalive s).bond.lifecycle = s.bond.lifecycle ∧ (State.loseKeepalive s).time.ns = s.time.ns := by
  first | rw [State.loseKeepalive] | rw [State.loseKeepalive.eq_def]
  try dsimp only
  repeat' (first | (simp only [↓State.loseRegions_keeps, and_self, ↓ite_fst, ↓ite_keeps, ↓State.modBond_keeps, ↓State.modTime_keeps, ↓foldl_pending, ↓foldl_life, ↓foldl_ns, ↓foldl_fst_pending, ↓foldl_fst_life, ↓foldl_fst_ns, ite_self, implies_true]; done) | with_reducible exact ⟨rfl, rfl, rfl⟩ | (grind only [State.loseRegions_keeps, ite_keeps, State.modBond_keeps, State.modTime_keeps]; done) | refine ⟨((foldl_pending _ _ _ ?_).trans ?_), ((foldl_life _ _ _ ?_).trans ?_), ((foldl_ns _ _ _ ?_).trans ?_)⟩ | refine ⟨((foldl_fst_pending _ _ _ ?_).trans ?_), ((foldl_fst_life _ _ _ ?_).trans ?_), ((foldl_fst_ns _ _ _ ?_).trans ?_)⟩ | refine ((foldl_pending _ _ _ ?_).trans ?_) | refine ((foldl_life _ _ _ ?_).trans ?_) | refine ((foldl_ns _ _ _ ?_).trans ?_) | refine ((foldl_fst_pending _ _ _ ?_).trans ?_) | refine ((foldl_fst_life _ _ _ ?_).trans ?_) | refine ((foldl_fst_ns _ _ _ ?_).trans ?_) | split | intro _ | simp only [↓State.loseRegions_keeps, and_self, ↓ite_fst, ↓ite_keeps, ↓State.modBond_keeps, ↓State.modTime_keeps, ↓foldl_pending, ↓foldl_life, ↓foldl_ns, ↓foldl_fst_pending, ↓foldl_fst_life, ↓foldl_fst_ns, ite_self, implies_true])

theorem State.loseTime_keeps (s : State) (bad : List Nat) :
    (State.loseTime s bad).pending = s.pending ∧ (State.loseTime s bad).bond.lifecycle = s.bond.lifecycle := by
  rw [State.loseTime]
  split
  · exact State.reloadTime_keeps ..
  · exact ⟨rfl, rfl⟩

theorem State.fullReset_keeps (s : State) (cause : Nat) (core sram : Bool) (off : Option Nat) (more : List (Nat × Nat × Nat)) :
    (State.fullReset s cause core sram off more).pending = s.pending ∧ (State.fullReset s cause core sram off more).bond.lifecycle = s.bond.lifecycle := by
  rw [State.fullReset]; simp only [↓State.customsLoses_keeps, ↓State.logStart_keeps, ↓State.loseDdr_keeps, ↓State.loseKeepalive_keeps, ↓State.modHost_keeps, ↓State.modLog_keeps, ↓State.modStore_keeps, ↓State.noteStart_keeps, ↓State.reloadTime_keeps, ↓State.set_keeps, ↓State.wipe_keeps, and_self, ↓ite_keeps, ite_self, ↓State.modBond_keeps, ↓State.modTime_keeps]

theorem execPorstN_keeps (core sram : Bool) (off : Option Nat) (s : State) :
    ∀ s', (execPorstN core sram off s) = .next s' → s'.pending = s.pending ∧ s'.bond.lifecycle = s.bond.lifecycle := by
  intro s'; first | rw [execPorstN] | rw [execPorstN.eq_def]
  try dsimp only
  repeat' (first | (simp only [↓State.fullReset_keeps, and_self, ↓ite_fst, ↓ite_keeps, ↓State.modBond_keeps, ↓State.modTime_keeps, ↓foldl_pending, ↓foldl_life, ↓foldl_ns, ↓foldl_fst_pending, ↓foldl_fst_life, ↓foldl_fst_ns, ite_self, implies_true]; done) | with_reducible exact ⟨rfl, rfl⟩ | (grind only [State.fullReset_keeps, ite_keeps, State.modBond_keeps, State.modTime_keeps]; done) | (with_reducible refine out_next (P := fun s' => s'.pending = s.pending ∧ s'.bond.lifecycle = s.bond.lifecycle) ?_) | with_reducible refine out_ite ?_ ?_ | refine ⟨((foldl_pending _ _ _ ?_).trans ?_), ((foldl_life _ _ _ ?_).trans ?_)⟩ | refine ((foldl_pending _ _ _ ?_).trans ?_) | refine ((foldl_life _ _ _ ?_).trans ?_) | refine ((foldl_ns _ _ _ ?_).trans ?_) | refine ((foldl_fst_pending _ _ _ ?_).trans ?_) | refine ((foldl_fst_life _ _ _ ?_).trans ?_) | refine ((foldl_fst_ns _ _ _ ?_).trans ?_) | split | intro _ | simp only [↓State.fullReset_keeps, and_self, ↓ite_fst, ↓ite_keeps, ↓State.modBond_keeps, ↓State.modTime_keeps, ↓foldl_pending, ↓foldl_life, ↓foldl_ns, ↓foldl_fst_pending, ↓foldl_fst_life, ↓foldl_fst_ns, ite_self, implies_true])

theorem execRefclkLoss_keeps (s : State) :
    ∀ s', (execRefclkLoss s) = .next s' → s'.pending = s.pending ∧ s'.bond.lifecycle = s.bond.lifecycle := by
  intro s'; first | rw [execRefclkLoss] | rw [execRefclkLoss.eq_def]
  try dsimp only
  repeat' (first | (simp only [↓State.fullReset_keeps, and_self, ↓ite_fst, ↓ite_keeps, ↓State.modBond_keeps, ↓State.modTime_keeps, ↓foldl_pending, ↓foldl_life, ↓foldl_ns, ↓foldl_fst_pending, ↓foldl_fst_life, ↓foldl_fst_ns, ite_self, implies_true]; done) | with_reducible exact ⟨rfl, rfl⟩ | (grind only [State.fullReset_keeps, ite_keeps, State.modBond_keeps, State.modTime_keeps]; done) | (with_reducible refine out_next (P := fun s' => s'.pending = s.pending ∧ s'.bond.lifecycle = s.bond.lifecycle) ?_) | with_reducible refine out_ite ?_ ?_ | refine ⟨((foldl_pending _ _ _ ?_).trans ?_), ((foldl_life _ _ _ ?_).trans ?_)⟩ | refine ((foldl_pending _ _ _ ?_).trans ?_) | refine ((foldl_life _ _ _ ?_).trans ?_) | refine ((foldl_ns _ _ _ ?_).trans ?_) | refine ((foldl_fst_pending _ _ _ ?_).trans ?_) | refine ((foldl_fst_life _ _ _ ?_).trans ?_) | refine ((foldl_fst_ns _ _ _ ?_).trans ?_) | split | intro _ | simp only [↓State.fullReset_keeps, and_self, ↓ite_fst, ↓ite_keeps, ↓State.modBond_keeps, ↓State.modTime_keeps, ↓foldl_pending, ↓foldl_life, ↓foldl_ns, ↓foldl_fst_pending, ↓foldl_fst_life, ↓foldl_fst_ns, ite_self, implies_true])

theorem execBrownoutRestart_keeps (s : State) :
    ∀ s', (execBrownoutRestart s) = .next s' → s'.pending = s.pending ∧ s'.bond.lifecycle = s.bond.lifecycle := by
  intro s'; first | rw [execBrownoutRestart] | rw [execBrownoutRestart.eq_def]
  try dsimp only
  repeat' (first | (simp only [↓State.fullReset_keeps, and_self, ↓ite_fst, ↓ite_keeps, ↓State.modBond_keeps, ↓State.modTime_keeps, ↓foldl_pending, ↓foldl_life, ↓foldl_ns, ↓foldl_fst_pending, ↓foldl_fst_life, ↓foldl_fst_ns, ite_self, implies_true]; done) | with_reducible exact ⟨rfl, rfl⟩ | (grind only [State.fullReset_keeps, ite_keeps, State.modBond_keeps, State.modTime_keeps]; done) | (with_reducible refine out_next (P := fun s' => s'.pending = s.pending ∧ s'.bond.lifecycle = s.bond.lifecycle) ?_) | with_reducible refine out_ite ?_ ?_ | refine ⟨((foldl_pending _ _ _ ?_).trans ?_), ((foldl_life _ _ _ ?_).trans ?_)⟩ | refine ((foldl_pending _ _ _ ?_).trans ?_) | refine ((foldl_life _ _ _ ?_).trans ?_) | refine ((foldl_ns _ _ _ ?_).trans ?_) | refine ((foldl_fst_pending _ _ _ ?_).trans ?_) | refine ((foldl_fst_life _ _ _ ?_).trans ?_) | refine ((foldl_fst_ns _ _ _ ?_).trans ?_) | split | intro _ | simp only [↓State.fullReset_keeps, and_self, ↓ite_fst, ↓ite_keeps, ↓State.modBond_keeps, ↓State.modTime_keeps, ↓foldl_pending, ↓foldl_life, ↓foldl_ns, ↓foldl_fst_pending, ↓foldl_fst_life, ↓foldl_fst_ns, ite_self, implies_true])

theorem execSysrstN_keeps (s : State) :
    ∀ s', (execSysrstN s) = .next s' → s'.pending = s.pending ∧ s'.bond.lifecycle = s.bond.lifecycle ∧ s'.time.ns = s.time.ns := by
  rw [execSysrstN.eq_def]; repeat' (first | with_reducible exact out_keeps ⟨rfl, rfl, rfl⟩ | with_reducible refine out_keeps ?_ | with_reducible refine out_both ?_ ?_ | (solve | simp only [↓State.modPwr_keeps, ↓State.takeReset_keeps, and_self]) | split)

theorem execPwrCmdReset_keeps (s : State) :
    ∀ s', (execPwrCmdReset s) = .next s' → s'.pending = s.pending ∧ s'.bond.lifecycle = s.bond.lifecycle ∧ s'.time.ns = s.time.ns := by
  rw [execPwrCmdReset.eq_def]; repeat' (first | with_reducible exact out_keeps ⟨rfl, rfl, rfl⟩ | with_reducible refine out_keeps ?_ | with_reducible refine out_both ?_ ?_ | (solve | simp only [↓State.modPwr_keeps, ↓State.takeReset_keeps, and_self]) | split)

theorem execWatchdogKick_keeps (val : Word) (s : State) :
    ∀ s', (execWatchdogKick val s) = .next s' → s'.pending = s.pending ∧ s'.bond.lifecycle = s.bond.lifecycle ∧ s'.time.ns = s.time.ns := by
  rw [execWatchdogKick.eq_def]; repeat' (first | with_reducible exact out_keeps ⟨rfl, rfl, rfl⟩ | with_reducible refine out_keeps ?_ | with_reducible refine out_both ?_ ?_ | (solve | simp only [↓State.modPwr_keeps, and_self]) | split)

theorem execWatchdogHalf_keeps (s : State) :
    ∀ s', (execWatchdogHalf s) = .next s' → s'.pending = s.pending ∧ s'.bond.lifecycle = s.bond.lifecycle ∧ s'.time.ns = s.time.ns := by
  rw [execWatchdogHalf.eq_def]; repeat' (first | with_reducible exact out_keeps ⟨rfl, rfl, rfl⟩ | with_reducible refine out_keeps ?_ | with_reducible refine out_both ?_ ?_ | (solve | simp only [↓State.modPwr_keeps, ↓State.raise_keeps, and_self]) | split)

theorem execWatchdogReset_keeps (s : State) :
    ∀ s', (execWatchdogReset s) = .next s' → s'.pending = s.pending ∧ s'.bond.lifecycle = s.bond.lifecycle ∧ s'.time.ns = s.time.ns := by
  rw [execWatchdogReset.eq_def]; repeat' (first | with_reducible exact out_keeps ⟨rfl, rfl, rfl⟩ | with_reducible refine out_keeps ?_ | with_reducible refine out_both ?_ ?_ | (solve | simp only [↓State.takeReset_keeps, and_self]) | split)

end Sys2Proof.Machine
end

