-- ==== Sys2Proof/Laws/KeepStoreFlush.lean ====
section
/-!
SUPPORT. What the operations of Machine/StoreFlush.lean leave alone: the queue, the life cycle and the timebase.
-/
set_option linter.unusedSimpArgs false

namespace Sys2Proof.Machine

theorem State.mirrorProgram_keeps (s : State) (ok : Bool) :
    (State.mirrorProgram s ok).pending = s.pending ∧ (State.mirrorProgram s ok).bond.lifecycle = s.bond.lifecycle ∧ (State.mirrorProgram s ok).time.ns = s.time.ns := by
  first | rw [State.mirrorProgram] | rw [State.mirrorProgram.eq_def]
  try dsimp only
  repeat' (first | (simp only [↓State.modStore_keeps, ↓State.programmed_keeps, ↓State.retireNand_keeps, and_self, ↓ite_fst, ↓ite_keeps, ↓State.modBond_keeps, ↓State.modTime_keeps, ↓foldl_pending, ↓foldl_life, ↓foldl_ns, ↓foldl_fst_pending, ↓foldl_fst_life, ↓foldl_fst_ns, ite_self, implies_true]; done) | with_reducible exact ⟨rfl, rfl, rfl⟩ | (grind only [State.modStore_keeps, State.programmed_keeps, State.retireNand_keeps, ite_keeps, State.modBond_keeps, State.modTime_keeps]; done) | (have hk := State.programTarget_keeps _ _ _ _ _ _ (by assumption); simp only [↓hk, ↓State.modStore_keeps, ↓State.programmed_keeps, ↓State.retireNand_keeps, and_self, ↓ite_fst, ↓ite_keeps, ↓State.modBond_keeps, ↓State.modTime_keeps, ↓foldl_pending, ↓foldl_life, ↓foldl_ns, ↓foldl_fst_pending, ↓foldl_fst_life, ↓foldl_fst_ns, ite_self, implies_true]; done) | (have hk := State.programTarget_keeps _ _ _ _ _ _ (by assumption); simp only [↓hk, ↓State.modStore_keeps, ↓State.programmed_keeps, ↓State.retireNand_keeps, and_self, ↓ite_fst, ↓ite_keeps, ↓State.modBond_keeps, ↓State.modTime_keeps, ↓foldl_pending, ↓foldl_life, ↓foldl_ns, ↓foldl_fst_pending, ↓foldl_fst_life, ↓foldl_fst_ns, ite_self, implies_true]) | refine ⟨((foldl_pending _ _ _ ?_).trans ?_), ((foldl_life _ _ _ ?_).trans ?_), ((foldl_ns _ _ _ ?_).trans ?_)⟩ | refine ⟨((foldl_fst_pending _ _ _ ?_).trans ?_), ((foldl_fst_life _ _ _ ?_).trans ?_), ((foldl_fst_ns _ _ _ ?_).trans ?_)⟩ | refine ((foldl_pending _ _ _ ?_).trans ?_) | refine ((foldl_life _ _ _ ?_).trans ?_) | refine ((foldl_ns _ _ _ ?_).trans ?_) | refine ((foldl_fst_pending _ _ _ ?_).trans ?_) | refine ((foldl_fst_life _ _ _ ?_).trans ?_) | refine ((foldl_fst_ns _ _ _ ?_).trans ?_) | split | intro _ | simp only [↓State.modStore_keeps, ↓State.programmed_keeps, ↓State.retireNand_keeps, and_self, ↓ite_fst, ↓ite_keeps, ↓State.modBond_keeps, ↓State.modTime_keeps, ↓foldl_pending, ↓foldl_life, ↓foldl_ns, ↓foldl_fst_pending, ↓foldl_fst_life, ↓foldl_fst_ns, ite_self, implies_true])

theorem State.logPageProgram_keeps (s : State) (ok : Bool) :
    (State.logPageProgram s ok).pending = s.pending ∧ (State.logPageProgram s ok).bond.lifecycle = s.bond.lifecycle ∧ (State.logPageProgram s ok).time.ns = s.time.ns := by
  first | rw [State.logPageProgram] | rw [State.logPageProgram.eq_def]
  try dsimp only
  repeat' (first | (simp only [↓State.modLog_keeps, ↓State.retireNand_keeps, and_self, ↓ite_fst, ↓ite_keeps, ↓State.modBond_keeps, ↓State.modTime_keeps, ↓foldl_pending, ↓foldl_life, ↓foldl_ns, ↓foldl_fst_pending, ↓foldl_fst_life, ↓foldl_fst_ns, ite_self, implies_true]; done) | with_reducible exact ⟨rfl, rfl, rfl⟩ | (grind only [State.modLog_keeps, State.retireNand_keeps, ite_keeps, State.modBond_keeps, State.modTime_keeps]; done) | (have hk := State.logProgram_keeps _ _ _ _ _ (by assumption); simp only [↓hk, ↓State.modLog_keeps, ↓State.retireNand_keeps, and_self, ↓ite_fst, ↓ite_keeps, ↓State.modBond_keeps, ↓State.modTime_keeps, ↓foldl_pending, ↓foldl_life, ↓foldl_ns, ↓foldl_fst_pending, ↓foldl_fst_life, ↓foldl_fst_ns, ite_self, implies_true]; done) | (have hk := State.programTarget_keeps _ _ _ _ _ _ (by assumption); simp only [↓hk, ↓State.modLog_keeps, ↓State.retireNand_keeps, and_self, ↓ite_fst, ↓ite_keeps, ↓State.modBond_keeps, ↓State.modTime_keeps, ↓foldl_pending, ↓foldl_life, ↓foldl_ns, ↓foldl_fst_pending, ↓foldl_fst_life, ↓foldl_fst_ns, ite_self, implies_true]; done) | (have hk := State.logProgram_keeps _ _ _ _ _ (by assumption); simp only [↓hk, ↓State.modLog_keeps, ↓State.retireNand_keeps, and_self, ↓ite_fst, ↓ite_keeps, ↓State.modBond_keeps, ↓State.modTime_keeps, ↓foldl_pending, ↓foldl_life, ↓foldl_ns, ↓foldl_fst_pending, ↓foldl_fst_life, ↓foldl_fst_ns, ite_self, implies_true]) | (have hk := State.programTarget_keeps _ _ _ _ _ _ (by assumption); simp only [↓hk, ↓State.modLog_keeps, ↓State.retireNand_keeps, and_self, ↓ite_fst, ↓ite_keeps, ↓State.modBond_keeps, ↓State.modTime_keeps, ↓foldl_pending, ↓foldl_life, ↓foldl_ns, ↓foldl_fst_pending, ↓foldl_fst_life, ↓foldl_fst_ns, ite_self, implies_true]) | refine ⟨((foldl_pending _ _ _ ?_).trans ?_), ((foldl_life _ _ _ ?_).trans ?_), ((foldl_ns _ _ _ ?_).trans ?_)⟩ | refine ⟨((foldl_fst_pending _ _ _ ?_).trans ?_), ((foldl_fst_life _ _ _ ?_).trans ?_), ((foldl_fst_ns _ _ _ ?_).trans ?_)⟩ | refine ((foldl_pending _ _ _ ?_).trans ?_) | refine ((foldl_life _ _ _ ?_).trans ?_) | refine ((foldl_ns _ _ _ ?_).trans ?_) | refine ((foldl_fst_pending _ _ _ ?_).trans ?_) | refine ((foldl_fst_life _ _ _ ?_).trans ?_) | refine ((foldl_fst_ns _ _ _ ?_).trans ?_) | split | intro _ | simp only [↓State.modLog_keeps, ↓State.retireNand_keeps, and_self, ↓ite_fst, ↓ite_keeps, ↓State.modBond_keeps, ↓State.modTime_keeps, ↓foldl_pending, ↓foldl_life, ↓foldl_ns, ↓foldl_fst_pending, ↓foldl_fst_life, ↓foldl_fst_ns, ite_self, implies_true])

theorem State.mapPageDone_keeps (s : State) (ok : Bool) :
    (State.mapPageDone s ok).pending = s.pending ∧ (State.mapPageDone s ok).bond.lifecycle = s.bond.lifecycle ∧ (State.mapPageDone s ok).time.ns = s.time.ns := by
  first | rw [State.mapPageDone] | rw [State.mapPageDone.eq_def]
  try dsimp only
  repeat' (first | (simp only [↓State.mapAdvance_keeps, ↓State.mapProgram_keeps, ↓State.retireNand_keeps, and_self, ↓ite_fst, ↓ite_keeps, ↓State.modBond_keeps, ↓State.modTime_keeps, ↓foldl_pending, ↓foldl_life, ↓foldl_ns, ↓foldl_fst_pending, ↓foldl_fst_life, ↓foldl_fst_ns, ite_self, implies_true]; done) | with_reducible exact ⟨rfl, rfl, rfl⟩ | (grind only [State.mapAdvance_keeps, State.mapProgram_keeps, State.retireNand_keeps, ite_keeps, State.modBond_keeps, State.modTime_keeps]; done) | refine ⟨((foldl_pending _ _ _ ?_).trans ?_), ((foldl_life _ _ _ ?_).trans ?_), ((foldl_ns _ _ _ ?_).trans ?_)⟩ | refine ⟨((foldl_fst_pending _ _ _ ?_).trans ?_), ((foldl_fst_life _ _ _ ?_).trans ?_), ((foldl_fst_ns _ _ _ ?_).trans ?_)⟩ | refine ((foldl_pending _ _ _ ?_).trans ?_) | refine ((foldl_life _ _ _ ?_).trans ?_) | refine ((foldl_ns _ _ _ ?_).trans ?_) | refine ((foldl_fst_pending _ _ _ ?_).trans ?_) | refine ((foldl_fst_life _ _ _ ?_).trans ?_) | refine ((foldl_fst_ns _ _ _ ?_).trans ?_) | split | intro _ | simp only [↓State.mapAdvance_keeps, ↓State.mapProgram_keeps, ↓State.retireNand_keeps, and_self, ↓ite_fst, ↓ite_keeps, ↓State.modBond_keeps, ↓State.modTime_keeps, ↓foldl_pending, ↓foldl_life, ↓foldl_ns, ↓foldl_fst_pending, ↓foldl_fst_life, ↓foldl_fst_ns, ite_self, implies_true])

theorem State.flushSettle_keeps (s : State) :
    (State.flushSettle s).pending = s.pending ∧ (State.flushSettle s).bond.lifecycle = s.bond.lifecycle ∧ (State.flushSettle s).time.ns = s.time.ns := by
  first | rw [State.flushSettle] | rw [State.flushSettle.eq_def]
  try dsimp only
  repeat' (first | (simp only [↓State.modStore_keeps, ↓State.setStore_keeps, and_self, ↓ite_fst, ↓ite_keeps, ↓State.modBond_keeps, ↓State.modTime_keeps, ↓foldl_pending, ↓foldl_life, ↓foldl_ns, ↓foldl_fst_pending, ↓foldl_fst_life, ↓foldl_fst_ns, ite_self, implies_true]; done) | with_reducible exact ⟨rfl, rfl, rfl⟩ | (grind only [State.modStore_keeps, State.setStore_keeps, ite_keeps, State.modBond_keeps, State.modTime_keeps]; done) | refine ⟨((foldl_pending _ _ _ ?_).trans ?_), ((foldl_life _ _ _ ?_).trans ?_), ((foldl_ns _ _ _ ?_).trans ?_)⟩ | refine ⟨((foldl_fst_pending _ _ _ ?_).trans ?_), ((foldl_fst_life _ _ _ ?_).trans ?_), ((foldl_fst_ns _ _ _ ?_).trans ?_)⟩ | refine ((foldl_pending _ _ _ ?_).trans ?_) | refine ((foldl_life _ _ _ ?_).trans ?_) | refine ((foldl_ns _ _ _ ?_).trans ?_) | refine ((foldl_fst_pending _ _ _ ?_).trans ?_) | refine ((foldl_fst_life _ _ _ ?_).trans ?_) | refine ((foldl_fst_ns _ _ _ ?_).trans ?_) | split | intro _ | simp only [↓State.modStore_keeps, ↓State.setStore_keeps, and_self, ↓ite_fst, ↓ite_keeps, ↓State.modBond_keeps, ↓State.modTime_keeps, ↓foldl_pending, ↓foldl_life, ↓foldl_ns, ↓foldl_fst_pending, ↓foldl_fst_life, ↓foldl_fst_ns, ite_self, implies_true])

theorem State.flushLogPage_keeps (s : State) (ok : Bool) :
    (State.flushLogPage s ok).pending = s.pending ∧ (State.flushLogPage s ok).bond.lifecycle = s.bond.lifecycle ∧ (State.flushLogPage s ok).time.ns = s.time.ns := by
  first | rw [State.flushLogPage] | rw [State.flushLogPage.eq_def]
  try dsimp only
  repeat' (first | (simp only [↓State.modLog_keeps, ↓State.modStore_keeps, ↓State.retireNand_keeps, and_self, ↓ite_fst, ↓ite_keeps, ↓State.modBond_keeps, ↓State.modTime_keeps, ↓foldl_pending, ↓foldl_life, ↓foldl_ns, ↓foldl_fst_pending, ↓foldl_fst_life, ↓foldl_fst_ns, ite_self, implies_true]; done) | with_reducible exact ⟨rfl, rfl, rfl⟩ | (grind only [State.modLog_keeps, State.modStore_keeps, State.retireNand_keeps, ite_keeps, State.modBond_keeps, State.modTime_keeps]; done) | (have hk := State.logProgram_keeps _ _ _ _ _ (by assumption); simp only [↓hk, ↓State.modLog_keeps, ↓State.modStore_keeps, ↓State.retireNand_keeps, and_self, ↓ite_fst, ↓ite_keeps, ↓State.modBond_keeps, ↓State.modTime_keeps, ↓foldl_pending, ↓foldl_life, ↓foldl_ns, ↓foldl_fst_pending, ↓foldl_fst_life, ↓foldl_fst_ns, ite_self, implies_true]; done) | (have hk := State.programTarget_keeps _ _ _ _ _ _ (by assumption); simp only [↓hk, ↓State.modLog_keeps, ↓State.modStore_keeps, ↓State.retireNand_keeps, and_self, ↓ite_fst, ↓ite_keeps, ↓State.modBond_keeps, ↓State.modTime_keeps, ↓foldl_pending, ↓foldl_life, ↓foldl_ns, ↓foldl_fst_pending, ↓foldl_fst_life, ↓foldl_fst_ns, ite_self, implies_true]; done) | (have hk := State.logProgram_keeps _ _ _ _ _ (by assumption); simp only [↓hk, ↓State.modLog_keeps, ↓State.modStore_keeps, ↓State.retireNand_keeps, and_self, ↓ite_fst, ↓ite_keeps, ↓State.modBond_keeps, ↓State.modTime_keeps, ↓foldl_pending, ↓foldl_life, ↓foldl_ns, ↓foldl_fst_pending, ↓foldl_fst_life, ↓foldl_fst_ns, ite_self, implies_true]) | (have hk := State.programTarget_keeps _ _ _ _ _ _ (by assumption); simp only [↓hk, ↓State.modLog_keeps, ↓State.modStore_keeps, ↓State.retireNand_keeps, and_self, ↓ite_fst, ↓ite_keeps, ↓State.modBond_keeps, ↓State.modTime_keeps, ↓foldl_pending, ↓foldl_life, ↓foldl_ns, ↓foldl_fst_pending, ↓foldl_fst_life, ↓foldl_fst_ns, ite_self, implies_true]) | refine ⟨((foldl_pending _ _ _ ?_).trans ?_), ((foldl_life _ _ _ ?_).trans ?_), ((foldl_ns _ _ _ ?_).trans ?_)⟩ | refine ⟨((foldl_fst_pending _ _ _ ?_).trans ?_), ((foldl_fst_life _ _ _ ?_).trans ?_), ((foldl_fst_ns _ _ _ ?_).trans ?_)⟩ | refine ((foldl_pending _ _ _ ?_).trans ?_) | refine ((foldl_life _ _ _ ?_).trans ?_) | refine ((foldl_ns _ _ _ ?_).trans ?_) | refine ((foldl_fst_pending _ _ _ ?_).trans ?_) | refine ((foldl_fst_life _ _ _ ?_).trans ?_) | refine ((foldl_fst_ns _ _ _ ?_).trans ?_) | split | intro _ | simp only [↓State.modLog_keeps, ↓State.modStore_keeps, ↓State.retireNand_keeps, and_self, ↓ite_fst, ↓ite_keeps, ↓State.modBond_keeps, ↓State.modTime_keeps, ↓foldl_pending, ↓foldl_life, ↓foldl_ns, ↓foldl_fst_pending, ↓foldl_fst_life, ↓foldl_fst_ns, ite_self, implies_true])

theorem State.flushPage_keeps (s : State) (part : Nat) (ok : Bool) :
    (State.flushPage s part ok).pending = s.pending ∧ (State.flushPage s part ok).bond.lifecycle = s.bond.lifecycle ∧ (State.flushPage s part ok).time.ns = s.time.ns := by
  rw [State.flushPage]
  split
  · exact ⟨rfl, rfl, rfl⟩
  · refine K3.trans (State.flushSettle_keeps _) ?_
    split
    · exact State.cusProgram_keeps ..
    · split
      · exact K3.trans (State.modStore_keeps ..) (State.mapProgram_keeps ..)
      · exact State.mapPageDone_keeps ..
    · exact State.cacheProgram_keeps ..
    · exact State.flushLogPage_keeps ..

theorem State.startFlush_keeps (s : State) (down : Bool) :
    (State.startFlush s down).pending = s.pending ∧ (State.startFlush s down).bond.lifecycle = s.bond.lifecycle ∧ (State.startFlush s down).time.ns = s.time.ns := by
  first | rw [State.startFlush] | rw [State.startFlush.eq_def]
  try dsimp only
  repeat' (first | (simp only [↓State.closeCache_keeps, ↓State.drainLog_keeps, ↓State.flushSettle_keeps, ↓State.modStore_keeps, ↓State.setStore_keeps, and_self, ↓ite_fst, ↓ite_keeps, ↓State.modBond_keeps, ↓State.modTime_keeps, ↓foldl_pending, ↓foldl_life, ↓foldl_ns, ↓foldl_fst_pending, ↓foldl_fst_life, ↓foldl_fst_ns, ite_self, implies_true]; done) | with_reducible exact ⟨rfl, rfl, rfl⟩ | (grind only [State.closeCache_keeps, State.drainLog_keeps, State.flushSettle_keeps, State.modStore_keeps, State.setStore_keeps, ite_keeps, State.modBond_keeps, State.modTime_keeps]; done) | refine ⟨((foldl_pending _ _ _ ?_).trans ?_), ((foldl_life _ _ _ ?_).trans ?_), ((foldl_ns _ _ _ ?_).trans ?_)⟩ | refine ⟨((foldl_fst_pending _ _ _ ?_).trans ?_), ((foldl_fst_life _ _ _ ?_).trans ?_), ((foldl_fst_ns _ _ _ ?_).trans ?_)⟩ | refine ((foldl_pending _ _ _ ?_).trans ?_) | refine ((foldl_life _ _ _ ?_).trans ?_) | refine ((foldl_ns _ _ _ ?_).trans ?_) | refine ((foldl_fst_pending _ _ _ ?_).trans ?_) | refine ((foldl_fst_life _ _ _ ?_).trans ?_) | refine ((foldl_fst_ns _ _ _ ?_).trans ?_) | split | intro _ | simp only [↓State.closeCache_keeps, ↓State.drainLog_keeps, ↓State.flushSettle_keeps, ↓State.modStore_keeps, ↓State.setStore_keeps, and_self, ↓ite_fst, ↓ite_keeps, ↓State.modBond_keeps, ↓State.modTime_keeps, ↓foldl_pending, ↓foldl_life, ↓foldl_ns, ↓foldl_fst_pending, ↓foldl_fst_life, ↓foldl_fst_ns, ite_self, implies_true])

theorem State.flushAll_keeps (s : State) :
    (State.flushAll s).pending = s.pending ∧ (State.flushAll s).bond.lifecycle = s.bond.lifecycle ∧ (State.flushAll s).time.ns = s.time.ns := by
  rw [State.flushAll]
  refine K3.foldl _ (fun u _ => ?_) _ _
  split
  · exact State.flushPage_keeps ..
  · exact ⟨rfl, rfl, rfl⟩

theorem execPageProgramDone_keeps (part : Nat) (ok : Bool) (s : State) :
    ∀ s', (execPageProgramDone part ok s) = .next s' → s'.pending = s.pending ∧ s'.bond.lifecycle = s.bond.lifecycle ∧ s'.time.ns = s.time.ns := by
  intro s' h
  rw [execPageProgramDone.eq_def] at h
  split at h
  · cases h; exact State.flushPage_keeps ..
  · split at h
    · cases h; exact ⟨rfl, rfl, rfl⟩
    · split at h
      · cases h; split
        · exact ⟨rfl, rfl, rfl⟩
        · exact State.cusProgram_keeps ..
      · split at h
        · cases h; exact ⟨rfl, rfl, rfl⟩
        · cases h
          split
          · exact State.mapPageDone_keeps ..
          · split
            · exact State.logPageProgram_keeps ..
            · exact State.mirrorProgram_keeps ..
          · exact State.cacheProgram_keeps ..

end Sys2Proof.Machine
end

