-- ==== Sys2Proof/Laws/KeepUpdate.lean ====
section
/-!
SUPPORT. What the operations of Machine/Update.lean leave alone: the queue, the life cycle and the timebase.
-/
set_option linter.unusedSimpArgs false

namespace Sys2Proof.Machine

theorem State.updDone_keeps (s : State) (cmd result detail : Nat) :
    (State.updDone s cmd result detail).pending = s.pending ∧ (State.updDone s cmd result detail).bond.lifecycle = s.bond.lifecycle ∧ (State.updDone s cmd result detail).time.ns = s.time.ns := by
  rw [State.updDone]; simp only [↓State.event_keeps, ↓State.raise_keeps, ↓State.set_keeps, and_self, ↓ite_keeps, ite_self, ↓State.modBond_keeps, ↓State.modTime_keeps]

theorem execUpdStage_keeps (pkg : Bytes) (s : State) :
    ∀ s', (execUpdStage pkg s) = .next s' → s'.pending = s.pending ∧ s'.bond.lifecycle = s.bond.lifecycle ∧ s'.time.ns = s.time.ns := by
  intro s'; first | rw [execUpdStage] | rw [execUpdStage.eq_def]
  try dsimp only
  repeat' (first | (simp only [↓State.modSlot_keeps, ↓State.modUpd_keeps, ↓State.putBoot_keeps, ↓State.setFlag_keeps, ↓State.updDone_keeps, ↓State.usePlanKeys_keeps, ↓State.useSlot_keeps, and_self, ↓ite_fst, ↓ite_keeps, ↓State.modBond_keeps, ↓State.modTime_keeps, ↓foldl_pending, ↓foldl_life, ↓foldl_ns, ↓foldl_fst_pending, ↓foldl_fst_life, ↓foldl_fst_ns, ite_self, implies_true]; done) | with_reducible exact ⟨rfl, rfl, rfl⟩ | (grind only [State.modSlot_keeps, State.modUpd_keeps, State.putBoot_keeps, State.setFlag_keeps, State.updDone_keeps, State.usePlanKeys_keeps, State.useSlot_keeps, ite_keeps, State.modBond_keeps, State.modTime_keeps]; done) | (with_reducible refine out_next (P := fun s' => s'.pending = s.pending ∧ s'.bond.lifecycle = s.bond.lifecycle ∧ s'.time.ns = s.time.ns) ?_) | with_reducible refine out_ite ?_ ?_ | refine ⟨((foldl_pending _ _ _ ?_).trans ?_), ((foldl_life _ _ _ ?_).trans ?_), ((foldl_ns _ _ _ ?_).trans ?_)⟩ | refine ⟨((foldl_fst_pending _ _ _ ?_).trans ?_), ((foldl_fst_life _ _ _ ?_).trans ?_), ((foldl_fst_ns _ _ _ ?_).trans ?_)⟩ | refine ((foldl_pending _ _ _ ?_).trans ?_) | refine ((foldl_life _ _ _ ?_).trans ?_) | refine ((foldl_ns _ _ _ ?_).trans ?_) | refine ((foldl_fst_pending _ _ _ ?_).trans ?_) | refine ((foldl_fst_life _ _ _ ?_).trans ?_) | refine ((foldl_fst_ns _ _ _ ?_).trans ?_) | split | intro _ | simp only [↓State.modSlot_keeps, ↓State.modUpd_keeps, ↓State.putBoot_keeps, ↓State.setFlag_keeps, ↓State.updDone_keeps, ↓State.usePlanKeys_keeps, ↓State.useSlot_keeps, and_self, ↓ite_fst, ↓ite_keeps, ↓State.modBond_keeps, ↓State.modTime_keeps, ↓foldl_pending, ↓foldl_life, ↓foldl_ns, ↓foldl_fst_pending, ↓foldl_fst_life, ↓foldl_fst_ns, ite_self, implies_true])

theorem execUpdStageDone_keeps (ok : Bool) (s : State) :
    ∀ s', (execUpdStageDone ok s) = .next s' → s'.pending = s.pending ∧ s'.bond.lifecycle = s.bond.lifecycle ∧ s'.time.ns = s.time.ns := by
  rw [execUpdStageDone.eq_def]; repeat' (first | with_reducible exact out_keeps ⟨rfl, rfl, rfl⟩ | with_reducible refine out_keeps ?_ | with_reducible refine out_both ?_ ?_ | (solve | simp only [↓State.event_keeps, ↓State.modSlot_keeps, ↓State.modUpd_keeps, ↓State.putBoot_keeps, ↓State.raise_keeps, ↓State.setFlag_keeps, ↓State.updDone_keeps, and_self]) | split)

theorem State.trialStarts_keeps (s : State) :
    (State.trialStarts s).pending = s.pending ∧ (State.trialStarts s).bond.lifecycle = s.bond.lifecycle ∧ (State.trialStarts s).time.ns = s.time.ns := by
  rw [State.trialStarts]; simp only [↓State.modUpd_keeps, ↓State.putBoot_keeps, ↓State.setFlag_keeps, and_self]

theorem State.signalRestart_keeps (s : State) :
    (State.signalRestart s).pending = s.pending ∧ (State.signalRestart s).bond.lifecycle = s.bond.lifecycle ∧ (State.signalRestart s).time.ns = s.time.ns := by
  rw [State.signalRestart]; simp only [↓State.disableFn_keeps, ↓State.modUpd_keeps, ↓State.signalBack_keeps, and_self, ↓ite_fst, ↓ite_keeps, ↓State.modBond_keeps, ↓State.modTime_keeps, ↓foldl_pending, ↓foldl_life, ↓foldl_ns, ↓foldl_fst_pending, ↓foldl_fst_life, ↓foldl_fst_ns, ite_self, implies_true]

theorem State.gnssRestart_keeps (s : State) :
    (State.gnssRestart s).pending = s.pending ∧ (State.gnssRestart s).bond.lifecycle = s.bond.lifecycle ∧ (State.gnssRestart s).time.ns = s.time.ns := by
  rw [State.gnssRestart]; simp only [↓State.loseSource_keeps, ↓State.noteGnss_keeps, ↓State.setFld_keeps, and_self]

theorem State.restartInPlace_keeps (s : State) (code : Nat) :
    (State.restartInPlace s code).pending = s.pending ∧ (State.restartInPlace s code).bond.lifecycle = s.bond.lifecycle ∧ (State.restartInPlace s code).time.ns = s.time.ns := by
  rw [State.restartInPlace]; simp only [↓State.gnssRestart_keeps, ↓State.signalRestart_keeps, and_self, ↓ite_keeps, ite_self, ↓State.modBond_keeps, ↓State.modTime_keeps]

theorem execUpdActivate_keeps (val : Word) (s : State) :
    ∀ s', (execUpdActivate val s) = .next s' → s'.pending = s.pending ∧ s'.bond.lifecycle = s.bond.lifecycle ∧ s'.time.ns = s.time.ns := by
  intro s'; first | rw [execUpdActivate] | rw [execUpdActivate.eq_def]
  try dsimp only
  repeat' (first | (simp only [↓State.event_keeps, ↓State.modSlot_keeps, ↓State.putBoot_keeps, ↓State.raise_keeps, ↓State.restartInPlace_keeps, ↓State.sysReset_keeps, ↓State.trialStarts_keeps, ↓State.updDone_keeps, and_self, ↓ite_fst, ↓ite_keeps, ↓State.modBond_keeps, ↓State.modTime_keeps, ↓foldl_pending, ↓foldl_life, ↓foldl_ns, ↓foldl_fst_pending, ↓foldl_fst_life, ↓foldl_fst_ns, ite_self, implies_true]; done) | with_reducible exact ⟨rfl, rfl, rfl⟩ | (grind only [State.event_keeps, State.modSlot_keeps, State.putBoot_keeps, State.raise_keeps, State.restartInPlace_keeps, State.sysReset_keeps, State.trialStarts_keeps, State.updDone_keeps, ite_keeps, State.modBond_keeps, State.modTime_keeps]; done) | (with_reducible refine out_next (P := fun s' => s'.pending = s.pending ∧ s'.bond.lifecycle = s.bond.lifecycle ∧ s'.time.ns = s.time.ns) ?_) | with_reducible refine out_ite ?_ ?_ | refine ⟨((foldl_pending _ _ _ ?_).trans ?_), ((foldl_life _ _ _ ?_).trans ?_), ((foldl_ns _ _ _ ?_).trans ?_)⟩ | refine ⟨((foldl_fst_pending _ _ _ ?_).trans ?_), ((foldl_fst_life _ _ _ ?_).trans ?_), ((foldl_fst_ns _ _ _ ?_).trans ?_)⟩ | refine ((foldl_pending _ _ _ ?_).trans ?_) | refine ((foldl_life _ _ _ ?_).trans ?_) | refine ((foldl_ns _ _ _ ?_).trans ?_) | refine ((foldl_fst_pending _ _ _ ?_).trans ?_) | refine ((foldl_fst_life _ _ _ ?_).trans ?_) | refine ((foldl_fst_ns _ _ _ ?_).trans ?_) | split | intro _ | simp only [↓State.event_keeps, ↓State.modSlot_keeps, ↓State.putBoot_keeps, ↓State.raise_keeps, ↓State.restartInPlace_keeps, ↓State.sysReset_keeps, ↓State.trialStarts_keeps, ↓State.updDone_keeps, and_self, ↓ite_fst, ↓ite_keeps, ↓State.modBond_keeps, ↓State.modTime_keeps, ↓foldl_pending, ↓foldl_life, ↓foldl_ns, ↓foldl_fst_pending, ↓foldl_fst_life, ↓foldl_fst_ns, ite_self, implies_true])

theorem State.revertSlots_keeps (s : State) (cause : Nat) :
    (State.revertSlots s cause).pending = s.pending ∧ (State.revertSlots s cause).bond.lifecycle = s.bond.lifecycle ∧ (State.revertSlots s cause).time.ns = s.time.ns := by
  rw [State.revertSlots]; simp only [↓State.event_keeps, ↓State.modSlot_keeps, ↓State.modUpd_keeps, ↓State.putBoot_keeps, ↓State.raise_keeps, ↓State.setFlag_keeps, and_self]

theorem State.revert_keeps (s : State) (cause : Nat) :
    (State.revert s cause).pending = s.pending ∧ (State.revert s cause).bond.lifecycle = s.bond.lifecycle ∧ (State.revert s cause).time.ns = s.time.ns := by
  rw [State.revert]; simp only [↓State.restartInPlace_keeps, ↓State.revertSlots_keeps, ↓State.sysReset_keeps, and_self, ↓ite_keeps, ite_self, ↓State.modBond_keeps, ↓State.modTime_keeps]

theorem execTrialEvaluation_keeps (ok : Bool) (s : State) :
    ∀ s', (execTrialEvaluation ok s) = .next s' → s'.pending = s.pending ∧ s'.bond.lifecycle = s.bond.lifecycle ∧ s'.time.ns = s.time.ns := by
  rw [execTrialEvaluation.eq_def]; repeat' (first | with_reducible exact out_keeps ⟨rfl, rfl, rfl⟩ | with_reducible refine out_keeps ?_ | with_reducible refine out_both ?_ ?_ | (solve | simp only [↓State.modUpd_keeps, ↓State.revert_keeps, and_self]) | split)

theorem execTrialTimeout_keeps (s : State) :
    ∀ s', (execTrialTimeout s) = .next s' → s'.pending = s.pending ∧ s'.bond.lifecycle = s.bond.lifecycle ∧ s'.time.ns = s.time.ns := by
  rw [execTrialTimeout.eq_def]; repeat' (first | with_reducible exact out_keeps ⟨rfl, rfl, rfl⟩ | with_reducible refine out_keeps ?_ | with_reducible refine out_both ?_ ?_ | (solve | simp only [↓State.revert_keeps, and_self]) | split)

theorem execUpdRevert_keeps (s : State) :
    ∀ s', (execUpdRevert s) = .next s' → s'.pending = s.pending ∧ s'.bond.lifecycle = s.bond.lifecycle ∧ s'.time.ns = s.time.ns := by
  rw [execUpdRevert.eq_def]; repeat' (first | with_reducible exact out_keeps ⟨rfl, rfl, rfl⟩ | with_reducible refine out_keeps ?_ | with_reducible refine out_both ?_ ?_ | (solve | simp only [↓State.revert_keeps, ↓State.updDone_keeps, and_self]) | split)

theorem execMigrationDone_keeps (s : State) :
    ∀ s', (execMigrationDone s) = .next s' → s'.pending = s.pending ∧ s'.bond.lifecycle = s.bond.lifecycle ∧ s'.time.ns = s.time.ns := by
  rw [execMigrationDone]; with_reducible refine out_keeps ?_; simp only [↓State.setFlag_keeps, and_self, ↓ite_keeps, ite_self, ↓State.modBond_keeps, ↓State.modTime_keeps]

theorem execUpdCommit_keeps (s : State) :
    ∀ s', (execUpdCommit s) = .next s' → s'.pending = s.pending ∧ s'.bond.lifecycle = s.bond.lifecycle ∧ s'.time.ns = s.time.ns := by
  rw [execUpdCommit.eq_def]; repeat' (first | with_reducible exact out_keeps ⟨rfl, rfl, rfl⟩ | with_reducible refine out_keeps ?_ | with_reducible refine out_both ?_ ?_ | (solve | simp only [↓State.event_keeps, ↓State.mapCheckpoint_keeps, ↓State.modSlot_keeps, ↓State.modUpd_keeps, ↓State.putBoot_keeps, ↓State.raise_keeps, ↓State.raiseGate_keeps, ↓State.updDone_keeps, and_self]) | split)

end Sys2Proof.Machine
end

