-- ==== Sys2Proof/Laws/KeepPower.lean ====
section
/-!
SUPPORT. What the operations of Machine/Power.lean leave alone: the queue, the life cycle and the timebase.
-/
set_option linter.unusedSimpArgs false

namespace Sys2Proof.Machine

theorem State.setPower_keeps (s : State) (v : Nat) :
    (State.setPower s v).pending = s.pending ∧ (State.setPower s v).bond.lifecycle = s.bond.lifecycle ∧ (State.setPower s v).time.ns = s.time.ns := by
  rw [State.setPower]; simp only [↓State.raise_keeps, ↓State.setFld_keeps, and_self, ↓ite_keeps, ite_self, ↓State.modBond_keeps, ↓State.modTime_keeps]

theorem State.pauseBg_keeps (s : State) (ns : Nat) :
    (State.pauseBg s ns).pending = s.pending ∧ (State.pauseBg s ns).bond.lifecycle = s.bond.lifecycle ∧ (State.pauseBg s ns).time.ns = s.time.ns := by
  first | rw [State.pauseBg] | rw [State.pauseBg.eq_def]
  try dsimp only
  repeat' (first | (simp only [↓State.modPwr_keeps, and_self, ↓ite_fst, ↓ite_keeps, ↓State.modBond_keeps, ↓State.modTime_keeps, ↓foldl_pending, ↓foldl_life, ↓foldl_ns, ↓foldl_fst_pending, ↓foldl_fst_life, ↓foldl_fst_ns, ite_self, implies_true]; done) | with_reducible exact ⟨rfl, rfl, rfl⟩ | (grind only [State.modPwr_keeps, ite_keeps, State.modBond_keeps, State.modTime_keeps]; done) | refine ⟨((foldl_pending _ _ _ ?_).trans ?_), ((foldl_life _ _ _ ?_).trans ?_), ((foldl_ns _ _ _ ?_).trans ?_)⟩ | refine ⟨((foldl_fst_pending _ _ _ ?_).trans ?_), ((foldl_fst_life _ _ _ ?_).trans ?_), ((foldl_fst_ns _ _ _ ?_).trans ?_)⟩ | refine ((foldl_pending _ _ _ ?_).trans ?_) | refine ((foldl_life _ _ _ ?_).trans ?_) | refine ((foldl_ns _ _ _ ?_).trans ?_) | refine ((foldl_fst_pending _ _ _ ?_).trans ?_) | refine ((foldl_fst_life _ _ _ ?_).trans ?_) | refine ((foldl_fst_ns _ _ _ ?_).trans ?_) | split | intro _ | simp only [↓State.modPwr_keeps, and_self, ↓ite_fst, ↓ite_keeps, ↓State.modBond_keeps, ↓State.modTime_keeps, ↓foldl_pending, ↓foldl_life, ↓foldl_ns, ↓foldl_fst_pending, ↓foldl_fst_life, ↓foldl_fst_ns, ite_self, implies_true])

theorem State.wake_keeps (s : State) :
    (State.wake s).pending = s.pending ∧ (State.wake s).bond.lifecycle = s.bond.lifecycle ∧ (State.wake s).time.ns = s.time.ns := by
  rw [State.wake]; simp only [↓State.count_keeps, ↓State.customsLoses_keeps, ↓State.event_keeps, ↓State.loadSlots_keeps, ↓State.modStore_keeps, ↓State.pauseBg_keeps, ↓State.setFld_keeps, ↓State.setPower_keeps, ↓State.startFns_keeps, and_self, ↓ite_keeps, ite_self, ↓State.modBond_keeps, ↓State.modTime_keeps]

theorem State.endHibEntry_keeps (s : State) :
    (State.endHibEntry s).pending = s.pending ∧ (State.endHibEntry s).bond.lifecycle = s.bond.lifecycle ∧ (State.endHibEntry s).time.ns = s.time.ns := by
  first | rw [State.endHibEntry] | rw [State.endHibEntry.eq_def]
  try dsimp only
  repeat' (first | (simp only [↓State.modPwr_keeps, ↓State.startFns_keeps, and_self, ↓ite_fst, ↓ite_keeps, ↓State.modBond_keeps, ↓State.modTime_keeps, ↓foldl_pending, ↓foldl_life, ↓foldl_ns, ↓foldl_fst_pending, ↓foldl_fst_life, ↓foldl_fst_ns, ite_self, implies_true]; done) | with_reducible exact ⟨rfl, rfl, rfl⟩ | (grind only [State.modPwr_keeps, State.startFns_keeps, ite_keeps, State.modBond_keeps, State.modTime_keeps]; done) | refine ⟨((foldl_pending _ _ _ ?_).trans ?_), ((foldl_life _ _ _ ?_).trans ?_), ((foldl_ns _ _ _ ?_).trans ?_)⟩ | refine ⟨((foldl_fst_pending _ _ _ ?_).trans ?_), ((foldl_fst_life _ _ _ ?_).trans ?_), ((foldl_fst_ns _ _ _ ?_).trans ?_)⟩ | refine ((foldl_pending _ _ _ ?_).trans ?_) | refine ((foldl_life _ _ _ ?_).trans ?_) | refine ((foldl_ns _ _ _ ?_).trans ?_) | refine ((foldl_fst_pending _ _ _ ?_).trans ?_) | refine ((foldl_fst_life _ _ _ ?_).trans ?_) | refine ((foldl_fst_ns _ _ _ ?_).trans ?_) | split | intro _ | simp only [↓State.modPwr_keeps, ↓State.startFns_keeps, and_self, ↓ite_fst, ↓ite_keeps, ↓State.modBond_keeps, ↓State.modTime_keeps, ↓foldl_pending, ↓foldl_life, ↓foldl_ns, ↓foldl_fst_pending, ↓foldl_fst_life, ↓foldl_fst_ns, ite_self, implies_true])

theorem State.backupEval_keeps (s : State) :
    (State.backupEval s).pending = s.pending ∧ (State.backupEval s).bond.lifecycle = s.bond.lifecycle ∧ (State.backupEval s).time.ns = s.time.ns := by
  rw [State.backupEval]; simp only [↓State.endHibEntry_keeps, ↓State.raise_keeps, ↓State.setFlag_keeps, ↓State.wake_keeps, and_self, ↓ite_keeps, ite_self, ↓State.modBond_keeps, ↓State.modTime_keeps]

theorem State.idleOff_keeps (s : State) :
    (State.idleOff s).pending = s.pending ∧ (State.idleOff s).bond.lifecycle = s.bond.lifecycle ∧ (State.idleOff s).time.ns = s.time.ns := by
  first | rw [State.idleOff] | rw [State.idleOff.eq_def]
  try dsimp only
  repeat' (first | (simp only [↓State.fnOff_keeps, and_self, ↓ite_fst, ↓ite_keeps, ↓State.modBond_keeps, ↓State.modTime_keeps, ↓foldl_pending, ↓foldl_life, ↓foldl_ns, ↓foldl_fst_pending, ↓foldl_fst_life, ↓foldl_fst_ns, ite_self, implies_true]; done) | with_reducible exact ⟨rfl, rfl, rfl⟩ | (grind only [State.fnOff_keeps, ite_keeps, State.modBond_keeps, State.modTime_keeps]; done) | refine ⟨((foldl_pending _ _ _ ?_).trans ?_), ((foldl_life _ _ _ ?_).trans ?_), ((foldl_ns _ _ _ ?_).trans ?_)⟩ | refine ⟨((foldl_fst_pending _ _ _ ?_).trans ?_), ((foldl_fst_life _ _ _ ?_).trans ?_), ((foldl_fst_ns _ _ _ ?_).trans ?_)⟩ | refine ((foldl_pending _ _ _ ?_).trans ?_) | refine ((foldl_life _ _ _ ?_).trans ?_) | refine ((foldl_ns _ _ _ ?_).trans ?_) | refine ((foldl_fst_pending _ _ _ ?_).trans ?_) | refine ((foldl_fst_life _ _ _ ?_).trans ?_) | refine ((foldl_fst_ns _ _ _ ?_).trans ?_) | split | intro _ | simp only [↓State.fnOff_keeps, and_self, ↓ite_fst, ↓ite_keeps, ↓State.modBond_keeps, ↓State.modTime_keeps, ↓foldl_pending, ↓foldl_life, ↓foldl_ns, ↓foldl_fst_pending, ↓foldl_fst_life, ↓foldl_fst_ns, ite_self, implies_true])

theorem State.beginHibernate_keeps (s : State) (next : Nat) :
    (State.beginHibernate s next).pending = s.pending ∧ (State.beginHibernate s next).bond.lifecycle = s.bond.lifecycle ∧ (State.beginHibernate s next).time.ns = s.time.ns := by
  first | rw [State.beginHibernate] | rw [State.beginHibernate.eq_def]
  try dsimp only
  repeat' (first | (simp only [↓State.disableFn_keeps, ↓State.idleOff_keeps, ↓State.modPwr_keeps, and_self, ↓ite_fst, ↓ite_keeps, ↓State.modBond_keeps, ↓State.modTime_keeps, ↓foldl_pending, ↓foldl_life, ↓foldl_ns, ↓foldl_fst_pending, ↓foldl_fst_life, ↓foldl_fst_ns, ite_self, implies_true]; done) | with_reducible exact ⟨rfl, rfl, rfl⟩ | (grind only [State.disableFn_keeps, State.idleOff_keeps, State.modPwr_keeps, ite_keeps, State.modBond_keeps, State.modTime_keeps]; done) | refine ⟨((foldl_pending _ _ _ ?_).trans ?_), ((foldl_life _ _ _ ?_).trans ?_), ((foldl_ns _ _ _ ?_).trans ?_)⟩ | refine ⟨((foldl_fst_pending _ _ _ ?_).trans ?_), ((foldl_fst_life _ _ _ ?_).trans ?_), ((foldl_fst_ns _ _ _ ?_).trans ?_)⟩ | refine ((foldl_pending _ _ _ ?_).trans ?_) | refine ((foldl_life _ _ _ ?_).trans ?_) | refine ((foldl_ns _ _ _ ?_).trans ?_) | refine ((foldl_fst_pending _ _ _ ?_).trans ?_) | refine ((foldl_fst_life _ _ _ ?_).trans ?_) | refine ((foldl_fst_ns _ _ _ ?_).trans ?_) | split | intro _ | simp only [↓State.disableFn_keeps, ↓State.idleOff_keeps, ↓State.modPwr_keeps, and_self, ↓ite_fst, ↓ite_keeps, ↓State.modBond_keeps, ↓State.modTime_keeps, ↓foldl_pending, ↓foldl_life, ↓foldl_ns, ↓foldl_fst_pending, ↓foldl_fst_life, ↓foldl_fst_ns, ite_self, implies_true])

theorem State.hibernate_keeps (s : State) :
    (State.hibernate s).pending = s.pending ∧ (State.hibernate s).bond.lifecycle = s.bond.lifecycle ∧ (State.hibernate s).time.ns = s.time.ns := by
  rw [State.hibernate]; simp only [↓State.customsPowerDown_keeps, ↓State.flushAll_keeps, ↓State.loseSource_keeps, ↓State.modDma_keeps, ↓State.modEp_keeps, ↓State.modHm_keeps, ↓State.modLog_keeps, ↓State.modPanel_keeps, ↓State.modPwr_keeps, ↓State.noteGnss_keeps, ↓State.setFld_keeps, ↓State.setStore_keeps, ↓State.startFlush_keeps, and_self, ↓ite_fst, ↓ite_keeps, ↓State.modBond_keeps, ↓State.modTime_keeps, ↓foldl_pending, ↓foldl_life, ↓foldl_ns, ↓foldl_fst_pending, ↓foldl_fst_life, ↓foldl_fst_ns, ite_self, implies_true]

theorem State.enter_keeps (s : State) (v next : Nat) :
    (State.enter s v next).pending = s.pending ∧ (State.enter s v next).bond.lifecycle = s.bond.lifecycle ∧ (State.enter s v next).time.ns = s.time.ns := by
  rw [State.enter]; simp only [↓State.count_keeps, ↓State.event_keeps, ↓State.hibernate_keeps, ↓State.modPwr_keeps, ↓State.setPower_keeps, and_self, ↓ite_keeps, ite_self, ↓State.modBond_keeps, ↓State.modTime_keeps]

theorem execDeviceIdle_keeps (tel : Nat) (s : State) :
    ∀ s', (execDeviceIdle tel s) = .next s' → s'.pending = s.pending ∧ s'.bond.lifecycle = s.bond.lifecycle ∧ s'.time.ns = s.time.ns := by
  rw [execDeviceIdle.eq_def]; try dsimp only
  repeat' (first | with_reducible exact out_keeps ⟨rfl, rfl, rfl⟩ | with_reducible refine out_keeps ?_ | with_reducible refine out_both ?_ ?_ | (solve | simp only [↓State.beginHibernate_keeps, ↓State.endHibEntry_keeps, ↓State.enter_keeps, ↓State.idleOff_keeps, and_self, ↓ite_keeps, ite_self, ↓State.modBond_keeps, ↓State.modTime_keeps]) | with_reducible exact ⟨rfl, rfl, rfl⟩ | split | intro _)

theorem execScheduledWake_keeps (s : State) :
    ∀ s', (execScheduledWake s) = .next s' → s'.pending = s.pending ∧ s'.bond.lifecycle = s.bond.lifecycle ∧ s'.time.ns = s.time.ns := by
  rw [execScheduledWake.eq_def]; repeat' (first | with_reducible exact out_keeps ⟨rfl, rfl, rfl⟩ | with_reducible refine out_keeps ?_ | with_reducible refine out_both ?_ ?_ | (solve | simp only [↓State.wake_keeps, and_self]) | split)

theorem execUnscheduledWake_keeps (source : Nat) (s : State) :
    ∀ s', (execUnscheduledWake source s) = .next s' → s'.pending = s.pending ∧ s'.bond.lifecycle = s.bond.lifecycle ∧ s'.time.ns = s.time.ns := by
  rw [execUnscheduledWake.eq_def]; repeat' (first | with_reducible exact out_keeps ⟨rfl, rfl, rfl⟩ | with_reducible refine out_keeps ?_ | with_reducible refine out_both ?_ ?_ | (solve | simp only [↓State.wake_keeps, and_self]) | split)

theorem State.accessWake_keeps (s : State) (addr : Nat) :
    (State.accessWake s addr).pending = s.pending ∧ (State.accessWake s addr).bond.lifecycle = s.bond.lifecycle ∧ (State.accessWake s addr).time.ns = s.time.ns := by
  rw [State.accessWake]; simp only [↓State.wake_keeps, and_self, ↓ite_keeps, ite_self, ↓State.modBond_keeps, ↓State.modTime_keeps]

theorem State.dropManifests_keeps (s : State) :
    (State.dropManifests s).pending = s.pending ∧ (State.dropManifests s).bond.lifecycle = s.bond.lifecycle ∧ (State.dropManifests s).time.ns = s.time.ns := by
  with_reducible exact ⟨rfl, rfl, rfl⟩

/-- Functions stop at a power failure: nothing of it moves queue, life cycle or timebase. -/
theorem State.powerStops_keeps (t : State) :
    K3 (((match t.widePort with | some p => t.withdrawRest p | none => t).setPower 0).stopEval.dropManifests.deltaCutShort.panelFail) t := by
  have h2 : K3 (match t.widePort with | some p => t.withdrawRest p | none => t) t := by
    split
    · exact State.withdrawRest_keeps ..
    · exact ⟨rfl, rfl, rfl⟩
  generalize (match t.widePort with | some p => t.withdrawRest p | none => t) = u at h2 ⊢
  exact K3.trans (State.panelFail_keeps ..) (K3.trans (State.deltaCutShort_keeps ..) (K3.trans (State.dropManifests_keeps ..)
    (K3.trans (State.stopEval_keeps ..) (K3.trans (State.setPower_keeps ..) h2))))

theorem State.powerSaves_keeps (t : State) (f : UpdState → UpdState) (g : PowerState → PowerState) :
    K3 (((t.modUpd f).permFails.customsPowerDown.startFlush true).modPwr g) t := by
  have h4 : K3 (t.modUpd f) t := ⟨rfl, rfl, rfl⟩
  generalize t.modUpd f = w at h4 ⊢
  have h5 : K3 (w.permFails.customsPowerDown.startFlush true) w :=
    K3.trans (State.startFlush_keeps ..) (K3.trans (State.customsPowerDown_keeps ..) (State.permFails_keeps ..))
  generalize w.permFails.customsPowerDown.startFlush true = x at h5 ⊢
  exact K3.trans (b := x) ⟨rfl, rfl, rfl⟩ (K3.trans h5 h4)

theorem State.powerHalts_keeps (t : State) (g : PowerState → PowerState) : K3 ((t.stopEval.setPower 4).modPwr g) t := by
  have h : K3 (t.stopEval.setPower 4) t := K3.trans (State.setPower_keeps ..) (State.stopEval_keeps ..)
  generalize t.stopEval.setPower 4 = x at h ⊢
  exact K3.trans (b := x) ⟨rfl, rfl, rfl⟩ h

theorem execPwrfailAccept_keeps (s : State) :
    ∀ s', (execPwrfailAccept s) = .next s' → s'.pending = s.pending ∧ s'.bond.lifecycle = s.bond.lifecycle ∧ s'.time.ns = s.time.ns := by
  intro s' h
  rw [execPwrfailAccept] at h
  split at h
  · cases h; exact ⟨rfl, rfl, rfl⟩
  · dsimp only at h
    generalize s.power = p at h
    have h1 : K3 (((s.setFlag .PWR_STATUS 0 0 10 true).raise .PWR_INT 0 1).event 0x1802 (s.fld .PWR_STATUS 0 0 9 9) p) s :=
      K3.trans (State.event_keeps ..) (K3.trans (State.raise_keeps ..) (State.setFlag_keeps ..))
    generalize ((s.setFlag .PWR_STATUS 0 0 10 true).raise .PWR_INT 0 1).event 0x1802 (s.fld .PWR_STATUS 0 0 9 9) p = t at h h1
    by_cases hw : p = 3
    · simp only [hw, if_true] at h
      injection h with h; subst h
      exact K3.trans (State.powerHalts_keeps ..) h1
    · simp only [hw, if_false] at h
      injection h with h; subst h
      have h2 := State.powerStops_keeps t
      generalize State.panelFail _ = u at h2 ⊢
      exact K3.trans (State.powerSaves_keeps ..) (K3.trans h2 h1)


theorem State.gaspCraft_keeps (s : State) :
    (State.gaspCraft s).pending = s.pending ∧ (State.gaspCraft s).bond.lifecycle = s.bond.lifecycle ∧ (State.gaspCraft s).time.ns = s.time.ns := by
  rw [State.gaspCraft.eq_def]; repeat' (first | (solve | simp only [↓State.modPort_keeps, ↓State.sendStop_keeps, ↓State.wideSend_keeps, and_self, ↓ite_keeps, ite_self, ↓State.modBond_keeps, ↓State.modTime_keeps]) | with_reducible exact ⟨rfl, rfl, rfl⟩ | split)

theorem State.powerDown_keeps (s : State) :
    (State.powerDown s).pending = s.pending ∧ (State.powerDown s).bond.lifecycle = s.bond.lifecycle ∧ (State.powerDown s).time.ns = s.time.ns := by
  rw [State.powerDown]; simp only [↓State.modPwr_keeps, ↓State.setPower_keeps, and_self, ↓ite_keeps, ite_self, ↓State.modBond_keeps, ↓State.modTime_keeps]

theorem execLastGaspFrames_keeps (s : State) :
    ∀ s', (execLastGaspFrames s) = .next s' → s'.pending = s.pending ∧ s'.bond.lifecycle = s.bond.lifecycle ∧ s'.time.ns = s.time.ns := by
  rw [execLastGaspFrames.eq_def]; repeat' (first | with_reducible exact out_keeps ⟨rfl, rfl, rfl⟩ | with_reducible refine out_keeps ?_ | with_reducible refine out_both ?_ ?_ | (solve | simp only [↓State.beacon_keeps, ↓State.beaconGroup_keeps, ↓State.gaspCraft_keeps, ↓State.powerDown_keeps, and_self, ↓ite_fst, ↓ite_keeps, ↓State.modBond_keeps, ↓State.modTime_keeps, ↓foldl_pending, ↓foldl_life, ↓foldl_ns, ↓foldl_fst_pending, ↓foldl_fst_life, ↓foldl_fst_ns, ite_self, implies_true]) | split)

theorem execHoldupOkChange_keeps (high : Bool) (s : State) :
    ∀ s', (execHoldupOkChange high s) = .next s' → s'.pending = s.pending ∧ s'.bond.lifecycle = s.bond.lifecycle ∧ s'.time.ns = s.time.ns := by
  intro s'; first | rw [execHoldupOkChange] | rw [execHoldupOkChange.eq_def]
  try dsimp only
  repeat' (first | (simp only [↓State.noteTamper_keeps, ↓State.raise_keeps, ↓State.setFlag_keeps, ↓State.stopEval_keeps, ↓State.stopInDownlink_keeps, ↓State.wake_keeps, and_self, ↓ite_fst, ↓ite_keeps, ↓State.modBond_keeps, ↓State.modTime_keeps, ↓foldl_pending, ↓foldl_life, ↓foldl_ns, ↓foldl_fst_pending, ↓foldl_fst_life, ↓foldl_fst_ns, ite_self, implies_true]; done) | with_reducible exact ⟨rfl, rfl, rfl⟩ | (grind only [State.noteTamper_keeps, State.raise_keeps, State.setFlag_keeps, State.stopEval_keeps, State.stopInDownlink_keeps, State.wake_keeps, ite_keeps, State.modBond_keeps, State.modTime_keeps]; done) | (with_reducible refine out_next (P := fun s' => s'.pending = s.pending ∧ s'.bond.lifecycle = s.bond.lifecycle ∧ s'.time.ns = s.time.ns) ?_) | with_reducible refine out_ite ?_ ?_ | refine ⟨((foldl_pending _ _ _ ?_).trans ?_), ((foldl_life _ _ _ ?_).trans ?_), ((foldl_ns _ _ _ ?_).trans ?_)⟩ | refine ⟨((foldl_fst_pending _ _ _ ?_).trans ?_), ((foldl_fst_life _ _ _ ?_).trans ?_), ((foldl_fst_ns _ _ _ ?_).trans ?_)⟩ | refine ((foldl_pending _ _ _ ?_).trans ?_) | refine ((foldl_life _ _ _ ?_).trans ?_) | refine ((foldl_ns _ _ _ ?_).trans ?_) | refine ((foldl_fst_pending _ _ _ ?_).trans ?_) | refine ((foldl_fst_life _ _ _ ?_).trans ?_) | refine ((foldl_fst_ns _ _ _ ?_).trans ?_) | split | intro _ | simp only [↓State.noteTamper_keeps, ↓State.raise_keeps, ↓State.setFlag_keeps, ↓State.stopEval_keeps, ↓State.stopInDownlink_keeps, ↓State.wake_keeps, and_self, ↓ite_fst, ↓ite_keeps, ↓State.modBond_keeps, ↓State.modTime_keeps, ↓foldl_pending, ↓foldl_life, ↓foldl_ns, ↓foldl_fst_pending, ↓foldl_fst_life, ↓foldl_fst_ns, ite_self, implies_true])

theorem execBackupChange_keeps (on : Bool) (s : State) :
    ∀ s', (execBackupChange on s) = .next s' → s'.pending = s.pending ∧ s'.bond.lifecycle = s.bond.lifecycle ∧ s'.time.ns = s.time.ns := by
  rw [execBackupChange]; with_reducible refine out_keeps ?_; simp only [↓State.backupEval_keeps, ↓State.modPwr_keeps, and_self]

theorem State.pwrDone_keeps (s : State) (result : Nat) :
    (State.pwrDone s result).pending = s.pending ∧ (State.pwrDone s result).bond.lifecycle = s.bond.lifecycle ∧ (State.pwrDone s result).time.ns = s.time.ns := by
  with_reducible exact ⟨rfl, rfl, rfl⟩

theorem execPwrHoldRun_keeps (s : State) :
    ∀ s', (execPwrHoldRun s) = .next s' → s'.pending = s.pending ∧ s'.bond.lifecycle = s.bond.lifecycle ∧ s'.time.ns = s.time.ns := by
  intro s'; first | rw [execPwrHoldRun] | rw [execPwrHoldRun.eq_def]
  try dsimp only
  repeat' (first | (simp only [↓State.endHibEntry_keeps, ↓State.pwrDone_keeps, ↓State.setFlag_keeps, ↓State.wake_keeps, and_self, ↓ite_fst, ↓ite_keeps, ↓State.modBond_keeps, ↓State.modTime_keeps, ↓foldl_pending, ↓foldl_life, ↓foldl_ns, ↓foldl_fst_pending, ↓foldl_fst_life, ↓foldl_fst_ns, ite_self, implies_true]; done) | with_reducible exact ⟨rfl, rfl, rfl⟩ | (grind only [State.endHibEntry_keeps, State.pwrDone_keeps, State.setFlag_keeps, State.wake_keeps, ite_keeps, State.modBond_keeps, State.modTime_keeps]; done) | (with_reducible refine out_next (P := fun s' => s'.pending = s.pending ∧ s'.bond.lifecycle = s.bond.lifecycle ∧ s'.time.ns = s.time.ns) ?_) | with_reducible refine out_ite ?_ ?_ | refine ⟨((foldl_pending _ _ _ ?_).trans ?_), ((foldl_life _ _ _ ?_).trans ?_), ((foldl_ns _ _ _ ?_).trans ?_)⟩ | refine ⟨((foldl_fst_pending _ _ _ ?_).trans ?_), ((foldl_fst_life _ _ _ ?_).trans ?_), ((foldl_fst_ns _ _ _ ?_).trans ?_)⟩ | refine ((foldl_pending _ _ _ ?_).trans ?_) | refine ((foldl_life _ _ _ ?_).trans ?_) | refine ((foldl_ns _ _ _ ?_).trans ?_) | refine ((foldl_fst_pending _ _ _ ?_).trans ?_) | refine ((foldl_fst_life _ _ _ ?_).trans ?_) | refine ((foldl_fst_ns _ _ _ ?_).trans ?_) | split | intro _ | simp only [↓State.endHibEntry_keeps, ↓State.pwrDone_keeps, ↓State.setFlag_keeps, ↓State.wake_keeps, and_self, ↓ite_fst, ↓ite_keeps, ↓State.modBond_keeps, ↓State.modTime_keeps, ↓foldl_pending, ↓foldl_life, ↓foldl_ns, ↓foldl_fst_pending, ↓foldl_fst_life, ↓foldl_fst_ns, ite_self, implies_true])

theorem execPwrReleaseRun_keeps (s : State) :
    ∀ s', (execPwrReleaseRun s) = .next s' → s'.pending = s.pending ∧ s'.bond.lifecycle = s.bond.lifecycle ∧ s'.time.ns = s.time.ns := by
  rw [execPwrReleaseRun.eq_def]; repeat' (first | with_reducible exact out_keeps ⟨rfl, rfl, rfl⟩ | with_reducible refine out_keeps ?_ | with_reducible refine out_both ?_ ?_ | (solve | simp only [↓State.pwrDone_keeps, ↓State.setFlag_keeps, and_self]) | split)

theorem State.factoryDelay_keeps (s : State) :
    (State.factoryDelay s).pending = s.pending ∧ (State.factoryDelay s).bond.lifecycle = s.bond.lifecycle ∧ (State.factoryDelay s).time.ns = s.time.ns := by
  rw [State.factoryDelay]; simp only [↓State.correct_keeps, ↓State.fresh_keeps, and_self, ↓ite_keeps, ite_self, ↓State.modBond_keeps, ↓State.modTime_keeps]

theorem execPwrRestoreFactory_keeps (arg : Nat) (s : State) :
    ∀ s', (execPwrRestoreFactory arg s) = .next s' → s'.pending = s.pending ∧ s'.bond.lifecycle = s.bond.lifecycle ∧ s'.time.ns = s.time.ns := by
  rw [execPwrRestoreFactory.eq_def]; repeat' (first | with_reducible exact out_keeps ⟨rfl, rfl, rfl⟩ | with_reducible refine out_keeps ?_ | with_reducible refine out_both ?_ ?_ | (solve | simp only [↓State.event_keeps, ↓State.factoryDelay_keeps, ↓State.noteTamper_keeps, ↓State.pwrDone_keeps, ↓State.raise_keeps, and_self, ↓ite_keeps, ite_self, ↓State.modBond_keeps, ↓State.modTime_keeps]) | split)

theorem execPwrBgNow_keeps (arg : Nat) (s : State) :
    ∀ s', (execPwrBgNow arg s) = .next s' → s'.pending = s.pending ∧ s'.bond.lifecycle = s.bond.lifecycle ∧ s'.time.ns = s.time.ns := by
  rw [execPwrBgNow.eq_def]; repeat' (first | with_reducible exact out_keeps ⟨rfl, rfl, rfl⟩ | with_reducible refine out_keeps ?_ | with_reducible refine out_both ?_ ?_ | (solve | simp only [↓State.modPwr_keeps, ↓State.pwrDone_keeps, and_self]) | split)

theorem State.damageLog_keeps (s : State) (seq : Nat) :
    (State.damageLog s seq).pending = s.pending ∧ (State.damageLog s seq).bond.lifecycle = s.bond.lifecycle ∧ (State.damageLog s seq).time.ns = s.time.ns := by
  rw [State.damageLog]; simp only [↓State.modLog_keeps, ↓State.raise_keeps, and_self, ↓ite_keeps, ite_self, ↓State.modBond_keeps, ↓State.modTime_keeps]

theorem State.cusRestore_keeps (s : State) (epx : Nat) :
    (State.cusRestore s epx).pending = s.pending ∧ (State.cusRestore s epx).bond.lifecycle = s.bond.lifecycle ∧ (State.cusRestore s epx).time.ns = s.time.ns := by
  rw [State.cusRestore]; simp only [↓State.modCustoms_keeps, ↓State.verifyBill_keeps, and_self, ↓ite_keeps, ite_self, ↓State.modBond_keeps, ↓State.modTime_keeps]

theorem State.losePacket_keeps (s : State) (n k : Nat) :
    (State.losePacket s n k).pending = s.pending ∧ (State.losePacket s n k).bond.lifecycle = s.bond.lifecycle ∧ (State.losePacket s n k).time.ns = s.time.ns := by
  first | rw [State.losePacket] | rw [State.losePacket.eq_def]
  try dsimp only
  repeat' (first | (simp only [↓State.modDma_keeps, and_self, ↓ite_fst, ↓ite_keeps, ↓State.modBond_keeps, ↓State.modTime_keeps, ↓foldl_pending, ↓foldl_life, ↓foldl_ns, ↓foldl_fst_pending, ↓foldl_fst_life, ↓foldl_fst_ns, ite_self, implies_true]; done) | with_reducible exact ⟨rfl, rfl, rfl⟩ | (grind only [State.modDma_keeps, ite_keeps, State.modBond_keeps, State.modTime_keeps]; done) | refine ⟨((foldl_pending _ _ _ ?_).trans ?_), ((foldl_life _ _ _ ?_).trans ?_), ((foldl_ns _ _ _ ?_).trans ?_)⟩ | refine ⟨((foldl_fst_pending _ _ _ ?_).trans ?_), ((foldl_fst_life _ _ _ ?_).trans ?_), ((foldl_fst_ns _ _ _ ?_).trans ?_)⟩ | refine ((foldl_pending _ _ _ ?_).trans ?_) | refine ((foldl_life _ _ _ ?_).trans ?_) | refine ((foldl_ns _ _ _ ?_).trans ?_) | refine ((foldl_fst_pending _ _ _ ?_).trans ?_) | refine ((foldl_fst_life _ _ _ ?_).trans ?_) | refine ((foldl_fst_ns _ _ _ ?_).trans ?_) | split | intro _ | simp only [↓State.modDma_keeps, and_self, ↓ite_fst, ↓ite_keeps, ↓State.modBond_keeps, ↓State.modTime_keeps, ↓foldl_pending, ↓foldl_life, ↓foldl_ns, ↓foldl_fst_pending, ↓foldl_fst_life, ↓foldl_fst_ns, ite_self, implies_true])

theorem State.scrubHits_keeps (s : State) (x : ScrubAt) :
    (State.scrubHits s x).pending = s.pending ∧ (State.scrubHits s x).bond.lifecycle = s.bond.lifecycle ∧ (State.scrubHits s x).time.ns = s.time.ns := by
  cases x <;> rw [State.scrubHits] <;> repeat' (first | (simp only [↓State.cusRestore_keeps, ↓State.damageLog_keeps, ↓State.failManifest_keeps, ↓State.losePacket_keeps, ↓State.modEp_keeps, ↓State.modHm_keeps, ↓State.modPlc_keeps, ↓State.modPort_keeps, ↓State.retireLine_keeps, ↓State.starveCheck_keeps, ↓State.tagFail_keeps, ↓State.tugFails_keeps, and_self, ↓ite_fst, ↓ite_keeps, ↓State.modBond_keeps, ↓State.modTime_keeps, ↓foldl_pending, ↓foldl_life, ↓foldl_ns, ↓foldl_fst_pending, ↓foldl_fst_life, ↓foldl_fst_ns, ite_self, implies_true]; done) | with_reducible exact ⟨rfl, rfl, rfl⟩ | split)


theorem State.scrubError_keeps (s : State) (x : ScrubErr) :
    (State.scrubError s x).pending = s.pending ∧ (State.scrubError s x).bond.lifecycle = s.bond.lifecycle ∧ (State.scrubError s x).time.ns = s.time.ns := by
  rw [State.scrubError]; simp only [↓State.event_keeps, ↓State.scrubCount_keeps, ↓State.scrubHits_keeps, ↓State.scrubReport_keeps, and_self]

theorem State.passDone_keeps (s : State) (k : Nat) :
    (State.passDone s k).pending = s.pending ∧ (State.passDone s k).bond.lifecycle = s.bond.lifecycle ∧ (State.passDone s k).time.ns = s.time.ns := by
  rw [State.passDone]; simp only [↓State.count_keeps, ↓State.modPwr_keeps, ↓State.scrubReportFree_keeps, and_self]

theorem execSramScrubPass_keeps (corrected : Nat) (errs : List ScrubErr) (s : State) :
    ∀ s', (execSramScrubPass corrected errs s) = .next s' → s'.pending = s.pending ∧ s'.bond.lifecycle = s.bond.lifecycle ∧ s'.time.ns = s.time.ns := by
  rw [execSramScrubPass.eq_def]; repeat' (first | with_reducible exact out_keeps ⟨rfl, rfl, rfl⟩ | with_reducible refine out_keeps ?_ | with_reducible refine out_both ?_ ?_ | (solve | simp only [↓State.count_keeps, ↓State.passDone_keeps, ↓State.raise_keeps, ↓State.scrubError_keeps, and_self, ↓ite_fst, ↓ite_keeps, ↓State.modBond_keeps, ↓State.modTime_keeps, ↓foldl_pending, ↓foldl_life, ↓foldl_ns, ↓foldl_fst_pending, ↓foldl_fst_life, ↓foldl_fst_ns, ite_self, implies_true]) | split)

theorem execDdrPatrol_keeps (corrected : Nat) (errs : List ScrubErr) (done : Bool) (s : State) :
    ∀ s', (execDdrPatrol corrected errs done s) = .next s' → s'.pending = s.pending ∧ s'.bond.lifecycle = s.bond.lifecycle ∧ s'.time.ns = s.time.ns := by
  rw [execDdrPatrol.eq_def]; repeat' (first | with_reducible exact out_keeps ⟨rfl, rfl, rfl⟩ | with_reducible refine out_keeps ?_ | with_reducible refine out_both ?_ ?_ | (solve | simp only [↓State.count_keeps, ↓State.passDone_keeps, ↓State.scrubError_keeps, and_self, ↓ite_fst, ↓ite_keeps, ↓State.modBond_keeps, ↓State.modTime_keeps, ↓foldl_pending, ↓foldl_life, ↓foldl_ns, ↓foldl_fst_pending, ↓foldl_fst_life, ↓foldl_fst_ns, ite_self, implies_true]) | split)

theorem execTelemetryInstant_keeps (idx : Nat) (s : State) :
    ∀ s', (execTelemetryInstant idx s) = .next s' → s'.pending = s.pending ∧ s'.bond.lifecycle = s.bond.lifecycle ∧ s'.time.ns = s.time.ns := by
  rw [execTelemetryInstant.eq_def]; repeat' (first | with_reducible exact out_keeps ⟨rfl, rfl, rfl⟩ | with_reducible refine out_keeps ?_ | with_reducible refine out_both ?_ ?_ | (solve | simp only [↓State.bgRan_keeps, ↓State.make_keeps, and_self]) | split)

theorem execTempSample_keeps (tj : Int) (s : State) :
    ∀ s', (execTempSample tj s) = .next s' → s'.pending = s.pending ∧ s'.bond.lifecycle = s.bond.lifecycle ∧ s'.time.ns = s.time.ns := by
  rw [execTempSample.eq_def]; repeat' (first | with_reducible exact out_keeps ⟨rfl, rfl, rfl⟩ | with_reducible refine out_keeps ?_ | with_reducible refine out_both ?_ ?_ | (solve | simp only [↓State.raise_keeps, ↓State.set_keeps, ↓State.setFlag_keeps, ↓State.storeTemp_keeps, and_self]) | split)

theorem State.gpioEdge_keeps (s : State) (g : Nat) (rising : Bool) :
    (State.gpioEdge s g rising).pending = s.pending ∧ (State.gpioEdge s g rising).bond.lifecycle = s.bond.lifecycle ∧ (State.gpioEdge s g rising).time.ns = s.time.ns := by
  rw [State.gpioEdge]; simp only [↓State.raise_keeps, and_self, ↓ite_keeps, ite_self, ↓State.modBond_keeps, ↓State.modTime_keeps]

theorem execGpioEdge_keeps (ball : Nat) (rising : Bool) (s : State) :
    ∀ s', (execGpioEdge ball rising s) = .next s' → s'.pending = s.pending ∧ s'.bond.lifecycle = s.bond.lifecycle ∧ s'.time.ns = s.time.ns := by
  rw [execGpioEdge.eq_def]; repeat' (first | with_reducible exact out_keeps ⟨rfl, rfl, rfl⟩ | with_reducible refine out_keeps ?_ | with_reducible refine out_both ?_ ?_ | (solve | simp only [↓State.gpioEdge_keeps, ↓State.modPwr_keeps, and_self]) | split)

end Sys2Proof.Machine
end

