-- ==== Sys2Proof/Laws/KeepLifeCycle.lean ====
section
/-!
SUPPORT. What the operations of Machine/LifeCycle.lean leave alone: the queue, the life cycle and the timebase.
-/
set_option linter.unusedSimpArgs false

namespace Sys2Proof.Machine

theorem State.lifeCommit_keeps (s : State) (dest : Nat) (fill : Bool) :
    (State.lifeCommit s dest fill).pending = s.pending ∧ (State.lifeCommit s dest fill).time.ns = s.time.ns := by
  with_reducible exact ⟨rfl, rfl⟩

theorem State.transition_keeps (s : State) (dest : Nat) (fill force : Bool) :
    (State.transition s dest fill force).pending = s.pending ∧ (State.transition s dest fill force).time.ns = s.time.ns := by
  rw [State.transition.eq_def]; repeat' (first | (solve | simp only [↓State.bondDone_keeps, ↓State.dropManifests_keeps, ↓State.event_keeps, ↓State.lifeCommit_keeps, ↓State.modCraft_keeps, ↓State.modPwr_keeps, ↓State.stopEval_keeps, ↓State.sysReset_keeps, and_self, ↓ite_keeps, ite_self, ↓State.modBond_keeps, ↓State.modTime_keeps]) | with_reducible exact ⟨rfl, rfl⟩ | split)

theorem State.plainTransition_keeps (s : State) (from' dest flags : Nat) :
    (State.plainTransition s from' dest flags).pending = s.pending ∧ (State.plainTransition s from' dest flags).time.ns = s.time.ns := by
  rw [State.plainTransition]; simp only [↓State.bondDone_keeps, ↓State.transition_keeps, and_self, ↓ite_keeps, ite_self, ↓State.modBond_keeps, ↓State.modTime_keeps]

theorem execBondDeploy_keeps (flags : Nat) (s : State) :
    ∀ s', (execBondDeploy flags s) = .next s' → s'.pending = s.pending ∧ s'.time.ns = s.time.ns := by
  intro s'; first | rw [execBondDeploy] | rw [execBondDeploy.eq_def]
  try dsimp only
  repeat' (first | (simp only [↓State.plainTransition_keeps, and_self, ↓ite_fst, ↓ite_keeps, ↓State.modBond_keeps, ↓State.modTime_keeps, ↓foldl_pending, ↓foldl_life, ↓foldl_ns, ↓foldl_fst_pending, ↓foldl_fst_life, ↓foldl_fst_ns, ite_self, implies_true]; done) | with_reducible exact ⟨rfl, rfl⟩ | (grind only [State.plainTransition_keeps, ite_keeps, State.modBond_keeps, State.modTime_keeps]; done) | (with_reducible refine out_next (P := fun s' => s'.pending = s.pending ∧ s'.time.ns = s.time.ns) ?_) | with_reducible refine out_ite ?_ ?_ | refine ⟨((foldl_pending _ _ _ ?_).trans ?_), ((foldl_life _ _ _ ?_).trans ?_)⟩ | refine ((foldl_pending _ _ _ ?_).trans ?_) | refine ((foldl_life _ _ _ ?_).trans ?_) | refine ((foldl_ns _ _ _ ?_).trans ?_) | refine ((foldl_fst_pending _ _ _ ?_).trans ?_) | refine ((foldl_fst_life _ _ _ ?_).trans ?_) | refine ((foldl_fst_ns _ _ _ ?_).trans ?_) | split | intro _ | simp only [↓State.plainTransition_keeps, and_self, ↓ite_fst, ↓ite_keeps, ↓State.modBond_keeps, ↓State.modTime_keeps, ↓foldl_pending, ↓foldl_life, ↓foldl_ns, ↓foldl_fst_pending, ↓foldl_fst_life, ↓foldl_fst_ns, ite_self, implies_true])

theorem execBondExitService_keeps (flags : Nat) (s : State) :
    ∀ s', (execBondExitService flags s) = .next s' → s'.pending = s.pending ∧ s'.time.ns = s.time.ns := by
  intro s'; first | rw [execBondExitService] | rw [execBondExitService.eq_def]
  try dsimp only
  repeat' (first | (simp only [↓State.plainTransition_keeps, and_self, ↓ite_fst, ↓ite_keeps, ↓State.modBond_keeps, ↓State.modTime_keeps, ↓foldl_pending, ↓foldl_life, ↓foldl_ns, ↓foldl_fst_pending, ↓foldl_fst_life, ↓foldl_fst_ns, ite_self, implies_true]; done) | with_reducible exact ⟨rfl, rfl⟩ | (grind only [State.plainTransition_keeps, ite_keeps, State.modBond_keeps, State.modTime_keeps]; done) | (with_reducible refine out_next (P := fun s' => s'.pending = s.pending ∧ s'.time.ns = s.time.ns) ?_) | with_reducible refine out_ite ?_ ?_ | refine ⟨((foldl_pending _ _ _ ?_).trans ?_), ((foldl_life _ _ _ ?_).trans ?_)⟩ | refine ((foldl_pending _ _ _ ?_).trans ?_) | refine ((foldl_life _ _ _ ?_).trans ?_) | refine ((foldl_ns _ _ _ ?_).trans ?_) | refine ((foldl_fst_pending _ _ _ ?_).trans ?_) | refine ((foldl_fst_life _ _ _ ?_).trans ?_) | refine ((foldl_fst_ns _ _ _ ?_).trans ?_) | split | intro _ | simp only [↓State.plainTransition_keeps, and_self, ↓ite_fst, ↓ite_keeps, ↓State.modBond_keeps, ↓State.modTime_keeps, ↓foldl_pending, ↓foldl_life, ↓foldl_ns, ↓foldl_fst_pending, ↓foldl_fst_life, ↓foldl_fst_ns, ite_self, implies_true])

theorem execBondRetireFactory_keeps (flags : Nat) (s : State) :
    ∀ s', (execBondRetireFactory flags s) = .next s' → s'.pending = s.pending ∧ s'.time.ns = s.time.ns := by
  intro s'; first | rw [execBondRetireFactory] | rw [execBondRetireFactory.eq_def]
  try dsimp only
  repeat' (first | (simp only [↓State.plainTransition_keeps, and_self, ↓ite_fst, ↓ite_keeps, ↓State.modBond_keeps, ↓State.modTime_keeps, ↓foldl_pending, ↓foldl_life, ↓foldl_ns, ↓foldl_fst_pending, ↓foldl_fst_life, ↓foldl_fst_ns, ite_self, implies_true]; done) | with_reducible exact ⟨rfl, rfl⟩ | (grind only [State.plainTransition_keeps, ite_keeps, State.modBond_keeps, State.modTime_keeps]; done) | (with_reducible refine out_next (P := fun s' => s'.pending = s.pending ∧ s'.time.ns = s.time.ns) ?_) | with_reducible refine out_ite ?_ ?_ | refine ⟨((foldl_pending _ _ _ ?_).trans ?_), ((foldl_life _ _ _ ?_).trans ?_)⟩ | refine ((foldl_pending _ _ _ ?_).trans ?_) | refine ((foldl_life _ _ _ ?_).trans ?_) | refine ((foldl_ns _ _ _ ?_).trans ?_) | refine ((foldl_fst_pending _ _ _ ?_).trans ?_) | refine ((foldl_fst_life _ _ _ ?_).trans ?_) | refine ((foldl_fst_ns _ _ _ ?_).trans ?_) | split | intro _ | simp only [↓State.plainTransition_keeps, and_self, ↓ite_fst, ↓ite_keeps, ↓State.modBond_keeps, ↓State.modTime_keeps, ↓foldl_pending, ↓foldl_life, ↓foldl_ns, ↓foldl_fst_pending, ↓foldl_fst_life, ↓foldl_fst_ns, ite_self, implies_true])

theorem State.signed_life (s : State) (code : Nat) (blob : Bytes) (states : List Nat) (argLen : Nat)
    (act : State → Bytes → State)
    (h : ∀ s0 a0, (act s0 a0).pending = s0.pending ∧ (act s0 a0).time.ns = s0.time.ns) :
    (s.signed code blob states argLen act).pending = s.pending ∧ (s.signed code blob states argLen act).time.ns = s.time.ns
      ∧ ((s.signed code blob states argLen act).bond.lifecycle = s.bond.lifecycle ∨ s.bond.lifecycle ∈ states
        ∧ ∃ s0 a0, s0.bond.lifecycle = s.bond.lifecycle
          ∧ (s.signed code blob states argLen act).bond.lifecycle = (act s0 a0).bond.lifecycle) := by
  rw [State.signed]; dsimp only
  have hu := State.useSlot_keeps s (leAt (s.bondBuf blob) 1 1)
  split
  · exact ⟨rfl, rfl, .inl rfl⟩
  · generalize s.useSlot (leAt (s.bondBuf blob) 1 1) = u at hu ⊢
    have hb (r l : Nat) : K3 ((u.modBond (fun b => { b with nonce := none })).bondDone r l) s :=
      K3.trans (State.bondDone_keeps ..) hu
    split
    · exact ⟨(hb _ _).1, (hb _ _).2.2, .inl (hb _ _).2.1⟩
    · split
      · exact ⟨(hb _ _).1, (hb _ _).2.2, .inl (hb _ _).2.1⟩
      · split
        · exact ⟨(hb _ _).1, (hb _ _).2.2, .inl (hb _ _).2.1⟩
        · rename_i hs
          split
          · exact ⟨(hb _ _).1, (hb _ _).2.2, .inl (hb _ _).2.1⟩
          · refine ⟨(h _ _).1.trans hu.1, (h _ _).2.trans hu.2.2, .inr ⟨?_, u.modBond (fun b => { b with nonce := none }), s.bondBuf blob, hu.2.1, rfl⟩⟩
            rw [← hu.2.1]; simpa using hs

theorem State.transition_life (s : State) (dest : Nat) (fill force : Bool) :
    (s.transition dest fill force).bond.lifecycle = s.bond.lifecycle
      ∨ (s.transition dest fill force).bond.lifecycle = dest := by
  rw [State.transition.eq_def]
  split
  · exact .inl (State.bondDone_keeps ..).2.1
  · dsimp only
    split
    · exact .inl rfl
    · refine .inr ?_
      rw [(State.sysReset_keeps _).2.1]; rfl

theorem State.plainTransition_life (s : State) (a dest flags : Nat) :
    (s.plainTransition a dest flags).bond.lifecycle = s.bond.lifecycle
      ∨ s.bond.lifecycle = a ∧ (s.plainTransition a dest flags).bond.lifecycle = dest := by
  rw [State.plainTransition.eq_def]
  split
  · exact .inl (State.bondDone_keeps ..).2.1
  · rename_i h
    exact (State.transition_life ..).imp id (fun h2 => ⟨by simpa using h, h2⟩)

theorem execOwnerEnterService_keeps (blob : Bytes) (s : State) :
    ∀ s', execOwnerEnterService blob s = .next s' → s'.pending = s.pending ∧ s'.time.ns = s.time.ns
      ∧ (s'.bond.lifecycle = s.bond.lifecycle ∨ s.bond.lifecycle = 2 ∧ s'.bond.lifecycle = 3) := by
  intro s'; rw [execOwnerEnterService]
  split
  · intro h; cases h; exact ⟨rfl, rfl, .inl rfl⟩
  · intro h; cases h
    have h := State.signed_life s 1 blob [2] 4 (fun s b =>
      s.transition 3 (bit (leAt (ownerArg b) 0 1) 0) (bit (leAt (ownerArg b) 0 1) 1)) (fun _ _ => State.transition_keeps ..)
    refine ⟨h.1, h.2.1, ?_⟩
    rcases h.2.2 with h | ⟨h1, s0, a0, h0, h2⟩
    · exact .inl h
    · rw [h2]
      exact (State.transition_life ..).imp (·.trans h0) (fun h2 => ⟨by simpa using h1, h2⟩)


theorem execOwnerRetire_keeps (blob : Bytes) (s : State) :
    ∀ s', execOwnerRetire blob s = .next s' → s'.pending = s.pending ∧ s'.time.ns = s.time.ns
      ∧ (s'.bond.lifecycle = s.bond.lifecycle ∨ (s.bond.lifecycle = 2 ∨ s.bond.lifecycle = 3) ∧ s'.bond.lifecycle = 4) := by
  intro s'; rw [execOwnerRetire]
  split
  · intro h; cases h; exact ⟨rfl, rfl, .inl rfl⟩
  · intro h; cases h
    have h := State.signed_life s 2 blob [2, 3] 4 (fun s b => s.transition 4 true (bit (leAt (ownerArg b) 0 1) 1))
      (fun _ _ => State.transition_keeps ..)
    refine ⟨h.1, h.2.1, ?_⟩
    rcases h.2.2 with h | ⟨h1, s0, a0, h0, h2⟩
    · exact .inl h
    · rw [h2]
      exact (State.transition_life ..).imp (·.trans h0) (fun h2 => ⟨by simpa using h1, h2⟩)


end Sys2Proof.Machine
end

