-- ==== Sys2Proof/Laws/KeepBoot.lean ====
section
/-!
SUPPORT. What the operations of Machine/Boot.lean leave alone: the queue, the life cycle and the timebase.
-/
set_option linter.unusedSimpArgs false

namespace Sys2Proof.Machine

theorem State.bootLog_keeps (s : State) :
    (State.bootLog s).pending = s.pending ∧ (State.bootLog s).bond.lifecycle = s.bond.lifecycle ∧ (State.bootLog s).time.ns = s.time.ns := by
  rw [State.bootLog]; simp only [↓State.event_keeps, ↓State.modPwr_keeps, and_self, ↓ite_fst, ↓ite_keeps, ↓State.modBond_keeps, ↓State.modTime_keeps, ↓foldl_pending, ↓foldl_life, ↓foldl_ns, ↓foldl_fst_pending, ↓foldl_fst_life, ↓foldl_fst_ns, ite_self, implies_true]

theorem State.bootDdr_keeps (s : State) (b : BootIn) :
    (State.bootDdr s b).pending = s.pending ∧ (State.bootDdr s b).bond.lifecycle = s.bond.lifecycle ∧ (State.bootDdr s b).time.ns = s.time.ns := by
  with_reducible exact ⟨rfl, rfl, rfl⟩

theorem State.zeroFill_keeps (s : State) :
    (State.zeroFill s).pending = s.pending ∧ (State.zeroFill s).bond.lifecycle = s.bond.lifecycle ∧ (State.zeroFill s).time.ns = s.time.ns := by
  rw [State.zeroFill]; simp only [↓State.loseDdr_keeps, ↓State.modCustoms_keeps, ↓State.modEp_keeps, and_self, ↓ite_keeps, ite_self, ↓State.modBond_keeps, ↓State.modTime_keeps]

theorem State.lifeRestart_keeps (s : State) :
    (State.lifeRestart s).pending = s.pending ∧ (State.lifeRestart s).bond.lifecycle = s.bond.lifecycle ∧ (State.lifeRestart s).time.ns = s.time.ns := by
  rw [State.lifeRestart]; simp only [↓State.raise_keeps, ↓State.setSlot_keeps, and_self, ↓ite_keeps, ite_self, ↓State.modBond_keeps, ↓State.modTime_keeps]

theorem State.bootImages_keeps (s : State) (nor : List Bytes) :
    (State.bootImages s nor).pending = s.pending ∧ (State.bootImages s nor).bond.lifecycle = s.bond.lifecycle ∧ (State.bootImages s nor).time.ns = s.time.ns := by
  rw [State.bootImages]; simp only [↓State.modUpd_keeps, ↓State.revertSlots_keeps, ↓State.showBoot_keeps, ↓State.trialStarts_keeps, and_self, ↓ite_keeps, ite_self, ↓State.modBond_keeps, ↓State.modTime_keeps]

theorem State.judgeTrial_keeps (s : State) (ok : Bool) :
    (State.judgeTrial s ok).pending = s.pending ∧ (State.judgeTrial s ok).bond.lifecycle = s.bond.lifecycle ∧ (State.judgeTrial s ok).time.ns = s.time.ns := by
  rw [State.judgeTrial]; simp only [↓State.modUpd_keeps, ↓State.revertSlots_keeps, and_self, ↓ite_keeps, ite_self, ↓State.modBond_keeps, ↓State.modTime_keeps]

theorem State.bootLoader_keeps (s : State) (b : BootIn) :
    (State.bootLoader s b).pending = s.pending ∧ (State.bootLoader s b).bond.lifecycle = s.bond.lifecycle ∧ (State.bootLoader s b).time.ns = s.time.ns := by
  rw [State.bootLoader]; simp only [↓State.judgeTrial_keeps, ↓State.publish_keeps, ↓State.runLoader_keeps, and_self, ↓ite_keeps, ite_self, ↓State.modBond_keeps, ↓State.modTime_keeps]

theorem State.bootTugs_keeps (s : State) (fails : List Nat) :
    (State.bootTugs s fails).pending = s.pending ∧ (State.bootTugs s fails).bond.lifecycle = s.bond.lifecycle ∧ (State.bootTugs s fails).time.ns = s.time.ns := by
  rw [State.bootTugs]; simp only [↓State.fenceTug_keeps, ↓State.set_keeps, ↓State.setFld_keeps, and_self, ↓ite_fst, ↓ite_keeps, ↓State.modBond_keeps, ↓State.modTime_keeps, ↓foldl_pending, ↓foldl_life, ↓foldl_ns, ↓foldl_fst_pending, ↓foldl_fst_life, ↓foldl_fst_ns, ite_self, implies_true]

theorem State.bootService_keeps (s : State) (b : BootIn) :
    (State.bootService s b).pending = s.pending ∧ (State.bootService s b).bond.lifecycle = s.bond.lifecycle ∧ (State.bootService s b).time.ns = s.time.ns := by
  rw [State.bootService]; simp only [↓State.baseStart_keeps, ↓State.bootTugs_keeps, ↓State.judgeTrial_keeps, ↓State.modCraft_keeps, ↓State.modPilot_keeps, ↓State.pilotStart_keeps, ↓State.setPermit_keeps, ↓State.startFns_keeps, ↓State.stopEval_keeps, and_self, ↓ite_keeps, ite_self, ↓State.modBond_keeps, ↓State.modTime_keeps]

theorem State.bootRun_keeps (s : State) (b : BootIn) :
    (State.bootRun s b).pending = s.pending ∧ (State.bootRun s b).bond.lifecycle = s.bond.lifecycle ∧ (State.bootRun s b).time.ns = s.time.ns := by
  rw [State.bootRun]; simp only [↓State.backupEval_keeps, ↓State.bootLoader_keeps, ↓State.bootService_keeps, ↓State.judgeTrial_keeps, ↓State.modPwr_keeps, and_self, ↓ite_keeps, ite_self, ↓State.modBond_keeps, ↓State.modTime_keeps]

theorem State.bootNand_keeps (s : State) (b : BootIn) :
    (State.bootNand s b).pending = s.pending ∧ (State.bootNand s b).bond.lifecycle = s.bond.lifecycle ∧ (State.bootNand s b).time.ns = s.time.ns := by
  first | rw [State.bootNand] | rw [State.bootNand.eq_def]
  try dsimp only
  repeat' (first | (simp only [↓State.cusLoses_keeps, ↓State.modStore_keeps, and_self, ↓ite_fst, ↓ite_keeps, ↓State.modBond_keeps, ↓State.modTime_keeps, ↓foldl_pending, ↓foldl_life, ↓foldl_ns, ↓foldl_fst_pending, ↓foldl_fst_life, ↓foldl_fst_ns, ite_self, implies_true]; done) | with_reducible exact ⟨rfl, rfl, rfl⟩ | (grind only [State.cusLoses_keeps, State.modStore_keeps, ite_keeps, State.modBond_keeps, State.modTime_keeps]; done) | refine ⟨((foldl_pending _ _ _ ?_).trans ?_), ((foldl_life _ _ _ ?_).trans ?_), ((foldl_ns _ _ _ ?_).trans ?_)⟩ | refine ⟨((foldl_fst_pending _ _ _ ?_).trans ?_), ((foldl_fst_life _ _ _ ?_).trans ?_), ((foldl_fst_ns _ _ _ ?_).trans ?_)⟩ | refine ((foldl_pending _ _ _ ?_).trans ?_) | refine ((foldl_life _ _ _ ?_).trans ?_) | refine ((foldl_ns _ _ _ ?_).trans ?_) | refine ((foldl_fst_pending _ _ _ ?_).trans ?_) | refine ((foldl_fst_life _ _ _ ?_).trans ?_) | refine ((foldl_fst_ns _ _ _ ?_).trans ?_) | split | intro _ | simp only [↓State.cusLoses_keeps, ↓State.modStore_keeps, and_self, ↓ite_fst, ↓ite_keeps, ↓State.modBond_keeps, ↓State.modTime_keeps, ↓foldl_pending, ↓foldl_life, ↓foldl_ns, ↓foldl_fst_pending, ↓foldl_fst_life, ↓foldl_fst_ns, ite_self, implies_true])

/-- A start up to its images: the timebase may be loaded anew, queue and life cycle are as they were. -/
theorem State.bootUp_keeps (s : State) (b : BootIn) (f : State → PowerState → PowerState) (g : CraftState → CraftState)
    (k : UpdState → UpdState) :
    (((((((((((((((s.loseRegions b.kaBad).loseTime b.kaBad).modPwr (f ((s.loseRegions b.kaBad).loseTime b.kaBad))).modCraft g).bootLog.stopEval.permMark.loadSlots b.tagBad).setFlag .PWR_STATUS 0 0 8 true).setFlag .GLOBAL_STATUS 0 0 0 true).bootDdr b).zeroFill.lifeRestart).bootNand b).modUpd k).bootImages b.nor)))).pending = s.pending
    ∧ (((((((((((((((s.loseRegions b.kaBad).loseTime b.kaBad).modPwr (f ((s.loseRegions b.kaBad).loseTime b.kaBad))).modCraft g).bootLog.stopEval.permMark.loadSlots b.tagBad).setFlag .PWR_STATUS 0 0 8 true).setFlag .GLOBAL_STATUS 0 0 0 true).bootDdr b).zeroFill.lifeRestart).bootNand b).modUpd k).bootImages b.nor)))).bond.lifecycle = s.bond.lifecycle := by
  have h0 := State.loseRegions_keeps s b.kaBad
  generalize s.loseRegions b.kaBad = t at h0 ⊢
  have h1 := State.loseTime_keeps t b.kaBad
  generalize t.loseTime b.kaBad = u at h1 ⊢
  have h2 : K3 ((u.modPwr (f u)).modCraft g) u := ⟨rfl, rfl, rfl⟩
  generalize (u.modPwr (f u)).modCraft g = v at h2 ⊢
  have h3 : K3 (v.bootLog.stopEval.permMark.loadSlots b.tagBad) v :=
    K3.trans (State.loadSlots_keeps ..) (K3.trans (State.permMark_keeps ..) (K3.trans (State.stopEval_keeps ..) (State.bootLog_keeps ..)))
  generalize v.bootLog.stopEval.permMark.loadSlots b.tagBad = w at h3 ⊢
  have h4 : K3 (((w.setFlag .PWR_STATUS 0 0 8 true).setFlag .GLOBAL_STATUS 0 0 0 true).bootDdr b) w :=
    K3.trans (State.bootDdr_keeps ..) (K3.trans (State.setFlag_keeps ..) (State.setFlag_keeps ..))
  generalize ((w.setFlag .PWR_STATUS 0 0 8 true).setFlag .GLOBAL_STATUS 0 0 0 true).bootDdr b = x at h4 ⊢
  have h5 : K3 (x.zeroFill.lifeRestart.bootNand b) x :=
    K3.trans (State.bootNand_keeps ..) (K3.trans (State.lifeRestart_keeps ..) (State.zeroFill_keeps ..))
  generalize x.zeroFill.lifeRestart.bootNand b = y at h5 ⊢
  have h6 : K3 (y.modUpd k) y := ⟨rfl, rfl, rfl⟩
  generalize y.modUpd k = z at h6 ⊢
  have h7 := K3.trans (State.bootImages_keeps z b.nor) (K3.trans h6 (K3.trans h5 (K3.trans h4 (K3.trans h3 h2))))
  exact ⟨h7.1.trans (h1.1.trans h0.1), h7.2.1.trans (h1.2.trans h0.2.1)⟩

theorem execBoot_keeps (b : BootIn) (s : State) :
    ∀ s', (execBoot b s) = .next s' → s'.pending = s.pending ∧ s'.bond.lifecycle = s.bond.lifecycle := by
  intro s' h
  rw [execBoot] at h
  split at h
  · cases h; exact ⟨rfl, rfl⟩
  · have h1 := State.bootUp_keeps s b (fun t p => { p with released := (t.time.ns : Int) - (1000000 * b.ms : Nat) })
      (fun c => { c with allStop := false }) (fun u => { u with jobs := u.jobs.map (fun j => if j.state = 1 then FwJob.free else j) })
    dsimp only at h h1
    generalize State.bootImages _ b.nor = t at h h1
    split at h
    · cases h
      exact ⟨(State.bootRun_keeps t b).1.trans h1.1, (State.bootRun_keeps t b).2.1.trans h1.2⟩
    · split at h
      · cases h
        have h2 := State.revertSlots_keeps t 2
        generalize t.revertSlots 2 = u at h2 ⊢
        split
        · exact ⟨(State.bootRun_keeps u b).1.trans (h2.1.trans h1.1), (State.bootRun_keeps u b).2.1.trans (h2.2.1.trans h1.2)⟩
        · exact ⟨h2.1.trans h1.1, h2.2.1.trans h1.2⟩
      · cases h; exact h1


end Sys2Proof.Machine
end

