-- ==== Sys2Proof/Laws/KeepHostIf.lean ====
section
/-!
SUPPORT. What the operations of Machine/HostIf.lean leave alone: the queue, the life cycle and the timebase.
-/
set_option linter.unusedSimpArgs false

namespace Sys2Proof.Machine

theorem State.crHead_keeps (s : State) (p v : Nat) :
    (State.crHead s p v).pending = s.pending ∧ (State.crHead s p v).bond.lifecycle = s.bond.lifecycle ∧ (State.crHead s p v).time.ns = s.time.ns := by
  rw [State.crHead.eq_def]; repeat' (first | (solve | simp only [↓State.modHost_keeps, ↓State.set_keeps, and_self, ↓ite_keeps, ite_self, ↓State.modBond_keeps, ↓State.modTime_keeps]) | with_reducible exact ⟨rfl, rfl, rfl⟩ | split)

theorem State.crRestart_keeps (s : State) (p : Nat) :
    (State.crRestart s p).pending = s.pending ∧ (State.crRestart s p).bond.lifecycle = s.bond.lifecycle ∧ (State.crRestart s p).time.ns = s.time.ns := by
  with_reducible exact ⟨rfl, rfl, rfl⟩

theorem State.crCfg_keeps (s : State) (p which v : Nat) :
    (State.crCfg s p which v).pending = s.pending ∧ (State.crCfg s p which v).bond.lifecycle = s.bond.lifecycle ∧ (State.crCfg s p which v).time.ns = s.time.ns := by
  rw [State.crCfg]; simp only [↓State.crRestart_keeps, ↓State.set_keeps, and_self, ↓ite_keeps, ite_self, ↓State.modBond_keeps, ↓State.modTime_keeps]

theorem execCrHeadWrite_keeps (ring : Nat) (val : Word) (s : State) :
    ∀ s', (execCrHeadWrite ring val s) = .next s' → s'.pending = s.pending ∧ s'.bond.lifecycle = s.bond.lifecycle ∧ s'.time.ns = s.time.ns := by
  rw [execCrHeadWrite.eq_def]; repeat' (first | with_reducible exact out_keeps ⟨rfl, rfl, rfl⟩ | with_reducible refine out_keeps ?_ | with_reducible refine out_both ?_ ?_ | (solve | simp only [↓State.crHead_keeps, and_self]) | split)

theorem execCrCfgWrite_keeps (ring reg : Nat) (val : Word) (s : State) :
    ∀ s', (execCrCfgWrite ring reg val s) = .next s' → s'.pending = s.pending ∧ s'.bond.lifecycle = s.bond.lifecycle ∧ s'.time.ns = s.time.ns := by
  rw [execCrCfgWrite.eq_def]; repeat' (first | with_reducible exact out_keeps ⟨rfl, rfl, rfl⟩ | with_reducible refine out_keeps ?_ | with_reducible refine out_both ?_ ?_ | (solve | simp only [↓State.crCfg_keeps, and_self]) | split)

theorem execCrCoalesceTimeout_keeps (ring : Nat) (s : State) :
    ∀ s', (execCrCoalesceTimeout ring s) = .next s' → s'.pending = s.pending ∧ s'.bond.lifecycle = s.bond.lifecycle ∧ s'.time.ns = s.time.ns := by
  rw [execCrCoalesceTimeout.eq_def]; repeat' (first | with_reducible exact out_keeps ⟨rfl, rfl, rfl⟩ | with_reducible refine out_keeps ?_ | with_reducible refine out_both ?_ ?_ | (solve | simp only [↓State.modHost_keeps, ↓State.sendVector_keeps, and_self]) | split)

theorem State.tugWrite_keeps (s : State) (t a : Nat) (b : Byte) :
    (State.tugWrite s t a b).pending = s.pending ∧ (State.tugWrite s t a b).bond.lifecycle = s.bond.lifecycle ∧ (State.tugWrite s t a b).time.ns = s.time.ns := by
  first | rw [State.tugWrite] | rw [State.tugWrite.eq_def]
  try dsimp only
  repeat' (first | (simp only [↓State.modPwr_keeps, and_self, ↓ite_fst, ↓ite_keeps, ↓State.modBond_keeps, ↓State.modTime_keeps, ↓foldl_pending, ↓foldl_life, ↓foldl_ns, ↓foldl_fst_pending, ↓foldl_fst_life, ↓foldl_fst_ns, ite_self, implies_true]; done) | with_reducible exact ⟨rfl, rfl, rfl⟩ | (grind only [State.modPwr_keeps, ite_keeps, State.modBond_keeps, State.modTime_keeps]; done) | refine ⟨((foldl_pending _ _ _ ?_).trans ?_), ((foldl_life _ _ _ ?_).trans ?_), ((foldl_ns _ _ _ ?_).trans ?_)⟩ | refine ⟨((foldl_fst_pending _ _ _ ?_).trans ?_), ((foldl_fst_life _ _ _ ?_).trans ?_), ((foldl_fst_ns _ _ _ ?_).trans ?_)⟩ | refine ((foldl_pending _ _ _ ?_).trans ?_) | refine ((foldl_life _ _ _ ?_).trans ?_) | refine ((foldl_ns _ _ _ ?_).trans ?_) | refine ((foldl_fst_pending _ _ _ ?_).trans ?_) | refine ((foldl_fst_life _ _ _ ?_).trans ?_) | refine ((foldl_fst_ns _ _ _ ?_).trans ?_) | split | intro _ | simp only [↓State.modPwr_keeps, and_self, ↓ite_fst, ↓ite_keeps, ↓State.modBond_keeps, ↓State.modTime_keeps, ↓foldl_pending, ↓foldl_life, ↓foldl_ns, ↓foldl_fst_pending, ↓foldl_fst_life, ↓foldl_fst_ns, ite_self, implies_true])

theorem State.localWrite_keeps (s : State) (t o : Nat) (b : Byte) :
    (State.localWrite s t o b).pending = s.pending ∧ (State.localWrite s t o b).bond.lifecycle = s.bond.lifecycle ∧ (State.localWrite s t o b).time.ns = s.time.ns := by
  first | rw [State.localWrite] | rw [State.localWrite.eq_def]
  try dsimp only
  repeat' (first | (simp only [↓State.modPwr_keeps, and_self, ↓ite_fst, ↓ite_keeps, ↓State.modBond_keeps, ↓State.modTime_keeps, ↓foldl_pending, ↓foldl_life, ↓foldl_ns, ↓foldl_fst_pending, ↓foldl_fst_life, ↓foldl_fst_ns, ite_self, implies_true]; done) | with_reducible exact ⟨rfl, rfl, rfl⟩ | (grind only [State.modPwr_keeps, ite_keeps, State.modBond_keeps, State.modTime_keeps]; done) | refine ⟨((foldl_pending _ _ _ ?_).trans ?_), ((foldl_life _ _ _ ?_).trans ?_), ((foldl_ns _ _ _ ?_).trans ?_)⟩ | refine ⟨((foldl_fst_pending _ _ _ ?_).trans ?_), ((foldl_fst_life _ _ _ ?_).trans ?_), ((foldl_fst_ns _ _ _ ?_).trans ?_)⟩ | refine ((foldl_pending _ _ _ ?_).trans ?_) | refine ((foldl_life _ _ _ ?_).trans ?_) | refine ((foldl_ns _ _ _ ?_).trans ?_) | refine ((foldl_fst_pending _ _ _ ?_).trans ?_) | refine ((foldl_fst_life _ _ _ ?_).trans ?_) | refine ((foldl_fst_ns _ _ _ ?_).trans ?_) | split | intro _ | simp only [↓State.modPwr_keeps, and_self, ↓ite_fst, ↓ite_keeps, ↓State.modBond_keeps, ↓State.modTime_keeps, ↓foldl_pending, ↓foldl_life, ↓foldl_ns, ↓foldl_fst_pending, ↓foldl_fst_life, ↓foldl_fst_ns, ite_self, implies_true])

theorem State.dmaGo_keeps (s : State) (c v : Nat) :
    (State.dmaGo s c v).pending = s.pending ∧ (State.dmaGo s c v).bond.lifecycle = s.bond.lifecycle ∧ (State.dmaGo s c v).time.ns = s.time.ns := by
  rw [State.dmaGo]; simp only [↓State.modDma_keeps, ↓State.set_keeps, ↓State.setFlag_keeps, and_self, ↓ite_keeps, ite_self, ↓State.modBond_keeps, ↓State.modTime_keeps]

theorem State.dmaFault_keeps (s : State) (c cause : Nat) :
    (State.dmaFault s c cause).pending = s.pending ∧ (State.dmaFault s c cause).bond.lifecycle = s.bond.lifecycle ∧ (State.dmaFault s c cause).time.ns = s.time.ns := by
  rw [State.dmaFault]; simp only [↓State.raise_keeps, ↓State.set_keeps, ↓State.setFlag_keeps, and_self]

theorem execDmaChannelGo_keeps (chan : Nat) (val : Word) (s : State) :
    ∀ s', (execDmaChannelGo chan val s) = .next s' → s'.pending = s.pending ∧ s'.bond.lifecycle = s.bond.lifecycle ∧ s'.time.ns = s.time.ns := by
  rw [execDmaChannelGo.eq_def]; repeat' (first | with_reducible exact out_keeps ⟨rfl, rfl, rfl⟩ | with_reducible refine out_keeps ?_ | with_reducible refine out_both ?_ ?_ | (solve | simp only [↓State.dmaGo_keeps, and_self]) | split)

theorem State.dmaPulse_keeps (s : State) (c : Nat) :
    (State.dmaPulse s c).pending = s.pending ∧ (State.dmaPulse s c).bond.lifecycle = s.bond.lifecycle ∧ (State.dmaPulse s c).time.ns = s.time.ns := by
  rw [State.dmaPulse]; simp only [↓State.count_keeps, ↓State.countRefused_keeps, ↓State.enterBerth_keeps, and_self, ↓ite_keeps, ite_self, ↓State.modBond_keeps, ↓State.modTime_keeps]

theorem execDmaChannelDone_keeps (chan : Nat) (abort : Bool) (src : Bytes) (s : State) :
    ∀ s', (execDmaChannelDone chan abort src s) = .next s' → s'.pending = s.pending ∧ s'.bond.lifecycle = s.bond.lifecycle ∧ s'.time.ns = s.time.ns := by
  rw [execDmaChannelDone.eq_def]; repeat' (first | with_reducible exact out_keeps ⟨rfl, rfl, rfl⟩ | with_reducible refine out_keeps ?_ | with_reducible refine out_both ?_ ?_ | (solve | simp only [↓State.dmaFault_keeps, ↓State.dmaPulse_keeps, ↓State.modHost_keeps, ↓State.modPwr_keeps, ↓State.panelRow_keeps, ↓State.set_keeps, ↓State.setFlag_keeps, and_self]) | split)

theorem execPcieReset_keeps (s : State) :
    ∀ s', (execPcieReset s) = .next s' → s'.pending = s.pending ∧ s'.bond.lifecycle = s.bond.lifecycle ∧ s'.time.ns = s.time.ns := by
  intro s'; first | rw [execPcieReset] | rw [execPcieReset.eq_def]
  try dsimp only
  repeat' (first | (simp only [↓State.dmaFault_keeps, ↓State.modHost_keeps, ↓State.set_keeps, and_self, ↓ite_fst, ↓ite_keeps, ↓State.modBond_keeps, ↓State.modTime_keeps, ↓foldl_pending, ↓foldl_life, ↓foldl_ns, ↓foldl_fst_pending, ↓foldl_fst_life, ↓foldl_fst_ns, ite_self, implies_true]; done) | with_reducible exact ⟨rfl, rfl, rfl⟩ | (grind only [State.dmaFault_keeps, State.modHost_keeps, State.set_keeps, ite_keeps, State.modBond_keeps, State.modTime_keeps]; done) | (with_reducible refine out_next (P := fun s' => s'.pending = s.pending ∧ s'.bond.lifecycle = s.bond.lifecycle ∧ s'.time.ns = s.time.ns) ?_) | with_reducible refine out_ite ?_ ?_ | refine ⟨((foldl_pending _ _ _ ?_).trans ?_), ((foldl_life _ _ _ ?_).trans ?_), ((foldl_ns _ _ _ ?_).trans ?_)⟩ | refine ⟨((foldl_fst_pending _ _ _ ?_).trans ?_), ((foldl_fst_life _ _ _ ?_).trans ?_), ((foldl_fst_ns _ _ _ ?_).trans ?_)⟩ | refine ((foldl_pending _ _ _ ?_).trans ?_) | refine ((foldl_life _ _ _ ?_).trans ?_) | refine ((foldl_ns _ _ _ ?_).trans ?_) | refine ((foldl_fst_pending _ _ _ ?_).trans ?_) | refine ((foldl_fst_life _ _ _ ?_).trans ?_) | refine ((foldl_fst_ns _ _ _ ?_).trans ?_) | split | intro _ | simp only [↓State.dmaFault_keeps, ↓State.modHost_keeps, ↓State.set_keeps, and_self, ↓ite_fst, ↓ite_keeps, ↓State.modBond_keeps, ↓State.modTime_keeps, ↓foldl_pending, ↓foldl_life, ↓foldl_ns, ↓foldl_fst_pending, ↓foldl_fst_life, ↓foldl_fst_ns, ite_self, implies_true])

theorem State.sendHeld_keeps (s : State) (v : Nat) :
    (State.sendHeld s v).pending = s.pending ∧ (State.sendHeld s v).bond.lifecycle = s.bond.lifecycle ∧ (State.sendHeld s v).time.ns = s.time.ns := by
  rw [State.sendHeld]; simp only [↓State.modHost_keeps, ↓State.setFlag_keeps, and_self, ↓ite_keeps, ite_self, ↓State.modBond_keeps, ↓State.modTime_keeps]

theorem execPcieLinkUp_keeps (busMaster msixMasked : Bool) (s : State) :
    ∀ s', (execPcieLinkUp busMaster msixMasked s) = .next s' → s'.pending = s.pending ∧ s'.bond.lifecycle = s.bond.lifecycle ∧ s'.time.ns = s.time.ns := by
  intro s'; first | rw [execPcieLinkUp] | rw [execPcieLinkUp.eq_def]
  try dsimp only
  repeat' (first | (simp only [↓State.modHost_keeps, ↓State.sendHeld_keeps, and_self, ↓ite_fst, ↓ite_keeps, ↓State.modBond_keeps, ↓State.modTime_keeps, ↓foldl_pending, ↓foldl_life, ↓foldl_ns, ↓foldl_fst_pending, ↓foldl_fst_life, ↓foldl_fst_ns, ite_self, implies_true]; done) | with_reducible exact ⟨rfl, rfl, rfl⟩ | (grind only [State.modHost_keeps, State.sendHeld_keeps, ite_keeps, State.modBond_keeps, State.modTime_keeps]; done) | (with_reducible refine out_next (P := fun s' => s'.pending = s.pending ∧ s'.bond.lifecycle = s.bond.lifecycle ∧ s'.time.ns = s.time.ns) ?_) | with_reducible refine out_ite ?_ ?_ | refine ⟨((foldl_pending _ _ _ ?_).trans ?_), ((foldl_life _ _ _ ?_).trans ?_), ((foldl_ns _ _ _ ?_).trans ?_)⟩ | refine ⟨((foldl_fst_pending _ _ _ ?_).trans ?_), ((foldl_fst_life _ _ _ ?_).trans ?_), ((foldl_fst_ns _ _ _ ?_).trans ?_)⟩ | refine ((foldl_pending _ _ _ ?_).trans ?_) | refine ((foldl_life _ _ _ ?_).trans ?_) | refine ((foldl_ns _ _ _ ?_).trans ?_) | refine ((foldl_fst_pending _ _ _ ?_).trans ?_) | refine ((foldl_fst_life _ _ _ ?_).trans ?_) | refine ((foldl_fst_ns _ _ _ ?_).trans ?_) | split | intro _ | simp only [↓State.modHost_keeps, ↓State.sendHeld_keeps, and_self, ↓ite_fst, ↓ite_keeps, ↓State.modBond_keeps, ↓State.modTime_keeps, ↓foldl_pending, ↓foldl_life, ↓foldl_ns, ↓foldl_fst_pending, ↓foldl_fst_life, ↓foldl_fst_ns, ite_self, implies_true])

end Sys2Proof.Machine
end

