-- ==== Sys2Proof/Laws/KeepHostAccess.lean ====
section
/-!
SUPPORT. What the operations of Machine/HostAccess.lean leave alone: the queue, the life cycle and the timebase.
-/
set_option linter.unusedSimpArgs false

namespace Sys2Proof.Machine

theorem State.clearRead_keeps (s : State) (r : Reg) (i j : Nat) :
    (State.clearRead s r i j).pending = s.pending ∧ (State.clearRead s r i j).bond.lifecycle = s.bond.lifecycle ∧ (State.clearRead s r i j).time.ns = s.time.ns := by
  rw [State.clearRead]; simp only [↓State.set_keeps, and_self, ↓ite_keeps, ite_self, ↓State.modBond_keeps, ↓State.modTime_keeps]

theorem State.readDword_keeps (s : State) (a : Nat) :
    (State.readDword s a).2.pending = s.pending ∧ (State.readDword s a).2.bond.lifecycle = s.bond.lifecycle ∧ (State.readDword s a).2.time.ns = s.time.ns := by
  rw [State.readDword.eq_def]; repeat' (first | (solve | simp only [↓State.clearRead_keeps, ↓State.modHost_keeps, and_self, ↓ite_keeps, ite_self, ↓State.modBond_keeps, ↓State.modTime_keeps]) | with_reducible exact ⟨rfl, rfl, rfl⟩ | split)

theorem State.readDword_eq (s : State) (a : Nat) (s' : State) (x' : Nat) (he : (State.readDword s a) = (x', s')) :
    s'.pending = s.pending ∧ s'.bond.lifecycle = s.bond.lifecycle ∧ s'.time.ns = s.time.ns := by
  have hk := State.readDword_keeps s a; rw [he] at hk; exact hk

theorem execRegisterRead_keeps (addr len : Nat) (s : State) :
    ∀ s', (execRegisterRead addr len s) = .next s' → s'.pending = s.pending ∧ s'.bond.lifecycle = s.bond.lifecycle ∧ s'.time.ns = s.time.ns := by
  intro s'; rw [execRegisterRead]
  refine out_ite ?_ ?_
  · refine out_next (P := fun t => t.pending = s.pending ∧ t.bond.lifecycle = s.bond.lifecycle ∧ t.time.ns = s.time.ns) ?_
    exact ⟨rfl, rfl, rfl⟩
  · have h (l : List Nat) : ∀ x : List Word × State,
        (l.foldl (fun x a => (x.1 ++ [BitVec.ofNat 32 (x.2.readDword a).1], (x.2.readDword a).2)) x).2.pending = x.2.pending
          ∧ (l.foldl (fun x a => (x.1 ++ [BitVec.ofNat 32 (x.2.readDword a).1], (x.2.readDword a).2)) x).2.bond.lifecycle = x.2.bond.lifecycle
          ∧ (l.foldl (fun x a => (x.1 ++ [BitVec.ofNat 32 (x.2.readDword a).1], (x.2.readDword a).2)) x).2.time.ns = x.2.time.ns := by
      induction l with
      | nil => intro x; exact ⟨rfl, rfl, rfl⟩
      | cons a l ih =>
        intro x
        simp only [List.foldl_cons, ↓ih, ↓State.readDword_keeps, and_self]
    refine out_next (P := fun t => t.pending = s.pending ∧ t.bond.lifecycle = s.bond.lifecycle ∧ t.time.ns = s.time.ns) ?_
    simp only [↓State.modHost_keeps, ↓h, ↓State.accessWake_keeps, and_self]

theorem State.setMasked_keeps (s : State) (r : Reg) (i j m v : Nat) :
    (State.setMasked s r i j m v).pending = s.pending ∧ (State.setMasked s r i j m v).bond.lifecycle = s.bond.lifecycle ∧ (State.setMasked s r i j m v).time.ns = s.time.ns := by
  rw [State.setMasked]; simp only [↓State.set_keeps, and_self, ↓ite_keeps, ite_self, ↓State.modBond_keeps, ↓State.modTime_keeps]

theorem State.ballEdges_keeps (s old : State) :
    (State.ballEdges s old).pending = s.pending ∧ (State.ballEdges s old).bond.lifecycle = s.bond.lifecycle ∧ (State.ballEdges s old).time.ns = s.time.ns := by
  rw [State.ballEdges]; simp only [↓State.gpioEdge_keeps, and_self, ↓ite_fst, ↓ite_keeps, ↓State.modBond_keeps, ↓State.modTime_keeps, ↓foldl_pending, ↓foldl_life, ↓foldl_ns, ↓foldl_fst_pending, ↓foldl_fst_life, ↓foldl_fst_ns, ite_self, implies_true]

theorem State.carry_keeps (s : State) (o : Host.Outcome State Fault Refusal)
    (h : ∀ t, o = .next t → t.pending = s.pending ∧ t.bond.lifecycle = s.bond.lifecycle ∧ t.time.ns = s.time.ns) :
    (s.carry o).pending = s.pending ∧ (s.carry o).bond.lifecycle = s.bond.lifecycle ∧ (s.carry o).time.ns = s.time.ns := by
  cases o with
  | next t => exact h t rfl
  | fault _ => exact ⟨rfl, rfl, rfl⟩
  | refused _ => exact ⟨rfl, rfl, rfl⟩

theorem State.carry_abandon (s : State) (f : Nat) : (s.carry (execAbandonNow f s)).pending = s.pending ∧ (s.carry (execAbandonNow f s)).bond.lifecycle = s.bond.lifecycle ∧ (s.carry (execAbandonNow f s)).time.ns = s.time.ns :=
  State.carry_keeps _ _ (execAbandonNow_keeps f s)

theorem State.carry_sound (s : State) (n : Nat) : (s.carry (execPlcSoundNow n s)).pending = s.pending ∧ (s.carry (execPlcSoundNow n s)).bond.lifecycle = s.bond.lifecycle ∧ (s.carry (execPlcSoundNow n s)).time.ns = s.time.ns :=
  State.carry_keeps _ _ (execPlcSoundNow_keeps n s)

theorem State.carry_redraw (s : State) : (s.carry (execPanelRedraw s)).pending = s.pending ∧ (s.carry (execPanelRedraw s)).bond.lifecycle = s.bond.lifecycle ∧ (s.carry (execPanelRedraw s)).time.ns = s.time.ns :=
  State.carry_keeps _ _ (execPanelRedraw_keeps s)


theorem State.writeEnable_keeps (s : State) (f : Nat) (on : Bool) :
    (State.writeEnable s f on).pending = s.pending ∧ (State.writeEnable s f on).bond.lifecycle = s.bond.lifecycle ∧ (State.writeEnable s f on).time.ns = s.time.ns := by
  rw [State.writeEnable]
  refine State.carry_keeps _ _ (fun t => ?_)
  split
  · exact execFunctionEnable_keeps f s t
  · exact execFunctionDisable_keeps f s t

/-- What a command of BOND.CMD that leaves the life cycle to Table 11-11 may do to queue, timebase and life cycle. -/
abbrev plainMoves (t s : State) : Prop :=
  t.pending = s.pending ∧ t.time.ns = s.time.ns ∧ (t.bond.lifecycle = s.bond.lifecycle ∨ s.bond.lifecycle = 1 ∧ t.bond.lifecycle = 2
      ∨ s.bond.lifecycle = 3 ∧ t.bond.lifecycle = 2 ∨ s.bond.lifecycle = 1 ∧ t.bond.lifecycle = 4)

theorem K3.moves {t s : State} (h : K3 t s) : plainMoves t s := ⟨h.1, h.2.2, .inl h.2.1⟩

theorem State.plain_moves (s : State) (a dest flags : Nat) (h : a = 1 ∧ dest = 2 ∨ a = 3 ∧ dest = 2 ∨ a = 1 ∧ dest = 4) :
    plainMoves (s.plainTransition a dest flags) s := by
  have hk := State.plainTransition_keeps s a dest flags
  refine ⟨hk.1, hk.2, ?_⟩
  rcases State.plainTransition_life s a dest flags with h1 | ⟨h1, h2⟩
  · exact .inl h1
  · rcases h with ⟨rfl, rfl⟩ | ⟨rfl, rfl⟩ | ⟨rfl, rfl⟩
    · exact .inr (.inl ⟨h1, h2⟩)
    · exact .inr (.inr (.inl ⟨h1, h2⟩))
    · exact .inr (.inr (.inr ⟨h1, h2⟩))

theorem State.carry_moves (s : State) (o : Host.Outcome State Fault Refusal) (h : ∀ t, o = .next t → plainMoves t s) :
    plainMoves (s.carry o) s := by
  cases o with
  | next t => exact h t rfl
  | fault _ => exact K3.moves ⟨rfl, rfl, rfl⟩
  | refused _ => exact K3.moves ⟨rfl, rfl, rfl⟩

theorem State.bondCommand_moves (s : State) (v : Nat) : plainMoves (s.bondCommand v) s := by
  rw [State.bondCommand]
  refine State.carry_moves _ _ (fun t => ?_)
  split
  · exact fun h => K3.moves (execBondChallenge_keeps _ _ h)
  · exact fun h => K3.moves (execBondGenerate_keeps _ _ _ h)
  · exact fun h => K3.moves (execBondErasePlain_keeps _ _ _ h)
  · exact fun h => K3.moves (execBondAttest_keeps _ _ _ _ h)
  · exact fun h => K3.moves (execBondSign_keeps _ _ _ h)
  · rw [execBondDeploy]
    split <;> intro h <;> cases h
    · exact K3.moves ⟨rfl, rfl, rfl⟩
    · exact State.plain_moves _ _ _ _ (by simp)
  · rw [execBondExitService]
    split <;> intro h <;> cases h
    · exact K3.moves ⟨rfl, rfl, rfl⟩
    · exact State.plain_moves _ _ _ _ (by simp)
  · rw [execBondRetireFactory]
    split <;> intro h <;> cases h
    · exact K3.moves ⟨rfl, rfl, rfl⟩
    · exact State.plain_moves _ _ _ _ (by simp)
  · intro h; cases h; exact K3.moves ⟨rfl, rfl, rfl⟩


theorem State.writeReg_keeps (s : State) (r : Reg) (i j v : Nat) (h : r ≠ .BOND_CMD) : K3 (State.writeReg s r i j v) s := by
  rw [State.writeReg.eq_def]; unfold K3
  repeat' (first | exact absurd rfl h | (simp only [↓State.carry_abandon, ↓State.carry_sound, ↓State.carry_redraw, ↓State.backupEval_keeps, ↓State.ballEdges_keeps, ↓State.carry_keeps, ↓State.clearInts_keeps, ↓State.crCfg_keeps, ↓State.crHead_keeps, ↓State.dmaGo_keeps, ↓State.modPanel_keeps, ↓State.pairJournal_keeps, ↓State.retarget_keeps, ↓State.sendHeld_keeps, ↓State.sendVector_keeps, ↓State.setMasked_keeps, ↓State.writeEnable_keeps, and_self, ↓ite_fst, ↓ite_keeps, ↓State.modBond_keeps, ↓State.modTime_keeps, ↓foldl_pending, ↓foldl_life, ↓foldl_ns, ↓foldl_fst_pending, ↓foldl_fst_life, ↓foldl_fst_ns, ite_self, implies_true]; done) | with_reducible exact ⟨rfl, rfl, rfl⟩ | split)

theorem State.writeReg_moves (s : State) (r : Reg) (i j v : Nat) : plainMoves (State.writeReg s r i j v) s := by
  by_cases h : r = .BOND_CMD
  · subst h
    rw [State.writeReg.eq_def]
    split
    · exact K3.moves (State.clearInts_keeps ..)
    · split
      · exact K3.moves ⟨rfl, rfl, rfl⟩
      · rename_i v' _
        have hm := State.setMasked_keeps s .BOND_CMD i j (s.writeMask .BOND_CMD i j) v'
        have hb := State.bondCommand_moves (s.setMasked .BOND_CMD i j (s.writeMask .BOND_CMD i j) v') v'
        rw [plainMoves, hm.1, hm.2.1, hm.2.2] at hb
        exact hb
  · exact K3.moves (State.writeReg_keeps s r i j v h)


theorem State.writeDword_keeps (s : State) (a v : Nat) (h : a ≠ Reg.addr .BOND_CMD 0 0) : K3 (State.writeDword s a v) s := by
  rw [State.writeDword]
  split
  · rename_i r i j hr
    refine State.writeReg_keeps _ _ _ _ _ (fun e => h ?_)
    rw [← regAt_addr a r i j hr, e]; rfl
  · exact ⟨rfl, rfl, rfl⟩

theorem State.writeDword_moves (s : State) (a v : Nat) : plainMoves (State.writeDword s a v) s := by
  rw [State.writeDword]
  split
  · exact State.writeReg_moves ..
  · exact K3.moves ⟨rfl, rfl, rfl⟩


theorem dwordsOf_nodup (a n : Nat) : (dwordsOf a n).Nodup := by
  rw [dwordsOf]
  split
  · exact List.nodup_nil
  · exact List.Pairwise.map _ (fun x y h => by omega) List.nodup_range

/-- Of the dwords of one write one alone is BOND.CMD, so one transition is taken at most. -/
theorem State.writeDwords_moves (f : Nat → Nat) (l : List Nat) (hl : l.Nodup) (s : State) :
    plainMoves (l.foldl (fun s a => s.writeDword a (f a)) s) s ∧
      (Reg.addr .BOND_CMD 0 0 ∉ l → K3 (l.foldl (fun s a => s.writeDword a (f a)) s) s) := by
  induction l generalizing s with
  | nil => exact ⟨K3.moves ⟨rfl, rfl, rfl⟩, fun _ => ⟨rfl, rfl, rfl⟩⟩
  | cons a l ih =>
    rw [List.nodup_cons] at hl
    have h := ih hl.2 (s.writeDword a (f a))
    rw [List.foldl_cons]
    by_cases ha : a = Reg.addr .BOND_CMD 0 0
    · have h1 := h.2 (ha ▸ hl.1)
      have h2 := State.writeDword_moves s a (f a)
      rw [plainMoves] at h2 ⊢
      rw [h1.1, h1.2.1, h1.2.2]
      exact ⟨h2, fun hn => absurd (by simp [ha]) hn⟩
    · have h2 := State.writeDword_keeps s a (f a) ha
      have h3 := h.1
      rw [plainMoves, h2.1, h2.2.1, h2.2.2] at h3
      exact ⟨h3, fun hn => K3.trans (h.2 (fun hm => hn (List.mem_cons_of_mem _ hm))) h2⟩

theorem execRegisterWrite_keeps (addr : Nat) (data : Bytes) (s : State) :
    ∀ s', execRegisterWrite addr data s = .next s' → plainMoves s' s := by
  intro s'; rw [execRegisterWrite]
  split
  · intro h; cases h; exact K3.moves ⟨rfl, rfl, rfl⟩
  · intro h; cases h
    have hw := State.accessWake_keeps s addr
    have h := (State.writeDwords_moves (fun a => leAt data (a - addr) 4) _
      ((dwordsOf_nodup addr data.length).filter (fun a => decide (addr ≤ a) && decide (a + 4 ≤ addr + data.length))) (s.accessWake addr)).1
    rw [plainMoves, hw.1, hw.2.1, hw.2.2] at h
    exact h


theorem execIntRegisterWrite_keeps (addr : Nat) (val : Word) (s : State) :
    ∀ s', (execIntRegisterWrite addr val s) = .next s' → s'.pending = s.pending ∧ s'.bond.lifecycle = s.bond.lifecycle ∧ s'.time.ns = s.time.ns := by
  rw [execIntRegisterWrite.eq_def]; repeat' (first | with_reducible exact out_keeps ⟨rfl, rfl, rfl⟩ | with_reducible refine out_keeps ?_ | with_reducible refine out_both ?_ ?_ | (solve | simp only [↓State.accessWake_keeps, ↓State.clearInts_keeps, and_self]) | split)

end Sys2Proof.Machine
end

