-- ==== Sys2Proof/Laws/KeepRelease.lean ====
section
/-!
SUPPORT. What the operations of Machine/Release.lean leave alone: the queue, the life cycle and the timebase.
-/
set_option linter.unusedSimpArgs false

namespace Sys2Proof.Machine

theorem State.commitRow_keeps (s : State) (w : RowWrite) :
    (State.commitRow s w).pending = s.pending ∧ (State.commitRow s w).bond.lifecycle = s.bond.lifecycle ∧ (State.commitRow s w).time.ns = s.time.ns := by
  rw [State.commitRow.eq_def]; repeat' (first | (solve | simp only [↓State.commitCorr_keeps, ↓State.journalRec_keeps, ↓State.modBal_keeps, ↓State.modCraft_keeps, ↓State.modUpd_keeps, ↓State.panelRow_keeps, ↓State.staleKey_keeps, ↓State.writeRec_keeps, and_self, ↓ite_keeps, ite_self, ↓State.modBond_keeps, ↓State.modTime_keeps]) | with_reducible exact ⟨rfl, rfl, rfl⟩ | split)

theorem State.commitDown_keeps (s : State) (e : Effect) :
    (State.commitDown s e).pending = s.pending ∧ (State.commitDown s e).bond.lifecycle = s.bond.lifecycle ∧ (State.commitDown s e).time.ns = s.time.ns := by
  rw [State.commitDown]; simp only [↓State.commitLink_keeps, and_self, ↓ite_keeps, ite_self, ↓State.modBond_keeps, ↓State.modTime_keeps]

theorem State.followManifest_keeps (s : State) (f : Follow) (parent : Manifest) :
    (State.followManifest s f parent).1.pending = s.pending ∧ (State.followManifest s f parent).1.bond.lifecycle = s.bond.lifecycle ∧ (State.followManifest s f parent).1.time.ns = s.time.ns := by
  rw [State.followManifest.eq_def]; try dsimp only
  repeat' (first | (solve | simp only [↓State.fresh_keeps, and_self, ↓ite_fst, ↓ite_keeps, ↓State.modBond_keeps, ↓State.modTime_keeps, ↓foldl_pending, ↓foldl_life, ↓foldl_ns, ↓foldl_fst_pending, ↓foldl_fst_life, ↓foldl_fst_ns, ite_self, implies_true]) | with_reducible exact ⟨rfl, rfl, rfl⟩ | refine ⟨foldl_pending _ _ _ ?_, foldl_life _ _ _ ?_, foldl_ns _ _ _ ?_⟩ | split | intro _)

theorem State.followManifest_eq (s : State) (f : Follow) (parent : Manifest) (s' : State) (x' : Manifest) (he : (State.followManifest s f parent) = (s', x')) :
    s'.pending = s.pending ∧ s'.bond.lifecycle = s.bond.lifecycle ∧ s'.time.ns = s.time.ns := by
  have hk := State.followManifest_keeps s f parent; rw [he] at hk; exact hk

theorem State.commitFollow_keeps (s : State) (e : Slot Effect) (f : Follow) :
    ∀ s', (State.commitFollow s e f) = .ok s' → s'.pending = s.pending ∧ s'.bond.lifecycle = s.bond.lifecycle ∧ s'.time.ns = s.time.ns := by
  intro s'; first | rw [State.commitFollow] | rw [State.commitFollow.eq_def]
  try dsimp only
  repeat' (first | (simp only [↓State.countRefused_keeps, ↓State.enterBerth_keeps, ↓State.event_keeps, ↓State.followManifest_keeps, ↓State.raise_keeps, and_self, ↓ite_fst, ↓ite_keeps, ↓State.modBond_keeps, ↓State.modTime_keeps, ↓foldl_pending, ↓foldl_life, ↓foldl_ns, ↓foldl_fst_pending, ↓foldl_fst_life, ↓foldl_fst_ns, ite_self, implies_true]; done) | with_reducible exact ⟨rfl, rfl, rfl⟩ | (grind only [State.countRefused_keeps, State.enterBerth_keeps, State.event_keeps, State.followManifest_keeps, State.raise_keeps, ite_keeps, State.modBond_keeps, State.modTime_keeps]; done) | (have hk := State.followManifest_eq _ _ _ _ _ (by assumption); simp only [↓hk, ↓State.countRefused_keeps, ↓State.enterBerth_keeps, ↓State.event_keeps, ↓State.followManifest_keeps, ↓State.raise_keeps, and_self, ↓ite_fst, ↓ite_keeps, ↓State.modBond_keeps, ↓State.modTime_keeps, ↓foldl_pending, ↓foldl_life, ↓foldl_ns, ↓foldl_fst_pending, ↓foldl_fst_life, ↓foldl_fst_ns, ite_self, implies_true]; done) | with_reducible exact out_error | (with_reducible refine out_ok (P := fun s' => s'.pending = s.pending ∧ s'.bond.lifecycle = s.bond.lifecycle ∧ s'.time.ns = s.time.ns) ?_) | with_reducible refine out_ite ?_ ?_ | (have hk := State.followManifest_eq _ _ _ _ _ (by assumption); simp only [↓hk, ↓State.countRefused_keeps, ↓State.enterBerth_keeps, ↓State.event_keeps, ↓State.followManifest_keeps, ↓State.raise_keeps, and_self, ↓ite_fst, ↓ite_keeps, ↓State.modBond_keeps, ↓State.modTime_keeps, ↓foldl_pending, ↓foldl_life, ↓foldl_ns, ↓foldl_fst_pending, ↓foldl_fst_life, ↓foldl_fst_ns, ite_self, implies_true]) | refine ⟨((foldl_pending _ _ _ ?_).trans ?_), ((foldl_life _ _ _ ?_).trans ?_), ((foldl_ns _ _ _ ?_).trans ?_)⟩ | refine ⟨((foldl_fst_pending _ _ _ ?_).trans ?_), ((foldl_fst_life _ _ _ ?_).trans ?_), ((foldl_fst_ns _ _ _ ?_).trans ?_)⟩ | refine ((foldl_pending _ _ _ ?_).trans ?_) | refine ((foldl_life _ _ _ ?_).trans ?_) | refine ((foldl_ns _ _ _ ?_).trans ?_) | refine ((foldl_fst_pending _ _ _ ?_).trans ?_) | refine ((foldl_fst_life _ _ _ ?_).trans ?_) | refine ((foldl_fst_ns _ _ _ ?_).trans ?_) | split | intro _ | simp only [↓State.countRefused_keeps, ↓State.enterBerth_keeps, ↓State.event_keeps, ↓State.followManifest_keeps, ↓State.raise_keeps, and_self, ↓ite_fst, ↓ite_keeps, ↓State.modBond_keeps, ↓State.modTime_keeps, ↓foldl_pending, ↓foldl_life, ↓foldl_ns, ↓foldl_fst_pending, ↓foldl_fst_life, ↓foldl_fst_ns, ite_self, implies_true])

theorem State.commitOne_keeps (s : State) (e : Slot Effect) (x : Effect) :
    ∀ s', (State.commitOne s e x) = .ok s' → s'.pending = s.pending ∧ s'.bond.lifecycle = s.bond.lifecycle ∧ s'.time.ns = s.time.ns := by
  intro s'; first | rw [State.commitOne] | rw [State.commitOne.eq_def]
  try dsimp only
  repeat' (first | (simp only [↓State.commitDown_keeps, ↓State.commitRow_keeps, ↓State.count_keeps, ↓State.logPut_keeps, ↓State.modCustoms_keeps, ↓State.pairJournal_keeps, ↓State.raise_keeps, ↓State.ringPut_keeps, ↓State.storeAppend_keeps, and_self, ↓ite_fst, ↓ite_keeps, ↓State.modBond_keeps, ↓State.modTime_keeps, ↓foldl_pending, ↓foldl_life, ↓foldl_ns, ↓foldl_fst_pending, ↓foldl_fst_life, ↓foldl_fst_ns, ite_self, implies_true]; done) | with_reducible exact ⟨rfl, rfl, rfl⟩ | (grind only [State.commitDown_keeps, State.commitRow_keeps, State.count_keeps, State.logPut_keeps, State.modCustoms_keeps, State.pairJournal_keeps, State.raise_keeps, State.ringPut_keeps, State.storeAppend_keeps, ite_keeps, State.modBond_keeps, State.modTime_keeps]; done) | (have hk := State.commitFollow_keeps _ _ _ _ (by assumption); simp only [↓hk, ↓State.commitDown_keeps, ↓State.commitRow_keeps, ↓State.count_keeps, ↓State.logPut_keeps, ↓State.modCustoms_keeps, ↓State.pairJournal_keeps, ↓State.raise_keeps, ↓State.ringPut_keeps, ↓State.storeAppend_keeps, and_self, ↓ite_fst, ↓ite_keeps, ↓State.modBond_keeps, ↓State.modTime_keeps, ↓foldl_pending, ↓foldl_life, ↓foldl_ns, ↓foldl_fst_pending, ↓foldl_fst_life, ↓foldl_fst_ns, ite_self, implies_true]; done) | with_reducible exact out_error | (with_reducible refine out_ok (P := fun s' => s'.pending = s.pending ∧ s'.bond.lifecycle = s.bond.lifecycle ∧ s'.time.ns = s.time.ns) ?_) | with_reducible refine out_ite ?_ ?_ | (have hk := State.commitFollow_keeps _ _ _ _ (by assumption); simp only [↓hk, ↓State.commitDown_keeps, ↓State.commitRow_keeps, ↓State.count_keeps, ↓State.logPut_keeps, ↓State.modCustoms_keeps, ↓State.pairJournal_keeps, ↓State.raise_keeps, ↓State.ringPut_keeps, ↓State.storeAppend_keeps, and_self, ↓ite_fst, ↓ite_keeps, ↓State.modBond_keeps, ↓State.modTime_keeps, ↓foldl_pending, ↓foldl_life, ↓foldl_ns, ↓foldl_fst_pending, ↓foldl_fst_life, ↓foldl_fst_ns, ite_self, implies_true]) | refine ⟨((foldl_pending _ _ _ ?_).trans ?_), ((foldl_life _ _ _ ?_).trans ?_), ((foldl_ns _ _ _ ?_).trans ?_)⟩ | refine ⟨((foldl_fst_pending _ _ _ ?_).trans ?_), ((foldl_fst_life _ _ _ ?_).trans ?_), ((foldl_fst_ns _ _ _ ?_).trans ?_)⟩ | refine ((foldl_pending _ _ _ ?_).trans ?_) | refine ((foldl_life _ _ _ ?_).trans ?_) | refine ((foldl_ns _ _ _ ?_).trans ?_) | refine ((foldl_fst_pending _ _ _ ?_).trans ?_) | refine ((foldl_fst_life _ _ _ ?_).trans ?_) | refine ((foldl_fst_ns _ _ _ ?_).trans ?_) | split | intro _ | simp only [↓State.commitDown_keeps, ↓State.commitRow_keeps, ↓State.count_keeps, ↓State.logPut_keeps, ↓State.modCustoms_keeps, ↓State.pairJournal_keeps, ↓State.raise_keeps, ↓State.ringPut_keeps, ↓State.storeAppend_keeps, and_self, ↓ite_fst, ↓ite_keeps, ↓State.modBond_keeps, ↓State.modTime_keeps, ↓foldl_pending, ↓foldl_life, ↓foldl_ns, ↓foldl_fst_pending, ↓foldl_fst_life, ↓foldl_fst_ns, ite_self, implies_true])

theorem State.commitAll_keeps (s : State) (e : Slot Effect) (l : List Effect) :
    ∀ t, State.commitAll s e l = .ok t → t.pending = s.pending ∧ t.bond.lifecycle = s.bond.lifecycle ∧ t.time.ns = s.time.ns := by
  induction l generalizing s with
  | nil => intro t h; rw [State.commitAll] at h; cases h; exact ⟨rfl, rfl, rfl⟩
  | cons x rest ih =>
    intro t h; rw [State.commitAll] at h
    split at h
    · rename_i s' hs
      have h1 := ih s' t h
      have h2 := State.commitOne_keeps s e x s' hs
      exact ⟨h1.1.trans h2.1, h1.2.1.trans h2.2.1, h1.2.2.trans h2.2.2⟩
    · cases h


theorem State.noteWait_keeps (s : State) (n : Nat) (e : Slot Effect) (w : Wait) :
    (State.noteWait s n e w).pending = s.pending ∧ (State.noteWait s n e w).bond.lifecycle = s.bond.lifecycle ∧ (State.noteWait s n e w).time.ns = s.time.ns := by
  rw [State.noteWait.eq_def]; repeat' (first | (solve | simp only [↓State.backPressure_keeps, ↓State.count_keeps, ↓State.modSlot_keeps, and_self, ↓ite_keeps, ite_self, ↓State.modBond_keeps, ↓State.modTime_keeps]) | with_reducible exact ⟨rfl, rfl, rfl⟩ | split)

theorem State.endRelease_keeps (s : State) (n : Nat) (e : Slot Effect) :
    (State.endRelease s n e).pending = s.pending ∧ (State.endRelease s n e).bond.lifecycle = s.bond.lifecycle ∧ (State.endRelease s n e).time.ns = s.time.ns := by
  rw [State.endRelease]; simp only [↓State.balReleased_keeps, ↓State.freeSlot_keeps, ↓State.modHm_keeps, ↓State.sweep_keeps, and_self, ↓ite_keeps, ite_self, ↓State.modBond_keeps, ↓State.modTime_keeps]

theorem State.reexecute_keeps (s : State) (n : Nat) (e : Slot Effect) :
    (State.reexecute s n e).pending = s.pending ∧ (State.reexecute s n e).bond.lifecycle = s.bond.lifecycle ∧ (State.reexecute s n e).time.ns = s.time.ns := by
  first | rw [State.reexecute] | rw [State.reexecute.eq_def]
  try dsimp only
  repeat' (first | (simp only [↓State.count_keeps, ↓State.freeSlot_keeps, ↓State.modHm_keeps, ↓State.noteStarved_keeps, ↓State.poisonHead_keeps, and_self, ↓ite_fst, ↓ite_keeps, ↓State.modBond_keeps, ↓State.modTime_keeps, ↓foldl_pending, ↓foldl_life, ↓foldl_ns, ↓foldl_fst_pending, ↓foldl_fst_life, ↓foldl_fst_ns, ite_self, implies_true]; done) | with_reducible exact ⟨rfl, rfl, rfl⟩ | (grind only [State.count_keeps, State.freeSlot_keeps, State.modHm_keeps, State.noteStarved_keeps, State.poisonHead_keeps, ite_keeps, State.modBond_keeps, State.modTime_keeps]; done) | refine ⟨((foldl_pending _ _ _ ?_).trans ?_), ((foldl_life _ _ _ ?_).trans ?_), ((foldl_ns _ _ _ ?_).trans ?_)⟩ | refine ⟨((foldl_fst_pending _ _ _ ?_).trans ?_), ((foldl_fst_life _ _ _ ?_).trans ?_), ((foldl_fst_ns _ _ _ ?_).trans ?_)⟩ | refine ((foldl_pending _ _ _ ?_).trans ?_) | refine ((foldl_life _ _ _ ?_).trans ?_) | refine ((foldl_ns _ _ _ ?_).trans ?_) | refine ((foldl_fst_pending _ _ _ ?_).trans ?_) | refine ((foldl_fst_life _ _ _ ?_).trans ?_) | refine ((foldl_fst_ns _ _ _ ?_).trans ?_) | split | intro _ | simp only [↓State.count_keeps, ↓State.freeSlot_keeps, ↓State.modHm_keeps, ↓State.noteStarved_keeps, ↓State.poisonHead_keeps, and_self, ↓ite_fst, ↓ite_keeps, ↓State.modBond_keeps, ↓State.modTime_keeps, ↓foldl_pending, ↓foldl_life, ↓foldl_ns, ↓foldl_fst_pending, ↓foldl_fst_life, ↓foldl_fst_ns, ite_self, implies_true])

theorem execTallyRelease_keeps (slot : Nat) (s : State) :
    ∀ s', (execTallyRelease slot s) = .next s' → s'.pending = s.pending ∧ s'.bond.lifecycle = s.bond.lifecycle ∧ s'.time.ns = s.time.ns := by
  intro s'; rw [execTallyRelease]
  cases s.slot? slot with
  | none => intro h; cases h; exact ⟨rfl, rfl, rfl⟩
  | some e =>
    dsimp only
    repeat' (first | (refine out_ite ?_ ?_) | (refine out_next (P := fun t => t.pending = s.pending ∧ t.bond.lifecycle = s.bond.lifecycle ∧ t.time.ns = s.time.ns) ?_))
    all_goals (first | exact ⟨rfl, rfl, rfl⟩ | (simp only [↓State.commitAll_keeps, ↓State.endRelease_keeps, ↓State.journalSlots_keeps, ↓State.noteWait_keeps, ↓State.reexecute_keeps, and_self, ↓ite_fst, ↓ite_keeps, ↓State.modBond_keeps, ↓State.modTime_keeps, ↓foldl_pending, ↓foldl_life, ↓foldl_ns, ↓foldl_fst_pending, ↓foldl_fst_life, ↓foldl_fst_ns, ite_self, implies_true]; done) | skip)
    cases hc : s.commitAll e (inRowOrder e.stage) with
    | error w => intro h; cases h; exact State.noteWait_keeps ..
    | ok t =>
      have h2 := State.commitAll_keeps _ _ _ _ hc
      intro h; cases h
      simp only [↓State.endRelease_keeps, ↓State.journalSlots_keeps, h2, and_self]

end Sys2Proof.Machine
end

