-- ==== Sys2Proof/Laws/KeepTimeStep.lean ====
section
/-!
SUPPORT. What the operations of Machine/TimeStep.lean leave alone: the queue, the life cycle and the timebase.
-/
set_option linter.unusedSimpArgs false

namespace Sys2Proof.Machine

theorem State.steer_keeps (s : State) :
    (State.steer s).pending = s.pending ∧ (State.steer s).bond.lifecycle = s.bond.lifecycle ∧ (State.steer s).time.ns = s.time.ns := by
  rw [State.steer]; simp only [↓State.fresh_keeps, and_self, ↓ite_keeps, ite_self, ↓State.modBond_keeps, ↓State.modTime_keeps]

theorem execTimeSecond_keeps (s : State) :
    ∀ s', (execTimeSecond s) = .next s' → s'.pending = s.pending ∧ s'.bond.lifecycle = s.bond.lifecycle := by
  intro s'; first | rw [execTimeSecond] | rw [execTimeSecond.eq_def]
  try dsimp only
  repeat' (first | (simp only [↓State.advanceTo_keeps, ↓State.modLog_keeps, ↓State.modRadio_keeps, ↓State.publish_keeps, ↓State.settle_keeps, ↓State.showRate_keeps, ↓State.steer_keeps, and_self, ↓ite_fst, ↓ite_keeps, ↓State.modBond_keeps, ↓State.modTime_keeps, ↓foldl_pending, ↓foldl_life, ↓foldl_ns, ↓foldl_fst_pending, ↓foldl_fst_life, ↓foldl_fst_ns, ite_self, implies_true]; done) | with_reducible exact ⟨rfl, rfl⟩ | (grind only [State.advanceTo_keeps, State.modLog_keeps, State.modRadio_keeps, State.publish_keeps, State.settle_keeps, State.showRate_keeps, State.steer_keeps, ite_keeps, State.modBond_keeps, State.modTime_keeps]; done) | (with_reducible refine out_next (P := fun s' => s'.pending = s.pending ∧ s'.bond.lifecycle = s.bond.lifecycle) ?_) | with_reducible refine out_ite ?_ ?_ | refine ⟨((foldl_pending _ _ _ ?_).trans ?_), ((foldl_life _ _ _ ?_).trans ?_)⟩ | refine ((foldl_pending _ _ _ ?_).trans ?_) | refine ((foldl_life _ _ _ ?_).trans ?_) | refine ((foldl_ns _ _ _ ?_).trans ?_) | refine ((foldl_fst_pending _ _ _ ?_).trans ?_) | refine ((foldl_fst_life _ _ _ ?_).trans ?_) | refine ((foldl_fst_ns _ _ _ ?_).trans ?_) | split | intro _ | simp only [↓State.advanceTo_keeps, ↓State.modLog_keeps, ↓State.modRadio_keeps, ↓State.publish_keeps, ↓State.settle_keeps, ↓State.showRate_keeps, ↓State.steer_keeps, and_self, ↓ite_fst, ↓ite_keeps, ↓State.modBond_keeps, ↓State.modTime_keeps, ↓foldl_pending, ↓foldl_life, ↓foldl_ns, ↓foldl_fst_pending, ↓foldl_fst_life, ↓foldl_fst_ns, ite_self, implies_true])

theorem State.shiftInstants_keeps (s : State) (e : Int) :
    (State.shiftInstants s e).pending = s.pending ∧ (State.shiftInstants s e).bond.lifecycle = s.bond.lifecycle ∧ (State.shiftInstants s e).time.ns = s.time.ns := by
  first | rw [State.shiftInstants] | rw [State.shiftInstants.eq_def]
  try dsimp only
  repeat' (first | (simp only [↓State.modEth_keeps, ↓State.modHm_keeps, ↓State.modHost_keeps, ↓State.modLog_keeps, ↓State.modPanel_keeps, ↓State.modPilot_keeps, ↓State.modPlan_keeps, ↓State.modPwr_keeps, ↓State.modRadio_keeps, ↓State.modStore_keeps, ↓State.modUpd_keeps, ↓State.modWharf_keeps, and_self, ↓ite_fst, ↓ite_keeps, ↓State.modBond_keeps, ↓State.modTime_keeps, ↓foldl_pending, ↓foldl_life, ↓foldl_ns, ↓foldl_fst_pending, ↓foldl_fst_life, ↓foldl_fst_ns, ite_self, implies_true]; done) | with_reducible exact ⟨rfl, rfl, rfl⟩ | (grind only [State.modEth_keeps, State.modHm_keeps, State.modHost_keeps, State.modLog_keeps, State.modPanel_keeps, State.modPilot_keeps, State.modPlan_keeps, State.modPwr_keeps, State.modRadio_keeps, State.modStore_keeps, State.modUpd_keeps, State.modWharf_keeps, ite_keeps, State.modBond_keeps, State.modTime_keeps]; done) | refine ⟨((foldl_pending _ _ _ ?_).trans ?_), ((foldl_life _ _ _ ?_).trans ?_), ((foldl_ns _ _ _ ?_).trans ?_)⟩ | refine ⟨((foldl_fst_pending _ _ _ ?_).trans ?_), ((foldl_fst_life _ _ _ ?_).trans ?_), ((foldl_fst_ns _ _ _ ?_).trans ?_)⟩ | refine ((foldl_pending _ _ _ ?_).trans ?_) | refine ((foldl_life _ _ _ ?_).trans ?_) | refine ((foldl_ns _ _ _ ?_).trans ?_) | refine ((foldl_fst_pending _ _ _ ?_).trans ?_) | refine ((foldl_fst_life _ _ _ ?_).trans ?_) | refine ((foldl_fst_ns _ _ _ ?_).trans ?_) | split | intro _ | simp only [↓State.modEth_keeps, ↓State.modHm_keeps, ↓State.modHost_keeps, ↓State.modLog_keeps, ↓State.modPanel_keeps, ↓State.modPilot_keeps, ↓State.modPlan_keeps, ↓State.modPwr_keeps, ↓State.modRadio_keeps, ↓State.modStore_keeps, ↓State.modUpd_keeps, ↓State.modWharf_keeps, and_self, ↓ite_fst, ↓ite_keeps, ↓State.modBond_keeps, ↓State.modTime_keeps, ↓foldl_pending, ↓foldl_life, ↓foldl_ns, ↓foldl_fst_pending, ↓foldl_fst_life, ↓foldl_fst_ns, ite_self, implies_true])

theorem State.skipTriggers_keeps (s : State) (old : Nat) :
    (State.skipTriggers s old).pending = s.pending ∧ (State.skipTriggers s old).bond.lifecycle = s.bond.lifecycle ∧ (State.skipTriggers s old).time.ns = s.time.ns := by
  rw [State.skipTriggers]
  refine ⟨foldl_pending _ _ _ (fun s i => ?_), foldl_life _ _ _ (fun s i => ?_), foldl_ns _ _ _ (fun s i => ?_)⟩ <;>
    cases s.trig? i <;> first | rfl | simp only [↓State.skipInstants_keeps]

theorem State.timeStep_keeps (s : State) (sec : Nat) (e : Int) :
    (State.timeStep s sec e).pending = s.pending ∧ (State.timeStep s sec e).bond.lifecycle = s.bond.lifecycle := by
  have h1 := State.advanceTo_keeps s (1000000000 * sec)
  rw [State.timeStep]
  generalize s.advanceTo (1000000000 * sec) = t at h1 ⊢
  have h2 : (((t.shiftInstants (e / 2 ^ 16)).modTime (fun t => t.stepped sec e)).customsStep e).pending = s.pending ∧ (((t.shiftInstants (e / 2 ^ 16)).modTime (fun t => t.stepped sec e)).customsStep e).bond.lifecycle = s.bond.lifecycle :=
    by
      have a := State.shiftInstants_keeps t (e / 2 ^ 16)
      generalize t.shiftInstants (e / 2 ^ 16) = w at a ⊢
      have b : (w.modTime (fun t => t.stepped sec e)).pending = s.pending ∧
          (w.modTime (fun t => t.stepped sec e)).bond.lifecycle = s.bond.lifecycle := ⟨a.1.trans h1.1, a.2.1.trans h1.2⟩
      generalize w.modTime (fun t => t.stepped sec e) = w at b ⊢
      exact ⟨(State.customsStep_keeps ..).1.trans b.1, (State.customsStep_keeps ..).2.1.trans b.2⟩
  generalize ((t.shiftInstants (e / 2 ^ 16)).modTime (fun t => t.stepped sec e)).customsStep e = u at h2 ⊢
  have h3 : (if 0 < e then u.skipTriggers t.time.ns else u).pending = s.pending ∧ (if 0 < e then u.skipTriggers t.time.ns else u).bond.lifecycle = s.bond.lifecycle := by
    split
    · exact ⟨(State.skipTriggers_keeps ..).1.trans h2.1, (State.skipTriggers_keeps ..).2.1.trans h2.2⟩
    · exact h2
  generalize (if 0 < e then u.skipTriggers t.time.ns else u) = v at h3 ⊢
  split <;> simp only [↓State.publish_keeps, ↓State.showRate_keeps, ↓State.correct_keeps, ↓State.event_keeps,
    ↓State.settle_keeps, ↓State.raise_keeps, ↓State.count_keeps] <;> exact h3

theorem execTimeStep_keeps (s : State) :
    ∀ s', (execTimeStep s) = .next s' → s'.pending = s.pending ∧ s'.bond.lifecycle = s.bond.lifecycle := by
  intro s'; first | rw [execTimeStep] | rw [execTimeStep.eq_def]
  try dsimp only
  repeat' (first | (simp only [↓State.timeStep_keeps, and_self, ↓ite_fst, ↓ite_keeps, ↓State.modBond_keeps, ↓State.modTime_keeps, ↓foldl_pending, ↓foldl_life, ↓foldl_ns, ↓foldl_fst_pending, ↓foldl_fst_life, ↓foldl_fst_ns, ite_self, implies_true]; done) | with_reducible exact ⟨rfl, rfl⟩ | (grind only [State.timeStep_keeps, ite_keeps, State.modBond_keeps, State.modTime_keeps]; done) | (with_reducible refine out_next (P := fun s' => s'.pending = s.pending ∧ s'.bond.lifecycle = s.bond.lifecycle) ?_) | with_reducible refine out_ite ?_ ?_ | refine ⟨((foldl_pending _ _ _ ?_).trans ?_), ((foldl_life _ _ _ ?_).trans ?_)⟩ | refine ((foldl_pending _ _ _ ?_).trans ?_) | refine ((foldl_life _ _ _ ?_).trans ?_) | refine ((foldl_ns _ _ _ ?_).trans ?_) | refine ((foldl_fst_pending _ _ _ ?_).trans ?_) | refine ((foldl_fst_life _ _ _ ?_).trans ?_) | refine ((foldl_fst_ns _ _ _ ?_).trans ?_) | split | intro _ | simp only [↓State.timeStep_keeps, and_self, ↓ite_fst, ↓ite_keeps, ↓State.modBond_keeps, ↓State.modTime_keeps, ↓foldl_pending, ↓foldl_life, ↓foldl_ns, ↓foldl_fst_pending, ↓foldl_fst_life, ↓foldl_fst_ns, ite_self, implies_true])

end Sys2Proof.Machine
end

