-- ==== Sys2Proof/Laws/KeepVee.lean ====
section
/-!
SUPPORT. What the operations of Machine/Vee.lean leave alone: the queue, the life cycle and the timebase.
-/
set_option linter.unusedSimpArgs false

namespace Sys2Proof.Machine

theorem execVee_keeps (slot : Nat) (s : State) :
    ∀ s', (execVee slot s) = .next s' → s'.pending = s.pending ∧ s'.bond.lifecycle = s.bond.lifecycle ∧ s'.time.ns = s.time.ns := by
  rw [execVee.eq_def]; try dsimp only
  repeat' (first | with_reducible exact out_keeps ⟨rfl, rfl, rfl⟩ | with_reducible refine out_keeps ?_ | with_reducible refine out_both ?_ ?_ | (solve | simp only [↓State.complete_keeps, ↓State.withRec_keeps, and_self, ↓ite_keeps, ite_self, ↓State.modBond_keeps, ↓State.modTime_keeps]) | with_reducible exact ⟨rfl, rfl, rfl⟩ | refine State.withRec_keeps _ _ _ _ ?_ | refine State.onKind_keeps _ _ _ _ ?_ _ | split | intro _)

end Sys2Proof.Machine
end

