-- ==== Sys2Proof/Laws/Slots.lean ====
section
/-!
SUPPORT. A slot whose served copy agrees with its tag is unchanged by its use, and a page of MAP carries its fingerprint.
-/
namespace Sys2Proof.Machine

theorem fit_length (n : Nat) (b : Bytes) : (fit n b).length = n := by simp [fit, zeros]; omega

theorem toLE_length (n v : Nat) : (toLE n v).length = n := by
  induction n generalizing v with
  | zero => rfl
  | succ n ih => simp [toLE, ih]

/-- Bytes that already have their length are as they were. -/
theorem fit_of_length (n : Nat) (b : Bytes) (h : b.length = n) : fit n b = b := by
  rw [fit, List.take_of_length_le (by omega)]; simp [zeros, h]

theorem slice_mid (p f r : Bytes) (n m : Nat) (h1 : p.length = n) (h2 : f.length = m) : slice (p ++ f ++ r) n m = f := by
  rw [slice, List.append_assoc, List.drop_left' h1, List.take_left' h2]

/-- Bytes 24 to 39 of a page of MAP are the fingerprint it was made with (Table 12-4). -/
theorem mapPageOf_fingerprint (f k q c : Nat) (key : Bytes) (n : Nat) (b : Bytes) :
    slice (mapPageOf f k q c (fingerprint key) n b) 24 16 = fingerprint key := by
  have := slice_mid (toLE 2 f ++ toLE 2 k ++ toLE 8 q ++ toLE 8 c ++ toLE 2 n ++ zeros 2) (fingerprint key)
  rw [mapPageOf, fit_of_length 16 (fingerprint key) (fit_length 16 _)]
  simp only [List.append_assoc] at this ⊢
  exact this _ 24 16 (by simp [toLE_length, zeros]) (fit_length 16 _)

/-- The use of a slot whose served copy agrees with its tag changes nothing (R311). -/
theorem useSlot_ok (s : State) (n : Nat) (h : ∀ c, (s.keySlot n).served.tagOk n c = true ∨ (s.keySlot n).copy ≠ c) :
    s.useSlot n = s := by
  have all : ∀ l : List Nat, l.foldl (fun s c =>
      let k := s.keySlot n
      if k.valid && k.copy = c && !k.served.tagOk n c then s.tagFail n c else s) s = s := by
    intro l
    induction l with
    | nil => rfl
    | cons c l ih =>
      have one : (let k := s.keySlot n
          if (k.valid && decide (k.copy = c) && !k.served.tagOk n c) = true then s.tagFail n c else s) = s := by
        rcases h c with h | h <;> simp [h]
      rw [List.foldl_cons, one]; exact ih
  exact all _

end Sys2Proof.Machine
end

