-- ==== Sys2Proof/Laws/Work.lean ====
section
/-!
SUPPORT. What the work of a tally slot may do before its release: running, loading records and keys, completing.
-/
namespace Sys2Proof.Machine

theorem Map.get?_upd {α : Type} (m : Map α) (n : Nat) (f : α → α) (k : Nat) :
    Map.get? (Map.upd m n f) k = if k = n then (Map.get? m k).map f else Map.get? m k := by
  induction m with
  | nil => simp [Map.upd, Map.get?]
  | cons e m ih =>
    obtain ⟨a, v⟩ := e
    simp only [Map.upd, List.map_cons] at ih ⊢
    by_cases ha : a = n <;> by_cases hk : a = k <;> by_cases hn : k = n <;>
      simp_all [Map.get?] <;> omega

/-- A slot that executes a manifest is what its row looks for. -/
theorem State.running_of_runs {s : State} {k kind : Nat} {m : Manifest} (h : s.runs k kind m) :
    s.running k kind = some m := by
  obtain ⟨e, he, rfl, hk, hs, ht, -⟩ := h
  simp [State.running, he, hk, hs, ht]

theorem State.onKind_runs {s : State} {k kind : Nat} {m : Manifest} (h : s.runs k kind m) (f : Manifest → State) :
    s.onKind k kind f = .next (f m) := by
  simp [State.onKind, State.running_of_runs h]

/-- Work that has completed nothing yet. -/
def State.workSame (s t : State) : Prop :=
  t = { s with
    regs := t.regs, ep := { s.ep with cache := t.ep.cache },
    bond := { s.bond with cache := t.bond.cache, drawn := t.bond.drawn }, free := t.free } ∧ s.regsBut t workRegs

theorem State.workSame_refl (s : State) : s.workSame s := ⟨rfl, fun _ _ => rfl⟩

theorem State.workSame_trans {s t u : State} (h : s.workSame t) (g : t.workSame u) : s.workSame u := by
  obtain ⟨ht, hr⟩ := h
  obtain ⟨hu, gr⟩ := g
  refine ⟨?_, fun a ha => (gr a ha).trans (hr a ha)⟩
  rw [hu, ht]

theorem State.count_workSame (s : State) (r : Reg) (n : Nat) (h : Reg.addr r 0 0 ∈ workRegs) :
    s.workSame (s.count r 0 0 n) := by
  refine ⟨by simp [State.count, State.set], fun a ha => ?_⟩
  exact State.get?_set_ne _ _ _ _ _ _ (fun e => ha (e ▸ h))

theorem State.loadRec_workSame (s : State) (epx : Nat) : s.workSame (s.loadRec epx) := by
  have h : s.workSame (s.count (if s.ep.cache.contains epx then .EP_CACHE_HIT_CNT else .EP_CACHE_MISS_CNT) 0 0 1) := by
    split <;> exact State.count_workSame _ _ _ (by simp [workRegs])
  refine State.workSame_trans h ⟨rfl, fun _ _ => rfl⟩

theorem State.fresh_workSame (s : State) : s.workSame s.fresh.2 := ⟨rfl, fun _ _ => rfl⟩

theorem State.touchKey_workSame (s : State) (e : KeyEntry) : s.workSame (s.touchKey e) := ⟨rfl, fun _ _ => rfl⟩

theorem State.cacheKey_workSame (s : State) (p : KeyPath) (k : Bytes) : s.workSame (s.cacheKey p k) := by
  simp only [State.cacheKey]
  split <;> first | exact ⟨rfl, fun _ _ => rfl⟩ | (split <;> exact ⟨rfl, fun _ _ => rfl⟩)

/-- The use of a slot whose tags hold changes nothing (R311). -/
theorem State.useSlot_good (s : State) (n : Nat) (h : s.tagGood n) : s.useSlot n = s := by
  by_cases hv : (s.keySlot n).valid = true
  · refine useSlot_ok s n fun c => ?_
    by_cases hc : (s.keySlot n).copy = c
    · exact .inl (hc ▸ h hv)
    · exact .inr hc
  · simp [State.useSlot, List.range, List.range.loop, hv]

theorem State.keyAt_workSame (s : State) (p : KeyPath) (n : Nat) (hg : s.rootServes) : s.workSame (s.keyAt p n).1 := by
  induction n with
  | zero =>
    rw [State.keyAt]
    split
    · exact State.workSame_refl _
    · rename_i v hv
      have hu : s.useSlot (leAt v 0 1) = s := s.useSlot_good _ (by simpa [State.rootServes, hv] using hg)
      dsimp only
      rw [hu]; exact State.workSame_refl _
  | succ n ih =>
    rw [State.keyAt]
    split
    · exact State.touchKey_workSame _ _
    · split <;> rename_i h <;> rw [h] at ih
      · exact ih
      · exact State.workSame_trans (State.workSame_trans ih (State.count_workSame _ _ _ (by simp [workRegs])))
          (State.cacheKey_workSame _ _ _)

theorem State.epKey_workSame (s : State) (epx : Nat) (r : EpRec) (purpose epoch : Nat) (hg : s.rootServes) :
    s.workSame (s.epKey epx r purpose epoch).1 := by
  rw [State.epKey, State.requestKey]
  refine State.workSame_trans ?_ (State.keyAt_workSame _ _ _ hg)
  split <;> exact State.count_workSame _ _ _ (by simp [workRegs])

theorem State.downlink_workSame (s : State) (epx type : Nat) (l r : EpRec) (recs : List RRec) (hg : s.rootServes) :
    s.workSame (s.downlink epx type l r recs).1 := by
  rw [State.downlink]
  split
  · exact State.workSame_refl _
  · dsimp only
    have := s.epKey_workSame epx r (if type = 8 then 2 else 1) r.keyEpoch hg
    split <;> rename_i h <;> rw [h] at this <;> exact this

theorem workRegs_dock (d : Fin 16) : Reg.addr .TUG_DOCK_CFG d 0 ∉ workRegs := by
  revert d; decide

/-- The work so far takes no stage page. -/
theorem State.stageFits_workSame {s u : State} (hu : s.workSame u) (d : Fin 16) (fx : List Effect) :
    u.stageFits d fx = s.stageFits d fx := by
  obtain ⟨hu, hr⟩ := hu
  have hg : u.get .TUG_DOCK_CFG d 0 = s.get .TUG_DOCK_CFG d 0 := by
    simp only [State.get, hr _ (workRegs_dock d)]
  have hm : u.hm = s.hm := by rw [hu]
  have hp : u.plan = s.plan := by rw [hu]
  simp only [State.stageFits, State.dockPagesFree, State.ddrPagesFree, State.stageRoom, State.stageUsed, State.allManifests,
    State.itemLE, State.item?, State.items, State.fld, hg, hm, hp]
  rfl

/-- A tug reports completion of a slot that is not cancelled. -/
theorem State.complete_works {s u : State} {k kind st : Nat} {m : Manifest} {loads : List RowKey} {fx : List Effect}
    (h : s.runs k kind m) (hu : s.workSame u) : Works (.next (u.complete k st loads fx)) s k st fx := by
  obtain ⟨e, he, rfl, hk, hs, ht, hc⟩ := h
  have hf := State.stageFits_workSame hu e.dock fx
  obtain ⟨hu, hr⟩ := hu
  have hm : u.hm = s.hm := by rw [hu]
  have he' : u.slot? k = some e := by rw [State.slot?, hm]; exact he
  refine ⟨_, rfl, ?_⟩
  rw [State.complete]
  simp only [he', hc, hf, State.pagesFor, he, Bool.false_eq_true, if_false]
  by_cases hx : s.stageFits e.dock fx = true
  · simp only [hx, Bool.not_true, Bool.false_eq_true, if_false, if_true]
    refine ⟨⟨{ e with
        tug := none, m := { e.m with status := st }, loads := e.loads ++ loads, stage := fx,
        dockPages := min (stagePages fx) (u.dockPagesFree e.dock),
        ddrPages := stagePages fx - min (stagePages fx) (u.dockPagesFree e.dock) }, ?_, rfl, rfl, rfl⟩, ?_, ?_, ?_⟩
    · simp only [State.slot?] at he ⊢
      simp [State.modSlot, State.modHm, Map.get?_upd, hm, he, hc]
    · obtain ⟨a, b, c, d, f, rfl⟩ : ∃ a b c d f, u = { s with
          regs := a, ep := { s.ep with cache := b }, bond := { s.bond with cache := c, drawn := d }, free := f } :=
        ⟨_, _, _, _, _, hu⟩
      rfl
    · intro j hj
      simp [State.slot?, State.modSlot, State.modHm, Map.get?_upd, hm, hj]
    · exact hr
  · simp only [hx, Bool.not_false, if_true, Bool.false_eq_true, if_false]
    refine ⟨?_, ?_, fun j _ => ?_, hr⟩
    · rw [State.slot?, hm]; exact he
    · obtain ⟨a, b, c, d, f, rfl⟩ : ∃ a b c d f, u = { s with
          regs := a, ep := { s.ep with cache := b }, bond := { s.bond with cache := c, drawn := d }, free := f } :=
        ⟨_, _, _, _, _, hu⟩
      rfl
    · rw [State.slot?, State.slot?, hm]

/-- A work kind over a record that is not gone. -/
theorem State.withRecs_works {s : State} {k kind epx : Nat} {m : Manifest} {more : List RowKey}
    {f : State → EpRec → State × Nat × List Effect} {r : State × Nat × List Effect} (h : s.runs k kind m)
    (hg : s.recGone epx = false) (hr : f (s.loadRec epx) (s.record epx) = r) (hs : (s.loadRec epx).workSame r.1) :
    Works (.next (s.withRecs k epx more f)) s k r.2.1 r.2.2 := by
  have hl := s.loadRec_workSame epx
  have h1 : (s.loadRec epx).recGone epx = s.recGone epx := rfl
  have h2 : (s.loadRec epx).record epx = s.record epx := rfl
  rw [State.withRecs]
  simp only [h1, h2, hg, hr]
  exact State.complete_works h (State.workSame_trans hl hs)

end Sys2Proof.Machine
end

