-- ==== Sys2Proof/Tests/Base.lean ====
section
/-!
SUPPORT. Small states for the tests: reset with named changes.
-/
namespace Sys2Proof.Machine

/-- The outcome is a next state that satisfies a test. -/
def nextSat (o : Host.Outcome State Fault Refusal) (p : State → Bool) : Bool :=
  match o with
  | .next t => p t
  | _ => false

/-- A device in service: BOOT is done and the loader is in SEALED. -/
def up : State := (State.reset.modPwr (fun p => { p with inReset := false })).setFld .PLAN_STATUS 0 0 3 0 6

end Sys2Proof.Machine
end

