-- ==== Sys2Proof/WellFormed.lean ====
section
/-!
DEFINITION. Which commands are well formed: the numbers a command names exist in the device (Tables 3-1, 3-7, 16-2, 20-1).
Nothing stops on an ill-formed command: a number that names nothing has no effect.
-/
namespace Sys2Proof

/-- Frame control has 72 bits and carriers lie in 100 groups (R124, R130). -/
def wfPlcRx (rx : PlcRx) : Bool :=
  decide (rx.fc < 2 ^ 72) && rx.chan.all (fun c => decide (c.1 < 100)) && rx.snr.all (fun o => decide (o.2.1 < 100))

/-- A metrology second has three phases and at most 8,000 samples of each channel (R202). -/
def wfMetro (m : MetroSec) : Bool :=
  m.v.length == 3 && m.i.length == 3 && (m.neutral :: m.v ++ m.i).all (fun x =>
    x.length == m.neutral.length && decide (x.length ≤ 8000))

/-- The command names only what the device has. -/
def Instr.wellFormed : Instr → Bool
  | .registerWrite addr _ => decide (addr < 0x410000)
  | .intRegisterWrite addr _ => decide (addr < 0x410000)
  | .porstN _ _ _ => true
  | .sysrstN => true
  | .watchdogReset => true
  | .watchdogHalf => true
  | .watchdogKick _ => true
  | .pwrCmdReset => true
  | .refclkLoss => true
  | .brownoutRestart => true
  | .boot _ => true
  | .pcieReset => true
  | .applyDelta _ => true
  | .deltaSectionApply => true
  | .commitEpoch => true
  | .dmaFifoPacket fifo => decide (fifo < 24)
  | .admissionUpdate => true
  | .backpressureHoldEnd cls _ => decide (cls < 16)
  | .tugDispatch tug => decide (tug < 256)
  | .tugWatchdogExpire tug => decide (tug < 256)
  | .tugFailure tug cause => decide (tug < 256) && decide (1 ≤ cause) && decide (cause ≤ 4)
  | .tallyRelease slot => decide (slot < 65536)
  | .dlPop => true
  | .tugSelftestCmd _ => true
  | .tugSelftestDone _ => true
  | .functionEnable fn => decide (fn < 64)
  | .functionDisable fn => decide (fn < 64)
  | .abandonNow fn => decide (fn < 64)
  | .drainTimeout fn => decide (fn < 64)
  | .functionOff fn => decide (fn < 64)
  | .doorbellRing berth count => decide (berth < 4096) && decide (1 ≤ count) && decide (count ≤ 64)
  | .doorbellEntry berth _ _ _ => decide (berth < 4096)
  | .frameIn slot => decide (slot < 65536)
  | .openEnv slot => decide (slot < 65536)
  | .replay slot => decide (slot < 65536)
  | .vee slot => decide (slot < 65536)
  | .tariff slot => decide (slot < 65536)
  | .profile slot => decide (slot < 65536)
  | .rejoin slot => decide (slot < 65536)
  | .alarm slot => decide (slot < 65536)
  | .hostMsg slot => decide (slot < 65536)
  | .telemetry slot => decide (slot < 65536)
  | .scrubReport slot => decide (slot < 65536)
  | .logSnap slot => decide (slot < 65536)
  | .panelUpdate slot => decide (slot < 65536)
  | .cmdConnect slot => decide (slot < 65536)
  | .cmdDisconnect slot => decide (slot < 65536)
  | .cmdTariffPush slot => decide (slot < 65536)
  | .cmdRead slot => decide (slot < 65536)
  | .cmdDlms slot => decide (slot < 65536)
  | .cmdCancel slot => decide (slot < 65536)
  | .cmdProvision slot => decide (slot < 65536)
  | .cmdDeprovision slot => decide (slot < 65536)
  | .cmdIssue slot => decide (slot < 65536)
  | .linkEventSearch slot => decide (slot < 65536)
  | .linkEventReleased slot => decide (slot < 65536)
  | .linkEventResumed slot => decide (slot < 65536)
  | .linkEventPlaced slot => decide (slot < 65536)
  | .linkEventSched slot => decide (slot < 65536)
  | .linkEventWorkerLost slot => decide (slot < 65536)
  | .linkEventWorkerBack slot => decide (slot < 65536)
  | .endpointRecordRead _ => true
  | .plcCycleStart seg => decide (seg < 8)
  | .plcPollExchange seg => decide (seg < 8)
  | .plcReplyReceived seg rx => decide (seg < 8) && wfPlcRx rx
  | .plcNullUpReceived seg rx => decide (seg < 8) && wfPlcRx rx
  | .plcReplyMissing seg => decide (seg < 8)
  | .plcContendReceived seg sig fc llr => decide (seg < 8) && wfPlcRx ⟨sig, fc, llr⟩
  | .plcContentionWindow seg _ => decide (seg < 8)
  | .zeroCrossing phase _ => decide (1 ≤ phase) && decide (phase ≤ 3)
  | .plcZcLost seg => decide (seg < 8)
  | .plcLinkDown link => decide (link.seg < 8)
  | .plcLinkRetry seg _ => decide (seg < 8)
  | .plcEntryRead seg _ => decide (seg < 8)
  | .plcEntrySet seg _ => decide (seg < 8)
  | .plcSoundNow seg => decide (seg < 8)
  | .radioSuperframeStart port => decide (port < 4)
  | .radioBeaconSlot port group => decide (port < 4) && decide (group < 16)
  | .radioFrameReceived port chan _ => decide (port < 4) && decide (chan < 16)
  | .radioResponse port chan => decide (port < 4) && decide (chan < 16)
  | .radioOccurrenceMissed port chan slot _ => decide (port < 4) && decide (chan < 16) && decide (slot < 4096)
  | .radioEntryRead port _ => decide (port < 4)
  | .radioEntryPlace port _ => decide (port < 4)
  | .radioEntrySched port _ => decide (port < 4)
  | .metroSecond m => wfMetro m
  | .gridBoundary => true
  | .demandSubintervalEnd => true
  | .customsApplyReadings => true
  | .customsApplyOpen => true
  | .customsApplyClose => true
  | .customsSlewDone => true
  | .lockstepMismatch => true
  | .customsRomRestart => true
  | .siteTamperEvent _ => true
  | .billingSweep => true
  | .customsRestore => true
  | .customsRestoreDone => true
  | .metroOffsetCalibration => true
  | .mbxReadBilling => true
  | .mbxReadPeriod => true
  | .mbxReadProfile => true
  | .mbxCalUser _ => true
  | .refMinuteDue => true
  | .hourDue => true
  | .topoDue => true
  | .balanceSeries slot => decide (slot < 65536)
  | .balanceRef slot => decide (slot < 65536)
  | .balanceHour slot => decide (slot < 65536)
  | .balanceTopo slot => decide (slot < 65536)
  | .balanceSet slot => decide (slot < 65536)
  | .balQueryGroup _ => true
  | .balQueryMember _ => true
  | .balSetFlags _ => true
  | .balSetBase _ => true
  | .balUnbind _ => true
  | .craftSuperframeStart => true
  | .craftDownlink => true
  | .cStatusReceived _ _ => true
  | .cAlarmReceived _ => true
  | .laneStatus slot => decide (slot < 65536)
  | .laneOrder slot => decide (slot < 65536)
  | .laneTask slot => decide (slot < 65536)
  | .laneIssue slot => decide (slot < 65536)
  | .laneAllot slot => decide (slot < 65536)
  | .craftLost craft => decide (craft < 96)
  | .gnssEpochObservations _ => true
  | .rtkEpoch slot => decide (slot < 65536)
  | .baseSurveyDone => true
  | .stopInChange _ => true
  | .stopCmdStop => true
  | .stopCmdRelease => true
  | .stopCmdClear => true
  | .craftQuery _ => true
  | .timeSecond => true
  | .gnssSolution _ => true
  | .gnssAntFault _ => true
  | .ptpMessageReceived port _ => decide (port < 4)
  | .ptpMessageSend port _ => decide (port < 4)
  | .ptpAnnounceTimeout port => decide (port < 4)
  | .ppsInEdge _ frac edge => decide (frac < 65536) && decide (edge < 2)
  | .holdOffExpire => true
  | .timeStep => true
  | .slewComplete => true
  | .setTime => true
  | .ppsOutEdge => true
  | .triggerInstant sched => decide (sched < 48)
  | .captureEdge input _ frac edge => decide (input < 9) && decide (frac < 65536) && decide (edge < 2)
  | .captPop _ => true
  | .oscAgeingUpdate => true
  | .gnssAidingSave => true
  | .gnssGroupDelayCal => true
  | .bondChallenge => true
  | .nonceExpire => true
  | .ownerEnterService _ => true
  | .ownerRetire _ => true
  | .ownerLockSet _ => true
  | .ownerLockClear _ => true
  | .ownerLoadWrapped _ => true
  | .ownerEraseSlot _ => true
  | .ownerLogClear _ => true
  | .bondLoadPlain slot _ => decide (slot < 256)
  | .bondGenerate slot => decide (slot < 256)
  | .bondErasePlain slot => decide (slot < 256)
  | .bondAttest slot _ => decide (slot < 256)
  | .bondSign slot => decide (slot < 256)
  | .bondDeploy _ => true
  | .bondExitService _ => true
  | .bondRetireFactory _ => true
  | .storeStart => true
  | .writeCachePageTimeout part _ => decide (part < 5)
  | .pageProgramDone part _ => decide (part < 5)
  | .foldCommit part _ => decide (part < 5)
  | .staticWearLevel _ => true
  | .nandPatrol _ _ _ _ _ => true
  | .storeRead part _ _ _ => decide (part < 5)
  | .storeDiscard part _ => decide (part < 5)
  | .storeHealth => true
  | .wharfHello => true
  | .wharfHelloAck => true
  | .wharfHeartbeat => true
  | .wharfCredit => true
  | .wharfUpEnv => true
  | .wharfDownEnv => true
  | .wharfKeyReq => true
  | .wharfFwdKeyReq slot => decide (slot < 65536)
  | .wharfFwdDownEnv slot => decide (slot < 65536)
  | .wharfCkpt => true
  | .wharfJournal => true
  | .wharfJack => true
  | .wharfHeartbeatSend => true
  | .workerLost worker => decide (worker < 256)
  | .workerRoleHelloSend => true
  | .managerLost mgr => decide (mgr < 2)
  | .wharfDgramFlush => true
  | .claimFrameSend => true
  | .claimFrameReceived _ => true
  | .claimStartupDecision => true
  | .checkpointPassStart => true
  | .journalResend => true
  | .jackSend => true
  | .takeover => true
  | .takeoverResume => true
  | .pilotDrill _ => true
  | .drillTimeout => true
  | .logRecordWrite => true
  | .opSecSave => true
  | .logRead => true
  | .updStage _ => true
  | .updStageDone _ => true
  | .updActivate _ => true
  | .trialEvaluation _ => true
  | .updCommit => true
  | .updRevert => true
  | .trialTimeout => true
  | .migrationDone => true
  | .jobCreate _ _ => true
  | .jobReady => true
  | .jobCancel _ => true
  | .fwPushTarget slot => decide (slot < 65536)
  | .fwPushStatus slot => decide (slot < 65536)
  | .fwPushRound slot => decide (slot < 65536)
  | .fwPushSend slot => decide (slot < 65536)
  | .fwPushSet slot => decide (slot < 65536)
  | .fwPushStall epx => decide (epx < 4194304)
  | .ethFrameReceived port _ _ => decide (port < 4)
  | .pauseWatchdog port => decide (port < 4)
  | .ethFrameTransmit port => decide (port < 4)
  | .ethLinkChange port _ _ _ => decide (port < 4)
  | .dmaChannelGo chan _ => decide (12 ≤ chan) && decide (chan < 16)
  | .dmaChannelDone chan _ _ => decide (12 ≤ chan) && decide (chan < 16)
  | .crHeadWrite ring _ => decide (ring < 8)
  | .crCfgWrite ring reg _ => decide (ring < 8) && decide (reg < 3)
  | .crCoalesceTimeout ring => decide (ring < 8)
  | .panelFrameBoundary => true
  | .panelHvSettled => true
  | .panelHvDischarged => true
  | .panelTempStale => true
  | .panelBlinkEdge group => decide (group < 8)
  | .readoutPageAdvance => true
  | .panelRedraw => true
  | .pwrfailAccept => true
  | .lastGaspFrames => true
  | .deviceIdle _ => true
  | .scheduledWake => true
  | .unscheduledWake source => decide (source ≤ 5)
  | .holdupOkChange _ => true
  | .backupChange _ => true
  | .pwrHoldRun => true
  | .pwrReleaseRun => true
  | .pwrRestoreFactory _ => true
  | .pwrBgNow _ => true
  | .sramScrubPass _ _ => true
  | .ddrPatrol _ _ _ => true
  | .telemetryInstant _ => true
  | .tempSample _ => true
  | .gpioEdge ball _ => decide (ball < 48)
  | .registerRead addr _ => decide (addr < 0x410000)
  | .extLost => true
  | .blockEraseDone _ _ _ => true
  | .pcieLinkUp _ _ => true
  | .panelSlotStart => true

end Sys2Proof
end

