-- ==== Sys2Proof/Tests/Slice0.lean ====
section
/-!
SUPPORT. Tests: the checks of WellFormed refuse an ill-formed term each, no word spells a command, and for every statement
a state and operands that meet its hypotheses. Expected values come from the rule a statement cites.
-/
set_option maxRecDepth 10000
set_option Elab.async false
open Sys2Proof Sys2Proof.Machine

/-! ### Well-formed commands -/

/-- A radio frame, a PLC reception, a PTP message and a metrology second that a command may carry. -/
def rxOk : RadioRx := ⟨0, none, []⟩
def sigOk : PlcSig := ⟨0, 0, [], [], []⟩
def plcOk : PlcRx := ⟨sigOk, 0, []⟩
def ptpOk : PtpRx := ⟨0, 0, 0, 0, 0, false, 0, 0, 0, 0, 0, 0, 0, 0, 0, 0, 0, 0, 0, false⟩
def secOk : MetroSec := ⟨[[], [], []], [[], [], []], [], 500, 0⟩

/-- None of the commands of a list is well formed. -/
def noneWf (l : List Instr) : Bool := l.all (fun c => !c.wellFormed)

/-- All commands of a list are well formed. -/
def allWf (l : List Instr) : Bool := l.all (·.wellFormed)

theorem test_wf_slot0 : allWf
    [.tallyRelease 0, .frameIn 0, .openEnv 0, .replay 0, .vee 0, .tariff 0, .profile 0, .rejoin 0, .alarm 0,
     .hostMsg 0, .telemetry 0, .scrubReport 0, .logSnap 0, .panelUpdate 0, .cmdConnect 0, .cmdDisconnect 0,
     .cmdTariffPush 0, .cmdRead 0, .cmdDlms 0, .cmdCancel 0, .cmdProvision 0, .cmdDeprovision 0, .cmdIssue 0,
     .linkEventSearch 0, .linkEventReleased 0, .linkEventResumed 0, .linkEventPlaced 0, .linkEventSched 0,
     .linkEventWorkerLost 0, .linkEventWorkerBack 0, .balanceSeries 0, .balanceRef 0, .balanceHour 0,
     .balanceTopo 0, .balanceSet 0, .laneStatus 0, .laneOrder 0, .laneTask 0, .laneIssue 0, .laneAllot 0] = true := by decide
theorem test_wf_slot1 : allWf
    [.rtkEpoch 0, .wharfFwdKeyReq 0, .wharfFwdDownEnv 0, .fwPushTarget 0, .fwPushStatus 0, .fwPushRound 0,
     .fwPushSend 0, .fwPushSet 0] = true := by decide
theorem test_wf_slot_refused0 : noneWf
    [.tallyRelease 65536, .frameIn 65536, .openEnv 65536, .replay 65536, .vee 65536, .tariff 65536, .profile 65536,
     .rejoin 65536, .alarm 65536, .hostMsg 65536, .telemetry 65536, .scrubReport 65536, .logSnap 65536,
     .panelUpdate 65536, .cmdConnect 65536, .cmdDisconnect 65536, .cmdTariffPush 65536, .cmdRead 65536,
     .cmdDlms 65536, .cmdCancel 65536, .cmdProvision 65536, .cmdDeprovision 65536, .cmdIssue 65536,
     .linkEventSearch 65536, .linkEventReleased 65536, .linkEventResumed 65536, .linkEventPlaced 65536,
     .linkEventSched 65536, .linkEventWorkerLost 65536, .linkEventWorkerBack 65536, .balanceSeries 65536,
     .balanceRef 65536, .balanceHour 65536, .balanceTopo 65536, .balanceSet 65536, .laneStatus 65536,
     .laneOrder 65536, .laneTask 65536, .laneIssue 65536, .laneAllot 65536] = true := by decide
theorem test_wf_slot_refused1 : noneWf
    [.rtkEpoch 65536, .wharfFwdKeyReq 65536, .wharfFwdDownEnv 65536, .fwPushTarget 65536, .fwPushStatus 65536,
     .fwPushRound 65536, .fwPushSend 65536, .fwPushSet 65536] = true := by decide
theorem test_wf_unit0 : allWf
    [.registerWrite 0 [], .intRegisterWrite 0 0, .dmaFifoPacket 0, .backpressureHoldEnd 0 0, .tugDispatch 0,
     .tugWatchdogExpire 0, .tugFailure 0 1, .functionEnable 0, .functionDisable 0, .abandonNow 0, .drainTimeout 0,
     .functionOff 0, .doorbellRing 0 1, .doorbellEntry 0 true [] [], .plcCycleStart 0, .plcPollExchange 0,
     .plcReplyReceived 0 plcOk, .plcNullUpReceived 0 plcOk, .plcReplyMissing 0, .plcContendReceived 0 sigOk 0 [],
     .plcContentionWindow 0 true, .zeroCrossing 1 0, .plcZcLost 0, .plcLinkDown ⟨0, true, 0⟩, .plcLinkRetry 0 true,
     .plcEntryRead 0 0, .plcEntrySet 0 0, .plcSoundNow 0, .radioSuperframeStart 0, .radioBeaconSlot 0 0,
     .radioFrameReceived 0 0 rxOk, .radioResponse 0 0, .radioOccurrenceMissed 0 0 0 1, .radioEntryRead 0 0,
     .radioEntryPlace 0 0, .radioEntrySched 0 0, .metroSecond secOk, .craftLost 0, .ptpMessageReceived 0 ptpOk,
     .ptpMessageSend 0 0] = true := by decide
theorem test_wf_unit1 : allWf
    [.ptpAnnounceTimeout 0, .ppsInEdge 0 0 0, .triggerInstant 0, .captureEdge 0 0 0 0, .bondLoadPlain 0 [],
     .bondGenerate 0, .bondErasePlain 0, .bondAttest 0 0, .bondSign 0, .writeCachePageTimeout 0 0,
     .pageProgramDone 0 true, .foldCommit 0 ⟨0, [], true⟩, .storeRead 0 0 0 [], .storeDiscard 0 1, .workerLost 0,
     .managerLost 0, .fwPushStall 0, .ethFrameReceived 0 [] true, .pauseWatchdog 0, .ethFrameTransmit 0,
     .ethLinkChange 0 true true 0, .dmaChannelGo 12 0, .dmaChannelDone 12 true [], .crHeadWrite 0 0,
     .crCfgWrite 0 0 0, .crCoalesceTimeout 0, .panelBlinkEdge 0, .unscheduledWake 0, .gpioEdge 0 true,
     .registerRead 0 0] = true := by decide
theorem test_wf_unit_refused0 : noneWf
    [.registerWrite 4259840 [], .intRegisterWrite 4259840 0, .dmaFifoPacket 24, .backpressureHoldEnd 16 0,
     .tugDispatch 256, .tugWatchdogExpire 256, .tugFailure 256 1, .tugFailure 0 5, .tugFailure 0 0,
     .functionEnable 64, .functionDisable 64, .abandonNow 64, .drainTimeout 64, .functionOff 64,
     .doorbellRing 4096 1, .doorbellRing 0 65, .doorbellRing 0 0, .doorbellEntry 4096 true [] [], .plcCycleStart 8,
     .plcPollExchange 8, .plcReplyReceived 8 plcOk, .plcReplyReceived 0 { plcOk with fc := 2 ^ 72 },
     .plcReplyReceived 0 { plcOk with chan := [(100, 0)] },
     .plcReplyReceived 0 { plcOk with snr := [(0, 100, 0)] }, .plcNullUpReceived 8 plcOk,
     .plcNullUpReceived 0 { plcOk with fc := 2 ^ 72 }, .plcNullUpReceived 0 { plcOk with chan := [(100, 0)] },
     .plcNullUpReceived 0 { plcOk with snr := [(0, 100, 0)] }, .plcReplyMissing 8,
     .plcContendReceived 8 sigOk 0 [], .plcContendReceived 0 sigOk (2 ^ 72) [],
     .plcContendReceived 0 { sigOk with chan := [(100, 0)] } 0 [],
     .plcContendReceived 0 { sigOk with snr := [(0, 100, 0)] } 0 [], .plcContentionWindow 8 true,
     .zeroCrossing 4 0, .zeroCrossing 0 0, .plcZcLost 8, .plcLinkDown ⟨8, true, 0⟩, .plcLinkRetry 8 true,
     .plcEntryRead 8 0] = true := by decide
theorem test_wf_unit_refused1 : noneWf
    [.plcEntrySet 8 0, .plcSoundNow 8, .radioSuperframeStart 4, .radioBeaconSlot 4 0, .radioBeaconSlot 0 16,
     .radioFrameReceived 4 0 rxOk, .radioFrameReceived 0 16 rxOk, .radioResponse 4 0, .radioResponse 0 16,
     .radioOccurrenceMissed 4 0 0 1, .radioOccurrenceMissed 0 16 0 1, .radioOccurrenceMissed 0 0 4096 1,
     .radioEntryRead 4 0, .radioEntryPlace 4 0, .radioEntrySched 4 0, .metroSecond { secOk with v := [] },
     .metroSecond { secOk with i := [[]] }, .metroSecond { secOk with neutral := [0] }, .craftLost 96,
     .ptpMessageReceived 4 ptpOk, .ptpMessageSend 4 0, .ptpAnnounceTimeout 4, .ppsInEdge 0 65536 0,
     .ppsInEdge 0 0 2, .triggerInstant 48, .captureEdge 9 0 0 0, .captureEdge 0 0 65536 0, .captureEdge 0 0 0 2,
     .bondLoadPlain 256 [], .bondGenerate 256, .bondErasePlain 256, .bondAttest 256 0, .bondSign 256,
     .writeCachePageTimeout 5 0, .pageProgramDone 5 true, .foldCommit 5 ⟨0, [], true⟩, .storeRead 5 0 0 [],
     .storeDiscard 5 1, .workerLost 256, .managerLost 2] = true := by decide
theorem test_wf_unit_refused2 : noneWf
    [.fwPushStall 4194304, .ethFrameReceived 4 [] true, .pauseWatchdog 4, .ethFrameTransmit 4,
     .ethLinkChange 4 true true 0, .dmaChannelGo 16 0, .dmaChannelGo 11 0, .dmaChannelDone 16 true [],
     .dmaChannelDone 11 true [], .crHeadWrite 8 0, .crCfgWrite 8 0 0, .crCfgWrite 0 3 0, .crCoalesceTimeout 8,
     .panelBlinkEdge 8, .unscheduledWake 6, .gpioEdge 48 true, .registerRead 4259840 0] = true := by decide

/-! ### No word spells a command: spec/opcode_table.json gives no row bits -/

theorem test_no_word (nbits w : Nat) : decodeTableWord nbits w = none := rfl

/-! ### StepRunsFront -/

theorem wit_StepRunsFront : ({ up with pending := [.dlPop, .gridBoundary] } : State).pending = .dlPop :: [.gridBoundary] := by decide

/-! ### IdleTick -/

theorem wit_IdleTick : up.pending = [] ∧ up.time.adj = 0 ∧ up.time.slew = 0 ∧ up.time.rem = 0 ∧ up.time.frac = 0 := by decide

/-! ### LifeCycleMoves -/

theorem wit_LifeCycleMoves : nextSat (step { up with pending := [.gridBoundary] }) (fun t => decide (t.bond.lifecycle = 1)) = true := by decide

/-! ### QueueKept -/

theorem wit_QueueKept : nextSat (step { up with pending := [.dlPop, .hourDue] }) (fun t => decide (t.pending = [.hourDue])) = true := by decide

/-! ### TimebaseMovers -/

theorem wit_TimebaseMovers : nextSat (exec .sysrstN up) (fun t => decide (t.time.ns = up.time.ns)) = true := by decide

/-! ### HostHeldOff -/

theorem wit_HostHeldOff : ((State.reset.setFld .PWR_STATUS 0 0 5 3 1).hostHeld) = true := by decide

/-! ### RegisterWriteRw -/

theorem wit_RegisterWriteRw : regAt 0x28 = some (.GLOBAL_SCRATCH, 0, 0) ∧ Reg.GLOBAL_SCRATCH ∈ plainRw ∧ up.hostHeld = false
    ∧ up.power = 0 := by decide
theorem test_write_scratch : nextSat (exec (.registerWrite 0x28 [1, 2, 3, 4]) up)
    (fun t => decide (t.read .GLOBAL_SCRATCH 0 0 = 0x04030201)) = true := by decide

/-! ### RegisterWriteRwl -/

theorem wit_RegisterWriteRwl : regAt 0x180014 = some (.PWR_WDT_CFG, 0, 0) ∧ Reg.PWR_WDT_CFG ∈ plainRwl ∧ up.hostHeld = false ∧ up.power = 0
    ∧ up.loader ≠ 7 ∧ (up.setFld .PLAN_STATUS 0 0 3 0 7).loader = 7 ∧ up.pwrfail = false ∧ up.pwr.inReset = false
    ∧ up.flag .PWR_STATUS 0 0 12 = false := by decide

/-! ### WritesIgnored -/

theorem wit_WritesIgnored : up.hostHeld = false ∧ up.power = 0 ∧ regAt 0x2C = none ∧ regAt 4 = some (.GLOBAL_REV, 0, 0)
    ∧ Reg.GLOBAL_REV.desc.rw = 0 ∧ Reg.GLOBAL_REV.desc.w1c = 0 ∧ Reg.GLOBAL_REV.desc.w1s = 0 ∧ Reg.GLOBAL_REV.desc.wo = 0
    ∧ Reg.GLOBAL_REV.desc.rwl = 0 ∧ Reg.intOf .GLOBAL_REV = none := by decide

/-! ### RegisterReads -/

theorem wit_RegisterReads : up.hostHeld = false ∧ up.power = 0 ∧ regAt 0x2C = none ∧ regAt 0x20 = some (.GLOBAL_SCRUB_CORR_CNT, 0, 0)
    ∧ Map.get? up.host.latch 0x20 = none ∧ Map.get? (up.modHost (fun h => { h with latch := [(0x20, 5#32)] })).host.latch 0x20 = some 5#32 := by decide
theorem test_read_scratch : nextSat (exec (.registerRead 0x28 4) (up.set .GLOBAL_SCRATCH 0 0 77))
    (fun t => decide (t.host.readData = [77#32])) = true := by decide

/-! ### IntWrites -/

theorem wit_IntWrites : regAt 0xC = some (.GLOBAL_INT, 0, 0) ∧ Reg.GLOBAL_INT.desc.w1c ≠ 0 ∧ Reg.vector 0 .GLOBAL_INT = some 0
    ∧ up.hostHeld = false ∧ up.power = 0 := by decide
theorem wit_IntWrites_sent : (((up.set .GLOBAL_INT 0 0 3).set .GLOBAL_INT_EN 0 0 2).get .GLOBAL_INT 0 0 &&& 0xFFFFFFFE) &&&
    ((up.set .GLOBAL_INT 0 0 3).set .GLOBAL_INT_EN 0 0 2).get .GLOBAL_INT_EN 0 0 ≠ 0 := by decide
theorem test_int_clear : nextSat (exec (.intRegisterWrite 0xC 5#32) (up.set .GLOBAL_INT 0 0 7))
    (fun t => decide (t.read .GLOBAL_INT 0 0 = 2)) = true := by decide

/-! ### FullResets -/

theorem wit_FullResets : nextSat (exec (.porstN false true (some 3)) (up.modTime (fun t => { t with keep := some 5 })))
    (fun t => decide (t.time.ns = 8000000000) && t.pwr.inReset && decide (t.log.powerCycles = 1)) = true := by decide +kernel
theorem wit_FullResets_brown : nextSat (exec .brownoutRestart ((up.setFld .PWR_STATUS 0 0 2 0 4).setFlag .PWR_STATUS 0 0 9 true))
    (fun t => decide (t.fld .PWR_STATUS 0 0 5 3 = 5)) = true := by decide

/-! ### SysResets -/

theorem wit_SysResets : up.power ≠ 4 ∧ up.pwrfail = false ∧ up.hostHeld = false ∧ up.pwr.inReset = false
    ∧ up.flag .PWR_STATUS 0 0 12 = false ∧ (up.set .PWR_WDT_CFG 0 0 1).watching = true
    ∧ ((up.set .PWR_WDT_CFG 0 0 1).modTime (fun t => { t with ns := 1000000 })).pwr.kicked + 1000000 * 1 ≤ 1000000
    ∧ regAt 0x40010 = some (.TUG_FENCED, 0, 0) := by decide

/-! ### Watchdog -/

theorem wit_Watchdog : up.hostHeld = false ∧ bits (0xC35A#32).toNat 15 0 = 0xC35A ∧ bits (1#32).toNat 15 0 ≠ 0xC35A ∧ State.reset.loader ≠ 6
    ∧ (up.set .PWR_WDT_CFG 0 0 2).watching = true ∧ (up.set .PWR_WDT_CFG 0 0 2).pwr.warned = false
    ∧ (up.set .PWR_WDT_CFG 0 0 2).time.ns < up.pwr.kicked + 500000 * (up.set .PWR_WDT_CFG 0 0 2).fld .PWR_WDT_CFG 0 0 15 0
    ∧ up.pwr.kicked + 1000000 * 2 ≤ (up.modTime (fun t => { t with ns := 2000000 })).time.ns := by decide
theorem test_wdt_reset : nextSat (exec .watchdogReset ((up.set .PWR_WDT_CFG 0 0 2).modTime (fun t => { t with ns := 2000000 })))
    (fun t => decide (t.fld .PWR_STATUS 0 0 5 3 = 2)) = true := by decide
theorem test_wdt_half : nextSat (exec .watchdogHalf ((up.set .PWR_WDT_CFG 0 0 2).modTime (fun t => { t with ns := 1000000 })))
    (fun t => t.flag .PWR_INT 0 0 4) = true := by decide

/-! ### BootAndLink -/

theorem wit_BootAndLink : State.reset.pwr.inReset = true ∧ State.reset.flag .GLOBAL_STATUS 0 0 0 = false ∧ up.pwr.inReset = false := by decide
theorem test_link_up : nextSat (exec (.pcieLinkUp true false) up) (fun t => t.host.linkUp && t.host.busMaster) = true := by decide +kernel

/-! ### PlanCommands -/

theorem wit_PlanCommands : up.hostHeld = false ∧ up.loader = 6 ∧ up.bond.floor < (up.set .PLAN_EPOCH 0 0 5).get .PLAN_EPOCH 0 0
    ∧ up.bond.floorWrites < 10000 ∧ up.power = 0 ∧ up.pwrfail = false ∧ up.flag .PLAN_STATUS 0 0 9 = false
    ∧ State.reset.loader ≠ 6 ∧ up.hm.held.all (fun f => up.fnLoad f = 0) = true ∧ up.quiescent ⟨0x7F, []⟩ = true := by decide
theorem wit_PlanCommands_wait : up.quiescent ⟨0xC0, []⟩ = false ∧ (up.setFlag .PLAN_STATUS 0 0 9 true).flag .PLAN_STATUS 0 0 9 = true := by decide
theorem test_commit_epoch : nextSat (exec .commitEpoch (up.set .PLAN_EPOCH 0 0 5)) (fun t => decide (t.bond.floor = 5)) = true := by decide
theorem test_delta_busy : nextSat (exec (.applyDelta []) State.reset) (fun t => decide (t.get .PLAN_DELTA_ERROR 0 0 = 0x12)) = true := by
  decide
theorem test_delta_last : nextSat (exec .deltaSectionApply ((up.setFld .PLAN_STATUS 0 0 3 0 9).modPlan (fun p => { p with
    todo := [⟨0x7F, []⟩], deltaSerial := 9 }))) (fun t => decide (t.loader = 6) && decide (t.get .PLAN_SERIAL_LO 0 0 = 9)) = true := by
  decide

/-! ### Dispatch -/

/-- A manifest of kind FRAME_IN heads berth 0, whose home dock 0 serves the kind. -/
def dispatchState : State :=
  ((((up.set .HM_BERTH_CFG 0 0 (2 ^ 31)).setFld .HM_FUNC_CTL 0 0 4 3 1).setFlag .TUG_DOCK_CFG 0 0 0 true).set
    .TUG_DOCK_KIND_LO 0 0 2).modHm (fun h => { h with berths := [(0, ⟨[{ Manifest.zero with kind := 1 }], []⟩)] })
theorem wit_Dispatch : dispatchState.tugReady 3 = true ∧ dispatchState.pick 0 = some (1, 0)
    ∧ (dispatchState.berth 0).sram = [{ Manifest.zero with kind := 1 }] ∧ State.reset.dispatchOn = false := by decide
theorem wit_Dispatch_retry : dispatchState.retryable := by
  intro e he m hm; simp [dispatchState, State.modHm] at he; subst he; simp at hm; subst hm; intro h; exact absurd h (by decide)
theorem test_dispatch : nextSat (exec (.tugDispatch 3) dispatchState) (fun t => decide ((t.slot? 0).bind (·.tug) = some 3)) = true := by
  decide

/-! ### TallyGate -/

theorem wit_TallyGate : (dispatchState.modHm (fun h => { h with slots := [(2, ⟨{ Manifest.zero with kind := 1, status := 5 }, 0, none,
    false, false, [], [], 0, 0, 0, 0⟩)] })).releasable ⟨{ Manifest.zero with kind := 1, status := 5 }, 0, none, false, false, [], [], 0, 0, 0, 0⟩ = true
    ∧ dispatchState.releasable ⟨{ Manifest.zero with status := 1 }, 0, none, false, true, [], [], 0, 0, 0, 0⟩ = true := by decide
theorem test_release_poisoned : nextSat (exec (.tallyRelease 2) (dispatchState.modHm (fun h => { h with slots :=
    [(2, ⟨{ Manifest.zero with kind := 1, status := 5 }, 0, none, false, false, [], [], 0, 0, 0, 0⟩)] })))
    (fun t => decide (t.hm.slots = [])) = true := by decide
theorem wit_TallyGate_stale : dispatchState.kindServed 1 = true := by decide
theorem test_release_stale : nextSat (exec (.tallyRelease 2) (dispatchState.modHm (fun h => { h with slots :=
    [(2, ⟨{ Manifest.zero with kind := 1, status := 1 }, 0, none, false, true, [], [], 0, 0, 0, 0⟩)] })))
    (fun t => decide ((t.berth 0).depth = 2) && decide (t.get .HM_STALE_CNT 0 0 = 1)) = true := by decide

/-! ### ThirdFailure -/

/-- Tug 3 executes a manifest on its second retry. -/
def retryState (dead : List Manifest) : State :=
  dispatchState.modHm (fun h => { h with
    slots := [(2, ⟨{ Manifest.zero with kind := 1, retry := 2 }, 0, some 3, false, false, [], [], 0, 0, 0, 0⟩)], dead := dead })
theorem wit_ThirdFailure : (retryState []).tugFenced 3 = false ∧ (retryState []).slotOfTug 3 = some 2
    ∧ ((retryState []).slot? 2).map (·.m.retry) = some 2 ∧ (retryState []).log.queue.length < 60
    ∧ 1024 ≤ (List.replicate 1024 Manifest.zero).length := by decide +kernel

/-! ### TugFailures -/

theorem wit_TugFailures : (retryState []).slotOfTug 4 = none ∧ (retryState []).tugFenced 4 = false
    ∧ (retryState []).fld .TUG_DOCK_CFG 0 0 11 6 < 32 ∧ (retryState []).flag .TUG_DOCK_CFG 0 0 5 = false ∧ (retryState []).hm.dead.length < 1024
    ∧ (dispatchState.modHm (fun h => { h with slots := [(2, ⟨{ Manifest.zero with kind := 1 }, 0, some 3, false, false, [], [], 0, 0, 0, 0⟩)] })).slotOfTug 3 = some 2 := by
  decide
theorem test_poison : nextSat (exec (.tugFailure 3 1) (retryState [])) (fun t => decide (t.hm.dead.length = 1) && t.tugFenced 3) = true := by
  decide
theorem test_tug_watchdog : nextSat (exec (.tugWatchdogExpire 3) (dispatchState.modHm (fun h => { h with slots :=
    [(2, ⟨{ Manifest.zero with kind := 1 }, 0, some 3, false, false, [], [], 0, 0, 0, 0⟩)] })))
    (fun t => decide ((t.berth 0).depth = 2) && decide (t.get .TUG_FAIL_LAST 0 0 = 3 + 768 + 2048)) = true := by decide

/-! ### FleetCommands -/

theorem wit_FleetCommands : up.hostHeld = false ∧ up.hm.testQueue = [] ∧ (up.setFlag .TUG_FENCED 0 0 7 true).tugFenced 7 = true
    ∧ bits (7#32).toNat 7 0 = 7 ∧ bit (7#32).toNat 8 = false ∧ up.tugFenced 7 = false
    ∧ bit (256#32).toNat 8 = true ∧ (List.range 8).filter (up.setFlag .TUG_FENCED 0 0 7 true).tugFenced ≠ [] := by decide
theorem test_selftest_pass : nextSat (exec (.tugSelftestDone true) ((up.setFlag .TUG_FENCED 0 0 7 true).modHm (fun h =>
    { h with testQueue := [7] }))) (fun t => decide (t.tugFenced 7 = false) && decide (t.get .TUG_SELFTEST_RESULT 0 0 = 0x107)) = true := by
  decide

/-! ### FunctionEnables -/

theorem wit_FunctionEnables : up.hostHeld = false ∧ up.inService = true ∧ up.fnPresent 0 = true ∧ up.standby = false
    ∧ up.hm.held.contains 0 = false ∧ up.fnState 0 = 0 ∧ (up.set .HM_FUNC_CTL 0 0 (8 + 2 ^ 16)).fnState 0 = 1
    ∧ (up.set .HM_FUNC_CTL 0 0 (8 + 2 ^ 16)).flag .HM_FUNC_CTL 0 0 1 = false ∧ (up.set .HM_FUNC_CTL 0 0 (8 + 2 ^ 16)).fld .HM_FUNC_CTL 0 0 31 16 ≠ 0
    ∧ (up.set .HM_FUNC_CTL 0 0 16).fnState 0 = 2 ∧ up.fnLoad 0 = 0 ∧ dispatchState.fnLoad 0 ≠ 0 ∧ up.upd.restarting = false
    ∧ Map.getD up.hm.drainAt 0 0 + 1000000 * up.fld .HM_FUNC_CTL 0 0 31 16 ≤ up.time.ns
    ∧ up.time.ns < Map.getD up.hm.drainAt 0 0 + 1000000 * (up.set .HM_FUNC_CTL 0 0 (2 ^ 31)).fld .HM_FUNC_CTL 0 0 31 16
    ∧ (up.set .HM_FUNC_CTL 0 0 10).fnState 0 = 1 ∧ (up.set .HM_FUNC_CTL 0 0 10).flag .HM_FUNC_CTL 0 0 1 = true := by decide
theorem test_enable : nextSat (exec (.functionEnable 0) up) (fun t => t.fnRunning 0) = true := by decide
theorem test_drain_timeout : nextSat (exec (.drainTimeout 0) (dispatchState.setFld .HM_FUNC_CTL 0 0 4 3 2))
    (fun t => decide (t.fnState 0 = 3) && decide ((t.berth 0).depth = 0)) = true := by decide
theorem test_off : nextSat (exec (.functionOff 3) (up.set .HM_FUNC_CTL 3 0 17)) (fun t => decide (t.fnState 3 = 0)) = true := by decide

/-! ### Doorbells -/

theorem wit_Doorbells : up.hostHeld = false ∧ up.flag .BAR2_DB_STATUS 5 0 31 = false
    ∧ (up.modHost (fun h => { h with rings410 := [(5, 1)] })).ringReason 5 false [] Manifest.zero = 4
    ∧ Map.get? (up.modHost (fun h => { h with rings410 := [(5, 1)] })).host.rings410 5 = some 1 := by decide
/-- Berth 5 takes host manifests. -/
def ringState : State := (((((up.set .HM_BERTH_CFG 5 0 (2 ^ 31)).setFld .HM_FUNC_CTL 0 0 4 3 1).set .HM_BERTH_LIM 5 0 (2 ^ 20)).modHost
    (fun h => { h with rings410 := [(5, 2)], linkUp := true, busMaster := true }))).modPlan (fun p => { p with running := [⟨0x20, [⟨1, zeros 16⟩]⟩] })
theorem wit_Doorbells_entry : ringState.host.linkUp = true ∧ ringState.host.busMaster = true ∧ Map.get? ringState.host.rings410 5 = some 2
    ∧ State.reset.host.linkUp = false := by decide
theorem test_ring : nextSat (exec (.doorbellRing 5 3) up) (fun t => decide (Map.get? t.host.rings410 5 = some 3)) = true := by decide
theorem test_entry_abort : nextSat (exec (.doorbellEntry 5 false [] []) ringState)
    (fun t => decide (t.fld .BAR2_DB_STATUS 5 0 11 8 = 4) && decide (t.host.rings410 = [])) = true := by decide

/-! ### Intake -/

/-- FIFO 16 holds one packet of 10 bytes. -/
def fifoState : State := up.modDma (fun d => { d with fifos := [(16, ⟨[⟨1, 0, 5, some 5, Arrival.none, zeros 10⟩], 0, 0⟩)] })
theorem wit_Intake : (fifoState.fifo 16).packets = [⟨1, 0, 5, some 5, Arrival.none, zeros 10⟩]
    ∧ Map.get? fifoState.dma.served 8 ≠ some 16 ∧ 1 + fifoState.poolUsed ≤ 8192 ∧ (fifoState.fifo 3).packets = [] := by decide
theorem wit_Intake_level : (up.set .EP_ADMIT_CFG 0 0 0).fld .EP_ADMIT_CFG 0 0 15 0 * 1024 ≤ (up.set .EP_ADMIT_CFG 0 0 0).load
    ∧ up.ep.level < up.fld .EP_ADMIT_CFG2 0 0 2 0 ∧ up.load < up.fld .EP_ADMIT_CFG 0 0 15 0 * 1024
    ∧ up.load ≤ up.fld .EP_ADMIT_CFG 0 0 31 16 * 1024 ∧ 0 < (up.modEp (fun e => { e with level := 2 })).ep.level := by decide
theorem wit_Intake_waits : Map.get? (fifoState.modDma (fun d => { d with served := [(8, 16)] })).dma.served 8 = some 16 := by decide
theorem wit_Intake_hold : Map.get? (up.modEp (fun e => { e with bp := [(1027, 0)] })).ep.bp (1024 * 1 + 3) = some 0
    ∧ 0 + 1000000 * up.fld .EP_ADMIT_CFG2 0 0 15 8 ≤ (up.modTime (fun t => { t with ns := 10000000000 })).time.ns
    ∧ State.reset.time.ns < 0 + 1000000 * State.reset.fld .EP_ADMIT_CFG2 0 0 15 8 := by decide
theorem test_fifo_packet : nextSat (exec (.dmaFifoPacket 16) fifoState) (fun t => decide ((t.fifo 16).rptr = 2)) = true := by decide
theorem test_admission_down : nextSat (exec .admissionUpdate (up.modEp (fun e => { e with level := 2 }))) (fun t => decide (t.ep.level = 1)) = true := by
  decide
theorem test_hold_end : nextSat (exec (.backpressureHoldEnd 1 3) ((up.modEp (fun e => { e with bp := [(5, 0), (1027, 0)] })).modTime
    (fun t => { t with ns := 10000000000 }))) (fun t => decide (t.ep.bp = [(5, 0)])) = true := by decide

/-! ### ChainEnds -/

/-- Slot 2 executes a manifest on tug 3. -/
def workState (m : Manifest) : State := up.modHm (fun h => { h with slots := [(2, ⟨m, 0, some 3, false, false, [], [], 0, 0, 0, 0⟩)] })
/-- The slot's status and stage after a row are as expected. -/
def staged (o : Host.Outcome State Fault Refusal) (st : Nat) (fx : List Effect) : Bool :=
  nextSat o (fun t => decide ((t.slot? 2).map (fun e => (e.m.status, e.tug, e.stage)) = some (st, none, fx)))
theorem wit_runs (m : Manifest) (h : m.status = 0) : (workState m).runs 2 m.kind m := ⟨_, rfl, rfl, rfl, h, rfl, rfl⟩
/-- The same in worker role: the plan's WHARF section holds a MANAGER item. -/
def roleState (m : Manifest) : State := (workState m).modPlan (fun p => { p with running := [⟨0xF0, [⟨5, zeros 40⟩]⟩] })
theorem wit_manager : (workState Manifest.zero).workerRole = false ∧ (roleState Manifest.zero).workerRole = true := by decide
theorem test_tariff : staged (exec (.tariff 2) (workState { Manifest.zero with kind := kTariff, srcClass := 5, buf := [7] })) 1
    [.customs ⟨0, [7]⟩] = true := by decide
theorem test_alarm_host : staged (exec (.alarm 2) (workState { Manifest.zero with kind := kAlarm, buf := [7] })) 2 [] = true := by decide
theorem test_panel_update : staged (exec (.panelUpdate 2) (workState { Manifest.zero with kind := kPanelUpdate })) 1
    [.row (.panel none)] = true := by decide
theorem wit_panel_other : ({ Manifest.zero with length := 5 } : Manifest).length ≠ 64 := by decide
theorem test_log_snap : staged (exec (.logSnap 2) (workState { Manifest.zero with kind := kLogSnap, kindArg := 33, srcIndex := 6 })) 1
    [.log 0x1302 1 6 (some 1)] = true := by decide

/-! ### ReadingChain -/

theorem wit_ReadingChain : (workState Manifest.zero).recGone 0 = true ∧ ((workState Manifest.zero).modEp (fun e => { e with lost := false })).recGone 0 = false
    ∧ (checkCounter EpRec.empty 5).isSome = true ∧ checkCounter { EpRec.empty with rxHigh := 5, rxMap := 1 } 5 = none
    ∧ (roleState { Manifest.zero with kind := kVee, srcClass := 5 }).workerRole = true ∧ readRecs 0 [] = some [] ∧ joinEpoch { EpRec.empty with state := 1 } 1 = some (1, true) := by decide
theorem test_frame_lost : staged (exec (.frameIn 2) (workState { Manifest.zero with kind := kFrameIn })) 2 (lostEffects 0) = true := by decide
theorem test_window_reuse : checkCounter { EpRec.empty with rxHigh := 70, rxMap := 1 } 6 = none
    ∧ (checkCounter { EpRec.empty with rxHigh := 70, rxMap := 1 } 7).isSome = true := by decide

/-! ### StoredCommands -/

/-- A CONNECT manifest: command 9 of session 1 on object 1. -/
def connectMan : Manifest :=
  { Manifest.zero with kind := kCommand, kindArg := 1, epxValid := true, buf := [9, 0, 0, 0, 1, 0, 1, 0, 0, 0, 0, 0, 0, 0, 0, 0] }
/-- Endpoint 0 is JOINED on PLC segment 0. -/
def joined : EpRec := { EpRec.empty with state := 2, linkType := 3 }
def joinedState (m : Manifest) : State := (workState m).modEp (fun e => { e with lost := false, recs := [(0, joined)] })
theorem wit_StoredCommands : blockOk 1 connectMan.buf = true ∧ (joinedState connectMan).recGone 0 = false
    ∧ (joinedState connectMan).record 0 = joined ∧ findIdx? Option.isNone joined.pend = some 0
    ∧ (joinedState connectMan).workerRole = false := by decide
theorem test_connect : nextSat (exec (.cmdConnect 2) (joinedState connectMan)) (fun t =>
    decide (((t.slot? 2).map (fun e => (e.m.status, e.stage.length))) = some (1, 1))) = true := by decide +kernel
theorem test_connect_unknown : nextSat (exec (.cmdConnect 2) ((joinedState connectMan).modEp (fun e => { e with recs := [] }))) (fun t =>
    decide (((t.slot? 2).map (·.m.status)) = some 2)) = true := by decide +kernel

/-! ### RecordCommands -/

/-- Endpoint 0 has command 9 pending in place 2. -/
def pendState (m : Manifest) : State :=
  (workState m).modEp (fun e => { e with lost := false, recs := [(0, { joined with
    pend := [none, none, some ⟨9, 1, 1, 1, 1, 0, [], 0⟩, none] })] })
/-- CANCEL of command 9. -/
def cancelMan : Manifest := { connectMan with kindArg := 6, buf := [8, 0, 0, 0, 1, 0, 0, 0, 4, 0, 0, 0, 0, 0, 0, 0, 9, 0, 0, 0] }
theorem wit_RecordCommands : blockOk 6 cancelMan.buf = true ∧ ((pendState cancelMan).record 0).state = 2
    ∧ ((pendState cancelMan).record 0).pend[2]? = some (some ⟨9, 1, 1, 1, 1, 0, [], 0⟩)
    ∧ blockOk 0x11 (zeros 16) = true ∧ EpRec.empty.state = 0 ∧ blockOk 0x10 ((zeros 8) ++ [32, 0] ++ zeros 38) = true
    ∧ (pendState cancelMan).linkFieldsOk 0 0 0 0 = true := by decide
theorem test_cancel : nextSat (exec (.cmdCancel 2) (pendState cancelMan)) (fun t =>
    decide (((t.slot? 2).map (fun e => (e.m.status, e.stage.length))) = some (1, 3))) = true := by decide +kernel
theorem test_deprovision : nextSat (exec (.cmdDeprovision 2) (pendState { cancelMan with kindArg := 0x11, buf := zeros 16 })) (fun t =>
    decide (((t.slot? 2).map (fun e => (e.m.status, e.stage.length))) = some (1, 4))) = true := by decide +kernel

/-! ### LinkEvents -/

/-- A LINK_EVENT of worker 0 by code. -/
def linkMan (ev : Nat) : Manifest := { Manifest.zero with kind := kCommand, kindArg := 0xFE + 256 * ev, srcClass := 3 }
theorem wit_LinkEvents : (joinedState (linkMan 6)).recGone 0 = false ∧ (linkMan 6).kindArg / 256 = 6
    ∧ (linkMan 6).kindArg % 256 = 0xFE := by decide
theorem test_worker_lost : staged (exec (.linkEventWorkerLost 2) (joinedState (linkMan 6))) 1
    [.row (.ep 0 { joined with linkState := 2 })] = true := by decide +kernel
theorem test_link_released : staged (exec (.linkEventReleased 2) (joinedState (linkMan 2))) 1 [] = true := by decide +kernel

/-! ### PushWork -/

/-- Endpoint 0, JOINED, is a target of job 1. -/
def pushState (m : Manifest) : State :=
  let s := joinedState m
  { s with upd := { s.upd with targets := [(0, ⟨1, 0, 0, 0, 0⟩)] } }
/-- A FW_PUSH manifest of a set by kind_arg. -/
def pushMan (arg cls : Nat) : Manifest := { Manifest.zero with kind := kFwPush, kindArg := arg, epxValid := true, srcClass := cls }
theorem wit_PushWork : (pushState (pushMan 0x15 5)).recGone 0 = false ∧ Map.get? (pushState (pushMan 2 5)).upd.targets 0 = some ⟨1, 0, 0, 0, 0⟩
    ∧ (FwTarget.mk 1 0 0 0 0).missing ((pushState (pushMan 4 5)).job 1).blocks = [] ∧ bits 0x15 6 4 = 1
    ∧ ((pushState (pushMan 1 0)).job 0).state ≠ 2 := by decide +kernel
theorem test_push_set : staged (exec (.fwPushSet 2) (pushState (pushMan 0x15 5))) 1
    [.row (.ep 0 joined), .row (.target 0 none), resultFx 1 0 0, countFx .UPD_REFUSED_CNT] = true := by decide +kernel
theorem test_push_send : staged (exec (.fwPushSend 2) (pushState (pushMan 4 5))) 1 [] = true := by decide +kernel

/-! ### BalanceWork -/

/-- A BALANCE manifest of a sub-operation. -/
def balMan (arg : Nat) (b : Bytes) : Manifest := { Manifest.zero with kind := kBalance, kindArg := arg, srcClass := 5, buf := b }
theorem wit_BalanceWork : (joinedState (balMan 1 [])).joined joined = none ∧ (joinedState (balMan 1 [])).recGone 0 = false
    ∧ ((joinedState (balMan 5 [])).modBal (fun b => { b with members := [(7, MRow.bind 0)] })).boundRow 0 = some 7
    ∧ Map.get? [(7, MRow.bind 0)] 7 = some (MRow.bind 0) := by decide
/-- Group 0 of 2,000 rows from row 0 runs. -/
def groupPlan : List Section := [⟨0xA0, [⟨2, toLE 2 0 ++ [1, 7] ++ toLE 4 0 ++ toLE 2 2000 ++ toLE 2 230 ++ zeros 12⟩]⟩]
def groupState (m : Manifest) : State := (workState m).modPlan (fun p => { p with running := groupPlan })
theorem wit_BalanceHour : ((groupState (balMan 3 [])).liveGrp? 0).map (·.rows) = some 2000
    ∧ ((groupState (balMan 3 [])).block 0).lastHour < 1 ∧ ((groupState (balMan 3 [])).block 0).parts ≤ 0 := by decide +kernel
theorem test_series_unbound : staged (exec (.balanceSeries 2) (joinedState (balMan 1 []))) 1 [countFx .BAL_UNBOUND_CNT] = true := by
  decide +kernel
theorem test_bal_unbind : staged (exec (.balanceSet 2) ((joinedState (balMan 5 [4, 0, 0, 0, 0, 0, 0, 0])).modBal (fun b =>
    { b with members := [(7, MRow.bind 0)] }))) 1 [.row (.member 7 none)] = true := by decide +kernel

/-! ### LaneWork -/

/-- A LANE_CHECK manifest of craft 0. -/
def laneMan (arg cls : Nat) (b : Bytes) : Manifest :=
  { Manifest.zero with kind := kLaneCheck, kindArg := arg, srcClass := cls, flow := craftFlow 0, buf := b }
/-- TASK 1 of id 5 at priority 2. -/
def taskBody : Bytes := [1, 2, 3, 0, 5, 0, 0, 0] ++ zeros 12
/-- HOLD of lane 0xFFFF by session 1. -/
def orderBody20 : Bytes := [9, 0, 0, 0, 1, 0, 2, 0] ++ zeros 12
/-- A plan with four craft. -/
def craftSite (m : Manifest) : State :=
  (workState m).modPlan (fun p => { p with running := [⟨0xB0, [⟨1, [4] ++ zeros 31⟩]⟩] })
theorem wit_LaneWork : (workState (laneMan 5 4 [])).craft.allStop = true ∧ Map.get? (workState (laneMan 3 0 taskBody)).craft.tasks 5 = none
    ∧ leAt taskBody 0 1 = 1 ∧ leAt taskBody 4 4 = 5 ∧ 20 ≤ taskBody.length ∧ leAt orderBody20 6 1 = 2
    ∧ ((workState (laneMan 2 0 orderBody20)).craftRow 0).orders = [] := by decide
theorem test_lane_task : nextSat (exec (.laneTask 2) (workState (laneMan 3 0 taskBody))) (fun t => decide ((t.slot? 2).map (·.stage)
    = some [.row (.task 5 (some ⟨2, 3, 0, 0, 0, 1, none⟩))])) = true := by decide +kernel
theorem test_lane_allot_stop : staged (exec (.laneAllot 2) (workState (laneMan 5 4 []))) 1 [] = true := by decide +kernel
theorem test_lane_status : nextSat (exec (.laneStatus 2) ((workState (laneMan 1 2 (zeros 32 ++ List.replicate 16 255))).modCraft (fun c =>
    { c with rows := [(0, { CraftRow.unknown with known := true })] }))) (fun t => decide ((t.slot? 2).map (·.m.status) = some 1)) = true := by
  decide +kernel

/-! ### EpochAndWorkerForwards -/

/-- A WHARF_FWD manifest from worker 3. -/
def fwdMan (arg : Nat) : Manifest := { Manifest.zero with kind := kWharfFwd, kindArg := arg, srcClass := 3, srcIndex := 3 }
/-- A chip in worker role. -/
def workerRoleState (m : Manifest) : State := (joinedState m).modPlan (fun p => { p with running := [⟨0xF0, [⟨5, zeros 32⟩]⟩] })
theorem wit_Forwards : (workState (fwdMan 0x12)).exportSlot 3 0 0 0 0 0 0 0 = none ∧ (workerRoleState (fwdMan 0x11)).workerRole = true
    ∧ (workerRoleState (fwdMan 0x11)).recGone 0 = false := by decide
theorem test_key_refused : staged (exec (.wharfFwdKeyReq 2) (workState (fwdMan 0x12))) 2 (refuseExport 3 0) = true := by decide +kernel
theorem test_forward_dropped : staged (exec (.wharfFwdDownEnv 2) (workerRoleState (fwdMan 0x11))) 1 [countFx .WHARF_RANGE_DROP_CNT] = true := by
  decide +kernel
theorem test_rtk_host : staged (exec (.rtkEpoch 2) (workState { Manifest.zero with kind := kRtkEpoch })) 2 [] = true := by decide +kernel

/-! ### PlcCycle -/

/-- A function runs. -/
def fnUp (f : Nat) (s : State) : State := s.setFld .HM_FUNC_CTL f 0 4 3 1
/-- Segment 0 is live and runs a cycle over node 0; an exchange with it is open. -/
def plcNode0 : PlcNode := PlcNode.new 7 9 0
def plcUp : State :=
  { fnUp 1 (up.setFlag .PLC_SEG_STATUS 0 0 0 true) with
    plc := updAt State.reset.plc 0 (fun g => { g with running := true, nodes := [(0, plcNode0)], due := [0] }) }
def plcOpen (kind : Nat) : State := plcUp.modPlc 0 (fun g => { g with exch := some ⟨0, 0, kind, false, 0, false⟩ })
/-- Frame control of a type from node 0 to the device. -/
def fcOf (ty : Nat) : FrameCtl := ⟨ty, 0, 1, 0, 0, false, 0, 0, 1, false, false⟩
theorem wit_PlcCycle : plcUp.plcLive 0 = true ∧ (plcOpen 1).plcBusy 0 = true ∧ plcUp.plcNext 0 = some 0
    ∧ Map.get? (plcUp.seg 0).nodes 0 = some plcNode0 ∧ (plcUp.seg 0).exch = none ∧ (plcOpen 1).plcHandsOn 0 = true
    ∧ FrameCtl.decode (fcOf 3).encode = some (fcOf 3) ∧ FrameCtl.decode (fcOf 4).encode = some (fcOf 4)
    ∧ (plcUp.modPlc 0 (fun g => { g with due := [] })).plcBusy 0 = false := by decide +kernel
theorem test_plc_overrun : nextSat (exec (.plcCycleStart 0) (plcOpen 1)) (fun t => t.flag .PLC_INT 0 0 2) = true := by decide +kernel
theorem test_plc_missing : nextSat (exec (.plcReplyMissing 0) (plcOpen 1)) (fun t => decide (t.get .PLC_POLL_FAIL_CNT 0 0 = 1)) = true := by
  decide +kernel

/-! ### PlcEvents -/

def plcWindow : State := plcUp.modPlc 0 (fun g => { g with inWindow := true })
theorem wit_PlcEvents : plcWindow.plcLive 0 = true ∧ (plcWindow.seg 0).inWindow = true
    ∧ FrameCtl.decode (fcOf 7).encode = some (fcOf 7)
    ∧ (plcUp.setFld .PLC_SEG_CFG0 0 0 25 16 4).fld .PLC_SEG_CFG0 0 0 25 16 ≠ 0 ∧ State.reset.plc.length = 8
    ∧ up.flag .PLC_SEG_STATUS 0 0 1 = false ∧ plcUp.flag .PLC_SEG_STATUS 0 0 0 = true ∧ plcUp.hostHeld = false
    ∧ bit (0x80000000#32).toNat 31 = true ∧ Map.get? (plcUp.seg 0).nodes (bits (0x80000000#32).toNat 10 0) = some plcNode0
    ∧ plcNode0.pollLog2 < 8 ∧ (plcUp.modTime (fun t => { t with ns := 90000000 })).tHalf 0 * 3000 ≤ 90000000 := by decide +kernel
theorem test_crossing : nextSat (exec (.zeroCrossing 1 10000500) (up.setFld .PLC_SEG_CFG0 2 0 28 27 1)) (fun t =>
    decide ((t.seg 2).tzc = 10000000)) = true := by decide +kernel
theorem test_plc_link_down : nextSat (exec (.plcLinkDown ⟨0, true, 5⟩) (plcOpen 1)) (fun t =>
    decide ((t.seg 0).exch = none ∧ t.lastEvent = some (0x0601, 0, 0))) = true := by decide +kernel

/-! ### RadioPorts -/

/-- An UP entry of endpoint 5 on channel 0, first slot 4. -/
def radioE : RadioEntry := { RadioEntry.new 5 9 0 4 ⟨0, 0, 0⟩ with state := 1 }
/-- Port 0 runs in sensor mode with that entry, channel 0 and sub-band 0 over it. -/
def radioUp : State :=
  ((((((fnUp 9 up).set .RADIO_CFG2 0 0 1).set .RADIO_CFG0 0 0 868000).set .RADIO_SB_LIMIT 0 0 (2 ^ 14 + 1000)).set .RADIO_SB_LOW 0 0
    0).set .RADIO_SB_HIGH 0 0 2000000).modPort 0 (fun p => { p with running := true, entries := [radioE] })
def respOk (ack : Bool) : RespDue := ⟨5, 4, 0, 8000000000, 1, false, ack, 2, 0⟩
def radioResp (cells : List TxCell) : State := radioUp.modPort 0 (fun p => { p with
  resp := [(0, respOk true)], entries := if cells.isEmpty then [] else [{ radioE with cells := cells }] })
/-- A POLL of endpoint 5 whose preamble starts with slot 4's entry, and an ACK frame. -/
def radioPoll (ty : Nat) (b : Bytes) : RadioRx := ⟨32500000, none, radioAir syncIn ty 1 0 false b⟩
theorem wit_RadioPorts : radioUp.loader = 6 ∧ radioUp.fnRunning 9 = true ∧ radioUp.txAllowed = true ∧ radioUp.pwrfail = false
    ∧ radioUp.flag .RADIO_CFG1 0 0 0 = false ∧ radioUp.channels 0 = [0] ∧ radioUp.bandOfChan 0 0 = some 0
    ∧ radioUp.maySend 0 0 (airtime 48) = true ∧ radioUp.maySend 0 2 (airtime 6) = true
    ∧ (radioResp []).entry? 0 5 0 4 = none ∧ ((radioResp [⟨[1], none⟩]).entry? 0 5 0 4).map (·.down) = some none
    ∧ radioE.matched ≠ radioUp.get .RADIO_SUPERFRAME 0 0 + 1 ∧ radioUp.hostHeld = false
    ∧ radioUp.placeOk 0 9 (schedOf 0x90000009) = true ∧ radioUp.tableRoom 0 = true ∧ radioE.collides 0 9 ⟨0, 0, 0⟩ = false
    ∧ radioE.collides 0 4 ⟨0, 0, 0⟩ = true ∧ bits (0xA0000004#32).toNat 29 28 = 2 := by decide +kernel
theorem wit_RadioFrame : ((radioUp.radioHear 0 (radioPoll 1 [5, 0, 0])).2.map (fun h => (sensorFormed h, h.ftype, h.t))) = some (true, 1, 32500000)
    ∧ ((radioUp.radioHear 0 (radioPoll 1 [5, 0, 0])).1.matchEntry 0 0 5 32500000).map (fun x => x.1.slot) = some 4
    ∧ radioUp.fld .RADIO_CFG1 0 0 12 9 < (radioUp.superframeAt 0 32500000).2 / 8000 % 256 := by decide +kernel
theorem test_radio_beacon : nextSat (exec (.radioBeaconSlot 0 0) (radioUp.modPort 0 (fun p => { p with entries := [] }))) (fun t =>
    (t.rport 0).txNow.map (fun f => (f.ftype, f.body.length)) = [(4, 48)]) = true := by decide +kernel
theorem test_radio_missed : nextSat (exec (.radioOccurrenceMissed 0 0 4 0) radioUp) (fun t =>
    (t.rport 0).entries.map (fun e => (e.state, e.count)) = [(1, 1)]) = true := by decide +kernel
theorem test_radio_ack : nextSat (exec (.radioResponse 0 0) (radioResp [])) (fun t =>
    (t.rport 0).txNow.map (fun f => (f.ftype, f.body)) = [(2, [5, 0, 0, 0, 0, 0])]) = true := by decide +kernel
theorem test_radio_poll : nextSat (exec (.radioFrameReceived 0 0 (radioPoll 1 [5, 0, 0])) radioUp) (fun t =>
    ((Map.get? (t.rport 0).resp 0).map (·.slot)) = some 4) = true := by decide +kernel
theorem test_radio_place : nextSat (exec (.radioEntryPlace 0 0x90000009) radioUp) (fun t =>
    decide ((t.rport 0).entries.length = 2)) = true := by decide +kernel

/-! ### CustomsIntervals -/

/-- Customs in RUN with an interval open from 0. -/
def cusUp : State := up.modCustoms (fun c => { c with
  state := 2, running := true, openIv := some ⟨0, [0, 0, 0, 0], 0, 0, 0⟩ })
def cusAt (ns : Nat) : State := cusUp.modTime (fun t => { t with ns := ns })
theorem wit_CustomsIntervals : cusUp.cusLive = true ∧ gridOf 0 + 900 = 900 ∧ 1000000000 * 900 ≤ (cusAt 900000000000).cNs
    ∧ cusUp.customs.acc.length = 4 ∧ cusUp.customs.hwm < 900 ∧ (cusAt 900000000000).closeTarget 900 = none
    ∧ (cusAt 900000000000).cSec % 900 = 0 ∧ cusUp.bgDue 3 3600 = true ∧ State.reset.customs.state = 0
    ∧ ((cusAt 200000000000).modCustoms (fun c => { c with metro := some (zeros 3 ++ [1] ++ zeros 28) })).sliding = true
    ∧ 0 < (cusAt 200000000000).cSec / 180 * 180 := by decide +kernel
theorem wit_CustomsRoot : (State.reset.keySlot 1).valid = true ∧ State.reset.tagGood 1 := ⟨by decide, fun _ => decide_eq_true rfl⟩
theorem test_offset : ((cusUp.modCustoms (fun c => { c with calAt := some 1 })).takenOffsets
    ⟨[[9, 5], [], []], [[], [], []], [], 500, 0⟩).getD 0 0 = 5 := by decide +kernel
theorem test_lockstep : nextSat (exec .lockstepMismatch cusUp) (fun t => t.customs.restarting) = true := by decide +kernel
theorem test_restore_done : nextSat (exec .customsRestoreDone (cusUp.modCustoms (fun c => { c with state := 1 }))) (fun t =>
    decide (t.customs.state = 2)) = true := by decide +kernel

/-! ### CustomsRecords -/

/-- A hand-off of a type for endpoint 5 of serial 9, and Customs with it at the head and an open record of 5. -/
def handoffOf (ty : Nat) : Handoff := ⟨9, toLE 4 (5 + ty * 2 ^ 22) ++ toLE 8 9 ++ zeros 4⟩
def billOk : BillRec := { BillRec.empty with serial := 9, seq := 3 }
def cusHand (ty : Nat) : State := cusUp.modCustoms (fun c => { c with mailbox := [handoffOf ty], recs := [(5, billOk)] })
/-- A CAL_USER blob that names key slot 2, and a METRO_AUTH key there. -/
def calBlob : Bytes := [6, 0, 0, 0] ++ [7] ++ ([1, 0, 0, 0, 2, 0, 0, 0] ++ zeros 96)
theorem wit_CustomsRecords : (cusHand 0).customs.state = 2 ∧ (cusHand 0).pwrfail = false ∧ (cusHand 0).bufferBytes ≤ (if (cusHand 0).hasRegion then 65536 else 49152)
    ∧ (cusHand 0).tamperHeld 4 = false ∧ (cusHand 0).bgDue 5 (60 * (cusHand 0).sweepMin) = true
    ∧ leAt (handoffOf 1).body 0 4 % 2 ^ 22 = 5 ∧ bits (leAt (handoffOf 1).body 0 4) 23 22 = 1 ∧ bits (leAt (handoffOf 2).body 0 4) 23 22 = 2
    ∧ ((cusHand 0).bill 5).serial = 9 ∧ ((cusHand 0).bill 5).period = 0 ∧ cusUp.customs.site.tamper.length = 32
    ∧ (cusHand 0).hostHeld = false ∧ idOk (cusHand 0).mbxId = true ∧ leAt ([1, 0, 0, 0, 2, 0, 0, 0] ++ zeros 96) 4 4 = 2 := by decide
theorem test_orphan : nextSat (exec .customsApplyReadings ((cusHand 0).modCustoms (fun c => { c with recs := [] }))) (fun t =>
    decide (t.get .CUSTOMS_ORPHAN_CNT 0 0 = 1 ∧ t.customs.mailbox = [])) = true := by decide +kernel
theorem test_read_billing : nextSat (exec .mbxReadBilling (cusHand 0)) (fun t => decide (t.get .CUSTOMS_MBX_STATUS 0 0 = 2)) = true := by
  decide +kernel

/-! ### BalanceInstants -/

/-- FLOWS leads the manifests of a source class and kind to berth 0, which is open with function 0. -/
def routeAll (cls kind : Nat) (s : State) : State :=
  ((s.setFlag .HM_BERTH_CFG 0 0 31 true).setFld .HM_FUNC_CTL 0 0 4 3 1).modPlan (fun p => { p with
    running := ⟨0x50, [⟨1, [cls, kind, 0, 0, 0xFF, 0xFF, 0, 0, 1, 0, 0, 0]⟩]⟩ :: p.running })
/-- The balance function runs over group 0 at time `ns`. -/
def balUp (ns : Nat) : State := fnUp 0x11 ((up.modPlan (fun p => { p with running := groupPlan })).modTime (fun t => { t with ns := ns }))
theorem wit_BalanceInstants : (balUp 0).fnRunning 0x11 = true ∧ (fnUp 0x11 up).hostHeld = false
    ∧ bit (0x80000000#32).toNat 31 = true ∧ up.flag .BAL_QUERY_STATUS 0 0 0 = false
    ∧ ((balUp 0).liveGrp? 0).isSome = true ∧ (balUp 0).liveGrp? 1 = none ∧ bits (0x80800000#32).toNat 24 22 = 2
    ∧ bits (0x81000000#32).toNat 24 22 = 4 ∧ bits (0x80C00000#32).toNat 24 22 = 3
    ∧ ((balUp 0).modBal (fun b => { b with members := [(7, MRow.bind 0)] })).boundRow 0 = some 7 := by decide +kernel
theorem wit_BalanceDue : ((balUp 360000000000000).setFld .TIME_STATUS 0 0 3 0 0).balOn = true
    ∧ (balUp 360000000000000).bal.refMark < (balUp 360000000000000).sec / 60 - 1
    ∧ max ((balUp 360000000000000).bal.hourMark + 1) ((balUp 360000000000000).bal.dueFrom / 3600 - 47) ≤ 99 := by decide +kernel
theorem wit_BalanceRoute : (routeAll 4 kBalance (balUp 0)).routed 4 kBalance 60 (groupFlow 0) 0 := by
  refine ⟨by decide +kernel, by decide +kernel, by decide +kernel, ?_⟩; intro h; rcases h with h | h | h <;> exact absurd h (by decide)
theorem test_query_set_base : nextSat (exec (.balSetBase 0x80C00000) (routeAll 4 kBalance (balUp 0))) (fun t =>
    decide (t.get .BAL_QUERY_STATUS 0 0 = 1 ∧ (t.berth 0).depth = 1)) = true := by decide +kernel
theorem test_query_group : nextSat (exec (.balQueryGroup 0x80000000) (balUp 0)) (fun t => decide (t.get .BAL_QUERY_STATUS 0 0 = 2)) = true := by
  decide +kernel
theorem test_unbind_none : nextSat (exec (.balUnbind 0x81000005) (balUp 0)) (fun t => decide (t.get .BAL_QUERY_STATUS 0 0 = 6)) = true := by
  decide +kernel

/-! ### CraftLink -/

/-- Port 0 is wide and runs on a sub-band; functions 9 and 0x12 run. -/
def craftUp : State :=
  (((((((fnUp 0x12 (fnUp 9 up)).set .RADIO_CFG1 0 0 1).set .RADIO_CFG0 0 0 868000).set .RADIO_SB_LIMIT 0 0 (2 ^ 14 + 1000)).set
    .RADIO_SB_LOW 0 0 0).set .RADIO_SB_HIGH 0 0 2000000).set .CRAFT_CFG0 0 0 4).modPort 0 (fun p => { p with running := true })
/-- A C_STATUS frame of craft 1 in its slot of superframe 0, and a C_ALARM of it. -/
def cStatusRx (t : Nat) : RadioRx := ⟨t, none, radioAir syncIn 0xC 1 0 false ([1] ++ zeros 43)⟩
def cAlarmRx : RadioRx := ⟨95000000, none, radioAir syncIn 0xD 1 0 false ([1] ++ zeros 7)⟩
theorem wit_CraftLink : craftUp.widePort = some 0 ∧ craftUp.pwrfail = false ∧ craftUp.txAllowed = true ∧ craftUp.fnRunning 0x12 = true
    ∧ craftUp.fnRunning 9 = true ∧ craftUp.bandOfWide 0 = some 0 ∧ craftUp.maySend 0 0 (wideAirtime 28) = true
    ∧ craftUp.maySend 0 1 (wideAirtime 8) = true ∧ craftUp.craft.allStop = true ∧ craftUp.loader = 6
    ∧ ((craftUp.modTime (fun t => { t with ns := 300000000000 })).craftSf) = 3000
    ∧ ({ craftUp with craft := { craftUp.craft with heard := [(1, 0)] } }).lastStatus 1 = some 0 ∧ (craftUp.craftRow 1).lost = false ∧ craftUp.allManifests = [] ∧ (craftUp.fifo 20).words = 0 := by decide +kernel
theorem wit_CraftFrames : ((craftUp.craftFrame (cStatusRx 18850000) 0xC).2.map (fun x => (x.1, x.2.t, leAt x.2.body 0 1))) = some (0, 18850000, 1)
    ∧ craftUp.craftSfAt 18850000 = 0 ∧ 1 < craftUp.craftCount
    ∧ ((craftUp.craftFrame cAlarmRx 0xD).2.map (fun x => leAt x.2.body 0 1)) = some 1 := by decide +kernel
theorem wit_CraftLost : (routeAll 2 kLaneCheck craftUp).routed 2 kLaneCheck 0 (craftFlow 1) 0 := by
  refine ⟨by decide +kernel, by decide +kernel, by decide +kernel, ?_⟩; intro _; decide +kernel
theorem wit_Survey : (((up.modPlan (fun p => { p with running := [⟨0xB0, [⟨2, [1, 0, 9, 0, 1, 0, 0, 0] ++ zeros 24⟩]⟩] })).setFld
    .CRAFT_STATUS 0 0 4 3 1).modCraft (fun c => { c with survey := ⟨1, [5, 5, 5], [25, 25, 25]⟩ })).baseItem.isSome = true
    ∧ (Survey.mk 1 [5, 5, 5] [25, 25, 25]).sigma ≤ 9 := by decide +kernel
theorem test_craft_beacon : nextSat (exec .craftSuperframeStart craftUp) (fun t => (t.rport 0).txNow.map (fun f => (f.ftype, f.body.length)) = [(8, 28)])
    = true := by decide +kernel
theorem test_c_status : nextSat (exec (.cStatusReceived 1 (cStatusRx 18850000)) craftUp) (fun t => decide (t.craft.acks = [(0, 1)])) = true := by
  decide +kernel
theorem test_craft_downlink : nextSat (exec .craftDownlink craftUp) (fun t => (t.rport 0).txNow.map (·.ftype) = [9]) = true := by decide +kernel

/-! ### AllStop -/

/-- A CRAFT section is in force, STOP_IN_N is low, or all-stop alone is latched. -/
def stopped (low held : Bool) : State :=
  ((up.modPlan (fun p => { p with running := [⟨0xB0, []⟩] })).setFlag .PWR_STATUS 0 0 9 true).modCraft (fun c =>
    { c with stopIn := low, reset := false, allStop := held })
theorem wit_AllStop : (stopped false true).hasSection 0xB0 = true ∧ (stopped false true).stopSources = 0
    ∧ (stopped true true).stopSources = 1 ∧ (stopped false false).craft.allStop = false ∧ (stopped false true).hostHeld = false
    ∧ bit (0x80000001#32).toNat 31 = true ∧ 1 < craftUp.craftCount
    ∧ (up.modEp (fun e => { e with lost := false })).recGone 0 = false := by decide +kernel
theorem test_stop_in : nextSat (exec (.stopInChange true) (stopped false false)) (fun t =>
    decide (t.craft.allStop = true ∧ t.lastEvent = some (0x0C01, 1, 0))) = true := by decide +kernel
theorem test_stop_clear : nextSat (exec .stopCmdClear (stopped false true)) (fun t =>
    decide (t.craft.allStop = false ∧ t.craft.epoch = 1)) = true := by decide +kernel
theorem test_craft_query : nextSat (exec (.craftQuery 0x80000001) craftUp) (fun t => decide (t.get .CRAFT_Q_STATUS 0 0 = 2)) = true := by
  decide +kernel

/-! ### TimeRuns -/

/-- A TIME section with trigger schedule 3 that pulses TRIG_OUT 1 for 5 ns at 0 s and each second. -/
def trigItem : Bytes := [3, 2, 1, 0] ++ zeros 12 ++ toLE 8 1000000000 ++ toLE 4 5 ++ zeros 4
def timeUp (f : TimeState → TimeState) : State :=
  ((up.modPlan (fun p => { p with running := [⟨0xC0, [⟨9, trigItem⟩]⟩] })).set .TIME_TRIG_EN_LO 0 0 8).modTime f
theorem wit_TimeRuns : (timeUp (fun t => { t with slew := 2 ^ 56 })).slewK ≠ 0 ∧ (timeUp id).hostHeld = false
    ∧ (timeUp id).bestSource = none ∧ (timeUp id).trig? 3 = some trigItem ∧ (timeUp id).trigOn 3 = true
    ∧ (timeUp id).actedOn 3 (firstAfter trigItem 0) = false ∧ (timeUp id).within (firstAfter trigItem 0) = true
    ∧ (timeUp id).hasSection 0xC0 = true ∧ (timeUp id).bgDue 4 600 = true ∧ (timeUp id).bgDue 1 600 = true
    ∧ (timeUp (fun t => { t with step := some (5, 7) })).pwrfail = false := by decide +kernel
theorem wit_TimeSources_locked : ((timeUp (fun t => { t with sources := [⟨1, 10, 0, 0, 0, 0, 0⟩, TimeSource.start, TimeSource.start] })).modPlan
    (fun p => { p with running := [⟨0xC0, [⟨1, [1, 2, 3, 0]⟩]⟩] })).bestSource = some 1 := by decide +kernel
theorem wit_Ageing : 86400 ≤ (List.replicate 86400 (0 : Int)).length ∧ (up.setFld .TIME_STATUS 0 0 5 4 2).discipline = 2 := by
  exact ⟨Nat.le_of_eq List.length_replicate.symm, by decide +kernel⟩
theorem test_second : nextSat (exec .timeSecond (timeUp id)) (fun t => decide (t.time.ns = 1000000000 ∧ t.log.opSec = 1)) = true := by
  decide +kernel
theorem test_step : nextSat (exec .timeStep (timeUp (fun t => { t with step := some (5, 7) }))) (fun t =>
    decide (t.time.ns = 5000000000 ∧ t.time.frac = 7 ∧ t.time.step = none)) = true := by decide +kernel
theorem test_set_time : nextSat (exec .setTime ((timeUp id).set .TIME_SET_NS 0 0 500)) (fun t =>
    decide (t.time.slew = 500 * 2 ^ 56 ∧ t.quality = 6)) = true := by decide +kernel
theorem test_trigger : nextSat (exec (.triggerInstant 3) (timeUp id)) (fun t => decide (Map.get? t.time.acted 3
    = some (firstAfter trigItem 0))) = true := by decide +kernel

/-! ### TimeSources -/

/-- The timebase with sources, a TIME section of GPS, source list, capture item and PTP AUTO on port 0. -/
def srcUp (l : List TimeSource) : State :=
  ((((up.modPlan (fun p => { p with running := [⟨0xC0, [⟨1, [1, 2, 3, 0]⟩, ⟨6, zeros 12⟩, ⟨7, [0, 1, 0, 0, 0, 0, 0, 0]⟩, ⟨10, [2, 2, 0, 0]⟩]⟩] })).setFld
    .GNSS_CFG0 0 0 25 23 1).setFld .TIME_STATUS 0 0 5 4 2).setFld .TIME_STATUS 0 0 8 6 3).modTime (fun t => { t with
      sources := l, ns := 90000000000, ptp := updAt t.ptp 0 (fun p => { p with state := 6 }) })
def gnssGood : GnssSol := ⟨true, 10, 0, 0, 0, 8, true, List.replicate 8 ⟨0, 45000, true⟩, 40, 0, [1, 2, 3], none, none⟩
theorem wit_TimeSources : (srcUp [⟨0, 9, 0, 0, 0, 0, 0⟩, TimeSource.start, ⟨0, 9, 0, 0, 0, 89000000000, 0⟩]).tracks 0 = true
    ∧ 4 ≤ (srcUp []).gnssUsed gnssGood ∧ (srcUp [⟨1, 9, 0, 0, 0, 0, 0⟩, TimeSource.start, TimeSource.start]).listed = [1, 2, 3]
    ∧ (srcUp []).selected = 3 ∧ (srcUp []).discipline = 2 ∧ (srcUp []).ptpRole 0 = 1 ∧ (srcUp []).ptpCfg 2 0 ≠ 1
    ∧ ((srcUp []).ptpPort 0).state = 6 ∧ (srcUp []).ptpDue 0 0 = true
    ∧ ((srcUp []).items 0xC0 10).any (fun v => leAt v 0 1 = 2 && (leAt v 1 1 = 2 || leAt v 1 1 = 0)) = true
    ∧ edgePhase 90000000000 0 = 0 ∧ 0 < (srcUp []).eth.ports.length ∧ 7 < ((srcUp []).ethPort 0).queues.length ∧ (srcUp []).fld .TIME_CFG0 0 0 15 7 ≤ 90 := by decide +kernel
theorem test_gnss_lock : nextSat (exec (.gnssSolution gnssGood) (srcUp [⟨0, 9, 0, 0, 0, 0, 0⟩, TimeSource.start, TimeSource.start])) (fun t =>
    decide ((t.source 1).state = 1)) = true := by decide +kernel
theorem test_ptp_resp : nextSat (exec (.ptpMessageReceived 0 ⟨1, 0, 7, 0, 0, false, 0, 0, 0, 0, 0, 0, 0, 0, 0, 0, 0, 0, 0, false⟩)
    ((srcUp []).setFlag .ETH_STATUS 0 0 0 true)) (fun t => decide (((t.ethPort 0).queues.getD 7 []).map (fun f => f.ptp.map (fun x =>
      (x.mtype, x.seq))) = [some (9, 7)])) = true := by decide +kernel
theorem test_capture : nextSat (exec (.captureEdge 2 5 0 0) (srcUp [])) (fun t =>
    decide ((Map.getD t.time.capt 2 []).length = 1)) = true := by decide +kernel
theorem test_hold_off : nextSat (exec .holdOffExpire (srcUp [⟨1, 9, 0, 0, 0, 0, 0⟩, TimeSource.start, TimeSource.start])) (fun t =>
    decide (t.selected = 1)) = true := by decide +kernel

/-! ### BondCommands -/

/-- Slots of usage ROOT, SIGNER and OWNER are loaded, a SIGNING slot at 9, and the life cycle is as given. -/
def bondUp (life : Nat) : State := (up.setFld .BOND_LEN 0 0 12 0 68).modBond (fun b => { b with
  lifecycle := life, nonce := some (zeros 16), slots := [(0, KeySlot.device 0 8 4), (1, KeySlot.device 1 9 2), (2, KeySlot.device 2 10 2),
    (5, KeySlot.empty.put 5 (zeros 64) 0x11 0), (6, KeySlot.empty.put 6 (zeros 64) 0x32 0),
    (7, KeySlot.empty.put 7 (zeros 64) 0x33 0), (9, KeySlot.empty.put 9 (zeros 64) 0x4C 0), (255, KeySlot.device 255 11 4)] })
theorem wit_BondCommands : (bondUp 1).hostHeld = false ∧ (bondUp 1).slotRefusal 20 0x11 false = none
    ∧ (bondUp 1).fld .BOND_LEN 0 0 12 0 = 68 ∧ leAt (fit 68 (toLE 4 0x11 ++ zeros 64)) 0 4 = 0x11
    ∧ ((bondUp 1).keySlot 20).copyBad = 0 ∧ ((bondUp 1).keySlot 9).copyBad = 0
    ∧ reservedSlot 9 = false ∧ (bondUp 1).slotInUse 9 = false ∧ ((bondUp 1).keySlot 9).writes < 10000
    ∧ ((bondUp 1).set .BOND_DATA 0 0 0x11).slotRefusal 20 0x11 true = none ∧ ((bondUp 1).set .BOND_DATA 0 0 0x11).get .BOND_DATA 0 0 = 0x11
    ∧ ((bondUp 1).keySlot 0).valid = true ∧ ((bondUp 1).keySlot 9).valid = true ∧ ((bondUp 1).keySlot 9).usage = 12
    ∧ (bondUp 1).lifeRefusal 2 false = none ∧ (bondUp 3).lifeRefusal 2 false = none ∧ (bondUp 1).lifeRefusal 4 false = none
    ∧ (bondUp 1).pwrfail = false := by decide +kernel
theorem wit_BondTags : (bondUp 1).tagGood 0 ∧ (bondUp 1).tagGood 9 := ⟨fun _ => decide_eq_true rfl, fun _ => decide_eq_true rfl⟩
theorem test_load_plain : nextSat (exec (.bondLoadPlain 20 (toLE 4 0x11 ++ zeros 64)) (bondUp 1)) (fun t =>
    decide ((t.keySlot 20).attr = 0x11 ∧ t.get .BOND_CMD_STATUS 0 0 = 1)) = true := by decide +kernel
theorem test_erase_plain : nextSat (exec (.bondErasePlain 9) (bondUp 1)) (fun t => !(t.keySlot 9).valid) = true := by decide +kernel
theorem test_deploy : nextSat (exec (.bondDeploy 0) (bondUp 1)) (fun t => decide (t.bond.lifecycle = 2)) = true := by decide +kernel

/-! ### OwnerCommands -/

/-- A blob of a code, signed with slot 7 over argument `a` and the challenge of `bondUp`. -/
def ownerBlob (code : Nat) (a : Bytes) : Bytes :=
  toLE 1 code ++ [7] ++ toLE 2 a.length ++ toLE 4 0x00B07680 ++ zeros 24 ++ a ++ zeros 96
theorem wit_OwnerTags : (bondUp 3).tagGood 7 ∧ (bondUp 3).tagGood 255 := ⟨fun _ => decide_eq_true rfl, fun _ => decide_eq_true rfl⟩
theorem wit_OwnerCommands : (bondUp 3).hostHeld = false ∧ ((bondUp 3).setFld .BOND_LEN 0 0 12 0 132).bondBuf (ownerBlob 6 [9, 0, 0, 0]) = ownerBlob 6 [9, 0, 0, 0] ∧ leAt (ownerBlob 6 [9, 0, 0, 0]) 0 1 = 6
    ∧ (ownerArg (ownerBlob 6 [9, 0, 0, 0])).length = 4 ∧ (ownerArg (ownerBlob 3 [])).length = 0
    ∧ (bondUp 2).lifeRefusal 3 false = none ∧ (bondUp 3).lifeRefusal 4 false = none ∧ (bondUp 3).bond.ownerLock = false
    ∧ (bondUp 3).slotInUse 9 = false ∧ ((bondUp 3).keySlot 255).valid = true ∧ (bondUp 3).pwrfail = false
    ∧ (bondUp 2).bond.lockWrites < 10000 := by decide +kernel
theorem test_owner_format : nextSat (exec (.ownerLockSet [3, 200]) ((bondUp 3).setFld .BOND_LEN 0 0 12 0 2)) (fun t =>
    decide (t.get .BOND_CMD_STATUS 0 0 = 19 ∧ t.bond.nonce = none)) = true := by decide +kernel

/-! ### StoreArray -/

/-- A store of one LUN of 64 blocks with 9 pages in a block, READY; a block of it holds what `f` says. -/
def storeUp (f : StoreState → StoreState) : State :=
  (((up.setStore 2).set .STORE_CFG2 0 0 (1 + 18 * 2 ^ 8)).set .STORE_CFG0 0 0 7).modStore (fun t => f { t with
    luns := 1, ppb := 9, bpl := 64, good := true, cus := 2, patrolling := true, entries := [⟨6, 2, 0, false, 0, 0, 0, 1⟩], bufSz := [(0, 18)] })
/-- Page 9 of AID in the native block 10, erased `n` times. -/
def aidBlock (n : Nat) (t : StoreState) : StoreState :=
  { t with nand := [(10, [⟨4, false, false, 9, 0, [1], 0, [], []⟩])], map := { t.map with
    blks := [(10, ⟨1, false, n, 4, 1, 0, 1⟩)], pages := [(pageKey 4 9, 4096 * 10)] } }
/-- The same page in a flush block. -/
def flushBlock (t : StoreState) : StoreState :=
  { aidBlock 0 t with map := { (aidBlock 0 t).map with blks := [(10, ⟨6, true, 0, 4, 1, 0, 1⟩)] } }
/-- One closed AID page in the cache. -/
def aidCache (t : StoreState) : StoreState := { t with cache := [⟨4, 0, zeros 4, true, 0⟩] }
/-- One record in the journal buffer of Customs. -/
def cusFull : State := (storeUp (fun t => { t with cus := 40, cusMiB := 64 })).modCustoms (fun c => { c with buffer := [⟨3, 0, 0, zeros 20, 0, 0, false, true⟩] })
/-- Block 10 awaits its erase. -/
def eraseUp (role : Nat) : State := storeUp (fun t => { t with map := { t.map with blks := [(10, ⟨role, false, 0, 0, 0, 0, 0⟩)] } })
theorem wit_StoreArray : (storeUp id).storeTakes = true ∧ (storeUp id).store.entries ≠ [] ∧ (storeUp id).pwrfail = false ∧ (storeUp id).store.luns ≠ 0
    ∧ (storeUp id).store.mapSeq + 1 < ((storeUp id).store.ckpts.head?.map (·.seq)).getD 0 + (storeUp id).ckptPages
    ∧ ((storeUp (fun t => { t with mapSeq := 9 })).store.ckpts.head?.map (·.seq)).getD 0 + (storeUp id).ckptPages ≤ 9 + 1
    ∧ (storeUp aidCache).cacheNext 4 = some (0, ⟨4, 0, zeros 4, true, 0⟩) ∧ (storeUp aidCache).store.aidWait = []
    ∧ ((storeUp aidCache).programTarget 4 0 false).isSome = true := by decide +kernel
theorem wit_StoreArray_customs : cusFull.storeState ≠ 6 ∧ cusFull.customs.buffer ≠ [] ∧ cusFull.hasRegion = true
    ∧ cusFull.customs.buffer.head?.any (·.type = 8) = false ∧ cusFull.cusFree false ≠ 0
    ∧ (cusFull.programTarget 1 cusFull.store.cusMap.b.tail false).isSome = true := by decide +kernel
theorem wit_StoreArray_fold : (storeUp flushBlock).mapReady 4 = true ∧ (storeUp flushBlock).foldDue 4 1 = true
    ∧ ((storeUp flushBlock).heldPages 4 1).length ≤ 4096 ∧ (storeUp flushBlock).store.bpl ≤ 65536
    ∧ ((storeUp flushBlock).allocNand 4 0 false 2).isSome = true ∧ (storeUp flushBlock).lunOf 1 = 0
    ∧ (storeUp flushBlock).nandPage 4 9 ≠ none ∧ (storeUp flushBlock).foldDue 4 2 = false := by decide +kernel
theorem wit_StoreArray_level : (storeUp (aidBlock 9)).mapReady 2 = true ∧ (storeUp (aidBlock 9)).storeState ≠ 5
    ∧ (storeUp (aidBlock 9)).fld .STORE_CFG0 0 0 31 18 < ((storeUp (aidBlock 9)).eraseSpan 0).2 - ((storeUp (aidBlock 9)).eraseSpan 0).1
    ∧ (((storeUp (aidBlock 9)).lunBlocks 1 0 ++ (storeUp (aidBlock 9)).lunBlocks 2 0).filter (·.2.role = 1)).map (·.1) = [10]
    ∧ ((storeUp (aidBlock 9)).allocNand 4 0 false 2).isSome = true := by decide +kernel
theorem wit_StoreArray_erase : (eraseUp 8).mapReady 2 = true ∧ 10 < (eraseUp 8).store.bpl ∧ (eraseUp 8).store.cus + 4 ≤ 10
    ∧ ((eraseUp 8).store.map.info 10).role = 8 ∧ ((eraseUp 4).store.map.info 10).role = 4 ∧ ((eraseUp 4).store.map.info 11).role = 0
    ∧ (storeUp (aidBlock 0)).blocksIn 2 10 = [(4, 1)] ∧ (storeUp id).power < 2 := by decide +kernel
theorem test_map_program : nextSat (exec (.pageProgramDone 0 true) (storeUp id)) (fun t => decide (t.store.entries = [] ∧ t.store.mapSeq = 1)) = true := by
  decide +kernel
theorem test_fold : nextSat (exec (.foldCommit 4 ⟨1, [], true⟩) (storeUp flushBlock)) (fun t =>
    decide ((t.nandPage 4 9).map (fun y => (y.oneBit, y.data.take 2)) = some (false, [1, 0]) ∧ t.get .STORE_FOLD_CNT 0 0 = 1)) = true := by decide +kernel
theorem test_patrol_relocates : nextSat (exec (.nandPatrol 0 10 1 1 []) (storeUp (aidBlock 0)))
    (fun t => decide (Map.getD t.store.map.pages (pageKey 4 9) 0 / 4096 ≠ 10 ∧ t.get .STORE_REFRESH_CNT 0 0 = 1)) = true := by decide +kernel
theorem test_erase_done : nextSat (exec (.blockEraseDone 0 10 true) (eraseUp 8)) (fun t =>
    decide ((t.store.map.info 10).erases = 1 ∧ (t.store.map.info 10).role = 0)) = true := by decide +kernel
theorem test_customs_page : nextSat (exec (.pageProgramDone 1 true) cusFull) (fun t => decide (t.customs.buffer = [] ∧ t.customs.part.length = 1)) = true := by
  decide +kernel

/-! ### StoreHost -/

/-- The store of `storeUp`, STARTING. -/
def startUp (f : StoreState → StoreState) : State := (storeUp f).setStore 1
/-- Its checkpoint, on a page of MAP with the fingerprint of the key in slot 2. -/
def ckptUp (t : StoreState) : StoreState :=
  { t with entries := [], mapSeq := 1, ckpts := [⟨1, StoreMap.empty 0 8, Health.zero⟩], nand := [(2, [⟨0, true, false, 1, 0,
    mapPageOf 1 2 1 1 (fingerprint (State.reset.keySlot 2).material) 0 [], State.reset.keyNo, [], []⟩])] }
/-- The state in which STORE_START judges the key: slot 2 of `startUp` agrees with its tag. -/
def startU (f : StoreState → StoreState) : State := ((startUp f).setFlag .STORE_STATUS 0 0 12 (startUp f).hasRegion).flushReport
theorem startU_use : (startU ckptUp).useSlot 2 = startU ckptUp ∧ (startU id).useSlot 2 = startU id := by
  constructor <;>
  · refine useSlot_ok _ _ (fun c => ?_)
    by_cases h : c = 0
    · subst h; left; exact decide_eq_true rfl
    · right; intro e; exact h (e ▸ rfl)
theorem wit_StoreHost_same : ((startU ckptUp).useSlot 2).sameKey = true := by
  rw [startU_use.1]
  have h : (startU ckptUp).mapPages.getLast? = some (1, mapPageOf 1 2 1 1 (fingerprint (State.reset.keySlot 2).material) 0 []) := by rfl
  rw [State.sameKey, h]
  exact decide_eq_true (mapPageOf_fingerprint _ _ _ _ _ _ _)
theorem wit_StoreHost_format : ((startU id).useSlot 2).sameKey = false ∧ (((startU id).useSlot 2).keySlot 2).valid = true
    ∧ (((startU ckptUp).useSlot 2).keySlot 2).valid = true := by
  rw [startU_use.1, startU_use.2]; decide +kernel
theorem wit_StoreHost : (startUp id).inService = true ∧ (startUp id).storeState = 1 ∧ (startUp ckptUp).store.entries = []
    ∧ (((((startUp id).modBond (fun b => { b with slots := [] })).flushReport.useSlot 2).keySlot 2).valid = false)
    ∧ (startUp (fun t => { t with down := true, flushEnd := false })).store.down = true
    ∧ (storeUp id).hostHeld = false ∧ (storeUp id).storeBusy = none
    ∧ (storeUp id).partPages 3 = 4104 ∧ (storeUp id).storeState < 6 ∧ (storeUp id).store.map.a.tail = 0 := by decide +kernel
theorem wit_StoreHost_read : (storeUp (fun t => { t with nand := [(10, [⟨3, false, false, 9, 0, [1], 0, [], [2]⟩])], map := { t.map with
    blks := [(10, ⟨1, false, 0, 3, 1, 0, 1⟩)], pages := [(pageKey 3 9, 4096 * 10)] } })).nandPage 3 9 ≠ none := by decide +kernel
theorem test_read_page : nextSat (exec (.storeRead 3 0 0 []) ((storeUp id).set .STORE_ARG 0 0 9)) (fun t =>
    decide (t.get .STORE_CMD_STATUS 0 0 = 2)) = true := by decide +kernel
theorem test_discard_other : nextSat (exec (.storeDiscard 3 1) (storeUp id)) (fun t =>
    decide (t.get .STORE_CMD_STATUS 0 0 = 6)) = true := by decide +kernel

/-! ### WharfManager -/

/-- Worker 1 holds EPX 0 to 99; LINK key slot 3, LINK port 0. -/
def wharfItems : List Item := [⟨1, [0, 0] ++ toLE 2 4000 ++ toLE 2 4001 ++ toLE 2 64 ++ [3, 0, 0, 0]⟩, ⟨2, zeros 36⟩,
  ⟨3, [1, 1, 0, 0] ++ zeros 16 ++ zeros 4 ++ toLE 4 99⟩]
def wharfUp (x : WWorker) (d : List WDgram) : State :=
  ((routeAll 3 kWharfFwd (fnUp 0xD (up.modPlan (fun p => { p with running := [⟨0xF0, wharfItems⟩] })))).set .ETH_STATUS 0 0 1).modBond
    (fun b => { b with slots := [(3, KeySlot.empty.put 3 (zeros 64) 0x11 0)] }) |>.modWharf (fun w => { w with workers := [(1, x)], rxq := d })
    |>.modTime (fun t => { t with ns := 300000000 })
/-- A datagram of worker 1. -/
def fromOne (type : Nat) (body : Bytes) : WDgram := ⟨1, type, 0, 0, 1, body⟩
theorem wit_WharfManager : (wharfUp WWorker.hello [fromOne 1 []]).workerRole = false
    ∧ ((wharfUp WWorker.hello []).wharfKey 1).isSome = true ∧ (wharfUp WWorker.hello []).ethUp 0 = true
    ∧ (wharfUp WWorker.hello []).flag .WHARF_STATUS 0 0 11 = false ∧ (wharfUp WWorker.hello []).wharfOn = true
    ∧ (wharfUp WWorker.hello []).workerIds = [1] ∧ ((wharfUp ⟨2, 0, 0, 0, 0, 0, 0⟩ []).worker 1).state = 2
    ∧ permits 5 1 = true ∧ permits 0 1 = false ∧ (wharfUp WWorker.hello []).route 3 kWharfFwd 1 0x410001 = some 0
    ∧ (wharfUp WWorker.hello []).berthOpen 0 = true ∧ ((wharfUp WWorker.hello []).berth 0).depth < (wharfUp WWorker.hello []).berthCap 0
    ∧ (wharfUp WWorker.hello []).ep.level ≤ (wharfUp WWorker.hello []).fld .HM_BERTH_CFG 0 0 22 20 := by decide +kernel
theorem wit_WharfManager_standDown : (((wharfUp WWorker.hello [⟨256, 3, 0, 9 * 2 ^ 28, 1, []⟩]).setFld .PILOT_STATUS 0 0 3 0 8).mustStandDown (9 * 2 ^ 28)) = true := by
  decide +kernel
theorem test_hello_up : nextSat (exec .wharfHello (wharfUp WWorker.hello [fromOne 1 []])) (fun t =>
    decide ((t.worker 1).state = 2 ∧ t.get .WHARF_TX_DGRAM_CNT 0 0 = 1)) = true := by decide +kernel
theorem test_credit_drop : nextSat (exec .wharfUpEnv (wharfUp ⟨2, 0, 0, 0, 0, 0, 0⟩ [fromOne 0x10 (zeros 12 ++ toLE 2 20 ++ zeros 22)]))
    (fun t => decide (t.get .WHARF_CREDIT_DROP_CNT 0 0 = 1)) = true := by decide +kernel
theorem test_worker_silent : nextSat (exec (.workerLost 1) (wharfUp ⟨2, 0, 0, 0, 0, 0, 0⟩ [])) (fun t => decide ((t.worker 1).state = 3)) = true := by
  decide +kernel

/-! ### WharfWorker -/

/-- Worker 1 of a manager at an address; a datagram waits; managers as given. -/
def workerUp (ms : List WMgr) (d : List WDgram) : State :=
  (wharfUp WWorker.hello d).modPlan (fun p => { p with running := p.running ++ [⟨0xF0, [⟨5, [1, 0, 0, 0] ++ toBE 16 9 ++ zeros 16⟩]⟩] })
    |>.modWharf (fun w => { w with mgrs := ms })
theorem wit_WharfWorker : (workerUp [⟨false, 0, 0, 0⟩, ⟨false, 0, 0, 0⟩] []).workerRole = true
    ∧ (workerUp [] []).wharfOn = true ∧ (workerUp [] []).mgrAddr 0 = 9 ∧ (workerUp [] []).mgrAddr 1 = 0
    ∧ (workerUp [] []).ownWorker = 1 ∧ ((workerUp [] []).wharfKey 1).isSome = true ∧ (workerUp [] []).hasPilot = false
    ∧ (workerUp [⟨true, 0, 0, 0⟩, ⟨false, 0, 0, 0⟩] []).wharf.mgrs[0]? = some ⟨true, 0, 0, 0⟩
    ∧ leAt (toLE 4 7 ++ toLE 2 3 ++ zeros 5) 4 2 = 3 ∧ leAt (toLE 4 7 ++ toLE 2 3 ++ zeros 5) 0 4 = 7
    ∧ (workerUp [] []).route 3 kWharfFwd 1 7 = some 0 := by decide +kernel
theorem test_hello_ack : nextSat (exec .wharfHelloAck (workerUp [⟨false, 0, 0, 0⟩, ⟨false, 0, 0, 0⟩] [fromOne 2 []])) (fun t =>
    decide (t.wharf.joined = 2 ∧ t.wharf.addressed = 0)) = true := by decide +kernel
theorem test_manager_lost : nextSat (exec (.managerLost 0) (workerUp [⟨true, 0, 0, 0⟩, ⟨true, 9, 0, 0⟩] [])) (fun t =>
    decide (t.wharf.addressed = 1)) = true := by decide +kernel

/-! ### PairJournal -/

/-- A chip of a pair whose partner stands in the WHARF section, at a rank; datagrams wait. -/
def pairUp (rank : Nat) (f : WharfState → WharfState) : State :=
  ((wharfUp WWorker.hello []).setFld .PILOT_STATUS 0 0 3 0 rank).modPlan (fun p => { p with
    running := p.running ++ [⟨0xF0, [⟨4, toBE 16 9 ++ zeros 16⟩]⟩, ⟨0x100, []⟩] }) |>.modPilot (fun p => { p with ready := true, higher := 8 })
    |>.modWharf f
/-- A datagram of the partner. -/
def fromPair (type : Nat) (body : Bytes) : WDgram := ⟨256, type, 0, 0, 7, body⟩
theorem wit_PairJournal : (pairUp 8 id).pilotOn = true ∧ (pairUp 8 id).rank = 8 ∧ (pairUp 4 id).rank = 4
    ∧ ((pairUp 8 id).item? 0xF0 4).isSome = true ∧ (pairUp 8 id).wharf.region = 6 ∧ (pairUp 8 id).wharf.owed < 67108864
    ∧ ((pairUp 8 id).wharfKey 256).isSome = true
    ∧ journalItems 12 (toLE 1 1 ++ [0] ++ toLE 2 8 ++ zeros 8) = [(1, zeros 8)]
    ∧ journalItems 4 (toLE 1 6 ++ [0, 0, 0]) = [(6, [])] ∧ journalItems 8 (toLE 1 5 ++ [0] ++ toLE 2 4 ++ zeros 4) = [(5, zeros 4)]
    ∧ (pairUp 4 id).mailboxBytes = 0 := by decide +kernel
theorem test_jack_sync : nextSat (exec .wharfJack (pairUp 8 (fun w => { w with passEnd := 5, rxq := [fromPair 0x22 (toLE 8 5)] }))) (fun t =>
    t.flag .WHARF_STATUS 0 0 9) = true := by decide +kernel
theorem test_ckpt_done : nextSat (exec .wharfCkpt (pairUp 4 (fun w => { w with rxq := [fromPair 0x20 (toLE 4 1 ++ [5, 0, 0, 0] ++ zeros 8)] })))
    (fun t => decide (t.wharf.imgDone.isSome = true)) = true := by decide +kernel
theorem test_handover_noted : nextSat (exec .wharfJournal (pairUp 4 (fun w => { w with rxq := [fromPair 0x21 [6, 0, 0, 0]] })))
    (fun t => t.pilot.handover) = true := by decide +kernel

/-! ### PilotClaims -/

/-- A claim frame of rank and epoch 0. -/
def claimFrame (rank : Nat) : Bytes :=
  let b := toLE 1 1 ++ zeros 3 ++ toLE 4 (rank * 2 ^ 28) ++ toLE 4 1 ++ zeros 4
  b ++ toLE 4 (crc32 b)
theorem wit_PilotClaims : (pairUp 1 id).pilotOn = true ∧ (claimFrame 8).length = 20 ∧ leAt (claimFrame 8) 0 1 % 16 = 1
    ∧ leAt (claimFrame 8) 16 4 = crc32 ((claimFrame 8).take 16) ∧ leAt (claimFrame 8) 12 4 = (pairUp 1 id).get .PILOT_PAIR_ID 0 0
    ∧ leAt (claimFrame 8) 4 4 / 2 ^ 28 = 8 ∧ bit (leAt (claimFrame 8) 8 4) 0 = true ∧ (pairUp 1 id).pilot.seenActive = false
    ∧ (pairUp 8 id).mustStandDown (9 * 2 ^ 28) = true ∧ (pairUp 1 id).hostHeld = false ∧ (pairUp 4 id).lostFrames ≤ 16
    ∧ (((pairUp 8 (fun w => { w with pass := 1 })).setFlag .WHARF_STATUS 0 0 9 true).setFld .PILOT_STATUS 0 0 11 8 4).journals = true
    ∧ (((pairUp 8 (fun w => { w with pass := 1 })).setFlag .WHARF_STATUS 0 0 9 true).setFld .PILOT_STATUS 0 0 11 8 4).inSync = true
    := by decide +kernel
theorem test_claim_sent : nextSat (exec .claimFrameSend (pairUp 8 id)) (fun t => t.flag .PILOT_STATUS 0 0 5) = true := by decide +kernel
theorem test_stands_by : nextSat (exec (.claimFrameReceived (claimFrame 8)) (pairUp 1 id)) (fun t => decide (t.rank = 4)) = true := by
  decide +kernel
theorem test_takeover : nextSat (exec .takeover ((pairUp 4 (fun w => { w with imgDone := some ⟨1, 0, []⟩ })).modPilot (fun p => { p with handover := true })))
    (fun t => decide (t.rank = 8)) = true := by decide +kernel
theorem test_startup_active : nextSat (exec .claimStartupDecision ((pairUp 1 id).modPilot (fun p => { p with periods := 100 }))) (fun t =>
    decide (t.rank = 8)) = true := by decide +kernel

/-! ### LogbookCommands -/

/-- An event waits, the next number is `n`, and the newest record is `r`. -/
def logUp (n : Nat) (r : List LogRec) : State := (up.set .LOG_CFG 0 0 10).modLog (fun l => { l with
  queue := [⟨0x0602, false, 1, 7, 5, 0, 0, none, []⟩], nextSeq := n, newestSeq := n - 1, pages := if r.isEmpty then [] else [r] })
/-- A record of the same code and key, one second before. -/
def logLast : LogRec := ⟨0x0602, false, false, 1024, 0, 0, 0, 0, 4, 0, 0, 1, 3, []⟩
theorem wit_LogbookCommands : (logUp 7 []).merges ⟨0x0602, false, 1, 7, 5, 0, 0, none, []⟩ = none
    ∧ (logUp 1024 []).log.pageRoom = true ∧ (logUp 1025 [logLast]).merges ⟨0x0602, false, 1, 7, 5, 0, 0, none, []⟩ = some logLast
    ∧ (logUp 7 []).log.dropped = 0 ∧ (logUp 7 []).hostHeld = false ∧ (logUp 7 []).pwrfail = false
    ∧ ((logUp 1025 [logLast]).set .LOG_RD_SEQ 0 0 1024).findRecord 1024 = some logLast.bytes := by decide +kernel
theorem test_log_merge : nextSat (exec .logRecordWrite (logUp 1025 [logLast])) (fun t => decide (t.log.pages.map (·.map (·.rep)) = [[1]])) = true := by
  decide +kernel
theorem test_log_read : nextSat (exec .logRead ((logUp 1025 [logLast]).set .LOG_RD_SEQ 0 0 1024)) (fun t =>
    decide (t.get .LOG_RD_STATUS 0 0 = 2 ∧ t.get .LOG_RD_DATA 1 0 = 1024)) = true := by decide +kernel

/-! ### UpdateCommands -/

/-- The boot record holds slot A of a code in a state, and the device may update. -/
def updUp (code state trial : Nat) : State := ((up.setFlag .PWR_STATUS 0 0 9 true).modUpd (fun u => { u with
  copies := [{ BootRec.blank with good := true, trial := trial, slots := (BootRec.blank.modSlot code 0 (fun x => { x with state := state })).slots },
    BootRec.blank]
  trialAt := some 0, trialOk := decide (trial ≠ 0) }))
theorem wit_UpdateCommands : (updUp 1 2 0).hostHeld = false ∧ (updUp 1 2 0).updTakes = true ∧ (updUp 1 2 0).bootRec.slots.length = 10
    ∧ (updUp 1 2 0).updGuard = 0 ∧ (updUp 1 2 0).bootRec.inState 1 2 = some 0 ∧ (updUp 1 2 0).activateRefusal 1 0 false = 0
    ∧ (updUp 4 4 4).bootRec.inState 4 4 = some 0 ∧ (updUp 4 4 4).bootRec.trial = 4 ∧ (updUp 4 4 4).loader = 6
    ∧ (updUp 4 4 4).flag .UPD_STATUS 0 0 3 = false ∧ (updUp 1 2 0).upd.jobs.length = 8
    ∧ firstFit (updUp 1 2 0).argCells 1 (updUp 1 2 0).argUsed = some 0
    ∧ (updUp 1 2 0).pwr.inReset = false := by decide +kernel
theorem test_activate_trial : nextSat (exec (.updActivate 0x10) (updUp 1 2 0)) (fun t => decide (t.bootRec.trial = 1)) = true := by
  decide +kernel
theorem test_commit_active : nextSat (exec .updCommit (updUp 4 4 4)) (fun t => decide ((t.bootRec.slot 4 0).state = 3)) = true := by
  decide +kernel
theorem test_revert_rejected : nextSat (exec .updRevert (updUp 5 4 5)) (fun t => decide ((t.bootRec.slot 5 0).state = 5)) = true := by
  decide +kernel

/-! ### EthPorts -/

/-- Port 1 is up at 10 Gb/s, with a frame for a known MAC in queue 2. -/
def ethUp1 : State := ((up.set .ETH_STATUS 1 0 11).set .PINS_ETH_EN 0 0 15).modEthPort 1 (fun p => { p with
  queues := updAt p.queues 2 (fun _ => [⟨none, 5, 0x86DD, zeros 60, none⟩]) })
theorem wit_EthPorts : ethUp1.ethUp 1 = true ∧ ethUp1.txQueue 1 = some 2 ∧ (ethUp1.ethPort 1).queues[2]? = some [⟨none, 5, 0x86DD, zeros 60, none⟩]
    ∧ 64 ≤ ethUp1.fld .ETH_CFG 1 0 13 0 ∧ ethUp1.eth.ports.length = 4 ∧ ethUp1.linkPort = 0 ∧ ethUp1.ethSpeed 1 5 = true
    ∧ ofBE (slice (zeros 12 ++ toBE 2 0x8808 ++ toBE 2 1 ++ toBE 2 9 ++ zeros 46) 12 2) = 0x8808
    ∧ ((ethUp1.set .ETH_CFG 1 0 0x10000).modEthPort 1 (fun p => { p with pauseEnd := 5 })).fld .ETH_CFG 1 0 23 16 ≠ 0
    ∧ (pairUp 8 (fun w => { w with region := 0 })).ethUp 0 = true
    ∧ ((pairUp 8 (fun w => { w with region := 0 })).ethPort 0).queues.getD 1 [] = [] := by decide +kernel
theorem test_eth_sends : nextSat (exec (.ethFrameTransmit 1) ethUp1) (fun t => decide (t.get .ETH_CNT 1 6 = 1)) = true := by decide +kernel
theorem test_eth_pause : nextSat (exec (.ethFrameReceived 1 (zeros 12 ++ toBE 2 0x8808 ++ toBE 2 1 ++ toBE 2 9 ++ zeros 46) true) ethUp1)
    (fun t => decide (t.get .ETH_CNT 1 8 = 1)) = true := by decide +kernel
theorem test_eth_down : nextSat (exec (.ethLinkChange 1 false true 5) ethUp1) (fun t => decide (t.get .ETH_CNT 1 7 = 1)) = true := by
  decide +kernel

/-! ### HostChannels -/

/-- A host whose ring 0 has three unread entries, of which two wait for their vector. -/
def hostRing (used : Nat) : State := up.modHost (fun h => { h with linkUp := true, busMaster := true, msixMasked := false, rings := updAt h.rings 0 (fun _ => ⟨true, used, 2, 0⟩) })
/-- Channel 12 copies 8 bytes of DDR-5 to offset 64. -/
def dmaUp (busy : Bool) : State := let s := ((((hostRing 0).modPwr (fun p => { p with ddrMiB := 1 })).set .DMA_CH_LEN 12 0 8).set .DMA_CH_DST_LO 12 0 64); if busy then (s.modDma (fun d => { d with ops := [(12, ⟨0, 0, 64, 0, 8, 0⟩)] })).set .DMA_CH_STATUS 12 0 1 else s
theorem wit_HostChannels : (hostRing 3).hostHeld = false ∧ (hostRing 3).host.rings[0]? = some ⟨true, 3, 2, 0⟩ ∧ (hostRing 3).ringSize 0 = 32768
    ∧ (2 + 32768 - (hostRing 3).get .DMA_CR_HEAD 0 0) % 32768 = 2 ∧ bit (1 : Word).toNat 0 = true ∧ (dmaUp false).get .DMA_CH_LEN 12 0 = 8
    ∧ (dmaUp true).flag .DMA_CH_STATUS 12 0 0 = true ∧ (dmaUp true).dmaOp 12 = ⟨0, 0, 64, 0, 8, 0⟩ ∧ (dmaUp true).devValid 0 8 = true
    ∧ (dmaUp true).devValid 64 8 = true ∧ (dmaUp false).flag .DMA_CH_STATUS 12 0 0 = false ∧ (hostRing 3).host.msixMasked = false
    ∧ ((hostRing 3).set .DMA_MSIX_CTRL 64 0 0).flag .DMA_MSIX_CTRL 64 0 0 = false := by decide +kernel
theorem test_head_frees : nextSat (exec (.crHeadWrite 0 2) (hostRing 3)) (fun t => decide ((t.host.rings.map (·.used)).head? = some 1)) = true := by
  decide +kernel
theorem test_dma_go : nextSat (exec (.dmaChannelGo 12 1) (dmaUp false)) (fun t => t.flag .DMA_STATUS 0 0 12) = true := by decide +kernel
theorem test_dma_done : nextSat (exec (.dmaChannelDone 12 false []) (dmaUp true)) (fun t => decide (t.pwr.devMem.length = 8)) = true := by
  decide +kernel

/-! ### PanelEvents -/

/-- A panel of 1 common and 8 segments in a phase. -/
def panelUp1 (f : PanelState → PanelState) : State := (fnUp 0x14 ((up.modPlan (fun p => { p with running := [⟨0x120, [⟨5, [0, 0, 1, 0, 1, 0, 0, 0]⟩]⟩] })).set
  .PANEL_CFG0 0 0 (1 + 8 * 2 ^ 4))).modPanel f
theorem wit_PanelEvents : (panelUp1 (fun p => { p with phase := .run })).runLength = 0 ∧ (panelUp1 id).segMask = 255
    ∧ (panelUp1 id).fnRunning 0x14 = true ∧ ((panelUp1 id).item? 0x120 5).isSome = true ∧ (panelUp1 id).hasSection 0x120 = true
    ∧ ((panelUp1 id).set .PANEL_BLINK_CTL 0 0 1).blinkDue 0 = 0 ∧ (panelUp1 id).hostHeld = false
    ∧ ((panelUp1 id).setFlag .PANEL_CFG1 0 0 24 true).flag .PANEL_CFG1 0 0 24 = true := by decide +kernel
theorem test_panel_starts : nextSat (exec .panelFrameBoundary (panelUp1 (fun p => { p with phase := .idle, pending := some 3 }))) (fun t =>
    decide (t.panel.run.driven = 3 ∧ t.panel.phase = .run)) = true := by decide +kernel
theorem test_panel_settles : nextSat (exec .panelHvSettled ((panelUp1 (fun p => { p with phase := .settle, next := .clear })).modTime (fun t => { t with ns := 10 ^ 9 })))
    (fun t => decide (t.panel.phase = .run)) = true := by decide +kernel
theorem test_panel_blink : nextSat (exec (.panelBlinkEdge 0) ((panelUp1 id).set .PANEL_BLINK_CTL 0 0 1)) (fun t => decide (t.panel.blink = [0])) = true := by
  decide +kernel

/-! ### PowerStates -/

/-- A device on backup in a power state, whose next event is at `at'`. -/
def powerUp (v at' : Nat) : State := ((up.setFlag .PWR_STATUS 0 0 6 true).setFld .PWR_STATUS 0 0 2 0 v).modPwr (fun p => { p with nextEvent := at' })
/-- A device whose entry to HIBERNATE began at 0, at an instant. -/
def hibUp (now : Nat) : State := (((powerUp 0 0).setStore 2).modPwr (fun p => { p with hibEntry := some (0, 9) })).modTime (fun t => { t with ns := now })
theorem wit_PowerStates : (powerUp 0 0).pwr.inReset = false ∧ (powerUp 0 0).pwrfail = false ∧ (powerUp 0 0).power = 0
    ∧ (powerUp 0 0).flag .PWR_STATUS 0 0 6 = true ∧ (powerUp 0 0).flag .PWR_STATUS 0 0 7 = false ∧ (powerUp 0 0).dispatchIdle = true
    ∧ (powerUp 0 0).tugsIdle = true ∧ (powerUp 0 0).airIdle = true ∧ (powerUp 0 0).nextEvent 500000000 = 500000000 ∧ (powerUp 0 0).loader = 6
    ∧ [3, 2, 1].find? (fun v => (powerUp 0 0).mayEnter v && decide (breakEven v + (powerUp 0 0).wakeMargin ≤ 500000000 - (powerUp 0 0).time.ns)) = some 2
    ∧ (powerUp 2 5).pwr.nextEvent ≤ (powerUp 2 5).time.ns + wakeMax 2 + (powerUp 2 5).wakeMargin ∧ (powerUp 3 0).power = 3
    ∧ (powerUp 0 0).pwrTakes = true ∧ (powerUp 0 0).pwr.passes = [] ∧ (powerUp 0 0).flag .PWR_STATUS 0 0 9 = false
    ∧ (powerUp 1 0).power = 1 ∧ ((powerUp 0 0).setStore 2).storeOn = true ∧ ((powerUp 0 0).setStore 7).storeState = 7
    ∧ (powerUp 0 0).pwr.hibEntry = none ∧ (hibUp 1).pwr.hibEntry = some (0, 9) ∧ (hibUp 1).idleOff.mayHibernate = true
    ∧ (hibUp 200000000).time.ns = 200000000 := by decide +kernel
theorem test_naps : nextSat (exec (.deviceIdle 500000000) (powerUp 0 0)) (fun t => decide (t.power = 2)) = true := by decide +kernel
theorem test_wakes : nextSat (exec .scheduledWake (powerUp 2 5)) (fun t => decide (t.power = 0)) = true := by decide +kernel
theorem test_last_gasp : nextSat (exec .lastGaspFrames (((powerUp 0 0).setStore 7).modPwr (fun p => { p with gasp := 1 }))) (fun t =>
    decide (t.power = 4)) = true := by decide +kernel
theorem test_bg_now : nextSat (exec (.pwrBgNow 1) (powerUp 0 0)) (fun t => decide (t.pwr.passes = [1])) = true := by decide +kernel

/-! ### BackgroundWork -/

theorem wit_BackgroundWork : up.pwr.inReset = false ∧ up.power = 0 ∧ (powerUp 2 0).power = 2 ∧ up.bgDue 0 60 = true
    ∧ ((up.bgRan 0)).bgDue 0 60 = false ∧ (fnUp 0x13 (routeAll 4 kTelemetry up)).fnRunning 0x13 = true
    ∧ (fnUp 0x13 (routeAll 4 kTelemetry up)).route 4 kTelemetry 0 noFlow = some 0 ∧ (fnUp 0x13 (routeAll 4 kTelemetry up)).berthOpen 0 = true
    ∧ (up.set .PINS_GPIO_EDGE 0 0 1).fld .PINS_GPIO_EDGE 0 0 1 0 = 1 ∧ up.gpioLevel 0 = false
    ∧ (up.modPwr (fun p => { p with gpio := 1 })).gpioLevel 0 = true := by decide +kernel
theorem test_scrub_pass : nextSat (exec (.sramScrubPass 3 []) up) (fun t => decide (t.get .GLOBAL_SCRUB_CORR_CNT 0 0 = 3)) = true := by
  decide +kernel
theorem test_patrol_marks : nextSat (exec (.ddrPatrol 0 [⟨.epRecord 7, 0⟩] false) up) (fun t => decide (t.ep.damaged = [7])) = true := by
  decide +kernel
theorem test_gpio_rises : nextSat (exec (.gpioEdge 0 true) (up.set .PINS_GPIO_EDGE 0 0 1)) (fun t => t.flag .PINS_GPIO_INT_LO 0 0 0) = true := by
  decide +kernel
end

section
/-!
PROOFS. The host's write of one whole dword of an RWL register (R13, R48, R484), and the register of RegisterWriteRwl
whose access mask holds bits that no write sets: NOTCH_3 (Table 5-14).
-/
namespace Sys2Proof.Machine

/-! ### The write of one whole dword -/

/-- An aligned access of four bytes touches one dword. -/
theorem dwordsOf_four {a : Nat} (h : a % 4 = 0) : dwordsOf a 4 = [a] := by
  have hone : (a + 4 - 1) / 4 - a / 4 + 1 = 1 := by omega
  have haddr : 4 * (a / 4) = a := by omega
  rw [dwordsOf, hone]
  simp [haddr]

/-- An access wakes nothing in RUN and DOZE, nor one to BAR2 in HIBERNATE (R455). -/
theorem State.accessWake_awake (s : State) (a : Nat) (h2 : s.power ≠ 2) (h3 : s.power = 3 → 0x400000 ≤ a) :
    s.accessWake a = s := by
  have hbar : ¬ (s.power = 3 ∧ a < 0x400000) := fun h => by have := h3 h.1; omega
  simp [State.accessWake, h2, hbar]

/-- A write of one whole dword that the host is not held off from, with no wake due, is the write of that dword. -/
theorem exec_registerWrite_dword (addr : Nat) (v : Word) (s : State) (ha : addr % 4 = 0) (hh : s.hostHeld = false)
    (h2 : s.power ≠ 2) (h3 : s.power = 3 → 0x400000 ≤ addr) :
    exec (.registerWrite addr (toLE 4 v.toNat)) s = .next (s.writeDword addr v.toNat) := by
  have hv : leAt (toLE 4 v.toNat) 0 4 = v.toNat := by
    rw [leAt_toLE]; exact Nat.mod_eq_of_lt v.isLt
  show execRegisterWrite addr (toLE 4 v.toNat) s = _
  simp [execRegisterWrite, hh, dwordsOf_four ha, State.accessWake_awake s addr h2 h3, hv]

/-- The write of a dword that a register holds is the write of that register. -/
theorem State.writeDword_of_regAt (s : State) {a : Nat} {r : Reg} {i j : Nat} (v : Nat) (h : regAt a = some (r, i, j)) :
    s.writeDword a v = s.writeReg r i j v := by
  rw [State.writeDword, h]

/-! ### RWL registers -/

/-- The write of a register with RWL bits alone sets the bits of its write mask and does nothing else (R48). -/
theorem State.writeReg_plainRwl {r : Reg} (h : r ∈ plainRwl) (s : State) (i j v : Nat) :
    s.writeReg r i j v = s.setMasked r i j (s.writeMask r i j) v := by
  repeat
    rcases List.mem_cons.mp h with rfl | h
    · rfl
  exact absurd h List.not_mem_nil

/-- In FAILED a write of NOTCH_3 sets the bits of groups 96 to 99 alone; [31:4] are reserved (Table 5-14). -/
theorem State.writeMask_notch3 (s : State) (i : Nat) (h : s.loader = 7) : s.writeMask .PLC_NOTCH i 3 = 0xF := by
  simp [State.writeMask, h, Reg.desc]

/-- A masked write sets the bits of its mask and leaves the others. -/
theorem State.get_setMasked (s : State) (r : Reg) (i j m v : Nat) (hm : m < 2 ^ 32) :
    (s.setMasked r i j m v).get r i j = (s.get r i j &&& (2 ^ 32 - 1 - m)) ||| (v &&& m) := by
  have hg := s.get_lt r i j
  by_cases h0 : m = 0
  · subst h0
    simp [State.setMasked, Nat.and_two_pow_sub_one_of_lt_two_pow hg]
  · have hlt : (s.get r i j &&& (2 ^ 32 - 1 - m)) ||| (v &&& m) < 2 ^ 32 :=
      Nat.or_lt_two_pow (Nat.and_lt_two_pow _ (by omega)) (Nat.and_lt_two_pow _ hm)
    simp only [State.setMasked, h0, if_false, State.get_set_same, Nat.mod_eq_of_lt hlt]

/-- In FAILED a host write of the NOTCH_3 of a segment leaves its reserved bits [31:4] as they were. -/
theorem exec_registerWrite_notch3 (addr i : Nat) (v : Word) (s : State) (hr : regAt addr = some (.PLC_NOTCH, i, 3))
    (ha : addr % 4 = 0) (hh : s.hostHeld = false) (h2 : s.power ≠ 2) (h3 : s.power ≠ 3) (hl : s.loader = 7) :
    Answers (exec (.registerWrite addr (toLE 4 v.toNat)) s) (fun t =>
      t.get .PLC_NOTCH i 3 = (s.get .PLC_NOTCH i 3 &&& 0xFFFFFFF0) ||| (v.toNat &&& 0xF)) := by
  refine ⟨_, exec_registerWrite_dword addr v s ha hh h2 (fun h => absurd h h3), ?_⟩
  rw [State.writeDword_of_regAt s _ hr, State.writeReg_plainRwl (by decide), State.writeMask_notch3 s i hl]
  exact State.get_setMasked s _ i 3 _ _ (by decide)

/-- A booted device whose plan load failed: the loader is in FAILED. -/
def failedLoad : State := (State.reset.modPwr (fun p => { p with inReset := false })).setLoader 7

/-- Refutes O10: the access mask of PLC.NOTCH is the same for its four words, but NOTCH_3 has RWL bits [3:0] alone
(Table 5-14). In FAILED, a write of 0x10 to NOTCH_3 of segment 0 (0x6005C) leaves it 0, where the statement asks for
0x10. -/
theorem not_registerWriteRwl : ¬ Obligations.RegisterWriteRwl := by
  unfold Obligations.RegisterWriteRwl
  rintro ⟨hwrite, -⟩
  have hr : regAt 0x6005C = some (.PLC_NOTCH, 0, 3) := by decide
  have hh : failedLoad.hostHeld = false := by decide
  have h2 : failedLoad.power ≠ 2 := by decide
  have h3 : failedLoad.power ≠ 3 := by decide
  have hl : failedLoad.loader = 7 := by decide
  obtain ⟨-, hfailed⟩ := hwrite 0x6005C .PLC_NOTCH 0 3 0x10#32 failedLoad hr (by decide) (by decide) hh h2 h3
  obtain ⟨t, ht, hasked, -⟩ := hfailed hl
  obtain ⟨u, hu, hheld⟩ := exec_registerWrite_notch3 0x6005C 0 0x10#32 failedLoad hr (by decide) hh h2 h3 hl
  obtain rfl : t = u := Host.Outcome.next.inj (ht.symm.trans hu)
  exact absurd (hasked.symm.trans hheld) (by decide)

end Sys2Proof.Machine
end

section
/-!
PROOFS. The failure of a tug on a manifest's second retry with the dead-letter berth full (R63, R76, R77): the fate of
the dropped copy, and that the reports which follow it undo none of it.
-/
namespace Sys2Proof.Machine

/-! ### Vectors, interrupts and events -/

@[simp] theorem State.sendVector_hm (s : State) (v : Nat) : (s.sendVector v).hm = s.hm := by
  rw [State.sendVector]; split <;> rfl

@[simp] theorem State.sendVector_log (s : State) (v : Nat) : (s.sendVector v).log = s.log := by
  rw [State.sendVector]; split <;> rfl

/-- A raise sets its bit and sends at most a vector (R409). -/
theorem State.raise_cases (s : State) (r : Reg) (i b : Nat) :
    s.raise r i b = s.setFlag r i 0 b true ∨ ∃ v, s.raise r i b = (s.setFlag r i 0 b true).sendVector v := by
  rw [State.raise]
  split
  · split
    · exact .inl rfl
    · exact .inr ⟨_, rfl⟩
  · exact .inl rfl

@[simp] theorem State.raise_hm (s : State) (r : Reg) (i b : Nat) : (s.raise r i b).hm = s.hm := by
  rcases s.raise_cases r i b with h | ⟨v, h⟩ <;> simp [h]

@[simp] theorem State.raise_log (s : State) (r : Reg) (i b : Nat) : (s.raise r i b).log = s.log := by
  rcases s.raise_cases r i b with h | ⟨v, h⟩ <;> simp [h]

/-- The Logbook queue after an event that finds room: the record is its newest entry (R380). -/
theorem State.event_of_room {s : State} (code key detail : Nat) (h : s.log.queue.length < 64) :
    ∃ x : LogEvent, x.code = code ∧ x.detail = detail % 2 ^ 32 ∧
      s.event code key detail = s.modLog (fun l => { l with queue := l.queue ++ [x] }) := by
  rw [State.event, State.logPut, if_pos h]
  exact ⟨_, rfl, rfl, rfl⟩

/-- An event that finds no room is counted, and LOG.INT says so (R380). -/
theorem State.event_of_full {s : State} (code key detail : Nat) (h : ¬ s.log.queue.length < 64) :
    s.event code key detail =
      ((s.modLog (fun l => { l with dropped := l.dropped + 1 })).count .LOG_LOST_CNT 0 0 1).raise .LOG_INT 0 0 := by
  rw [State.event, State.logPut, if_neg h]

@[simp] theorem State.event_hm (s : State) (code key detail : Nat) : (s.event code key detail).hm = s.hm := by
  by_cases h : s.log.queue.length < 64
  · obtain ⟨x, -, -, hx⟩ := s.event_of_room code key detail h
    rw [hx, State.modLog_hm]
  · simp [s.event_of_full code key detail h]

/-! ### What a report leaves -/

/-- From `s` to `t` the device has only reported: of the Harbourmaster's state only the starved kinds differ, no bit of
HM.INT was cleared, and the Logbook queue lost no record. -/
structure State.Reported (s t : State) : Prop where
  hm : t.hm = { s.hm with starved := t.hm.starved }
  int : ∀ b, s.flag .HM_INT 0 0 b = true → t.flag .HM_INT 0 0 b = true
  queue : s.log.queue ⊆ t.log.queue

theorem State.Reported.refl (s : State) : s.Reported s := ⟨rfl, fun _ h => h, List.Subset.refl _⟩

theorem State.Reported.trans {s t u : State} (h : s.Reported t) (g : t.Reported u) : s.Reported u where
  hm := by rw [g.hm, h.hm]
  int b hb := g.int b (h.int b hb)
  queue := List.Subset.trans h.queue g.queue

theorem State.Reported.foldl {α : Type} {g : State → α → State} (h : ∀ (s : State) a, s.Reported (g s a))
    (l : List α) (s : State) : s.Reported (l.foldl g s) := by
  induction l generalizing s with
  | nil => exact .refl s
  | cons a l ih => exact (h s a).trans (ih (g s a))

/-- A write above HM.INT in the register map is no more than a report. -/
theorem State.Reported.set (s : State) {r : Reg} (i j v : Nat) (h : Reg.addr .HM_INT 0 0 < r.desc.base) :
    s.Reported (s.set r i j v) := by
  have hne : r.addr i j ≠ Reg.addr .HM_INT 0 0 := by rw [Reg.addr]; omega
  refine ⟨rfl, fun b hb => ?_, List.Subset.refl _⟩
  rwa [State.flag, State.fld, s.get_set_ne r .HM_INT i j 0 0 v hne]

theorem State.Reported.setFld (s : State) {r : Reg} (i j hi lo v : Nat) (h : Reg.addr .HM_INT 0 0 < r.desc.base) :
    s.Reported (s.setFld r i j hi lo v) := .set s i j _ h

theorem State.Reported.setFlagHmInt (s : State) {b : Nat} (h : b < 32) : s.Reported (s.setFlag .HM_INT 0 0 b true) := by
  refine ⟨rfl, fun c hc => ?_, List.Subset.refl _⟩
  by_cases hb : b = c
  · subst hb; exact s.flag_setFlag_same .HM_INT 0 0 b true h
  · rwa [s.flag_setFlag_ne .HM_INT 0 0 b c true h hb]

theorem State.Reported.sendVector (s : State) (v : Nat) : s.Reported (s.sendVector v) := by
  rw [State.sendVector]
  split
  · exact .setFld s (r := .DMA_PBA) (v / 32) 0 (v % 32) (v % 32) 1 (by decide)
  · exact ⟨rfl, fun _ h => h, List.Subset.refl _⟩

/-- A raise reports when the bit it sets does. -/
theorem State.Reported.raise {s : State} {r : Reg} {i b : Nat} (h : s.Reported (s.setFlag r i 0 b true)) :
    s.Reported (s.raise r i b) := by
  rcases s.raise_cases r i b with e | ⟨v, e⟩
  · rwa [e]
  · rw [e]; exact h.trans (.sendVector _ v)

theorem State.Reported.raiseHmInt (s : State) {b : Nat} (h : b < 32) : s.Reported (s.raise .HM_INT 0 b) :=
  .raise (.setFlagHmInt s h)

theorem State.Reported.event (s : State) (code key detail : Nat) : s.Reported (s.event code key detail) := by
  by_cases h : s.log.queue.length < 64
  · obtain ⟨x, -, -, hx⟩ := s.event_of_room code key detail h
    rw [hx]
    exact ⟨rfl, fun _ h => h, List.subset_append_left _ _⟩
  · rw [s.event_of_full code key detail h]
    have hdrop : s.Reported (s.modLog (fun l => { l with dropped := l.dropped + 1 })) :=
      ⟨rfl, fun _ h => h, List.Subset.refl _⟩
    exact (hdrop.trans (.set _ 0 0 _ (by decide))).trans (.raise (.setFld _ 0 0 0 0 1 (by decide)))

/-- Noting a starved kind is a report (R68). -/
theorem State.Reported.noteStarved (s : State) (k : Nat) : s.Reported (s.noteStarved k) := by
  rw [State.noteStarved]
  split
  · exact .refl s
  · have hlist : s.Reported (s.modHm (fun h => { h with starved := k :: h.starved })) :=
      ⟨rfl, fun _ h => h, List.Subset.refl _⟩
    exact (hlist.trans (.raiseHmInt _ (by decide))).trans (.event _ _ _ _)

theorem State.Reported.starveCheck (s : State) : s.Reported s.starveCheck :=
  .foldl State.Reported.noteStarved _ s

/-- Fencing a tug is a report: what moves is its own registers, HM.INT and the Logbook queue (R76). -/
theorem State.Reported.fenceTug (s : State) (t cause kind : Nat) : s.Reported (s.fenceTug t cause kind) := by
  rw [State.fenceTug]
  split
  · exact .refl s
  · refine .trans ?_ (.event _ 0x0201 t (cause + kind * 2 ^ 8))
    refine .trans ?_ (.raiseHmInt _ (by decide))
    refine .trans ?_ (.setFld _ (r := .TUG_FLEET_STATUS) 0 0 17 9 _ (by decide))
    refine .trans ?_ (.setFld _ (r := .TUG_FLEET_STATUS) 0 0 8 0 _ (by decide))
    refine .trans ?_ (.set _ (r := .TUG_FAIL_LAST) 0 0 _ (by decide))
    exact .setFld s (r := .TUG_FENCED) (t / 32) 0 (t % 32) (t % 32) _ (by decide)

/-! ### A third failure with the dead-letter berth full (R63) -/

/-- From `s` to `t` the manifest `m` of slot `n` was poisoned and its dead-letter copy dropped. -/
structure State.CopyDropped (s t : State) (n : Nat) (m : Manifest) : Prop where
  slot : ∃ e, t.slot? n = some e ∧ e.m.status = 5 ∧ e.m.retry = 3 ∧ e.tug = none ∧ e.stage = []
  dead : t.hm.dead = s.hm.dead
  overflow : t.hm.dlOverflow = min 0xFFFF (s.hm.dlOverflow + 1)
  int : t.flag .HM_INT 0 0 2 = true
  record : ∃ x ∈ t.log.queue, x.code = 0x0204 ∧ x.detail = m.flow % 2 ^ 32

/-- Reports that follow undo none of it. -/
theorem State.CopyDropped.reported {s t u : State} {n : Nat} {m : Manifest} (h : s.CopyDropped t n m)
    (g : t.Reported u) : s.CopyDropped u n m where
  slot := by rw [State.slot?, g.hm]; exact h.slot
  dead := by rw [g.hm]; exact h.dead
  overflow := by rw [g.hm]; exact h.overflow
  int := g.int 2 h.int
  record :=
    let ⟨x, hx, hrec⟩ := h.record
    ⟨x, g.queue hx, hrec⟩

/-- The drop of a dead-letter copy: count, interrupt and record. -/
def State.dropCopy (s : State) (m : Manifest) : State :=
  ((s.modHm (fun h => { h with dlOverflow := satAdd 0xFFFF h.dlOverflow 1 })).raise .HM_INT 0 2).event 0x0204 0 m.flow

theorem State.dropCopy_hm (s : State) (m : Manifest) :
    (s.dropCopy m).hm = { s.hm with dlOverflow := min 0xFFFF (s.hm.dlOverflow + 1) } := by
  simp [State.dropCopy, satAdd]

theorem State.dropCopy_int (s : State) (m : Manifest) : (s.dropCopy m).flag .HM_INT 0 0 2 = true := by
  refine (State.Reported.event _ _ _ _).int 2 ?_
  rcases State.raise_cases (s.modHm _) .HM_INT 0 2 with h | ⟨v, h⟩
  · rw [h]; exact State.flag_setFlag_same _ _ _ _ _ _
  · rw [h]; exact (State.Reported.sendVector _ v).int 2 (State.flag_setFlag_same _ _ _ _ _ _)

theorem State.dropCopy_record {s : State} (m : Manifest) (hq : s.log.queue.length < 64) :
    ∃ x ∈ (s.dropCopy m).log.queue, x.code = 0x0204 ∧ x.detail = m.flow % 2 ^ 32 := by
  obtain ⟨x, hcode, hdetail, hx⟩ := State.event_of_room
    (s := (s.modHm (fun h => { h with dlOverflow := satAdd 0xFFFF h.dlOverflow 1 })).raise .HM_INT 0 2)
    0x0204 0 m.flow (by simpa using hq)
  exact ⟨x, by simp [State.dropCopy, hx], hcode, hdetail⟩

/-- Poisoning with the dead-letter berth full drops the copy (R63). -/
theorem State.poison_copyDropped {s : State} {n : Nat} {e : Slot Effect} (d : Nat) (he : s.slot? n = some e)
    (hd : 1024 ≤ s.hm.dead.length) (hq : s.log.queue.length < 63) : s.CopyDropped (s.poison n d) n e.m := by
  obtain ⟨x, -, -, hx⟩ := State.event_of_room (s := (s.count .HM_POISON_CNT 0 0 1).raise .HM_INT 0 1)
    0x0203 e.m.kind e.m.flow (by simp; omega)
  have hp : s.poison n d = (State.dropCopy
      (((s.count .HM_POISON_CNT 0 0 1).raise .HM_INT 0 1).event 0x0203 e.m.kind e.m.flow) e.m).modSlot n (fun e =>
        { e with
          tug := none, m := { e.m with retry := 3, status := 5, lastDock := d, lastDockValid := true }, stage := [],
          loads := [], stale := false, dockPages := 0, ddrPages := 0 }) := by
    simp only [State.poison, he, hd, decide_true, if_true, State.dropCopy]
  have hslot : Map.get? s.hm.slots n = some e := he
  rw [hp]
  exact {
    slot := by simp [State.slot?, State.modSlot, State.dropCopy_hm, Map.get?_upd, hslot]
    dead := by simp [State.modSlot, State.dropCopy_hm]
    overflow := by simp [State.modSlot, State.dropCopy_hm]
    int := State.dropCopy_int _ _
    record := State.dropCopy_record e.m (by simp [hx]; omega) }

/-- A tug that fails on a second retry poisons its manifest; what follows is its fencing and the watch for starved kinds
(R76, R77). -/
theorem State.tugFails_secondRetry {s : State} {tug n : Nat} {e : Slot Effect} (cause : Nat) (ht : tug < 256)
    (hf : s.tugFenced tug = false) (hs : s.slotOfTug tug = some n) (he : s.slot? n = some e) (hc : e.cancelled = false)
    (hr : e.m.retry = 2) :
    s.tugFails tug cause = ((s.poison n (tug / 16)).fenceTug tug cause e.m.kind).starveCheck := by
  simp [State.tugFails, State.failManifest, ht, hf, hs, he, hc, hr]

/-- Whatever makes the tug fail, the dead-letter copy is dropped. -/
theorem State.tugFails_copyDropped {s : State} {tug n : Nat} {e : Slot Effect} (cause : Nat) (ht : tug < 256)
    (hf : s.tugFenced tug = false) (hs : s.slotOfTug tug = some n) (he : s.slot? n = some e) (hc : e.cancelled = false)
    (hr : e.m.retry = 2) (hd : 1024 ≤ s.hm.dead.length) (hq : s.log.queue.length < 63) :
    s.CopyDropped (s.tugFails tug cause) n e.m := by
  rw [State.tugFails_secondRetry cause ht hf hs he hc hr]
  exact (s.poison_copyDropped (tug / 16) he hd hq).reported ((State.Reported.fenceTug _ _ _ _).trans (.starveCheck _))

/-- An uncorrectable error of the local store makes the tug fail (R76). -/
theorem exec_tugFailure_localStore {tug : Nat} (s : State) (ht : tug < 256) :
    exec (.tugFailure tug 1) s = .next (s.tugFails tug 1) := by
  show execTugFailure tug 1 s = _
  simp [execTugFailure, ht]

/-- The watchdog of a tug that executes a manifest makes it fail (R76). -/
theorem exec_tugWatchdogExpire_executing {s : State} {tug n : Nat} (hs : s.slotOfTug tug = some n) :
    exec (.tugWatchdogExpire tug) s = .next (s.tugFails tug 3) := by
  show execTugWatchdogExpire tug s = _
  simp [execTugWatchdogExpire, hs]

/-- Settles O21: both failures come to `tugFails`, which drops the copy as it poisons the manifest. -/
theorem thirdFailure : Obligations.ThirdFailure := by
  unfold Obligations.ThirdFailure
  intro tug n e s ht hf hs he hc hr hd hq t hexec
  have hdropped (cause : Nat) : s.CopyDropped (s.tugFails tug cause) n e.m :=
    State.tugFails_copyDropped cause ht hf hs he hc hr hd (by omega)
  have hfails : ∃ cause, s.tugFails tug cause = t := by
    rcases hexec with h | h
    · exact ⟨1, Host.Outcome.next.inj ((exec_tugFailure_localStore s ht).symm.trans h)⟩
    · exact ⟨3, Host.Outcome.next.inj ((exec_tugWatchdogExpire_executing hs).symm.trans h)⟩
  obtain ⟨cause, rfl⟩ := hfails
  obtain ⟨hslot, hdead, hover, hint, hrec⟩ := hdropped cause
  exact ⟨hslot, hdead, hover, hint, hrec⟩

end Sys2Proof.Machine
end

section
/-!
PROOFS. The watchdog (R448): when it counts, its restart, its warning at half the timeout and its reset at the timeout.
-/
namespace Sys2Proof.Machine

/-! ### What a raised interrupt sets and leaves -/

/-- Sending a vector leaves every register alone but the PBA word that may record it (R409). -/
theorem State.get_sendVector_ne (s : State) (v : Nat) (r : Reg) (i j : Nat)
    (h : Reg.addr .DMA_PBA (v / 32) 0 ≠ r.addr i j) : (s.sendVector v).get r i j = s.get r i j := by
  rw [State.sendVector]
  split
  · exact s.get_setFlag_ne .DMA_PBA r (v / 32) 0 i j (v % 32) true h
  · rfl

/-- Sending a vector moves the registers and the host alone. -/
theorem State.sendVector_frame (s : State) (v : Nat) :
    s.sendVector v = { s with regs := (s.sendVector v).regs, host := (s.sendVector v).host } := by
  rw [State.sendVector]; split <;> rfl

/-- A raise moves the registers and the host alone (R409). -/
theorem State.raise_frame (s : State) (r : Reg) (i b : Nat) :
    s.raise r i b = { s with regs := (s.raise r i b).regs, host := (s.raise r i b).host } := by
  rcases s.raise_cases r i b with h | ⟨v, h⟩
  · rw [h]; rfl
  · rw [h]; exact State.sendVector_frame _ v

@[simp] theorem State.raise_pwr (s : State) (r : Reg) (i b : Nat) : (s.raise r i b).pwr = s.pwr := by
  rw [s.raise_frame r i b]

/-- A raised bit of PWR.INT reads 1: its vector 33 is recorded elsewhere, in PBA word 1 (R409). -/
theorem State.flag_raise_pwrInt (s : State) {b : Nat} (h : b < 32) : (s.raise .PWR_INT 0 b).flag .PWR_INT 0 0 b = true := by
  have hset : (s.setFlag .PWR_INT 0 0 b true).flag .PWR_INT 0 0 b = true := s.flag_setFlag_same .PWR_INT 0 0 b true h
  have hraise : s.raise .PWR_INT 0 b = s.setFlag .PWR_INT 0 0 b true ∨
      s.raise .PWR_INT 0 b = (s.setFlag .PWR_INT 0 0 b true).sendVector 33 := by
    simp only [State.raise, Reg.vector]
    split
    · exact .inl rfl
    · exact .inr rfl
  rcases hraise with e | e
  · rwa [e]
  · rwa [e, State.flag, State.fld, State.get_sendVector_ne _ 33 .PWR_INT 0 0 (by decide)]

/-! ### What a reset leaves in PWR.STATUS -/

/-- The PLC segments and the held downlinks are no part of the register file. -/
theorem State.get_withPlc (s : State) (plc : List PlcSeg) (held : List (Nat × Effect)) (r : Reg) (i j : Nat) :
    State.get { s with plc := plc, heldDown := held } r i j = s.get r i j := rfl

/-- The wipe of a reset writes the cause to PWR.STATUS and keeps HOLDUP_OK (Table 18-10). -/
theorem State.wipe_get_pwrStatus (s : State) (cause : Nat) (kept : Bool) :
    (s.wipe cause kept).get .PWR_STATUS 0 0 = (cause * 2 ^ 3 + s.fld .PWR_STATUS 0 0 9 9 * 2 ^ 9) % 2 ^ 32 := by
  simp only [State.wipe, State.get_withPlc, State.modPwr_get, State.modStore_get, State.modUpd_get, State.modBond_get,
    State.modPilot_get, State.modWharf_get, State.modCraft_get, State.modRadio_get, State.modTime_get, State.modHost_get,
    State.modEp_get, State.modBal_get, State.modEth_get, State.modDma_get, State.modHm_get, State.modPlan_get,
    State.get_set_same]

/-- After a wipe PWR.STATUS names the cause (R467). -/
theorem State.wipe_cause (s : State) {cause : Nat} (kept : Bool) (h : cause < 8) :
    (s.wipe cause kept).fld .PWR_STATUS 0 0 5 3 = cause := by
  have hok : s.fld .PWR_STATUS 0 0 9 9 < 2 := bits_lt _ 9 9
  rw [State.fld, State.wipe_get_pwrStatus, bits, Nat.shiftRight_eq_div_pow]
  omega

/-- A reset names its cause in PWR.STATUS (Table 18-10). -/
theorem State.takeReset_cause (s : State) {cause : Nat} (kept : Bool) (h : cause < 8) :
    (s.takeReset cause kept).fld .PWR_STATUS 0 0 5 3 = cause :=
  State.wipe_cause _ kept h

/-- A reset holds until BOOT. -/
theorem State.takeReset_inReset (s : State) (cause : Nat) (kept : Bool) : (s.takeReset cause kept).pwr.inReset = true :=
  rfl

/-! ### The restart -/

/-- A write of 0xC35A to PWR.WDT_KICK restarts the count (R448). -/
theorem exec_watchdogKick_restart {v : Word} {s : State} (hh : s.hostHeld = false) (hv : bits v.toNat 15 0 = 0xC35A) :
    exec (.watchdogKick v) s = .next { s with pwr := { s.pwr with kicked := s.time.ns, warned := false } } := by
  show execWatchdogKick v s = _
  simp [execWatchdogKick, hh, hv, State.modPwr]

/-- Any other value written there is ignored (R448). -/
theorem exec_watchdogKick_ignored {v : Word} {s : State} (hh : s.hostHeld = false) (hv : bits v.toNat 15 0 ≠ 0xC35A) :
    exec (.watchdogKick v) s = .next s := by
  show execWatchdogKick v s = _
  simp [execWatchdogKick, hh, hv]

/-! ### The count, its warning and its reset -/

/-- The watchdog counts only in SEALED, and with a timeout (R448). -/
theorem State.watching_eq_false {s : State} (h : s.loader ≠ 6 ∨ s.fld .PWR_WDT_CFG 0 0 15 0 = 0) :
    s.watching = false := by
  rcases h with h | h <;> simp [State.watching, h]

/-- While the watchdog does not count, or before half its timeout, WATCHDOG_HALF does nothing. -/
theorem exec_watchdogHalf_idle {s : State}
    (h : s.watching = false ∨ s.time.ns < s.pwr.kicked + 500000 * s.fld .PWR_WDT_CFG 0 0 15 0) :
    exec .watchdogHalf s = .next s := by
  show execWatchdogHalf s = _
  rcases h with hw | ht
  · simp [execWatchdogHalf, hw]
  · simp [execWatchdogHalf, Nat.not_le.mpr ht]

/-- Once half the timeout has passed WATCHDOG_HALF gives the one warning of a restart. -/
theorem exec_watchdogHalf_due {s : State} (hw : s.watching = true) (hn : s.pwr.warned = false)
    (ht : s.pwr.kicked + 500000 * s.fld .PWR_WDT_CFG 0 0 15 0 ≤ s.time.ns) :
    exec .watchdogHalf s = .next ((s.modPwr (fun p => { p with warned := true })).raise .PWR_INT 0 4) := by
  show execWatchdogHalf s = _
  simp [execWatchdogHalf, hw, hn, ht]

/-- While the watchdog does not count, or before its timeout, WATCHDOG_RESET does nothing. -/
theorem exec_watchdogReset_idle {s : State}
    (h : s.watching = false ∨ s.time.ns < s.pwr.kicked + 1000000 * s.fld .PWR_WDT_CFG 0 0 15 0) :
    exec .watchdogReset s = .next s := by
  show execWatchdogReset s = _
  rcases h with hw | ht
  · simp [execWatchdogReset, hw]
  · simp [execWatchdogReset, Nat.not_le.mpr ht]

/-- Once the timeout has passed WATCHDOG_RESET takes the watchdog reset, which keeps the fencing (R79). -/
theorem exec_watchdogReset_due {s : State} (hw : s.watching = true)
    (ht : s.pwr.kicked + 1000000 * s.fld .PWR_WDT_CFG 0 0 15 0 ≤ s.time.ns) :
    exec .watchdogReset s = .next (s.takeReset 2 true) := by
  show execWatchdogReset s = _
  simp [execWatchdogReset, hw, ht]

/-- Settles O16: each clause is one case of the kick, of WATCHDOG_HALF or of WATCHDOG_RESET. -/
theorem watchdog : Obligations.Watchdog := by
  unfold Obligations.Watchdog
  refine ⟨fun v s hh => ⟨exec_watchdogKick_restart hh, exec_watchdogKick_ignored hh⟩, fun s hoff => ?_, fun s ht => ?_,
    fun s ht => exec_watchdogReset_idle (.inr ht), fun s hw hn ht => ?_, fun s hw ht => ?_⟩
  · have hw : s.watching = false := State.watching_eq_false hoff
    exact ⟨exec_watchdogHalf_idle (.inl hw), exec_watchdogReset_idle (.inl hw)⟩
  · have hfull : s.time.ns < s.pwr.kicked + 1000000 * s.fld .PWR_WDT_CFG 0 0 15 0 := by omega
    exact ⟨exec_watchdogHalf_idle (.inr ht), exec_watchdogReset_idle (.inr hfull)⟩
  · refine ⟨_, exec_watchdogHalf_due hw hn ht, State.flag_raise_pwrInt _ (by decide), State.raise_pwr _ _ _ _, ?_⟩
    rw [State.raise_pwr]
    exact State.raise_frame _ _ _ _
  · exact ⟨_, exec_watchdogReset_due hw ht, s.takeReset_inReset 2 true, s.takeReset_cause true (by decide)⟩

end Sys2Proof.Machine
end
